-- ==== Sys2Proof/Word.lean ====
section
/-! DEFINITION. The word types of the NV96 model and their plainest arithmetic. -/

namespace Sys2Proof

/-- One byte of any of the block's memories. -/
abbrev Byte := BitVec 8

/-- A string of bytes in rising address order. Multi-byte values in it are little-endian (R10). -/
abbrev Bytes := List (BitVec 8)

/-- A 64-bit register or memory word. -/
abbrev Word := BitVec 64

end Sys2Proof
end

