-- ==== Sys2Proof/Syntax.lean ====
section
/-! DEFINITION. The commands of the NV96 block: one constructor of `Instr` for each row of the table of operations and
events, with the operands that the sender of the command supplies. The table gives no operands (its `fields` are empty),
so the operands are the model's: what the rule of the row lets the outside decide (log 9). -/

namespace Sys2Proof

/-! ## What senders hand over -/

/-- A store of host software into host memory that the module's next reads see (R338). -/
structure HostStore where
  addr  : Nat
  bytes : Bytes
  deriving DecidableEq, Repr

/-- A sequence command or STOP_JOB as the job leader fans it out on CTRL (R353): the command's 128 bytes and what the
leader decided for every rank. -/
structure Fanout where
  cmd      : Bytes
  /-- The leader's number for the command, returned when the rank reports that it has finished (R166). -/
  key      : Nat
  /-- SEQ_OPEN: the virtual base and the opening time of the leader (R154, R155).  SEQ_EDIT_PAGES: in place of the base, 0 to check the list
  and apply it, 1 to check it only, 2 to apply what every rank has checked (R168; log 29). -/
  vbase    : Nat
  openTime : Nat
  /-- SEQ_EDIT_PAGES: the edit list (Table 05-7). -/
  list     : Bytes
  deriving DecidableEq, Repr

/-- An event as a unit raises it, before the arbiter numbers it (R299). -/
structure RawEvent where
  code   : Nat
  source : Nat
  detail : Nat
  deriving DecidableEq, Repr

/-- The leader's notice of a pass (Table 11-7 steps 1 to 3). -/
structure PassNotice where
  /-- The rank that the notice is for. -/
  rank      : Nat
  kind      : Nat
  seq       : Nat
  step      : Nat
  l0        : Nat
  e         : Nat
  pending   : Nat
  sampleArg : Nat
  /-- The token identities of this rank's runs, run 0 first. -/
  tokens    : List Nat
  deriving DecidableEq, Repr

/-- A rank's report at the end of a pass (R360): what poisoned it. -/
structure PassFlags where
  poisoned : Bool
  shape    : Bool
  capacity : Bool
  deriving DecidableEq, Repr

/-- The leader's broadcast of a commit (Table 13-6 step 5). -/
structure CommitMsg where
  seq     : Nat
  length  : Nat
  e       : Nat
  /-- The sequence's pending token and STATE after the commit (R488, R178). -/
  pending : Nat
  state   : Nat
  deriving DecidableEq, Repr

/-- One sequence's part of a state record (R414). -/
structure SeqImage where
  seq       : Nat
  entry     : Bytes
  deriving DecidableEq, Repr

/-- Progress of a running or held sequence command in a state record (R352, R414). -/
structure Progress where
  /-- Command number on ring 0 (free-running), its 128 bytes, and whether it is held. -/
  index   : Nat
  bytes   : Bytes
  held    : Bool
  steps   : Nat
  tokens  : Nat
  passes  : Nat
  /-- Place in the pass order of R358, and whether the pending token was taken as its first (R488). -/
  order   : Nat
  tookPend : Bool
  /-- Whether it has started. -/
  started : Bool
  deriving DecidableEq, Repr

/-- A state record (R414). -/
structure StateRec where
  seqs     : List SeqImage
  progress : List Progress
  /-- Pair-ring indices of R351. -/
  sqHead   : Nat
  cqCount  : Nat
  /-- The sender's CRC-32C of the lines written last in each mirror area (Table 13-6 step 2). -/
  crc      : Nat
  /-- 1: the share goes back to the replacement with this record (Table 13-8 step 6); 2: the sender hands its share over (R425). -/
  hand     : Nat
  /-- Job state (Table 13-5): the swap area and the host regions. -/
  swapAddr  : Nat
  swapBytes : Nat
  regions   : List (Nat × Nat)
  /-- Words of the job-scope semaphores and of the host command semaphores, which keep their values from pass to pass (R287, R420). -/
  sems      : List (Nat × Nat)
  deriving DecidableEq, Repr

/-- What a rank asks the leader when both its tiers are empty (R176, R183), and the leader's answer that no sequence qualifies (R177). -/
inductive VictimWhy where
  /-- A frame for a page of the sequence, or frames for its Flood. -/
  | pool
  | flood
  /-- The leader to the rank: no sequence qualifies for the one or the other. -/
  | noPool
  | noFlood
  deriving DecidableEq, Repr

/-- What a member mirrors to its partner besides state records (R351, R414, R421). -/
inductive MirrorMsg where
  /-- An appended record of a page. -/
  | record (seq layer page slot : Nat) (bytes : Bytes)
  /-- Bytes of a scratch-resident, lagoon-resident or writable buffer, at their offset in the context area. -/
  | context (offset : Nat) (bytes : Bytes)
  /-- A command taken on ring 0. -/
  | command (index : Nat) (bytes : Bytes)
  /-- A completion entry before it is written. -/
  | completion (index cmd : Nat) (bytes : Bytes)
  /-- A task journal entry of a non-step command: the leader's key of it, and the rank. -/
  | journal (key : Nat) (rank : Nat)
  /-- Records of a page from `slot` on, and context bytes, of the failed share, for the replacement that takes it back (Table 13-8
  steps 2 and 3). -/
  | back (seq layer page slot : Nat) (bytes : Bytes)
  | backContext (offset : Nat) (bytes : Bytes)
  deriving DecidableEq, Repr

/-- A commit notice as the leader mirrors it to its partner (R417). -/
structure CommitNotice where
  seq     : Nat
  e       : Nat
  pending : Nat
  deriving DecidableEq, Repr

/-- Whose WAIT completes (R282). -/
inductive Waiter where
  /-- Wait entry `slot` of the operation in a context of a cove. -/
  | context (cove : Fin 512) (ctx : Fin 4) (slot : Fin 4)
  /-- Wait entry `slot` of the operation at a queue head (R66); `second` names the queue of the second rank context. -/
  | head (cove : Fin 512) (second : Bool) (slot : Fin 4)
  /-- The semaphore wait of a taken command (R346). -/
  | command (id : Nat)
  /-- A thread in nv.wait. -/
  | thread (cove : Fin 512) (thread : Fin 4)
  /-- A Longshore channel at a WAIT. -/
  | channel (engine : Fin 40) (ch : Fin 32)
  deriving DecidableEq, Repr

/-- A receiver's grant of a ring step (R194); `toRank` is the rank it is for, `dir` the direction of the step. -/
structure TideGrant where
  toRank : Nat
  die    : Fin 2
  step   : Nat
  dir    : Nat
  layer  : Nat
  seq    : Nat
  deriving DecidableEq, Repr

/-- A ring piece: the slot's header and pages as they arrive (R194). -/
structure TidePiece where
  toRank : Nat
  die    : Fin 2
  step   : Nat
  dir    : Nat
  header : Bytes
  pages  : Bytes
  deriving DecidableEq, Repr

/-- A segment of up to 4 KiB of a broadcast or gather, with the CRC-32C it arrived with (R208). -/
structure Segment where
  bytes : Bytes
  crc   : Nat
  deriving DecidableEq, Repr

/-- A broadcast payload (R200). -/
structure BcastPayload where
  toRank  : Nat
  seq     : Nat
  layer   : Nat
  root    : Nat
  /-- The segments of the query rows, the staged records each behind its 64-byte prefix, and LENGTH, one after another (log 64). -/
  data    : List Segment
  deriving DecidableEq, Repr

/-- A child's merged partial (R201). -/
structure GatherMsg where
  toRank : Nat
  seq    : Nat
  layer  : Nat
  root   : Nat
  /-- 1 or 2: which child of this rank sends. -/
  child  : Nat
  data   : List Segment
  deriving DecidableEq, Repr

/-- A remote read of pages that rank `toRank` holds for `rank`'s window slot (R203). -/
structure WindowReq where
  toRank : Nat
  rank   : Nat
  seq    : Nat
  layer  : Nat
  page   : Nat
  pages  : Nat
  deriving DecidableEq, Repr

/-- A global page that a rank puts into the root's cache (R204), or the root's broadcast of the whole cache. -/
inductive GlobalMsg where
  | page (toRank seq layer index : Nat) (bytes : Bytes)
  | cache (toRank seq layer root : Nat) (data : List Segment)
  deriving DecidableEq, Repr

/-- What a poison notice stands for (R290). -/
inductive PoisonOf where
  | piece (toRank : Nat) (die : Fin 2) (step dir : Nat)
  | grant (toRank : Nat) (die : Fin 2) (step dir : Nat)
  | payload (toRank seq layer root : Nat)
  | partialOf (toRank seq layer root child : Nat)
  | global (toRank seq layer : Nat)
  deriving DecidableEq, Repr

/-- A receiver's request to send a piece or segment again; `to` is the rank that lacks it (R208). -/
inductive ResendOf where
  | piece (toRank : Nat) (die : Fin 2) (step dir : Nat)
  | payload (toRank seq layer root : Nat)
  | partialOf (toRank seq layer root child : Nat)
  | cache (toRank seq layer root : Nat)
  /-- In place of a fourth request: the rank has lost the bundle to the module it tells (R208, R213, log 64). -/
  | lost (rank : Nat)
  deriving DecidableEq, Repr

/-- What went wrong with a Longshore request (R270); a read-back that does not match names the target: a board slot, 17 for the host, or
64 + rank. -/
inductive BusErr where
  | noResponse
  | fabricError
  | readBack (target : Nat)
  | pcieError
  | pcieTimeout
  deriving DecidableEq, Repr

/-- A page entry that a holder sends a board peer (R160). -/
structure PageEntryMsg where
  seq   : Nat
  layer : Nat
  page  : Nat
  entry : BitVec 64
  deriving DecidableEq, Repr

/-- One piece of a peer's buffer map (R231). -/
structure PeerPiece where
  index : Nat
  vaddr : Nat
  paddr : Nat
  bytes : Nat
  deriving DecidableEq, Repr

/-- A peer's buffer map, sent at START_JOB on CTRL (R231). -/
structure BufferMapMsg where
  slot   : Fin 8
  /-- The board slot by which the plan's alias buffers name it: another than `slot` once the rank has been taken over. -/
  home   : Fin 8
  rank   : Nat
  pieces : List PeerPiece
  deriving DecidableEq, Repr

/-- A board peer's access on REQ (R216). -/
inductive RemoteReq where
  | load (slot : Fin 8) (addr len : Nat)
  | store (slot : Fin 8) (addr : Nat) (bytes : Bytes)
  /-- A signal to a semaphore of rank `to` (R247, R265). -/
  | signal (toRank : Nat) (sem : Fin 32768) (n : BitVec 31)
  | signalPoison (toRank : Nat) (sem : Fin 32768)
  /-- A Longshore KIND 1 write or read of rank `to` (R247, Table 08-8): a device virtual address there. -/
  | rankStore (toRank source vaddr : Nat) (bytes : Bytes)
  | rankLoad (toRank source vaddr len : Nat)
  deriving DecidableEq, Repr

/-- An agent that firmware can find halted: an instance, a kernel thread, a Longshore channel, or a rank's request that waits here (R163,
R241, R269). -/
inductive Faulter where
  | context (cove ctx : Nat)
  | thread (cove thread : Nat)
  | channel (engine ch : Nat)
  | remote (id : Nat)
  deriving DecidableEq, Repr

/-- How the read of a line in error ends: ECC corrects it (R220, R224, R226), the second read is good, or neither is (R241). -/
inductive LineEnd where
  | corrected
  | reread
  | lost
  deriving DecidableEq, Repr

/-- A channel of an engine, and how many tiles of its MOVE or MCAST go before the next command (log 65). -/
structure TileRun where
  ch    : Fin 32
  /-- None: all that are left. -/
  tiles : Option Nat
  deriving DecidableEq, Repr

/-- The DRAM that a DDR5 correction names: rank of the channel, and device (log 44). -/
structure DramPart where
  rank   : Nat
  device : Nat
  deriving DecidableEq, Repr

/-- A port that PERST# leaves, and the size of BAR2 that the host sets there: 2^(30 + bar2) bytes (R217, log 66). -/
structure PortSetUp where
  port : Fin 2
  bar2 : Fin 10
  deriving DecidableEq, Repr

/-- A sequence, and what is asked or answered about frames for it (log 28). -/
structure VictimAsk where
  seq : Nat
  why : VictimWhy
  deriving DecidableEq, Repr

/-- A line read in error, and the unit that holds it where the address does not name it. -/
structure BadLine where
  /-- Module-local address of the 64-byte line. -/
  addr   : Nat
  outcome : LineEnd
  /-- Lagoon: row within the slice, and bank.  DDR5: rank of the channel, and the device. -/
  row    : Nat
  bank   : Nat
  device : Nat
  /-- A good copy of the line that firmware found outside the module (a partner's mirror or a re-gather). -/
  good   : Option Bytes
  /-- The stream, thread or channel that reads; none for a reader that goes on at once. -/
  reader : Option Faulter
  deriving DecidableEq, Repr

/-- A unit of Table 13-1: class, number, and within a lagoon slice the row and the bank that holds it. -/
structure UnitRef where
  cls    : Nat
  number : Nat
  row    : Nat
  bank   : Nat
  deriving DecidableEq, Repr

/-- An identity record (Table 10-6). -/
structure IdRec where
  serial  : Nat
  port    : Nat
  slot    : Nat
  verMin  : Nat
  verMax  : Nat
  fabric  : Nat
  rank    : Nat
  role    : Nat
  transit : Nat
  deriving DecidableEq, Repr

/-- How an attempt to train a link went on its lanes (Table 10-5 steps 1 to 5). -/
inductive TrainOutcome where
  /-- All steps passed and the far end's identity record arrived. -/
  | trained (peer : IdRec)
  /-- A step failed: the step number, and whether a lane came from another link (step 2). -/
  | failed (step : Fin 10)
  deriving DecidableEq, Repr

/-- A gap notice (R319): the bundle of a peer and the sequence numbers lost. -/
structure GapNotice where
  peer : Nat
  vc   : Fin 8
  lost : List Nat
  deriving DecidableEq, Repr

/-- What CMIS reports of a cage module (R329, R435). -/
structure CageReading where
  present     : Bool
  passiveCu   : Bool
  declaredW   : Nat
  drawW       : Nat
  suitable    : Bool
  alarm       : Bool
  deriving DecidableEq, Repr

/-- How a flash read of a search slot ended (R370). -/
inductive FlashOutcome where
  | clean
  /-- Decoded after this many retries with adjusted thresholds. -/
  | retried (n : Fin 4)
  /-- Never decoded, or decoded with a bad CHECK: the unit must be rebuilt. -/
  | failed
  deriving DecidableEq, Repr

/-- One power sample (R437): 1 ms averages and the input voltage. -/
structure PowerReading where
  inputMv  : Nat
  inputW   : Nat
  packageW : Nat
  deriving DecidableEq, Repr

/-- A DIMM as memory training finds it (R221). -/
structure Dimm where
  mrdimm : Bool
  gib    : Nat
  mts    : Nat
  deriving DecidableEq, Repr

/-- What start-up finds in the module and around it (Table 14-9). -/
structure StartEnv where
  /-- Every regulator passed power good (step 3). -/
  regulators : Bool
  /-- The public key derived from the physically unclonable source matches the certificate (R464). -/
  identityOk : Bool
  /-- The DIMM of each of the eight sockets (step 7). -/
  dimms      : List (Option Dimm)
  /-- Lowest DDR5 channel that failed training. -/
  ddrFail    : Option Nat
  /-- HBM4 channels that failed training: stack and physical channel. -/
  hbmFail    : List (Nat × Nat)
  /-- Units that failed self-test (step 8). -/
  selfTest   : List UnitRef
  /-- A trip of Table 14-6 during start-up. -/
  trip       : Bool
  /-- The step after which start-up is still waiting (11 when it goes through); a later MAIN_EN or a time-out finds it there. -/
  reached    : Nat
  deriving DecidableEq, Repr

/-- Why a warm reset happens (Table 14-10). -/
inductive WarmCause where
  | perst0
  | hotReset
  | fwActivate
  | selfFence
  | tripCleared
  deriving DecidableEq, Repr

/-- The abandon notice of a takeover (R214): failed rank, the partner that takes its place. -/
structure AbandonMsg where
  failedRank    : Nat
  failedSlot    : Nat
  partnerSlot   : Nat
  partnerSerial : Nat
  /-- Uncommitted work is abandoned and replayed; false where the rank only moves (R425, Table 13-8). -/
  replay        : Bool
  deriving DecidableEq, Repr

/-- The transport and port of an SPDM message (R466). -/
inductive SpdmConn where
  | pcie (port : Fin 2)
  | i3c
  deriving DecidableEq, Repr

/-- A heartbeat's sender (R418). -/
inductive BeatFrom where
  | partner (relayed : Bool)
  | relay (slot : Fin 8)
  /-- The heartbeat of a member of another pair, which this module relays to the other member. -/
  | member (slot : Fin 8)
  deriving DecidableEq, Repr

/-! ## The commands -/

/-- One constructor for each row of the table of operations and events, in the table's order. A row that starts a taken
command of a ring names it by the number `id` the module gave it at COMMAND_TAKE (log 47). -/
inductive Instr where
  -- host interface
  | doorbellPoll (port : Fin 2) (stores : List HostStore)
  | pollSleep (port : Fin 2) (stores : List HostStore)
  | hifWake (port : Fin 2)
  | hifEnable (port : Fin 2) (value : BitVec 64)
  | hifDisable (port : Fin 2) (value : BitVec 64)
  | ringEnable (port : Fin 2) (ring : Fin 64) (value : BitVec 64)
  | ringDisable (port : Fin 2) (ring : Fin 64) (value : BitVec 64)
  | commandTake
  | commandFanout (m : Fanout)
  | completionWrite (ring : Fin 64)
  | eventAccept (e : RawEvent)
  | eventRecordWrite (port : Fin 2)
  -- host commands
  | nop (id : Nat)
  | loadPlan (id : Nat)
  | unloadPlan (id : Nat)
  /-- `digest` is the plan digest that a bound partner reports, empty where it has loaded no plan (R412). -/
  | startJob (id : Nat) (digest : Bytes)
  | stopJob (id : Nat)
  | seqOpen (id : Nat)
  | seqAppend (id : Nat)
  | seqStep (id : Nat)
  | seqPreempt (id : Nat)
  | seqResume (id : Nat)
  | seqClose (id : Nat)
  | seqEditPages (id : Nat)
  | search (id : Nat)
  | indexInsert (id : Nat)
  | indexDelete (id : Nat)
  | indexCommit (id : Nat)
  | indexMount (id : Nat)
  | linkConfigure (id : Nat)
  | pairBind (id : Nat)
  | pairHandback (id : Nat)
  | copy (id : Nat)
  | fill (id : Nat)
  | queryInfo (id : Nat)
  | readCounters (id : Nat)
  | setPower (id : Nat)
  | fwStage (id : Nat)
  | fwActivate (id : Nat)
  -- passes and commit
  | passNotice (n : PassNotice)
  | passEnd
  | passReport (rank : Nat) (flags : PassFlags)
  | commitReady (rank crc : Nat)
  | commit (m : Option CommitMsg)
  | stateRecord (r : StateRec)
  | mirrorWrite (m : MirrorMsg)
  -- operations of the coves
  | operationTake (cove : Fin 512) (second : Bool)
  | gemm (cove : Fin 512) (ctx : Fin 4)
  | gemmGrouped (cove : Fin 512) (ctx : Fin 4)
  | attnPrefill (cove : Fin 512) (ctx : Fin 4)
  | attnDecode (cove : Fin 512) (ctx : Fin 4)
  | earlyScoring (cove : Fin 512) (ctx : Fin 4)
  | attnMerge (cove : Fin 512) (ctx : Fin 4)
  | attnRecompute (cove : Fin 512) (ctx : Fin 4)
  | kernel (cove : Fin 512) (ctx : Fin 4)
  | xfer (cove : Fin 512) (ctx : Fin 4)
  | tideRing (cove : Fin 512) (ctx : Fin 4)
  | tideBcast (cove : Fin 512) (ctx : Fin 4)
  | tideGather (cove : Fin 512) (ctx : Fin 4)
  | tideWindow (cove : Fin 512) (ctx : Fin 4)
  | tideGlobal (cove : Fin 512) (ctx : Fin 4)
  | tideGrant (g : TideGrant)
  | tidePiece (p : TidePiece)
  | broadcastPayload (p : BcastPayload)
  | gatherPartial (p : GatherMsg)
  | windowRead (r : WindowReq)
  | globalPage (p : GlobalMsg)
  | poisonNotice (n : PoisonOf)
  -- semaphores and work counters
  | signal (sem : Fin 32768) (n : BitVec 31)
  | signalPoison (sem : Fin 32768)
  | waitComplete (w : Waiter)
  | workCounterTake (cove : Fin 512) (ctx : Fin 4)
  -- cove cores
  | coreInstruction (cove : Fin 512) (thread : Fin 4)
  | ecall (cove : Fin 512) (thread : Fin 4)
  | nvSig (cove : Fin 512) (thread : Fin 4)
  | nvSigp (cove : Fin 512) (thread : Fin 4)
  | nvWait (cove : Fin 512) (thread : Fin 4)
  | nvSemrd (cove : Fin 512) (thread : Fin 4)
  | nvTake (cove : Fin 512) (thread : Fin 4)
  | nvId (cove : Fin 512) (thread : Fin 4)
  | nvVcvtN (cove : Fin 512) (thread : Fin 4)
  | nvVcvtW (cove : Fin 512) (thread : Fin 4)
  | nvVmxs (cove : Fin 512) (thread : Fin 4)
  | nvVexp2 (cove : Fin 512) (thread : Fin 4)
  | nvVsincos (cove : Fin 512) (thread : Fin 4)
  -- Longshore channels
  | move (engine : Fin 40) (run : TileRun)
  | mcast (engine : Fin 40) (run : TileRun)
  | loop (engine : Fin 40) (ch : Fin 32)
  | lsWait (engine : Fin 40) (ch : Fin 32)
  | lsSignal (engine : Fin 40) (ch : Fin 32)
  | stoppt (engine : Fin 40) (ch : Fin 32)
  | endProgram (engine : Fin 40) (ch : Fin 32)
  | busError (engine : Fin 40) (ch : Fin 32) (kind : BusErr) (addr : Nat)
  | channelStop (engine : Fin 40) (ch : Fin 32)
  | mcastPatience (engine : Fin 40) (ch : Fin 32) (slot : Fin 8)
  -- pages
  | faultResolve (fault : Nat)
  | preemptEffect (seq : Fin 4096) (cause : Fin 3)
  | ebb (seq : Fin 4096)
  | flood (seq : Fin 4096)
  | pageMove (move : Nat)
  | invalidateComplete (inv : Nat)
  | pageEntry (m : PageEntryMsg)
  | bufferMap (m : BufferMapMsg)
  | remoteRequest (r : RemoteReq)
  | bar2Read (port : Fin 2) (offset len : Nat)
  | bar2Write (port : Fin 2) (offset : Nat) (bytes : Bytes)
  -- errors and spares
  | uncorrectableError (l : BadLine)
  | patrolScrub (line : Nat) (part : DramPart) (corrected : Bool)
  | coveError (cove : Fin 544) (permanent : Bool)
  | plannedRetirement (u : UnitRef)
  | hbmSpareCopy (stack : Fin 8)
  | watchdogExpiry (core : Fin 8)
  | ageingSample (below : List UnitRef)
  | correctedSummary
  -- the Breakwater pair
  | heartbeatSend
  | heartbeat (b : BeatFrom)
  | isolationTimeout
  | partnerTimeout
  /-- `lost` none: the partner has declared a module fault.  Else a rank tells the leader that this rank has failed and that no
  partner takes it over (R426). -/
  | faultNotice (lost : Option Nat)
  | takeover
  | abandonNotice (m : AbandonMsg)
  | resyncCopyDone (gib : Nat)
  -- links
  | linkTrain (link : Fin 96) (o : TrainOutcome)
  | trainingRetry (link : Fin 96)
  | identityRecord (link : Fin 96) (r : IdRec)
  | flitReceive (link : Fin 96) (flit : Bytes) (fecOk : Bool)
  | ackTimer (link : Fin 96)
  | laneLoss (link : Fin 96) (lane : Fin 5)
  | signalLoss (link : Fin 96) (lanes : List (Fin 5))
  | gapNotice (m : GapNotice)
  | cageInsert (cage : Fin 20) (r : CageReading)
  | cmisPoll (cage : Fin 20) (r : CageReading)
  | lnkDisable (port : Fin 2) (link : Fin 96) (value : BitVec 64)
  | lnkRetrain (port : Fin 2) (link : Fin 96) (value : BitVec 64)
  -- Shoal
  | searchStep (slot : Fin 32)
  | flashRead (slot : Fin 32) (unit : Nat) (o : FlashOutcome)
  | insertWave
  | versionReclaim (unit : Nat)
  | snapshotWrite
  -- power, temperature, pins, resets
  | powerSample (r : PowerReading)
  | temperatureSample (sensor : Fin 18) (t : BitVec 16)
  | leak
  | undervoltage
  | auxArrival
  | presence
  | mainEn (env : StartEnv)
  | warmReset (cause : WarmCause)
  | functionLevelReset (port : Fin 2)
  | port1Perst
  | frontLatch
  | attn
  | pwrReqRemove (port : Fin 2)
  | drainTimeout
  | lhTimer (which : Fin 2)
  | dieTempLevel (die : Fin 2)
  | v54Arrival
  | wakeIn
  | perstDeassert (up : PortSetUp)
  -- register behaviour
  | lhCmpWrite (port : Fin 2) (which : Fin 2) (value : BitVec 64)
  | statusFlagClear (port : Fin 2) (offset : Nat) (value : BitVec 64) (landing : BitVec 8)
  | nextBankWrite (port : Fin 2) (value : BitVec 2)
  | monClassWrite (port : Fin 2) (value : BitVec 64)
  | dbgRequest (port : Fin 2) (level : BitVec 2)
  | dbgSubmit (port : Fin 2)
  | dbgLock (port : Fin 2)
  | registerWrite (port : Fin 2) (offset size : Nat) (value : BitVec 64)
  -- security
  | pldmComponent (image : Bytes)
  | getVersion (conn : SpdmConn)
  | getCapabilities (conn : SpdmConn)
  | negotiateAlgorithms (conn : SpdmConn) (ecdsaP521 sha512 : Bool)
  | getDigests (conn : SpdmConn)
  | getCertificate (conn : SpdmConn) (slot : Fin 8) (offset length : Nat)
  | challenge (conn : SpdmConn) (slot : Fin 8) (nonce : Bytes)
  | getMeasurements (conn : SpdmConn) (index : Nat) (signed : Bool) (nonce : Bytes)
  | unsupportedRequest (conn : SpdmConn) (code : Nat)
  -- power loss, start-up and time-outs
  | auxLoss
  | prechargeOk
  | startUpTimeout
  | jobStartTimeout (id : Nat)
  | commitNotice (n : CommitNotice)
  | victimRequest (rank : Nat) (ask : VictimAsk)
  | entryRequest (slot : Fin 8) (vaddr : Nat)
  | rankFinished (rank key status : Nat)
  | resendRequest (r : ResendOf)
  | stripeRewrite (ch : Fin 16)
  deriving DecidableEq, Repr

end Sys2Proof
end

