-- ==== Sys2Proof/Decode.lean ====
section
/-! DEFINITION. The decoder of table words. The table of operations and events gives no row any bits, so no word spells a
command. -/

namespace Sys2Proof

/-- The command that a word of the table spells: none, because the table gives no encoding to any row (log 48). -/
def decodeTableWord (_nbits _w : Nat) : Option Instr := none

end Sys2Proof
end

