-- ==== Sys2Proof/Config.lean ====
section
/-! DEFINITION. What one part fixes for itself, and the free values: constants without a body, of which nothing can be
proved beyond what the definitions that use them enforce. -/

namespace Sys2Proof.Config

/-- The exponent lane's own choice of its function, a rising one: at node `n` of the binary tree over the ordered inputs, where the
results of the left half stop and those of the right half begin (R38, log 6). -/
opaque exp2Choice : Nat → Nat

/-- The rotary unit's own choice of a cosine (false) or sine (true) for a 32-bit phase, used only within R41 (log 6). -/
opaque trigCandidate : Bool → BitVec 32 → BitVec 32

/-- The finaliser's own choice of a base-2 logarithm of an FP32 sum, used only within R124 (log 6). -/
opaque log2Candidate : BitVec 32 → BitVec 32

/-- The share of a tick, in thirds of a nanosecond, that a cove loses while clocks are stepped down: `n` is the block's count of free
values and `cove` the cove (R44, log 38). -/
opaque lostShare : Nat → Nat → Nat

/-- A byte that another module, or a unit outside the model, delivers: `n` is the block's count of such requests and `i`
the byte within the request (log 7). -/
opaque outsideByte : Nat → Nat → BitVec 8

/-- A byte that the spec leaves unspecified (R260: bytes of an overlapping MOVE), by count and place (log 11). -/
opaque unspecifiedByte : Nat → Nat → BitVec 8

/-- Byte `i` of the `n`-th random nonce (R466, R471; log 12). -/
opaque nonceByte : Nat → Nat → BitVec 8

/-- Byte `i` of the `n`-th signature made with a private key of the module (R466; log 12). -/
opaque signatureByte : Nat → Nat → BitVec 8

/-- Byte `i` of the certificate chain in slot 0, whose alias certificate depends on measurements 1 to 5 (R465; log 12). -/
opaque certificateByte : List (BitVec 8) → Nat → BitVec 8

/-- Length in bytes of that chain (R465; log 12). -/
opaque certificateLength : List (BitVec 8) → Nat

/-- Byte `i` of the digest of the boot ROM of a stepping, letter and digit (measurement 1, R466; log 12). -/
opaque bootRomByte : BitVec 4 → BitVec 4 → Nat → BitVec 8

/-- The result that the RISC-V standard leaves open for an operation (agnostic tail elements, reserved roundings), by count
(log 13). -/
opaque riscvFree : Nat → BitVec 64

end Sys2Proof.Config
end

