-- ==== Sys2Proof/Machine/Bits.lean ====
section
/-! DEFINITION. Bit fields, little-endian byte strings (R10) and the sparse tables every part of the state uses. -/

namespace Sys2Proof.Machine

/-- Bits [hi:lo] of `x` (R10: bit 0 is the least significant). -/
def bits (x hi lo : Nat) : Nat := x / 2 ^ lo % 2 ^ (hi + 1 - lo)

/-- Bit [i] of `x`. -/
def bit (x i : Nat) : Bool := x / 2 ^ i % 2 == 1

/-- The little-endian value of a byte string (R10). -/
def leNat : Bytes → Nat
  | [] => 0
  | b :: bs => b.toNat + 256 * leNat bs

/-- `len` bytes of `n`, little-endian (R10). -/
def leBytes : (n len : Nat) → Bytes
  | _, 0 => []
  | n, len + 1 => BitVec.ofNat 8 n :: leBytes (n / 256) len

/-- The big-endian value of a byte string (the order of keys and signatures, chapter 15). -/
def beNat (bs : Bytes) : Nat := bs.foldl (fun a b => a * 256 + b.toNat) 0

/-- Bytes `off` to `off + len - 1` of an object; a byte beyond its end reads as 0. -/
def slice (r : Bytes) (off len : Nat) : Bytes := (r.drop off).take len

/-- The little-endian field of `len` bytes at `off` of an object. -/
def fld (r : Bytes) (off len : Nat) : Nat := leNat (slice r off len)

/-- One byte of an object. -/
def u8 (r : Bytes) (off : Nat) : Nat := fld r off 1
/-- A 2-byte field of an object. -/
def u16 (r : Bytes) (off : Nat) : Nat := fld r off 2
/-- A 4-byte field of an object. -/
def u32 (r : Bytes) (off : Nat) : Nat := fld r off 4
/-- An 8-byte field of an object. -/
def u64 (r : Bytes) (off : Nat) : Nat := fld r off 8

/-- All bytes of the range are 0 (a reserved range, R11). -/
def zeros (r : Bytes) (off len : Nat) : Bool := (slice r off len).all (· == 0)

/-- `len` zero bytes. -/
def zeroBytes (len : Nat) : Bytes := List.replicate len 0

/-- An object with the bytes from `off` replaced by `v`. -/
def patch (r : Bytes) (off : Nat) (v : Bytes) : Bytes :=
  r.take off ++ v ++ r.drop (off + v.length)

/-- Division rounded up. -/
def ceilDiv (a b : Nat) : Nat := (a + b - 1) / b

/-- `a` rounded up to a multiple of `b`. -/
def roundUp (a b : Nat) : Nat := ceilDiv a b * b

/-- The value of a field of `w` bits read as two's complement. -/
def signed (w x : Nat) : Int := if x < 2 ^ (w - 1) then (x : Int) else (x : Int) - 2 ^ w

/-- `x` is a power of two from `lo` to `hi`. -/
def isPow2In (x lo hi : Nat) : Bool := lo ≤ x && x ≤ hi && (List.range 64).any (fun i => x == 2 ^ i)

/-- A table by number that holds only the entries that differ from a default, in rising order of number. -/
abbrev Tab (α : Type) := List (Nat × α)

/-- Entry `i` of a table whose unlisted entries are `d`. -/
def Tab.get {α : Type} (d : α) : Tab α → Nat → α
  | [], _ => d
  | (j, a) :: t, i => if i = j then a else Tab.get d t i

/-- The table without entry `i`. -/
def Tab.erase {α : Type} : Tab α → Nat → Tab α
  | [], _ => []
  | (j, a) :: t, i => if i = j then Tab.erase t i else (j, a) :: Tab.erase t i

/-- The table with an entry put at its place. -/
def Tab.put {α : Type} : Tab α → Nat → α → Tab α
  | [], i, v => [(i, v)]
  | (j, a) :: t, i, v => if i < j then (i, v) :: (j, a) :: t else if i = j then (i, v) :: t else (j, a) :: Tab.put t i v

/-- The table with entry `i` set to `v`; an entry equal to the default is not listed. -/
def Tab.set {α : Type} [DecidableEq α] (d : α) (t : Tab α) (i : Nat) (v : α) : Tab α := if v = d then Tab.erase t i else Tab.put t i v

/-- Every listed number is above `lo`, the numbers rise, and no entry is the default. -/
def Tab.wfFrom {α : Type} [DecidableEq α] (d : α) : Option Nat → Tab α → Bool
  | _, [] => true
  | lo, (j, a) :: t => (match lo with | none => true | some l => decide (l < j)) && decide (a ≠ d) && Tab.wfFrom d (some j) t

/-- The canonical form of a table: numbers strictly rising, no entry equal to the default. -/
def Tab.wf {α : Type} [DecidableEq α] (d : α) (t : Tab α) : Bool := Tab.wfFrom d none t

/-- The byte that an address nothing has written reads as.  DESIGN CHOICE (log 1): the spec gives no contents of memory
after power-on. -/
def blankByte : Byte := 0

/-- A sparse byte memory: the bytes that differ from `blankByte`, addresses rising. -/
abbrev Memory := Tab Byte

/-- The byte at an address. -/
def Memory.byte (m : Memory) (a : Nat) : Byte := Tab.get blankByte m a

/-- `n` bytes from address `a` up. -/
def Memory.read (m : Memory) (a : Nat) : Nat → Bytes
  | 0 => []
  | n + 1 => Memory.byte m a :: Memory.read m (a + 1) n

/-- The little-endian value of `n` bytes at `a`. -/
def Memory.nat (m : Memory) (a n : Nat) : Nat := leNat (Memory.read m a n)

/-- The memory with a byte string written from `a` up. -/
def Memory.write (m : Memory) (a : Nat) : Bytes → Memory
  | [] => m
  | b :: bs => Memory.write (Tab.set blankByte m a b) (a + 1) bs

/-- The canonical form of a memory. -/
def Memory.wf (m : Memory) : Bool := Tab.wf blankByte m

/-- Fold over the numbers 0 to n - 1 in rising order. -/
def forUpto {α : Type} (n : Nat) (f : Nat → α → α) (a : α) : α := (List.range n).foldl (fun s i => f i s) a

end Sys2Proof.Machine
end

