-- ==== Sys2Proof/Machine/Num.lean ====
section
/-! DEFINITION. Number formats, conversion, rounding and accumulation (R23 to R42, R485), and the accuracy-bounded functions. -/

namespace Sys2Proof.Machine

/-- A number as the arithmetic sees it: `fin neg m e` is ±m × 2^e, zero keeping its sign. -/
inductive Val where
  | nan
  | inf (neg : Bool)
  | fin (neg : Bool) (m : Nat) (e : Int)
  deriving DecidableEq, Repr

/-- Positive zero. -/
def Val.zero : Val := .fin false 0 0
/-- One. -/
def Val.one : Val := .fin false 1 0

/-- Bits of a natural number. -/
def bitLen (n : Nat) : Nat := if n = 0 then 0 else Nat.log2 n + 1

/-- m / 2^s rounded to nearest, ties to even. -/
def shiftRne (m s : Nat) : Nat :=
  let q := m / 2 ^ s
  let r := m % 2 ^ s * 2
  if r > 2 ^ s ∨ (r = 2 ^ s ∧ q % 2 = 1) then q + 1 else q

/-- RISC-V rounding modes; the array side uses `rne` only. -/
inductive Rm where
  | rne | rtz | rdn | rup | rmm
  deriving DecidableEq, Repr

/-- ±m / 2^s rounded to an integer magnitude under a mode. -/
def shiftRound (rm : Rm) (neg : Bool) (m s : Nat) : Nat :=
  match rm with
  | .rne => shiftRne m s
  | .rtz => m / 2 ^ s
  | .rdn => if neg && m % 2 ^ s != 0 then m / 2 ^ s + 1 else m / 2 ^ s
  | .rup => if !neg && m % 2 ^ s != 0 then m / 2 ^ s + 1 else m / 2 ^ s
  | .rmm => if 2 ^ s ≤ m % 2 ^ s * 2 then m / 2 ^ s + 1 else m / 2 ^ s

/-- A finite value rounded to `p` significand bits with no bit below weight 2^emin; exact values are unchanged. -/
def roundFin (rm : Rm) (p : Nat) (emin : Option Int) (neg : Bool) (m : Nat) (e : Int) : Val :=
  let excess : Int := (bitLen m : Int) - p
  let s := match emin with | none => max excess 0 | some em => max (max excess (em - e)) 0
  .fin neg (shiftRound rm neg m s.toNat) (e + s)

/-- Round to nearest even at 64 significand bits (R33). -/
def Val.round64 : Val → Val
  | .fin neg m e => roundFin .rne 64 none neg m e
  | v => v

/-- Both magnitudes at the lower of the two exponents. -/
def alignPair (m1 : Nat) (e1 : Int) (m2 : Nat) (e2 : Int) : Nat × Nat × Int :=
  if e1 ≤ e2 then (m1, m2 * 2 ^ (e2 - e1).toNat, e1) else (m1 * 2 ^ (e1 - e2).toNat, m2, e2)

/-- Exact sum of two finite values; `zneg` is the sign of an exact zero with unlike signs. -/
def addFin (zneg : Bool) (n1 : Bool) (m1 : Nat) (e1 : Int) (n2 : Bool) (m2 : Nat) (e2 : Int) : Val :=
  let (a, b, e) := alignPair m1 e1 m2 e2
  if n1 = n2 then .fin n1 (a + b) e
  else if a = b then .fin zneg 0 0
  else if b < a then .fin n1 (a - b) e
  else .fin n2 (b - a) e

/-- Exact IEEE 754 sum before rounding. -/
def Val.addX (zneg : Bool) : Val → Val → Val
  | .nan, _ | _, .nan => .nan
  | .inf a, .inf b => if a = b then .inf a else .nan
  | .inf a, _ => .inf a
  | _, .inf b => .inf b
  | .fin n1 m1 e1, .fin n2 m2 e2 => addFin zneg n1 m1 e1 n2 m2 e2

/-- Exact IEEE 754 product before rounding. -/
def Val.mul : Val → Val → Val
  | .nan, _ | _, .nan => .nan
  | .inf a, .inf b => .inf (a != b)
  | .inf a, .fin n m _ => if m = 0 then .nan else .inf (a != n)
  | .fin n m _, .inf b => if m = 0 then .nan else .inf (n != b)
  | .fin n1 m1 e1, .fin n2 m2 e2 => .fin (n1 != n2) (m1 * m2) (e1 + e2)

/-- Quotient of two positive magnitudes to `p` bits and more, the last bit sticky. -/
def divMag (p m1 m2 : Nat) : Nat × Int :=
  let k := p + 3 + bitLen m2 - min (bitLen m1) (p + 3 + bitLen m2)
  let a := m1 * 2 ^ k
  (2 * (a / m2) + (if a % m2 = 0 then 0 else 1), -(k : Int) - 1)

/-- IEEE 754 quotient before rounding (with a sticky last bit). -/
def Val.div : Val → Val → Val
  | .nan, _ | _, .nan => .nan
  | .inf _, .inf _ => .nan
  | .inf a, .fin n _ _ => .inf (a != n)
  | .fin n _ _, .inf b => .fin (n != b) 0 0
  | .fin n1 m1 e1, .fin n2 m2 e2 =>
    if m2 = 0 then (if m1 = 0 then .nan else .inf (n1 != n2))
    else if m1 = 0 then .fin (n1 != n2) 0 0
    else let (q, k) := divMag 64 m1 m2; .fin (n1 != n2) q (e1 - e2 + k)

/-- IEEE 754 square root before rounding (with a sticky last bit). -/
def Val.sqrt : Val → Val
  | .nan => .nan
  | .inf n => if n then .nan else .inf false
  | .fin n m e =>
    if m = 0 then .fin n 0 0
    else if n then .nan
    else
      let odd := e % 2 != 0
      let a := (if odd then m * 2 else m) * 2 ^ 160
      let r := Nat.sqrt a
      .fin false (2 * r + (if r * r = a then 0 else 1)) ((if odd then e - 1 else e) / 2 - 80 - 1)

/-- The value times 2^k. -/
def Val.scale (k : Int) : Val → Val
  | .fin n m e => .fin n m (e + k)
  | v => v

/-- The value with its sign changed. -/
def Val.neg : Val → Val
  | .fin n m e => .fin (!n) m e
  | .inf n => .inf (!n)
  | .nan => .nan

/-- The value is zero. -/
def Val.isZero : Val → Bool
  | .fin _ m _ => m == 0
  | _ => false

/-- The value is a NaN. -/
def Val.isNan : Val → Bool
  | .nan => true
  | _ => false

/-- The sign bit. -/
def Val.isNeg : Val → Bool
  | .fin n _ _ | .inf n => n
  | .nan => false

/-- a < b by IEEE 754 (false with a NaN). -/
def Val.lt : Val → Val → Bool
  | .nan, _ | _, .nan => false
  | .inf a, .inf b => a && !b
  | .inf a, .fin .. => a
  | .fin .., .inf b => !b
  | .fin n1 m1 e1, .fin n2 m2 e2 =>
    let (a, b, _) := alignPair m1 e1 m2 e2
    if n1 && !n2 then decide (0 < a + b) else if !n1 && n2 then false else if n1 then decide (b < a) else decide (a < b)

/-- a = b by IEEE 754. -/
def Val.eqv (a b : Val) : Bool := !a.isNan && !b.isNan && !Val.lt a b && !Val.lt b a

/-- The larger, NaN if either is (R118 to R120 take sums of finite scores; a NaN propagates). -/
def Val.max (a b : Val) : Val := if a.isNan || b.isNan then .nan else if Val.lt a b then b else a

/-- The magnitude. -/
def Val.abs : Val → Val
  | .fin _ m e => .fin false m e
  | .inf _ => .inf false
  | .nan => .nan

/-! ## Formats (Table 02-2) -/

/-- What the encodings with all exponent bits set mean. -/
inductive Top where
  /-- Infinity and NaN as IEEE 754. -/
  | ieee
  /-- NaN only with all mantissa bits set (E4M3). -/
  | nanOnly
  /-- Ordinary numbers. -/
  | plain
  deriving DecidableEq, Repr

/-- A floating-point format. -/
structure Fmt where
  ebits : Nat
  mbits : Nat
  top   : Top
  deriving DecidableEq, Repr

/-- Format codes 0 to 6; INT8 is code 7. -/
def fmtOf : Nat → Fmt
  | 0 => ⟨8, 23, .ieee⟩
  | 1 => ⟨8, 7, .ieee⟩
  | 2 => ⟨5, 10, .ieee⟩
  | 3 => ⟨4, 3, .nanOnly⟩
  | 4 => ⟨5, 2, .ieee⟩
  | 5 => ⟨3, 2, .plain⟩
  | _ => ⟨2, 1, .plain⟩

/-- IEEE 754 binary64, of the cove core. -/
def fmt64 : Fmt := ⟨11, 52, .ieee⟩

/-- Exponent bias. -/
def Fmt.bias (f : Fmt) : Int := 2 ^ (f.ebits - 1) - 1

/-- The value of an encoding. -/
def Fmt.decode (f : Fmt) (w : Nat) : Val :=
  let man := w % 2 ^ f.mbits
  let ex := w / 2 ^ f.mbits % 2 ^ f.ebits
  let neg := w / 2 ^ (f.mbits + f.ebits) % 2 == 1
  let special := match f.top with
    | .ieee => ex == 2 ^ f.ebits - 1
    | .nanOnly => ex == 2 ^ f.ebits - 1 && man == 2 ^ f.mbits - 1
    | .plain => false
  if special then (if man = 0 then .inf neg else .nan)
  else if ex = 0 then .fin neg man (1 - f.bias - f.mbits)
  else .fin neg (2 ^ f.mbits + man) (ex - f.bias - f.mbits)

/-- The largest finite magnitude as an encoding without sign. -/
def Fmt.maxWord (f : Fmt) : Nat :=
  match f.top with
  | .ieee => (2 ^ f.ebits - 1) * 2 ^ f.mbits - 1
  | .nanOnly => 2 ^ (f.ebits + f.mbits) - 2
  | .plain => 2 ^ (f.ebits + f.mbits) - 1

/-- A sign bit for an encoding. -/
def Fmt.sign (f : Fmt) (neg : Bool) : Nat := if neg then 2 ^ (f.ebits + f.mbits) else 0

/-- The canonical NaN, where the format has none its largest finite value (Table 02-5). -/
def Fmt.nanWord (f : Fmt) : Nat :=
  match f.top with
  | .ieee => (2 ^ f.ebits - 1) * 2 ^ f.mbits + 2 ^ (f.mbits - 1)
  | .nanOnly => 2 ^ (f.ebits + f.mbits) - 1
  | .plain => f.maxWord

/-- Infinity of a sign (Table 02-5). -/
def Fmt.infWord (f : Fmt) (neg : Bool) : Nat :=
  f.sign neg + match f.top with
  | .ieee => (2 ^ f.ebits - 1) * 2 ^ f.mbits
  | _ => f.maxWord

/-- Encode a finite value that has been rounded into the format's grid; `none` where it exceeds the largest finite value. -/
def Fmt.pack (f : Fmt) (neg : Bool) (m : Nat) (e : Int) : Option Nat :=
  if m = 0 then some (f.sign neg)
  else
    let lsb : Int := max ((bitLen m : Int) + e - 1 - f.mbits) (1 - f.bias - f.mbits)
    let q := if e ≥ lsb then m * 2 ^ (e - lsb).toNat else m / 2 ^ (lsb - e).toNat
    let ex := lsb + f.mbits + f.bias
    let w := if q < 2 ^ f.mbits then q else ex.toNat * 2 ^ f.mbits + (q - 2 ^ f.mbits)
    if f.maxWord < w then none else some (f.sign neg + w)

/-- A finite value on the format's grid. -/
def Fmt.grid (f : Fmt) (rm : Rm) (neg : Bool) (m : Nat) (e : Int) : Val :=
  roundFin rm (f.mbits + 1) (some (1 - f.bias - f.mbits)) neg m e

/-- Convert under R28 and R29: the encoding, and whether a finite value saturated. -/
def Fmt.convert (f : Fmt) : Val → Nat × Bool
  | .nan => (f.nanWord, false)
  | .inf n => (f.infWord n, false)
  | .fin n m e =>
    let sat := match roundFin .rne (f.mbits + 1) none n m e with
      | .fin _ q k => match f.decode f.maxWord with
        | .fin _ mm em => Val.lt (.fin false mm em) (.fin false q k)
        | _ => false
      | _ => false
    if sat then (f.sign n + f.maxWord, true)
    else match f.grid .rne n m e with
      | .fin s q k => ((f.pack s q k).getD (f.sign n + f.maxWord), false)
      | _ => (f.nanWord, false)

/-- Round to the format by IEEE 754 with overflow to infinity: a `Val` of the format. -/
def Fmt.ieee (f : Fmt) : Val → Val
  | .fin n m e =>
    match f.grid .rne n m e with
    | .fin s q k => if (f.pack s q k).isNone then .inf s else .fin s q k
    | v => v
  | v => v

/-- Single rounding to FP32 (step 5 of R33). -/
def Val.f32 (v : Val) : Val := (fmtOf 0).ieee v

/-- The FP32 word of a value. -/
def Val.word32 (v : Val) : BitVec 32 :=
  BitVec.ofNat 32 (match v.f32 with
    | .inf n => (fmtOf 0).infWord n
    | .nan => (fmtOf 0).nanWord
    | .fin n m e => ((fmtOf 0).pack n m e).getD 0)

/-- The value of an FP32 word. -/
def ofF32 (w : BitVec 32) : Val := (fmtOf 0).decode w.toNat

/-- Convert to INT8 without scaling (R30): the byte and whether a finite value saturated. -/
def toInt8 : Val → Nat × Bool
  | .nan => (127, false)
  | .inf n => (if n then 128 else 127, false)
  | .fin n m e =>
    let q := if e ≥ 0 then m * 2 ^ e.toNat else shiftRne m (-e).toNat
    if n then (if q ≤ 128 then ((256 - q) % 256, false) else (128, true))
    else if q ≤ 127 then (q, false) else (127, true)

/-- Convert one element to a format code without scaling. -/
def convertTo (code : Nat) (v : Val) : Nat × Bool := if code = 7 then toInt8 v else (fmtOf code).convert v

/-- Bits of an element of a format code. -/
def fmtBits : Nat → Nat
  | 0 => 32
  | 1 | 2 => 16
  | 5 => 6
  | 6 => 4
  | _ => 8

/-- Bytes of a row of n elements (R24). -/
def rowBytes (code n : Nat) : Nat := ceilDiv (n * fmtBits code) 8

/-- The value of an element; INT8 with MX32 carries the factor 2^-6 of the MX element (R31, log 17). -/
def elemVal (code : Nat) (mx : Bool) (w : Nat) : Val :=
  if code = 7 then (if w < 128 then Val.fin false w (if mx then -6 else 0) else .fin true (256 - w) (if mx then -6 else 0))
  else (fmtOf code).decode w

/-- Element i of a densely packed little-endian row (R24). -/
def elemAt (code : Nat) (row : Nat) (i : Nat) : Nat := row / 2 ^ (i * fmtBits code) % 2 ^ fmtBits code

/-- The first n elements of a row as values. -/
def unpack (code : Nat) (mx : Bool) (bytes : Bytes) (n : Nat) : List Val :=
  let row := leNat bytes
  (List.range n).map fun i => elemVal code mx (elemAt code row i)

/-- Elements packed little-endian into whole bytes (R24). -/
def packElems (code : Nat) (ws : List Nat) : Bytes :=
  leBytes (ws.foldr (fun w acc => w % 2 ^ fmtBits code + acc * 2 ^ fmtBits code) 0) (rowBytes code ws.length)

/-- An E8M0 scale: none for the NaN byte 0xFF, else the exponent (R25). -/
def e8m0 (byte : Nat) : Option Int := if byte = 255 then none else some ((byte : Int) - 127)

/-! ## MX32 output (R31) -/

/-- emax of a format code. -/
def emaxOf : Nat → Int
  | 3 => 8
  | 4 => 15
  | 5 => 4
  | 6 => 2
  | _ => 0

/-- Largest of a list of magnitudes, NaN not considered. -/
def amax (vs : List Val) : Val := vs.foldl (fun a v => if Val.lt a v.abs then v.abs else a) Val.zero

/-- Scale byte of a block of up to 32 elements. -/
def mxScale (code : Nat) (vs : List Val) : Nat :=
  if vs.any Val.isNan then 255
  else match amax vs with
    | .inf _ => 254
    | .fin _ m e => if m = 0 then 127 else
        let x : Int := (bitLen m : Int) + e - 1 - emaxOf code
        (max (-127) (min 127 x) + 127).toNat
    | .nan => 255

/-- A block's elements with its scale byte: encodings and the number that saturated.  A zero element keeps its sign, also in a block of
zeros (R30, R31; log 50). -/
def mxBlock (code : Nat) (vs : List Val) : Nat × List Nat × Nat :=
  let s := mxScale code vs
  if s = 255 then (255, vs.map fun _ => 0, 0)
  else
    let k : Int := 127 - (s : Int)
    let rs := vs.map fun v => convertTo code (v.scale (if code = 7 then k + 6 else k))
    (s, rs.map Prod.fst, rs.countP Prod.snd)

/-- Elements of a part of a block that saturate under the whole block's scale (R32). -/
def mxSat (code : Nat) (block part : List Val) : Nat :=
  let s := mxScale code block
  if s = 255 then 0 else part.countP fun v => (convertTo code (v.scale ((if code = 7 then 6 else 0) + 127 - (s : Int)))).2

/-! ## Accumulation (R33 to R37, R485) -/

/-- A long accumulator between additions (Table 02-6): the finite sum, its flags and ZSIGN. -/
structure Acc where
  sum   : Val
  nan   : Bool
  pinf  : Bool
  ninf  : Bool
  zsign : Bool
  deriving DecidableEq, Repr

/-- No term added yet. -/
def Acc.start : Acc := { sum := .zero, nan := false, pinf := false, ninf := false, zsign := true }

/-- A term is exactly -0. -/
def Val.isNegZero : Val → Bool
  | .fin n m _ => n && m == 0
  | _ => false

/-- Add one term, rounding at 64 significand bits. -/
def Acc.add (a : Acc) (t : Val) : Acc :=
  match t with
  | .nan => { a with nan := true, zsign := false }
  | .inf n => { a with pinf := a.pinf || !n, ninf := a.ninf || n, zsign := false }
  | .fin .. => { a with sum := (Val.addX false a.sum t).round64, zsign := a.zsign && t.isNegZero }

/-- Add one term exactly: the block accumulator. -/
def Acc.addExact (a : Acc) (t : Val) : Acc :=
  match t with
  | .nan => { a with nan := true, zsign := false }
  | .inf n => { a with pinf := a.pinf || !n, ninf := a.ninf || n, zsign := false }
  | .fin .. => { a with sum := Val.addX false a.sum t, zsign := a.zsign && t.isNegZero }

/-- A zero sum with the sign that ZSIGN gives it (R485). -/
def Acc.finite (a : Acc) : Val :=
  match a.sum with
  | .fin n m e => if m = 0 then .fin a.zsign 0 0 else .fin n m e
  | v => v

/-- The flagged value (R36). -/
def Acc.val (a : Acc) : Val :=
  if a.nan || (a.pinf && a.ninf) then .nan
  else if a.pinf then .inf false
  else if a.ninf then .inf true
  else a.finite

/-- Add a finished block: its scaled sum as one term, its flags kept. -/
def Acc.addBlock (a blk : Acc) (scale : Option Int) : Acc :=
  match scale with
  | none => { a with nan := true, zsign := false }
  | some k =>
    let a' := a.add (blk.finite.scale k)
    { a' with nan := a'.nan || blk.nan, pinf := a'.pinf || blk.pinf, ninf := a'.ninf || blk.ninf }

/-- An operand vector along k: elements, and one E8M0 byte per block of 32 (empty without MX32). -/
structure KVec where
  elems  : List Val
  scales : List Nat
  deriving DecidableEq, Repr

/-- Elements of a list in groups of n. -/
def groupsOf {α : Type} (n : Nat) : Nat → List α → List (List α)
  | 0, _ => []
  | fuel + 1, xs => if xs.isEmpty then [] else xs.take n :: groupsOf n fuel (xs.drop n)

/-- Blocks of 32 along k. -/
def blocks32 {α : Type} (xs : List α) : List (List α) := groupsOf 32 (xs.length / 32 + 1) xs

/-- Scale exponent of block i of a vector: 0 without MX32. -/
def KVec.scaleOf (v : KVec) (i : Nat) : Option Int := match v.scales[i]? with | some s => e8m0 s | none => some 0

/-- Sum of two optional exponents. -/
def addExp (a b : Option Int) : Option Int := match a, b with | some x, some y => some (x + y) | _, _ => none

/-- Formats of the 8-bit and narrower class. -/
def narrowFmt (code : Nat) : Bool := decide (3 ≤ code)

/-- The chain of additions of one output element goes on with the products of two operand vectors, from the k it has reached (R22, R33
to R35, R37). -/
def dotMore (fa fb : Nat) (acc : Acc) (a b : KVec) : Acc :=
  let prods := (List.zip a.elems b.elems).map fun p => Val.mul p.1 p.2
  if narrowFmt fa && narrowFmt fb then
    ((blocks32 prods).zipIdx).foldl (fun acc (blk, i) =>
      acc.addBlock (blk.foldl Acc.addExact Acc.start) (addExp (a.scaleOf i) (b.scaleOf i))) acc
  else
    (prods.zipIdx).foldl (fun acc (p, k) =>
      match addExp (a.scaleOf (k / 32)) (b.scaleOf (k / 32)) with
      | none => acc.add .nan
      | some s => acc.add (p.scale s)) acc

/-- The chain of additions of one output element before per-row scaling, in one visit. -/
def dotAcc (fa fb : Nat) (a b : KVec) : Acc := dotMore fa fb Acc.start a b

/-- One output element as FP32 (steps 4 and 5 of R33): row scales of A and B where per-row scaling is in use. -/
def dotOut (acc : Acc) (sa sb : Option Val) : Val :=
  let v := acc.val
  let v := match sa with | some s => (Val.mul v s).round64 | none => v
  let v := match sb with | some s => (Val.mul v s).round64 | none => v
  v.f32

/-! ## Fixed-point references for the bounded functions (log 6) -/

/-- ln 2 with 80 fraction bits. -/
def ln2Fixed : Nat := 837963523372001241319907
/-- 2π with 80 fraction bits. -/
def twoPiFixed : Nat := 7595904947272677161575987

/-- exp of y / 2^80 for 0 ≤ y < 2^80, with 80 fraction bits, by 30 terms of its series. -/
def expFixed (y : Nat) : Nat :=
  ((List.range 30).foldl (fun (s, t) n => let t' := t * y / 2 ^ 80 / (n + 1); (s + t', t')) (2 ^ 80, 2 ^ 80)).1

/-- Floor and the fraction (80 bits) of a finite value of small magnitude. -/
def splitFixed (n : Bool) (m : Nat) (e : Int) : Int × Nat :=
  let f : Nat := if e + 80 ≥ 0 then m * 2 ^ (e + 80).toNat else m / 2 ^ (-(e + 80)).toNat
  let x : Int := if n then -(f : Int) else f
  (x / 2 ^ 80, (x % 2 ^ 80).toNat)

/-- A finite value as a fixed-point integer with 80 fraction bits (truncated). -/
def fixed80 : Val → Int
  | .fin n m e =>
    let f : Nat := if e + 80 ≥ 0 then m * 2 ^ (e + 80).toNat else m / 2 ^ (-(e + 80)).toNat
    if n then -(f : Int) else f
  | _ => 0

/-- A rising function of `bits`-bit keys with results from `lo` to `hi`, chosen freely: a node of the tree over the keys says where the
results of its two halves part (log 6).  Every rising function is one such choice. -/
def risingChoice (choice : Nat → Nat) : (bits node lo hi key : Nat) → Nat
  | 0, node, lo, hi, _ => lo + choice node % (hi - lo + 1)
  | n + 1, node, lo, hi, key =>
    let mid := lo + choice node % (hi - lo + 1)
    if key / 2 ^ n % 2 = 0 then risingChoice choice n (2 * node) lo mid key else risingChoice choice n (2 * node + 1) mid hi key

/-- The FP32 word of a positive value rounded down or up. -/
def wordDir (rm : Rm) (m : Nat) (e : Int) : Nat :=
  match (fmtOf 0).grid rm false m e with
  | .fin _ q k => ((fmtOf 0).pack false q k).getD ((fmtOf 0).maxWord)
  | _ => 0

/-- The place of an FP32 word in the order of the finite numbers. -/
def orderKey (x : BitVec 32) : Nat := if x.toNat < 2 ^ 31 then 2 ^ 31 + x.toNat else 2 ^ 32 - 1 - x.toNat

/-- The least and the largest FP32 word that R38 allows for a normal result: within a relative error of 2^-21 of the exact value, on 1's own
side of 1, and neither below 2^-126 nor infinite.  Both rise with x. -/
def exp2Bounds (n : Bool) (m : Nat) (e : Int) : Nat × Nat :=
  let (i, f) := splitFixed n m e
  let r := expFixed (f * ln2Fixed / 2 ^ 80)
  let lo := wordDir .rup (r * (2 ^ 21 - 1)) (i - 101)
  let hi := wordDir .rtz ((r + 1024) * (2 ^ 21 + 1)) (i - 101)
  if n then (max lo 0x00800000, min hi 0x3F800000) else (max lo 0x3F800000, min hi 0x7F7FFFFF)

/-- exp2 of the lanes (R38, R39): special values as the rule gives them; otherwise the lane's own rising function, held within the bounds,
which rise too, so that x1 ≤ x2 gives exp2(x1) ≤ exp2(x2). -/
def exp2Lane (x : BitVec 32) : BitVec 32 :=
  match ofF32 x with
  | .nan => 0x7FC00000
  | .inf n => if n then 0 else 0x7F800000
  | .fin n m e =>
    if m = 0 then 0x3F800000
    else if n && Val.lt (.fin true m e) (.fin true 126 0) then 0
    else if !n && !Val.lt (.fin false m e) (.fin false 128 0) then 0x7F800000
    else
      let (lo, hi) := exp2Bounds n m e
      BitVec.ofNat 32 (max lo (min hi (risingChoice Config.exp2Choice 32 1 0 (2 ^ 31) (orderKey x))))

/-- Sine and cosine series of an angle below π/4, 80 fraction bits. -/
def cosFixed (y : Nat) : Int :=
  ((List.range 14).foldl (fun ((s, t) : Int × Int) n => let t' := -(t * y / 2 ^ 80 * y / 2 ^ 80) / ((2 * n + 1) * (2 * n + 2) : Nat); (s + t', t'))
    ((2 ^ 80 : Int), (2 ^ 80 : Int))).1

/-- Sine series. -/
def sinFixed (y : Nat) : Int :=
  ((List.range 14).foldl (fun ((s, t) : Int × Int) n => let t' := -(t * y / 2 ^ 80 * y / 2 ^ 80) / ((2 * n + 2) * (2 * n + 3) : Nat); (s + t', t'))
    ((y : Int), (y : Int))).1

/-- Cosine of phase / 2^33 turn with 80 fraction bits. -/
def cosPhase (phase : Nat) : Int :=
  let oct := phase / 2 ^ 30
  let r := phase % 2 ^ 30
  let ang := fun (p : Nat) => p * twoPiFixed / 2 ^ 33
  match oct % 8 with
  | 0 => cosFixed (ang r)
  | 1 => sinFixed (ang (2 ^ 30 - r))
  | 2 => -sinFixed (ang r)
  | 3 => -cosFixed (ang (2 ^ 30 - r))
  | 4 => -cosFixed (ang r)
  | 5 => -sinFixed (ang (2 ^ 30 - r))
  | 6 => sinFixed (ang r)
  | _ => cosFixed (ang (2 ^ 30 - r))

/-- Cosine (false) or sine (true) of a 32-bit phase as an FP32 word (R41): the unit's own choice where it lies within 2^-22 of the exact
value at every angle that rounds to this phase (half a step to either side, R41's 2^-33 turn), the nearest FP32 value at the phase
otherwise. -/
def trigLane (sine : Bool) (phase : BitVec 32) : BitVec 32 :=
  let p := 2 * phase.toNat + (if sine then 3 * 2 ^ 31 else 0)
  let at' := fun (d : Nat) => cosPhase ((p + d) % 2 ^ 33)
  let cand := Config.trigCandidate sine phase
  let ok := match ofF32 cand with
    | .fin n m e => [2 ^ 33 - 1, 0, 1].all fun d => decide (fixed80 (.fin n m e) - at' d ≤ 2 ^ 58 ∧ at' d - fixed80 (.fin n m e) ≤ 2 ^ 58)
    | _ => false
  if ok then cand else (Val.fin (decide (at' 0 < 0)) (at' 0).natAbs (-80)).word32

/-- Phase of a position and a frequency (R40). -/
def rotaryPhase (p freq : Nat) : BitVec 32 := BitVec.ofNat 32 ((p * freq % 2 ^ 64 + 2 ^ 31) / 2 ^ 32)

/-- Fraction bits of log2 of a value in [1, 2) given with 80 fraction bits, one squaring a bit. -/
def log2Bits : Nat → Nat → Nat → Nat
  | 0, _, acc => acc
  | k + 1, y, acc =>
    let s := y * y / 2 ^ 80
    if 2 ^ 81 ≤ s then log2Bits k (s / 2) (2 * acc + 1) else log2Bits k s (2 * acc)

/-- log2 of a positive FP32 sum as an FP32 word (R124): the finaliser's own choice within an absolute error of 2^-20, the nearest
value otherwise. -/
def log2Lane (x : BitVec 32) : BitVec 32 :=
  match ofF32 x with
  | .nan => 0x7FC00000
  | .inf n => if n then 0x7FC00000 else 0x7F800000
  | .fin n m e =>
    if m = 0 then 0xFF800000
    else if n then 0x7FC00000
    else
      let l := bitLen m
      let y := if l ≤ 81 then m * 2 ^ (81 - l) else m / 2 ^ (l - 81)
      let r : Int := (e + l - 1) * 2 ^ 80 + (log2Bits 60 y 0 : Int) * 2 ^ 20
      let cand := Config.log2Candidate x
      let ok := match ofF32 cand with
        | .fin cn cm ce => decide (fixed80 (.fin cn cm ce) - r ≤ 2 ^ 60 ∧ r - fixed80 (.fin cn cm ce) ≤ 2 ^ 60)
        | _ => false
      if ok then cand else (Val.fin (decide (r < 0)) r.natAbs (-80)).word32

/-! ## FP32 operations of the arrays' output side -/

/-- FP32 sum. -/
def Val.add32 (a b : Val) : Val := (Val.addX (a.isNegZero && b.isNegZero) a b).f32
/-- FP32 product. -/
def Val.mul32 (a b : Val) : Val := (Val.mul a b).f32
/-- FP32 difference. -/
def Val.sub32 (a b : Val) : Val := Val.add32 a b.neg
/-- FP32 quotient. -/
def Val.div32 (a b : Val) : Val := (Val.div a b).f32

/-- exp2 on a value that is an FP32 number. -/
def Val.exp2 (v : Val) : Val := ofF32 (exp2Lane v.word32)

end Sys2Proof.Machine
end

