-- ==== Sys2Proof/Machine/HostState.lean ====
section
/-! DEFINITION. State of the module as a whole, its host interface, the Harbour arbiter, power and the Lighthouse domain. -/

namespace Sys2Proof.Machine

/-- Module states (Table 11-10; GLB_STATE.STATE). `standby` has no code (chapter 16). -/
inductive ModState where
  | standby | boot | ready | loaded | running | draining | degraded | resync
  deriving DecidableEq, Repr

/-- Power states (Table 14-8). -/
inductive PowerState where
  | run | idle | standby | off
  deriving DecidableEq, Repr

/-- An owner slot of the fuses (R469). -/
structure OwnerSlot where
  valid   : Bool
  revoked : Bool
  /-- SHA-512 of the owner's public key. -/
  hash    : Bytes
  deriving DecidableEq, Repr

/-- The fuses and straps: set in manufacture, blown one way afterwards (R453, R460, R470). -/
structure Fuses where
  serial     : BitVec 64
  stepLetter : BitVec 4
  stepDigit  : BitVec 4
  /-- F64 code: Shoal present (R3). -/
  shoal      : Bool
  /-- D2T code: 2 TiB of DDR5 (Table 00-1). -/
  twoTiB     : Bool
  secure     : Bool
  /-- SHA-512 of the root public key. -/
  rootHash   : Bytes
  rollback   : Nat
  debugOwner : Bool
  owners     : List OwnerSlot
  deriving DecidableEq, Repr

/-- The module's own place and what start-up found. -/
structure Glb where
  state      : ModState
  bootFault  : Nat
  faultUnit  : Nat
  /-- SLOT strap A-0063 to A-0065. -/
  slot       : Fin 8
  /-- Port-mode strap A-0066: two x4 ports. -/
  dualPort   : Bool
  /-- Trained DDR5: rate in 100 MT/s, GiB per DIMM, MRDIMM. -/
  ddrRate    : Nat
  ddrGib     : Nat
  ddrMrdimm  : Bool
  /-- Step of Table 14-9 that start-up has reached, 0 when not started. -/
  step       : Nat
  /-- LH_TIME at step 1 of the running start-up (R448, R449). -/
  startedAt  : Nat
  /-- Start-up stopped by a finding, a removal request or the 12 s limit. -/
  stopped    : Bool
  /-- PCIe links trained (step 10). -/
  pcieUp     : Bool
  /-- Only the GLB block answers (R458). -/
  glbOnly    : Bool
  /-- Trip of Table 14-6: the module is off until 54 V or aux is cycled. -/
  tripped    : Bool
  deriving DecidableEq, Repr

/-- Level of the sideband pins (Table 14-2): inputs as last driven, outputs as the module drives them. -/
structure Pins where
  aux          : Bool
  presence     : Bool
  v54          : Bool
  mainEn       : Bool
  prechargeOk  : Bool
  pwrFault     : Bool
  removeOk     : Bool
  wakeIn       : Bool
  /-- PERST# asserted on port 0, on port 1. -/
  perst0       : Bool
  perst1       : Bool
  latchOpen    : Bool
  attn         : Bool
  leak         : Bool
  converterOn  : Bool
  /-- WAKE# driven. -/
  wake         : Bool
  /-- Power feed of each of the 20 cages (R435), bit k for cage k. -/
  cageFeed     : BitVec 20
  deriving DecidableEq, Repr

/-- HIF registers of one port (Table 16-3), each as the whole register. -/
structure Hif where
  ctrl     : BitVec 64
  dbPoll   : BitVec 64
  evtBase  : BitVec 64
  evtSize  : BitVec 64
  evtDbrec : BitVec 64
  evtMask  : BitVec 64
  bar2Off  : BitVec 64
  /-- HIF_STATUS.POLLING. -/
  polling  : Bool
  /-- LH_TIME at which the port last had something to do (R344). -/
  busyAt   : Nat
  /-- Number e of the next event record (R341). -/
  evtCount : Nat
  /-- BAR2 window size in bytes (R217). -/
  bar2Size : Nat
  deriving DecidableEq, Repr

/-- HIF registers after reset (Table 16-3). -/
def Hif.reset : Hif :=
  { ctrl := 0, dbPoll := 0x000A000A, evtBase := 0, evtSize := 256, evtDbrec := 0, evtMask := 0, bar2Off := 0,
    polling := false, busyAt := 0, evtCount := 0, bar2Size := 2 ^ 36 }

/-- One ring: registers of Table 16-4 and the indices of Table 11-2. -/
structure Ring where
  base    : BitVec 64
  cqBase  : BitVec 64
  dbrec   : BitVec 64
  size    : BitVec 64
  /-- ENABLE, PRIO, IRQ_ALL and VECTOR of CTRL; the other bits are computed when read. -/
  ctrl    : BitVec 64
  sqTail  : Nat
  sqHead  : Nat
  cqHead  : Nat
  /-- Number c of the next completion entry (R339). -/
  cqCount : Nat
  deriving DecidableEq, Repr

/-- RING registers after reset (Table 16-4). -/
def Ring.reset : Ring :=
  { base := 0, cqBase := 0, dbrec := 0, size := 16, ctrl := 0, sqTail := 0, sqHead := 0, cqHead := 0, cqCount := 0 }

/-- Life of a taken command (R346, R179, R339). -/
inductive Phase where
  | waiting | running | held | finished
  deriving DecidableEq, Repr

/-- A command taken from a ring and not yet completed. -/
structure Cmd where
  id       : Nat
  ring     : Nat
  /-- Command number on its ring (free-running). -/
  index    : Nat
  bytes    : Bytes
  phase    : Phase
  waitMet  : Bool
  /-- Order of start among all commands (R358). -/
  startNo  : Nat
  /-- Committed progress of SEQ_APPEND and SEQ_STEP: steps, tokens, passes. -/
  steps    : Nat
  tokens   : Nat
  passes   : Nat
  /-- A SEQ_APPEND that took the pending token as its first token (R488). -/
  tookPend : Bool
  /-- To be ended at its next commit with E_ABORTED (R158, R366). -/
  stopping : Bool
  /-- Ranks that have not yet reported their part (R166). -/
  ranks    : List Nat
  status   : Nat
  result   : Bytes
  /-- Order of finishing; completions are written in it. -/
  finNo    : Nat
  /-- The arbiter's next SEQNO when the command finished (R301). -/
  evtNo    : Nat
  deriving DecidableEq, Repr

/-- The host interface. -/
structure HostIf where
  port0     : Hif
  port1     : Hif
  rings     : Tab Ring
  cmds      : List Cmd
  nextId    : Nat
  nextStart : Nat
  nextFin   : Nat
  /-- Ring from which the last command was taken (R346: equal priority in turn). -/
  lastRing  : Nat
  deriving DecidableEq, Repr

/-- Event record (Table 09-7). -/
structure EventRec where
  seqno  : Nat
  time   : Nat
  code   : Nat
  source : Nat
  detail : Nat
  deriving DecidableEq, Repr

/-- The hold queue of one port (R302), and the run of drops that is open. -/
structure EventQueue where
  held    : List EventRec
  dropped : Nat
  dropSeq : Nat
  dropAt  : Nat
  deriving DecidableEq, Repr

/-- The empty hold queue. -/
def EventQueue.empty : EventQueue := { held := [], dropped := 0, dropSeq := 0, dropAt := 0 }

/-- The Harbour arbiter (R300, R302). -/
structure Arbiter where
  next : Nat
  q0   : EventQueue
  q1   : EventQueue
  deriving DecidableEq, Repr

/-- A removal request that is being served (R450). -/
structure Removal where
  source   : Nat
  /-- LH_TIME of the request, from which the 10 s of step 6 run. -/
  since    : Nat
  /-- Handing the share over at the next commit (step 3). -/
  draining : Bool
  deriving DecidableEq, Repr

/-- Power control and monitors. -/
structure Power where
  state      : PowerState
  /-- CAP_W of the last SET_POWER, 0 for the rated limit. -/
  capW       : Nat
  idleOk     : Bool
  inputMv    : Nat
  inputW     : Nat
  packageW   : Nat
  /-- LH_TIME at which each limit cause 1 to 4 last limited (R438), by cause. -/
  limitedAt  : Tab Nat
  /-- The arithmetic clock of the cove islands is stepped down (R437, R440). -/
  clocksDown : Bool
  /-- Temperature of each sensor of Table 14-4, in 1/16 °C, by sensor. -/
  temps      : Tab (BitVec 16)
  /-- LH_TIME at which a sensor was last above its warn (2 × sensor) or limit (2 × sensor + 1) level. -/
  warnedAt   : Tab Nat
  /-- HBM4 refresh doubled (R219), bit per stack. -/
  refresh2x  : BitVec 8
  removal    : Option Removal
  /-- LH_TIME at which STANDBY was entered. -/
  standbyAt  : Nat
  /-- MON_CLASS (Table 16-9). -/
  monClass   : BitVec 64
  deriving DecidableEq, Repr

/-- MON_CLASS after reset: WINDOW 24, THRESH 4. -/
def monClassReset : BitVec 64 := 0x1804

/-- The Lighthouse domain except LH_TIME (Table 16-6). -/
structure Lighthouse where
  /-- 64ths of a nanosecond that the crystal pattern has accumulated (R442). -/
  frac    : Nat
  cmp0    : BitVec 64
  cmp1    : BitVec 64
  flags   : BitVec 8
  /-- 16-bit occurrence counters of the flags. -/
  counts  : Tab (BitVec 16)
  /-- Timer 0, timer 1 has set its flag since its comparator was written (R443, R478). -/
  fired0  : Bool
  fired1  : Bool
  wakeEn  : BitVec 64
  tempLvl : BitVec 64
  deriving DecidableEq, Repr

/-- The Lighthouse registers after a power-on reset (Table 16-6). -/
def Lighthouse.reset : Lighthouse :=
  { frac := 0, cmp0 := 0, cmp1 := 0, flags := 0, counts := [], fired0 := false, fired1 := false, wakeEn := 0x3F, tempLvl := 0x6464 }

/-- Where a message of the module goes. -/
inductive Dest where
  | rank (r : Nat)
  | slot (s : Nat)
  | allRanks
  | partner
  | link (l : Nat)
  | host (port : Nat)
  | sideband
  deriving DecidableEq, Repr

/-- What leaves the module besides bytes written into host memory. -/
inductive Msg where
  | msix (vector : Nat)
  | fanout (m : Fanout)
  | passNotice (n : PassNotice)
  | passReport (rank : Nat) (flags : PassFlags)
  | commitReady (rank : Nat)
  | commit (m : CommitMsg)
  | rankFinished (rank key status : Nat)
  | stateRecord (r : StateRec)
  | mirror (m : MirrorMsg)
  | mirrorAck (crc : Nat)
  | commitNotice (n : CommitNotice)
  | grant (g : TideGrant)
  | piece (p : TidePiece)
  | payload (p : BcastPayload)
  | partialOf (p : GatherMsg)
  | window (r : WindowReq)
  | windowData (bytes : Bytes)
  | global (p : GlobalMsg)
  | poison (n : PoisonOf)
  | resend (r : ResendOf)
  | request (r : RemoteReq)
  | response (bytes : Bytes)
  | noAnswer
  | pageEntry (m : PageEntryMsg)
  | entryRequest (vaddr : Nat)
  | bufferMap (m : BufferMapMsg)
  | victim (rank seq : Nat) (why : VictimWhy)
  | preempt (seq cause : Nat)
  | abandon (m : AbandonMsg)
  | beat (relayFor : Option Nat)
  | faultNotice (lost : Option Nat)
  | handback (cqCount sqHead : Nat)
  | gap (m : GapNotice)
  /-- An identity record: the 32 bytes of Table 10-6. -/
  | identity (record : Bytes)
  | flit (bytes : Bytes)
  | spdm (code : Nat) (body : Bytes)
  | bar2Data (bytes : Bytes)
  /-- Answer to a PLDM firmware component: taken, or refused (R458). -/
  | pldm (taken : Bool)
  deriving DecidableEq, Repr

/-- One message and where it goes. -/
structure Sent where
  dest : Dest
  msg  : Msg
  deriving DecidableEq, Repr

end Sys2Proof.Machine
end

