-- ==== Sys2Proof/Machine/EngineState.lean ====
section
/-! DEFINITION. State of the loaded plan, its job and sequences, the coves and their cores, the Longshore channels and the
tide movers. -/

namespace Sys2Proof.Machine

/-! ## Plan and job -/

/-- A contiguous physical piece of a buffer (Table 16-11, SELECT 1). -/
structure Piece where
  vaddr : Nat
  paddr : Nat
  bytes : Nat
  deriving DecidableEq, Repr

/-- A buffer of the plan: its buffer-table entry (Table 03-21), where it lies, and its initial contents. -/
structure Buf where
  entry  : Bytes
  pieces : List Piece
  init   : Bytes
  deriving DecidableEq, Repr

/-- The loaded plan. -/
structure Plan where
  loaded    : Bool
  bufs      : List Buf
  /-- Operation records of 256 bytes, by index (R60). -/
  ops       : List Bytes
  /-- Pass-table entries of 64 bytes (Table 03-23). -/
  passes    : List Bytes
  /-- Semaphore range object (Table 09-2). -/
  sem       : Bytes
  /-- Layout descriptor with its LAT_SCALE bytes (Table 05-3). -/
  layout    : Bytes
  /-- Tideway descriptor (Table 06-1). -/
  tide      : Bytes
  /-- Engine settings entries (Table 08-12). -/
  engines   : List Bytes
  passBlock : Nat
  tokenBuf  : Nat
  tokenCap  : Nat
  /-- SHA-512 digest of the image (Table 11-9, R412). -/
  digest    : Bytes
  /-- The P that LOAD_PLAN checked (R487). -/
  jobP      : Nat
  deriving DecidableEq, Repr

/-- No plan. -/
def Plan.blank : Plan :=
  { loaded := false, bufs := [], ops := [], passes := [], sem := [], layout := [], tide := [], engines := [],
    passBlock := 0, tokenBuf := 0, tokenCap := 0, digest := [], jobP := 1 }

/-- Frame allocator of the key-value pools and table pools (R151, R173, R235). Frames are numbered by address / 8 KiB. -/
structure Alloc where
  /-- Reference count of each key-value frame in use. -/
  refs      : Tab Nat
  /-- PAGE_POOL_LOW raised and not yet re-armed: HBM4, DDR5 (R174). -/
  lowHbm    : Bool
  lowDdr    : Bool
  /-- Table-pool frames in use. -/
  tables    : List Nat
  /-- Table frames reserved by open sequences and not yet taken (R235). -/
  reserved  : Nat
  /-- Swap slots in use (R181). -/
  swap      : List Nat
  /-- Page that first took a frame, as seq × 2^44 + layer × 2^32 + page. -/
  owner     : Tab Nat
  /-- Frame of the shared level-4 table of absent entries (R236), in each rank context. -/
  absent    : Option Nat
  deriving DecidableEq, Repr

/-- A placement or pin rule on a range of layers and pages of a sequence (R167, R172). -/
structure PageRule where
  layer  : Nat
  layers : Nat
  page   : Nat
  pages  : Nat
  /-- Tier 0 HBM4 or 1 DDR5 for a placement; none for a pin rule. -/
  tier   : Option Nat
  pin    : Bool
  deriving DecidableEq, Repr

/-- Where a pre-emption of a sequence stands (R178 to R182). -/
inductive PreState where
  | none
  /-- Chosen, waiting for the step boundary; the cause of R185. -/
  | pending (cause : Nat)
  /-- In effect; Ebb is still copying. -/
  | ebbing
  /-- Ebb complete. -/
  | swapped
  /-- Flood has brought the pages of this module back; the other ranks' are awaited (R182). -/
  | flooded
  deriving DecidableEq, Repr

/-- Fields of a sequence table entry (Table 05-4). -/
structure SeqEnt where
  length    : Nat
  committed : Nat
  vbase     : Nat
  capPages  : Nat
  state     : Nat
  priority  : Nat
  openTime  : Nat
  seed      : Nat
  swapped   : Nat
  pending   : Nat
  deriving DecidableEq, Repr

/-- A page that Flood has brought back while its swap slot is still held (R182, R183). -/
structure BackPage where
  second : Bool
  layer  : Nat
  page   : Nat
  slot   : Nat
  deriving DecidableEq, Repr

/-- What firmware keeps of a sequence besides its table entry (Table 05-4). -/
structure SeqFw where
  rules     : List PageRule
  pre       : PreState
  /-- The sequence is being closed. -/
  closing   : Bool
  /-- The table entry that the sequence gets when its SEQ_OPEN completes (R157). -/
  opening   : Option SeqEnt
  /-- Key of the queued SEQ_RESUME (R182). -/
  resume    : Option Nat
  /-- Pages that Flood has brought back. -/
  back      : List BackPage
  /-- Private table frames this sequence has taken, in each rank context, and its reservation left (R235). -/
  tables    : List Nat
  tables2   : List Nat
  reserve   : Nat
  /-- Edit lists deferred to the next commit, with the leader's key (R170). -/
  deferred  : List (Nat × Bytes)
  /-- Mirror frames reserved on the partner for this sequence (R415): layer × 2^32 + page. -/
  mirror    : List Nat
  deriving DecidableEq, Repr

/-- A sequence of which nothing is known: CLOSED. -/
def SeqFw.closed : SeqFw :=
  { rules := [], pre := .none, closing := false, opening := .none, resume := .none, back := [], tables := [], tables2 := [], reserve := 0, deferred := [], mirror := [] }

/-- A fault in firmware's hands: of a translation (R163), or of a line that ECC could not correct (R241). -/
structure XFault where
  id     : Nat
  who    : Faulter
  vaddr  : Nat
  write  : Bool
  /-- In the second rank context (R420). -/
  second : Bool
  /-- The line that was read in vain (R241); none for a translation fault. -/
  line   : Option BadLine
  deriving DecidableEq, Repr

/-- A page move in progress (R169): `step` is the number of steps done. -/
structure PageMv where
  id     : Nat
  seq    : Nat
  layer  : Nat
  page   : Nat
  old    : Nat
  new    : Nat
  tier   : Nat
  step   : Nat
  /-- Leader's key of the SEQ_EDIT_PAGES it belongs to; 0 for none. -/
  key    : Nat
  /-- Later PLACEs of the page, in order: sequence, tier and key (R167). -/
  next   : List (Nat × Nat × Nat)
  deriving DecidableEq, Repr

/-- What waits for an invalidate (R238). -/
inductive InvFor where
  | edit (key : Nat)
  | move (id : Nat)
  | ebb (seq : Nat) (frames : List Nat)
  | flood (seq : Nat)
  | close (seq key : Nat) (frames : List Nat)
  | nothing
  deriving DecidableEq, Repr

/-- An invalidate in progress over a range of virtual addresses. -/
structure Inval where
  id   : Nat
  lo   : Nat
  hi   : Nat
  /-- Further ranges: the same pages in the sequences that share them (R166, R169). -/
  more : List (Nat × Nat)
  what : InvFor
  deriving DecidableEq, Repr

/-- This rank's part of a non-step command (R166, R421).  A SEQ_EDIT_PAGES is done when no invalidate and no move of its key is left, a
SEQ_PREEMPT when the sequence is swapped. -/
structure Task where
  key    : Nat
  opcode : Nat
  seq    : Nat
  status : Nat
  deriving DecidableEq, Repr

/-- A rank's report (R360). -/
structure Report where
  rank  : Nat
  flags : PassFlags
  deriving DecidableEq, Repr

/-- The pass in progress. -/
structure Pass where
  notice   : PassNotice
  /-- Notice of the second rank context (R420). -/
  notice2  : Option PassNotice
  /-- The command that runs it, on the leader. -/
  cmd      : Option Nat
  /-- Steps 2 to 5 of Table 11-7 done on this rank. -/
  started  : Bool
  started2 : Bool
  /-- Step 7 done on this rank. -/
  reported : Bool
  reported2 : Bool
  /-- What poisoned it on this rank. -/
  flags    : PassFlags
  reports  : List Report
  /-- Ranks that have sent commit-ready (Table 13-6 step 3). -/
  ready    : List Nat
  /-- The commit notice has gone to the leader's partner (Table 13-6 step 4). -/
  noticed  : Bool
  deriving DecidableEq, Repr

/-- A START_JOB in progress. -/
structure Starting where
  cmd       : Nat
  /-- The buffer maps are in, and the START pass has been opened or is not needed. -/
  passDone  : Bool
  deriving DecidableEq, Repr

/-- The job on this module. -/
structure Job where
  /-- START_JOB has completed and STOP_JOB has not (GLB_STATE.IN_JOB). -/
  inJob     : Bool
  starting  : Option Starting
  swapAddr  : Nat
  swapBytes : Nat
  regions   : List (Nat × Nat)
  pass      : Option Pass
  /-- Ranks whose START_JOB has completed, on the leader and, for its partner's rank, on a bound member. -/
  started   : List Nat
  /-- STOP_JOB in progress on this rank: the leader's key and MODE. -/
  stopping  : Option (Nat × Nat)
  /-- A stop of the plan channels is in effect (R273). -/
  stopChans : Bool
  /-- Buffer maps received (R231). -/
  maps      : List BufferMapMsg
  deriving DecidableEq, Repr

/-- No job. -/
def Job.blank : Job :=
  { inJob := false, starting := .none, swapAddr := 0, swapBytes := 0, regions := [], pass := .none, started := [],
    stopping := .none, stopChans := false, maps := [] }

/-- Firmware's work on pages and commands. -/
structure PageFw where
  alloc   : Alloc
  seqs    : Tab SeqFw
  faults  : List XFault
  /-- Requests of other ranks that wait for a fault of theirs here, by the number of the request (R269). -/
  remote  : List (Nat × RemoteReq)
  /-- Board peers' requests for the entry of a page for which no frame is free: board slot and address (R160, R177). -/
  wanting : List (Nat × Nat)
  moves   : List PageMv
  invals  : List Inval
  tasks   : List Task
  /-- Parts of fanned-out commands done here: key and status (R409, R421). -/
  journal : List (Nat × Nat)
  nextId  : Nat
  nextKey : Nat
  deriving DecidableEq, Repr

/-- Nothing allocated. -/
def PageFw.empty : PageFw :=
  { alloc := { refs := [], lowHbm := false, lowDdr := false, tables := [], reserved := 0, swap := [], owner := [], absent := none }, seqs := [],
    faults := [], remote := [], wanting := [], moves := [], invals := [], tasks := [], journal := [], nextId := 1, nextKey := 1 }

/-! ## Coves -/

/-- An entry of a micro-TLB (R47): block base, block size and the final entry. -/
structure TlbEntry where
  base   : Nat
  size   : Nat
  entry  : Nat
  second : Bool
  deriving DecidableEq, Repr

/-- An operation in a cove's queue: index, bound record, and which of its waits are met (R66). -/
structure QEntry where
  op  : Nat
  record : Bytes
  met : BitVec 4
  deriving DecidableEq, Repr

/-- How an instance stands to its die's stage slots (R79): it waits for one, or pins one that is being filled for it. -/
inductive Staging where
  | none
  | waiting
  | filling (slot : Nat)
  deriving DecidableEq, Repr

/-- An operation in a context (R48). -/
structure Ctx where
  op      : Nat
  record  : Bytes
  met     : BitVec 4
  /-- The order in which the last of its waits was met, among the operations of the module (R268). -/
  metNo   : Nat
  /-- Taken from the queue of the second rank context (R420). -/
  second  : Bool
  /-- Order of taking on this cove. -/
  taken   : Nat
  /-- Shape read at the take. -/
  m       : Nat
  n       : Nat
  k       : Nat
  /-- Length entry read at the take (L, or L0 under R132). -/
  len     : Nat
  /-- L1 of R132 once the last wait is met. -/
  len1    : Option Nat
  /-- Pages streamed before the last wait of an EARLY decode (R132): virtual address and bytes. -/
  early   : List (Nat × Bytes)
  /-- Group, or global and lengths tables read at the take. -/
  table1  : Bytes
  table2  : Bytes
  /-- Work units done: register-tile visits, tiles or units of the instance's own share, or of the tail tile it computes. -/
  pos     : Nat
  /-- Long accumulators of output elements whose k range is not done, in an array or spilled to scratch (R22), by row × 2^32 + column. -/
  accs    : Tab Acc
  /-- The instance has started to run (R80). -/
  started : Bool
  staging : Staging
  /-- Request sequence of the tail (R85), and whether the tail has ended. -/
  tailSeq : Nat
  tailEnd : Bool
  /-- Kernel threads, channel program or mover halves have been started. -/
  begun   : Bool
  rxDone  : Bool
  txDone  : Bool
  /-- Poisoned for a reason of its own; its signals are poison. -/
  poisoned : Bool
  /-- Fault in firmware's hands that halts it. -/
  fault   : Option Nat
  deriving DecidableEq, Repr

/-- State of a hardware thread of a cove core. -/
inductive ThreadState where
  | idle | running | waiting | faulted | ended
  deriving DecidableEq, Repr

/-- A hardware thread (R51): its own integer, floating-point and vector registers and CSRs. -/
structure Thread where
  state   : ThreadState
  /-- Context of the KERNEL it runs. -/
  ctx     : Nat
  pc      : BitVec 64
  x       : Tab (BitVec 64)
  f       : Tab (BitVec 64)
  v       : Tab (BitVec 1024)
  /-- fcsr (0x003), vstart (0x008), vxsat (0x009), vxrm (0x00A), vl (0xC20), vtype (0xC21), cycle/instret (0xC00, 0xC02), by number. -/
  csr     : Tab (BitVec 64)
  /-- Machine-mode CSRs by number, which user mode cannot reach: a trap writes mepc (0x341) and mcause (0x342) (R50, log 61). -/
  mcsr    : Tab (BitVec 64)
  /-- Privilege: user mode while a kernel runs, machine mode while the launcher does (R50). -/
  user    : Bool
  deriving DecidableEq, Repr

/-- A thread that runs nothing. -/
def Thread.idle : Thread :=
  { state := .idle, ctx := 0, pc := 0, x := [], f := [], v := [], csr := [], mcsr := [], user := false }

/-- A logical cove. -/
structure Cove where
  queue    : List QEntry
  /-- Queue of the second rank context (R420). -/
  queue2   : List QEntry
  ctx0     : Option Ctx
  ctx1     : Option Ctx
  ctx2     : Option Ctx
  ctx3     : Option Ctx
  nextTake : Nat
  /-- Micro-TLB, most recently used first. -/
  tlb      : List TlbEntry
  /-- Lines of the core's instruction cache (R228): rank context and virtual address / 64, most recently used first. -/
  icache   : List (Bool × Nat)
  thread0  : Thread
  thread1  : Thread
  thread2  : Thread
  thread3  : Thread
  /-- Counters of Table 16-12 by code. -/
  counters : Tab Nat
  deriving DecidableEq, Repr

/-- A cove that holds nothing. -/
def Cove.empty : Cove :=
  { queue := [], queue2 := [], ctx0 := none, ctx1 := none, ctx2 := none, ctx3 := none, nextTake := 0, tlb := [], icache := [],
    thread0 := Thread.idle, thread1 := Thread.idle, thread2 := Thread.idle, thread3 := Thread.idle, counters := [] }

/-- Highest request sequence that a work counter has served to a cove (R296). -/
structure TakeSeq where
  counter : Nat
  cove    : Nat
  seq     : Nat
  deriving DecidableEq, Repr

/-! ## Longshore -/

/-- Channel states (Table 08-9). -/
inductive ChState where
  | idle | run | haltedFault | haltedErr
  deriving DecidableEq, Repr

/-- The last 64-byte line a channel wrote to a destination target since its last read-back (R264). -/
structure LastLine where
  /-- Board slot, 17 for the host, or 64 + rank. -/
  unit : Nat
  /-- The part of the line that was written. -/
  addr  : Nat
  bytes : Bytes
  /-- The tile that wrote it: instruction and loop index, offset in its stream, and the retries that its read-backs have taken. -/
  instr   : Nat
  iter    : Nat
  off     : Nat
  retries : Nat
  deriving DecidableEq, Repr

/-- A Longshore channel. -/
structure Channel where
  state   : ChState
  /-- The XFER it runs: cove and context. -/
  cove    : Nat
  ctx     : Nat
  second  : Bool
  prog    : Nat
  /-- Instruction index and loop index (R255). -/
  instr   : Nat
  iter    : Nat
  /-- Bytes of the current MOVE that are written and acknowledged (R269). -/
  done    : Nat
  /-- Bus errors of the current tile (R270). -/
  retries : Nat
  /-- Slots ejected from this program run (R277). -/
  ejected : BitVec 8
  last    : List LastLine
  /-- It stands at a descriptor boundary: at the start, or behind a MOVE, an MCAST or a STOPPT (R273, R274). -/
  bound   : Bool
  stop    : Bool
  fault   : Option Nat
  deriving DecidableEq, Repr

/-- An idle channel. -/
def Channel.idle : Channel :=
  { state := .idle, cove := 0, ctx := 0, second := false, prog := 0, instr := 0, iter := 0, done := 0, retries := 0,
    ejected := 0, last := [], bound := false, stop := false, fault := none }

/-- The engines: channels by ENGINE × 32 + channel, counters by ENGINE × 4 + k (R252), retired channels (R274). -/
structure Engines where
  chans    : Tab Channel
  counters : Tab Nat
  /-- Number of the channel that serves a retired channel's number. -/
  serves   : Tab Nat
  deriving DecidableEq, Repr

/-! ## Tide movers -/

/-- The two movers: messages that arrived before the step that takes them, and the resends of transfers in progress. -/
structure Movers where
  inbox   : List Msg
  /-- Mismatches on the transfer in progress, by a key of transfer kind and die (R208). -/
  misses  : Tab Nat
  /-- TIDE_RESEND per die. -/
  resends : Tab Nat
  /-- Pages that have arrived in a global cache at the root: (seq, layer, count). -/
  globals : List (Nat × Nat × Nat)
  deriving DecidableEq, Repr

/-- A stage slot in use (R78, R79): the die, rank context and operation whose region holds it, its number, and the slabs in it: the lagoon
tile's first row and column, its expert and its lagoon k-tile. -/
structure StageSlot where
  die    : Nat
  second : Bool
  op     : Nat
  slot   : Nat
  row    : Nat
  col    : Nat
  expert : Nat
  kt     : Nat
  /-- The slabs are there. -/
  filled : Bool
  deriving DecidableEq, Repr

/-- A finished piece of an appended record row whose other pieces are not finished (R164): its operation, output row and first column. -/
structure RowPart where
  second : Bool
  op     : Nat
  row    : Nat
  col    : Nat
  cols   : Nat
  bytes  : Bytes
  deriving DecidableEq, Repr

/-! ## Caches -/

/-- A line of 256 bytes in a memory-side cache (R227): its number, and whether it has been written since it came in. -/
structure CacheLine where
  line  : Nat
  dirty : Bool
  deriving DecidableEq, Repr

/-- A group in a bay walk cache (R237): the eight final entries of one aligned 64-byte group of a table, for consecutive blocks of a size
from a base. -/
structure WalkGroup where
  second  : Bool
  base    : Nat
  size    : Nat
  entries : List Nat
  deriving DecidableEq, Repr

/-- An entry of levels 1 to 3 in a bay walk cache (Table 07-6): the index shift of its level, the index, and the table it points to. -/
structure UpperEntry where
  second : Bool
  shift  : Nat
  index  : Nat
  table  : Nat
  deriving DecidableEq, Repr

/-- The caches of the module, each list most recently used first: they hold what memory holds and are no home of bytes (R228). -/
structure Caches where
  /-- Memory-side cache of each die. -/
  lines   : Tab (List CacheLine)
  /-- Lagoon bytes of each die that the plan claims (R227). -/
  claimed : Tab Nat
  /-- Bay walk caches, by die × 16 + bay. -/
  groups  : Tab (List WalkGroup)
  uppers  : Tab (List UpperEntry)
  /-- TLB of each die's translation unit. -/
  finals  : Tab (List TlbEntry)
  deriving DecidableEq, Repr

/-- Nothing cached, no lagoon byte claimed. -/
def Caches.empty : Caches := { lines := [], claimed := [], groups := [], uppers := [], finals := [] }

/-- The whole compute side. -/
structure Engine where
  coves   : Tab Cove
  taken   : List TakeSeq
  /-- Stage slots in use, most recently used first. -/
  stages  : List StageSlot
  rows    : List RowPart
  /-- Number that the next operation gets whose waits are all met (R268). -/
  nextMet : Nat
  ls      : Engines
  movers  : Movers
  caches  : Caches
  deriving DecidableEq, Repr

/-- Nothing running. -/
def Engine.empty : Engine :=
  { coves := [], taken := [], stages := [], rows := [], nextMet := 0, ls := { chans := [], counters := [], serves := [] },
    movers := { inbox := [], misses := [], resends := [], globals := [] }, caches := Caches.empty }

end Sys2Proof.Machine
end

