-- ==== Sys2Proof/Machine/FabricState.lean ====
section
/-! DEFINITION. State of the links, the Breakwater pair, the spares and error history, Shoal and the security block. -/

namespace Sys2Proof.Machine

/-! ## Links -/

/-- Link states (Table 10-13). -/
inductive LinkState where
  | disabled | down | training | up | quarantined | versionDown | circuitDown | pass
  deriving DecidableEq, Repr

/-- A packet of own traffic (R318): the serial of the module it goes to, virtual channel, bundle sequence number and flits. -/
structure Packet where
  peer  : Nat
  vc    : Nat
  num   : Nat
  flits : Nat
  deriving DecidableEq, Repr

/-- What a flit carries: a flit of a packet of own traffic, whose payload the spec does not lay out, or the payload of a pass-through flit. -/
inductive FlitLoad where
  | own (p : Packet)
  | passed (payload : Bytes)
  deriving DecidableEq, Repr

/-- A flit that waits for its slot on a link. -/
structure WaitFlit where
  vc    : Nat
  first : Bool
  last  : Bool
  load  : FlitLoad
  deriving DecidableEq, Repr

/-- A flit in a replay buffer and how often it has been sent again (R321). -/
structure ReplayFlit where
  seq     : Nat
  flit    : WaitFlit
  replays : Nat
  deriving DecidableEq, Repr

/-- One link. -/
structure Link where
  state      : LinkState
  /-- LNK_CTRL.DISABLE and RETRAIN. -/
  disable    : Bool
  retrain    : Bool
  lanes      : Nat
  spareUsed  : Bool
  /-- Physical lanes retired, bit per lane. -/
  retired    : BitVec 5
  version    : Nat
  lastCause  : Nat
  changed    : Bool
  changes    : BitVec 16
  /-- Last trained peer, as LNK_PEER and LNK_PEERINFO show it (none: 0 and 0xFFFF). -/
  peer       : Option IdRec
  /-- Serial of the last trained peer, kept for the 'LINK' record. -/
  lastPeer   : Nat
  /-- LH_TIME before which a retry does not start (R312). -/
  retryAt    : Nat
  trainFails : Nat
  replays    : Nat
  /-- Next sequence number to send and last received in order. -/
  txSeq      : BitVec 16
  rxSeq      : BitVec 16
  replayBuf  : List ReplayFlit
  /-- Flits received since the last ACK was returned (R321). -/
  unacked    : Nat
  /-- Reserved credits left per virtual channel 0 to 5, and shared credits taken per channel (Table 10-10). -/
  credits    : List Nat
  shared     : List Nat
  /-- Credits to return to the far end, by virtual channel. -/
  owed       : List Nat
  /-- Flits in the receiver's buffer, by virtual channel: those of packets not yet delivered, or not yet passed on (R322). -/
  held       : List Nat
  /-- Flits that wait for a slot, credit or replay room: of packets assigned to this member, or of a circuit (R318, R327). -/
  waiting    : List WaitFlit
  /-- Place in the frame of weighted slots (R323). -/
  turn       : Nat
  /-- Virtual channel and LH_TIME of the CTRL and MGMT flits sent in the last microsecond (R323). -/
  recent     : List (Nat × Nat)
  deriving DecidableEq, Repr

/-- Credits of Table 10-10: REQ, RSP, TIDE, MIRROR, CTRL, MGMT. -/
def creditsReset : List Nat := [96, 96, 256, 128, 32, 16]

/-- A link at reset: DOWN (Table 16-7). -/
def Link.reset : Link :=
  { state := .down, disable := false, retrain := false, lanes := 0, spareUsed := false, retired := 0, version := 0,
    lastCause := 0, changed := false, changes := 0, peer := none, lastPeer := 0, retryAt := 0, trainFails := 0, replays := 0,
    txSeq := 0, rxSeq := 0, replayBuf := [], unacked := 0, credits := creditsReset, shared := [0, 0, 0, 0, 0, 0],
    owed := [0, 0, 0, 0, 0, 0], held := [0, 0, 0, 0, 0, 0], waiting := [], turn := 0, recent := [] }

/-- An entry of the rank table (Table 10-11). -/
structure RankEntry where
  serial : Nat
  slot   : Nat
  board  : Nat
  /-- The slot by which the board names it: its own, or that of the module it was taken over from (R420). -/
  home   : Nat
  deriving DecidableEq, Repr

/-- A bundle entry (Table 10-11). -/
structure BundleEntry where
  peer     : Nat
  minLinks : Nat
  use      : Nat
  mask     : Nat
  deriving DecidableEq, Repr

/-- A pass-through entry (Table 10-11). -/
structure PassEntry where
  a       : Nat
  b       : Nat
  foreign : Nat
  deriving DecidableEq, Repr

/-- The bound fabric configuration; FABRIC 0 when none is. -/
structure Fabric where
  fabric     : Nat
  myRank     : Nat
  minVersion : Nat
  features   : Nat
  ranks      : List RankEntry
  bundles    : List BundleEntry
  passes     : List PassEntry
  /-- LINK_CONFIGURE completed OK for it. -/
  ready      : Bool
  deriving DecidableEq, Repr

/-- No configuration. -/
def Fabric.blank : Fabric :=
  { fabric := 0, myRank := 0, minVersion := 1, features := 0, ranks := [], bundles := [], passes := [], ready := false }

/-- The bundles: sequence numbers by peer serial × 8 + virtual channel (R318, R319). -/
structure Bundles where
  /-- Number of the next packet to send. -/
  sent    : Tab Nat
  /-- Number of the next packet to deliver. -/
  next    : Tab Nat
  /-- Numbers that a gap notice told the receiver to pass over. -/
  skipped : Tab Nat
  /-- Packets that wait for a member with free credit. -/
  queue   : List Packet
  /-- The member that took the last packet, by peer serial, plus 1. -/
  last    : Tab Nat
  /-- Messages that the links have taken over from those sent. -/
  taken   : Nat
  deriving DecidableEq, Repr

/-- The link side of the module. -/
structure Links where
  links   : Tab Link
  fabric  : Fabric
  bundles : Bundles
  /-- What CMIS last reported of each cage, and its hold in low power (R329). -/
  cages   : Tab (Option CageReading)
  deriving DecidableEq, Repr

/-! ## The Breakwater pair -/

/-- Role of this module towards its partner. -/
inductive PairRole where
  | unbound
  /-- Bound, each member active on its own ring 0. -/
  | bound
  /-- Survivor of a takeover (DEGRADED). -/
  | survivor
  /-- Survivor with a replacement that resynchronises, and whether RESYNC_DONE has been raised. -/
  | resyncing (done : Bool)
  /-- Replacement in RESYNC. -/
  | replacement (done : Bool)
  deriving DecidableEq, Repr

/-- The partner's ring 0 as PAIR_BIND gave it (Table 11-5) and as it is watched (R351). -/
structure PartnerRing where
  base    : Nat
  cqBase  : Nat
  dbrec   : Nat
  size    : Nat
  sqHead  : Nat
  cqCount : Nat
  /-- Last CQ_HEAD read from the partner's doorbell record. -/
  cqHead  : Nat
  /-- Completion entries acknowledged and perhaps not yet read by the host: number and bytes. -/
  entries : List (Nat × Bytes)
  /-- Commands taken there and not completed: number and bytes. -/
  cmds    : List (Nat × Bytes)
  vector  : Nat
  deriving DecidableEq, Repr

/-- Breakwater state. -/
structure Pair where
  role      : PairRole
  /-- Board slot of the partner. -/
  partner   : Nat
  partnerSerial : Nat
  /-- The partner has armed its side and acknowledged the context mirror (R426). -/
  armed     : Bool
  ring      : PartnerRing
  /-- Mirror frames in use in the own mirror region: frame and the page it holds as seq × 2^44 + layer × 2^32 + page (R414). -/
  frames    : List (Nat × Nat)
  /-- The partner's sequence-table entries, by sequence. -/
  seqs      : List SeqImage
  progress  : List Progress
  /-- The partner's swap area and host regions (Table 13-5, job state). -/
  swapAddr  : Nat
  swapBytes : Nat
  regions   : List (Nat × Nat)
  /-- The partner's semaphores of job scope and of host commands, as its last state record gave them. -/
  sems      : List (Nat × Nat)
  /-- Task journal entries of the partner: key and rank (R421). -/
  journal   : List (Nat × Nat)
  /-- Commit notice held for the leader (R417). -/
  notice    : Option CommitNotice
  /-- LH_TIME of the last heartbeat of the partner and of any relay (R418). -/
  heardP    : Nat
  heardR    : Nat
  /-- The board slot that a relay heartbeat last came from. -/
  relay     : Option Nat
  /-- Takeover decided and not yet performed: cause of Table 13-9. -/
  takeCause : Option Nat
  /-- The partner's share is handed over at the next commit (R425), with its planned fault. -/
  handover  : Bool
  /-- PAIR_HANDBACK waits for the next commit: command id (R423). -/
  handback  : Option Nat
  /-- A snapshot point has been taken for resynchronisation. -/
  snapshot  : Bool
  gib       : Nat
  failedSerial : Nat
  /-- Rank of the second rank context (R420). -/
  rank2     : Option Nat
  /-- Table frames of the second rank context, in the firmware reserve (log 14), and its shared table of absent entries. -/
  tables2   : List Nat
  absent2   : Option Nat
  /-- CRC mismatches of the present commit (R417). -/
  crcFails  : Nat
  /-- CRC of the lines written last for the present commit, as the sender of the state record holds it (Table 13-6 step 2). -/
  crcSent   : Nat
  /-- Mirror lines stored last in the records area and the context area, by address (Table 13-6 step 3). -/
  lineRec   : Nat
  lineCtx   : Nat
  deriving DecidableEq, Repr

/-- Nothing of a partner's ring is known. -/
def PartnerRing.blank : PartnerRing :=
  { base := 0, cqBase := 0, dbrec := 0, size := 0, sqHead := 0, cqCount := 0, cqHead := 0, entries := [], cmds := [], vector := 0 }

/-- Not bound. -/
def Pair.blank : Pair :=
  { role := .unbound, partner := 0, partnerSerial := 0, armed := false, ring := PartnerRing.blank,
    frames := [], seqs := [], progress := [], swapAddr := 0, swapBytes := 0, regions := [], sems := [], journal := [], notice := .none, heardP := 0, heardR := 0, relay := .none,
    takeCause := .none, handover := false, handback := .none, snapshot := false, gib := 0, failedSerial := 0, rank2 := .none,
    tables2 := [], absent2 := none, crcFails := 0, crcSent := 0, lineRec := 0, lineCtx := 0 }

/-! ## Errors, spares and the store -/

/-- The spare map of Table 13-3. A table lists only what differs from a new module. -/
structure Spares where
  /-- Physical slot that serves logical cove c, by logical number (R55). -/
  coves    : Tab Nat
  /-- Physical coves retired. -/
  badCoves : List Nat
  /-- Physical channel that serves logical channel stack × 31 + lch (R218). -/
  hbm      : Tab Nat
  /-- HBM4 channels retired: stack × 32 + physical channel. -/
  badHbm   : List Nat
  /-- Rows substituted per slice, and banks. -/
  rows     : List (Nat × Nat)
  banks    : List (Nat × Nat)
  /-- DDR5 ranks whose spare device is in use. -/
  ddr      : List Nat
  flash    : List Nat
  /-- Control cores retired, die × 4 + core. -/
  cores    : List Nat
  /-- Longshore channels retired, ENGINE × 32 + channel. -/
  chans    : List Nat
  /-- Link lanes retired, link × 8 + lane. -/
  lanes    : List Nat
  deriving DecidableEq, Repr

/-- A new module's spare map. -/
def Spares.new : Spares :=
  { coves := [], badCoves := [], hbm := [], badHbm := [], rows := [], banks := [], ddr := [], flash := [], cores := [],
    chans := [], lanes := [] }

/-- A record of the error history (Table 16-11, SELECT 3). -/
structure ErrRec where
  time   : Nat
  cls    : Nat
  kind   : Nat
  unit   : Nat
  detail : Nat
  deriving DecidableEq, Repr

/-- Set-up values kept across power cycles (record 'CONF'). -/
structure Conf where
  monClass : BitVec 64
  bound    : Bool
  partner  : Nat
  deriving DecidableEq, Repr

/-- The Shoal epoch record (R393). -/
structure EpochRec where
  indexId : Nat
  epoch   : Nat
  map     : Nat
  check   : Nat
  deriving DecidableEq, Repr

/-- Tags of store records (Table 13-11). -/
inductive StoreTag where
  | spar | link | errh | conf | shep | last
  /-- A tag that Table 13-11 does not list. -/
  | unlisted
  deriving DecidableEq, Repr

/-- A store record as BOOT judges it (Table 13-10): tag, SEQNUM, and whether its CRC is good. -/
structure StoreRecord where
  tag    : StoreTag
  seqnum : Nat
  crcOk  : Bool
  deriving DecidableEq, Repr

/-- A store bank that has been written (R429): its records, and the payloads of a whole snapshot. -/
structure Snapshot where
  records : List StoreRecord
  spares : Spares
  links  : Tab Nat
  errors : List ErrRec
  conf   : Conf
  shoal  : Option EpochRec
  deriving DecidableEq, Repr

/-- SEQNUM of a bank. -/
def Snapshot.seqnum (s : Snapshot) : Nat := match s.records with | r :: _ => r.seqnum | [] => 0

/-- A bank is valid: up to its END record every CRC is good, every tag listed and every SEQNUM the same (R430). -/
def Snapshot.intact (s : Snapshot) : Bool :=
  let before := s.records.takeWhile fun r => r.tag != .last
  match s.records.drop before.length with
  | e :: _ => (e :: before).all fun r => r.crcOk && r.tag != .unlisted && r.seqnum == s.seqnum
  | [] => false

/-- Transient errors, trends and the store. -/
structure Health where
  spares     : Spares
  history    : List ErrRec
  /-- LH_TIMEs of transient errors by class × 65536 + unit (R402). -/
  transient  : Tab (List Nat)
  /-- LH_TIMEs of corrected errors by class × 65536 + unit (R403). -/
  corrected  : Tab (List Nat)
  /-- Units to retire at the next commit, with their reason (R404). -/
  planned    : List (UnitRef × Nat)
  /-- A planned module fault waits for the next commit (R408). -/
  plannedFault : Bool
  /-- SPARE_LOW raised: class × 65536 + group. -/
  lowRaised  : List Nat
  /-- An HBM4 channel copy in progress: stack × 32 + physical channel (R407), with its reason. -/
  copying    : List (Nat × Nat)
  /-- Corrected errors of the present hour, by unit key, and LH_TIME of its start (R411). -/
  hour       : Tab Nat
  hourAt     : Nat
  /-- Flash channels of which a stripe rewrite is not finished (R371). -/
  rewriting  : List Nat
  /-- CORRECTED counters of Table 16-12 by SOURCE. -/
  counters   : Tab Nat
  /-- Store banks A and B (R429 to R431). -/
  storeA     : Option Snapshot
  storeB     : Option Snapshot
  storeConf  : Conf
  /-- A snapshot has been asked for and not been written. -/
  wanted     : Bool
  /-- LH_TIME of the last snapshot (R431). -/
  storedAt   : Nat
  /-- A fence is in force or pending reset (R418). -/
  fenced     : Bool
  deriving DecidableEq, Repr

/-- A new module's health. -/
def Health.new : Health :=
  { spares := Spares.new, history := [], transient := [], corrected := [], planned := [], plannedFault := false, lowRaised := [],
    copying := [], hour := [], hourAt := 0, rewriting := [], counters := [], storeA := none, storeB := none,
    storeConf := { monClass := monClassReset, bound := false, partner := 0 }, wanted := false, storedAt := 0, fenced := false }

/-! ## Shoal -/

/-- A candidate of a search list (R382). -/
structure Cand where
  dist     : Nat
  id       : Nat
  expanded : Bool
  deleted  : Bool
  attr     : Bytes
  payload  : Nat
  tokens   : Nat
  deriving DecidableEq, Repr

/-- A running search in a slot. -/
structure Search where
  cmd     : Nat
  epoch   : Nat
  /-- Query widened to FP32 words (and scaled for cosine). -/
  query   : List (BitVec 32)
  /-- Filter block (R378); none without FILTER. -/
  filter  : Option Bytes
  list    : Nat
  visited : List Nat
  cand    : List Cand
  started : Bool
  reads   : Nat
  /-- Units that the step waits for (R382). -/
  waits   : List Nat
  deriving DecidableEq, Repr

/-- A pending item of the batch (R388). -/
inductive Pending where
  | insert (id : Nat) (vec : List (BitVec 32)) (code : Bytes) (attr : Bytes) (payload : Bytes)
  | delete (id : Nat)
  deriving DecidableEq, Repr

/-- A version of a node as its record holds it (Table 12-3). -/
structure Node where
  id      : Nat
  deleted : Bool
  epoch   : Nat
  prev    : Nat
  payload : Nat
  tokens  : Nat
  attr    : Bytes
  code    : Bytes
  /-- Identity and code of each neighbour, in order. -/
  nbrs    : List (Nat × Bytes)
  deriving DecidableEq, Repr

/-- An identity whose consolidation has committed (R394): the epoch, and the unit of its last version, which searches of older epochs
still reach. -/
structure FreedId where
  id    : Nat
  epoch : Nat
  unit  : Nat
  deriving DecidableEq, Repr

/-- A superseded version that waits for reclamation (R376). -/
structure OldVersion where
  unit  : Nat
  /-- EPOCH of its successor. -/
  epoch : Nat
  deriving DecidableEq, Repr

/-- Shoal. -/
structure Shoal where
  mounted  : Bool
  lost     : Bool
  header   : Bytes
  epoch    : Nat
  /-- Bytes of DDR5 reserved for the node map (Table 07-3). -/
  mapBytes : Nat
  /-- Newest committed version of each node, in units (R375). -/
  nodeMap  : Tab Nat
  live     : Nat
  batch    : List Pending
  /-- Items of the batch already linked (R390). -/
  linked   : Nat
  /-- Pending versions (R376), not yet on flash. -/
  versions : List Node
  old      : List OldVersion
  /-- Committed deletions not yet consolidated: identity, epoch (R392). -/
  dead     : List (Nat × Nat)
  freed    : List FreedId
  slots    : Tab (Option Search)
  /-- Unit at which the record log goes on, and flash address at which the payload log does. -/
  recNext  : Nat
  payNext  : Nat
  /-- SH_REBUILD (R370). -/
  rebuilds : Nat
  /-- Epoch record last written, where it is not that of the newest snapshot. -/
  stored   : Option EpochRec
  deriving DecidableEq, Repr

/-- No index mounted (R396). -/
def Shoal.blank : Shoal :=
  { mounted := false, lost := false, header := [], epoch := 0, mapBytes := 0, nodeMap := [], live := 0, batch := [], linked := 0,
    versions := [], old := [], dead := [], freed := [], slots := [], recNext := 0, payNext := 0, rebuilds := 0, stored := none }

/-- Shoal with its index unmounted: what outlasts a mount stays. -/
def Shoal.unmounted (s : Shoal) : Shoal := { Shoal.blank with rebuilds := s.rebuilds, stored := s.stored }

/-! ## Security -/

/-- Progress of one SPDM connection (R466). -/
inductive SpdmState where
  | fresh | version | capabilities | algorithms
  deriving DecidableEq, Repr

/-- A staging in progress (R461, R462): the FW_STAGE, the NOR device, the image, and the bytes behind the header that are written. -/
structure BankStaging where
  cmd  : Nat
  dev  : Bool
  img  : Bytes
  done : Nat
  deriving DecidableEq, Repr

/-- The security block. -/
structure Security where
  /-- Running bank: 0 A, 1 B. -/
  bank      : Nat
  fallback  : Bool
  idFault   : Bool
  nextBank  : BitVec 2
  /-- Bank that the last successful FW_STAGE since BOOT wrote (R463). -/
  staged    : Option Nat
  staging   : Option BankStaging
  /-- SVN and VERSION of the running bank, SVN of the other (SEC_FWVER). -/
  svn       : Nat
  otherSvn  : Nat
  version   : Nat
  /-- Boot selector records: sequence number and bank, in area 0 and 1 (R457). -/
  sel0      : Option (Nat × Nat)
  sel1      : Option (Nat × Nat)
  conn0     : SpdmState
  conn1     : SpdmState
  connI3c   : SpdmState
  /-- SHA-512 of the running bank's header and images, types 1 to 5 (measurements 2 to 5). -/
  headerHash : Bytes
  images    : List Bytes
  /-- DBG registers. -/
  nonce     : Bytes
  pending   : Nat
  nonceAt   : Nat
  response  : Bytes
  level     : Nat
  fails     : Nat
  result    : Nat
  deriving DecidableEq, Repr

/-- The security block before the boot ROM runs. -/
def Security.reset : Security :=
  { bank := 0, fallback := false, idFault := false, nextBank := 0, staged := none, staging := none, svn := 0, otherSvn := 0, version := 0,
    sel0 := none, sel1 := none, conn0 := .fresh, conn1 := .fresh, connI3c := .fresh, headerHash := [], images := [], nonce := [],
    pending := 0, nonceAt := 0, response := [], level := 0, fails := 0, result := 0 }

end Sys2Proof.Machine
end

