-- ==== Sys2Proof/Machine/State.lean ====
section
/-! DEFINITION. The state of the block: protected parts that only their own effects change, the control state, and the queue
of waiting commands; and the state right after reset. -/

namespace Sys2Proof.Machine

/-- Why a step stops with a fault.  The type has no constructor: every error the spec names has an effect (a poisoned
signal, an error status, a module fault and its fence), so no command of the block ends in a fault. -/
inductive Fault
  deriving DecidableEq, Repr

/-- Why a command has no meaning. -/
inductive Refusal where
  /-- Raised by an arm of `exec` whose meaning is not written: the mnemonic of its row.  Safe: the model stops. -/
  | notModelled (mnemonic : String)
  deriving DecidableEq, Repr

/-- The control state: everything but the protected parts of `Block`. -/
structure Ctl where
  glb    : Glb
  pins   : Pins
  hif    : HostIf
  power  : Power
  lh     : Lighthouse
  plan   : Plan
  job    : Job
  fw     : PageFw
  engine : Engine
  links  : Links
  pair   : Pair
  health : Health
  shoal  : Shoal
  sec    : Security
  /-- BAR2_ERR (R217). -/
  bar2Err : Nat
  deriving DecidableEq, Repr

/-- A reservation of LR that holds (R50): the thread and the physical bytes. -/
structure Reserve where
  cove   : Nat
  thread : Nat
  addr   : Nat
  len    : Nat
  deriving DecidableEq, Repr

/-- The block without its queue. -/
structure Block where
  /-- The module-local physical space of Table 07-1 but the semaphores. -/
  mem    : Memory
  /-- Host memory as the module sees it, by bus address. -/
  host   : Memory
  /-- The flash logical space (R369). -/
  flash  : Memory
  /-- The two SPI NOR devices (R454): device 0, device 1, up to the store banks. -/
  nor0   : Memory
  nor1   : Memory
  /-- Semaphore words by number (R281). -/
  sems   : Tab (BitVec 32)
  arb    : Arbiter
  /-- LH_TIME (R442), a 64-bit count of nanoseconds. -/
  lhTime : Nat
  fuses  : Fuses
  /-- Reservations of LR that no write has broken. -/
  lrs    : List Reserve
  /-- Messages sent, newest first (log 9). -/
  out    : List Sent
  /-- MODEL'S OWN: number of free values taken so far (logs 7, 11, 12, 13). -/
  fresh  : Nat
  ctl    : Ctl
  deriving DecidableEq, Repr

/-- The state of the machine: the block and the commands that wait, first in, first out. -/
structure State where
  block   : Block
  pending : List Instr
  deriving DecidableEq, Repr

/-- An owner slot that has never been blown. -/
def OwnerSlot.blank : OwnerSlot := { valid := false, revoked := false, hash := zeroBytes 64 }

/-- The fuses as the model fixes them (log 2: the spec gives no serial, stepping or code of a particular part). -/
def Fuses.reset : Fuses :=
  { serial := 1, stepLetter := 1, stepDigit := 0, shoal := true, twoTiB := true, secure := true, rootHash := zeroBytes 64,
    rollback := 0, debugOwner := false,
    owners := [OwnerSlot.blank, OwnerSlot.blank, OwnerSlot.blank, OwnerSlot.blank] }

/-- GLB after reset (Table 16-2): BOOT, step 1 of Table 14-9 reached. -/
def Glb.reset : Glb :=
  { state := .boot, bootFault := 0, faultUnit := 0, slot := 0, dualPort := false, ddrRate := 0, ddrGib := 0, ddrMrdimm := false,
    step := 1, startedAt := 0, stopped := false, pcieUp := false, glbOnly := false, tripped := false }

/-- The pins right after aux has arrived (Table 14-9 step 1). -/
def Pins.reset : Pins :=
  { aux := true, presence := false, v54 := false, mainEn := false, prechargeOk := false, pwrFault := false, removeOk := false,
    wakeIn := false, perst0 := false, perst1 := false, latchOpen := false, attn := false, leak := false, converterOn := false,
    wake := false, cageFeed := 0xFFFFF }

/-- The host interface after reset (Tables 16-3, 16-4). -/
def HostIf.reset : HostIf :=
  { port0 := Hif.reset, port1 := Hif.reset, rings := [], cmds := [], nextId := 0, nextStart := 0, nextFin := 0, lastRing := 63 }

/-- Power and monitors after reset (Tables 16-5, 16-9). -/
def Power.reset : Power :=
  { state := .run, capW := 0, idleOk := true, inputMv := 0, inputW := 0, packageW := 0, limitedAt := [], clocksDown := false,
    temps := [], warnedAt := [], refresh2x := 0, removal := none, standbyAt := 0, monClass := monClassReset }

/-- No links trained (Table 16-7), no fabric configuration. -/
def Links.reset : Links :=
  { links := [], fabric := Fabric.blank, bundles := { sent := [], next := [], skipped := [], queue := [], last := [], taken := 0 }, cages := [] }

/-- The arbiter on entering BOOT: SEQNO 1 (R300). -/
def Arbiter.reset : Arbiter := { next := 1, q0 := EventQueue.empty, q1 := EventQueue.empty }

/-- The control state after a power-on reset. -/
def Ctl.reset : Ctl :=
  { glb := Glb.reset, pins := Pins.reset, hif := HostIf.reset, power := Power.reset, lh := Lighthouse.reset, plan := Plan.blank,
    job := Job.blank, fw := PageFw.empty, engine := Engine.empty, links := Links.reset, pair := Pair.blank, health := Health.new,
    shoal := Shoal.blank, sec := Security.reset, bar2Err := 0 }

/-- The block after a power-on reset (log 36). -/
def Block.reset : Block :=
  { mem := [], host := [], flash := [], nor0 := [], nor1 := [], sems := [], arb := Arbiter.reset, lhTime := 0,
    fuses := Fuses.reset, lrs := [], out := [], fresh := 0, ctl := Ctl.reset }

/-- The machine right after reset: aux has arrived, the module is in BOOT, no command waits (log 36). -/
def State.reset : State := { block := Block.reset, pending := [] }

end Sys2Proof.Machine
end

