-- ==== Sys2Proof/Machine/Act.lean ====
section
/-! DEFINITION. What a command does to the block, as a tree of indivisible effects.  Every change of a protected part of
the block is one of the effects of `Eff`; all other state changes through `upd`.  The order of effects in a tree is the
order in which they happen. -/

namespace Sys2Proof.Machine

/-- One effect on the block. -/
inductive Eff where
  /-- Bytes written from a module-local address up. -/
  | mem (addr : Nat) (bytes : Bytes)
  /-- The module-local space is blank (power lost, or ECC initialised at start-up). -/
  | memClear
  /-- Bytes written into host memory. -/
  | host (addr : Nat) (bytes : Bytes)
  /-- Bytes written into the flash logical space. -/
  | flash (addr : Nat) (bytes : Bytes)
  /-- The flash logical space erased (R395). -/
  | flashErase
  /-- Bytes written into NOR device 0 (false) or 1 (true). -/
  | nor (dev : Bool) (addr : Nat) (bytes : Bytes)
  /-- The firmware bank of a NOR device erased. -/
  | norErase (dev : Bool)
  /-- SIGNAL(+n) arriving at a semaphore of this module (R281, R284). -/
  | signal (sem : Nat) (n : Nat)
  /-- SIGNAL_POISON arriving at a semaphore of this module (R281). -/
  | poison (sem : Nat)
  /-- RESET(v) by firmware (R281). -/
  | semReset (sem : Nat) (v : Nat)
  /-- An event raised and accepted by the arbiter (R300, R302). -/
  | raise (code source detail : Nat)
  /-- The oldest held record of a port leaves its queue (R341). -/
  | dequeue (port : Bool)
  /-- The arbiter starts again: SEQNO 1, empty queues (R300). -/
  | arbReset
  /-- LH_TIME advances (R442). -/
  | tick (ns : Nat)
  /-- Aux is lost: LH_TIME starts at 0 when it returns (R442). -/
  | timeLost
  /-- ROLLBACK raised, fuse by fuse, to at least this value (R460). -/
  | rollback (svn : Nat)
  /-- An owner slot enrolled with the digest of its key (R470). -/
  | enrol (slot : Nat) (hash : Bytes)
  /-- An owner slot revoked (R470). -/
  | revoke (slot : Nat)
  /-- DEBUG_OWNER blown (R470). -/
  | debugOwner
  /-- A message leaves the module. -/
  | send (dest : Dest) (msg : Msg)
  /-- A thread's reservation is replaced, or dropped (R50). -/
  | reserve (cove thread : Nat) (bytes : Option (Nat × Nat))
  /-- A free value has been taken. -/
  | fresh
  /-- The control state changes. -/
  | upd (f : Ctl → Ctl)

/-- Largest COUNT of a semaphore. -/
def semMax : Nat := 2 ^ 31 - 1

/-- COUNT of a semaphore word (R281). -/
def semCount (w : BitVec 32) : Nat := w.toNat % 2 ^ 31

/-- POISON of a semaphore word (R281). -/
def semPoisoned (w : BitVec 32) : Bool := 2 ^ 31 ≤ w.toNat

/-- The semaphore word of a COUNT and a POISON bit. -/
def semWord (count : Nat) (poison : Bool) : BitVec 32 := BitVec.ofNat 32 ((if poison then 2 ^ 31 else 0) + count % 2 ^ 31)

/-- The word of a semaphore. -/
def Block.sem (b : Block) (s : Nat) : BitVec 32 := Tab.get 0 b.sems s

/-- The word after SIGNAL(+n): COUNT stops at 2^31 - 1 and sets POISON (R284). -/
def semSignal (w : BitVec 32) (n : Nat) : BitVec 32 :=
  if semCount w + n ≤ semMax then semWord (semCount w + n) (semPoisoned w) else semWord semMax true

/-- A SIGNAL that saturates a semaphore that was not poisoned raises POISON_RAISED (R284). -/
def semOverflows (w : BitVec 32) (n : Nat) : Bool := !(semCount w + n ≤ semMax) && !semPoisoned w

/-- How many records a hold queue has room for (R302). -/
def eventRoom : Nat := 1024

/-- A record of EVENTS_LOST (it takes no place among the held records, R302). -/
def EventRec.isLost (r : EventRec) : Bool := r.code == 0x0001

/-- Held records of a queue that count against its room. -/
def EventQueue.count (q : EventQueue) : Nat := (q.held.filter (fun r => !r.isLost)).length

/-- The EVENTS_LOST record of the open run of drops (R302). -/
def EventQueue.lostRecord (q : EventQueue) : EventRec :=
  { seqno := q.dropSeq, time := q.dropAt, code := 0x0001, source := 0, detail := min q.dropped (2 ^ 32 - 1) }

/-- The queue after the arbiter hands it an event (R302): held where there is room, an open run of drops then ending with
its EVENTS_LOST; otherwise dropped and counted. -/
def EventQueue.accept (q : EventQueue) (r : EventRec) : EventQueue :=
  if q.count < eventRoom then
    { held := q.held ++ (if q.dropped = 0 then [] else [q.lostRecord]) ++ [r], dropped := 0, dropSeq := 0, dropAt := 0 }
  else { q with dropped := q.dropped + 1, dropSeq := r.seqno, dropAt := r.time }

/-- An event brings the module out of IDLE (R444). -/
def Ctl.roused (c : Ctl) : Ctl := { c with power := { c.power with state := if c.power.state = .idle then .run else c.power.state } }

/-- The arbiter accepts an event (R300): it takes the next SEQNO and reaches both ports' queues (R336).  With one port only
port 0 has a queue (log 10). -/
def Block.accept (b : Block) (code source detail : Nat) : Block :=
  let r : EventRec := { seqno := b.arb.next, time := b.lhTime, code := code, source := source, detail := detail }
  { b with arb := { next := b.arb.next + 1, q0 := b.arb.q0.accept r,
                    q1 := if b.ctl.glb.dualPort then b.arb.q1.accept r else b.arb.q1 }, ctl := b.ctl.roused }

/-- Detail of POISON_RAISED (Table 09-3). -/
def poisonDetail (info cause thread cove : Nat) : Nat :=
  info % 2 ^ 32 * 2 ^ 32 + cause % 256 * 2 ^ 16 + thread % 4 * 2 ^ 10 + cove % 1024

/-- The hold queue of a port. -/
def Arbiter.queue (a : Arbiter) (port : Bool) : EventQueue := if port then a.q1 else a.q0

/-- The arbiter with the oldest record of a port's queue gone. -/
def Arbiter.dequeue (a : Arbiter) (port : Bool) : Arbiter :=
  if port then { a with q1 := { a.q1 with held := a.q1.held.tail } } else { a with q0 := { a.q0 with held := a.q0.held.tail } }

/-- An owner-slot list with one slot changed. -/
def ownersSet (f : OwnerSlot → OwnerSlot) (slot : Nat) (os : List OwnerSlot) : List OwnerSlot := os.modify slot f

/-- A write to bytes of the module-local space breaks a reservation it touches, whoever makes it. -/
def Reserve.hit (r : Reserve) (a n : Nat) : Bool := decide (r.addr < a + n ∧ a < r.addr + r.len)

/-- The reservations with a thread's replaced. -/
def reserveOf (rs : List Reserve) (cove thread : Nat) (bytes : Option (Nat × Nat)) : List Reserve :=
  (bytes.toList.map fun (a, n) => ({ cove := cove, thread := thread, addr := a, len := n } : Reserve)) ++
    rs.filter fun r => !(r.cove == cove && r.thread == thread)

/-- The block after one effect. -/
def Eff.apply (b : Block) : Eff → Block
  | .mem a bs => { b with mem := Memory.write b.mem a bs, lrs := b.lrs.filter fun r => !r.hit a bs.length }
  | .memClear => { b with mem := [], lrs := [] }
  | .host a bs => { b with host := Memory.write b.host a bs }
  | .flash a bs => { b with flash := Memory.write b.flash a bs }
  | .flashErase => { b with flash := [] }
  | .nor false a bs => { b with nor0 := Memory.write b.nor0 a bs }
  | .nor true a bs => { b with nor1 := Memory.write b.nor1 a bs }
  | .norErase false => { b with nor0 := b.nor0.filter (fun c => decide (0x3000000 ≤ c.1)) }
  | .norErase true => { b with nor1 := b.nor1.filter (fun c => decide (0x3000000 ≤ c.1)) }
  | .signal s n =>
    let w := b.sem s
    let b' := { b with sems := Tab.set 0 b.sems s (semSignal w n) }
    if semOverflows w n then b'.accept 0x0701 0 (poisonDetail s 0xFD 0 0x3FF) else b'
  | .poison s => { b with sems := Tab.set 0 b.sems s (semWord (semCount (b.sem s)) true) }
  | .semReset s v => { b with sems := Tab.set 0 b.sems s (semWord v false) }
  | .raise c s d => b.accept c s d
  | .dequeue port => { b with arb := b.arb.dequeue port }
  | .arbReset => { b with arb := Arbiter.reset }
  | .tick ns => { b with lhTime := b.lhTime + ns }
  | .timeLost => { b with lhTime := 0 }
  | .rollback n => { b with fuses := { b.fuses with rollback := max b.fuses.rollback (min n 64) } }
  | .enrol k h => { b with fuses := { b.fuses with owners := ownersSet (fun o => { o with valid := true, hash := h }) k b.fuses.owners } }
  | .revoke k => { b with fuses := { b.fuses with owners := ownersSet (fun o => { o with revoked := true }) k b.fuses.owners } }
  | .debugOwner => { b with fuses := { b.fuses with debugOwner := true } }
  | .send d m => { b with out := { dest := d, msg := m } :: b.out }
  | .reserve c t r => { b with lrs := reserveOf b.lrs c t r }
  | .fresh => { b with fresh := b.fresh + 1 }
  | .upd f => { b with ctl := f b.ctl }

/-- A tree of effects: what a command does, looking at the block as it goes. -/
inductive Act where
  | done
  | eff (e : Eff) (k : Act)
  | look (f : Block → Act)

/-- The block after a tree of effects. -/
def Act.run : Act → Block → Block
  | .done, b => b
  | .eff e k, b => k.run (e.apply b)
  | .look f, b => (f b).run b

/-- First one tree, then another. -/
def Act.seq : Act → Act → Act
  | .done, t => t
  | .eff e k, t => .eff e (k.seq t)
  | .look f, t => .look (fun b => (f b).seq t)

/-- One effect. -/
def Act.one (e : Eff) : Act := .eff e .done

/-- A change of the control state. -/
def Act.upd (f : Ctl → Ctl) : Act := .one (.upd f)

/-- Several trees in order. -/
def Act.all : List Act → Act
  | [] => .done
  | a :: as => a.seq (Act.all as)

/-- A tree for each element of a list, in order. -/
def Act.each {α : Type} (xs : List α) (f : α → Act) : Act := Act.all (xs.map f)

/-- A tree that happens only under a condition. -/
def Act.when (c : Bool) (a : Act) : Act := if c then a else .done

/-- One of two trees. -/
def Act.ite (c : Bool) (a t : Act) : Act := if c then a else t

/-- A tree that depends on an optional value. -/
def Act.opt {α : Type} (o : Option α) (f : α → Act) : Act := match o with | none => .done | some x => f x

/-- The outcome of a command whose effect is a tree: always a next state, the queue untouched. -/
def State.perform (s : State) (a : Act) : Host.Outcome State Fault Refusal := .next { s with block := a.run s.block }

end Sys2Proof.Machine
end

