-- ==== Sys2Proof/Machine/Ops.lean ====
section
/-! DEFINITION. Named operations over memory, translation, semaphores and the parts of the control state that many commands
share. -/

namespace Sys2Proof.Machine

/-! ## The module-local map (R215) -/

/-- What a module-local address reaches (Table 07-1). -/
inductive Region where
  | hbm (die : Nat)
  | ddr
  | scratch (cove : Nat)
  | lagoon (die : Nat)
  | semaphores
  | unbacked
  deriving DecidableEq, Repr

/-- First address of DDR5. -/
def ddrBase : Nat := 0x080000000000
/-- First address of scratch. -/
def scratchBase : Nat := 0x0F0000000000
/-- Bytes of one cove's scratch (R45). -/
def scratchSize : Nat := 0x180000
/-- Offset of the cove system area within scratch (R67). -/
def systemArea : Nat := 0x17F000
/-- First address of die 0's lagoon. -/
def lagoonBase : Nat := 0x0F0040000000
/-- Bytes of one die's lagoon. -/
def lagoonSize : Nat := 0x18000000
/-- First address of the semaphore words. -/
def semBase : Nat := 0x0F1000000000
/-- First virtual address of the scratch window (R45). -/
def windowBase : Nat := 0xFFFF00000000

/-- Bytes of DDR5 that the ordering code backs. -/
def ddrSize (twoTiB : Bool) : Nat := if twoTiB then 2 ^ 41 else 2 ^ 40

/-- What a module-local address reaches (R215). -/
def region (twoTiB : Bool) (a : Nat) : Region :=
  if a < 0x3E00000000 then .hbm 0
  else if 0x4000000000 ≤ a ∧ a < 0x7E00000000 then .hbm 1
  else if ddrBase ≤ a ∧ a < ddrBase + ddrSize twoTiB then .ddr
  else if scratchBase ≤ a ∧ a < scratchBase + 512 * scratchSize then .scratch ((a - scratchBase) / scratchSize)
  else if lagoonBase ≤ a ∧ a < lagoonBase + lagoonSize then .lagoon 0
  else if lagoonBase + lagoonSize ≤ a ∧ a < lagoonBase + 2 * lagoonSize then .lagoon 1
  else if semBase ≤ a ∧ a < semBase + 0x40000 then .semaphores
  else .unbacked

/-- The address lies in HBM4, DDR5, scratch or lagoon. -/
def backed (twoTiB : Bool) (a : Nat) : Bool :=
  match region twoTiB a with
  | .hbm _ | .ddr | .scratch _ | .lagoon _ => true
  | _ => false

/-- One byte of the module-local space: memory, or a semaphore word (R281: the upper four bytes of a slot read 0). -/
def Block.byteAt (b : Block) (a : Nat) : Byte :=
  if semBase ≤ a ∧ a < semBase + 0x40000 then
    let o := a - semBase
    if o % 8 < 4 then BitVec.ofNat 8 ((b.sem (o / 8)).toNat / 256 ^ (o % 8)) else 0
  else b.mem.byte a

/-- Bytes of the module-local space. -/
def Block.read (b : Block) (a : Nat) : Nat → Bytes
  | 0 => []
  | n + 1 => b.byteAt a :: b.read (a + 1) n

/-- `n` bytes that come from outside the model, from address `addr` of the place `at'` up (log 7). -/
def Block.outside (b : Block) (at' addr n : Nat) : Bytes := (List.range n).map fun i => Config.outsideByte b.fresh (at' * 2 ^ 64 + addr + i)

/-! ## Page tables (R232 to R236) -/

/-- Index of this module's board slot. -/
def Block.slot (b : Block) : Nat := b.ctl.glb.slot.val

/-- First address of the firmware reserve: 8 GiB at the top of the backed DDR5 (Table 07-3). -/
def Block.fwReserve (b : Block) : Nat := ddrBase + ddrSize b.fuses.twoTiB - 2 ^ 33

/-- Where the level-1 table lies: in the firmware reserve (log 14), the second rank context's behind the first. -/
def Block.root (b : Block) (second : Bool) : Nat := b.fwReserve + (if second then 256 else 0)

/-- FRAME of an entry as an address (Table 07-5). -/
def entFrame (e : Nat) : Nat := bits e 47 13 * 8192
/-- MODULE of an entry. -/
def entModule (e : Nat) : Nat := bits e 51 48
/-- TIER of an entry. -/
def entTier (e : Nat) : Nat := bits e 3 2
/-- READONLY of an entry. -/
def entReadonly (e : Nat) : Bool := bit e 4
/-- PINNED of an entry. -/
def entPinned (e : Nat) : Bool := bit e 5

/-- A final entry of the given frame address, module, tier and bits. -/
def mkEntry (frame module tier : Nat) (readonly pinned : Bool) : Nat :=
  module * 2 ^ 48 + frame / 8192 * 8192 + (if pinned then 32 else 0) + (if readonly then 16 else 0) + tier * 4 + 1

/-- A table pointer. -/
def mkPointer (frame module tier : Nat) : Nat := module * 2 ^ 48 + frame / 8192 * 8192 + tier * 4 + 3

/-- The frame of an entry with TIER 0 or 1 lies in that tier's range (R234); on-chip frames go with TIER 0. -/
def frameInTier (tier frame : Nat) : Bool :=
  match tier, region true frame with
  | 0, .hbm _ | 0, .scratch _ | 0, .lagoon _ | 0, .semaphores => true
  | 1, .ddr => true
  | _, _ => false

/-- How a walk ends. -/
inductive Walk where
  /-- A VALID final entry and the size it maps. -/
  | entry (e size : Nat)
  | invalid
  | malformed
  deriving DecidableEq, Repr

/-- Walk the levels whose index shifts are listed, from a table (R232, R233, R234). -/
def walkFrom (mem : Memory) (slot va : Nat) : List Nat → Nat → Walk
  | [], _ => .malformed
  | sh :: rest, table =>
    let e := mem.nat (table + 8 * (va / 2 ^ sh % (if sh = 43 then 32 else 1024))) 8
    if !bit e 0 then .invalid
    else if e / 2 ^ 52 ≠ 0 then .malformed
    else if bit e 1 then
      if rest.isEmpty || entModule e != slot || 2 ≤ entTier e || entPinned e || entReadonly e || !frameInTier (entTier e) (entFrame e)
      then .malformed else walkFrom mem slot va rest (entFrame e)
    else if sh = 43 then .malformed
    else if 2 ≤ entTier e then .entry e (2 ^ sh)
    else if entFrame e % 2 ^ sh ≠ 0 || !frameInTier (entTier e) (entFrame e) || !frameInTier (entTier e) (entFrame e + 2 ^ sh - 8192) then .malformed
    else .entry e (2 ^ sh)

/-- The walk of a virtual address. -/
def Block.walk (b : Block) (second : Bool) (va : Nat) : Walk :=
  walkFrom b.mem b.slot va [43, 33, 23, 13] (b.root second)

/-- The table below a cached entry of a level, for an address. -/
def upperOf (us : List UpperEntry) (second : Bool) (va shift : Nat) : Option Nat :=
  (us.find? fun u => u.second == second && u.shift == shift && u.index == va / 2 ^ shift).map (·.table)

/-- The walk of a virtual address from the lowest table that the cached entries of levels 1 to 3 reach (R237, Table 07-6). -/
def Block.walkVia (b : Block) (us : List UpperEntry) (second : Bool) (va : Nat) : Walk :=
  match upperOf us second va 23, upperOf us second va 33, upperOf us second va 43 with
  | some t, _, _ => walkFrom b.mem b.slot va [13] t
  | none, some t, _ => walkFrom b.mem b.slot va [23, 13] t
  | none, none, some t => walkFrom b.mem b.slot va [33, 23, 13] t
  | none, none, none => b.walk second va

/-! ## Translated accesses -/

/-- Who translates: rank context, the cove whose scratch window it sees, the final entries that its micro-TLB, bay walk cache and translation
unit hold, in that order, and the bay's entries of the upper levels (R47, R50, R237). -/
structure Space where
  second : Bool
  cove   : Option Nat
  tlb    : List TlbEntry
  uppers : List UpperEntry := []
  deriving DecidableEq, Repr

/-- The firmware's own view of the job's addresses. -/
def fwSpace : Space := { second := false, cove := none, tlb := [] }

/-- What translating an access gives. -/
inductive Xlate where
  | ok (slot addr : Nat)
  | absent
  | swapped
  | readonly
  /-- A VALID 0 entry in a sequence's range, or an entry that breaks R233: a module fault (R162, R234, R405). -/
  | deviceFault
  /-- An access error (R240). -/
  | accessError
  deriving DecidableEq, Repr

/-- Base and size of the sequence region of the loaded plan (Table 05-3). -/
def Block.seqRegion (b : Block) : Nat × Nat := (fld b.ctl.plan.layout 16 8, fld b.ctl.plan.layout 24 8)

/-- The address lies in the sequence region. -/
def Block.inSeqRegion (b : Block) (va : Nat) : Bool :=
  let (s, n) := b.seqRegion
  decide (s ≤ va ∧ va < s + n)

/-- First address of the partner mirror region: below the firmware reserve (Table 07-3). -/
def Block.mirrorBase (b : Block) : Nat := b.fwReserve - 2 ^ 39

/-- First address of the context area of the mirror region (Table 13-5). -/
def Block.contextBase (b : Block) : Nat := b.mirrorBase + 2 ^ 30

/-- Where scratch and lagoon of the second rank context lie (R420): scratch first, then the two lagoons. -/
def Block.contextAddr (b : Block) (a : Nat) : Nat :=
  if a < lagoonBase then b.contextBase + (a - scratchBase) else b.contextBase + 512 * scratchSize + (a - lagoonBase)

/-- A semaphore number in a rank context: shifted in the second (R413, R420). -/
def semIn (second : Bool) (s : Nat) : Nat := if second then (s + 16384) % 32768 else s

/-- Translation in the range that R230 maps at its own addresses (log 14: answered without tables). -/
def Block.onChip (b : Block) (sp : Space) (va : Nat) (write : Bool) : Xlate :=
  match region b.fuses.twoTiB va with
  | .scratch _ | .lagoon _ => .ok b.slot (if sp.second then b.contextAddr va else va)
  | .semaphores => if write then .accessError else .ok b.slot (semBase + 8 * semIn sp.second ((va - semBase) / 8) + va % 8)
  | _ => .accessError

/-- Translation of an access that meets a final entry; a frame of this module that the ordering code does not back is an access error
(R215). -/
def Block.useEntry (b : Block) (e size va : Nat) (write : Bool) : Xlate :=
  if entTier e = 3 then .absent
  else if entTier e = 2 then .swapped
  else if write && entReadonly e then (if b.inSeqRegion va then .readonly else .accessError)
  else if 8 ≤ entModule e then .accessError
  else if entModule e = b.slot ∧ region b.fuses.twoTiB (entFrame e + va % size) = .unbacked then .accessError
  else .ok (entModule e) (entFrame e + va % size)

/-- Translate one access (R229 to R234, R240). -/
def Block.xlate (b : Block) (sp : Space) (va : Nat) (write : Bool) : Xlate :=
  if 2 ^ 48 ≤ va then .accessError
  else if windowBase ≤ va then
    match sp.cove with
    | none => .accessError
    | some c =>
      if va - windowBase < scratchSize then
        let a := scratchBase + c * scratchSize + (va - windowBase)
        .ok b.slot (if sp.second then b.contextAddr a else a)
      else .accessError
  else if scratchBase ≤ va ∧ va < 0x0F2000000000 then b.onChip sp va write
  else
    match sp.tlb.find? (fun t => t.second == sp.second && decide (t.base ≤ va ∧ va < t.base + t.size)) with
    | some t => b.useEntry t.entry t.size va write
    | none =>
      match b.walkVia sp.uppers sp.second va with
      | .entry e size => b.useEntry e size va write
      | .malformed => .deviceFault
      | .invalid => if b.inSeqRegion va then .deviceFault else .accessError

/-- An access cut at 8 KiB boundaries: address and bytes of each part. -/
def splitPages : Nat → Nat → Nat → List (Nat × Nat)
  | 0, _, _ => []
  | fuel + 1, va, len =>
    if len = 0 then []
    else
      let n := min len (8192 - va % 8192)
      (va, n) :: splitPages fuel (va + n) (len - n)

/-- The parts of an access. -/
def parts (va len : Nat) : List (Nat × Nat) := splitPages (len / 8192 + 2) va len

/-- One access of an agent. -/
structure Access where
  va    : Nat
  len   : Nat
  write : Bool
  deriving DecidableEq, Repr

/-- The first part of a list of accesses that does not translate, with what translating it gives. -/
def Block.firstBad (b : Block) (sp : Space) (as : List Access) : Option (Nat × Bool × Xlate) :=
  as.findSome? fun a => (parts a.va a.len).findSome? fun (va, _) =>
    match b.xlate sp va a.write with
    | .ok _ _ => none
    | x => some (va, a.write, x)

/-- Bytes read through translation: from this module, or from a board peer, whose bytes the model does not know (log 7). -/
def Block.readVa (b : Block) (sp : Space) (va len : Nat) : Bytes :=
  (parts va len).flatMap fun (v, n) =>
    match b.xlate sp v false with
    | .ok slot a => if slot = b.slot then b.read a n else b.outside slot a n
    | _ => zeroBytes n

/-- Some byte of an access lies on a board peer. -/
def Block.remote (b : Block) (sp : Space) (as : List Access) : Bool :=
  as.any fun a => (parts a.va a.len).any fun (v, _) => match b.xlate sp v a.write with | .ok slot _ => slot != b.slot | _ => false

/-- Bytes written through translation: into this module, or as board stores. -/
def writeVa (sp : Space) (va : Nat) (bytes : Bytes) : Act :=
  .look fun b => Act.each (parts va bytes.length) fun (v, n) =>
    let bs := slice bytes (v - va) n
    match b.xlate sp v true with
    | .ok slot a => if slot = b.slot then .one (.mem a bs) else .one (.send (.slot slot) (.request (.store (b.ctl.glb.slot) a bs)))
    | _ => .done

/-- A little-endian value through translation. -/
def Block.natVa (b : Block) (sp : Space) (va len : Nat) : Nat := leNat (b.readVa sp va len)

/-- Firmware writes bytes at a virtual address of the job. -/
def fwWrite (va : Nat) (bytes : Bytes) : Act := writeVa fwSpace va bytes

/-! ## Coves -/

/-- Logical cove c. -/
def Ctl.cove (c : Ctl) (i : Nat) : Cove := Tab.get Cove.empty c.engine.coves i

/-- The control state with a cove changed. -/
def Ctl.setCove (c : Ctl) (i : Nat) (f : Cove → Cove) : Ctl :=
  { c with engine := { c.engine with coves := Tab.set Cove.empty c.engine.coves i (f (c.cove i)) } }

/-- Context n of a cove. -/
def Cove.ctx (c : Cove) : Nat → Option Ctx
  | 0 => c.ctx0
  | 1 => c.ctx1
  | 2 => c.ctx2
  | _ => c.ctx3

/-- A cove with context n replaced. -/
def Cove.setCtx (c : Cove) (n : Nat) (x : Option Ctx) : Cove :=
  match n with
  | 0 => { c with ctx0 := x }
  | 1 => { c with ctx1 := x }
  | 2 => { c with ctx2 := x }
  | _ => { c with ctx3 := x }

/-- Thread n of a cove. -/
def Cove.thread (c : Cove) : Nat → Thread
  | 0 => c.thread0
  | 1 => c.thread1
  | 2 => c.thread2
  | _ => c.thread3

/-- A cove with thread n replaced. -/
def Cove.setThread (c : Cove) (n : Nat) (t : Thread) : Cove :=
  match n with
  | 0 => { c with thread0 := t }
  | 1 => { c with thread1 := t }
  | 2 => { c with thread2 := t }
  | _ => { c with thread3 := t }

/-- The four contexts in number order. -/
def Cove.ctxs (c : Cove) : List (Nat × Ctx) :=
  [0, 1, 2, 3].filterMap fun n => (c.ctx n).map fun x => (n, x)

/-- Change one context of a cove. -/
def updCtx (cove ctx : Nat) (f : Ctx → Ctx) : Act :=
  .upd fun c => c.setCove cove fun v => v.setCtx ctx ((v.ctx ctx).map f)

/-- Change one thread of a cove. -/
def updThread (cove t : Nat) (f : Thread → Thread) : Act :=
  .upd fun c => c.setCove cove fun v => v.setThread t (f (v.thread t))

/-- Counters wrap at 2^48 (R32, R252, R293). -/
def addCount (t : Tab Nat) (k n : Nat) : Tab Nat := Tab.set 0 t k ((Tab.get 0 t k + n) % 2 ^ 48)

/-- Add to counter k of an engine: LS_BYTES, LS_SMALL, LS_RETRY, LS_EJECT (R252). -/
def countLs (e k n : Nat) : Act :=
  .upd fun c => { c with engine := { c.engine with ls := { c.engine.ls with counters := addCount c.engine.ls.counters (e * 4 + k) n } } }

/-- The system engine whose firmware channels firmware uses: the first that has one not retired (R251, log 54). -/
def Ctl.fwEngine (c : Ctl) : Nat :=
  ((List.range 8).find? fun e => (List.range 4).any fun k => !c.health.spares.chans.contains ((32 + e) * 32 + 28 + k)).getD 0 + 32

/-- A firmware channel (R251). -/
def fwChannel (e ch : Nat) : Bool := decide (32 ≤ e ∧ 28 ≤ ch)

/-- A firmware channel has written n bytes as one piece: LS_BYTES, and LS_SMALL for a piece shorter than 4 KiB (R252).  What follows has a fresh
retry count (R270). -/
def countFw (n : Nat) : Act :=
  .look fun b => Act.all [countLs b.ctl.fwEngine 0 n, Act.when (decide (0 < n ∧ n < 4096)) (countLs b.ctl.fwEngine 1 1),
    .upd fun c => { c with engine := { c.engine with ls := { c.engine.ls with chans := c.engine.ls.chans.filter fun e => !fwChannel (e.1 / 32) (e.1 % 32) } } }]

/-- Add to a counter of a cove (Table 16-12). -/
def countCove (cove code n : Nat) : Act :=
  .upd fun c => c.setCove cove fun v => { v with counters := addCount v.counters code n }

/-! ## The translation caches (R47, R237, Table 07-6) -/

/-- Bay of a logical cove, as die × 16 + bay. -/
def bayOfCove (cove : Nat) : Nat := cove / 16

/-- An entry that maps a page to a frame, which alone the caches hold: absent and host-swapped pages are walked again (log 67). -/
def holdsFrame (e : Nat) : Bool := bit e 0 && !bit e 1 && decide (entTier e < 2)

/-- The entries of a group that map. -/
def WalkGroup.entriesOf (g : WalkGroup) : List TlbEntry :=
  g.entries.zipIdx.filterMap fun (e, i) => if holdsFrame e then some { base := g.base + i * g.size, size := g.size, entry := e, second := g.second } else none

/-- Where a cove's translations are held. -/
structure Walks where
  tlb    : List TlbEntry
  groups : List WalkGroup
  uppers : List UpperEntry
  finals : List TlbEntry
  /-- Addresses of the table entries that walks have read. -/
  reads  : List Nat

/-- What a cove's translations are held by. -/
def Ctl.walks (c : Ctl) (cove : Nat) : Walks :=
  let k := c.engine.caches
  { tlb := (c.cove cove).tlb, groups := Tab.get [] k.groups (bayOfCove cove), uppers := Tab.get [] k.uppers (bayOfCove cove),
    finals := Tab.get [] k.finals (cove / 256), reads := [] }

/-- The final entries that are held for a cove, those of its own micro-TLB first. -/
def Walks.held (w : Walks) : List TlbEntry := w.tlb ++ (w.groups.flatMap WalkGroup.entriesOf ++ w.finals)

/-- How a cove's context translates. -/
def Ctl.space (c : Ctl) (cove : Nat) (second : Bool) : Space :=
  { second := second, cove := some cove, tlb := (c.walks cove).held, uppers := (c.walks cove).uppers }

/-- The entry maps the address in a rank context. -/
def TlbEntry.maps (t : TlbEntry) (second : Bool) (va : Nat) : Bool := t.second == second && decide (t.base ≤ va ∧ va < t.base + t.size)

/-- A use of an entry of a fully associative cache of n entries: it comes first, and the least recently used of more than n is gone. -/
def useFirst {α : Type} [DecidableEq α] (n : Nat) (x : α) (xs : List α) : List α := (x :: xs.filter fun y => y != x).take n

/-- An entry enters the 8-way TLB of a translation unit: its set is that of the page's number (log 67). -/
def useWay (t : TlbEntry) (xs : List TlbEntry) : List TlbEntry :=
  let set := fun (y : TlbEntry) => y.base / y.size % 1024
  let same := xs.filter fun y => y != t && set y == set t
  let gone := (same.drop 7).map fun y => (y.second, y.base)
  t :: xs.filter fun y => y != t && !gone.contains (y.second, y.base)

/-- The pointers that a walk meets on its way, by index shift, and the addresses of the entries it reads. -/
def walkPath (mem : Memory) (second : Bool) (va : Nat) : List Nat → Nat → List UpperEntry × List Nat
  | [], _ => ([], [])
  | sh :: rest, table =>
    let a := table + 8 * (va / 2 ^ sh % (if sh = 43 then 32 else 1024))
    let e := mem.nat a 8
    if bit e 0 && bit e 1 && !rest.isEmpty then
      let (us, as) := walkPath mem second va rest (entFrame e)
      ({ second := second, shift := sh, index := va / 2 ^ sh, table := entFrame e } :: us, a :: as)
    else ([], [a])

/-- The path of the walk of an address from the lowest table that is cached. -/
def Block.pathVia (b : Block) (us : List UpperEntry) (second : Bool) (va : Nat) : List UpperEntry × List Nat :=
  match upperOf us second va 23, upperOf us second va 33, upperOf us second va 43 with
  | some t, _, _ => walkPath b.mem second va [13] t
  | none, some t, _ => walkPath b.mem second va [23, 13] t
  | none, none, some t => walkPath b.mem second va [33, 23, 13] t
  | none, none, none => walkPath b.mem second va [43, 33, 23, 13] (b.root second)

/-- The translation caches after a use of one address (R47, R237): the micro-TLB of 64 entries, else the bay walk cache of 512 groups and 64
upper entries, else the translation unit's TLB, else a walk, which fills them all.  On-chip and window addresses take no entry. -/
def touchTlb (b : Block) (second : Bool) (va : Nat) (w : Walks) : Walks :=
  if windowBase ≤ va || decide (scratchBase ≤ va ∧ va < 0x0F2000000000) then w
  else
    match w.tlb.find? fun t => t.maps second va with
    | some t => { w with tlb := useFirst 64 t w.tlb }
    | none =>
      match w.groups.find? fun g => g.entriesOf.any fun t => t.maps second va with
      | some g => { w with groups := useFirst 512 g w.groups,
                           tlb := match g.entriesOf.find? fun t => t.maps second va with | some t => useFirst 64 t w.tlb | none => w.tlb }
      | none =>
        match w.finals.find? fun t => t.maps second va with
        | some t => { w with tlb := useFirst 64 t w.tlb, finals := useWay t w.finals }
        | none =>
          match b.walkVia w.uppers second va with
          | .entry e size =>
            let (us, as) := b.pathVia w.uppers second va
            let w := { w with uppers := (us.reverse.foldl (fun xs u => useFirst 64 u xs) w.uppers), reads := w.reads ++ as }
            if !holdsFrame e then w
            else
              let t : TlbEntry := { base := va / size * size, size := size, entry := e, second := second }
              let a := (as.getLast?.getD 0) / 64 * 64
              let g : WalkGroup := { second := second, base := va / (8 * size) * (8 * size), size := size,
                                     entries := (List.range 8).map fun i => b.mem.nat (a + 8 * i) 8 }
              { w with tlb := useFirst 64 t w.tlb, finals := useWay t w.finals,
                       groups := useFirst 512 g (w.groups.filter fun h => !(h.second == second && h.base == g.base && h.size == size)) }
          | _ => w

/-- A table with every entry changed. -/
def Tab.mapVals {α : Type} [DecidableEq α] (d : α) (f : α → α) (t : Tab α) : Tab α := t.foldl (fun u e => Tab.set d u e.1 (f e.2)) []

/-- The translation caches without what holds translations of some ranges: given by what a base, a size and a rank context say. -/
def Engine.dropWalks (g : Engine) (gone : Bool → Nat → Nat → Bool) : Engine :=
  { g with
    coves := Tab.mapVals Cove.empty (fun v => { v with tlb := v.tlb.filter fun t => !gone t.second t.base t.size }) g.coves
    caches := { g.caches with
      groups := Tab.mapVals [] (fun xs => xs.filter fun x => !gone x.second x.base (8 * x.size)) g.caches.groups
      uppers := Tab.mapVals [] (fun xs => xs.filter fun x => !gone x.second (x.index * 2 ^ x.shift) (2 ^ x.shift)) g.caches.uppers
      finals := Tab.mapVals [] (fun xs => xs.filter fun x => !gone x.second x.base x.size) g.caches.finals } }

/-- Every micro-TLB, bay walk cache and TLB entry of a range is dropped (R238). -/
def dropTlb (lo hi : Nat) : Act := .upd fun c => { c with engine := c.engine.dropWalks fun _ base size => decide (base < hi ∧ lo < base + size) }

/-! ## The memory-side caches (R227, R228) -/

/-- Die whose cache is the home of a module-local address; none outside HBM4 and DDR5. -/
def Block.homeDie (b : Block) (a : Nat) : Option Nat :=
  match region b.fuses.twoTiB a with
  | .hbm die => some die
  | .ddr => some (a / 4096 % 8 / 4)
  | _ => none

/-- Sets of 16 lines in the memory-side cache of a die: the lagoon that the plan leaves. -/
def Caches.sets (c : Caches) (die : Nat) : Nat := (lagoonSize - Tab.get 0 c.claimed die) / 4096

/-- One line is read or written: a hit comes first; a miss takes a place in its set where the access allocates, and the least recently used of
16 goes back to memory. -/
def Caches.use (c : Caches) (die line : Nat) (write alloc : Bool) : Caches :=
  let ls := Tab.get [] c.lines die
  let n := c.sets die
  match ls.find? fun l => l.line == line with
  | some l => { c with lines := Tab.set [] c.lines die ({ l with dirty := l.dirty || write } :: ls.filter fun x => x.line != line) }
  | none =>
    if !alloc || n = 0 then c
    else
      let gone := ((ls.filter fun x => x.line % n == line % n).drop 15).map (·.line)
      { c with lines := Tab.set [] c.lines die ({ line := line, dirty := write } :: ls.filter fun x => !gone.contains x.line) }

/-- The lines of 256 bytes that a range meets. -/
def linesOf (a n : Nat) : List Nat := if n = 0 then [] else (List.range ((a + n - 1) / 256 + 1 - a / 256)).map fun i => a / 256 + i

/-- An access to module-local addresses passes through the home dies' caches; one of 4 KiB and more, and an operand or key stream, allocates
nothing. -/
def Block.cached (b : Block) (c : Caches) (a n : Nat) (write alloc : Bool) : Caches :=
  if !alloc && c.lines.isEmpty then c
  else (linesOf a n).foldl (fun c l => match b.homeDie (l * 256) with | some die => c.use die l write alloc | none => c) c

/-- An access by an agent that is no stream. -/
def cacheAccess (a n : Nat) (write : Bool) : Act :=
  .look fun b => .upd fun c => { c with engine := { c.engine with caches := b.cached c.engine.caches a n write (decide (n < 4096)) } }

/-- The accesses of a translating agent as module-local ranges. -/
def Block.ranges (b : Block) (sp : Space) (as : List Access) : List (Nat × Nat × Bool × Bool) :=
  as.flatMap fun a => (parts a.va a.len).filterMap fun (v, n) =>
    match b.xlate sp v false with
    | .ok slot x => if slot = b.slot then some (x, n, a.write, decide (a.len < 4096)) else none
    | _ => none

/-- Take a free value: the count moves on. -/
def takeFresh : Act := .one .fresh

/-- The board loads of a list of accesses: a request to the peer for each part that lies on one (R216). -/
def loads (sp : Space) (as : List Access) : Act :=
  .look fun b => Act.each (as.filter fun a => !a.write) fun a => Act.each (parts a.va a.len) fun (v, n) =>
    match b.xlate sp v false with
    | .ok slot x => Act.when (slot != b.slot) (.one (.send (.slot slot) (.request (.load b.ctl.glb.slot x n))))
    | _ => .done

/-- A cove's accesses go through its translation caches and the memory-side caches in order; what lies on a board peer is asked for there,
and a free value stands for what it answers (R216, log 7).  The reads of an operand or key stream allocate nothing (R228). -/
def touchAs (stream : Bool) (cove : Nat) (second : Bool) (as : List Access) : Act :=
  .look fun b =>
    let vas := as.flatMap fun a => (parts a.va a.len).map Prod.fst
    let w := vas.foldl (fun w va => touchTlb b second va w) (b.ctl.walks cove)
    let sp := b.ctl.space cove second
    let use := fun (k : Caches) => (b.ranges sp as).foldl (fun k (a, n, write, small) => b.cached k a n write (small && (write || !stream)))
      (w.reads.foldl (fun k a => b.cached k a 8 false true) k)
    Act.all [loads sp as, Act.when (b.remote sp as) takeFresh, .upd fun c =>
      let d := c.setCove cove fun v => { v with tlb := w.tlb }
      let k := d.engine.caches
      { d with engine := { d.engine with caches := use { k with
          groups := Tab.set [] k.groups (bayOfCove cove) w.groups, uppers := Tab.set [] k.uppers (bayOfCove cove) w.uppers,
          finals := Tab.set [] k.finals (cove / 256) w.finals } } }]

/-- The accesses of a cove that are no stream. -/
def touch (cove : Nat) (second : Bool) (as : List Access) : Act := touchAs false cove second as

/-! ## Semaphores as the plan's agents reach them -/

/-- Ranks of the job: P of the bound fabric configuration, or 1 (R487). -/
def Ctl.jobP (c : Ctl) : Nat := if c.links.fabric.fabric = 0 then 1 else c.links.fabric.ranks.length

/-- This module's rank. -/
def Ctl.rank (c : Ctl) : Nat := if c.links.fabric.fabric = 0 then 0 else c.links.fabric.myRank

/-- Board slot of a rank, own slot without a configuration. -/
def Ctl.slotOfRank (c : Ctl) (r : Nat) : Nat := match c.links.fabric.ranks[r]? with | some e => e.slot | none => c.glb.slot.val

/-- The rank's module sits on this module's board. -/
def Ctl.onBoard (c : Ctl) (r : Nat) : Bool :=
  match c.links.fabric.ranks[r]?, c.links.fabric.ranks[c.rank]? with
  | some e, some m => e.board == m.board
  | _, _ => r == c.rank

/-- The rank context of this module in which a rank runs, if it runs here (R420). -/
def Ctl.servesRank (c : Ctl) (r : Nat) : Option Bool :=
  if r = c.rank then some false else if c.pair.rank2 = some r then some true else none

/-- The rank that the board names by a slot, its share taken over or not (R420); no rank of the job where none is. -/
def Ctl.rankOnSlot (c : Ctl) (slot : Nat) : Nat :=
  if slot = c.glb.slot.val then c.rank
  else ((List.range c.links.fabric.ranks.length).find? fun r =>
    (match c.links.fabric.ranks[r]? with | some e => e.home == slot | none => false) && c.onBoard r).getD c.jobP

/-- The request of a signal to another module. -/
def remoteSignal (rank sem n : Nat) (poison : Bool) : RemoteReq :=
  if poison then .signalPoison rank (Fin.ofNat 32768 sem) else .signal rank (Fin.ofNat 32768 sem) (BitVec.ofNat 31 n)

/-- A SIGNAL or SIGNAL_POISON of this module to one of its own semaphores, in a rank context. -/
def signalLocal (second : Bool) (sem n : Nat) (poison : Bool) : Act :=
  if poison then .one (.poison (semIn second sem)) else .one (.signal (semIn second sem) n)

/-- The slot whose rank this module runs in its second context, if any. -/
def Block.takenSlot (b : Block) : Option Nat := if b.ctl.pair.rank2.isSome then some b.ctl.pair.partner else none

/-- A SIGNAL to a board slot: local for the own slot, into the shifted range for a slot taken over (R420), else a request. -/
def signalSlot (second : Bool) (slot sem n : Nat) (poison : Bool) : Act :=
  .look fun b =>
    if slot = b.slot then signalLocal (if b.takenSlot.isSome then false else second) sem n poison
    else if b.takenSlot = some slot then signalLocal true sem n poison
    else
      let r := b.ctl.rankOnSlot slot
      .one (.send (.slot (if r < b.ctl.jobP then b.ctl.slotOfRank r else slot)) (.request (remoteSignal r sem n poison)))

/-- One signal entry (Table 03-5). -/
def signalEntry (second : Bool) (poison : Bool) (e : Nat) : Act :=
  let sem := bits e 14 0
  let n := bits e 62 32
  if bit e 19 then signalSlot second (bits e 18 16) sem n poison else signalLocal second sem n poison

/-- The used signal entries of a record (Table 03-1). -/
def recSignals (r : Bytes) : List Nat := (List.range (min (u8 r 7) 4)).map fun i => u64 r (64 + 8 * i)

/-- The used wait entries of a record. -/
def recWaits (r : Bytes) : List Nat := (List.range (min (u8 r 6) 4)).map fun i => u64 r (32 + 8 * i)

/-- A WAIT's outcome (Table 09-1): none while it does not complete, else whether it completes poisoned. -/
def Block.waitOutcome (b : Block) (second : Bool) (sem thresh : Nat) : Option Bool :=
  let w := b.sem (semIn second sem)
  if semPoisoned w then some true else if thresh ≤ semCount w then some false else none

/-! ## Sequences and layout -/

/-- Address of a sequence's table entry (R152). -/
def Plan.seqEntry (p : Plan) (q : Nat) : Nat := fld p.layout 8 8 + 64 * q

/-- The 64 bytes of a sequence's table entry, in a rank context. -/
def Block.seqBytes (b : Block) (second : Bool) (q : Nat) : Bytes := b.readVa { fwSpace with second := second } (b.ctl.plan.seqEntry q) 64

/-- The fields of an entry's bytes. -/
def SeqEnt.ofBytes (e : Bytes) : SeqEnt :=
  { length := u64 e 0 % 2 ^ 31, committed := u64 e 8 % 2 ^ 31, vbase := u64 e 16, capPages := u32 e 24, state := u8 e 28,
    priority := u8 e 29, openTime := u64 e 32, seed := u64 e 40, swapped := u32 e 48, pending := u32 e 52 }

/-- A sequence's table entry in a rank context. -/
def Block.seqIn (b : Block) (second : Bool) (q : Nat) : SeqEnt := SeqEnt.ofBytes (b.seqBytes second q)

/-- A sequence's table entry. -/
def Block.seq (b : Block) (q : Nat) : SeqEnt := b.seqIn false q

/-- The bytes of a sequence table entry (Table 05-4). -/
def SeqEnt.bytes (e : SeqEnt) : Bytes :=
  leBytes e.length 8 ++ leBytes e.committed 8 ++ leBytes e.vbase 8 ++ leBytes e.capPages 4 ++ leBytes e.state 1 ++
  leBytes e.priority 1 ++ zeroBytes 2 ++ leBytes e.openTime 8 ++ leBytes e.seed 8 ++ leBytes e.swapped 4 ++ leBytes e.pending 4 ++
  zeroBytes 8

/-- The rank contexts that run here (R420). -/
def Ctl.contexts (c : Ctl) : List Bool := if c.pair.rank2.isSome then [false, true] else [false]

/-- Firmware writes a sequence table entry, in every rank context. -/
def setSeq (q : Nat) (f : SeqEnt → SeqEnt) : Act :=
  .look fun b => Act.each b.ctl.contexts fun second =>
    writeVa { fwSpace with second := second } (b.ctl.plan.seqEntry q) (f (b.seqIn second q)).bytes

/-- No pending token (R488). -/
def noToken : Nat := 0xFFFFFFFF

/-- Firmware's own record of a sequence. -/
def Ctl.seqFw (c : Ctl) (q : Nat) : SeqFw := Tab.get SeqFw.closed c.fw.seqs q

/-- Change firmware's record of a sequence. -/
def Ctl.setSeqFw (c : Ctl) (q : Nat) (f : SeqFw → SeqFw) : Ctl :=
  { c with fw := { c.fw with seqs := Tab.set SeqFw.closed c.fw.seqs q (f (c.seqFw q)) } }

/-- RECS_PER_LAYER (Table 05-3). -/
def Plan.recs (p : Plan) : Nat := u16 p.layout 2
/-- Record layers of the plan (R144). -/
def Plan.layers (p : Plan) : Nat := u16 p.layout 4 * p.recs
/-- LAYOUT by head. -/
def Plan.byHead (p : Plan) : Bool := u8 p.layout 6 == 1
/-- The plan uses sequences: its layout descriptor is not zeros (R149). -/
def Plan.hasSeqs (p : Plan) : Bool := p.layout.any (· != 0)

/-- The rank of a context. -/
def Ctl.rankOf (c : Ctl) (second : Bool) : Nat := if second then c.pair.rank2.getD c.rank else c.rank

/-- The job leader: rank 0, or its survivor (R353). -/
def Ctl.leader (c : Ctl) : Bool := c.rank == 0 || c.pair.rank2 == some 0

/-- The page-owner function (R190). -/
def owner (chunk p n : Nat) : Nat :=
  let prefixPages := 2 * p * chunk
  if n < prefixPages then
    let k := n / chunk
    if k < p then k else 2 * p - 1 - k
  else (n - prefixPages) % p

/-- CHUNK_PAGES of the Tideway descriptor. -/
def Plan.chunk (p : Plan) : Nat := u32 p.tide 4

/-- The plan carries a Tideway descriptor (R188). -/
def Plan.hasTide (p : Plan) : Bool := p.tide.any (· != 0)

/-- The rank that holds a page of a record layer (R159, R190, R487). -/
def Ctl.holder (c : Ctl) (layer page : Nat) : Nat :=
  if c.plan.byHead then layer % c.plan.recs % c.jobP
  else if c.plan.hasTide then owner c.plan.chunk c.jobP page else 0

/-- Virtual address of a page of a record layer (R156). -/
def SeqEnt.pageAddr (e : SeqEnt) (layer page : Nat) : Nat := e.vbase + layer * e.capPages * 8192 + page * 8192

/-- Virtual address of the record of a position (R156). -/
def SeqEnt.recAddr (e : SeqEnt) (layer p : Nat) : Nat := e.pageAddr layer (p / 16) + p % 16 * 512

/-! ## Events -/

/-- Raise an event (log 10). -/
def raise (code source detail : Nat) : Act := .one (.raise code source detail)

/-- SOURCE of a class and unit (Table 09-8). -/
def src (cls unit : Nat) : Nat := cls * 4096 + unit % 4096

/-- Send a message. -/
def send (d : Dest) (m : Msg) : Act := .one (.send d m)

/-- This module is bound into a pair (GLB_STATE.BOUND). -/
def Ctl.bound (c : Ctl) : Bool := c.pair.role != .unbound

/-- A SIGNAL to a job rank: local for the ranks this module runs, else a request that crosses the fabric (R247, R265, R420). -/
def signalRank (rank sem n : Nat) (poison : Bool) : Act :=
  .look fun b =>
    match b.ctl.servesRank rank with
    | some second => signalLocal second sem n poison
    | none => send (.rank rank) (.request (remoteSignal rank sem n poison))

/-- Mirror a message to the partner while there is one (R414). -/
def mirror (m : MirrorMsg) : Act :=
  .look fun b => Act.when (b.ctl.pair.role == .bound || (match b.ctl.pair.role with | .resyncing _ => b.ctl.pair.snapshot | _ => false))
    (send .partner (.mirror m))

/-- Records written from a slot of a page on go to the partner: the own share's into its mirror frames, the failed share's to the
replacement that resynchronises (R414, Table 13-8 step 3). -/
def mirrorRecord (second : Bool) (q layer page slot : Nat) (bytes : Bytes) : Act :=
  mirror (if second then .back q layer page slot bytes else .record q layer page slot bytes)

/-- The unsigned 31-bit threshold or increment of a wait or signal entry. -/
def entryAmount (e : Nat) : Nat := bits e 62 32
/-- The semaphore of a wait or signal entry. -/
def entrySem (e : Nat) : Nat := bits e 14 0

end Sys2Proof.Machine
end

