-- ==== Sys2Proof/Machine/Control.lean ====
section
/-! DEFINITION. Shared operations of the host interface, the resets, the fence and the module fault, the power-safe store and
retirement reports. -/

namespace Sys2Proof.Machine

/-! ## Command headers (Table 11-4) -/

/-- OPCODE. -/
def cOp (c : Bytes) : Nat := u8 c 0
/-- FLAGS.WAIT. -/
def cWait (c : Bytes) : Bool := bit (u8 c 1) 0
/-- FLAGS.SIGNAL. -/
def cSignal (c : Bytes) : Bool := bit (u8 c 1) 1
/-- FLAGS.IRQ. -/
def cIrq (c : Bytes) : Bool := bit (u8 c 1) 2
/-- FLAGS.FENCE. -/
def cFence (c : Bytes) : Bool := bit (u8 c 1) 3
/-- SEQ of a sequence command. -/
def cSeq (c : Bytes) : Nat := u16 c 32

/-- Completion statuses (Table 11-8). -/
inductive Status where
  | ok | okShort | okEmpty | eState | eFormat | eVerify | eShape | ePoison | eLink | eCapacity | eAuth | eAborted | eTransfer
  deriving DecidableEq, Repr

/-- STATUS code. -/
def Status.code : Status → Nat
  | .ok => 0x00 | .okShort => 0x01 | .okEmpty => 0x02 | .eState => 0x10 | .eFormat => 0x11 | .eVerify => 0x12 | .eShape => 0x13
  | .ePoison => 0x14 | .eLink => 0x15 | .eCapacity => 0x16 | .eAuth => 0x17 | .eAborted => 0x18 | .eTransfer => 0x19

/-! ## Ports and rings -/

/-- Registers of a port. -/
def HostIf.hif (h : HostIf) (port : Bool) : Hif := if port then h.port1 else h.port0

/-- Change the registers of a port. -/
def updHif (port : Bool) (f : Hif → Hif) : Act :=
  .upd fun c => { c with hif := if port then { c.hif with port1 := f c.hif.port1 } else { c.hif with port0 := f c.hif.port0 } }

/-- Ring n. -/
def Ctl.ring (c : Ctl) (n : Nat) : Ring := Tab.get Ring.reset c.hif.rings n

/-- Change a ring. -/
def updRing (n : Nat) (f : Ring → Ring) : Act :=
  .upd fun c => { c with hif := { c.hif with rings := Tab.set Ring.reset c.hif.rings n (f (c.ring n)) } }

/-- The port that owns a ring (R336). -/
def Ctl.portOf (c : Ctl) (ring : Nat) : Bool := c.glb.dualPort && decide (32 ≤ ring ∧ ring < 64)

/-- HIF_CTRL.ENABLE of a port. -/
def Ctl.hifOn (c : Ctl) (port : Bool) : Bool := (c.hif.hif port).ctrl.getLsbD 0

/-- ENABLE of a ring. -/
def Ring.on (r : Ring) : Bool := r.ctrl.getLsbD 0
/-- PRIO of a ring. -/
def Ring.prio (r : Ring) : Nat := bits r.ctrl.toNat 3 2
/-- IRQ_ALL of a ring. -/
def Ring.irqAll (r : Ring) : Bool := r.ctrl.getLsbD 4
/-- VECTOR of a ring. -/
def Ring.vector (r : Ring) : Nat := bits r.ctrl.toNat 13 8
/-- Slots of a ring. -/
def Ring.slots (r : Ring) : Nat := bits r.size.toNat 16 0

/-- The ring is this module's pair ring (R351). -/
def Ctl.pairRing (c : Ctl) (n : Nat) : Bool := n == 0 && c.bound

/-- The port lets the ring live: HIF enabled, or the pair ring (R446, R476). -/
def Ctl.ringLive (c : Ctl) (n : Nat) : Bool := c.hifOn (c.portOf n) || c.pairRing n

/-- Commands taken from a ring and not completed. -/
def Ctl.inflight (c : Ctl) (n : Nat) : Nat := (c.hif.cmds.filter (fun x => x.ring == n)).length

/-- The module state lets rings run (R364: none in STANDBY and BOOT). -/
def ModState.ringState : ModState → Bool
  | .standby | .boot => false
  | _ => true

/-! ## Taken commands -/

/-- A taken command by number. -/
def Ctl.cmd (c : Ctl) (id : Nat) : Option Cmd := c.hif.cmds.find? (fun x => x.id == id)

/-- Change a taken command. -/
def updCmd (id : Nat) (f : Cmd → Cmd) : Act :=
  .upd fun c => { c with hif := { c.hif with cmds := c.hif.cmds.map fun x => if x.id = id then f x else x } }

/-- RESULT padded to 16 bytes. -/
def result16 (r : Bytes) : Bytes := (r ++ zeroBytes 16).take 16

/-- The command's work has ended with a status code; its completion is written by COMPLETION_WRITE. -/
def finishCode (id code : Nat) (r : Bytes) : Act :=
  .look fun b =>
    .upd fun c =>
      { c with hif := { c.hif with
          nextFin := c.hif.nextFin + 1,
          cmds := c.hif.cmds.map fun x =>
            if x.id = id then { x with phase := .finished, status := code, result := result16 r, finNo := c.hif.nextFin,
                                       evtNo := b.arb.next } else x } }

/-- The command's work has ended with a status. -/
def finish (id : Nat) (st : Status) (r : Bytes) : Act := finishCode id st.code r

/-- RESULT of SEQ_APPEND and SEQ_STEP (Table 11-9). -/
def seqResult (b : Block) (x : Cmd) (stopped : Bool) : Bytes :=
  leBytes (b.seq (cSeq x.bytes)).length 8 ++ leBytes (if cOp x.bytes = 0x12 then x.steps else x.tokens) 4 ++
  leBytes (if stopped then 1 else 0) 1

/-- A sequence command. -/
def isSeqOp (op : Nat) : Bool := decide (0x10 ≤ op ∧ op ≤ 0x16)

/-- Opcodes of barriers (R348). -/
def isBarrier (c : Bytes) : Bool :=
  cOp c == 0x02 || cOp c == 0x03 || cOp c == 0x04 || cOp c == 0x30 || cOp c == 0x52 || cOp c == 0x61 ||
  (cOp c == 0x31 && u8 c 33 != 1)

/-- Opcodes of soft barriers (R348). -/
def isSoft (c : Bytes) : Bool := cOp c == 0x05 || cOp c == 0x32 || (cOp c == 0x31 && u8 c 33 == 1)

/-- Update commands of Shoal (R397). -/
def isUpdate (op : Nat) : Bool := decide (0x21 ≤ op ∧ op ≤ 0x24)

/-- A sequence command that is running or held: what a soft barrier does not wait for. -/
def Cmd.goesOn (x : Cmd) : Bool := isSeqOp (cOp x.bytes) && (x.phase == .running || x.phase == .held)

/-- Sequence state codes (Table 05-4). -/
def seqClosed : Nat := 0
def seqOpenSt : Nat := 1
def seqActive : Nat := 2
def seqPreempted : Nat := 3

/-- A command whose completion takes the module out of its running state: SET_POWER to STANDBY and FW_ACTIVATE, once they have ended OK
(R444, R463). -/
def Cmd.leaves (x : Cmd) : Bool :=
  x.phase == .finished && x.status == 0 && (cOp x.bytes == 0x61 || (cOp x.bytes == 0x52 && u8 x.bytes 32 == 2))

/-! ## Command semaphores (R349) -/

/-- The semaphore lies in a range of the semaphore range object (R286). -/
def inSemRange (obj : Bytes) (s : Nat) : Bool :=
  decide ((u16 obj 2 ≠ 0 ∧ u16 obj 0 ≤ s ∧ s < u16 obj 0 + u16 obj 2) ∨ (u16 obj 6 ≠ 0 ∧ u16 obj 4 ≤ s ∧ s < u16 obj 4 + u16 obj 6))

/-- What is wrong with a command semaphore, if anything (R349). -/
def semTrouble (b : Block) (s : Nat) : Option Status :=
  if 16256 ≤ s ∧ s ≤ 16319 then none
  else if (16320 ≤ s ∧ s ≤ 16383) ∨ 32640 ≤ s then some .eFormat
  else if !b.ctl.plan.loaded then some .eState
  else if inSemRange b.ctl.plan.sem s then none else some .eFormat

/-- The number is of a semaphore that no command may name, whatever plan is loaded (R349). -/
def semNever (s : Nat) : Bool := decide ((16320 ≤ s ∧ s ≤ 16383) ∨ 32640 ≤ s)

/-- What is wrong with the semaphore that a command waits on, if anything. -/
def waitTrouble (b : Block) (c : Bytes) : Option Status := if cWait c then semTrouble b (u16 c 16) else none

/-- What is wrong with the semaphore that a command signals, if anything. -/
def signalTrouble (b : Block) (c : Bytes) : Option Status := if cSignal c then semTrouble b (u16 c 18) else none

/-- What is wrong with a command's semaphores, if anything (R349). -/
def commandTrouble (b : Block) (c : Bytes) : Option Status := (waitTrouble b c).or (signalTrouble b c)

/-! ## Starting -/

/-- The ordering conditions of R348, R397 and R398 let the command start. -/
def Block.mayStart (b : Block) (x : Cmd) : Bool :=
  let cs := b.ctl.hif.cmds
  let earlier := cs.filter (fun y => decide (y.id < x.id))
  let op := cOp x.bytes
  let fence := !cFence x.bytes || (earlier.all fun y => y.ring != x.ring)
  let running := cs.all fun y => !((isBarrier y.bytes || isSoft y.bytes) && y.phase == .running && y.id != x.id) && !y.leaves
  let barrier := if isBarrier x.bytes then earlier.isEmpty else if isSoft x.bytes then earlier.all Cmd.goesOn else true
  let same := fun (y : Cmd) => isSeqOp (cOp y.bytes) && cSeq y.bytes == cSeq x.bytes
  let order := !isSeqOp op || (earlier.all fun y => !(same y && y.ring == x.ring && y.phase == .waiting))
  let step := if op = 0x11 ∨ op = 0x12 then
      (earlier.all fun y => !(same y && y.ring == x.ring && decide (0x10 ≤ cOp y.bytes ∧ cOp y.bytes ≤ 0x12))) &&
      (earlier.all fun y => !(same y && decide (cOp y.bytes = 0x11 ∨ cOp y.bytes = 0x12) && y.phase == .waiting)) &&
      (b.seq (cSeq x.bytes)).state != seqActive
    else true
  let started := !isSeqOp op || !b.ctl.job.inJob || !b.ctl.leader || ((List.range b.ctl.jobP).all fun r => b.ctl.job.started.contains r)
  let update := !isUpdate op || (earlier.all fun y => !isUpdate (cOp y.bytes))
  let mount := op != 0x24 || ((earlier.all fun y => cOp y.bytes != 0x20 || y.phase != .running) && (b.ctl.shoal.slots.all fun e => e.2.isNone))
  let search := op != 0x20 || ((earlier.all fun y => cOp y.bytes != 0x24) &&
      decide ((b.ctl.shoal.slots.filter fun e => e.2.isSome).length < 32))
  let stage := op != 0x60 || (earlier.all fun y => cOp y.bytes != 0x60)
  x.phase == .waiting && (!cWait x.bytes || x.waitMet || (waitTrouble b x.bytes).isSome) && fence && running && barrier && order && step && started && update && mount &&
    search && stage

/-- A command starts: it runs, in start order; what it does is `k`.  `legal` is Table 11-11's answer for it; where it says no
the command completes with E_STATE and no effect (R350), and likewise with R349's status where one of its semaphores is not
allowed.  Where the command is not of this opcode or may not start yet,
nothing happens (log 4). -/
def startCmd (id op : Nat) (legal : Block → Cmd → Bool) (k : Cmd → Act) : Act :=
  .look fun b =>
    match b.ctl.cmd id with
    | none => .done
    | some x =>
      Act.when (cOp x.bytes == op && b.mayStart x && b.ctl.glb.state.ringState) <|
        .eff (.upd fun c => { c with hif := { c.hif with
                nextStart := c.hif.nextStart + 1,
                cmds := c.hif.cmds.map fun y => if y.id = id then { y with phase := .running, startNo := c.hif.nextStart } else y } })
          (if !legal b x then finish id .eState []
           else match commandTrouble b x.bytes with | some st => finish id st [] | none => k x)

/-- The module is in one of these states. -/
def inStates (ss : List ModState) (b : Block) : Bool := ss.contains b.ctl.glb.state

/-- The states in which rings run. -/
def anyRingState : List ModState := [.ready, .loaded, .running, .draining, .degraded, .resync]

/-! ## The power-safe store (R429 to R431) -/

/-- The newest valid snapshot, and whether it lies in bank B (R430). -/
def Health.newest (h : Health) : Option (Snapshot × Bool) :=
  match h.storeA.filter (·.intact), h.storeB.filter (·.intact) with
  | some a, some b => if a.seqnum < b.seqnum then some (b, true) else some (a, false)
  | some a, none => some (a, false)
  | none, some b => some (b, true)
  | none, none => none

/-- What a snapshot of the present state holds (Table 13-11). -/
def Ctl.snapshot (c : Ctl) (seqnum : Nat) : Snapshot :=
  { records := [StoreTag.spar, .link, .errh, .conf, .shep, .last].map fun t => { tag := t, seqnum := seqnum, crcOk := true }
    spares := c.health.spares,
    links := c.links.links.filterMap fun e => if e.2.lastPeer = 0 then none else some (e.1, e.2.lastPeer),
    errors := c.health.history,
    conf := { monClass := c.power.monClass, bound := c.bound, partner := c.pair.partner },
    shoal := c.shoal.stored <|> (c.health.newest.bind fun n => n.1.shoal) }

/-- The NOR device that the next snapshot goes to (R429, R431). -/
def Ctl.storeDev (c : Ctl) : Bool := c.health.newest.map Prod.snd == some false

/-- A snapshot goes into the bank that does not hold the newest valid one (R431). -/
def Ctl.store (c : Ctl) (now : Nat) : Ctl :=
  let n := c.health.newest
  let s := c.snapshot ((n.map fun x => x.1.seqnum).getD 0 + 1)
  let h := { c.health with wanted := false, storedAt := now }
  { c with health := if c.storeDev then { h with storeB := some s } else { h with storeA := some s } }

/-- A snapshot waits to be written: something asked for one, or there is new error history and the last one is a minute old (R431). -/
def Block.storeDue (b : Block) : Bool :=
  let h := b.ctl.health
  let stale := match h.newest with | none => !h.history.isEmpty | some n => n.1.errors != h.history
  h.wanted || (stale && decide (h.storedAt + 60000000000 ≤ b.lhTime))

/-- Firmware has taken a store bank (Table 14-9 step 6): before that the store is not written (R448). -/
def Ctl.storeTaken (c : Ctl) : Bool := decide (6 ≤ c.glb.step)

/-- Write a snapshot now. -/
def storeNow : Act := .look fun b => .upd fun c => c.store b.lhTime

/-- Number of elements of a list that satisfy a test. -/
def countIf {α : Type} (p : α → Bool) (xs : List α) : Nat := (xs.filter p).length

/-- A history with one more record: every retirement is kept, and the last 1,024 classified errors (Table 13-11). -/
def addHistory (h : List ErrRec) (r : ErrRec) : List ErrRec :=
  let all := h ++ [r]
  if 1024 < countIf (fun x => x.kind != 2) all then all.eraseP fun x => x.kind != 2 else all

/-- A record of the error history (Table 13-11). -/
def history (r : Nat → ErrRec) : Act :=
  .look fun b => .upd fun c => { c with health := { c.health with history := addHistory c.health.history (r b.lhTime) } }

/-! ## Resets (Table 14-10) -/

/-- The control state after a reset of the compute dies: everything returns to its reset value but what the Lighthouse
domain, the pins, the NOR devices and the power-on latches hold; start-up goes on from step 3 (R445, R447). -/
def Ctl.resetDies (c : Ctl) (now : Nat) : Ctl :=
  { Ctl.reset with
    glb := { Glb.reset with slot := c.glb.slot, dualPort := c.glb.dualPort, step := 3, startedAt := now, tripped := c.glb.tripped },
    pins := { c.pins with removeOk := c.pins.removeOk },
    lh := c.lh,
    power := { Power.reset with standbyAt := c.power.standbyAt },
    health := { Health.new with storeA := c.health.storeA, storeB := c.health.storeB },
    sec := { Security.reset with sel0 := c.sec.sel0, sel1 := c.sec.sel1, idFault := c.sec.idFault, nextBank := c.sec.nextBank } }

/-- A warm reset (R445): BOOT, SEQNO restarts, LH_TIME and the store kept. -/
def warmReset : Act :=
  .look fun b => Act.all [.upd fun c => c.resetDies b.lhTime, .one .arbReset]

/-- STANDBY is entered (R444): the dies go off, the PCIe link into L2. -/
def enterStandby : Act :=
  .look fun b => .upd fun c =>
    let d := c.resetDies b.lhTime
    { d with glb := { d.glb with state := .standby, step := 0 }, power := { d.power with state := .standby, standbyAt := b.lhTime } }

/-- A fence (R418): plan work, host writes and link traffic stop; the event is recorded in the power-safe store and the
module resets into BOOT (log 15). -/
def fence (detail : Nat) : Act :=
  Act.all [history fun t => { time := t, cls := 15, kind := 1, unit := 0, detail := detail },
    .look fun b => Act.when b.ctl.storeTaken storeNow, warmReset]

/-- A module fault declared by this module (R405, R418): the partner is told, or without a partner the leader (R426); the module fences. -/
def moduleFault (detail : Nat) : Act :=
  .look fun b => Act.all [
    Act.when b.ctl.bound (send .partner (.faultNotice none)),
    Act.when (!b.ctl.bound && b.ctl.job.inJob && !b.ctl.leader) (send (.rank 0) (.faultNotice (some b.ctl.rank))),
    fence detail]

/-! ## Planned removal (R450, Table 14-12) -/

/-- The removal request ends: fence, PCIe down, REMOVE_OK (Table 14-12 step 7). -/
def removeEnd : Act :=
  Act.all [fence 5, .upd fun c => { c with pins := { c.pins with removeOk := true }, glb := { c.glb with stopped := true } }]

/-- A pending removal request is served as the module state allows (Table 14-12 steps 2 to 5): at once in BOOT, READY, LOADED and
STANDBY; by a drain when this module and its partner run; by giving up a resynchronisation; otherwise it stays pending. -/
def serveRemoval : Act :=
  .look fun b => Act.opt b.ctl.power.removal fun r => Act.when (!b.ctl.pins.removeOk) <|
    match b.ctl.glb.state with
    | .boot => .upd fun c => { c with pins := { c.pins with removeOk := true }, glb := { c.glb with stopped := true } }
    | .standby | .ready | .loaded => .upd fun c => { c with pins := { c.pins with removeOk := true } }
    | .running => Act.when (b.ctl.pair.role == .bound && b.ctl.pair.armed) <|
        .upd fun c =>
          let p := { c.power with removal := some { r with since := b.lhTime, draining := true } }
          { c with power := p, glb := { c.glb with state := .draining }, pair := { c.pair with handover := true } }
    | .resync => removeEnd
    | .draining | .degraded => .done

/-! ## Retirement (R404, R406, R411) -/

/-- SOURCE class of a unit class (Tables 09-8 and 13-1), with the unit as the source numbers it. -/
def unitSource (cls unit : Nat) : Nat :=
  match cls with
  | 0 => src 1 unit
  | 1 | 2 => src 12 unit
  | 3 => src 4 unit
  | 4 => src 5 unit
  | 5 => src 6 unit
  | 6 => src 2 (unit / 8)
  | 7 => src 11 unit
  | _ => src 3 unit

/-- UNIT_RETIRED (Table 13-4), the record in the history and the request for a snapshot (R431). -/
def unitRetired (cls unit logical spare reason source : Nat) : Act :=
  Act.all [
    raise 0x0200 source (spare * 2 ^ 48 + logical * 2 ^ 32 + unit * 2 ^ 16 + reason * 2 ^ 4 + cls),
    history fun t => { time := t, cls := cls, kind := 2, unit := unit, detail := spare * 65536 + logical },
    .upd fun c => { c with health := { c.health with wanted := true } }]

/-- SPARE_LOW, once per group; the rows and the bank of a lagoon slice are one group (R406). -/
def spareLow (cls group left source : Nat) : Act :=
  let key := (if cls = 2 then 1 else cls) * 65536 + group
  .look fun b => Act.when (!b.ctl.health.lowRaised.contains key) <|
    Act.all [raise 0x0201 source (left * 2 ^ 32 + group * 2 ^ 16 + cls),
      .upd fun c => { c with health := { c.health with lowRaised := key :: c.health.lowRaised } }]

end Sys2Proof.Machine
end

