-- ==== Sys2Proof/Machine/Alloc.lean ====
section
/-! DEFINITION. Buffers of the plan, the frame allocator, table frames and page-table entries of the sequence region (R151, R161,
R165, R172 to R174, R235, R236, R415). -/

namespace Sys2Proof.Machine

/-! ## Buffer table (Table 03-21) -/

/-- VADDR of a buffer entry. -/
def bufVaddr (e : Bytes) : Nat := u64 e 0
/-- BYTES. -/
def bufBytes (e : Bytes) : Nat := u64 e 8
/-- KIND. -/
def bufKind (e : Bytes) : Nat := u8 e 16
/-- TIER. -/
def bufTier (e : Bytes) : Nat := u8 e 17
/-- READONLY. -/
def bufReadonly (e : Bytes) : Bool := bit (u8 e 18) 0
/-- REPLICATED. -/
def bufReplicated (e : Bytes) : Bool := bit (u8 e 18) 1
/-- DIE. -/
def bufDie (e : Bytes) : Nat := u8 e 19
/-- COVE. -/
def bufCove (e : Bytes) : Nat := u16 e 20
/-- BACKING. -/
def bufBacking (e : Bytes) : Nat := u64 e 40
/-- CAPACITY of a work counter. -/
def bufCapacity (e : Bytes) : Nat := u32 e 48

/-- The buffer that holds a virtual address. -/
def Plan.bufAt (p : Plan) (va : Nat) : Option Buf :=
  p.bufs.find? fun x => decide (bufVaddr x.entry ≤ va ∧ va < bufVaddr x.entry + bufBytes x.entry)

/-- Address of the level-1 root entry and its two successors down to the level-4 table of an address, by its index shifts. -/
def leafTable (mem : Memory) (va : Nat) : List Nat → Nat → Option Nat
  | [], table => some table
  | sh :: rest, table =>
    let e := mem.nat (table + 8 * (va / 2 ^ sh % (if sh = 43 then 32 else 1024))) 8
    if bit e 0 && bit e 1 then leafTable mem va rest (entFrame e) else none

/-- The entry of an address in a table of a level with this index shift. -/
def entryAddr (table va sh : Nat) : Nat := table + 8 * (va / 2 ^ sh % (if sh = 43 then 32 else 1024))

/-- Firmware writes one table entry (atomic, R166). -/
def writeEntry (addr e : Nat) : Act := .one (.mem addr (leBytes e 8))

/-- The absent entry: VALID, TIER absent (R161). -/
def absentEntry : Nat := 13

/-- The host-swapped entry of a slot (Table 05-6). -/
def swappedEntry (slot : Nat) (pinned : Bool) : Nat := slot * 8192 + 8 + (if pinned then 32 else 0) + 1

/-! ## Frames -/

/-- Frames of a pool piece list, as (first frame, count). -/
def Plan.poolRanges (p : Plan) (kind : Nat) (tier : Nat) : List (Nat × Nat) :=
  (p.bufs.filter fun x => bufKind x.entry == kind && bufTier x.entry == tier).flatMap fun x =>
    x.pieces.map fun q => (q.paddr / 8192, q.bytes / 8192)

/-- Frames that a range list holds. -/
def rangeCount (rs : List (Nat × Nat)) : Nat := (rs.map Prod.snd).sum

/-- The frame lies in the ranges. -/
def inRanges (rs : List (Nat × Nat)) (f : Nat) : Bool := rs.any fun r => decide (r.1 ≤ f ∧ f < r.1 + r.2)

/-- Lowest frame of a range from `f` on that is not used; `fuel` exceeds the number of used frames. -/
def firstUnused (used : List Nat) : Nat → Nat → Nat → Option Nat
  | 0, _, _ => none
  | fuel + 1, f, last => if last ≤ f then none else if used.contains f then firstUnused used fuel (f + 1) last else some f

/-- Lowest free frame of a range list (log 8). -/
def freeFrame (rs : List (Nat × Nat)) (used : List Nat) : Option Nat :=
  rs.findSome? fun r => firstUnused used (used.length + 1) r.1 (r.1 + r.2)

/-- Key-value frames in use. -/
def Alloc.used (a : Alloc) : List Nat := a.refs.map Prod.fst

/-- Free key-value frames of a tier. -/
def Ctl.freeFrames (c : Ctl) (tier : Nat) : Nat :=
  let rs := c.plan.poolRanges 2 tier
  rangeCount rs - countIf (inRanges rs) c.fw.alloc.used

/-- Low-water mark of a tier's pools (Table 05-3). -/
def Ctl.lowMark (c : Ctl) (tier : Nat) : Nat :=
  let m := u32 c.plan.layout (if tier = 0 then 32 else 36)
  if m = 0 then rangeCount (c.plan.poolRanges 2 tier) / 64 else m

/-- Placement tier of a page of a sequence: the last rule that names it, else HBM4 (R172). -/
def SeqFw.tierOf (f : SeqFw) (layer page : Nat) : Nat :=
  f.rules.foldl (fun t r =>
    if decide (r.layer ≤ layer ∧ layer < r.layer + r.layers ∧ r.page ≤ page ∧ page < r.page + r.pages) then r.tier.getD t else t) 0

/-- PINNED of a page when it is allocated (R167). -/
def SeqFw.pinOf (f : SeqFw) (layer page : Nat) : Bool :=
  f.rules.foldl (fun t r =>
    if r.tier.isNone && decide (r.layer ≤ layer ∧ layer < r.layer + r.layers ∧ r.page ≤ page ∧ page < r.page + r.pages) then r.pin else t) false

/-- The frame an allocation takes: of the placement tier, else of the other (R173). -/
def Ctl.pickFrame (c : Ctl) (tier : Nat) : Option (Nat × Nat) :=
  match freeFrame (c.plan.poolRanges 2 tier) c.fw.alloc.used with
  | some f => some (tier, f)
  | none => (freeFrame (c.plan.poolRanges 2 (1 - tier)) c.fw.alloc.used).map fun f => (1 - tier, f)

/-- PAGE_POOL_LOW when a tier has fallen below its mark (R174). -/
def poolLow (tier : Nat) : Act :=
  .look fun b =>
    let c := b.ctl
    let free := c.freeFrames tier
    let low := if tier = 0 then c.fw.alloc.lowHbm else c.fw.alloc.lowDdr
    let set := fun (v : Bool) => Act.upd fun c => { c with fw := { c.fw with alloc :=
      if tier = 0 then { c.fw.alloc with lowHbm := v } else { c.fw.alloc with lowDdr := v } } }
    if !low && decide (free < c.lowMark tier) then (raise 0x0402 0 (free % 2 ^ 32 * 65536 + tier)).seq (set true)
    else Act.when (low && decide (2 * c.lowMark tier < free)) (set false)

/-- Change the reference count of a frame; 0 frees it. -/
def addRef (f : Nat) (d : Int) : Act :=
  .upd fun c =>
    let n := (((Tab.get 0 c.fw.alloc.refs f : Nat) : Int) + d).toNat
    { c with fw := { c.fw with alloc := { c.fw.alloc with
      refs := Tab.set 0 c.fw.alloc.refs f n, owner := if n = 0 then Tab.set 0 c.fw.alloc.owner f 0 else c.fw.alloc.owner } } }

/-- Packed name of a page: sequence, record layer and page. -/
def pageKey (q layer page : Nat) : Nat := q * 2 ^ 44 + layer * 2 ^ 32 + page

/-- A frame is known by the page that first takes it. -/
def ownFrame (f q layer page : Nat) : Act :=
  .upd fun c => { c with fw := { c.fw with alloc := { c.fw.alloc with owner := Tab.set 0 c.fw.alloc.owner f (pageKey q layer page + 1) } } }

/-- A frame loses a reference; the pool marks follow, and a mirror frame that has none left is free (R415). -/
def dropFrame (f : Nat) : Act :=
  Act.all [addRef f (-1), poolLow 0, poolLow 1,
    .upd fun c => if Tab.get 0 c.fw.alloc.refs f = 0 then { c with pair := { c.pair with frames := c.pair.frames.filter fun m => m.1 != f } } else c]

/-! ## Table frames -/

/-- Table-pool frames. -/
def Plan.tableRanges (p : Plan) : List (Nat × Nat) := p.poolRanges 3 0 ++ p.poolRanges 3 1

/-- Table frames not in use. -/
def Ctl.freeTables (c : Ctl) : Nat := rangeCount c.plan.tableRanges - c.fw.alloc.tables.length

/-- The next table frame (log 8). -/
def Ctl.pickTable (c : Ctl) : Option Nat := freeFrame c.plan.tableRanges c.fw.alloc.tables

/-- TIER of a table pointer to a frame. -/
def tierOfFrame (f : Nat) : Nat := if ddrBase / 8192 ≤ f then 1 else 0

/-- The next table frame of a rank context: the second context's lie in the firmware reserve (log 14). -/
def Block.pickTableIn (b : Block) (second : Bool) : Option Nat :=
  if second then firstUnused b.ctl.pair.tables2 (b.ctl.pair.tables2.length + 1) (b.fwReserve / 8192 + 1) (b.fwReserve / 8192 + 2 ^ 20)
  else b.ctl.pickTable

/-- A table frame of a rank context is taken. -/
def useTable (second : Bool) (f : Nat) : Act :=
  .upd fun c =>
    if second then { c with pair := { c.pair with tables2 := f :: c.pair.tables2 } }
    else { c with fw := { c.fw with alloc := { c.fw.alloc with tables := f :: c.fw.alloc.tables } } }

/-- Table frames of a rank context are free again. -/
def freeTables (second : Bool) (fs : List Nat) : Act :=
  .upd fun c =>
    if second then { c with pair := { c.pair with tables2 := c.pair.tables2.filter fun f => !fs.contains f } }
    else { c with fw := { c.fw with alloc := { c.fw.alloc with tables := c.fw.alloc.tables.filter fun f => !fs.contains f } } }

/-- Frame of the shared table of absent entries of a rank context (R236). -/
def Ctl.absentTable (c : Ctl) (second : Bool) : Option Nat := if second then c.pair.absent2 else c.fw.alloc.absent

/-- A table whose 1,024 entries are all the same. -/
def fillTable (f e : Nat) : Act := .one (.mem (f * 8192) ((List.replicate 1024 (leBytes e 8)).flatten))

/-- Write the level-4 entry of an address; a span that still points to the shared absent table first gets a private table from
the sequence's reservation (R236). -/
def setPage (second : Bool) (q va e : Nat) : Act :=
  .look fun b =>
    match leafTable b.mem va [43, 33, 23] (b.root second), leafTable b.mem va [43, 33] (b.root second) with
    | some leaf, some l3 =>
      if b.ctl.absentTable second = some (leaf / 8192) then
        if e = absentEntry then .done
        else Act.opt (b.pickTableIn second) fun f =>
          Act.all [useTable second f,
            .upd fun c => if second then c.setSeqFw q fun s => { s with tables2 := f :: s.tables2 }
              else
                let d := c.setSeqFw q fun s => { s with tables := f :: s.tables, reserve := s.reserve - 1 }
                { d with fw := { d.fw with alloc := { d.fw.alloc with reserved := d.fw.alloc.reserved - 1 } } },
            fillTable f absentEntry, writeEntry (entryAddr (f * 8192) va 13) e,
            writeEntry (entryAddr l3 va 23) (mkPointer (f * 8192) b.slot (tierOfFrame f)),
            dropTlb (va / 2 ^ 23 * 2 ^ 23) ((va / 2 ^ 23 + 1) * 2 ^ 23)]
      else writeEntry (entryAddr leaf va 13) e
    | _, _ => .done

/-- The level-4 entry of an address, absent where no table reaches it. -/
def Block.pageEntry (b : Block) (second : Bool) (va : Nat) : Nat :=
  match leafTable b.mem va [43, 33, 23] (b.root second) with
  | some leaf => b.mem.nat (entryAddr leaf va 13) 8
  | none => absentEntry

/-- The page entry holds a frame of this module: its frame number. -/
def Block.frameOf (b : Block) (e : Nat) : Option Nat :=
  if bit e 0 && decide (entTier e < 2) && entModule e == b.slot then some (entFrame e / 8192) else none

/-! ## Sequences by address -/

/-- Bytes of a sequence's virtual range. -/
def Block.seqSpan (b : Block) (q : Nat) : Nat := b.ctl.plan.layers * (b.seq q).capPages * 8192

/-- Sequences that are not CLOSED. -/
def Block.openSeqs (b : Block) : List Nat := (b.ctl.fw.seqs.map Prod.fst).filter fun q => (b.seq q).state != seqClosed

/-- Sequence, record layer and page of an address of the sequence region. -/
def Block.pageOf (b : Block) (va : Nat) : Option (Nat × Nat × Nat) :=
  (b.openSeqs.find? fun q => decide ((b.seq q).vbase ≤ va ∧ va < (b.seq q).vbase + b.seqSpan q)).map fun q =>
    let o := (va - (b.seq q).vbase) / 8192
    (q, o / (b.seq q).capPages, o % (b.seq q).capPages)

/-! ## Mirror frames (R415) -/

/-- A writable buffer in HBM4 or DDR5 that is not marked replicated (R412): its bytes belong to the context area. -/
def inContext (x : Buf) : Bool := decide (bufTier x.entry < 2) && !bufReadonly x.entry && !bufReplicated x.entry && bufKind x.entry == 0

/-- Bytes of the context area of the plan (Table 13-5): scratch and lagoon images, writable buffers not marked replicated. -/
def Plan.contextBytes (p : Plan) : Nat :=
  512 * scratchSize + 2 * lagoonSize + roundUp ((p.bufs.map fun x =>
    if inContext x then bufBytes x.entry else 0).sum) (2 ^ 30)

/-- Mirror frames of a records area. -/
def Plan.mirrorFrames (p : Plan) : Nat := (2 ^ 39 - 2 ^ 30 - p.contextBytes) / 8192

/-- The module mirrors its pages to a partner. -/
def Ctl.mirrors (c : Ctl) : Bool := match c.pair.role with | .bound => true | .resyncing _ => c.pair.snapshot | _ => false

/-- Mirror frames reserved on the partner for all sequences. -/
def Ctl.mirrorUsed (c : Ctl) : Nat := (c.fw.seqs.map fun e => e.2.mirror.length).sum

/-- A mirror frame can be reserved for a page, or is reserved already. -/
def Ctl.mirrorRoom (c : Ctl) (q layer page : Nat) : Bool :=
  !c.mirrors || (c.seqFw q).mirror.contains (layer * 2 ^ 32 + page) || decide (c.mirrorUsed < c.plan.mirrorFrames)

/-- Reserve the mirror frame of a page. -/
def reserveMirror (q layer page : Nat) : Act :=
  .upd fun c => if c.mirrors && !(c.seqFw q).mirror.contains (layer * 2 ^ 32 + page)
    then c.setSeqFw q fun s => { s with mirror := (layer * 2 ^ 32 + page) :: s.mirror } else c

/-- Release the mirror frame of a page. -/
def releaseMirror (q layer page : Nat) : Act :=
  .upd fun c => c.setSeqFw q fun s => { s with mirror := s.mirror.filter fun m => m != layer * 2 ^ 32 + page }

/-! ## Giving a page its frame -/

/-- First frame of the records area of this module's mirror region, and its frames (Table 13-5). -/
def Block.recordFrames (b : Block) : Nat × Nat := ((b.contextBase + b.ctl.plan.contextBytes) / 8192, b.ctl.plan.mirrorFrames)

/-- The lowest free frame of the records area. -/
def Block.pickMirror (b : Block) : Option Nat :=
  let (f, n) := b.recordFrames
  firstUnused (b.ctl.pair.frames.map Prod.fst) (b.ctl.pair.frames.length + 1) f (f + n)

/-- The frame that an allocation takes, with its tier: of the pools, and in the second rank context a mirror frame (R173, R422). -/
def Block.pickIn (b : Block) (second : Bool) (tier : Nat) : Option (Nat × Nat) :=
  if second then b.pickMirror.map fun f => (1, f) else b.ctl.pickFrame tier

/-- A page takes a frame as its own: reference, name and mirror reservation. -/
def takeFrame (second : Bool) (q layer page f : Nat) : Act :=
  Act.all [addRef f 1, ownFrame f q layer page,
    if second then .upd fun c => { c with pair := { c.pair with frames := c.pair.frames ++ [(f, pageKey q layer page)] } }
    else reserveMirror q layer page]

/-- Write the entry of a page that this module holds, in every rank context, and send it to the board peers (R160, R166). -/
def putEntry (q layer page e : Nat) : Act :=
  .look fun b =>
    let va := (b.seq q).pageAddr layer page
    Act.all [Act.each b.ctl.contexts fun s => setPage s q va e,
      Act.each ((List.range b.ctl.jobP).filter fun r => (b.ctl.servesRank r).isNone && b.ctl.onBoard r) fun r =>
        send (.slot (b.ctl.slotOfRank r)) (.pageEntry { seq := q, layer := layer, page := page, entry := BitVec.ofNat 64 e })]

/-- Give a page a frame of a tier: mirror frame, reference, entry and PAGE_POOL_LOW. -/
def givePage (second : Bool) (q layer page tier frame : Nat) : Act :=
  .look fun b =>
    Act.all [takeFrame second q layer page frame,
      putEntry q layer page (mkEntry (frame * 8192) b.slot tier false ((b.ctl.seqFw q).pinOf layer page)), poolLow tier]

/-- Pages of a layer that a rank holds next after a page (R165). -/
def Ctl.nextHeld (c : Ctl) (rank layer page cap : Nat) : Option Nat :=
  (List.range (2 * c.jobP * max c.plan.chunk 1 + c.jobP + 1)).findSome? fun i =>
    let n := page + 1 + i
    if decide (n < cap) && c.holder layer n == rank then some n else none

/-- Allocation ahead at a write into slot 0 of a page (R165): the next page of the layer that the rank holds, from a tier that has a
free frame and only with a mirror frame. -/
def allocAhead (second : Bool) (q layer page : Nat) : Act :=
  .look fun b => Act.opt (b.ctl.nextHeld (b.ctl.rankOf second) layer page (b.seq q).capPages) fun n =>
    Act.when (b.pageEntry second ((b.seq q).pageAddr layer n) == absentEntry && b.ctl.mirrorRoom q layer n) <|
      Act.opt (b.pickIn second ((b.ctl.seqFw q).tierOf layer n)) fun (t, f) => givePage second q layer n t f

end Sys2Proof.Machine
end

