-- ==== Sys2Proof/Machine/Records.lean ====
section
/-! DEFINITION. Fields of operation records (Tables 03-1 to 03-16, 04-3, 04-8, 06-6) and of Longshore programs and stream
descriptors (Tables 08-3 to 08-7). -/

namespace Sys2Proof.Machine

/-- OPCODE. -/
def rOp (r : Bytes) : Nat := u8 r 0
/-- FLAGS bit. -/
def rFlag (r : Bytes) (i : Nat) : Bool := bit (u8 r 1) i
/-- Format code of a format byte at an offset. -/
def rFmt (r : Bytes) (o : Nat) : Nat := u8 r o % 16
/-- Scaling mode of a format byte at an offset. -/
def rMode (r : Bytes) (o : Nat) : Nat := u8 r o / 16
/-- SHAPE_SRC. -/
def rSrc (r : Bytes) : Nat := u8 r 5
/-- A packed shape: M, N, K. -/
def shapeOf (w : Nat) : Nat × Nat × Nat := (bits w 19 0, bits w 39 20, bits w 59 40)
/-- PLAN_MAX. -/
def rMax (r : Bytes) : Nat × Nat × Nat := shapeOf (u64 r 8)
/-- SHAPE_OPND. -/
def rShape (r : Bytes) : Nat := u64 r 16
/-- WORK_CTR. -/
def rCtr (r : Bytes) : Nat := u64 r 24

/-- Opcodes of Table 03-4. -/
def opGemm : Nat := 0x01
def opGrouped : Nat := 0x02
def opPrefill : Nat := 0x10
def opDecode : Nat := 0x11
def opMerge : Nat := 0x12
def opRecompute : Nat := 0x13
def opKernel : Nat := 0x20
def opXfer : Nat := 0x30
def opTide : Nat := 0x31

/-- First cove, count and stride of the cove set (Table 03-6). -/
def rSet (r : Bytes) : Nat × Nat × Nat := (bits (u64 r 96) 9 0, bits (u64 r 96) 18 10 + 1, bits (u64 r 96) 22 19 + 1)
/-- The coves of the set (R65). -/
def rCoves (r : Bytes) : List Nat := let (f, n, s) := rSet r; (List.range n).map fun i => f + i * s
/-- Instances of the operation. -/
def rCount (r : Bytes) : Nat := (rSet r).2.1
/-- Which instance a cove runs. -/
def rInstance (r : Bytes) (cove : Nat) : Nat := let (f, _, s) := rSet r; (cove - f) / s

/-- A value reads as FP32 word in a record. -/
def rF32 (r : Bytes) (o : Nat) : BitVec 32 := BitVec.ofNat 32 (u32 r o)

/-! ## GEMM fields (Tables 03-12 to 03-14) -/

/-- ORDER, TAIL and APPEND of FLAGS (Table 03-2). -/
def gOrder (r : Bytes) : Bool := rFlag r 2
def gTail (r : Bytes) : Bool := rFlag r 1
def gAppend (r : Bytes) : Bool := rFlag r 0 && rOp r == opGemm
/-- Scratch tile rows and columns by code (Table 03-8). -/
def scratchTile (code : Nat) : Nat × Nat :=
  match code with | 0 => (256, 256) | 1 => (512, 128) | 2 => (128, 512) | 3 => (64, 1024) | _ => (1024, 64)
/-- Lagoon tile rows and columns by code (Table 03-8). -/
def lagoonTile (code : Nat) : Nat × Nat :=
  match code with | 0 => (2048, 2048) | 1 => (4096, 1024) | 2 => (1024, 4096) | 3 => (256, 8192) | _ => (8192, 256)
/-- Scratch code, Ks and lagoon code of the TILE byte. -/
def gScratch (r : Bytes) : Nat := bits (u8 r 170) 2 0
def gKs (r : Bytes) : Nat := if bit (u8 r 170) 3 then 512 else 256
def gLagoon (r : Bytes) : Nat := bits (u8 r 170) 6 4

/-! ## Attention fields (Tables 04-2, 04-3) -/

/-- FLAGS. -/
def aEarly (r : Bytes) : Bool := rFlag r 5 && rOp r == opDecode
def aLse (r : Bytes) : Bool := rFlag r 4
def aPBf16 (r : Bytes) : Bool := rFlag r 3
def aKsplit (r : Bytes) : Bool := rFlag r 2
def aStateOut (r : Bytes) : Bool := rFlag r 1
def aStateIn (r : Bytes) : Bool := rFlag r 0
/-- KIND. -/
def aKind (r : Bytes) : Nat := u8 r 168
/-- HEADS. -/
def aHeads (r : Bytes) : Nat := u16 r 170
/-- GROUP. -/
def aGroup (r : Bytes) : Nat := u8 r 172
/-- Expand mode: ATTN_PREFILL over a latent kind (Table 04-1). -/
def aExpand (r : Bytes) : Bool := rOp r == opPrefill && decide (aKind r < 2)
/-- Absorb mode. -/
def aAbsorb (r : Bytes) : Bool := rOp r == opDecode && decide (aKind r < 2)
/-- Latent elements of a record. -/
def aLatent (r : Bytes) : Nat := if aKind r = 0 then 384 else 192
/-- DQK (Table 04-1). -/
def aDqk (r : Bytes) : Nat := if aExpand r then 192 else if aAbsorb r then aLatent r + 64 else 128
/-- DV (Table 04-1). -/
def aDv (r : Bytes) : Nat := if aAbsorb r then aLatent r else 128
/-- RB (R108). -/
def aRb (r : Bytes) : Nat := 64 + 4 * aDv r
/-- MASK bits. -/
def aCausal (r : Bytes) : Bool := bit (u8 r 174) 0
def aWindow (r : Bytes) : Bool := bit (u8 r 174) 1
def aGlobal (r : Bytes) : Bool := bit (u8 r 174) 2
def aRagged (r : Bytes) : Bool := bit (u8 r 174) 3
/-- KEY_SRC. -/
def aKeySrc (r : Bytes) : Nat := u8 r 228
/-- Groups and rows per group (R109). -/
def aGroups (r : Bytes) : Nat := if aExpand r then aHeads r else if aAbsorb r then 1 else aHeads r / max (aGroup r) 1
def aRowsPer (r : Bytes) (m : Nat) : Nat := if aExpand r then m else if aAbsorb r then m * aHeads r else m * aGroup r

/-! ## TIDE_STEP fields (Tables 06-5, 06-6) -/

/-- NO_RX, NO_TX and GATHER. -/
def tNoRx (r : Bytes) : Bool := rFlag r 2
def tNoTx (r : Bytes) : Bool := rFlag r 1
def tGather (r : Bytes) : Bool := rFlag r 0
/-- MODE, DIR, STEP, SEQ, LAYER, ROOT. -/
def tMode (r : Bytes) : Nat := u8 r 104
def tDir (r : Bytes) : Nat := u8 r 105
def tStep (r : Bytes) : Nat := u16 r 106
def tSeq (r : Bytes) : Nat := u16 r 108
def tLayer (r : Bytes) : Nat := u16 r 110
def tRoot (r : Bytes) : Nat := u16 r 138

/-- Die of a logical cove (R55). -/
def dieOf (cove : Nat) : Nat := cove / 256

/-- FORM is fold. -/
def Plan.fold (p : Plan) : Bool := u8 p.tide 2 == 1

/-- The rank to which a ring or fold step sends (R189, R197). -/
def tideNext (p : Plan) (n rank dir : Nat) : Option Nat :=
  if p.fold then (if dir = 0 then (if rank + 1 < n then some (rank + 1) else none) else if rank = 0 then none else some (rank - 1))
  else some ((rank + 1) % n)

/-- The rank from which a ring or fold step receives. -/
def tidePrev (p : Plan) (n rank dir : Nat) : Option Nat :=
  if p.fold then (if dir = 0 then (if rank = 0 then none else some (rank - 1)) else if rank + 1 < n then some (rank + 1) else none)
  else some ((rank + n - 1) % n)

/-- Place of a rank in the tree of a root (R199). -/
def treePos (n rank root : Nat) : Nat := (rank + n - root % n) % n
/-- Children of a rank in the tree of a root, with their child number 1 or 2. -/
def treeChildren (n rank root : Nat) : List (Nat × Nat) :=
  let v := treePos n rank root
  [1, 2].filterMap fun k => if 2 * v + k < n then some (k, (2 * v + k + root) % n) else none
/-- Parent of a rank, and which child of it the rank is. -/
def treeParent (n rank root : Nat) : Option (Nat × Nat) :=
  let v := treePos n rank root
  if v = 0 then none else some (((v - 1) / 2 + root) % n, if v % 2 = 1 then 1 else 2)

/-! ## Longshore programs -/

/-- Instruction i of a program. -/
def Block.lsInstr (b : Block) (sp : Space) (prog i : Nat) : Bytes := b.readVa sp (prog + 16 * i) 16

/-- The instructions of a program up to and with its first END (R253). -/
def lsList (b : Block) (sp : Space) (prog : Nat) : Nat → Nat → List Bytes
  | 0, _ => []
  | fuel + 1, i =>
    let x := b.lsInstr sp prog i
    if u8 x 0 = 7 then [x] else x :: lsList b sp prog fuel (i + 1)

/-- A signed 32-bit field. -/
def s32 (r : Bytes) (o : Nat) : Int := signed 32 (u32 r o)

/-- Address of a descriptor named by an offset field at `o` of an instruction. -/
def lsDesc (prog : Nat) (x : Bytes) (o : Nat) : Nat := ((prog : Int) + 64 * s32 x o).toNat

/-- Start addresses of a descriptor's runs in stream order at loop iteration i (R257). -/
def streamStarts (d : Bytes) (i : Nat) : List Int :=
  let base : Int := (u64 d 0 : Int) + (i : Int) * s32 d 12 * 64
  let dim := fun k => if k < u8 d 9 then (bits (u64 d (16 + 8 * k)) 23 0, signed 40 (bits (u64 d (16 + 8 * k)) 63 24)) else (1, 0)
  (List.range (dim 4).1).flatMap fun i4 => (List.range (dim 3).1).flatMap fun i3 => (List.range (dim 2).1).flatMap fun i2 =>
    (List.range (dim 1).1).map fun i1 => base + Int.ofNat i1 * (dim 1).2 + Int.ofNat i2 * (dim 2).2 + Int.ofNat i3 * (dim 3).2 + Int.ofNat i4 * (dim 4).2

/-- RUN of a descriptor. -/
def streamRun (d : Bytes) : Nat := bits (u64 d 16) 23 0

/-- Bytes of a stream. -/
def streamLen (d : Bytes) : Nat :=
  streamRun d * (((List.range 4).map fun k => if k + 1 < u8 d 9 then bits (u64 d (24 + 8 * k)) 23 0 else 1).foldl (· * ·) 1)

end Sys2Proof.Machine
end

