-- ==== Sys2Proof/Machine/Operands.lean ====
section
/-! DEFINITION. Operand geometry: packed rows, scale rows, slabs and working sets (R24, R75, R83, R88, R107, R131), and the walk
orders of scratch tiles (R81, R82). -/

namespace Sys2Proof.Machine

/-- Element and scale size of an operand in 1/32 bytes (R75). -/
def elem32 (fmtByte : Nat) : Nat := fmtBits (fmtByte % 16) * 4 + (if fmtByte / 16 = 1 then 1 else 0)

/-- Slab rows a and b of Table 03-9. -/
def slabRows (code : Nat) : Nat × Nat :=
  match code with | 0 => (64, 256) | 1 => (64, 128) | 2 => (128, 128) | 3 => (64, 128) | _ => (64, 64)

/-- The static band of instance i of c over `rows` scratch-tile rows with a tail of d (R84). -/
def band (rows d i c : Nat) : Nat × Nat := ((rows - d) * i / c, (rows - d) * (i + 1) / c)

/-- Loops of an order code, outermost first: 0 for m, 1 for n, 2 for k (Table 03-11). -/
def orderLoops (code : Nat) : List Nat :=
  match code with | 0 => [0, 1, 2] | 1 => [1, 0, 2] | 2 => [0, 2, 1] | 3 => [1, 2, 0] | 4 => [2, 0, 1] | _ => [2, 1, 0]

/-- Loop x runs inside k. -/
def insideK (code x : Nat) : Bool := (orderLoops code).idxOf 2 < (orderLoops code).idxOf x

/-- Numbers lo to hi - 1. -/
def upto (lo hi : Nat) : List Nat := (List.range (hi - lo)).map (· + lo)

/-- Lagoon rows that a band of scratch rows touches, by scratch rows per lagoon row. -/
def lagoonRows (per lo hi : Nat) : List Nat := if lo < hi then upto (lo / per) ((hi - 1) / per + 1) else []

/-- Open scratch tiles under the order codes (R83); none where Table 03-9 applies, because k is innermost at both levels. -/
def openTiles (r : Bytes) (lo hi : Nat) : Option Nat :=
  let (ms, ns) := scratchTile (gScratch r)
  let (ml, nl) := lagoonTile (gLagoon r)
  let (_, n, _) := rMax r
  let cols := ceilDiv n ns
  let lag := bits (u8 r 171) 2 0
  let scr := bits (u8 r 171) 5 3
  let per := ml / ms
  let tm := ((lagoonRows per lo hi).map fun y => min hi ((y + 1) * per) - max lo (y * per)).foldl max 0
  let tn := min cols (nl / ns)
  let gm := (lagoonRows per lo hi).length
  let gn := ceilDiv cols (nl / ns)
  if lag ≤ 1 then (if scr ≤ 1 then none else some ((if insideK scr 0 then tm else 1) * (if insideK scr 1 then tn else 1)))
  else some (tm * tn * (if insideK lag 0 then gm else 1) * (if insideK lag 1 then gn else 1))

/-- An operand's buffer lies in this cove's own scratch (R75); a peer alias (kind 6) lies in another module. -/
def Plan.ownScratch (p : Plan) (va cove : Nat) : Bool :=
  match p.bufAt va with
  | some x => bufTier x.entry == 2 && bufKind x.entry != 6 && bufCove x.entry == cove
  | _ => false

/-- Scratch-tile rows of planned maxima; a GEMM_GROUPED, whose groups the loader does not know, counts as one group (log 58). -/
def gRowsMax (r : Bytes) : Nat := ceilDiv (rMax r).1 (scratchTile (gScratch r)).1

/-- Scratch working set of a GEMM or GEMM_GROUPED on a cove (R75, R83; log 58). -/
def Plan.gemmW (p : Plan) (r : Bytes) (cove : Nat) : Nat :=
  let (a, b) := slabRows (gScratch r)
  let ks := gKs r
  let inA := p.ownScratch (u64 r 104) cove
  let inB := p.ownScratch (u64 r 112) cove
  let eA := if inA then 0 else elem32 (u8 r 2)
  let eB := if inB then 0 else elem32 (u8 r 3)
  let rA := if rMode r 2 = 2 && !inA then 1 else 0
  let rB := if rMode r 3 = 2 && !inB then 1 else 0
  let (ms, ns) := scratchTile (gScratch r)
  let d := if gTail r then min (u16 r 172) (gRowsMax r) else 0
  let (lo, hi) := band (gRowsMax r) d (rInstance r cove) (rCount r)
  let walk := if decide (ks < (rMax r).2.2) && (gScratch r == 0 || gScratch r == 2) then 262144 else 0
  let s := if gOrder r then (match openTiles r lo hi with | none => walk | some n => n * ms * ns * 16) else walk
  ks * (a * eA + b * eB) / 8 + 16 * (a * rA + b * rB) + s + 32768

/-- Bytes from one row of an up-projection to the next: rows begin on 64 bytes (R24, R107) (log 56). -/
def wuStride (r : Bytes) : Nat := roundUp (rowBytes (u8 r 229 % 16) (aLatent r)) 64

/-- Up-projection bytes of one head (R107): key part, its scales, value part, its scales, each part on 64 bytes. -/
def wuParts (r : Bytes) : Nat × Nat :=
  let l := aLatent r
  let f := u8 r 229
  (128 * wuStride r, roundUp (if f / 16 = 1 then 128 * (l / 32) else if f / 16 = 2 then 512 else 0) 64)

/-- Bytes of one head's up-projections. -/
def wuBytes (r : Bytes) : Nat := 2 * ((wuParts r).1 + (wuParts r).2)

/-- Scratch working set of an attention operation (R131). -/
def attnW (r : Bytes) : Nat :=
  if rOp r = opMerge then 163840
  else if rOp r = opRecompute then
    (if u8 r 229 = 0 then 131072 + u8 r 175 * 66048 + 32768 else 198656 + u8 r 175 * 65536 + 32768)
  else
    let tiles := aGroups r * ceilDiv (aRowsPer r (rMax r).1) 64
    let n := if aKsplit r then tiles else u8 r 175
    let x := if aExpand r then 2 * 64 * 320 * fmtBits (rFmt r 3) / 8 + 2 * wuBytes r else 0
    131072 + n * (64 * aDqk r * fmtBits (rFmt r 2) / 8 + 64 * aRb r) + x + 32768

/-- The operation uses the scratch budget (R76). -/
def usesScratch (r : Bytes) : Bool := rOp r == opGemm || rOp r == opGrouped || (decide (opPrefill ≤ rOp r) && decide (rOp r ≤ opRecompute))

/-- Working set of any operation on a cove. -/
def Plan.workingSet (p : Plan) (r : Bytes) (cove : Nat) : Nat :=
  if rOp r = opGemm ∨ rOp r = opGrouped then p.gemmW r cove else if usesScratch r then attnW r else 0

/-- Scratch budget of a cove (R75). -/
def scratchBudget : Nat := 1568768

/-- Bytes of a cove's resident scratch buffers. -/
def Plan.residentScratch (p : Plan) (cove : Nat) : Nat :=
  ((p.bufs.filter fun x => bufTier x.entry == 2 && bufKind x.entry != 6 && bufCove x.entry == cove).map fun x => bufBytes x.entry).sum

/-! ## Walks (R81, R82) -/

/-- Hilbert index d to (column, row) on a grid of side 2^n. -/
def hilbertXY (n d : Nat) : Nat × Nat :=
  let (x, y, _) := (List.range n).foldl (fun ((x, y, t) : Nat × Nat × Nat) i =>
    let s := 2 ^ i
    let rx := t / 2 % 2
    let ry := (t + rx) % 2
    let (x, y) := if ry = 0 then (if rx = 1 then (s - 1 - y, s - 1 - x) else (y, x)) else (x, y)
    (x + s * rx, y + s * ry, t / 4)) (0, 0, d)
  (x, y)

/-- Scratch tiles (row, column) of a band in the order of R81, over a grid of gm × gn lagoon tiles of per × pern scratch tiles. -/
def hilbertWalk (gm gn per pern lo hi cols : Nat) : List (Nat × Nat) :=
  let n := bitLen (max gm gn - 1)
  (List.range (4 ^ n)).flatMap fun d =>
    let (x, y) := hilbertXY n d
    if decide (gn ≤ x) || decide (gm ≤ y) then []
    else (upto (max lo (y * per)) (min hi ((y + 1) * per))).flatMap fun r =>
      (upto (x * pern) (min cols ((x + 1) * pern))).map fun c => (r, c)

/-- Nest three loops in the order of a code: each visit is (m, n, k). -/
def nest (code : Nat) (ms ns ks : List Nat) : List (Nat × Nat × Nat) :=
  let pick := fun x => if x = 0 then ms else if x = 1 then ns else ks
  match orderLoops code with
  | [a, b, c] => (pick a).flatMap fun i => (pick b).flatMap fun j => (pick c).map fun k =>
      let at' := fun x => if a = x then i else if b = x then j else k
      (at' 0, at' 1, at' 2)
  | _ => []

/-- Scratch tiles and k-tiles (row, column, k-tile) of a band in the order of R82. -/
def orderWalk (lag scr per pern kl kper lo hi cols ktiles : Nat) : List (Nat × Nat × Nat) :=
  let gm := lagoonRows per lo hi
  let gn := List.range (ceilDiv cols pern)
  (nest lag gm gn (List.range kl)).flatMap fun (y, x, kk) =>
    (nest scr (upto (max lo (y * per)) (min hi ((y + 1) * per))) (upto (x * pern) (min cols ((x + 1) * pern)))
      (upto (kk * kper) (min ktiles ((kk + 1) * kper))))

/-- Neighbours of a walk in one scratch tile together: the tile and its k-tiles. -/
def tileRuns : List (Nat × Nat × Nat) → List (Nat × Nat × List Nat)
  | [] => []
  | (r, c, k) :: rest =>
    match tileRuns rest with
    | (r2, c2, ks) :: more => if r = r2 ∧ c = c2 then (r, c, k :: ks) :: more else (r, c, [k]) :: (r2, c2, ks) :: more
    | [] => [(r, c, [k])]

/-! ## Stage regions (R78) -/

/-- An operation's stage region on a die, if it has one. -/
def stageOf (r : Bytes) (die : Nat) : Option (Nat × Nat) :=
  if (rOp r = opGemm ∨ rOp r = opGrouped) ∧ u64 r (176 + 8 * die) ≠ 0 then some (u64 r (176 + 8 * die), u32 r 192 * 1024) else none

/-- The tier of the buffer that holds an address. -/
def Plan.tierAt (p : Plan) (va : Nat) : Nat := match p.bufAt va with | some x => bufTier x.entry | none => 0

/-- The kind of the buffer that holds an address. -/
def Plan.kindAt (p : Plan) (va : Nat) : Option Nat := (p.bufAt va).map fun x => bufKind x.entry

/-- An operand takes no slot space on a die (R78). -/
def Plan.inPlace (p : Plan) (r : Bytes) (va die : Nat) : Bool :=
  match p.tierAt va with
  | 3 => p.kindAt va != some 6
  | 2 => (match (rCoves r).filter fun c => dieOf c == die with | [c] => p.ownScratch va c | _ => false)
  | _ => false

/-- Rows of A and of B that a slot holds: 0 for an operand that takes no slot space (R78). -/
def Plan.slabSize (p : Plan) (r : Bytes) (die : Nat) : Nat × Nat :=
  let (m, n, _) := rMax r
  let (ml, nl) := lagoonTile (gLagoon r)
  (if p.inPlace r (u64 r 104) die then 0 else min ml (roundUp m 64), if p.inPlace r (u64 r 112) die then 0 else min nl (roundUp n 64))

/-- Bytes of a slot (R78). -/
def Plan.slotNeed (p : Plan) (r : Bytes) (die : Nat) : Nat :=
  let (a, b) := p.slabSize r die
  4 * gKs r * (a * elem32 (u8 r 2) + b * elem32 (u8 r 3)) / 32

/-- Bytes that the stage region of a die needs (R78). -/
def Plan.stageNeed (p : Plan) (r : Bytes) (die : Nat) : Nat := u8 r 174 * p.slotNeed r die

end Sys2Proof.Machine
end

