-- ==== Sys2Proof/Machine/Instance.lean ====
section
/-! DEFINITION. The life of an operation instance: taking it from the queue, its waits, its faults, its refusal, its end and its
poison (R48, R61, R64, R66, R69, R70, R76, R163, R177, R240, R288 to R291). -/

namespace Sys2Proof.Machine

/-! ## Poison and ends -/

/-- Record in the pass in progress what poisoned it on this rank (R360). -/
def flagPass (f : PassFlags → PassFlags) : Act :=
  .upd fun c => { c with job := { c.job with pass := c.job.pass.map fun p => { p with flags := f p.flags } } }

/-- POISON_RAISED (Table 09-3). -/
def poisonRaised (info cause thread cove source : Nat) : Act := raise 0x0701 source (poisonDetail info cause thread cove)

/-- The signals of an XFER that is skipped or poisoned: once to each distinct semaphore its program names (R290). -/
def xferPoison (cove : Nat) (second : Bool) (r : Bytes) : Act :=
  .look fun b =>
    let sigs := (lsList b (b.ctl.space cove second) (u64 r 112) 4096 0).filter fun x => u8 x 0 == 5
    let keys := (sigs.map fun x => (bits (u8 x 1) 2 1, u8 x 2, u16 x 4, u16 x 6)).eraseDups
    Act.each keys fun (target, slot, sem, rank) =>
      if target = 0 then signalLocal second sem 0 true
      else if target = 1 then signalSlot second slot sem 0 true
      else signalRank rank sem 0 true

/-- Bytes of a table of at most `most` entries at an address: an 8-byte count word and its entries of `size` bytes. -/
def Block.tableBytes (b : Block) (sp : Space) (va size most : Nat) : Bytes :=
  if va = 0 then [] else b.readVa sp va (8 + size * min most (b.natVa sp va 8 % 65536))

/-- Ranges of the global table: first page and pages. -/
def globalRanges (t : Bytes) : List (Nat × Nat) := (List.range (u16 t 0)).map fun i => (u32 t (8 + 8 * i), u32 t (12 + 8 * i))

/-- The global pages in the table's order. -/
def globalPages (t : Bytes) : List Nat := (globalRanges t).flatMap fun (f, n) => upto f (f + min n 4096)

/-- The global table that a TIDE_STEP names. -/
def Block.tableOf (b : Block) (sp : Space) (r : Bytes) : Bytes := b.tableBytes sp (u64 r 192) 8 65535

/-- Indices, in the table of a TIDE_STEP, of the global pages that this rank holds (R204). -/
def Block.globalsHere (b : Block) (sp : Space) (r : Bytes) : List Nat :=
  let pages := globalPages (b.tableOf sp r)
  (List.range pages.length).filter fun i => b.ctl.holder (tLayer r) (pages.getD i 0) == b.ctl.rankOf sp.second

/-- The notices of a TIDE_STEP that is skipped or poisoned: one in place of everything it would have sent and has not (R290).  A step that has
`begun` has sent its grant or its global pages; one that has `sent` has sent its piece, payload, partial or cache. -/
def tideNotices (cove : Nat) (second : Bool) (r : Bytes) (begun sent : Bool) : Act :=
  .look fun b =>
    let n := b.ctl.jobP
    let me := b.ctl.rankOf second
    let die := Fin.ofNat 2 (dieOf cove)
    match tMode r with
    | 0 => Act.all [
        Act.when (!tNoTx r && !sent) (Act.opt (tideNext b.ctl.plan n me (tDir r)) fun k => send (.rank k) (.poison (.piece k die (tStep r) (tDir r)))),
        Act.when (!tNoRx r && !begun) (Act.opt (tidePrev b.ctl.plan n me (tDir r)) fun k => send (.rank k) (.poison (.grant k die (tStep r) (tDir r))))]
    | 1 => Act.when (!sent) (Act.each (treeChildren n me (tRoot r)) fun (_, k) => send (.rank k) (.poison (.payload k (tSeq r) (tLayer r) (tRoot r))))
    | 2 => Act.when (!sent) (Act.opt (treeParent n me (tRoot r)) fun (k, i) => send (.rank k) (.poison (.partialOf k (tSeq r) (tLayer r) (tRoot r) i)))
    | 4 => Act.all [
        Act.when (me != tRoot r && !begun) (Act.each (b.globalsHere (b.ctl.space cove second) r) fun _ =>
          send (.rank (tRoot r)) (.poison (.global (tRoot r) (tSeq r) (tLayer r)))),
        Act.when (!sent) (Act.each (treeChildren n me (tRoot r)) fun (_, k) => send (.rank k) (.poison (.global k (tSeq r) (tLayer r))))]
    | _ => .done

/-- The signals with which an instance ends, poisoned or not (R61, R64, R290); a TIDE_STEP says what it has sent. -/
def endSignals (cove : Nat) (second : Bool) (r : Bytes) (poison begun sent : Bool) : Act :=
  Act.all [Act.each (recSignals r) (signalEntry second poison),
    Act.when (poison && rOp r == opXfer) (xferPoison cove second r),
    Act.when (poison && rOp r == opTide) (tideNotices cove second r begun sent)]

/-- The threads of a KERNEL in a context stop. -/
def stopThreads (cove n : Nat) : Act :=
  .upd fun c => c.setCove cove fun v =>
    [0, 1, 2, 3].foldl (fun v t => if (v.thread t).state != .idle && (v.thread t).ctx == n then v.setThread t { Thread.idle with mcsr := (v.thread t).mcsr } else v) v

/-- An instance ends: it signals every entry, and its context is free (R48). -/
def endInstance (cove n : Nat) (poison : Bool) : Act :=
  .look fun b => Act.opt ((b.ctl.cove cove).ctx n) fun x =>
    Act.all [endSignals cove x.second x.record poison x.begun x.txDone, stopThreads cove n, .upd fun c => c.setCove cove fun v => v.setCtx n none]

/-- SOURCE of a poison raised by an instance: its cove, or the tide mover of its die (R486). -/
def poisonSource (r : Bytes) (cove : Nat) : Nat := if rOp r = opTide then src 7 (dieOf cove) else src 1 cove

/-- COVE of a poison detail: 0x3FF for a tide mover (Table 09-3). -/
def poisonCove (r : Bytes) (cove : Nat) : Nat := if rOp r = opTide then 0x3FF else cove

/-- An instance ends poisoned for its own reason: POISON_RAISED once, then its poisoned signals (R291, R301). -/
def endPoisoned (cove n info cause thread : Nat) : Act :=
  .look fun b => Act.opt ((b.ctl.cove cove).ctx n) fun x =>
    Act.all [flagPass fun f => { f with poisoned := true },
      poisonRaised info cause thread (poisonCove x.record cove) (poisonSource x.record cove), endInstance cove n true]

/-- An access error of an instance (R240, Table 07-7). -/
def accessError (cove n va : Nat) : Act := endPoisoned cove n (bits va 44 13) 0xFE 0

/-- A refused operation (R70): SHAPE_EXCEEDED with its detail, then poisoned signals. -/
def refuse (cove n : Nat) (table k nn m : Bool) : Act :=
  .look fun b => Act.opt ((b.ctl.cove cove).ctx n) fun x =>
    Act.all [flagPass fun f => { f with poisoned := true, shape := true },
      raise 0x0700 (src 1 cove) (x.op % 2 ^ 32 * 2 ^ 32 + (if table then 2 ^ 27 else 0) + (if k then 2 ^ 26 else 0) +
        (if nn then 2 ^ 25 else 0) + (if m then 2 ^ 24 else 0) + rOp x.record * 2 ^ 16 + cove),
      endInstance cove n true]

/-- A zero shape (R69): normal signals, counted in EMPTY_OPS. -/
def emptyInstance (cove n : Nat) : Act := (countCove cove 0x0C 1).seq (endInstance cove n false)

/-! ## Faults of a stream (R163, R234, R240) -/

/-- A translation fault is raised to firmware; `halt` marks who halts. -/
def raiseFault (who : Faulter) (va : Nat) (write second : Bool) (halt : Nat → Act) : Act :=
  .look fun b =>
    let id := b.ctl.fw.nextId
    let flt : XFault := { id := id, who := who, vaddr := va, write := write, second := second, line := none }
    (Act.upd fun c => { c with fw := { c.fw with nextId := id + 1, faults := c.fw.faults ++ [flt] } }).seq (halt id)

/-- What an instance's stream does where it does not translate. -/
def badAccess (cove n : Nat) (second : Bool) (va : Nat) (write : Bool) : Xlate → Act
  | .accessError => accessError cove n va
  | .deviceFault => moduleFault va
  | _ => raiseFault (.context cove n) va write second fun id => updCtx cove n fun x => { x with fault := some id }

/-- The instance reads operand or key streams (R228): a matrix product or attention, but not a merge. -/
def Block.streams (b : Block) (cove n : Nat) : Bool :=
  match (b.ctl.cove cove).ctx n with
  | some x => decide (rOp x.record = opGemm ∨ rOp x.record = opGrouped ∨ rOp x.record = opPrefill ∨ rOp x.record = opDecode ∨ rOp x.record = opRecompute)
  | none => false

/-- Units of an instance's own work in order: each makes its accesses through the cove's micro-TLB, or halts the instance with
its position saved (R163); after the last unit comes `fin`. -/
def walkUnits {α : Type} (cove n : Nat) (second : Bool) (f : α → Block → List Access × Act) (fin : Act) : List α → Act
  | [] => fin
  | u :: us => .look fun b =>
    let (as, a) := f u b
    match b.firstBad (b.ctl.space cove second) as with
    | some (va, w, x) => badAccess cove n second va w x
    | none => Act.all [touchAs (b.streams cove n) cove second as, a, updCtx cove n fun x => { x with pos := x.pos + 1 }, walkUnits cove n second f fin us]

/-- One access list that must translate before `k` happens. -/
def withAccess (cove n : Nat) (second : Bool) (as : List Access) (k : Act) : Act :=
  .look fun b =>
    match b.firstBad (b.ctl.space cove second) as with
    | some (va, w, x) => badAccess cove n second va w x
    | none => (touch cove second as).seq k

/-! ## Taking an operation -/

/-- All used waits of a record are met. -/
def waitsMet (r : Bytes) (met : BitVec 4) : Bool := (List.range (min (u8 r 6) 4)).all fun i => met.getLsbD i

/-- The record waits at the queue head for its waits (R66). -/
def heldAtHead (r : Bytes) : Bool :=
  decide (rSrc r = 1 ∨ rSrc r = 2) || gAppend r || rOp r == opGrouped || rOp r == opPrefill || rOp r == opDecode || rOp r == opRecompute ||
  (rOp r == opTide && tMode r == 1)

/-- The waits that the take of a record needs: all of them, or all but the last with EARLY (R66, R132). -/
def takeReady (r : Bytes) (met : BitVec 4) : Bool :=
  let n := min (u8 r 6) 4
  !heldAtHead r || ((List.range (if aEarly r then n - 1 else n)).all fun i => met.getLsbD i)

/-- The shape word that a source reads (Table 03-3): address, or none for an immediate. -/
def shapeAddr (r : Bytes) (cove : Nat) : Option Nat :=
  if rSrc r = 1 then some (scratchBase + cove * scratchSize + systemArea + 8 * (rShape r % 16))
  else if rSrc r = 2 then some (rShape r) else none

/-- Where an operation's length entry lies: LEN_ADDR of an append GEMM, an attention record or a TIDE_STEP. -/
def lenAddr (r : Bytes) : Nat :=
  if rOp r = opGemm then (if gAppend r then u64 r 208 else 0)
  else if rOp r = opPrefill ∨ rOp r = opDecode ∨ rOp r = opRecompute then u64 r 120
  else if rOp r = opTide ∧ tMode r = 1 then u64 r 112 else 0

/-- Tables read at the take (R66): address and the bytes its count calls for; 0 for none. -/
def takeTables (r : Bytes) : Nat × Nat :=
  if rOp r = opGrouped then (u64 r 200, 0)
  else if rOp r = opPrefill ∨ rOp r = opDecode ∨ rOp r = opRecompute then
    ((if aGlobal r then u64 r 184 else 0), (if aRagged r then u64 r 200 else 0))
  else (0, 0)

/-- Entries of the first and of the second table that a take reads at most: GROUP_MAX groups (R89), every range of a global table, and 4,096
segments (R117).  A larger count refuses the operation, whatever its entries hold. -/
def tableMost (r : Bytes) : Nat × Nat := (if rOp r = opGrouped then u16 r 208 else 65535, 4096)

/-- The size of the entries of the first and the second table. -/
def tableEntry (r : Bytes) : Nat := if rOp r = opGrouped then 16 else 8

/-- A context in which an operation has just been taken. -/
def Block.takeCtx (b : Block) (cove : Nat) (second : Bool) (e : QEntry) : Ctx :=
  let sp := b.ctl.space cove second
  let r := e.record
  let (m, n, k) := shapeOf (match shapeAddr r cove with | none => rShape r | some a => b.natVa sp a 8)
  { op := e.op, record := r, met := e.met, metNo := b.ctl.engine.nextMet, second := second, taken := (b.ctl.cove cove).nextTake, m := m, n := n, k := k,
    len := if lenAddr r = 0 then 0 else b.natVa sp (lenAddr r) 8, len1 := none, early := [],
    table1 := b.tableBytes sp (takeTables r).1 (tableEntry r) (tableMost r).1, table2 := b.tableBytes sp (takeTables r).2 16 (tableMost r).2, pos := 0, accs := [], started := false, staging := .none, tailSeq := 0,
    tailEnd := false, begun := false, rxDone := false, txDone := false, poisoned := false, fault := none }

/-- The accesses of a take (R66). -/
def Block.takeAccesses (b : Block) (cove : Nat) (second : Bool) (r : Bytes) : List Access :=
  let sp := b.ctl.space cove second
  let one := fun (va len : Nat) => if va = 0 then [] else [({ va := va, len := len, write := false } : Access)]
  (match shapeAddr r cove with | none => [] | some a => one a 8) ++ one (lenAddr r) 8 ++
  (let (a, c) := takeTables r
   one a 8 ++ one c 8 ++ one a (8 + tableEntry r * min (tableMost r).1 (b.natVa sp a 8 % 65536)) ++ one c (8 + 16 * min (tableMost r).2 (b.natVa sp c 8 % 65536)))

/-- The queue of a cove in a rank context. -/
def Cove.q (c : Cove) (second : Bool) : List QEntry := if second then c.queue2 else c.queue
/-- The cove with that queue replaced. -/
def Cove.setQ (c : Cove) (second : Bool) (q : List QEntry) : Cove := if second then { c with queue2 := q } else { c with queue := q }

/-- Working sets of the array and attention operations in a cove's contexts. -/
def Ctl.heldScratch (c : Ctl) (cove : Nat) : Nat := (((c.cove cove).ctxs).map fun x => c.plan.workingSet x.2.record cove).sum

/-- After the boundary of a pre-emption no instance of the victim's pass is taken (R178): no sequence in the pass is PREEMPTED. -/
def Block.passRuns (b : Block) : Bool :=
  match b.ctl.job.pass with
  | none => true
  | some p => !b.ctl.plan.hasSeqs || p.notice.kind == 0 || (b.seq p.notice.seq).state != seqPreempted

/-- The next operation whose waits are all met gets a later number (R268). -/
def countMet : Act := .upd fun c => { c with engine := { c.engine with nextMet := c.engine.nextMet + 1 } }

/-- OPERATION_TAKE (R48, R66, R76): the head of a cove's queue goes into the lowest free context, reading its run-time words. -/
def operationTakeAct (cove : Nat) (second : Bool) : Act :=
  .look fun b =>
    let v := b.ctl.cove cove
    match (v.q second), [0, 1, 2, 3].find? (fun n => (v.ctx n).isNone) with
    | e :: rest, some n =>
      Act.when (takeReady e.record e.met && b.passRuns &&
          (!usesScratch e.record || decide (b.ctl.heldScratch cove + b.ctl.plan.workingSet e.record cove + b.ctl.plan.residentScratch cove ≤ scratchBudget))) <|
        Act.seq (.upd fun c => c.setCove cove fun v =>
            { ((v.setQ second rest).setCtx n (some (b.takeCtx cove second e))) with nextTake := v.nextTake + 1 }) <| Act.seq countMet <|
          match b.firstBad (b.ctl.space cove second) (b.takeAccesses cove second e.record) with
          | some (va, _, .deviceFault) => moduleFault va
          | some (va, _, _) => accessError cove n va
          | none => touch cove second (b.takeAccesses cove second e.record)
    | _, _ => .done

/-- The limits of a shape broken, as flags (k, n, m) (R70). -/
def overMax (x : Ctx) : Bool × Bool × Bool :=
  let (m, n, k) := rMax x.record
  (decide (k < x.k), decide (n < x.n), decide (m < x.m))

/-! ## Stage regions (R80) -/

/-- Operations of a die that have an instance in a queue or context: index, record, and whether that instance has started. -/
def Ctl.onDie (c : Ctl) (die : Nat) (second : Bool) : List (Nat × Bytes × Bool) :=
  (upto (die * 256) (die * 256 + 256)).flatMap fun k =>
    (((c.cove k).q second).map fun e => (e.op, e.record, false)) ++
    (((c.cove k).ctxs).filter fun x => x.2.second == second).map fun x => (x.2.op, x.2.record, x.2.started)

/-- A die holds an operation's region: an instance there has started or ended, and one has not ended (R80). -/
def Ctl.holdsStage (c : Ctl) (die : Nat) (second : Bool) (op : Nat) (r : Bytes) : Bool :=
  let here := (c.onDie die second).filter fun e => e.1 == op
  !here.isEmpty && (here.any (·.2.2) || decide (here.length < countIf (fun k => dieOf k == die) (rCoves r)))

/-- No other operation holds a region that overlaps this one's on the cove's die. -/
def Ctl.stageFree (c : Ctl) (cove : Nat) (x : Ctx) : Bool :=
  match stageOf x.record (dieOf cove) with
  | none => true
  | some (a, n) => (c.onDie (dieOf cove) x.second).all fun (op, r, _) =>
      op == x.op || !c.holdsStage (dieOf cove) x.second op r ||
      (match stageOf r (dieOf cove) with | none => true | some (a2, n2) => decide (a + n ≤ a2 ∨ a2 + n2 ≤ a))

/-! ## What holds an operation (R48, R293, R294; counter codes of Table 16-12) -/

/-- The core of a cove runs no kernel. -/
def Cove.coreFree (v : Cove) : Bool := [0, 1, 2, 3].all fun t => (v.thread t).state == .idle

/-- Key of a channel. -/
def chKey (e ch : Nat) : Nat := e * 32 + ch

/-- A channel. -/
def Ctl.chan (c : Ctl) (e ch : Nat) : Channel := Tab.get Channel.idle c.engine.ls.chans (chKey e ch)

/-- The cause under which a halt in firmware's hands counts: translation, or the data of a line being read again (R241). -/
def Ctl.faultCause (c : Ctl) (who : Faulter) : Nat := if c.fw.faults.any fun f => f.who == who && f.line.isSome then 1 else 4

/-- A mover of the rank context is halted on a translation fault before it signals a semaphore: those that wait for its ARRIVE count
that fault (R211). -/
def Ctl.arriveHalted (c : Ctl) (second : Bool) (sem : Nat) : Bool :=
  c.engine.coves.any fun e => e.2.ctxs.any fun y =>
    rOp y.2.record == opTide && y.2.second == second && y.2.fault.isSome && (recSignals y.2.record).any fun s => !bit s 19 && entrySem s == sem

/-- Causes for which an unmet wait list holds an operation. -/
def Ctl.waitCauses (c : Ctl) (second : Bool) (r : Bytes) (met : BitVec 4) : List Nat :=
  (List.range (min (u8 r 6) 4)).flatMap fun i =>
    if met.getLsbD i then [] else if c.arriveHalted second (entrySem (u64 r (32 + 8 * i))) then [4, 0] else [0]

/-- Causes that hold an operation in a context; none while it advances or may. -/
def Ctl.causes (c : Ctl) (cove n : Nat) (x : Ctx) : List Nat :=
  let v := c.cove cove
  let mine := ([0, 1, 2, 3].map v.thread).filter fun t => t.state != .idle && t.ctx == n
  (if x.fault.isSome then [c.faultCause (.context cove n)] else []) ++ c.waitCauses x.second x.record x.met ++
  (if waitsMet x.record x.met && x.fault.isNone then
    (if rOp x.record = opXfer then
      (let k := c.chan (u8 x.record 104) (u8 x.record 105)
       [if x.begun && k.state == .haltedFault then c.faultCause (.channel (u8 x.record 104) (u8 x.record 105)) else 1])
    else if rOp x.record = opTide then [if tMode x.record = 2 then 6 else 3]
    else if rOp x.record = opKernel then
      (if !x.begun then (if v.coreFree then [] else [7])
      else if mine.any fun t => t.state == .running then []
      else (if mine.any fun t => t.state == .faulted then
          [4, 1].filter fun k => [0, 1, 2, 3].any fun t => (v.thread t).state == .faulted && (v.thread t).ctx == n && c.faultCause (.thread cove t) == k
        else []) ++ (if mine.any fun t => t.state == .waiting then [0] else []))
    else (if x.staging != .none || (!x.begun && !c.stageFree cove x) then [2] else []))
  else [])

/-- The cause that counts of several: the first in the order translation, data, lagoon, link, merge, kernel, semaphore (R294). -/
def firstCause (ks : List Nat) : Option Nat := [4, 1, 2, 3, 6, 7, 0].find? ks.contains

/-- What holds an operation in a context, as the code of its counter; none while it advances or may. -/
def Ctl.blocker (c : Ctl) (cove n : Nat) (x : Ctx) : Option Nat := firstCause (c.causes cove n x)

/-- What an opcode runs on: the arrays, the core, or an engine outside the cove. -/
def runsOn (r : Bytes) : Nat := if rOp r = opKernel then 1 else if rOp r = opXfer ∨ rOp r = opTide then 2 else 0

/-- No older operation of the cove that may run needs the same arrays or core (R48). -/
def Ctl.oldest (c : Ctl) (cove : Nat) (x : Ctx) : Bool :=
  runsOn x.record == 2 || (c.cove cove).ctxs.all fun y =>
    runsOn y.2.record != runsOn x.record || decide (x.taken ≤ y.2.taken) || (c.blocker cove y.1 y.2).isSome ||
    (rOp y.2.record == opKernel && y.2.begun)

/-- An instance whose waits are all met, that has no fault, runs this opcode and is the oldest that may run (R48): refused when its shape is
above its maxima or `extra` says so (table, K, N), empty when a dimension is 0, else `k` (R69, R70). -/
def runInstance (cove n op : Nat) (extra : Block → Ctx → Bool × Bool × Bool) (zero : Ctx → Bool) (k : Ctx → Act) : Act :=
  .look fun b => Act.opt ((b.ctl.cove cove).ctx n) fun x =>
    Act.when (rOp x.record == op && waitsMet x.record x.met && x.fault.isNone && b.ctl.oldest cove x) <|
      let (ok, on, om) := overMax x
      let (table, kbad, nbad) := extra b x
      if !x.begun && (ok || on || om || table || kbad || nbad) then refuse cove n table (ok || kbad) (on || nbad) om
      else if !x.begun && (decide (x.m = 0) || decide (x.n = 0) || decide (x.k = 0) || zero x) then emptyInstance cove n
      else k x

/-! ## Waits (R64, R66, R282) -/

/-- THRESH and SEM of wait entry i of a record are met, poisoned or not yet. -/
def Block.waitOf (b : Block) (second : Bool) (r : Bytes) (i : Nat) : Option Bool :=
  b.waitOutcome second (entrySem (u64 r (32 + 8 * i))) (entryAmount (u64 r (32 + 8 * i)))

/-- Mark a wait met. -/
def setMet (met : BitVec 4) (i : Nat) : BitVec 4 := met ||| BitVec.ofNat 4 (2 ^ i)

/-- A wait of an instance in a context completes: met, or the instance is skipped (R289). -/
def contextWaitAct (cove n i : Nat) : Act :=
  .look fun b => Act.opt ((b.ctl.cove cove).ctx n) fun x =>
    Act.when (decide (i < u8 x.record 6) && !x.met.getLsbD i && !x.begun) <|
      match b.waitOf x.second x.record i with
      | none => .done
      | some true => (flagPass fun f => { f with poisoned := true }).seq (endInstance cove n true)
      | some false => (updCtx cove n fun y => { y with met := setMet y.met i, metNo := b.ctl.engine.nextMet }).seq countMet

/-- A wait of the operation at a queue head completes (R66): met, or the operation leaves the queue skipped. -/
def headWaitAct (cove : Nat) (second : Bool) (i : Nat) : Act :=
  .look fun b =>
    match (b.ctl.cove cove).q second with
    | e :: rest =>
      Act.when (decide (i < u8 e.record 6) && !e.met.getLsbD i && heldAtHead e.record) <|
        match b.waitOf second e.record i with
        | none => .done
        | some true => Act.all [flagPass fun f => { f with poisoned := true },
            .upd fun c => c.setCove cove fun v => v.setQ second rest, endSignals cove second e.record true false false]
        | some false => .upd fun c => c.setCove cove fun v => v.setQ second ({ e with met := setMet e.met i } :: rest)
    | [] => .done

/-! ## Work counters (R295 to R297) -/

/-- A take at a counter: poisoned (none), else the tile or all ones, with the writes it makes. -/
def Block.takeTile (b : Block) (a cap cove seq : Nat) : Option Nat × Act :=
  let next := b.mem.nat a 4
  let limit := b.mem.nat (a + 4) 4
  if cap < limit ∨ cap < next ∨ 2 ^ 22 ≤ seq then (none, .done)
  else
    let key := seq * 1024 + cove
    match (List.range next).find? (fun t => b.mem.nat (a + 64 + 4 * t) 4 == key) with
    | some t => (some t, .done)
    | none =>
      if limit ≤ next then (some (2 ^ 64 - 1), .done)
      else (some next, (Act.one (.mem (a + 64 + 4 * next) (leBytes key 4))).seq (Act.one (.mem a (leBytes (next + 1) 4))))

/-- CAPACITY of the counter at an address (R295). -/
def Plan.counterCap (p : Plan) (va : Nat) : Nat :=
  match p.bufs.find? (fun x => bufKind x.entry == 5 && bufVaddr x.entry == va) with | some x => bufCapacity x.entry | _ => 0

/-- The highest SEQ served to each cove, after one more take. -/
def servedList (ts : List TakeSeq) (counter cove seq : Nat) : List TakeSeq :=
  match ts.find? (fun t => t.counter == counter && t.cove == cove) with
  | some t => ts.map fun u => if u = t then { u with seq := max u.seq seq } else u
  | none => { counter := counter, cove := cove, seq := seq } :: ts

/-- The home slice keeps the highest SEQ it has served to a cove (R296). -/
def served (counter cove seq : Nat) : Act :=
  .upd fun c => { c with engine := { c.engine with taken := servedList c.engine.taken counter cove seq } }

end Sys2Proof.Machine
end

