-- ==== Sys2Proof/Machine/Gemm.lean ====
section
/-! DEFINITION. GEMM and GEMM_GROUPED (R21, R22, R71 to R74, R78 to R94, R33 to R37, R84, R85, R89, R90, R164): the walk of an instance
over scratch tiles and register tiles, the stage slots of its die, the arithmetic and the output, page-append rows, and the tail. -/

namespace Sys2Proof.Machine

/-! ## Output rows (R28 to R32) -/

/-- An output row or part of one: packed bytes, E8M0 scale bytes, elements that saturated and FP32 values that were NaN. -/
structure OutRow where
  bytes  : Bytes
  scales : Bytes
  sat    : Nat
  nans   : Nat
  deriving DecidableEq, Repr

/-- Convert FP32 values to an output format byte; `div` is the row's scale with per-row scaling. -/
def outRow (fmtByte : Nat) (div : Option Val) (vs : List Val) : OutRow :=
  let code := fmtByte % 16
  let vs := match div with | some d => vs.map fun v => Val.div32 v d | none => vs
  let nans := vs.countP Val.isNan
  if fmtByte / 16 = 1 then
    let bs := (blocks32 vs).map (mxBlock code)
    { bytes := packElems code (bs.flatMap fun b => b.2.1), scales := bs.map fun b => BitVec.ofNat 8 b.1, sat := (bs.map fun b => b.2.2).sum, nans := nans }
  else
    let rs := vs.map (convertTo code)
    { bytes := packElems code (rs.map Prod.fst), scales := [], sat := rs.countP (·.2), nans := nans }

/-- Count an output row's SAT_OUT and NAN_OUT (R32). -/
def countOut (cove : Nat) (o : OutRow) : Act := Act.all [Act.when (o.sat != 0) (countCove cove 0x0A o.sat), Act.when (o.nans != 0) (countCove cove 0x0B o.nans)]

/-! ## Operand rows -/

/-- Address and bytes of a scale row of an operand: mode 1 by its stride, mode 2 one FP32 value a row. -/
def scaleAt (mode base stride row cols : Nat) : Option (Nat × Nat) :=
  if mode = 1 then some (base + row * stride, ceilDiv cols 32) else if mode = 2 then some (base + 4 * row, 4) else none

/-- An operand row as the arrays take it: elements and E8M0 bytes. -/
def Block.kvec (b : Block) (sp : Space) (fmtByte va n : Nat) (scale : Option (Nat × Nat)) : KVec :=
  let mx := fmtByte / 16 == 1
  { elems := unpack (fmtByte % 16) mx (b.readVa sp va (rowBytes (fmtByte % 16) n)) n,
    scales := match scale with | some (a, l) => if mx then (b.readVa sp a l).map (·.toNat) else [] | none => [] }

/-- The per-row FP32 scale of a row with scaling mode 2. -/
def Block.rowScale (b : Block) (sp : Space) (fmtByte : Nat) (scale : Option (Nat × Nat)) : Option Val :=
  if fmtByte / 16 = 2 then scale.map fun (a, _) => ofF32 (BitVec.ofNat 32 (b.natVa sp a 4)) else none

/-- Read access. -/
def rd (va len : Nat) : Access := { va := va, len := len, write := false }
/-- Write access. -/
def wr (va len : Nat) : Access := { va := va, len := len, write := true }

/-- A part of an operand row with its scale row, as accesses. -/
def rowAccess (fmtByte va n : Nat) (scale : Option (Nat × Nat)) : List Access :=
  rd va (rowBytes (fmtByte % 16) n) :: (match scale with | some (a, l) => [rd a l] | none => [])

/-! ## Tiles -/

/-- A scratch tile of an instance: first row, rows, first column, columns, expert, and the first row and column of its lagoon tile with
their numbers. -/
structure Tile where
  row  : Nat
  rows : Nat
  col  : Nat
  cols : Nat
  expert : Nat
  lrow  : Nat
  lrows : Nat
  lcol  : Nat
  lcols : Nat
  deriving DecidableEq, Repr

/-- Groups of a product: first row, rows, expert.  A GEMM is one group (R89). -/
def groupsIn (x : Ctx) : List (Nat × Nat × Nat) :=
  if rOp x.record = opGrouped then
    (List.range (u16 x.table1 0)).map fun g => (u32 x.table1 (8 + 16 * g), u32 x.table1 (12 + 16 * g), u32 x.table1 (16 + 16 * g))
  else [(0, x.m, 0)]

/-- The group table breaks R89.  A group without rows may share its FIRST_ROW with the next (log 18). -/
def groupTableBad (x : Ctx) : Bool :=
  rOp x.record == opGrouped &&
  (let n := u16 x.table1 0
   let gs := groupsIn x
   decide (u16 x.record 208 < n) ||
   gs.any (fun (f, r, e) => decide (x.m < f + r) || decide (u16 x.record 210 ≤ e)) ||
   (List.zip gs gs.tail).any (fun ((f, r, _), (f2, _, _)) => decide (f2 < f + r)))

/-- Groups with the first of their scratch-tile rows and their number. -/
def groupRows (ms : Nat) : Nat → List (Nat × Nat × Nat) → List (Nat × Nat × (Nat × Nat × Nat))
  | _, [] => []
  | o, g :: gs => (o, ceilDiv g.2.1 ms, g) :: groupRows ms (o + ceilDiv g.2.1 ms) gs

/-- Scratch-tile rows of the run-time shape (R84). -/
def tileRows (x : Ctx) : Nat := ((groupsIn x).map fun g => ceilDiv g.2.1 (scratchTile (gScratch x.record)).1).sum
/-- Scratch-tile columns. -/
def tileCols (x : Ctx) : Nat := ceilDiv x.n (scratchTile (gScratch x.record)).2
/-- Tail rows d (R84). -/
def tailRows (x : Ctx) : Nat := if gTail x.record then min (u16 x.record 172) (tileRows x) else 0

/-- The tile at scratch row and column of a group. -/
def tileAt (x : Ctx) (g : Nat × Nat × Nat) (r c : Nat) : Tile :=
  let (ms, ns) := scratchTile (gScratch x.record)
  let (ml, nl) := lagoonTile (gLagoon x.record)
  let lr := r * ms / ml * ml
  let lc := c * ns / nl * nl
  { row := g.1 + r * ms, rows := min ms (g.2.1 - r * ms), col := c * ns, cols := min ns (x.n - c * ns), expert := g.2.2,
    lrow := g.1 + lr, lrows := min ml (g.2.1 - lr), lcol := lc, lcols := min nl (x.n - lc) }

/-! ## The register walk (R21, R74) -/

/-- A visit of one 64 × 64 output register tile for one scratch k-tile: its scratch tile, its first row and column in the output with
their numbers, and the k-tile. -/
structure Visit where
  tile : Tile
  row  : Nat
  rows : Nat
  col  : Nat
  cols : Nat
  kt   : Nat
  deriving DecidableEq, Repr

/-- The visit of register tile (i, j) of a scratch tile in a k-tile. -/
def Tile.visit (t : Tile) (i j kt : Nat) : Visit :=
  { tile := t, row := t.row + 64 * i, rows := min 64 (t.rows - 64 * i), col := t.col + 64 * j, cols := min 64 (t.cols - 64 * j), kt := kt }

/-- The register walk of a scratch tile through some of its k-tiles (Table 03-9): a band's register tiles through one k-tile before the
next; bands of column pairs with codes 2 and 3, of register rows otherwise. -/
def regWalk (code : Nat) (t : Tile) (kts : List Nat) : List Visit :=
  let is := List.range (ceilDiv t.rows 64)
  let js := List.range (ceilDiv t.cols 64)
  if code = 2 ∨ code = 3 then
    (List.range (ceilDiv t.cols 128)).flatMap fun p => kts.flatMap fun k => is.flatMap fun i => (js.filter fun j => j / 2 == p).map fun j => t.visit i j k
  else is.flatMap fun i => kts.flatMap fun k => js.map fun j => t.visit i j k

/-- Scratch k-tiles of an instance. -/
def kTiles (x : Ctx) : Nat := ceilDiv x.k (gKs x.record)

/-- First k and number of ks of a visit. -/
def kRange (x : Ctx) (v : Visit) : Nat × Nat := (v.kt * gKs x.record, min (gKs x.record) (x.k - v.kt * gKs x.record))

/-- The visit that ends its register tile's k range. -/
def Visit.last (x : Ctx) (v : Visit) : Bool := v.kt + 1 == kTiles x

/-- The visits of a tile over its full K. -/
def tileVisits (x : Ctx) (t : Tile) : List Visit := regWalk (gScratch x.record) t (List.range (kTiles x))

/-- The visits of an instance's band in order (R81, R82, R89). -/
def bandVisits (x : Ctx) (cove : Nat) : List Visit :=
  let r := x.record
  let (ms, ns) := scratchTile (gScratch r)
  let (ml, nl) := lagoonTile (gLagoon r)
  let (lo, hi) := band (tileRows x) (tailRows x) (rInstance r cove) (rCount r)
  (groupRows ms 0 (groupsIn x)).flatMap fun (o, n, g) =>
    let l := max lo o - o
    let h := min hi (o + n) - o
    if gOrder r then
      (tileRuns (orderWalk (bits (u8 r 171) 2 0) (bits (u8 r 171) 5 3) (ml / ms) (nl / ns) (ceilDiv x.k (4 * gKs r)) 4 l h (tileCols x) (kTiles x))).flatMap
        fun (i, j, ks) => regWalk (gScratch r) (tileAt x g i j) ks
    else (hilbertWalk (ceilDiv g.2.1 ml) (ceilDiv x.n nl) (ml / ms) (nl / ns) l h (tileCols x)).flatMap fun (i, j) => tileVisits x (tileAt x g i j)

/-- Tile t of the tail, row-major (R84). -/
def tailTile (x : Ctx) (t : Nat) : Option Tile :=
  let i := tileRows x - tailRows x + t / max (tileCols x) 1
  ((groupRows (scratchTile (gScratch x.record)).1 0 (groupsIn x)).find? fun (o, n, _) => decide (o ≤ i ∧ i < o + n)).map fun (o, _, g) =>
    tileAt x g (i - o) (t % max (tileCols x) 1)

/-! ## Operands of a visit -/

/-- Where row `row` of the output begins: a plain row, or a record's part under APPEND (R90). -/
def Block.outAddr (b : Block) (x : Ctx) (row : Nat) : Nat :=
  let r := x.record
  if gAppend r then (b.seq (u16 r 200)).recAddr (u16 r 202) (x.len + row) + u16 r 204 else u64 r 120 + row * u32 r 136

/-- A's row and its scales. -/
def aRow (r : Bytes) (k row : Nat) : Nat × Option (Nat × Nat) :=
  (u64 r 104 + row * u32 r 128, scaleAt (rMode r 2) (u64 r 140) (u16 r 164) row k)
/-- B's row (output column) and its scales, of an expert. -/
def bRow (r : Bytes) (k expert col : Nat) : Nat × Option (Nat × Nat) :=
  let (gs, ss) := if rOp r = opGrouped then (u64 r 216, u64 r 224) else (0, 0)
  (u64 r 112 + expert * gs + col * u32 r 132, scaleAt (rMode r 3) (u64 r 148 + expert * ss) (u16 r 166) col k)

/-- The part of an operand row from element k0 on, with the E8M0 bytes of its blocks. -/
def partAt (fmtByte k0 n : Nat) (row : Nat × Option (Nat × Nat)) : Nat × Option (Nat × Nat) :=
  (row.1 + k0 * fmtBits (fmtByte % 16) / 8,
   match row.2 with | some (a, _) => if fmtByte / 16 = 1 then some (a + k0 / 32, ceilDiv n 32) else none | none => none)

/-- Row i of a slab of `rows` rows of `kl` elements that begins at `base`, from element k0 on: packed rows, then with MX32 the rows' E8M0
bytes (log 59). -/
def slabRow (fmtByte rows kl base i k0 n : Nat) : Nat × Option (Nat × Nat) :=
  let len := kl * fmtBits (fmtByte % 16) / 8
  partAt fmtByte k0 n (base + i * len, if fmtByte / 16 = 1 then some (base + rows * len + i * (kl / 32), kl / 32) else none)

/-- An instance on a cove reads an operand from its die's slots (R78): not one that takes no slot space, nor one in the cove's own scratch. -/
def Plan.viaSlot (p : Plan) (r : Bytes) (cove va : Nat) : Bool :=
  (stageOf r (dieOf cove)).isSome && !p.inPlace r va (dieOf cove) && !p.ownScratch va cove

/-- First address of a slot of an operation on a die. -/
def Plan.slotAt (p : Plan) (r : Bytes) (die slot : Nat) : Nat := (match stageOf r die with | some (a, _) => a | none => 0) + slot * p.slotNeed r die

/-- First address of B's slab in a slot. -/
def Plan.slotB (p : Plan) (r : Bytes) (die slot : Nat) : Nat :=
  p.slotAt r die slot + (p.slabSize r die).1 * (4 * gKs r) * elem32 (u8 r 2) / 32

/-- Where a visit reads a row of A, of B: in its own memory, or in the slot that holds its slab. -/
def Plan.aPart (p : Plan) (x : Ctx) (cove slot : Nat) (v : Visit) (i : Nat) : Nat × Option (Nat × Nat) :=
  let r := x.record
  let (k0, n) := kRange x v
  if p.viaSlot r cove (u64 r 104) then
    slabRow (u8 r 2) (p.slabSize r (dieOf cove)).1 (4 * gKs r) (p.slotAt r (dieOf cove) slot) (v.row + i - v.tile.lrow) (k0 % (4 * gKs r)) n
  else partAt (u8 r 2) k0 n (aRow r x.k (v.row + i))

/-- Where a visit reads a row of B (an output column). -/
def Plan.bPart (p : Plan) (x : Ctx) (cove slot : Nat) (v : Visit) (j : Nat) : Nat × Option (Nat × Nat) :=
  let r := x.record
  let (k0, n) := kRange x v
  if p.viaSlot r cove (u64 r 112) then
    slabRow (u8 r 3) (p.slabSize r (dieOf cove)).2 (4 * gKs r) (p.slotB r (dieOf cove) slot) (v.col + j - v.tile.lcol) (k0 % (4 * gKs r)) n
  else partAt (u8 r 3) k0 n (bRow r x.k v.tile.expert (v.col + j))

/-- Byte offset of an output column in its row. -/
def colByte (r : Bytes) (col : Nat) : Nat := col * fmtBits (rFmt r 4) / 8

/-- The pieces of an appended row that wait for others. -/
def Ctl.rowParts (c : Ctl) (x : Ctx) (row : Nat) : List RowPart := c.engine.rows.filter fun p => p.second == x.second && p.op == x.op && p.row == row

/-- The visit's piece is the last one of an appended row (R164). -/
def Ctl.rowReady (c : Ctl) (x : Ctx) (v : Visit) (row : Nat) : Bool :=
  (((c.rowParts x row).filter fun p => p.col != v.col).map (·.cols)).sum + v.cols == x.n

/-- Where a visit that ends its k range writes row i: its columns, or the whole of an appended row with its last piece. -/
def Block.outAccess (b : Block) (x : Ctx) (v : Visit) (row : Nat) : List Access :=
  let r := x.record
  if gAppend r then (if b.ctl.rowReady x v row then [wr (b.outAddr x row) (rowBytes (rFmt r 4) x.n)] else [])
  else [wr (b.outAddr x row + colByte r v.col) (rowBytes (rFmt r 4) v.cols)]

/-- The accesses of a visit: operand parts, and at the end of the k range per-row scales and output rows. -/
def Block.visitAccesses (b : Block) (cove slot : Nat) (x : Ctx) (v : Visit) : List Access :=
  let r := x.record
  let n := (kRange x v).2
  let scale := fun (s : Option (Nat × Nat)) => match s with | some (a, l) => [rd a l] | none => []
  ((List.range v.rows).flatMap fun i => let (a, s) := b.ctl.plan.aPart x cove slot v i; rowAccess (u8 r 2) a n s) ++
  ((List.range v.cols).flatMap fun j => let (a, s) := b.ctl.plan.bPart x cove slot v j; rowAccess (u8 r 3) a n s) ++
  (if v.last x then
    (if rMode r 2 = 2 then (List.range v.rows).flatMap fun i => scale (aRow r x.k (v.row + i)).2 else []) ++
    (if rMode r 3 = 2 then (List.range v.cols).flatMap fun j => scale (bRow r x.k v.tile.expert (v.col + j)).2 else []) ++
    ((List.range v.rows).flatMap fun i => b.outAccess x v (v.row + i) ++
      (match scaleAt (rMode r 4) (u64 r 156) (u16 r 168) (v.row + i) v.cols with
       | some (a, l) => if rMode r 4 = 1 then [wr (a + v.col / 32) l] else [rd a l]
       | none => []))
  else [])

/-! ## The arithmetic of a visit (R22, R33 to R37) -/

/-- The accumulator of an output element: where its chain of additions stands (R22). -/
def Ctx.acc (x : Ctx) (row col : Nat) : Acc := Tab.get Acc.start x.accs (row * 2 ^ 32 + col)

/-- The accumulators of row i of a visit's register tile after its k-tile. -/
def Block.visitAccs (b : Block) (cove slot : Nat) (x : Ctx) (v : Visit) (i : Nat) : List Acc :=
  let r := x.record
  let sp := b.ctl.space cove x.second
  let n := (kRange x v).2
  let (aa, as) := b.ctl.plan.aPart x cove slot v i
  let av := b.kvec sp (u8 r 2) aa n as
  (List.range v.cols).map fun j =>
    let (ba, bs) := b.ctl.plan.bPart x cove slot v j
    dotMore (rFmt r 2) (rFmt r 3) (x.acc (v.row + i) (v.col + j)) av (b.kvec sp (u8 r 3) ba n bs)

/-- Row i of a register tile whose k range ends, as FP32 values (steps 4 and 5 of R33). -/
def Block.visitRow (b : Block) (cove slot : Nat) (x : Ctx) (v : Visit) (i : Nat) : List Val :=
  let r := x.record
  let sp := b.ctl.space cove x.second
  let sa := b.rowScale sp (u8 r 2) (aRow r x.k (v.row + i)).2
  ((b.visitAccs cove slot x v i).zipIdx).map fun (acc, j) => dotOut acc sa (b.rowScale sp (u8 r 3) (bRow r x.k v.tile.expert (v.col + j)).2)

/-- The accumulators of a visit's register tile are kept for its next k-tile, or dropped with the last one. -/
def keepAccs (cove n slot : Nat) (v : Visit) : Act :=
  .look fun b => updCtx cove n fun x =>
    let rows := (List.range v.rows).map fun i => (i, if v.last x then [] else b.visitAccs cove slot x v i)
    { x with accs := rows.foldl (fun t (i, as) =>
        (List.range v.cols).foldl (fun t j => Tab.set Acc.start t ((v.row + i) * 2 ^ 32 + v.col + j) (as.getD j Acc.start)) t) x.accs }

/-! ## Output -/

/-- A record just appended to a page that this rank holds: handed to the mirror path, and the allocation ahead of a write into slot 0
(R93, R164, R165); the holder does both for a record that a board peer stores (log 26). -/
def appended (second : Bool) (q layer p : Nat) : Act :=
  .look fun b =>
    let bytes := b.readVa { fwSpace with second := second } ((b.seq q).recAddr layer p) 512
    Act.when (b.ctl.holder layer (p / 16) == b.ctl.rankOf second) <|
      Act.all [mirrorRecord second q layer (p / 16) (p % 16) bytes,
        Act.when (decide (p % 16 = 0)) (allocAhead second q layer (p / 16))]

/-- The bytes of an appended row, from its pieces in column order. -/
def rowBytesOf (ps : List RowPart) (n : Nat) : Bytes :=
  (List.range (ceilDiv n 64)).flatMap fun j => match ps.find? (fun p => p.col == 64 * j) with | some p => p.bytes | none => []

/-- A piece of an appended row is done: with the last one the row's part of its record is written, once, and handed to the mirror path, once
(R90, R93, R164; log 60). -/
def putPiece (sp : Space) (x : Ctx) (v : Visit) (row : Nat) (bytes : Bytes) : Act :=
  .look fun b =>
    let rest := b.ctl.engine.rows.filter fun p => !(p.second == x.second && p.op == x.op && p.row == row)
    let piece : RowPart := { second := x.second, op := x.op, row := row, col := v.col, cols := v.cols, bytes := bytes }
    let mine := piece :: (b.ctl.rowParts x row).filter fun p => p.col != v.col
    let keep := fun (ps : List RowPart) => Act.upd fun c => { c with engine := { c.engine with rows := ps } }
    if b.ctl.rowReady x v row then
      Act.all [writeVa sp (b.outAddr x row) (rowBytesOf mine x.n), appended x.second (u16 x.record 200) (u16 x.record 202) (x.len + row), keep rest]
    else keep (mine ++ rest)

/-- Row i of a register tile whose k range ends is converted and written. -/
def outRowAct (cove slot : Nat) (x : Ctx) (v : Visit) (i : Nat) : Act :=
  .look fun b =>
    let r := x.record
    let sp := b.ctl.space cove x.second
    let row := v.row + i
    let div := if rMode r 4 = 2 then some (ofF32 (BitVec.ofNat 32 (b.natVa sp (u64 r 156 + 4 * row) 4))) else none
    let o := outRow (u8 r 4) div (b.visitRow cove slot x v i)
    Act.all [if gAppend r then putPiece sp x v row o.bytes else writeVa sp (b.outAddr x row + colByte r v.col) o.bytes,
      Act.when (rMode r 4 == 1) (writeVa sp (u64 r 156 + row * u16 r 168 + v.col / 32) o.scales), countOut cove o]

/-- A visit: its register tile takes the k-tile's products, and is written when its k range ends. -/
def visitAct (cove n slot : Nat) (v : Visit) : Act :=
  .look fun b => Act.opt ((b.ctl.cove cove).ctx n) fun x =>
    (Act.when (v.last x) (Act.each (List.range v.rows) (outRowAct cove slot x v))).seq (keepAccs cove n slot v)

/-! ## Stage slots (R79) -/

/-- An instance starts to run: where no other has held its die's region, no slot of it holds anything. -/
def startStage (cove n : Nat) (x : Ctx) : Act :=
  Act.when (!x.started) <|
    (Act.upd fun c =>
      let others := c.engine.stages.filter fun s => !(s.die == dieOf cove && s.second == x.second && s.op == x.op)
      if c.holdsStage (dieOf cove) x.second x.op x.record then c else { c with engine := { c.engine with stages := others } }).seq
      (updCtx cove n fun y => { y with started := true })

/-- Slots in use of an operation on a die, most recently used first. -/
def Ctl.slotsOf (c : Ctl) (die : Nat) (x : Ctx) : List StageSlot := c.engine.stages.filter fun s => s.die == die && s.second == x.second && s.op == x.op

/-- A slot is pinned: an instance of the operation on the die waits for its fill (R79). -/
def Ctl.pinned (c : Ctl) (die : Nat) (x : Ctx) (slot : Nat) : Bool :=
  (upto (die * 256) (die * 256 + 256)).any fun k => ((c.cove k).ctxs).any fun y => y.2.second == x.second && y.2.op == x.op && y.2.staging == .filling slot

/-- The slabs that a visit needs, in a slot of a number. -/
def slabsOf (die slot : Nat) (x : Ctx) (v : Visit) : StageSlot :=
  { die := die, second := x.second, op := x.op, slot := slot, row := v.tile.lrow, col := v.tile.lcol, expert := v.tile.expert, kt := v.kt / 4, filled := false }

/-- What a visit finds at its die's slots. -/
inductive Demand where
  /-- It reads no slot. -/
  | own
  /-- Its slabs are in this slot. -/
  | held (slot : Nat)
  /-- It fills this slot, which it has pinned. -/
  | fill (slot : Nat)
  /-- It pins this slot, where its slabs are being filled. -/
  | join (slot : Nat)
  /-- It takes and pins this slot, unused or least recently used. -/
  | claim (slot : Nat)
  /-- Every slot is pinned. -/
  | full
  deriving DecidableEq, Repr

/-- The demand of a visit (R79). -/
def Ctl.demand (c : Ctl) (cove : Nat) (x : Ctx) (v : Visit) : Demand :=
  let r := x.record
  let die := dieOf cove
  let used := c.slotsOf die x
  if !c.plan.viaSlot r cove (u64 r 104) && !c.plan.viaSlot r cove (u64 r 112) then .own
  else
    match used.find? (fun s => { s with filled := false } == slabsOf die s.slot x v) with
    | some s => if s.filled then .held s.slot else if x.staging = .filling s.slot then .fill s.slot else .join s.slot
    | none =>
      match (List.range (u8 r 174)).find? (fun i => used.all fun s => s.slot != i) with
      | some i => .claim i
      | none => match used.reverse.find? (fun s => !c.pinned die x s.slot) with | some s => .claim s.slot | none => .full

/-- A slot of an operation becomes the most recently used one, with these slabs. -/
def useSlot (s : StageSlot) : Act :=
  .upd fun c =>
    let others := c.engine.stages.filter fun u => !(u.die == s.die && u.second == s.second && u.op == s.op && u.slot == s.slot)
    { c with engine := { c.engine with stages := s :: others } }

/-- The slab rows of a fill: where each lies in its own memory and in the slot. -/
def Plan.fillRows (p : Plan) (x : Ctx) (die slot : Nat) (v : Visit) : List (Nat × (Nat × Option (Nat × Nat)) × (Nat × Option (Nat × Nat))) :=
  let r := x.record
  let kl := 4 * gKs r
  let k0 := v.kt / 4 * kl
  let n := min kl (x.k - k0)
  let (na, nb) := p.slabSize r die
  (if p.inPlace r (u64 r 104) die then [] else (List.range v.tile.lrows).map fun i =>
    (u8 r 2, partAt (u8 r 2) k0 n (aRow r x.k (v.tile.lrow + i)), slabRow (u8 r 2) na kl (p.slotAt r die slot) i 0 n)) ++
  (if p.inPlace r (u64 r 112) die then [] else (List.range v.tile.lcols).map fun j =>
    (u8 r 3, partAt (u8 r 3) k0 n (bRow r x.k v.tile.expert (v.tile.lcol + j)), slabRow (u8 r 3) nb kl (p.slotB r die slot) j 0 n))

/-- The bay engines' own view of an instance's operands: its addresses, not its cove's micro-TLB. -/
def Ctl.streamSpace (c : Ctl) (cove : Nat) (second : Bool) : Space := { c.space cove second with tlb := [], uppers := [] }

/-- The reads of a fill. -/
def Ctl.fillReads (c : Ctl) (cove slot : Nat) (x : Ctx) (v : Visit) : List Access :=
  let n := min (4 * gKs x.record) (x.k - v.kt / 4 * (4 * gKs x.record))
  (c.plan.fillRows x (dieOf cove) slot v).flatMap fun (f, (a, s), _) => rowAccess f a n s

/-- The bay engines copy the slabs into the slot. -/
def fillSlot (cove slot : Nat) (x : Ctx) (v : Visit) : Act :=
  .look fun b =>
    let sp := b.ctl.streamSpace cove x.second
    let n := min (4 * gKs x.record) (x.k - v.kt / 4 * (4 * gKs x.record))
    Act.all [Act.each (b.ctl.plan.fillRows x (dieOf cove) slot v) fun (f, (a, s), (a2, s2)) =>
        (writeVa sp a2 (b.readVa sp a (rowBytes (f % 16) n))).seq
          (match s, s2 with | some (e, l), some (e2, _) => writeVa sp e2 (b.readVa sp e l) | _, _ => .done),
      Act.when (b.remote sp (b.ctl.fillReads cove slot x v)) takeFresh,
      useSlot { slabsOf (dieOf cove) slot x v with filled := true }]

/-- How an instance stands to its die's slots. -/
def setStaging (cove n : Nat) (g : Staging) : Act := updCtx cove n fun x => { x with staging := g }

/-- The visit at whose slabs the instance is, after its slot is there: its accesses through the cove's micro-TLB, or a halt with the
position saved (R163); then what follows. -/
def visitUnit (cove n slot : Nat) (v : Visit) (rest : Act) : Act :=
  .look fun b => Act.opt ((b.ctl.cove cove).ctx n) fun x =>
    let as := b.visitAccesses cove slot x v
    match b.firstBad (b.ctl.space cove x.second) as with
    | some (va, w, e) => badAccess cove n x.second va w e
    | none => Act.all [touchAs true cove x.second as, visitAct cove n slot v, updCtx cove n fun y => { y with pos := y.pos + 1 }, rest]

/-- Visits in order: each takes its slabs from a slot, or stops the instance until it has one. -/
def walkVisits (cove n : Nat) (fin : Act) : List Visit → Act
  | [] => fin
  | v :: vs => .look fun b => Act.opt ((b.ctl.cove cove).ctx n) fun x =>
    let unit := fun (slot : Nat) => visitUnit cove n slot v (walkVisits cove n fin vs)
    match b.ctl.demand cove x v with
    | .own => unit 0
    | .held slot => Act.all [useSlot { slabsOf (dieOf cove) slot x v with filled := true }, setStaging cove n .none, unit slot]
    | .fill slot =>
      (match b.firstBad (b.ctl.streamSpace cove x.second) (b.ctl.fillReads cove slot x v) with
       | some (va, w, e) => badAccess cove n x.second va w e
       | none => Act.all [fillSlot cove slot x v, setStaging cove n .none, unit slot])
    | .join slot => setStaging cove n (.filling slot)
    | .claim slot => (useSlot (slabsOf (dieOf cove) slot x v)).seq (setStaging cove n (.filling slot))
    | .full => setStaging cove n .waiting

/-! ## Instances -/

/-- What refuses a page-append besides its shape (R91, R153, R164), and a group table (R89). -/
def gemmExtra (b : Block) (x : Ctx) : Bool × Bool × Bool :=
  let cap := 16 * (b.seq (u16 x.record 200)).capPages
  (if gAppend x.record then decide (cap < x.len) || decide (0 < x.m ∧ 2 ^ 30 ≤ x.len + x.m - 1) || decide (cap < x.len + x.m) else groupTableBad x, false, false)

/-- An instance of GEMM or GEMM_GROUPED runs its band; then it ends, or goes on with its tail (R85). -/
def productAct (cove n op : Nat) : Act :=
  runInstance cove n op gemmExtra (fun x => rOp x.record == opGrouped && u16 x.table1 0 == 0) fun x =>
    .look fun b => Act.when (!x.begun && b.ctl.stageFree cove x) <|
      (startStage cove n x).seq <| walkVisits cove n
        (if gTail x.record then updCtx cove n fun y => { y with begun := true, pos := 0 } else endInstance cove n false)
        ((bandVisits x cove).drop x.pos)

/-- GEMM. -/
def gemmAct (cove n : Nat) : Act := productAct cove n opGemm
/-- GEMM_GROUPED. -/
def gemmGroupedAct (cove n : Nat) : Act := productAct cove n opGrouped

/-- WORK_COUNTER_TAKE (R85, R86, R296, R297): an instance in its tail takes a tile and computes it, or ends. -/
def workCounterTakeAct (cove n : Nat) : Act :=
  .look fun b => Act.opt ((b.ctl.cove cove).ctx n) fun x =>
    Act.when (gTail x.record && (rOp x.record == opGemm || rOp x.record == opGrouped) && x.begun && x.fault.isNone && b.ctl.oldest cove x) <|
      let ctr := rCtr x.record
      let a := if x.second then b.contextAddr ctr else ctr
      match b.takeTile a (b.ctl.plan.counterCap ctr) cove x.tailSeq with
      | (none, _) => endPoisoned cove n (bits ctr 37 6) 0xFB 0
      | (some t, w) =>
        Act.all [w, served ctr cove x.tailSeq,
          if tailRows x * tileCols x ≤ t then endInstance cove n false
          else Act.opt (tailTile x t) fun tile =>
            walkVisits cove n (updCtx cove n fun y => { y with tailSeq := y.tailSeq + 1, pos := 0 }) ((tileVisits x tile).drop x.pos)]

/-- GEMM. -/
def execGemm (cove : Fin 512) (ctx : Fin 4) (s : State) : Host.Outcome State Fault Refusal := s.perform (gemmAct cove.val ctx.val)
/-- GEMM_GROUPED. -/
def execGemmGrouped (cove : Fin 512) (ctx : Fin 4) (s : State) : Host.Outcome State Fault Refusal := s.perform (gemmGroupedAct cove.val ctx.val)
/-- WORK_COUNTER_TAKE. -/
def execWorkCounterTake (cove : Fin 512) (ctx : Fin 4) (s : State) : Host.Outcome State Fault Refusal :=
  s.perform (workCounterTakeAct cove.val ctx.val)
/-- OPERATION_TAKE. -/
def execOperationTake (cove : Fin 512) (second : Bool) (s : State) : Host.Outcome State Fault Refusal :=
  s.perform (operationTakeAct cove.val second)

end Sys2Proof.Machine
end

