-- ==== Sys2Proof/Machine/Attention.lean ====
section
/-! DEFINITION. ATTN_PREFILL, ATTN_DECODE with EARLY, ATTN_MERGE and ATTN_RECOMPUTE (chapter 4): query rows and positions, the key
set and its order, masks, rotation, the one-pass softmax, finalising, merging and the backward passes. -/

namespace Sys2Proof.Machine

/-! ## Query rows (R109, R111) -/

/-- Token and head of a row within a group. -/
def tokenHead (r : Bytes) (g row : Nat) : Nat × Nat :=
  if aExpand r then (row, g)
  else if aAbsorb r then (row / aHeads r, row % aHeads r)
  else (row / max (aGroup r) 1, g * aGroup r + row % max (aGroup r) 1)

/-- Position of a token (R111). -/
def tokenPos (r : Bytes) (t : Nat) : Nat := if t < u32 r 220 then u32 r 216 + t else u32 r 224 + (t - u32 r 220)

/-- A query tile: its group, its rows within the group, and the global index of its first row. -/
structure QTile where
  group : Nat
  first : Nat
  rows  : Nat
  index : Nat
  deriving DecidableEq, Repr

/-- The query tiles of an operation, group by group (R109). -/
def queryTiles (r : Bytes) (m : Nat) : List QTile :=
  let n := aRowsPer r m
  (List.range (aGroups r)).flatMap fun g => (List.range (ceilDiv n 64)).map fun i =>
    { group := g, first := 64 * i, rows := min 64 (n - 64 * i), index := g * n + 64 * i }

/-! ## Tables and masks (R115 to R117) -/

/-- The global table breaks R116.  A range without pages may share its FIRST_PAGE with the next (log 18). -/
def globalBad (t : Bytes) : Bool :=
  let rs := globalRanges t
  (List.zip rs rs.tail).any (fun (a, b) => decide (b.1 < a.1 + a.2)) || decide (256 < (rs.map Prod.snd).sum)

/-- Segments of a lengths table: first token, tokens, key length. -/
def segments (t : Bytes) : List (Nat × Nat × Nat) :=
  (List.range (u16 t 0)).map fun i => (u32 t (8 + 16 * i), u32 t (12 + 16 * i), u32 t (16 + 16 * i))

/-- The lengths table breaks R117, for M tokens and key length L where there is one. -/
def lengthsBad (t : Bytes) (m : Nat) (l : Option Nat) : Bool :=
  let ss := segments t
  decide (u16 t 0 = 0 ∨ 4096 < u16 t 0) || ss.any (fun (f, n, k) => decide (m < f + n) || (match l with | some l => decide (l < k) | none => false)) ||
  (List.zip ss ss.tail).any fun (a, b) => decide (b.1 < a.1 + a.2.1)

/-- The key length of an instance: none where KEY_SRC 2 has no bound (R114); L1 with EARLY (R132). -/
def keyLen (x : Ctx) : Option Nat := if u64 x.record 120 = 0 then none else some (x.len1.getD x.len)

/-- The key length that bounds a token: its segment's with RAGGED; `none` outside for padding rows (R115, R117). -/
def tokenBound (x : Ctx) (t : Nat) : Option (Option Nat) :=
  if aRagged x.record then
    ((segments x.table2).find? fun (f, n, _) => decide (f ≤ t ∧ t < f + n)).map fun s => some s.2.2
  else some (keyLen x)

/-- Key position k is visible to a query at position p (R115). -/
def visible (x : Ctx) (bound : Option Nat) (p k : Nat) : Bool :=
  let r := x.record
  (match bound with | some l => decide (k < l) | none => true) && (!aCausal r || decide (k ≤ p)) &&
  (!aWindow r || decide (p / 16 - k / 16 < u32 r 180) || (aGlobal r && (globalPages x.table1).contains (k / 16)))

/-! ## The key set (R112, R113, R205) -/

/-- Where a page of the key set is read. -/
inductive KeyPage where
  /-- Through translation. -/
  | paged (page : Nat)
  /-- Entry `i` of the global page cache. -/
  | cached (page i : Nat)
  /-- Page `i` of the tide slot. -/
  | slotted (page i : Nat)
  deriving DecidableEq, Repr

/-- Page number. -/
def KeyPage.page : KeyPage → Nat
  | .paged p | .cached p _ | .slotted p _ => p

/-- Address of slot s of a page. -/
def KeyPage.addr (b : Block) (r : Bytes) (s : Nat) : KeyPage → Nat
  | .paged p => (b.seq (u16 r 116)).recAddr (u16 r 118) (16 * p + s)
  | .cached _ i => u64 r 192 + i * 8192 + s * 512
  | .slotted _ i => u64 r 208 + 8192 * (i + 1) + s * 512

/-- Pages that a tide slot header lists to its reader (R193) (log 19). -/
def slotPages (h : Bytes) : List Nat :=
  if u8 h 8 = 0 then []
  else (if 1 ≤ u8 h 9 then upto (u32 h 16) (u32 h 16 + u32 h 20) else []) ++ (if 2 ≤ u8 h 9 then upto (u32 h 24) (u32 h 24 + u32 h 28) else [])

/-- The pages of an instance's key set in their order (R112, R113) (log 19). -/
def Block.keyPages (b : Block) (sp : Space) (x : Ctx) : List KeyPage :=
  let r := x.record
  let l := keyLen x
  let below := fun (p : Nat) => match l with | some l => decide (16 * p < l) | none => true
  let own := fun (p : Nat) => aKeySrc r != 1 || b.ctl.holder (u16 r 118) p == b.ctl.rankOf x.second
  let globals := if aGlobal r then (globalPages x.table1).filter below else []
  let cache := u64 r 192 != 0
  let member := fun (p : Nat) => if cache && globals.contains p then KeyPage.cached p ((globalPages x.table1).idxOf p) else .paged p
  if aKeySrc r = 2 then
    let slot := slotPages (b.readVa sp (u64 r 208) 32)
    (slot.zipIdx.map fun (p, i) => KeyPage.slotted p i) ++
    ((globals.filter fun p => !slot.contains p).map fun p => if cache then KeyPage.cached p ((globalPages x.table1).idxOf p) else .paged p)
  else ((List.range (ceilDiv (l.getD 0) 16)).filter own).map member

/-- Key blocks of four consecutive pages. -/
def keyBlocks (ps : List KeyPage) : List (List KeyPage) := groupsOf 4 (ps.length / 4 + 1) ps

/-- One key of a block: its position and where its record lies. -/
structure Key where
  pos  : Nat
  addr : Nat
  /-- Below the key length: it may enter a score (R114). -/
  live : Bool
  /-- The record as an EARLY decode streamed it before its last wait (R132); none where it is read at its address. -/
  held : Option Bytes
  deriving DecidableEq, Repr

/-- A key block is streamed again once L1 is known: it holds L0, or a position from L0 up to L1 (R132). -/
def staleBlock (x : Ctx) (ps : List KeyPage) : Bool :=
  match x.len1 with
  | some l1 => ps.any fun p => decide (x.len < 16 * p.page + 16 ∧ 16 * p.page < max l1 (x.len + 1))
  | none => false

/-- The bytes of a page that an EARLY decode has streamed and does not read again (R132). -/
def earlyPage (b : Block) (x : Ctx) (ps : List KeyPage) (p : KeyPage) : Option Bytes :=
  if staleBlock x ps then none else (x.early.find? fun e => e.1 == p.addr b x.record 0).map Prod.snd

/-- The keys of a block in order. -/
def Block.blockKeys (b : Block) (x : Ctx) (ps : List KeyPage) : List Key :=
  ps.flatMap fun p => (List.range 16).map fun s =>
    { pos := 16 * p.page + s, addr := p.addr b x.record s, live := (match keyLen x with | some l => decide (16 * p.page + s < l) | none => true),
      held := (earlyPage b x ps p).map fun bs => slice bs (512 * s) 512 }

/-! ## Rotation (R40 to R42, R111, R114) -/

/-- Rotate pairs of a list of values at a position by the table's frequencies; `inv` for the inverse rotation (R138). -/
def rotate (freqs : List Nat) (halves inv : Bool) (dim p : Nat) (vs : List Val) : List Val :=
  let n := dim / 2
  let partner := fun (i : Nat) => if halves then (if i < n then (i, i + n, true) else (i - n, i, false)) else (if i % 2 = 0 then (i, i + 1, true) else (i - 1, i, false))
  vs.zipIdx.map fun (v, i) =>
    if dim ≤ i then v
    else
      let (a, c, first) := partner i
      let j := if halves then a else i / 2
      let ph := rotaryPhase p (freqs.getD j 0)
      let co := ofF32 (trigLane false ph)
      let si := ofF32 (trigLane true ph)
      let si := if inv then si.neg else si
      let xv := vs.getD a .zero
      let yv := vs.getD c .zero
      if first then (Val.addX false (Val.mul xv co) (Val.mul yv si).neg).f32 else (Val.addX false (Val.mul xv si) (Val.mul yv co)).f32

/-- Round a value into an operand format (R42). -/
def roundFmt (code : Nat) (v : Val) : Val := elemVal code false (convertTo code v).1

/-- The format into which rotated parts are rounded (R42). -/
def rotFmt (r : Bytes) : Nat := match aKind r with | 0 => 3 | 2 => rFmt r 3 | _ => 1

/-- ROT_DIM and PAIRING. -/
def rotDim (r : Bytes) : Nat := bits (u8 r 173) 6 0
def rotHalves (r : Bytes) : Bool := bit (u8 r 173) 7

/-- The frequency table of the executing cove (R41). -/
def Block.freqs (b : Block) (sp : Space) (r : Bytes) : List Nat :=
  let t := b.readVa sp (u64 r 160) 256
  (List.range 32).map fun i => u64 t (8 * i)

/-- Rotate and round the rotary part of a row. -/
def rotRow (r : Bytes) (freqs : List Nat) (p : Nat) (vs : List Val) : List Val :=
  let d := rotDim r
  ((rotate freqs (rotHalves r) false d p vs).zipIdx).map fun (v, i) => if i < d then roundFmt (rotFmt r) v else v

/-- A query row as it is scored (R111). -/
def Block.queryRow (b : Block) (sp : Space) (r : Bytes) (freqs : List Nat) (row p : Nat) : KVec :=
  let n := aDqk r
  let vs := unpack (rFmt r 2) false (b.readVa sp (u64 r 104 + row * u32 r 112) (rowBytes (rFmt r 2) n)) n
  if aKind r < 2 then { elems := vs.take (n - 64) ++ rotRow r freqs p (vs.drop (n - 64)), scales := [] }
  else { elems := rotRow r freqs p vs, scales := [] }

/-! ## Keys and values -/

/-- The latent of a record with its scale (R143, R128). -/
def latentVec (r rec' : Bytes) : KVec :=
  if aKind r = 0 then { elems := unpack 3 false (rec'.take 384) 384, scales := List.replicate 12 (u8 r 169) }
  else { elems := unpack 1 false (rec'.take 384) 192, scales := [] }

/-- The format code of the latent. -/
def latentFmt (r : Bytes) : Nat := if aKind r = 0 then 3 else 1

/-- The rotated rotary part of a latent record. -/
def latentRot (r : Bytes) (freqs : List Nat) (p : Nat) (rec' : Bytes) : List Val := rotRow r freqs p (unpack 1 false (rec'.drop 384) 64)

/-- Row i of the key (0) or value (1) up-projection of a head, with its scales (R107) (log 56). -/
def Block.wuRow (b : Block) (sp : Space) (r : Bytes) (head part i : Nat) : KVec × Option Val :=
  let l := aLatent r
  let f := u8 r 229
  let (pb, sb) := wuParts r
  let base := u64 r 232 + head * u32 r 240 + part * (pb + sb)
  let sc := if f / 16 = 1 then some (base + pb + i * (l / 32), l / 32) else if f / 16 = 2 then some (base + pb + 4 * i, 4) else none
  (b.kvec sp f (base + i * wuStride r) l sc, b.rowScale sp f sc)

/-- A latent expanded for a head: 128 keys or values rounded to FMT_B (R127). -/
def Block.expand (b : Block) (sp : Space) (r : Bytes) (head part : Nat) (lat : KVec) : List Val :=
  (List.range 128).map fun i =>
    let (w, s) := b.wuRow sp r head part i
    roundFmt (rFmt r 3) (dotOut (dotAcc (latentFmt r) (u8 r 229 % 16) lat w) none s)

/-- Key and value of a record for a query group: the score operand, the value row, and the value row's E8M0 scale. -/
def Block.keyValue (b : Block) (sp : Space) (r : Bytes) (freqs : List Nat) (g : Nat) (k : Key) : KVec × List Val × Nat :=
  let rec' := k.held.getD (b.readVa sp k.addr 512)
  match aKind r with
  | 0 | 1 =>
    let lat := latentVec r rec'
    let rot := latentRot r freqs k.pos rec'
    if aExpand r then ({ elems := b.expand sp r g 0 lat ++ rot, scales := [] }, b.expand sp r g 1 lat, 127)
    else ({ elems := lat.elems ++ rot, scales := if aKind r = 0 then lat.scales ++ [127, 127] else [] }, lat.elems, if aKind r = 0 then u8 r 169 else 127)
  | 2 =>
    let f := rFmt r 3
    ({ elems := rotRow r freqs k.pos (unpack f false (slice rec' (256 * g) 128) 128), scales := [] }, unpack f false (slice rec' (256 * g + 128) 128) 128, 127)
  | _ => ({ elems := rotRow r freqs k.pos (unpack 1 false (rec'.take 256) 128), scales := [] }, unpack 1 false (rec'.drop 256) 128, 127)

/-- Format codes of the score operands and of the values. -/
def keyFmt (r : Bytes) : Nat := if aAbsorb r then latentFmt r else rFmt r 3

/-! ## The softmax (R119 to R126) -/

/-- State of one row (Table 04-5). -/
structure RowState where
  m   : Val
  l   : Val
  acc : List Val
  nan : Bool
  deriving DecidableEq, Repr

/-- An empty row state (R108). -/
def RowState.empty (dv : Nat) : RowState := { m := .inf true, l := .zero, acc := List.replicate dv .zero, nan := false }

/-- A row-state record (Table 04-4). -/
def RowState.bytes (s : RowState) : Bytes :=
  let w := fun (v : Val) => leBytes (if s.nan then 0x7FC00000 else v.word32.toNat) 4
  w s.m ++ w s.l ++ zeroBytes 56 ++ s.acc.flatMap w

/-- The row state that a record holds (R125). -/
def rowStateOf (bs : Bytes) (dv : Nat) : RowState :=
  let v := fun o => ofF32 (BitVec.ofNat 32 (u32 bs o))
  { m := v 0, l := v 4, acc := (List.range dv).map fun c => v (64 + 4 * c), nan := (v 0).isNan }

/-- A fused multiply-add rounded once to FP32. -/
def fma32 (a b c : Val) : Val := (Val.addX ((Val.mul a b).isNegZero && c.isNegZero) (Val.mul a b) c).f32

/-- One key of a block as a row meets it: whether it is visible, its score operand, its value row and value scale. -/
structure KeyIn where
  vis   : Bool
  live  : Bool
  key   : KVec
  value : List Val
  scale : Nat
  deriving DecidableEq, Repr

/-- One row against one key block that has visible elements for its tile (R119). -/
def softmaxBlock (r : Bytes) (q : KVec) (ks : List KeyIn) (s : RowState) : RowState :=
  let smScale := ofF32 (rF32 r 176)
  let ts := ks.map fun k => if !k.live || !k.vis then Val.inf true else
    Val.mul32 (dotOut (dotAcc (rFmt r 2) (keyFmt r) q k.key) none none) smScale
  let nan := ts.any fun t => t.isNan || t == .inf false
  let bm := ts.foldl (fun a t => if t.isNan then a else if Val.lt a t then t else a) (.inf true)
  let mNew := if Val.lt s.m bm then bm else s.m
  if nan then { s with nan := true }
  else if mNew == .inf true then s
  else
    let alpha := Val.exp2 (Val.sub32 s.m mNew)
    let pf := if aPBf16 r then 1 else 3
    let ph := ts.map fun t => roundFmt pf (Val.exp2 (Val.sub32 t mNew))
    let scales := fun (n : Nat) => if narrowFmt (keyFmt r) then List.replicate (ceilDiv ks.length 32) n else []
    let sum := fun (vs : List Val) (sc : List Nat) => dotOut (dotAcc pf (keyFmt r) { elems := ph, scales := [] } { elems := vs, scales := sc }) none none
    let bl := sum (ks.map fun _ => Val.one) (scales 127)
    let lat := (ks.head?.map fun k => k.scale).getD 127
    { s with m := mNew, l := fma32 s.l alpha bl,
             acc := s.acc.zipIdx.map fun (a, c) => fma32 a alpha (sum (ks.map fun k => if k.live then k.value.getD c .zero else .zero) (scales lat)) }

/-- Statistic of a row (R124). -/
def rowStat (s : RowState) : Val :=
  if s.nan then .nan else if s.m == .inf true then .inf true else Val.add32 s.m (ofF32 (log2Lane s.l.word32))

/-- FP32 output of a finalised row (R124). -/
def rowOut (s : RowState) : List Val :=
  s.acc.map fun a => if s.nan then .nan else if s.m == .inf true then .zero else Val.div32 a s.l

/-- Write a finalised row: its elements, its scale bytes behind them, its statistic and its counters (R124). -/
def finalRow (cove : Nat) (second : Bool) (fmt addr : Nat) (lse : Option Nat) (s : RowState) : Act :=
  .look fun b =>
    let sp := b.ctl.space cove second
    let after := addr + rowBytes (fmt % 16) s.acc.length
    let div := if fmt / 16 = 2 then some (ofF32 (BitVec.ofNat 32 (b.natVa sp after 4))) else none
    let o := outRow fmt div (rowOut s)
    Act.all [writeVa sp addr o.bytes, Act.when (fmt / 16 == 1) (writeVa sp after o.scales),
      Act.opt lse fun a => writeVa sp a (leBytes (rowStat s).word32.toNat 4), countOut cove o,
      Act.when (!s.nan && s.m == .inf true) (countCove cove 0x0D 1)]

/-- Bytes of an output row with its scale bytes (R124). -/
def finalBytes (fmt dv : Nat) : Nat := rowBytes (fmt % 16) dv + (if fmt / 16 = 1 then ceilDiv dv 32 else if fmt / 16 = 2 then 4 else 0)

/-! ## Prefill and decode -/

/-- Key blocks that an instance runs: all of them, or its share under KSPLIT (R130). -/
def instanceBlocks (r : Bytes) (cove : Nat) (bs : List (List KeyPage)) : List (List KeyPage) :=
  if aKsplit r then
    let (lo, hi) := band bs.length 0 (rInstance r cove) (rCount r)
    (bs.take hi).drop lo
  else bs

/-- Query tiles that an instance runs: its band, or all of them under KSPLIT (R129, R130). -/
def instanceTiles (r : Bytes) (m cove : Nat) : List QTile :=
  let ts := queryTiles r m
  if aKsplit r then ts
  else
    let (lo, hi) := band ts.length 0 (rInstance r cove) (rCount r)
    (ts.take hi).drop lo

/-- Where row `row` of the result goes (R108, R123). -/
def rowAddr (r : Bytes) (cove row : Nat) : Nat :=
  if aStateOut r then u64 r 248 + row * aRb r
  else if aKsplit r then u64 r 128 + (u16 r 230 + rInstance r cove) * u32 r 140 + row * aRb r
  else u64 r 128 + row * u32 r 136

/-- Bytes of one result row. -/
def rowLen (r : Bytes) : Nat := if aStateOut r || aKsplit r then aRb r else finalBytes (u8 r 4) (aDv r)

/-- Accesses that read the pages of key blocks. -/
def Block.pageAccesses (b : Block) (r : Bytes) (ps : List KeyPage) : List Access := ps.map fun p => rd (p.addr b r 0) 8192

/-- Accesses that stream an instance's key blocks: a page held since EARLY streaming is not read again (R132). -/
def Block.streamAccesses (b : Block) (x : Ctx) (blocks : List (List KeyPage)) : List Access :=
  blocks.flatMap fun ps => b.pageAccesses x.record (ps.filter fun p => (earlyPage b x ps p).isNone)

/-- The rows of a tile that take part: row within tile, token, position and bound; padding rows are left out (R117). -/
def tileRowsOf (x : Ctx) (t : QTile) : List (Nat × Nat × Option Nat) :=
  (List.range t.rows).filterMap fun i =>
    let tok := (tokenHead x.record t.group (t.first + i)).1
    (tokenBound x tok).map fun bound => (i, tokenPos x.record tok, bound)

/-- Accesses of one query tile. -/
def Block.attnAccesses (b : Block) (cove : Nat) (x : Ctx) (t : QTile) : List Access :=
  let r := x.record
  let sp := b.ctl.space cove x.second
  let rows := tileRowsOf x t
  (rows.flatMap fun (i, _, _) => rd (u64 r 104 + (t.index + i) * u32 r 112) (rowBytes (rFmt r 2) (aDqk r)) ::
    (if aStateIn r then [rd (u64 r 152 + (t.index + i) * aRb r) (aRb r)] else [])) ++
  [rd (u64 r 160) 256] ++ (if aKeySrc r = 2 then [rd (u64 r 208) 8192] else []) ++
  b.streamAccesses x (instanceBlocks r cove (keyBlocks (b.keyPages sp x))) ++
  (if aExpand r then [rd (u64 r 232 + t.group * u32 r 240) (wuBytes r)] else []) ++
  (rows.flatMap fun (i, _, _) => wr (rowAddr r cove (t.index + i)) (rowLen r) ::
    (if aLse r then [wr (u64 r 144 + 4 * (t.index + i)) 4] else []))

/-- Run one query tile against the instance's key blocks and write its rows (R118, R119, R123). -/
def attnTile (cove : Nat) (x : Ctx) (t : QTile) : Act :=
  .look fun b =>
    let r := x.record
    let sp := b.ctl.space cove x.second
    let freqs := b.freqs sp r
    let rows := tileRowsOf x t
    let blocks := (instanceBlocks r cove (keyBlocks (b.keyPages sp x))).map (b.blockKeys x)
    let states := rows.map fun (i, p, bound) =>
      let q := b.queryRow sp r freqs (t.index + i) p
      let s0 := if aStateIn r then rowStateOf (b.readVa sp (u64 r 152 + (t.index + i) * aRb r) (aRb r)) (aDv r) else RowState.empty (aDv r)
      blocks.foldl (fun s ks =>
        if rows.any (fun (_, p', bound') => ks.any fun k => k.live && visible x bound' p' k.pos) then
          softmaxBlock r q (ks.map fun k =>
            let (kv, v, sc) := b.keyValue sp r freqs t.group k
            { vis := visible x bound p k.pos, live := k.live, key := kv, value := v, scale := sc }) s
        else s) s0
    Act.each (List.zip rows states) fun ((i, _, _), s) =>
      let a := rowAddr r cove (t.index + i)
      if aStateOut r || aKsplit r then writeVa sp a s.bytes
      else finalRow cove x.second (u8 r 4) a (if aLse r then some (u64 r 144 + 4 * (t.index + i)) else none) s

/-- What refuses an attention operation besides its shape (R106, R111, R114, R116, R117, R153). -/
def attnExtra (b : Block) (x : Ctx) : Bool × Bool × Bool :=
  let r := x.record
  let cap := 16 * (b.seq (u16 r 116)).capPages
  let positions := (List.range 2).any fun i =>
    let t := if i = 0 then min x.m (u32 r 220) else x.m
    decide (0 < t ∧ 2 ^ 30 ≤ tokenPos r (t - 1))
  (positions || (match keyLen x with | some l => decide (cap < l) | none => false) || (aGlobal r && globalBad x.table1) ||
     (aRagged r && lengthsBad x.table2 x.m (keyLen x)),
   decide (x.k ≠ 0 ∧ x.k ≠ aDqk r),
   match keyLen x with | some l => decide ((rMax r).2.1 * 2048 < l) | none => false)

/-- Score the tiles that remain and end. -/
def attnRun (cove n : Nat) (x : Ctx) : Act :=
  walkUnits cove n x.second (fun t b => (b.attnAccesses cove x t, attnTile cove x t)) (endInstance cove n false) ((instanceTiles x.record x.m cove).drop x.pos)

/-- ATTN_PREFILL (R129, R130). -/
def attnPrefillAct (cove n : Nat) : Act := runInstance cove n opPrefill attnExtra (fun _ => false) fun x => attnRun cove n x

/-- The accesses of EARLY streaming: up to four key blocks below L0 (R132). -/
def Block.earlyAccesses (b : Block) (cove : Nat) (x : Ctx) : List Access :=
  let sp := b.ctl.space cove x.second
  b.pageAccesses x.record (((instanceBlocks x.record cove (keyBlocks (b.keyPages sp x))).take 4).flatten)

/-- The pages of EARLY streaming with their bytes, which the instance keeps until it scores (R132). -/
def Block.earlyPages (b : Block) (cove : Nat) (x : Ctx) : List (Nat × Bytes) :=
  (b.earlyAccesses cove x).map fun a => (a.va, b.readVa (b.ctl.space cove x.second) a.va a.len)

/-- ATTN_DECODE (R70, R129, R130, R132): before the last wait of an EARLY decode it streams blocks, unless its shape is refused or is a
zero shape, which read nothing; otherwise it scores. -/
def attnDecodeAct (cove n : Nat) : Act :=
  .look fun b => Act.opt ((b.ctl.cove cove).ctx n) fun x =>
    if aEarly x.record && x.len1.isNone then
      Act.when (rOp x.record == opDecode && !waitsMet x.record x.met && x.fault.isNone) <|
        let (ok, on, om) := overMax x
        let (table, kbad, nbad) := attnExtra b x
        if ok || on || om || table || kbad || nbad then refuse cove n table (ok || kbad) (on || nbad) om
        else Act.when (decide (x.m ≠ 0 ∧ x.n ≠ 0 ∧ x.k ≠ 0)) <|
          withAccess cove n x.second (b.earlyAccesses cove x) (updCtx cove n fun y => { y with early := b.earlyPages cove x })
    else runInstance cove n opDecode attnExtra (fun _ => false) fun x => attnRun cove n x

/-- EARLY_SCORING (R132): the last wait of an EARLY decode is met; the length is read again and scoring begins.  A record without a
length entry (LEN_ADDR 0) has no length to read. -/
def earlyScoringAct (cove n : Nat) : Act :=
  .look fun b => Act.opt ((b.ctl.cove cove).ctx n) fun x =>
    Act.when (aEarly x.record && x.len1.isNone && waitsMet x.record x.met && x.fault.isNone) <|
      withAccess cove n x.second (if lenAddr x.record = 0 then [] else [rd (lenAddr x.record) 8]) <|
        let l1 := if lenAddr x.record = 0 then 0 else b.natVa (b.ctl.space cove x.second) (lenAddr x.record) 8
        if l1 < x.len then refuse cove n true false false false
        else Act.seq (updCtx cove n fun y => { y with len1 := some l1 })
          (runInstance cove n opDecode attnExtra (fun _ => false) fun x => attnRun cove n x)

/-! ## Merge (R133 to R136) -/

/-- Combine two row states, the first of lower index (R134). -/
def combine (a b : RowState) : RowState :=
  if a.nan || b.nan then { a with nan := true }
  else
    let m := if Val.lt a.m b.m then b.m else a.m
    if m == .inf true then RowState.empty a.acc.length
    else
      let wa := Val.exp2 (Val.sub32 a.m m)
      let wb := Val.exp2 (Val.sub32 b.m m)
      let two := fun (p q : Val) => (Val.addX ((Val.mul p wa).isNegZero && (Val.mul q wb).isNegZero) (Val.mul p wa) (Val.mul q wb)).f32
      { m := m, l := two a.l b.l, acc := (List.zip a.acc b.acc).map fun (p, q) => two p q, nan := false }

/-- One level of the fixed binary tree. -/
def mergeLevel : List RowState → List RowState
  | a :: b :: rest => combine a b :: mergeLevel rest
  | l => l

/-- Merge partials by index (R134). -/
def mergeTree : Nat → List RowState → List RowState
  | 0, l => l
  | f + 1, l => if l.length ≤ 1 then l else mergeTree f (mergeLevel l)

/-- One unit of a merge: a row and the first of its up to 16 columns (R135). -/
def mergeUnit (cove : Nat) (x : Ctx) (u : Nat) (b : Block) : List Access × Act :=
  let r := x.record
  let sp := b.ctl.space cove x.second
  let per := ceilDiv x.n 16
  let row := u / per
  let col := u % per * 16
  let cols := min 16 (x.n - col)
  let rb := 64 + 4 * x.n
  let part := fun k => u64 r 104 + k * u32 r 112 + row * rb
  let fmt := u8 r 4
  let ins := (List.range x.k).map fun k => rd (part k) rb
  let s := ((mergeTree 13 ((List.range x.k).map fun k => rowStateOf (b.readVa sp (part k) rb) x.n)).head?).getD (RowState.empty x.n)
  if rFlag r 0 then
    let o := u64 r 120 + row * rb
    let bs := s.bytes
    (ins ++ [wr o rb], Act.all [Act.when (col == 0) (writeVa sp o (bs.take 64)), writeVa sp (o + 64 + 4 * col) (slice bs (64 + 4 * col) (4 * cols))])
  else
    let o := u64 r 120 + row * u32 r 128
    let after := o + rowBytes (fmt % 16) x.n
    let div := if fmt / 16 = 2 then some (ofF32 (BitVec.ofNat 32 (b.natVa sp after 4))) else none
    let lo := col / 32 * 32
    let whole := outRow fmt div ((rowOut s).drop lo |>.take 32)
    let mine := outRow fmt div ((rowOut s).drop col |>.take cols)
    let c0 := (col - lo) * fmtBits (fmt % 16) / 8
    let bytes := if fmt / 16 = 1 then slice whole.bytes c0 (rowBytes (fmt % 16) cols) else mine.bytes
    let sat := if fmt / 16 = 1 then mxSat (fmt % 16) ((rowOut s).drop lo |>.take 32) ((rowOut s).drop col |>.take cols) else mine.sat
    (ins ++ [wr o (finalBytes fmt x.n)] ++ (if rFlag r 4 then [wr (u64 r 136 + 4 * row) 4] else []),
     Act.all [writeVa sp (o + colByte r col) bytes, Act.when (fmt / 16 == 1 && col == lo) (writeVa sp (after + col / 32) whole.scales),
       Act.when (rFlag r 4 && col == 0) (writeVa sp (u64 r 136 + 4 * row) (leBytes (rowStat s).word32.toNat 4)),
       countOut cove { mine with sat := sat }, Act.when (!s.nan && s.m == .inf true && col == 0) (countCove cove 0x0D 1)])

/-- ATTN_MERGE (R133 to R135). -/
def attnMergeAct (cove n : Nat) : Act :=
  runInstance cove n opMerge (fun _ _ => (false, false, false)) (fun _ => false) fun x =>
    let units := x.m * ceilDiv x.n 16
    let (lo, hi) := band units 0 (rInstance x.record cove) (rCount x.record)
    walkUnits cove n x.second (mergeUnit cove x) (endInstance cove n false) ((upto lo hi).drop x.pos)

/-! ## Recompute (R137 to R139) -/

/-- Rows of BF16 values of 128 elements. -/
def Block.bfRow (b : Block) (sp : Space) (va : Nat) : List Val := unpack 1 false (b.readVa sp va 256) 128

/-- Sum of BF16 products in the extended accumulator, rounded once to FP32 (R34). -/
def bfDot (a b : List Val) : Val := dotOut (dotAcc 1 1 { elems := a, scales := [] } { elems := b, scales := [] }) none none

/-- What one query row brings to the backward passes. -/
structure BackRow where
  pos   : Nat
  bound : Option Nat
  q     : List Val
  dO    : List Val
  d     : Val
  lse   : Val
  deriving DecidableEq, Repr

/-- Read a query row of the backward passes. -/
def Block.backRow (b : Block) (sp : Space) (r : Bytes) (freqs : List Nat) (row p : Nat) (bound : Option Nat) : BackRow :=
  let dO := b.bfRow sp (u64 r 232 + row * u32 r 112)
  { pos := p, bound := bound, q := (b.queryRow sp r freqs row p).elems, dO := dO,
    d := bfDot dO (b.bfRow sp (u64 r 248 + row * u32 r 112)), lse := ofF32 (BitVec.ofNat 32 (b.natVa sp (u64 r 144 + 4 * row) 4)) }

/-- pb and dsb of a visible pair (R138). -/
def backPair (r : Bytes) (q : BackRow) (k v : List Val) : Val × Val :=
  let s := bfDot q.q k
  let p := Val.exp2 (Val.sub32 (Val.mul32 s (ofF32 (rF32 r 176))) q.lse)
  let dp := bfDot q.dO v
  let ds := Val.mul32 (Val.mul32 p (Val.sub32 dp q.d)) (ofF32 (rF32 r 244))
  (roundFmt 1 p, roundFmt 1 ds)

/-- Add one block's product to a gradient row: each column summed over the block's visible pairs under R34, rounded once, added
with one further rounding. -/
def gradAdd (g : List Val) (ws : List Val) (rows : List (List Val)) : List Val :=
  if ws.isEmpty then g else g.zipIdx.map fun (a, c) => Val.add32 a (bfDot ws (rows.map fun v => v.getD c .zero))

/-- A gradient row with its rotary part rotated back, converted to FMT_OUT. -/
def gradOut (r : Bytes) (freqs : List Nat) (p : Nat) (g : List Val) : OutRow := outRow (u8 r 4) none (rotate freqs (rotHalves r) true (rotDim r) p g)

/-- The Q pass over one query tile: dQ (R138, R139). -/
def backQ (cove : Nat) (x : Ctx) (t : QTile) : Act :=
  .look fun b =>
    let r := x.record
    let sp := b.ctl.space cove x.second
    let freqs := b.freqs sp r
    let blocks := (keyBlocks (b.keyPages sp x)).map fun ps => (b.blockKeys x ps).filter (·.live)
    Act.each (tileRowsOf x t) fun (i, p, bound) =>
      let q := b.backRow sp r freqs (t.index + i) p bound
      let dq := blocks.foldl (fun g ks =>
        let vis := (ks.filter fun k => visible x bound p k.pos).map fun k => b.keyValue sp r freqs t.group k
        gradAdd g (vis.map fun kv => (backPair r q kv.1.elems kv.2.1).2) (vis.map fun kv => kv.1.elems)) (List.replicate 128 Val.zero)
      let o := gradOut r freqs p dq
      (writeVa sp (u64 r 128 + (t.index + i) * u32 r 136) o.bytes).seq (countOut cove o)

/-- The KV pass over one key block: dK and dV (R138, R139). -/
def backKV (cove : Nat) (x : Ctx) (ps : List KeyPage) : Act :=
  .look fun b =>
    let r := x.record
    let sp := b.ctl.space cove x.second
    let freqs := b.freqs sp r
    let tiles := (queryTiles r x.m).map fun t => (tileRowsOf x t).map fun (i, p, bound) => b.backRow sp r freqs (t.index + i) p bound
    Act.each ((b.blockKeys x ps).filter fun k => k.live && decide (u32 r 240 ≤ k.pos)) fun k =>
      let (kv, v, _) := b.keyValue sp r freqs 0 k
      let zero := List.replicate 128 Val.zero
      let (dk, dv) := tiles.foldl (fun (gk, gv) rows =>
        let vis := (rows.filter fun q => visible x q.bound q.pos k.pos).map fun q => (q, backPair r q kv.elems v)
        (gradAdd gk (vis.map fun e => e.2.2) (vis.map fun e => e.1.q), gradAdd gv (vis.map fun e => e.2.1) (vis.map fun e => e.1.dO))) (zero, zero)
      let ok := gradOut r freqs k.pos dk
      let ov := outRow (u8 r 4) none dv
      let at' := (k.pos - u32 r 240) * u32 r 136
      Act.all [writeVa sp (u64 r 128 + at') ok.bytes, writeVa sp (u64 r 152 + at') ov.bytes, countOut cove ok, countOut cove ov]

/-- Accesses of one query row of the backward passes. -/
def backReads (r : Bytes) (row : Nat) : List Access :=
  [rd (u64 r 104 + row * u32 r 112) 256, rd (u64 r 232 + row * u32 r 112) 256, rd (u64 r 248 + row * u32 r 112) 256, rd (u64 r 144 + 4 * row) 4]

/-- ATTN_RECOMPUTE (R137 to R139). -/
def attnRecomputeAct (cove n : Nat) : Act :=
  runInstance cove n opRecompute attnExtra (fun _ => false) fun x =>
    .look fun b =>
      let r := x.record
      let blocks := keyBlocks (b.keyPages (b.ctl.space cove x.second) x)
      let out := rowBytes (rFmt r 4) 128
      if u8 r 229 = 0 then
        walkUnits cove n x.second (fun (t : QTile) b =>
            ((tileRowsOf x t).flatMap (fun (i, _, _) => backReads r (t.index + i) ++ [wr (u64 r 128 + (t.index + i) * u32 r 136) out]) ++
              [rd (u64 r 160) 256] ++ b.pageAccesses r blocks.flatten, backQ cove x t))
          (endInstance cove n false) ((instanceTiles r x.m cove).drop x.pos)
      else
        let (lo, hi) := band blocks.length 0 (rInstance r cove) (rCount r)
        walkUnits cove n x.second (fun (ps : List KeyPage) b =>
            ((List.range (aGroups r * aRowsPer r x.m)).flatMap (backReads r) ++ [rd (u64 r 160) 256] ++ b.pageAccesses r ps ++
              ((b.blockKeys x ps).filter fun k => k.live && decide (u32 r 240 ≤ k.pos)).flatMap (fun k =>
                [wr (u64 r 128 + (k.pos - u32 r 240) * u32 r 136) out, wr (u64 r 152 + (k.pos - u32 r 240) * u32 r 136) out]), backKV cove x ps))
          (endInstance cove n false) (((blocks.take hi).drop lo).drop x.pos)

/-- ATTN_PREFILL. -/
def execAttnPrefill (cove : Fin 512) (ctx : Fin 4) (s : State) : Host.Outcome State Fault Refusal := s.perform (attnPrefillAct cove.val ctx.val)
/-- ATTN_DECODE. -/
def execAttnDecode (cove : Fin 512) (ctx : Fin 4) (s : State) : Host.Outcome State Fault Refusal := s.perform (attnDecodeAct cove.val ctx.val)
/-- EARLY_SCORING. -/
def execEarlyScoring (cove : Fin 512) (ctx : Fin 4) (s : State) : Host.Outcome State Fault Refusal := s.perform (earlyScoringAct cove.val ctx.val)
/-- ATTN_MERGE. -/
def execAttnMerge (cove : Fin 512) (ctx : Fin 4) (s : State) : Host.Outcome State Fault Refusal := s.perform (attnMergeAct cove.val ctx.val)
/-- ATTN_RECOMPUTE. -/
def execAttnRecompute (cove : Fin 512) (ctx : Fin 4) (s : State) : Host.Outcome State Fault Refusal := s.perform (attnRecomputeAct cove.val ctx.val)

end Sys2Proof.Machine
end

