-- ==== Sys2Proof/Machine/Rv.lean ====
section
/-! DEFINITION. The scalar side of a cove-core thread (R50, R51): registers, control and status registers, RV64IMAFDC.  The
instructions are those of the RISC-V standard that R50 names; their encodings and effects are taken from it (log 13). -/

namespace Sys2Proof.Machine

/-! ## Threads -/

/-- Integer register n; x0 reads 0. -/
def Thread.rx (t : Thread) (n : Nat) : BitVec 64 := if n = 0 then 0 else Tab.get 0 t.x n
/-- Write an integer register; x0 discards. -/
def Thread.wx (t : Thread) (n : Nat) (v : BitVec 64) : Thread := if n = 0 then t else { t with x := Tab.set 0 t.x n v }
/-- Floating-point register n. -/
def Thread.rf (t : Thread) (n : Nat) : BitVec 64 := Tab.get 0 t.f n
/-- Write a floating-point register. -/
def Thread.wf (t : Thread) (n : Nat) (v : BitVec 64) : Thread := { t with f := Tab.set 0 t.f n v }
/-- A control and status register as stored. -/
def Thread.rc (t : Thread) (n : Nat) : Nat := (Tab.get 0 t.csr n).toNat
/-- Store a control and status register. -/
def Thread.wc (t : Thread) (n v : Nat) : Thread := { t with csr := Tab.set 0 t.csr n (BitVec.ofNat 64 v) }

/-- fcsr, vstart, vxsat, vxrm, vl, vtype. -/
def csrFcsr : Nat := 0x003
def csrVstart : Nat := 0x008
def csrVxsat : Nat := 0x009
def csrVxrm : Nat := 0x00A
def csrVl : Nat := 0xC20
def csrVtype : Nat := 0xC21

/-- What an instruction does: a thread and stores, or a trap. -/
inductive RvOut where
  | done (t : Thread) (reads : List Access) (stores : List (Nat × Bytes))
  /-- LR of n bytes at an address: the thread reserves them. -/
  | lr (t : Thread) (va n : Nat)
  /-- SC: the thread's reservation ends; the store happens where it held. -/
  | sc (t : Thread) (stores : List (Nat × Bytes))
  | trap (cause : Nat)
  deriving DecidableEq, Repr

/-- RISC-V exception causes. -/
def causeFetch : Nat := 1
def causeIllegal : Nat := 2
def causeBreak : Nat := 3
def causeEcall : Nat := 8
def causeLoadAlign : Nat := 4
def causeLoad : Nat := 5
def causeStoreAlign : Nat := 6
def causeStore : Nat := 7

/-- Where a thread runs: the block it reads, its space, its cove and thread number. -/
structure Env where
  b    : Block
  sp   : Space
  cove : Nat
  th   : Nat

/-- An instruction without memory accesses, pc moved on by `len`. -/
def Thread.next (t : Thread) (len : Nat) : RvOut := .done { t with pc := t.pc + BitVec.ofNat 64 len } [] []

/-! ## Integer -/

/-- Sign extension of the low w bits to 64. -/
def sext (w x : Nat) : BitVec 64 := BitVec.ofInt 64 (signed w (x % 2 ^ w))

/-- Result of a 32-bit operation, sign-extended. -/
def w32 (x : BitVec 64) : BitVec 64 := sext 32 x.toNat

/-- I-, S-, B-, U- and J-type immediates. -/
def immI (w : Nat) : BitVec 64 := sext 12 (bits w 31 20)
def immS (w : Nat) : BitVec 64 := sext 12 (bits w 31 25 * 32 + bits w 11 7)
def immB (w : Nat) : BitVec 64 := sext 13 (bits w 31 31 * 4096 + bits w 7 7 * 2048 + bits w 30 25 * 32 + bits w 11 8 * 2)
def immU (w : Nat) : BitVec 64 := sext 32 (bits w 31 12 * 4096)
def immJ (w : Nat) : BitVec 64 := sext 21 (bits w 31 31 * 2 ^ 20 + bits w 19 12 * 4096 + bits w 20 20 * 2048 + bits w 30 21 * 2)

/-- Arithmetic shift right. -/
def sra (x : BitVec 64) (n : Nat) : BitVec 64 := x.sshiftRight n

/-- OP and OP-IMM by funct3 for 64 bits; `alt` is bit 30. -/
def alu (f3 : Nat) (alt : Bool) (a b : BitVec 64) : BitVec 64 :=
  match f3 with
  | 0 => if alt then a - b else a + b
  | 1 => a <<< (b.toNat % 64)
  | 2 => if a.slt b then 1 else 0
  | 3 => if a.ult b then 1 else 0
  | 4 => a ^^^ b
  | 5 => if alt then sra a (b.toNat % 64) else a >>> (b.toNat % 64)
  | 6 => a ||| b
  | _ => a &&& b

/-- OP-32 and OP-IMM-32. -/
def alu32 (f3 : Nat) (alt : Bool) (a b : BitVec 64) : Option (BitVec 64) :=
  match f3 with
  | 0 => some (w32 (if alt then a - b else a + b))
  | 1 => some (w32 (a <<< (b.toNat % 32)))
  | 5 => some (if alt then w32 (sra (w32 a) (b.toNat % 32)) else w32 (BitVec.ofNat 64 (a.toNat % 2 ^ 32 / 2 ^ (b.toNat % 32))))
  | _ => none

/-- Truncated signed division and remainder. -/
def tdivS (w : Nat) (a b : Int) : Int := if b = 0 then -1 else if a = -(2 ^ (w - 1)) ∧ b = -1 then a else a.tdiv b
/-- Remainder. -/
def tmodS (w : Nat) (a b : Int) : Int := if b = 0 then a else if a = -(2 ^ (w - 1)) ∧ b = -1 then 0 else a.tmod b

/-- M extension for width w on operands of that width. -/
def mulDiv (w f3 : Nat) (a b : Nat) : Nat :=
  let sa := signed w a
  let sb := signed w b
  let m := fun (x : Int) => (x % 2 ^ w).toNat
  match f3 with
  | 0 => a * b % 2 ^ w
  | 1 => m (sa * sb / 2 ^ w)
  | 2 => m (sa * b / 2 ^ w)
  | 3 => a * b / 2 ^ w
  | 4 => m (tdivS w sa sb)
  | 5 => if b = 0 then 2 ^ w - 1 else a / b
  | 6 => m (tmodS w sa sb)
  | _ => if b = 0 then a else a % b

/-- Branch taken. -/
def branchTaken (f3 : Nat) (a b : BitVec 64) : Option Bool :=
  match f3 with
  | 0 => some (a == b)
  | 1 => some (a != b)
  | 4 => some (a.slt b)
  | 5 => some (!a.slt b)
  | 6 => some (a.ult b)
  | 7 => some (!a.ult b)
  | _ => none

/-- AMO of width w: the value stored. -/
def amo (f5 w : Nat) (old src : Nat) : Option Nat :=
  match f5 with
  | 0x01 => some src
  | 0x00 => some ((old + src) % 2 ^ w)
  | 0x04 => some (old ^^^ src)
  | 0x0C => some (old &&& src)
  | 0x08 => some (old ||| src)
  | 0x10 => some (if signed w old ≤ signed w src then old else src)
  | 0x14 => some (if signed w old ≤ signed w src then src else old)
  | 0x18 => some (min old src)
  | 0x1C => some (max old src)
  | _ => none

/-! ## Floating point -/

/-- Format by the fmt field: single or double. -/
def fpFmt (f : Nat) : Option Fmt := match f with | 0 => some (fmtOf 0) | 1 => some fmt64 | _ => none

/-- Width of a floating-point format. -/
def Fmt.width (f : Fmt) : Nat := 1 + f.ebits + f.mbits

/-- An operand as a word of the format, unboxed: an improperly boxed single is the canonical NaN. -/
def unbox (f : Fmt) (x : BitVec 64) : Nat :=
  if f.width = 64 then x.toNat else if x.toNat / 2 ^ f.width = 2 ^ (64 - f.width) - 1 then x.toNat % 2 ^ f.width else f.nanWord

/-- A result boxed. -/
def box (f : Fmt) (w : Nat) : BitVec 64 := if f.width = 64 then BitVec.ofNat 64 w else BitVec.ofNat 64 ((2 ^ 64 - 2 ^ f.width) + w % 2 ^ f.width)

/-- A signalling NaN of a format. -/
def isSnan (f : Fmt) (w : Nat) : Bool := (f.decode w).isNan && !bit w (f.mbits - 1)

/-- Exception flags: NV 16, DZ 8, OF 4, UF 2, NX 1. -/
def fNV : Nat := 16
def fDZ : Nat := 8

/-- Round an exact value to a format under a mode: the word and its flags (underflow detected after rounding). -/
def roundWord (f : Fmt) (rm : Rm) : Val → Nat × Nat
  | .nan => (f.nanWord, 0)
  | .inf n => (f.infWord n, 0)
  | .fin n m e =>
    match f.grid rm n m e with
    | .fin s q k =>
      let inexact := !Val.eqv (.fin n m e) (.fin s q k)
      match f.pack s q k with
      | none =>
        let toMax := match rm with | .rtz => true | .rdn => !n | .rup => n | _ => false
        ((if toMax then f.sign n + f.maxWord else f.infWord n), 5)
      | some w =>
        let tiny := match roundFin rm (f.mbits + 1) none n m e with
          | .fin _ q2 k2 => Val.lt (.fin false q2 k2) (.fin false 1 (1 - f.bias))
          | _ => false
        (w, if inexact then (if tiny then 3 else 1) else 0)
    | _ => (f.nanWord, 0)

/-- Rounding mode of an instruction: its rm field, or frm; none when reserved. -/
def rmOf (t : Thread) (f3 : Nat) : Option Rm :=
  match (if f3 = 7 then bits (t.rc csrFcsr) 7 5 else f3) with
  | 0 => some .rne
  | 1 => some .rtz
  | 2 => some .rdn
  | 3 => some .rup
  | 4 => some .rmm
  | _ => none

/-- Accrue exception flags. -/
def Thread.flags (t : Thread) (fl : Nat) : Thread := if fl = 0 then t else t.wc csrFcsr (t.rc csrFcsr ||| fl)

/-- Invalid-operation flag of operands and an operation whose result is NaN. -/
def nvOf (f : Fmt) (ws : List Nat) (r : Val) : Nat :=
  if ws.any (isSnan f) then fNV else if r.isNan && !(ws.any fun w => (f.decode w).isNan) then fNV else 0

/-- Two-operand arithmetic: 0 add, 1 subtract, 2 multiply, 3 divide. -/
def fpArith (f : Fmt) (rm : Rm) (op a b : Nat) : Nat × Nat :=
  let x := f.decode a
  let y := f.decode b
  let down := rm == .rdn
  let r := match op with
    | 0 => Val.addX down x y
    | 1 => Val.addX down x y.neg
    | 2 => Val.mul x y
    | _ => Val.div x y
  let dz := if op = 3 && y.isZero && !x.isZero && !x.isNan && (match x with | .inf _ => false | _ => true) then fDZ else 0
  let (w, fl) := roundWord f rm r
  (w, fl ||| nvOf f [a, b] r ||| dz)

/-- Fused multiply-add with signs: np negates the product, nc the addend. -/
def fpFma (f : Fmt) (rm : Rm) (np nc : Bool) (a b c : Nat) : Nat × Nat :=
  let p := Val.mul (f.decode a) (f.decode b)
  let p := if np then p.neg else p
  let z := if nc then (f.decode c).neg else f.decode c
  let r := Val.addX (rm == .rdn) p z
  let (w, fl) := roundWord f rm r
  let infZero := p.isNan && !(f.decode a).isNan && !(f.decode b).isNan
  (w, fl ||| nvOf f [a, b, c] r ||| (if infZero then fNV else 0))

/-- Square root. -/
def fpSqrt (f : Fmt) (rm : Rm) (a : Nat) : Nat × Nat :=
  let r := (f.decode a).sqrt
  let (w, fl) := roundWord f rm r
  (w, fl ||| nvOf f [a] r)

/-- Minimum (0) or maximum (1) of the number-preferring kind. -/
def fpMinMax (f : Fmt) (mx a b : Nat) : Nat × Nat :=
  let x := f.decode a
  let y := f.decode b
  let fl := if isSnan f a || isSnan f b then fNV else 0
  if x.isNan && y.isNan then (f.nanWord, fl)
  else if x.isNan then (b, fl) else if y.isNan then (a, fl)
  else
    let less := Val.lt x y || (x.isZero && y.isZero && x.isNeg && !y.isNeg)
    (if (mx = 0) == less then a else b, fl)

/-- Compare: 0 ≤, 1 <, 2 =. -/
def fpCmp (f : Fmt) (op a b : Nat) : Bool × Nat :=
  let x := f.decode a
  let y := f.decode b
  let nan := x.isNan || y.isNan
  let fl := if op = 2 then (if isSnan f a || isSnan f b then fNV else 0) else if nan then fNV else 0
  (!nan && (match op with | 0 => !Val.lt y x | 1 => Val.lt x y | _ => Val.eqv x y), fl)

/-- FCLASS mask. -/
def fpClass (f : Fmt) (a : Nat) : Nat :=
  match f.decode a with
  | .nan => if isSnan f a then 256 else 512
  | .inf n => if n then 1 else 128
  | .fin n m _ =>
    if m = 0 then (if n then 8 else 16)
    else if a / 2 ^ f.mbits % 2 ^ f.ebits = 0 then (if n then 4 else 32) else (if n then 2 else 64)

/-- A value rounded to an integer under a mode. -/
def toInteger (rm : Rm) : Val → Int
  | .fin n m e =>
    let q := if e ≥ 0 then m * 2 ^ e.toNat else shiftRound rm n m (-e).toNat
    if n then -(q : Int) else q
  | _ => 0

/-- Convert a value to an integer of a width, signed or unsigned, saturating; with its flags. -/
def fpToInt (rm : Rm) (w : Nat) (uns : Bool) (v : Val) : Nat × Nat :=
  let lo : Int := if uns then 0 else -(2 ^ (w - 1))
  let hi : Int := if uns then 2 ^ w - 1 else 2 ^ (w - 1) - 1
  let enc := fun (x : Int) => (x % 2 ^ w).toNat
  match v with
  | .nan => (enc hi, fNV)
  | .inf n => (enc (if n then lo else hi), fNV)
  | .fin n m e =>
    let q := toInteger rm (.fin n m e)
    if q < lo then (enc lo, fNV) else if hi < q then (enc hi, fNV)
    else (enc q, if Val.eqv (.fin n m e) (.fin (decide (q < 0)) q.natAbs 0) then 0 else 1)

/-- An integer as a value. -/
def intVal (x : Int) : Val := .fin (decide (x < 0)) x.natAbs 0

/-- OP-FP (0x53): the thread after it, or none when illegal. -/
def opFp (t : Thread) (w : Nat) : Option Thread := do
  let f ← fpFmt (bits w 26 25)
  let f5 := bits w 31 27
  let f3 := bits w 14 12
  let rs1 := bits w 19 15
  let rs2 := bits w 24 20
  let rd' := bits w 11 7
  let a := unbox f (t.rf rs1)
  let b := unbox f (t.rf rs2)
  let wf := fun (r : Nat × Nat) => (t.wf rd' (box f r.1)).flags r.2
  match f5 with
  | 0 | 1 | 2 | 3 => (rmOf t f3).map fun rm => wf (fpArith f rm f5 a b)
  | 0x0B => if rs2 = 0 then (rmOf t f3).map fun rm => wf (fpSqrt f rm a) else none
  | 0x04 =>
    let s := 2 ^ (f.width - 1)
    let sb := match f3 with | 0 => some (b / s) | 1 => some (1 - b / s) | 2 => some ((a / s + b / s) % 2) | _ => none
    sb.map fun s' => wf (a % s + s' * s, 0)
  | 0x05 => if f3 ≤ 1 then some (wf (fpMinMax f f3 a b)) else none
  | 0x14 => if f3 ≤ 2 then (let (r, fl) := fpCmp f f3 a b; some ((t.wx rd' (if r then 1 else 0)).flags fl)) else none
  | 0x08 => do
    let g ← fpFmt rs2
    let rm ← rmOf t f3
    if g = f then none
    else
      let src := unbox g (t.rf rs1)
      let (r, fl) := roundWord f rm (g.decode src)
      some (wf (r, fl ||| (if isSnan g src then fNV else 0)))
  | 0x18 => do
    let rm ← rmOf t f3
    let iw := if rs2 < 2 then 32 else 64
    if 3 < rs2 then none
    else
      let (r, fl) := fpToInt rm iw (rs2 % 2 == 1) (f.decode a)
      some ((t.wx rd' (sext iw r)).flags fl)
  | 0x1A => do
    let rm ← rmOf t f3
    let iw := if rs2 < 2 then 32 else 64
    if 3 < rs2 then none
    else
      let x : Nat := (t.rx rs1).toNat % 2 ^ iw
      let i : Int := if rs2 % 2 = 1 then (x : Int) else signed iw x
      some (wf (roundWord f rm (intVal i)))
  | 0x1C =>
    if rs2 ≠ 0 then none
    else if f3 = 0 then some (t.wx rd' (sext f.width (t.rf rs1).toNat))
    else if f3 = 1 then some (t.wx rd' (BitVec.ofNat 64 (fpClass f a))) else none
  | 0x1E => if rs2 = 0 ∧ f3 = 0 then some (t.wf rd' (box f ((t.rx rs1).toNat % 2 ^ f.width))) else none
  | _ => none

/-! ## Control and status registers -/

/-- A user-mode control and status register as an instruction reads it; none when it does not exist in user mode. -/
def csrRead (b : Block) (t : Thread) (n : Nat) : Option (BitVec 64) :=
  match n with
  | 0x001 => some (BitVec.ofNat 64 (t.rc csrFcsr % 32))
  | 0x002 => some (BitVec.ofNat 64 (bits (t.rc csrFcsr) 7 5))
  | 0x003 => some (BitVec.ofNat 64 (t.rc csrFcsr % 256))
  | 0x008 | 0x009 | 0x00A | 0xC20 | 0xC21 => some (BitVec.ofNat 64 (t.rc n))
  | 0x00F => some (BitVec.ofNat 64 (t.rc csrVxrm % 4 * 2 + t.rc csrVxsat % 2))
  | 0xC22 => some 128
  | 0xC00 | 0xC01 | 0xC02 => some (Config.riscvFree (b.fresh * 64))
  | _ => none

/-- Write a control and status register of user mode; none when it is read-only. -/
def csrWrite (t : Thread) (n : Nat) (v : BitVec 64) : Option Thread :=
  match n with
  | 0x001 => some (t.wc csrFcsr (t.rc csrFcsr / 32 * 32 + v.toNat % 32))
  | 0x002 => some (t.wc csrFcsr (t.rc csrFcsr % 32 + v.toNat % 8 * 32))
  | 0x003 => some (t.wc csrFcsr (v.toNat % 256))
  | 0x008 => some (t.wc csrVstart (v.toNat % 1024))
  | 0x009 => some (t.wc csrVxsat (v.toNat % 2))
  | 0x00A => some (t.wc csrVxrm (v.toNat % 4))
  | 0x00F => some ((t.wc csrVxsat (v.toNat % 2)).wc csrVxrm (v.toNat / 2 % 4))
  | _ => none

/-- SYSTEM instructions except ECALL: Zicsr, EBREAK and WFI; every other is illegal in user mode. -/
def opSystem (b : Block) (t : Thread) (w len : Nat) : RvOut :=
  let f3 := bits w 14 12
  let n := bits w 31 20
  let rs1 := bits w 19 15
  let rd' := bits w 11 7
  if f3 = 0 then (if w = 0x00100073 then .trap causeBreak else if w = 0x10500073 then t.next len else .trap causeIllegal)
  else if f3 = 4 then .trap causeIllegal
  else
    let src := if f3 < 4 then t.rx rs1 else BitVec.ofNat 64 rs1
    let writes := f3 % 4 == 1 || rs1 != 0
    match csrRead b t n with
    | none => .trap causeIllegal
    | some old =>
      let new := match f3 % 4 with | 1 => src | 2 => old ||| src | _ => old &&& ~~~src
      match (if writes then csrWrite t n new else some t) with
      | none => .trap causeIllegal
      | some t' => (t'.wx rd' old).next len

/-! ## Loads, stores, atomics -/

/-- Bytes and signedness of a load by funct3. -/
def loadSize (f3 : Nat) : Option (Nat × Bool) :=
  match f3 with
  | 0 => some (1, true) | 1 => some (2, true) | 2 => some (4, true) | 3 => some (8, true)
  | 4 => some (1, false) | 5 => some (2, false) | 6 => some (4, false) | _ => none

/-- An integer load. -/
def rvLoad (e : Env) (t : Thread) (rd' va n : Nat) (sg : Bool) (len : Nat) : RvOut :=
  let x := e.b.natVa e.sp va n
  .done { (t.wx rd' (if sg then sext (8 * n) x else BitVec.ofNat 64 x)) with pc := t.pc + BitVec.ofNat 64 len } [rd va n] []

/-- The physical address that a reservation names: of this module, or past them all one of a board peer. -/
def Block.reserveAddr (b : Block) (sp : Space) (va : Nat) (write : Bool) : Option Nat :=
  match b.xlate sp va write with
  | .ok slot a => some (if slot = b.slot then a else (slot + 1) * 2 ^ 64 + a)
  | _ => none

/-- The thread's reservation of n bytes at an address holds: no write of this module has touched them since its LR (R50). -/
def Env.reserved (e : Env) (va n : Nat) : Bool :=
  match e.b.reserveAddr e.sp va true with
  | some a => e.b.lrs.contains { cove := e.cove, thread := e.th, addr := a, len := n }
  | none => false

/-- An integer store. -/
def rvStore (t : Thread) (va n : Nat) (v : BitVec 64) (len : Nat) : RvOut :=
  .done { t with pc := t.pc + BitVec.ofNat 64 len } [] [(va, leBytes v.toNat n)]

/-- LR, SC and AMO. -/
def opAmo (e : Env) (t : Thread) (w len : Nat) : RvOut :=
  let f3 := bits w 14 12
  let f5 := bits w 31 27
  let n := if f3 = 2 then 4 else 8
  let va := (t.rx (bits w 19 15)).toNat
  let rs2 := bits w 24 20
  let rd' := bits w 11 7
  let nx := fun (t : Thread) => { t with pc := t.pc + BitVec.ofNat 64 len }
  if f3 ≠ 2 ∧ f3 ≠ 3 then .trap causeIllegal
  else if va % n ≠ 0 then .trap (if f5 = 2 then causeLoadAlign else causeStoreAlign)
  else
    let old := e.b.natVa e.sp va n
    match f5 with
    | 0x02 => if rs2 ≠ 0 then .trap causeIllegal else .lr (nx (t.wx rd' (sext (8 * n) old))) va n
    | 0x03 =>
      if e.reserved va n then .sc (nx (t.wx rd' 0)) [(va, leBytes (t.rx rs2).toNat n)] else .sc (nx (t.wx rd' 1)) []
    | _ => match amo f5 (8 * n) old ((t.rx rs2).toNat % 2 ^ (8 * n)) with
      | none => .trap causeIllegal
      | some v => .done (nx (t.wx rd' (sext (8 * n) old))) [rd va n] [(va, leBytes v n)]

/-! ## The 32-bit scalar instructions -/

/-- A scalar instruction of 32 bits; `len` is how far the pc moves (2 for an expanded compressed one). -/
def rv32 (e : Env) (t : Thread) (w len : Nat) : RvOut :=
  let op := bits w 6 0
  let f3 := bits w 14 12
  let f7 := bits w 31 25
  let rs1 := t.rx (bits w 19 15)
  let rs2 := t.rx (bits w 24 20)
  let rd' := bits w 11 7
  let nx := fun (t : Thread) => t.next len
  match op with
  | 0x37 => nx (t.wx rd' (immU w))
  | 0x17 => nx (t.wx rd' (t.pc + immU w))
  | 0x6F => .done { (t.wx rd' (t.pc + BitVec.ofNat 64 len)) with pc := t.pc + immJ w } [] []
  | 0x67 => if f3 ≠ 0 then .trap causeIllegal else
      .done { (t.wx rd' (t.pc + BitVec.ofNat 64 len)) with pc := (rs1 + immI w) &&& ~~~(1 : BitVec 64) } [] []
  | 0x63 => match branchTaken f3 rs1 rs2 with
    | none => .trap causeIllegal
    | some true => .done { t with pc := t.pc + immB w } [] []
    | some false => nx t
  | 0x03 => match loadSize f3 with
    | none => .trap causeIllegal
    | some (n, sg) => rvLoad e t rd' (rs1 + immI w).toNat n sg len
  | 0x23 => if 3 < f3 then .trap causeIllegal else rvStore t (rs1 + immS w).toNat (2 ^ f3) rs2 len
  | 0x13 =>
    if f3 = 1 ∧ bits w 31 26 ≠ 0 then .trap causeIllegal
    else if f3 = 5 ∧ bits w 31 26 ≠ 0 ∧ bits w 31 26 ≠ 0x10 then .trap causeIllegal
    else nx (t.wx rd' (alu f3 (f3 == 5 && bit w 30) rs1 (immI w)))
  | 0x1B =>
    if (f3 = 1 ∧ f7 ≠ 0) ∨ (f3 = 5 ∧ f7 ≠ 0 ∧ f7 ≠ 0x20) then .trap causeIllegal
    else match alu32 f3 (f3 == 5 && bit w 30) rs1 (immI w) with | none => .trap causeIllegal | some v => nx (t.wx rd' v)
  | 0x33 =>
    if f7 = 1 then nx (t.wx rd' (BitVec.ofNat 64 (mulDiv 64 f3 rs1.toNat rs2.toNat)))
    else if f7 = 0 ∨ (f7 = 0x20 ∧ (f3 = 0 ∨ f3 = 5)) then nx (t.wx rd' (alu f3 (f7 == 0x20) rs1 rs2)) else .trap causeIllegal
  | 0x3B =>
    if f7 = 1 ∧ (f3 = 0 ∨ 4 ≤ f3) then nx (t.wx rd' (sext 32 (mulDiv 32 f3 (rs1.toNat % 2 ^ 32) (rs2.toNat % 2 ^ 32))))
    else if f7 = 0 ∨ (f7 = 0x20 ∧ (f3 = 0 ∨ f3 = 5)) then
      match alu32 f3 (f7 == 0x20) rs1 rs2 with | none => .trap causeIllegal | some v => nx (t.wx rd' v)
    else .trap causeIllegal
  | 0x0F => if f3 ≤ 1 then nx t else .trap causeIllegal
  | 0x73 => opSystem e.b t w len
  | 0x2F => opAmo e t w len
  | 0x07 =>
    let n := 2 ^ f3
    if f3 = 2 ∨ f3 = 3 then
      let va := (rs1 + immI w).toNat
      let x := e.b.natVa e.sp va n
      .done { (t.wf rd' (if f3 = 2 then box (fmtOf 0) x else BitVec.ofNat 64 x)) with pc := t.pc + BitVec.ofNat 64 len } [rd va n] []
    else .trap causeIllegal
  | 0x27 =>
    if f3 = 2 ∨ f3 = 3 then
      .done { t with pc := t.pc + BitVec.ofNat 64 len } [] [((rs1 + immS w).toNat, leBytes (t.rf (bits w 24 20)).toNat (2 ^ f3))]
    else .trap causeIllegal
  | 0x43 | 0x47 | 0x4B | 0x4F =>
    match fpFmt (bits w 26 25), rmOf t f3 with
    | some f, some rm =>
      let (r, fl) := fpFma f rm (op == 0x4B || op == 0x4F) (op == 0x47 || op == 0x4F) (unbox f (t.rf (bits w 19 15))) (unbox f (t.rf (bits w 24 20))) (unbox f (t.rf (bits w 31 27)))
      nx ((t.wf rd' (box f r)).flags fl)
    | _, _ => .trap causeIllegal
  | 0x53 => match opFp t w with | none => .trap causeIllegal | some t' => nx t'
  | _ => .trap causeIllegal

/-! ## Compressed instructions -/

/-- Encode the 32-bit forms that compressed instructions stand for. -/
def encR (f7 rs2 rs1 f3 rd' op : Nat) : Nat := f7 * 2 ^ 25 + rs2 * 2 ^ 20 + rs1 * 2 ^ 15 + f3 * 2 ^ 12 + rd' * 2 ^ 7 + op
def encI (imm rs1 f3 rd' op : Nat) : Nat := imm % 4096 * 2 ^ 20 + rs1 * 2 ^ 15 + f3 * 2 ^ 12 + rd' * 2 ^ 7 + op
def encS (imm rs2 rs1 f3 op : Nat) : Nat := encR (imm / 32 % 128) rs2 rs1 f3 (imm % 32) op
def encB (imm rs1 f3 : Nat) : Nat :=
  encR (bits imm 12 12 * 64 + bits imm 10 5) 0 rs1 f3 (bits imm 4 1 * 2 + bits imm 11 11) 0x63
def encJ (imm rd' : Nat) : Nat :=
  bits imm 20 20 * 2 ^ 31 + bits imm 10 1 * 2 ^ 21 + bits imm 11 11 * 2 ^ 20 + bits imm 19 12 * 2 ^ 12 + rd' * 2 ^ 7 + 0x6F

/-- Sign-extend a w-bit immediate within `to` bits. -/
def sx (w wide x : Nat) : Nat := if x < 2 ^ (w - 1) then x else x + 2 ^ wide - 2 ^ w

/-- The 32-bit instruction for a 16-bit one of RV64C; none when reserved. -/
def expandC (c : Nat) : Option Nat :=
  let f3 := bits c 15 13
  let rd' := bits c 11 7
  let rs2 := bits c 6 2
  let p1 := 8 + bits c 9 7
  let p2 := 8 + bits c 4 2
  let imm6 := bits c 12 12 * 32 + bits c 6 2
  let uW := bits c 5 5 * 64 + bits c 12 10 * 8 + bits c 6 6 * 4
  let uD := bits c 6 5 * 64 + bits c 12 10 * 8
  match c % 4, f3 with
  | 0, 0 =>
    let i := bits c 10 7 * 64 + bits c 12 11 * 16 + bits c 5 5 * 8 + bits c 6 6 * 4
    if i = 0 then none else some (encI i 2 0 p2 0x13)
  | 0, 1 => some (encI uD p1 3 p2 0x07)
  | 0, 2 => some (encI uW p1 2 p2 0x03)
  | 0, 3 => some (encI uD p1 3 p2 0x03)
  | 0, 5 => some (encS uD p2 p1 3 0x27)
  | 0, 6 => some (encS uW p2 p1 2 0x23)
  | 0, 7 => some (encS uD p2 p1 3 0x23)
  | 1, 0 => some (encI (sx 6 12 imm6) rd' 0 rd' 0x13)
  | 1, 1 => if rd' = 0 then none else some (encI (sx 6 12 imm6) rd' 0 rd' 0x1B)
  | 1, 2 => some (encI (sx 6 12 imm6) 0 0 rd' 0x13)
  | 1, 3 =>
    if rd' = 2 then
      let i := bits c 12 12 * 512 + bits c 4 3 * 128 + bits c 5 5 * 64 + bits c 2 2 * 32 + bits c 6 6 * 16
      if i = 0 then none else some (encI (sx 10 12 i) 2 0 2 0x13)
    else if imm6 = 0 then none else some (sx 6 20 imm6 * 4096 + rd' * 128 + 0x37)
  | 1, 4 =>
    match bits c 11 10 with
    | 0 => some (encI imm6 p1 5 p1 0x13)
    | 1 => some (encI (1024 + imm6) p1 5 p1 0x13)
    | 2 => some (encI (sx 6 12 imm6) p1 7 p1 0x13)
    | _ =>
      match bits c 12 12, bits c 6 5 with
      | 0, 0 => some (encR 0x20 p2 p1 0 p1 0x33)
      | 0, 1 => some (encR 0 p2 p1 4 p1 0x33)
      | 0, 2 => some (encR 0 p2 p1 6 p1 0x33)
      | 0, _ => some (encR 0 p2 p1 7 p1 0x33)
      | _, 0 => some (encR 0x20 p2 p1 0 p1 0x3B)
      | _, 1 => some (encR 0 p2 p1 0 p1 0x3B)
      | _, _ => none
  | 1, 5 =>
    let i := bits c 12 12 * 2048 + bits c 8 8 * 1024 + bits c 10 9 * 256 + bits c 6 6 * 128 + bits c 7 7 * 64 + bits c 2 2 * 32 + bits c 11 11 * 16 + bits c 5 3 * 2
    some (encJ (sx 12 21 i) 0)
  | 1, 6 | 1, 7 =>
    let i := bits c 12 12 * 256 + bits c 6 5 * 64 + bits c 2 2 * 32 + bits c 11 10 * 8 + bits c 4 3 * 2
    some (encB (sx 9 13 i) p1 (f3 - 6))
  | 2, 0 => some (encI imm6 rd' 1 rd' 0x13)
  | 2, 1 => some (encI (bits c 4 2 * 64 + bits c 12 12 * 32 + bits c 6 5 * 8) 2 3 rd' 0x07)
  | 2, 2 => if rd' = 0 then none else some (encI (bits c 3 2 * 64 + bits c 12 12 * 32 + bits c 6 4 * 4) 2 2 rd' 0x03)
  | 2, 3 => if rd' = 0 then none else some (encI (bits c 4 2 * 64 + bits c 12 12 * 32 + bits c 6 5 * 8) 2 3 rd' 0x03)
  | 2, 4 =>
    if bits c 12 12 = 0 then
      (if rs2 = 0 then (if rd' = 0 then none else some (encI 0 rd' 0 0 0x67)) else some (encR 0 rs2 0 0 rd' 0x33))
    else if rs2 = 0 then (if rd' = 0 then some 0x00100073 else some (encI 0 rd' 0 1 0x67))
    else some (encR 0 rs2 rd' 0 rd' 0x33)
  | 2, 5 => some (encS (bits c 9 7 * 64 + bits c 12 10 * 8) rs2 2 3 0x27)
  | 2, 6 => some (encS (bits c 8 7 * 64 + bits c 12 9 * 4) rs2 2 2 0x23)
  | 2, 7 => some (encS (bits c 9 7 * 64 + bits c 12 10 * 8) rs2 2 3 0x23)
  | _, _ => none

end Sys2Proof.Machine
end

