-- ==== Sys2Proof/Machine/RvVector.lean ====
section
/-! DEFINITION. The vector side of a cove-core thread: the RISC-V V extension 1.0 with VLEN 1024 and ELEN 64 (R50, log 13). -/

namespace Sys2Proof.Machine

/-! ## Vector state -/

/-- A decoded vtype: SEW in bits, LMUL as an exponent, tail and mask agnostic. -/
structure VType where
  sew : Nat
  lm  : Int
  ta  : Bool
  ma  : Bool
  deriving DecidableEq, Repr

/-- LMUL exponent of a vlmul field; 4 is reserved. -/
def lmulExp (f : Nat) : Int := if f < 4 then f else (f : Int) - 8

/-- Registers of a group with this exponent. -/
def groupRegs (lm : Int) : Nat := 2 ^ lm.toNat

/-- VLMAX of a setting (elements of `eew` in a group of exponent `lm`). -/
def elemsIn (eew : Nat) (lm : Int) : Nat := if lm ≥ 0 then 1024 * 2 ^ lm.toNat / eew else 1024 / 2 ^ (-lm).toNat / eew

/-- Decode a vtype value; none when vill is set or the setting is not supported. -/
def vtypeOf (v : Nat) : Option VType :=
  let lm := lmulExp (bits v 2 0)
  let sew := 8 * 2 ^ bits v 5 3
  if 256 ≤ v ∨ 64 < sew ∨ bits v 2 0 = 4 ∨ (lm < 0 ∧ 64 / 2 ^ (-lm).toNat < sew) then none
  else some { sew := sew, lm := lm, ta := bit v 6, ma := bit v 7 }

/-- The thread's vtype. -/
def Thread.vt (t : Thread) : Option VType := vtypeOf (t.rc csrVtype)
/-- vl and vstart. -/
def Thread.vl (t : Thread) : Nat := t.rc csrVl
def Thread.vstart (t : Thread) : Nat := t.rc csrVstart

/-- Element i of width eew of a register group. -/
def vget (t : Thread) (v eew i : Nat) : Nat :=
  let r : BitVec 1024 := Tab.get 0 t.v ((v + i * eew / 1024) % 32)
  r.toNat / 2 ^ (i * eew % 1024) % 2 ^ eew

/-- Write element i of width eew of a register group. -/
def vset (t : Thread) (v eew i x : Nat) : Thread :=
  let n := (v + i * eew / 1024) % 32
  let sh := i * eew % 1024
  let r : BitVec 1024 := Tab.get 0 t.v n
  let old := r.toNat / 2 ^ sh % 2 ^ eew
  { t with v := Tab.set 0 t.v n (BitVec.ofNat 1024 (r.toNat - old * 2 ^ sh + x % 2 ^ eew * 2 ^ sh)) }

/-- Mask bit i: true where the element is active. -/
def active (t : Thread) (vm : Bool) (i : Nat) : Bool := vm || vget t 0 1 i == 1

/-- An agnostic element keeps its value or takes all ones; which is left open by the standard. -/
def agnostic (e : Env) (i eew old : Nat) : Nat := if (Config.riscvFree (e.b.fresh * 64 + i / 64)).getLsbD (i % 64) then 2 ^ eew - 1 else old

/-- The thread with the instruction done: vstart 0. -/
def vDone (t : Thread) : Thread := t.wc csrVstart 0

/-- Write a destination group: active body elements from `f`, inactive and tail elements by policy. -/
def vApply (e : Env) (t : Thread) (ty : VType) (vd eew : Nat) (vm : Bool) (f : Nat → Nat) : Thread :=
  let n := max (elemsIn eew (ty.lm + (Nat.log2 eew : Int) - (Nat.log2 ty.sew : Int))) t.vl
  if t.vl ≤ t.vstart then vDone t
  else vDone ((List.range n).foldl (fun d i =>
    if i < t.vstart then d
    else if i < t.vl then
      (if active t vm i then vset d vd eew i (f i) else if ty.ma then vset d vd eew i (agnostic e i eew (vget t vd eew i)) else d)
    else if ty.ta then vset d vd eew i (agnostic e i eew (vget t vd eew i)) else d) t)

/-- Write a mask destination: its tail is always agnostic. -/
def vApplyMask (e : Env) (t : Thread) (ty : VType) (vd : Nat) (vm : Bool) (f : Nat → Bool) : Thread :=
  if t.vl ≤ t.vstart then vDone t
  else vDone ((List.range 1024).foldl (fun d i =>
    if i < t.vstart then d
    else if i < t.vl then
      (if active t vm i then vset d vd 1 i (if f i then 1 else 0) else if ty.ma then vset d vd 1 i (agnostic e i 1 (vget t vd 1 i)) else d)
    else vset d vd 1 i (agnostic e i 1 (vget t vd 1 i))) t)

/-- Body elements that are active. -/
def vActive (t : Thread) (vm : Bool) : List Nat := (upto t.vstart t.vl).filter (active t vm)

/-- Write element 0 of a destination, the rest of its register as tail. -/
def vScalar (e : Env) (t : Thread) (ty : VType) (vd eew x : Nat) : Thread :=
  if t.vl ≤ t.vstart then vDone t
  else vDone ((List.range (1024 / eew)).foldl (fun d i =>
    if i = 0 then vset d vd eew 0 x else if ty.ta then vset d vd eew i (agnostic e i eew (vget t vd eew i)) else d) t)

/-! ## Legality of groups -/

/-- A register group of exponent `lm` may start at register v. -/
def groupOk (v : Nat) (lm : Int) : Bool := decide (-3 ≤ lm ∧ lm ≤ 3) && v % groupRegs lm == 0

/-- A source group may overlap a destination of another width only at the end the standard names. -/
def overlapOk (vd : Nat) (dl : Int) (vs : Nat) (sl : Int) : Bool :=
  let dn := groupRegs dl
  let sn := groupRegs sl
  decide (vd + dn ≤ vs ∨ vs + sn ≤ vd) || dl == sl || (decide (dl < sl) && vd == vs) || (decide (sl < dl ∧ 0 ≤ sl) && vs + sn == vd + dn)

/-- A masked instruction does not write v0 unless it writes a mask. -/
def maskOk (vm : Bool) (vd : Nat) : Bool := vm || vd != 0

/-! ## Configuration -/

/-- vsetvli, vsetivli and vsetvl. -/
def opVset (t : Thread) (w : Nat) : Option Thread :=
  let rd' := bits w 11 7
  let rs1 := bits w 19 15
  let form := if bits w 31 31 = 0 then some (bits w 30 20, false) else if bits w 31 30 = 3 then some (bits w 29 20, true)
    else if bits w 31 25 = 0x40 then some ((t.rx (bits w 24 20)).toNat, false) else none
  form.map fun (v, imm) =>
    match vtypeOf v with
    | none => ((t.wc csrVtype (2 ^ 63)).wc csrVl 0 |> vDone).wx rd' 0
    | some ty =>
      let mx := elemsIn ty.sew ty.lm
      let avl := if imm then rs1 else if rs1 ≠ 0 then (t.rx rs1).toNat else if rd' ≠ 0 then mx else t.vl
      let vl := min avl mx
      (((t.wc csrVtype v).wc csrVl vl) |> vDone).wx rd' (BitVec.ofNat 64 vl)

/-! ## Loads and stores -/

/-- Element width of a vector memory instruction. -/
def vmemEew (f3 : Nat) : Option Nat := match f3 with | 0 => some 8 | 5 => some 16 | 6 => some 32 | 7 => some 64 | _ => none

/-- Accesses of elements and their registers: (element, field, address). -/
def vmemList (t : Thread) (vm : Bool) (nf n : Nat) (addr : Nat → Nat → Nat) : List (Nat × Nat × Nat) :=
  ((upto t.vstart n).filter (active t vm)).flatMap fun i => (List.range nf).map fun f => (i, f, addr i f)

/-- A vector load or store. -/
def opVmem (e : Env) (t : Thread) (w len : Nat) (store : Bool) : RvOut :=
  let vd := bits w 11 7
  let base := (t.rx (bits w 19 15)).toNat
  let vm := bit w 25
  let nf := bits w 31 29 + 1
  let mop := bits w 27 26
  let um := bits w 24 20
  let nx := fun (t : Thread) => { t with pc := t.pc + BitVec.ofNat 64 len }
  match vmemEew (bits w 14 12) with
  | none => .trap causeIllegal
  | some w8 =>
    if bit w 28 then .trap causeIllegal
    else if mop = 0 ∧ um = 8 then
      -- whole registers
      if !vm || !(nf == 1 || nf == 2 || nf == 4 || nf == 8) || vd % nf != 0 then .trap causeIllegal
      else
        let n := nf * 1024 / w8
        let xs := (upto t.vstart n).map fun i => (i, base + i * w8 / 8)
        if store then .done (nx (vDone t)) [] (xs.map fun (i, a) => (a, leBytes (vget t vd w8 i) (w8 / 8)))
        else .done (nx (vDone (xs.foldl (fun d (i, a) => vset d vd w8 i (e.b.natVa e.sp a (w8 / 8))) t))) (xs.map fun (_, a) => rd a (w8 / 8)) []
    else match t.vt with
    | none => .trap causeIllegal
    | some ty =>
      if mop = 0 ∧ um = 11 then
        if !vm || nf != 1 || w8 != 8 then .trap causeIllegal
        else
          let n := ceilDiv t.vl 8
          let xs := (upto t.vstart n).map fun i => (i, base + i)
          if store then .done (nx (vDone t)) [] (xs.map fun (i, a) => (a, leBytes (vget t vd 8 i) 1))
          else
            let d := xs.foldl (fun d (i, a) => vset d vd 8 i (e.b.natVa e.sp a 1)) t
            let d := (upto n 128).foldl (fun d i => vset d vd 8 i (agnostic e i 8 (vget t vd 8 i))) d
            .done (nx (vDone d)) (xs.map fun (_, a) => rd a 1) []
      else
        let indexed := mop == 1 || mop == 3
        let eew := if indexed then ty.sew else w8
        let lm : Int := if indexed then ty.lm else ty.lm + (Nat.log2 w8 : Int) - (Nat.log2 ty.sew : Int)
        let ilm : Int := ty.lm + (Nat.log2 w8 : Int) - (Nat.log2 ty.sew : Int)
        let per := groupRegs lm
        let ok := groupOk vd lm && decide (nf * per ≤ 8 ∧ vd + nf * per ≤ 32) && (store || maskOk vm vd) &&
          (!indexed || (groupOk um ilm && (store || nf == 1 || decide (vd + nf * per ≤ um ∨ um + groupRegs ilm ≤ vd)) && (store || overlapOk vd lm um ilm))) &&
          (mop != 0 || um == 0 || (um == 16 && !store))
        if !ok then .trap causeIllegal
        else
          let n8 := eew / 8
          let stride := (t.rx um).toNat
          let addr := fun (i f : Nat) =>
            let b0 := if indexed then base + vget t um w8 i else if mop = 2 then base + i * stride else base + i * nf * n8
            (b0 + f * n8) % 2 ^ 64
          let xs := vmemList t vm nf t.vl addr
          let reg := fun f => vd + f * per
          if store then .done (nx (vDone t)) [] (xs.map fun (i, f, a) => (a, leBytes (vget t (reg f) eew i) n8))
          else
            let firstBad := if mop = 0 ∧ um = 16 then xs.find? fun (i, _, a) => decide (0 < i) && (e.b.firstBad e.sp [rd a n8]).isSome else none
            let vl' := match firstBad with | some (i, _, _) => i | none => t.vl
            let t' := if vl' < t.vl then t.wc csrVl vl' else t
            let d := (List.range nf).foldl (fun d f =>
              vApply e { d with csr := t'.csr } ty (reg f) eew vm fun i => e.b.natVa e.sp (addr i f) n8) t'
            .done (nx (vDone d)) ((xs.filter fun (i, _, _) => decide (i < vl')).map fun (_, _, a) => rd a n8) []

/-! ## Integer arithmetic -/

/-- Fixed-point rounding increment of a right shift by d (vxrm). -/
def roundoff (vxrm : Nat) (v : Int) (d : Nat) : Int :=
  let q := v / 2 ^ d
  if d = 0 then v
  else
    let rem := (v % 2 ^ d).toNat
    let half := 2 ^ (d - 1)
    match vxrm with
    | 0 => if half ≤ rem then q + 1 else q
    | 1 => if half < rem ∨ (rem = half ∧ q % 2 ≠ 0) then q + 1 else q
    | 2 => q
    | _ => if rem ≠ 0 ∧ q % 2 = 0 then q + 1 else q

/-- An integer in w bits. -/
def wrapI (w : Nat) (x : Int) : Nat := (x % 2 ^ w).toNat

/-- Clamp to signed or unsigned w bits: the word, and whether it saturated. -/
def clampI (w : Nat) (uns : Bool) (x : Int) : Nat × Bool :=
  let lo : Int := if uns then 0 else -(2 ^ (w - 1))
  let hi : Int := if uns then 2 ^ w - 1 else 2 ^ (w - 1) - 1
  if x < lo then (wrapI w lo, true) else if hi < x then (wrapI w hi, true) else (wrapI w x, false)

/-- OPI single-width operations on vs2 element a and operand b: the result and whether it saturated. -/
def opiElem (t : Thread) (f6 w a b : Nat) : Option (Nat × Bool) :=
  let sa := signed w a
  let sb := signed w b
  let sh := b % w
  let rm := t.rc csrVxrm
  let p := fun (x : Nat) => some (x % 2 ^ w, false)
  match f6 with
  | 0x00 => p (a + b)
  | 0x02 => p (a + 2 ^ w - b)
  | 0x03 => p (b + 2 ^ w - a)
  | 0x04 => p (min a b)
  | 0x05 => p (if sa ≤ sb then a else b)
  | 0x06 => p (max a b)
  | 0x07 => p (if sa ≤ sb then b else a)
  | 0x09 => p (a &&& b)
  | 0x0A => p (a ||| b)
  | 0x0B => p (a ^^^ b)
  | 0x20 => some (clampI w true (a + b))
  | 0x21 => some (clampI w false (sa + sb))
  | 0x22 => some (clampI w true ((a : Int) - b))
  | 0x23 => some (clampI w false (sa - sb))
  | 0x25 => p (a * 2 ^ sh)
  | 0x27 => some (clampI w false (roundoff rm (sa * sb) (w - 1)))
  | 0x28 => p (a / 2 ^ sh)
  | 0x29 => p (wrapI w (sa / 2 ^ sh))
  | 0x2A => p (wrapI w (roundoff rm a sh))
  | 0x2B => p (wrapI w (roundoff rm sa sh))
  | _ => none

/-- OPI comparisons. -/
def opiCmp (f6 w a b : Nat) : Option Bool :=
  let sa := signed w a
  let sb := signed w b
  match f6 with
  | 0x18 => some (a == b)
  | 0x19 => some (a != b)
  | 0x1A => some (decide (a < b))
  | 0x1B => some (decide (sa < sb))
  | 0x1C => some (decide (a ≤ b))
  | 0x1D => some (decide (sa ≤ sb))
  | 0x1E => some (decide (b < a))
  | 0x1F => some (decide (sb < sa))
  | _ => none

/-- Set vxsat where any active element saturated. -/
def satFlag (t src : Thread) (vm : Bool) (f : Nat → Bool) : Thread := if (vActive src vm).any f then t.wc csrVxsat 1 else t

/-- OPIVV, OPIVX and OPIVI: `opb i` is the second operand, `form` 0 vector, 1 scalar, 2 immediate. -/
def opi (e : Env) (t : Thread) (w form : Nat) (ty : VType) : Option Thread :=
  let f6 := bits w 31 26
  let vm := bit w 25
  let vs2 := bits w 24 20
  let vs1 := bits w 19 15
  let vd := bits w 11 7
  let sw := ty.sew
  let imm := if f6 = 0x25 ∨ f6 = 0x28 ∨ f6 = 0x29 ∨ f6 = 0x2A ∨ f6 = 0x2B ∨ (0x2C ≤ f6) ∨ f6 = 0x0C ∨ f6 = 0x0E ∨ f6 = 0x0F then vs1 else sx 5 64 vs1
  let scalar := if form = 1 then (t.rx vs1).toNat else imm
  let opb := fun i => if form = 0 then vget t vs1 sw i else scalar % 2 ^ sw
  let a := fun i => vget t vs2 sw i
  let grp := groupOk vs2 ty.lm && (form != 0 || groupOk vs1 ty.lm)
  let dst := groupOk vd ty.lm && maskOk vm vd
  let mdst := overlapOk vd 0 vs2 ty.lm && (form != 0 || overlapOk vd 0 vs1 ty.lm)
  let mx := elemsIn sw ty.lm
  match f6 with
  | 0x0C =>
    if form = 0 then (if grp && dst && vd != vs2 && vd != vs1 then some (vApply e t ty vd sw vm fun i => if opb i < mx then vget t vs2 sw (opb i) else 0) else none)
    else if groupOk vs2 ty.lm && dst && vd != vs2 then some (vApply e t ty vd sw vm fun _ => if scalar < mx then vget t vs2 sw scalar else 0) else none
  | 0x0E =>
    if form = 0 then
      let il : Int := ty.lm + 4 - (Nat.log2 sw : Int)
      if groupOk vs2 ty.lm && groupOk vs1 il && dst && vd != vs2 && overlapOk vd ty.lm vs1 il then
        some (vApply e t ty vd sw vm fun i => let j := vget t vs1 16 i; if j < mx then vget t vs2 sw j else 0) else none
    else if groupOk vs2 ty.lm && dst && vd != vs2 then some (vApply e t ty vd sw vm fun i => if i < scalar then vget t vd sw i else vget t vs2 sw (i - scalar)) else none
  | 0x0F => if form ≠ 0 && groupOk vs2 ty.lm && dst then some (vApply e t ty vd sw vm fun i => if i + scalar < mx then vget t vs2 sw (i + scalar) else 0) else none
  | 0x10 => if grp && groupOk vd ty.lm && !vm && vd != 0 then some (vApply e t ty vd sw true fun i => a i + opb i + vget t 0 1 i) else none
  | 0x12 => if grp && groupOk vd ty.lm && !vm && vd != 0 && form != 2 then some (vApply e t ty vd sw true fun i => a i + 2 ^ (sw + 1) - opb i - vget t 0 1 i) else none
  | 0x11 => if grp && mdst then some (vApplyMask e t ty vd true fun i => decide (2 ^ sw ≤ a i + opb i + (if vm then 0 else vget t 0 1 i))) else none
  | 0x13 => if grp && mdst && form != 2 then some (vApplyMask e t ty vd true fun i => decide (a i < opb i + (if vm then 0 else vget t 0 1 i))) else none
  | 0x17 =>
    if vm then (if vs2 = 0 && groupOk vd ty.lm && (form != 0 || groupOk vs1 ty.lm) then some (vApply e t ty vd sw true opb) else none)
    else if grp && groupOk vd ty.lm && vd != 0 then some (vApply e t ty vd sw true fun i => if vget t 0 1 i = 1 then opb i else a i) else none
  | 0x27 =>
    if form = 2 then
      let n := vs1 + 1
      if vm && (n == 1 || n == 2 || n == 4 || n == 8) && vd % n == 0 && vs2 % n == 0 then
        some (vDone ((upto t.vstart (n * 1024 / sw)).foldl (fun d i => vset d vd sw i (vget t vs2 sw i)) t)) else none
    else if grp && dst then
      let f := fun i => (opiElem t f6 sw (a i) (opb i)).getD (0, false)
      some (satFlag (vApply e t ty vd sw vm fun i => (f i).1) t vm fun i => (f i).2)
    else none
  | 0x2C | 0x2D | 0x2E | 0x2F =>
    if 64 < 2 * sw then none
    else if groupOk vs2 (ty.lm + 1) && (form != 0 || groupOk vs1 ty.lm) && dst && overlapOk vd ty.lm vs2 (ty.lm + 1) then
      let w2 := 2 * sw
      let x := fun i => vget t vs2 w2 i
      let sh := fun i => (if form = 0 then vget t vs1 sw i else scalar) % w2
      let rm := t.rc csrVxrm
      let f := fun i => match f6 with
        | 0x2C => (x i / 2 ^ sh i, false)
        | 0x2D => (wrapI sw (signed w2 (x i) / 2 ^ sh i), false)
        | 0x2E => clampI sw true (roundoff rm (x i) (sh i))
        | _ => clampI sw false (roundoff rm (signed w2 (x i)) (sh i))
      some (satFlag (vApply e t ty vd sw vm fun i => (f i).1) t vm fun i => (f i).2)
    else none
  | 0x30 | 0x31 =>
    if form ≠ 0 ∨ 64 < 2 * sw ∨ t.vstart ≠ 0 then none
    else if groupOk vs2 ty.lm then
      let ext := fun (x : Nat) => if f6 = 0x30 then (x : Int) else signed sw x
      let s := (vActive t vm).foldl (fun acc i => acc + ext (a i)) (vget t vs1 (2 * sw) 0 : Int)
      some (vScalar e t ty vd (2 * sw) (wrapI (2 * sw) s))
    else none
  | _ =>
    if 0x18 ≤ f6 ∧ f6 ≤ 0x1F then
      if !grp || !mdst || (form = 0 && 0x1E ≤ f6) || (form = 2 && (f6 = 0x1A || f6 = 0x1B)) then none
      else some (vApplyMask e t ty vd vm fun i => (opiCmp f6 sw (a i) (opb i)).getD false)
    else if !grp || !dst || (f6 = 0x03 && form = 0) || (form = 2 && (f6 = 0x02 || (0x04 ≤ f6 && f6 ≤ 0x07) || f6 = 0x22 || f6 = 0x23)) then none
    else if (opiElem t f6 sw 0 0).isNone then none
    else
      let f := fun i => (opiElem t f6 sw (a i) (opb i)).getD (0, false)
      some (satFlag (vApply e t ty vd sw vm fun i => (f i).1) t vm fun i => (f i).2)

/-! ## Multiply, divide, widen, reduce, mask -/

/-- Single-width OPM operations with vd as third operand c. -/
def opmElem (t : Thread) (f6 w a b c : Nat) : Option Nat :=
  let sa := signed w a
  let sb := signed w b
  let rm := t.rc csrVxrm
  match f6 with
  | 0x08 => some (wrapI w (roundoff rm ((a + b : Nat) : Int) 1))
  | 0x09 => some (wrapI w (roundoff rm (sa + sb) 1))
  | 0x0A => some (wrapI w (roundoff rm ((a : Int) - b) 1))
  | 0x0B => some (wrapI w (roundoff rm (sa - sb) 1))
  | 0x20 => some (mulDiv w 5 a b)
  | 0x21 => some (mulDiv w 4 a b)
  | 0x22 => some (mulDiv w 7 a b)
  | 0x23 => some (mulDiv w 6 a b)
  | 0x24 => some (mulDiv w 3 a b)
  | 0x25 => some (mulDiv w 0 a b)
  | 0x26 => some (mulDiv w 2 a b)
  | 0x27 => some (mulDiv w 1 a b)
  | 0x29 => some ((b * c + a) % 2 ^ w)
  | 0x2B => some (wrapI w ((a : Int) - (b * c : Nat)))
  | 0x2D => some ((a * b + c) % 2 ^ w)
  | 0x2F => some (wrapI w ((c : Int) - (a * b : Nat)))
  | _ => none

/-- Widening OPM operations: a from vs2 (already wide for the .w forms), b second operand, c old vd. -/
def opmWide (f6 w a b c : Nat) : Option Nat :=
  let w2 := 2 * w
  let sa := signed w a
  let sb := signed w b
  let s2 := signed w2 a
  match f6 with
  | 0x30 => some (a + b)
  | 0x31 => some (wrapI w2 (sa + sb))
  | 0x32 => some (wrapI w2 ((a : Int) - b))
  | 0x33 => some (wrapI w2 (sa - sb))
  | 0x34 => some ((a + b) % 2 ^ w2)
  | 0x35 => some (wrapI w2 (s2 + sb))
  | 0x36 => some (wrapI w2 ((a : Int) - b))
  | 0x37 => some (wrapI w2 (s2 - sb))
  | 0x38 => some (a * b)
  | 0x3A => some (wrapI w2 (sa * b))
  | 0x3B => some (wrapI w2 (sa * sb))
  | 0x3C => some ((a * b + c) % 2 ^ w2)
  | 0x3D => some (wrapI w2 (sa * sb + c))
  | 0x3E => some (wrapI w2 (sa * b + c))
  | 0x3F => some (wrapI w2 ((a : Int) * sb + c))
  | _ => none

/-- Integer reduction step. -/
def redStep (f6 w x y : Nat) : Nat :=
  match f6 with
  | 0 => (x + y) % 2 ^ w
  | 1 => x &&& y
  | 2 => x ||| y
  | 3 => x ^^^ y
  | 4 => min x y
  | 5 => if signed w x ≤ signed w y then x else y
  | 6 => max x y
  | _ => if signed w x ≤ signed w y then y else x

/-- Mask-register logic. -/
def maskLogic (f6 : Nat) (a b : Bool) : Bool :=
  match f6 with
  | 0x18 => a && !b
  | 0x19 => a && b
  | 0x1A => a || b
  | 0x1B => a != b
  | 0x1C => a || !b
  | 0x1D => !(a && b)
  | 0x1E => !(a || b)
  | _ => a == b

/-- OPMVV (form 0) and OPMVX (form 1). -/
def opm (e : Env) (t : Thread) (w form : Nat) (ty : VType) : Option Thread :=
  let f6 := bits w 31 26
  let vm := bit w 25
  let vs2 := bits w 24 20
  let vs1 := bits w 19 15
  let vd := bits w 11 7
  let sw := ty.sew
  let opb := fun i => if form = 0 then vget t vs1 sw i else (t.rx vs1).toNat % 2 ^ sw
  let a := fun i => vget t vs2 sw i
  let grp := groupOk vs2 ty.lm && (form != 0 || groupOk vs1 ty.lm)
  let dst := groupOk vd ty.lm && maskOk vm vd
  let mb := fun v i => vget t v 1 i == 1
  if f6 < 8 then
    if form = 0 && groupOk vs2 ty.lm && t.vstart == 0 then
      some (vScalar e t ty vd sw ((vActive t vm).foldl (fun x i => redStep f6 sw x (a i)) (vget t vs1 sw 0))) else none
  else if 0x18 ≤ f6 ∧ f6 ≤ 0x1F then
    if form = 0 && vm then some (vApplyMask e t ty vd true fun i => maskLogic f6 (mb vs2 i) (mb vs1 i)) else none
  else match f6 with
  | 0x0E => if form = 1 && grp && dst && vd != vs2 then some (vApply e t ty vd sw vm fun i => if i = 0 then opb 0 else a (i - 1)) else none
  | 0x0F => if form = 1 && grp && dst then some (vApply e t ty vd sw vm fun i => if i + 1 = t.vl then opb 0 else a (i + 1)) else none
  | 0x10 =>
    if form = 1 then (if vm && vs2 = 0 then some (vScalar e t ty vd sw (opb 0)) else none)
    else match vs1 with
    | 0 => if vm then some ((vDone t).wx vd (sext sw (vget t vs2 sw 0))) else none
    | 16 => if t.vstart = 0 then some ((vDone t).wx vd (BitVec.ofNat 64 (countIf (mb vs2) (vActive t vm)))) else none
    | 17 => if t.vstart = 0 then some ((vDone t).wx vd (match (vActive t vm).find? (mb vs2) with | some i => BitVec.ofNat 64 i | none => -1)) else none
    | _ => none
  | 0x12 =>
    if form ≠ 0 then none
    else
      let d := match vs1 with | 2 | 3 => 8 | 4 | 5 => 4 | 6 | 7 => 2 | _ => 0
      if d = 0 ∨ sw < 8 * d then none
      else
        let sl : Int := ty.lm - Nat.log2 d
        if groupOk vs2 sl && dst && overlapOk vd ty.lm vs2 sl then
          some (vApply e t ty vd sw vm fun i => let x := vget t vs2 (sw / d) i; if vs1 % 2 = 1 then wrapI sw (signed (sw / d) x) else x) else none
  | 0x14 =>
    if form ≠ 0 then none
    else match vs1 with
    | 1 | 2 | 3 =>
      if t.vstart = 0 && maskOk vm vd && vd != vs2 then
        let first := (vActive t vm).find? (mb vs2)
        some (vApplyMask e t ty vd vm fun i => match first with
          | none => vs1 != 2
          | some k => match vs1 with | 1 => decide (i < k) | 2 => i == k | _ => decide (i ≤ k)) else none
    | 16 =>
      if t.vstart = 0 && groupOk vd ty.lm && maskOk vm vd && overlapOk vd ty.lm vs2 0 then
        some (vApply e t ty vd sw vm fun i => countIf (fun j => decide (j < i) && mb vs2 j) (vActive t vm)) else none
    | 17 => if vs2 = 0 && groupOk vd ty.lm && maskOk vm vd then some (vApply e t ty vd sw vm id) else none
    | _ => none
  | 0x17 =>
    if form = 0 && vm && t.vstart == 0 && groupOk vs2 ty.lm && groupOk vd ty.lm && vd != vs2 then
      let sel := (List.range t.vl).filter (mb vs1)
      some (vDone ((List.range (elemsIn sw ty.lm)).foldl (fun d i =>
        match sel[i]? with
        | some j => vset d vd sw i (a j)
        | none => if ty.ta then vset d vd sw i (agnostic e i sw (vget t vd sw i)) else d) t)) else none
  | _ =>
    if 0x30 ≤ f6 then
      let wide := decide (0x34 ≤ f6 ∧ f6 ≤ 0x37)
      let sl : Int := if wide then ty.lm + 1 else ty.lm
      if 64 < 2 * sw || (opmWide f6 sw 0 0 0).isNone || (f6 == 0x3E && form == 0) then none
      else if groupOk vs2 sl && (form != 0 || groupOk vs1 ty.lm) && groupOk vd (ty.lm + 1) && maskOk vm vd && overlapOk vd (ty.lm + 1) vs2 sl &&
          (form != 0 || overlapOk vd (ty.lm + 1) vs1 ty.lm) then
        some (vApply e t ty vd (2 * sw) vm fun i => (opmWide f6 sw (vget t vs2 (if wide then 2 * sw else sw) i) (opb i) (vget t vd (2 * sw) i)).getD 0) else none
    else if (opmElem t f6 sw 0 1 0).isNone || !grp || !dst then none
    else some (vApply e t ty vd sw vm fun i => (opmElem t f6 sw (a i) (opb i) (vget t vd sw i)).getD 0)

/-! ## Vector floating point -/

/-- Format of a vector element width. -/
def vfFmt (w : Nat) : Option Fmt := if w = 32 then some (fmtOf 0) else if w = 64 then some fmt64 else none

/-- Reciprocal and reciprocal square-root estimates to 7 bits. -/
def recip7 (s : Nat) : Nat := (65536 * 2 / (257 + 2 * s - 0) + 1) / 2 - 128
/-- Estimate of 1/sqrt by the low exponent bit and the top six significand bits. -/
def rsqrt7 (odd : Bool) (s : Nat) : Nat :=
  let num := 65536 * 128 * 4
  let den := (129 + 2 * s) * (if odd then 1 else 2)
  (Nat.sqrt (num / den) + 1) / 2 - 128

/-- vfrec7. -/
def vfrec7 (f : Fmt) (rm : Rm) (a : Nat) : Nat × Nat :=
  let n := a / 2 ^ (f.ebits + f.mbits) % 2 == 1
  match f.decode a with
  | .nan => (f.nanWord, if isSnan f a then fNV else 0)
  | .inf n => (f.sign n, 0)
  | .fin _ m e =>
    if m = 0 then (f.infWord n, fDZ)
    else
      let l := bitLen m
      let ex : Int := e + l - 1 + f.bias
      if ex < -1 then
        let toMax := match rm with | .rtz => true | .rdn => !n | .rup => n | _ => false
        ((if toMax then f.sign n + f.maxWord else f.infWord n), 5)
      else
        let frac := m * 2 ^ (f.mbits + 1 - l) % 2 ^ f.mbits
        let r := recip7 (frac / 2 ^ (f.mbits - 7))
        let oe : Int := 2 * f.bias - 1 - ex
        let mant := r * 2 ^ (f.mbits - 7)
        if oe ≥ 1 then (f.sign n + oe.toNat * 2 ^ f.mbits + mant, 0)
        else (f.sign n + (2 ^ f.mbits + mant) / 2 ^ (1 - oe).toNat, 0)

/-- vfrsqrt7. -/
def vfrsqrt7 (f : Fmt) (a : Nat) : Nat × Nat :=
  match f.decode a with
  | .nan => (f.nanWord, if isSnan f a then fNV else 0)
  | .inf n => if n then (f.nanWord, fNV) else (0, 0)
  | .fin n m e =>
    if m = 0 then (f.infWord n, fDZ)
    else if n then (f.nanWord, fNV)
    else
      let l := bitLen m
      let ex : Int := e + l - 1 + f.bias
      let frac := m * 2 ^ (f.mbits + 1 - l) % 2 ^ f.mbits
      let r := rsqrt7 (ex % 2 != 0) (frac / 2 ^ (f.mbits - 6))
      let oe : Int := (3 * f.bias - 1 - ex) / 2
      (oe.toNat * 2 ^ f.mbits + r * 2 ^ (f.mbits - 7), 0)

/-- Two-operand vector arithmetic on vs2 element a and operand b. -/
def opfElem (f : Fmt) (rm : Rm) (f6 a b : Nat) : Option (Nat × Nat) :=
  let s := 2 ^ (f.width - 1)
  match f6 with
  | 0x00 => some (fpArith f rm 0 a b)
  | 0x02 => some (fpArith f rm 1 a b)
  | 0x04 => some (fpMinMax f 0 a b)
  | 0x06 => some (fpMinMax f 1 a b)
  | 0x08 => some (a % s + b / s * s, 0)
  | 0x09 => some (a % s + (1 - b / s) * s, 0)
  | 0x0A => some (a % s + (a / s + b / s) % 2 * s, 0)
  | 0x20 => some (fpArith f rm 3 a b)
  | 0x21 => some (fpArith f rm 3 b a)
  | 0x24 => some (fpArith f rm 2 a b)
  | 0x27 => some (fpArith f rm 1 b a)
  | _ => none

/-- Fused multiply-adds: a from vs2, b second operand, c old vd. -/
def opfFma (f : Fmt) (rm : Rm) (f6 a b c : Nat) : Option (Nat × Nat) :=
  match f6 with
  | 0x28 => some (fpFma f rm false false b c a)
  | 0x29 => some (fpFma f rm true true b c a)
  | 0x2A => some (fpFma f rm false true b c a)
  | 0x2B => some (fpFma f rm true false b c a)
  | 0x2C => some (fpFma f rm false false b a c)
  | 0x2D => some (fpFma f rm true true b a c)
  | 0x2E => some (fpFma f rm false true b a c)
  | 0x2F => some (fpFma f rm true false b a c)
  | _ => none

/-- Comparisons of OPF. -/
def opfCmp (f : Fmt) (f6 a b : Nat) : Option (Bool × Nat) :=
  match f6 with
  | 0x18 => some (fpCmp f 2 a b)
  | 0x19 => some (fpCmp f 0 a b)
  | 0x1B => some (fpCmp f 1 a b)
  | 0x1C => some (let (r, fl) := fpCmp f 2 a b; (!r, fl))
  | 0x1D => some (fpCmp f 1 b a)
  | 0x1F => some (fpCmp f 0 b a)
  | _ => none

/-- Widen a word of a single to a double. -/
def widenF (w : Nat) : Nat := (roundWord fmt64 .rne ((fmtOf 0).decode w)).1

/-- Round to odd for vfncvt.rod. -/
def roundOdd (g f : Fmt) (x : Nat) : Nat × Nat :=
  let (w, fl) := roundWord g .rtz (f.decode x)
  (if fl % 2 = 1 then w ||| 1 else w, fl)

/-- Conversions of VFUNARY0: (destination width, source width, function on a word), by vs1. -/
def vfCvt (rm : Rm) (sw vs1 : Nat) : Option (Nat × Nat × (Nat → Nat × Nat)) := do
  let k := vs1 / 8
  let j := vs1 % 8
  let (dw, sw') := if k = 0 then (sw, sw) else if k = 1 then (2 * sw, sw) else (sw, 2 * sw)
  let toI := fun (m : Rm) (u : Bool) => do let f ← vfFmt sw'; some (dw, sw', fun x => fpToInt m dw u (f.decode x))
  let toF := fun (u : Bool) => do let g ← vfFmt dw; some (dw, sw', fun x => roundWord g rm (intVal (if u then (x : Int) else signed sw' x)))
  match j with
  | 0 => toI rm true
  | 1 => toI rm false
  | 6 => toI .rtz true
  | 7 => toI .rtz false
  | 2 => toF true
  | 3 => toF false
  | 4 => if k = 0 then none else do
      let f ← vfFmt sw'
      let g ← vfFmt dw
      some (dw, sw', fun x => let (r, fl) := roundWord g rm (f.decode x); (r, fl ||| (if isSnan f x then fNV else 0)))
  | 5 => if k ≠ 2 then none else do
      let f ← vfFmt sw'
      let g ← vfFmt dw
      some (dw, sw', fun x => let (r, fl) := roundOdd g f x; (r, fl ||| (if isSnan f x then fNV else 0)))
  | _ => none

/-- Apply a function with flags to the active elements. -/
def vApplyF (e : Env) (t : Thread) (ty : VType) (vd eew : Nat) (vm : Bool) (f : Nat → Nat × Nat) : Thread :=
  (vApply e t ty vd eew vm fun i => (f i).1).flags ((vActive t vm).foldl (fun a i => a ||| (f i).2) 0)

/-- OPFVV (form 0) and OPFVF (form 1). -/
def opf (e : Env) (t : Thread) (w form : Nat) (ty : VType) : Option Thread := do
  let f6 := bits w 31 26
  let vm := bit w 25
  let vs2 := bits w 24 20
  let vs1 := bits w 19 15
  let vd := bits w 11 7
  let sw := ty.sew
  let rm ← rmOf t 7
  let conv := form == 0 && f6 == 0x12
  let f := if conv then some (fmtOf 0) else vfFmt sw
  let f ← f
  let opb := fun i => if form = 0 then vget t vs1 sw i else unbox f (t.rf vs1)
  let a := fun i => vget t vs2 sw i
  let grp := groupOk vs2 ty.lm && (form != 0 || groupOk vs1 ty.lm)
  let dst := groupOk vd ty.lm && maskOk vm vd
  let red := fun (g : Fmt) (w2 : Nat) (step : Nat → Nat → Nat × Nat) (elem : Nat → Nat) =>
    let (r, fl) := (vActive t vm).foldl (fun (x, fl) i => let (y, g') := step x (elem i); (y, fl ||| g')) (vget t vs1 w2 0, 0)
    let _ := g
    (vScalar e t ty vd w2 r).flags fl
  match f6 with
  | 0x01 | 0x03 => if form = 0 && groupOk vs2 ty.lm && t.vstart == 0 then some (red f sw (fun x y => fpArith f rm 0 x y) a) else none
  | 0x05 | 0x07 => if form = 0 && groupOk vs2 ty.lm && t.vstart == 0 then some (red f sw (fun x y => fpMinMax f (if f6 = 5 then 0 else 1) x y) a) else none
  | 0x31 | 0x33 =>
    if form = 0 && sw = 32 && groupOk vs2 ty.lm && t.vstart == 0 then some (red fmt64 64 (fun x y => fpArith fmt64 rm 0 x y) fun i => widenF (a i)) else none
  | 0x0E => if form = 1 && grp && dst && vd != vs2 then some (vApply e t ty vd sw vm fun i => if i = 0 then opb 0 else a (i - 1)) else none
  | 0x0F => if form = 1 && grp && dst then some (vApply e t ty vd sw vm fun i => if i + 1 = t.vl then opb 0 else a (i + 1)) else none
  | 0x10 =>
    if form = 1 then (if vm && vs2 = 0 then some (vScalar e t ty vd sw (opb 0)) else none)
    else if vm && vs1 = 0 then some ((vDone t).wf vd (box f (vget t vs2 sw 0))) else none
  | 0x12 => do
    if form ≠ 0 then none
    let (dw, sw', fn) ← vfCvt rm sw vs1
    let sl : Int := if sw < sw' then ty.lm + 1 else ty.lm
    let dl : Int := if sw < dw then ty.lm + 1 else ty.lm
    if 64 < dw ∨ 64 < sw' then none
    else if groupOk vs2 sl && groupOk vd dl && maskOk vm vd && overlapOk vd dl vs2 sl then
      some (vApplyF e t ty vd dw vm fun i => fn (vget t vs2 sw' i)) else none
  | 0x13 =>
    if form ≠ 0 || !groupOk vs2 ty.lm || !dst then none
    else match vs1 with
    | 0 => some (vApplyF e t ty vd sw vm fun i => fpSqrt f rm (a i))
    | 4 => some (vApplyF e t ty vd sw vm fun i => vfrsqrt7 f (a i))
    | 5 => some (vApplyF e t ty vd sw vm fun i => vfrec7 f rm (a i))
    | 16 => some (vApply e t ty vd sw vm fun i => fpClass f (a i))
    | _ => none
  | 0x17 =>
    if form ≠ 1 then none
    else if vm then (if vs2 = 0 && groupOk vd ty.lm then some (vApply e t ty vd sw true opb) else none)
    else if grp && groupOk vd ty.lm && vd != 0 then some (vApply e t ty vd sw true fun i => if vget t 0 1 i = 1 then opb i else a i) else none
  | _ =>
    if 0x18 ≤ f6 ∧ f6 ≤ 0x1F then
      if (opfCmp f f6 0 0).isNone || (form = 0 && 0x1D ≤ f6) || !grp || !overlapOk vd 0 vs2 ty.lm || (form = 0 && !overlapOk vd 0 vs1 ty.lm) then none
      else
        let g := fun i => (opfCmp f f6 (a i) (opb i)).getD (false, 0)
        some ((vApplyMask e t ty vd vm fun i => (g i).1).flags ((vActive t vm).foldl (fun x i => x ||| (g i).2) 0))
    else if 0x30 ≤ f6 then
      if sw ≠ 32 then none
      else
        let wide := f6 == 0x34 || f6 == 0x36
        let sl : Int := if wide then ty.lm + 1 else ty.lm
        let x := fun i => if wide then vget t vs2 64 i else widenF (a i)
        let y := fun i => widenF (opb i)
        let nan := fun i => if (!wide && isSnan f (a i)) || isSnan f (opb i) then fNV else 0
        let op := fun i => match f6 with
          | 0x30 | 0x34 => some (fpArith fmt64 rm 0 (x i) (y i))
          | 0x32 | 0x36 => some (fpArith fmt64 rm 1 (x i) (y i))
          | 0x38 => some (fpArith fmt64 rm 2 (x i) (y i))
          | 0x3C | 0x3D | 0x3E | 0x3F => opfFma fmt64 rm (f6 - 0x10) (x i) (y i) (vget t vd 64 i)
          | _ => none
        if (op 0).isNone then none
        else if groupOk vs2 sl && (form != 0 || groupOk vs1 ty.lm) && groupOk vd (ty.lm + 1) && maskOk vm vd && overlapOk vd (ty.lm + 1) vs2 sl &&
            (form != 0 || overlapOk vd (ty.lm + 1) vs1 ty.lm) then
          some (vApplyF e t ty vd 64 vm fun i => let (r, fl) := (op i).getD (0, 0); (r, fl ||| nan i)) else none
    else if 0x28 ≤ f6 then
      if grp && dst then some (vApplyF e t ty vd sw vm fun i => (opfFma f rm f6 (a i) (opb i) (vget t vd sw i)).getD (0, 0)) else none
    else if (opfElem f rm f6 0 0).isNone || !grp || !dst || (form = 0 && (f6 = 0x21 || f6 = 0x27)) then none
    else some (vApplyF e t ty vd sw vm fun i => (opfElem f rm f6 (a i) (opb i)).getD (0, 0))

/-- OP-V (0x57): the thread after it, or none when illegal. -/
def opV (e : Env) (t : Thread) (w : Nat) : Option Thread :=
  if bits w 14 12 = 7 then opVset t w
  else if bits w 31 26 = 0x27 ∧ bits w 14 12 = 3 then opi e t w 2 ((t.vt).getD { sew := 8, lm := 0, ta := false, ma := false })
  else t.vt.bind fun ty =>
    match bits w 14 12 with
    | 0 => opi e t w 0 ty
    | 3 => opi e t w 2 ty
    | 4 => opi e t w 1 ty
    | 2 => opm e t w 0 ty
    | 6 => opm e t w 1 ty
    | 1 => opf e t w 0 ty
    | _ => opf e t w 1 ty

/-- Any 32-bit instruction of RV64GCV but ECALL. -/
def rvAny (e : Env) (t : Thread) (w len : Nat) : RvOut :=
  let f3 := bits w 14 12
  let op := bits w 6 0
  if op = 0x57 then (match opV e t w with | none => .trap causeIllegal | some t' => t'.next len)
  else if op = 0x07 ∧ (f3 = 0 ∨ 5 ≤ f3) then opVmem e t w len false
  else if op = 0x27 ∧ (f3 = 0 ∨ 5 ≤ f3) then opVmem e t w len true
  else rv32 e t w len

end Sys2Proof.Machine
end

