-- ==== Sys2Proof/Machine/Kernel.lean ====
section
/-! DEFINITION. KERNEL operations and the threads of a cove core: starting, fetching, faults, exceptions, ECALL and the custom
instructions (R50 to R54, R95, R96, R281 to R284, R296, R297). -/

namespace Sys2Proof.Machine

/-! ## Starting (R95) -/

/-- vtype with vill set. -/
def vill : BitVec 64 := 0x8000000000000000

/-- Thread t of a KERNEL at its start (R95), with the machine CSRs the hardware thread has. -/
def startThread (x : Ctx) (n t : Nat) (mcsr : Tab (BitVec 64)) : Thread :=
  let r := x.record
  let w := fun (v : Nat) => BitVec.ofNat 64 v
  let args := (List.range 6).map fun i => (10 + i, w (u64 r (128 + 8 * i)))
  let regs := args ++ [(16, w (x.m + x.n * 2 ^ 20 + x.k * 2 ^ 40)), (17, w x.op), (2, w (u64 r 120 + (t + 1) * u32 r 116))]
  { Thread.idle with
    state := .running, ctx := n, pc := w (u64 r 104), csr := [(csrVtype, vill)], mcsr := mcsr, user := true,
    x := regs.foldl (fun tab e => Tab.set 0 tab e.1 e.2) [] }

/-- KERNEL: the instance starts its threads when its cove's core is free (R95). -/
def kernelAct (cove n : Nat) : Act :=
  runInstance cove n opKernel (fun _ _ => (false, false, false)) (fun _ => false) fun x =>
    .look fun b => Act.when (!x.begun && (b.ctl.cove cove).coreFree) <|
      (Act.upd fun c => c.setCove cove fun v =>
        (List.range (u8 x.record 112)).foldl (fun v t => v.setThread t (startThread x n t (v.thread t).mcsr)) v).seq <|
      (Act.each [0, 1, 2, 3] fun t => .one (.reserve cove t none)).seq
      (updCtx cove n fun y => { y with begun := true })

/-! ## A thread's step -/

/-- A thread's trap into machine mode: mepc and mcause are written (R50, log 61). -/
def Thread.enterMachine (t : Thread) (cause : Nat) : Thread :=
  { t with user := false, mcsr := Tab.set 0 (Tab.set 0 t.mcsr 0x341 t.pc) 0x342 (BitVec.ofNat 64 cause) }

/-- An exception that R54 ends the KERNEL with. -/
def threadTrap (cove th : Nat) (t : Thread) (cause : Nat) : Act :=
  (updThread cove th fun u => u.enterMachine cause).seq (endPoisoned cove t.ctx t.pc.toNat cause th)

/-- What a thread's access that does not translate does: a page fault halts the thread (R53), an access error is an exception
(R54) with the given cause. -/
def threadBad (cove th : Nat) (t : Thread) (second : Bool) (va : Nat) (write : Bool) (cause : Nat) : Xlate → Act
  | .accessError => threadTrap cove th t cause
  | .deviceFault => moduleFault va
  | _ => raiseFault (.thread cove th) va write second fun _ => updThread cove th fun u => { u with state := .faulted }

/-- The environment of a thread. -/
def Block.env (b : Block) (cove th : Nat) (second : Bool) : Env := { b := b, sp := b.ctl.space cove second, cove := cove, th := th }

/-- The line of an instruction enters the core's instruction cache of 16 KiB: 256 lines of 64 bytes (R228; log 67). -/
def fetchLine (cove : Nat) (second : Bool) (pc : Nat) : Act :=
  .upd fun c => c.setCove cove fun v => { v with icache := useFirst 256 (second, pc / 64) v.icache }

/-- Fetch the instruction at a running thread's pc: 2 bytes, or 4 where the low two bits are 11 (R50). -/
def fetchThen (cove th : Nat) (k : Block → Thread → Ctx → Nat → Nat → Act) : Act :=
  .look fun b =>
    let t := (b.ctl.cove cove).thread th
    Act.opt ((b.ctl.cove cove).ctx t.ctx) fun x => Act.when (t.state == .running) <|
      let sp := b.ctl.space cove x.second
      let pc := t.pc.toNat
      let get := fun (len : Nat) (go : Act) =>
        match b.firstBad sp [rd pc len] with
        | some (va, _, bad) => threadBad cove th t x.second va false causeFetch bad
        | none => go
      get 2 <| (fetchLine cove x.second pc).seq <|
        let h := b.natVa sp pc 2
        if h % 4 = 3 then get 4 ((touch cove x.second [rd pc 4]).seq (.look fun b => k b t x (b.natVa sp pc 4) 4))
        else (touch cove x.second [rd pc 2]).seq (.look fun b => k b t x h 2)

/-- The reads and stores of an instruction, which must translate, else the thread halts or traps; then the thread goes on as t', and `k`. -/
def accessThen (cove th : Nat) (second : Bool) (t t' : Thread) (reads : List Access) (stores : List (Nat × Bytes)) (k : Act) : Act :=
  .look fun b =>
    let sp := b.ctl.space cove second
    let as := reads ++ stores.map fun (va, bs) => wr va bs.length
    match b.firstBad sp as with
    | some (va, w, bad) => threadBad cove th t second va w (if w then causeStore else causeLoad) bad
    | none => Act.all [touch cove second as, Act.each stores fun (va, bs) => writeVa sp va bs, updThread cove th fun _ => t', k]

/-- Carry out what an instruction does. -/
def carryOut (cove th : Nat) (second : Bool) (t : Thread) : RvOut → Act
  | .trap cause => threadTrap cove th t cause
  | .done t' reads stores => accessThen cove th second t t' reads stores .done
  | .lr t' va n => accessThen cove th second t t' [rd va n] [] <| .look fun b =>
      .one (.reserve cove th ((b.reserveAddr (b.ctl.space cove second) va false).map fun a => (a, n)))
  | .sc t' stores => accessThen cove th second t t' [] stores (.one (.reserve cove th none))

/-! ## Custom instructions (Table 02-9) -/

/-- The custom instructions. -/
inductive Nv where
  | sig | sigp | wait | semrd | take
  | id (sel : Nat)
  | vcvtN (mode fmt : Nat)
  | vcvtW (fmt : Nat)
  | vmxs (fmt : Nat)
  | vexp2
  | vsincos (sine : Bool)
  deriving DecidableEq, Repr

/-- Format codes that are not reserved (Table 02-2). -/
def fmtListed (f : Nat) : Bool := decide (f ≤ 7)

/-- Formats with an MX32 scale (R31). -/
def fmtMx (f : Nat) : Bool := decide (3 ≤ f ∧ f ≤ 7)

/-- The custom instruction of a word; none for any encoding that Table 02-9 does not list (R52).  An MX32 conversion to a format for which
R31 gives no emax (codes 0 to 2) counts as not listed (log 62). -/
def nvOfWord (w : Nat) : Option Nv :=
  let f3 := bits w 14 12
  let f7 := bits w 31 25
  if bits w 6 0 = 0x0B then
    match f3, f7 with
    | 0, 0 => some .sig
    | 0, 1 => some .sigp
    | 1, 0 => some .wait
    | 1, 1 => some .semrd
    | 2, 0 => some .take
    | 3, 0 => if bits w 24 20 ≤ 4 then some (.id (bits w 24 20)) else none
    | _, _ => none
  else if bits w 6 0 = 0x2B then
    let fmt := f7 % 16
    match f3 with
    | 0 => if fmtListed fmt && (decide (f7 / 16 = 0) || f7 / 16 == 2 || (f7 / 16 == 1 && fmtMx fmt)) then some (.vcvtN (f7 / 16) fmt) else none
    | 1 => if fmtListed fmt && decide (f7 / 16 = 0) then some (.vcvtW fmt) else none
    | 2 => if fmtMx fmt && decide (f7 / 16 = 0) then some (.vmxs fmt) else none
    | 3 => if f7 = 0 then some .vexp2 else none
    | 4 => if f7 ≤ 1 then some (.vsincos (f7 == 1)) else none
    | _ => none
  else none

/-- ECALL. -/
def ecallWord : Nat := 0x73

/-- CORE_INSTRUCTION (R50, R53, R54): a running thread issues the standard instruction at its pc; a custom encoding that Table
02-9 does not list raises an illegal-instruction exception (R52).  ECALL and the custom instructions have rows of their own. -/
def coreInstructionAct (cove th : Nat) : Act :=
  fetchThen cove th fun b t x w len =>
    Act.when (!(len == 4 && (w == ecallWord || (nvOfWord w).isSome))) <| takeFresh.seq <|
      carryOut cove th x.second t <|
        if len = 2 then (match expandC w with | none => .trap causeIllegal | some w' => rv32 (b.env cove th x.second) t w' 2)
        else rvAny (b.env cove th x.second) t w 4

/-- A custom instruction runs when the word at the thread's pc is it. -/
def nvThen (cove th : Nat) (is : Nv → Bool) (k : Block → Thread → Ctx → Nat → Nv → Act) : Act :=
  fetchThen cove th fun b t x w len =>
    match nvOfWord w with
    | some v => Act.when (len == 4 && is v) (k b t x w v)
    | none => .done

/-- rd, rs1, rs2 fields. -/
def fRd (w : Nat) : Nat := bits w 11 7
def fRs1 (w : Nat) : Nat := bits w 19 15
def fRs2 (w : Nat) : Nat := bits w 24 20

/-- The thread goes on behind a 4-byte instruction. -/
def stepOn (cove th : Nat) (f : Thread → Thread) : Act :=
  updThread cove th fun u => let v := f u; { v with pc := u.pc + 4 }

/-- Semaphore number of a register: its low 15 bits (log 20). -/
def regSem (v : BitVec 64) : Nat := v.toNat % 32768

/-- Amount of a register: its low 31 bits (log 20). -/
def regAmount (v : BitVec 64) : Nat := v.toNat % 2 ^ 31

/-- NV_SIG: SIGNAL(+n) to a local semaphore (Table 02-9, R281). -/
def nvSigAct (cove th : Nat) : Act :=
  nvThen cove th (· == .sig) fun _ t x w _ =>
    (signalLocal x.second (regSem (t.rx (fRs1 w))) (regAmount (t.rx (fRs2 w))) false).seq (stepOn cove th id)

/-- NV_SIGP: SIGNAL_POISON (R288). -/
def nvSigpAct (cove th : Nat) : Act :=
  nvThen cove th (· == .sigp) fun _ t x w _ => (signalLocal x.second (regSem (t.rx (fRs1 w))) 0 true).seq (stepOn cove th id)

/-- NV_WAIT: the thread waits; where the semaphore already meets the threshold or is poisoned it goes on at once (R282). -/
def nvWaitAct (cove th : Nat) : Act :=
  nvThen cove th (· == .wait) fun b t x w _ =>
    match b.waitOutcome x.second (regSem (t.rx (fRs1 w))) (regAmount (t.rx (fRs2 w))) with
    | none => updThread cove th fun u => { u with state := .waiting }
    | some p => stepOn cove th fun u => u.wx (fRd w) (if p then 1 else 0)

/-- WAIT_COMPLETE of a thread in nv.wait: rd is 0 when satisfied, 1 when poisoned, and the thread runs on. -/
def threadWaitAct (cove th : Nat) : Act :=
  .look fun b =>
    let t := (b.ctl.cove cove).thread th
    Act.opt ((b.ctl.cove cove).ctx t.ctx) fun x => Act.when (t.state == .waiting) <|
      let w := b.natVa (b.ctl.space cove x.second) t.pc.toNat 4
      Act.opt (b.waitOutcome x.second (regSem (t.rx (fRs1 w))) (regAmount (t.rx (fRs2 w)))) fun p =>
        stepOn cove th fun u => { (u.wx (fRd w) (if p then 1 else 0)) with state := .running }

/-- NV_SEMRD: the semaphore word, zero-extended (log 20). -/
def nvSemrdAct (cove th : Nat) : Act :=
  nvThen cove th (· == .semrd) fun b t x w _ =>
    stepOn cove th fun u => u.wx (fRd w) (BitVec.ofNat 64 (b.sem (semIn x.second (regSem (t.rx (fRs1 w))))).toNat)

/-- NV_TAKE: a work-counter take keyed by logical cove and request sequence (R296, R297). -/
def nvTakeAct (cove th : Nat) : Act :=
  nvThen cove th (· == .take) fun b t x w _ =>
    let ctr := (t.rx (fRs1 w)).toNat
    let seq := (t.rx (fRs2 w)).toNat
    let a := if x.second then b.contextAddr ctr else ctr
    match b.takeTile a (b.ctl.plan.counterCap ctr) cove seq with
    | (none, _) => endPoisoned cove t.ctx (bits ctr 37 6) 0xFB 0
    | (some v, act) => Act.all [act, served ctr cove seq, stepOn cove th fun u => u.wx (fRd w) (BitVec.ofNat 64 v)]

/-- NV_ID: logical cove, job rank, job size, thread or die (Table 02-9). -/
def nvIdAct (cove th : Nat) : Act :=
  nvThen cove th (fun v => match v with | .id _ => true | _ => false) fun b _ x w v =>
    let r := match v with
      | .id 0 => cove
      | .id 1 => b.ctl.rankOf x.second
      | .id 2 => b.ctl.jobP
      | .id 3 => th
      | _ => dieOf cove
    stepOn cove th fun u => u.wx (fRd w) (BitVec.ofNat 64 r)

/-! ## Custom vector instructions -/

/-- Element i of `wd` bits of a group packed densely (R24). -/
def pget (t : Thread) (v wd i : Nat) : Nat :=
  (List.range (wd / 2)).foldl (fun a j => a + vget t v 2 (i * (wd / 2) + j) * 4 ^ j) 0

/-- Write element i of `wd` bits of a group packed densely. -/
def pset (t : Thread) (v wd i x : Nat) : Thread :=
  forUpto (wd / 2) (fun j t => vset t v 2 (i * (wd / 2) + j) (x / 4 ^ j % 4)) t

/-- Write a packed destination: body elements from vstart on, tail elements by policy. -/
def pApply (e : Env) (t : Thread) (ty : VType) (vd wd : Nat) (f : Nat → Nat) : Thread :=
  if t.vl ≤ t.vstart then vDone t
  else vDone (forUpto (max (elemsIn ty.sew ty.lm) t.vl) (fun i d =>
    if i < t.vstart then d else if i < t.vl then pset d vd wd i (f i)
    else if ty.ta then pset d vd wd i (agnostic e i wd (pget t vd wd i)) else d) t)

/-- Registers that hold n elements of wd bits. -/
def packedRegs (n wd : Nat) : Nat := max 1 (ceilDiv (n * wd) 1024)

/-- FP32 elements 0 to vl - 1 of a group, as values. -/
def f32Elems (t : Thread) (v : Nat) : List Val := (List.range t.vl).map fun i => ofF32 (BitVec.ofNat 32 (vget t v 32 i))

/-- The words of FP32 elements converted to a narrow format, in blocks of 32 under MX32 (R28 to R31).  Scaling mode 2 has no scale operand in
Table 02-9: it converts as mode 0 (log 62). -/
def narrowWords (mode fmt : Nat) (vs : List Val) : List Nat :=
  if mode = 1 then (groupsOf 32 (vs.length / 32 + 1) vs).flatMap fun g => (mxBlock fmt g).2.1
  else vs.map fun v => (convertTo fmt v).1

/-- Where a vector custom instruction may run: SEW 32 in the thread's vtype and groups within the file (R52). -/
def nvVector (t : Thread) (vs2 : Nat) : Option VType :=
  t.vt.bind fun ty => if ty.sew = 32 ∧ groupOk vs2 ty.lm = true then some ty else none

/-- A vector custom instruction: `f` gives the thread after it, or none where it is illegal. -/
def nvVec (cove th : Nat) (is : Nv → Bool) (f : Env → Thread → Nat → Nv → Option Thread) : Act :=
  nvThen cove th is fun b t x w v => takeFresh.seq <|
    carryOut cove th x.second t <|
      match f (b.env cove th x.second) t w v with
      | none => .trap causeIllegal
      | some t' => t'.next 4

/-- nv.vcvt.n.  It counts in no SAT_OUT or NAN_OUT: R32 counts the output elements of operations (log 62). -/
def vcvtN (e : Env) (t : Thread) (w : Nat) (v : Nv) : Option Thread :=
  match v with
  | .vcvtN mode fmt => (nvVector t (fRs2 w)).bind fun ty =>
      let ws := narrowWords mode fmt (f32Elems t (fRs2 w))
      if fRd w + packedRegs (elemsIn 32 ty.lm) (fmtBits fmt) ≤ 32 then
        some (pApply e t ty (fRd w) (fmtBits fmt) fun i => ws.getD i 0) else none
  | _ => none

/-- nv.vcvt.w. -/
def vcvtW (e : Env) (t : Thread) (w : Nat) (v : Nv) : Option Thread :=
  match v with
  | .vcvtW fmt => (nvVector t (fRd w)).bind fun ty =>
      if fRs2 w + packedRegs (elemsIn 32 ty.lm) (fmtBits fmt) ≤ 32 then
        some (vApply e t ty (fRd w) 32 true fun i => (elemVal fmt false (pget t (fRs2 w) (fmtBits fmt) i)).word32.toNat) else none
  | _ => none

/-- nv.vmxs: one E8M0 byte for each group of 32 elements, packed. -/
def vmxs (t : Thread) (w : Nat) (v : Nv) : Option Thread :=
  match v with
  | .vmxs fmt => (nvVector t (fRs2 w)).map fun _ =>
      let vs := f32Elems t (fRs2 w)
      vDone (forUpto (ceilDiv t.vl 32) (fun g d =>
        if 32 * g < t.vstart then d else vset d (fRd w) 8 g (mxBlock fmt ((vs.drop (32 * g)).take 32)).1) t)
  | _ => none

/-- nv.vexp2. -/
def vexp2 (e : Env) (t : Thread) (w : Nat) (_ : Nv) : Option Thread :=
  (nvVector t (fRs2 w)).bind fun ty =>
    if groupOk (fRd w) ty.lm then
      some (vApply e t ty (fRd w) 32 true fun i => (exp2Lane (BitVec.ofNat 32 (vget t (fRs2 w) 32 i))).toNat) else none

/-- nv.vsincos. -/
def vsincos (e : Env) (t : Thread) (w : Nat) (v : Nv) : Option Thread :=
  (nvVector t (fRs2 w)).bind fun ty =>
    if groupOk (fRd w) ty.lm then
      some (vApply e t ty (fRd w) 32 true fun i =>
        (trigLane (match v with | .vsincos s => s | _ => false) (BitVec.ofNat 32 (vget t (fRs2 w) 32 i))).toNat) else none

/-- NV_VCVT_N (R52, R24, R28 to R31). -/
def nvVcvtNAct (cove th : Nat) : Act := nvVec cove th (fun v => match v with | .vcvtN _ _ => true | _ => false) vcvtN
/-- NV_VCVT_W: exact widening (R52). -/
def nvVcvtWAct (cove th : Nat) : Act := nvVec cove th (fun v => match v with | .vcvtW _ => true | _ => false) vcvtW
/-- NV_VMXS (R52, R31). -/
def nvVmxsAct (cove th : Nat) : Act := nvVec cove th (fun v => match v with | .vmxs _ => true | _ => false) fun _ => vmxs
/-- NV_VEXP2 (R39). -/
def nvVexp2Act (cove th : Nat) : Act := nvVec cove th (· == .vexp2) vexp2
/-- NV_VSINCOS (R41). -/
def nvVsincosAct (cove th : Nat) : Act := nvVec cove th (fun v => match v with | .vsincos _ => true | _ => false) vsincos

/-! ## ECALL (R96) -/

/-- ECALL: the thread ends; with the last thread the instance signals, poisoned if any a0 was not 0.  The context keeps the
number of the first such thread, whose pc the detail holds. -/
def ecallAct (cove th : Nat) : Act :=
  fetchThen cove th fun _ t _ w len => Act.when (len == 4 && w == ecallWord) <|
    Act.all [updThread cove th fun u => { u.enterMachine causeEcall with state := .ended },
      Act.when (t.rx 10 != 0) (updCtx cove t.ctx fun y => if y.poisoned then y else { y with poisoned := true, pos := th }),
      .look fun b =>
        let v := b.ctl.cove cove
        Act.when ([0, 1, 2, 3].all fun u => (v.thread u).state == .idle || (v.thread u).state == .ended) <|
          Act.opt (v.ctx t.ctx) fun x =>
            if x.poisoned then endPoisoned cove t.ctx (v.thread x.pos).pc.toNat 0xFF x.pos else endInstance cove t.ctx false]

/-! ## Meanings -/

/-- KERNEL. -/
def execKernel (cove : Fin 512) (ctx : Fin 4) (s : State) : Host.Outcome State Fault Refusal := s.perform (kernelAct cove.val ctx.val)
/-- CORE_INSTRUCTION. -/
def execCoreInstruction (cove : Fin 512) (thread : Fin 4) (s : State) : Host.Outcome State Fault Refusal :=
  s.perform (coreInstructionAct cove.val thread.val)
/-- ECALL. -/
def execEcall (cove : Fin 512) (thread : Fin 4) (s : State) : Host.Outcome State Fault Refusal := s.perform (ecallAct cove.val thread.val)
/-- NV_SIG. -/
def execNvSig (cove : Fin 512) (thread : Fin 4) (s : State) : Host.Outcome State Fault Refusal := s.perform (nvSigAct cove.val thread.val)
/-- NV_SIGP. -/
def execNvSigp (cove : Fin 512) (thread : Fin 4) (s : State) : Host.Outcome State Fault Refusal := s.perform (nvSigpAct cove.val thread.val)
/-- NV_WAIT. -/
def execNvWait (cove : Fin 512) (thread : Fin 4) (s : State) : Host.Outcome State Fault Refusal := s.perform (nvWaitAct cove.val thread.val)
/-- NV_SEMRD. -/
def execNvSemrd (cove : Fin 512) (thread : Fin 4) (s : State) : Host.Outcome State Fault Refusal := s.perform (nvSemrdAct cove.val thread.val)
/-- NV_TAKE. -/
def execNvTake (cove : Fin 512) (thread : Fin 4) (s : State) : Host.Outcome State Fault Refusal := s.perform (nvTakeAct cove.val thread.val)
/-- NV_ID. -/
def execNvId (cove : Fin 512) (thread : Fin 4) (s : State) : Host.Outcome State Fault Refusal := s.perform (nvIdAct cove.val thread.val)
/-- NV_VCVT_N. -/
def execNvVcvtN (cove : Fin 512) (thread : Fin 4) (s : State) : Host.Outcome State Fault Refusal := s.perform (nvVcvtNAct cove.val thread.val)
/-- NV_VCVT_W. -/
def execNvVcvtW (cove : Fin 512) (thread : Fin 4) (s : State) : Host.Outcome State Fault Refusal := s.perform (nvVcvtWAct cove.val thread.val)
/-- NV_VMXS. -/
def execNvVmxs (cove : Fin 512) (thread : Fin 4) (s : State) : Host.Outcome State Fault Refusal := s.perform (nvVmxsAct cove.val thread.val)
/-- NV_VEXP2. -/
def execNvVexp2 (cove : Fin 512) (thread : Fin 4) (s : State) : Host.Outcome State Fault Refusal := s.perform (nvVexp2Act cove.val thread.val)
/-- NV_VSINCOS. -/
def execNvVsincos (cove : Fin 512) (thread : Fin 4) (s : State) : Host.Outcome State Fault Refusal := s.perform (nvVsincosAct cove.val thread.val)

end Sys2Proof.Machine
end

