-- ==== Sys2Proof/Machine/Format.lean ====
section
/-! DEFINITION. The format check of a taken command (R346 step 1): reserved fields and values under R11, and the ranges and
alignments of Tables 11-4, 11-5, 12-4, 12-6 and 12-7. -/

namespace Sys2Proof.Machine

/-- Reserved byte ranges of a command, offset and length, by opcode (Tables 11-4 and 11-5: unlisted bytes are reserved). -/
def reservedBytes : Nat → List (Nat × Nat)
  | 0x01 => [(32, 96)]
  | 0x02 => [(48, 80)]
  | 0x03 => [(32, 96)]
  | 0x04 => [(57, 71)]
  | 0x05 => [(33, 95)]
  | 0x10 => [(80, 48)]
  | 0x11 => [(35, 1), (48, 80)]
  | 0x12 => [(52, 4), (64, 64)]
  | 0x13 | 0x14 | 0x15 => [(34, 94)]
  | 0x16 => [(34, 6), (52, 76)]
  | 0x20 => [(41, 1), (46, 2), (88, 40)]
  | 0x21 | 0x22 => [(34, 2), (48, 80)]
  | 0x23 => [(32, 4), (40, 88)]
  | 0x24 => [(42, 2), (80, 48)]
  | 0x30 => [(44, 84)]
  | 0x31 => [(34, 6), (68, 60)]
  | 0x32 => [(33, 95)]
  | 0x40 => [(33, 7), (64, 64)]
  | 0x41 => [(33, 15), (72, 56)]
  | 0x50 | 0x51 => [(33, 7), (52, 76)]
  | 0x52 => [(33, 3), (40, 88)]
  | 0x60 => [(48, 80)]
  | 0x61 => [(33, 95)]
  | _ => []

/-- Placement entry i of SEQ_OPEN (R172): first layer, layers, tier. -/
def placeEntry (c : Bytes) (i : Nat) : Nat × Nat × Nat := (u16 c (48 + 8 * i), u16 c (50 + 8 * i), u8 c (52 + 8 * i))

/-- No two used placement entries share a layer (R172). -/
def placesApart (c : Bytes) : Bool :=
  let ps := (List.range (u8 c 35)).map (placeEntry c)
  (List.range ps.length).all fun i => (List.range i).all fun j =>
    match ps[i]?, ps[j]? with
    | some (a, n, _), some (b, m, _) => decide (a + n ≤ b ∨ b + m ≤ a)
    | _, _ => true

/-- Values, ranges and alignments of a command's own fields (log 55). -/
def fieldsOk (slot : Nat) (c : Bytes) : Bool :=
  match cOp c with
  | 0x01 | 0x03 | 0x23 | 0x60 => true
  | 0x02 => u64 c 32 % 4096 == 0
  | 0x04 => u64 c 32 % 8192 == 0 && u64 c 40 % 8192 == 0 && decide (u8 c 56 ≤ 16)
  | 0x05 => decide (u8 c 32 ≤ 1)
  | 0x10 => decide (cSeq c < 4096 ∧ u8 c 34 ≤ 15 ∧ u8 c 35 ≤ 4 ∧ 1 ≤ u32 c 36 ∧ u32 c 36 ≤ 2 ^ 30) &&
      ((List.range (u8 c 35)).all fun i => decide ((placeEntry c i).2.2 ≤ 1) && zeros c (53 + 8 * i) 3) && placesApart c
  | 0x11 => decide (cSeq c < 4096 ∧ u8 c 34 ≤ 1 ∧ u32 c 36 ≤ 2 ^ 30) && u64 c 40 % 64 == 0
  | 0x12 => decide (cSeq c < 4096 ∧ u8 c 34 ≤ 1 ∧ u8 c 35 ≤ 1 ∧ u32 c 36 ≤ 65536)
  | 0x13 | 0x14 | 0x15 => decide (cSeq c < 4096)
  | 0x16 => decide (cSeq c < 4096 ∧ 40 ≤ u32 c 48 ∧ u32 c 48 ≤ 8 + 32 * 256) && u32 c 48 % 32 == 8 && u64 c 40 % 8 == 0
  | 0x20 => decide (u8 c 32 % 16 ≤ 1 ∧ u8 c 32 / 16 ≤ 1 ∧ u8 c 33 ≤ 2 ∧ u8 c 34 ≤ 1 ∧ u8 c 35 < 16 ∧ 1 ≤ u16 c 36 ∧ u16 c 36 ≤ 1024 ∧
        u16 c 36 ≤ u16 c 38 ∧ u16 c 38 ≤ 4096 ∧ 1 ≤ u8 c 40 ∧ u8 c 40 ≤ 16) &&
      (if bit (u8 c 35) 1 then decide (u16 c 38 ≤ u16 c 42 ∧ u16 c 42 ≤ 4096) else u16 c 42 == 0) &&
      (if bit (u8 c 35) 0 then u16 c 44 == 0 || decide (u16 c 36 ≤ u16 c 44 ∧ u16 c 44 ≤ u16 c 38) else u16 c 44 == 0) &&
      u64 c 48 % 64 == 0 && u64 c 56 % 64 == 0 && (bit (u8 c 35) 3 || u64 c 64 == 0) &&
      (!bit (u8 c 35) 2 || (u8 c 32 / 16 == 1 && u64 c 72 % 64 == 0 && decide (1 ≤ u32 c 80 ∧ u32 c 80 ≤ 2 ^ 24)))
  | 0x21 => decide (u8 c 32 ≤ 1 ∧ u8 c 33 ≤ 1 ∧ 1 ≤ u32 c 36 ∧ u32 c 36 ≤ 65536) && u64 c 40 % 64 == 0
  | 0x22 => decide (u8 c 32 ≤ 1 ∧ u8 c 33 = 0 ∧ 1 ≤ u32 c 36 ∧ u32 c 36 ≤ 65536) && u64 c 40 % 64 == 0
  | 0x24 =>
      (match u8 c 32 with
      | 0 => zeros c 33 39
      | 1 => decide (u8 c 33 < 4 ∧ 64 ≤ u16 c 34 ∧ u16 c 34 ≤ 1024 ∧ u16 c 34 % 64 = 0 ∧ 8 ≤ u8 c 36 ∧ u8 c 36 ≤ 56 ∧ 1 ≤ u8 c 37 ∧
          u8 c 37 ≤ 16 ∧ u8 c 36 ≤ u16 c 38 ∧ u16 c 38 ≤ 1024 ∧ 1 ≤ u8 c 40 ∧ u8 c 40 ≤ 16 ∧ u8 c 41 ≤ 1 ∧
          0x3F800000 ≤ u32 c 44 ∧ u32 c 44 ≤ 0x40000000 ∧ 1 ≤ u64 c 48 ∧ u64 c 48 ≤ 2 ^ 33 ∧ u64 c 64 % 4096 = 0 ∧ u64 c 72 ≠ 0)
      | 2 => zeros c 33 47
      | _ => false)
  | 0x30 => u64 c 32 % 64 == 0
  | 0x31 => decide (u8 c 33 ≤ 2 ∧ u8 c 32 ≤ 7) && u8 c 32 == (if slot % 2 = 0 then slot + 1 else slot - 1) &&
      (u8 c 33 == 1 || (isPow2In (u32 c 64) 16 65536 && u64 c 40 % 4096 == 0 && u64 c 48 % 4096 == 0 && u64 c 56 % 64 == 0))
  | 0x32 => decide (u8 c 32 ≤ 7)
  | 0x40 => decide (u8 c 32 % 16 ≤ 2 ∧ u8 c 32 / 16 ≤ 2 ∧ u64 c 56 ≤ 2 ^ 40)
  | 0x41 => decide (u8 c 32 % 16 = 0 ∧ u8 c 32 / 16 ≤ 2 ∧ u64 c 56 ≤ 2 ^ 40)
  | 0x50 => decide (u8 c 32 ≤ 4) && u64 c 40 % 64 == 0
  | 0x51 => decide (u8 c 32 ≤ 5) && u64 c 40 % 64 == 0
  | 0x52 => decide (u8 c 32 ≤ 2 ∧ (u32 c 36 = 0 ∨ 1000 ≤ u32 c 36))
  | 0x61 => decide (u8 c 32 ≤ 1)
  | _ => false

/-- The command is well formed (R346, R347, R354). -/
def formatOk (slot : Nat) (c : Bytes) : Bool :=
  decide (u8 c 1 < 16) && zeros c 2 6 && zeros c 28 4 &&
  (!cWait c || decide (1 ≤ u32 c 20 ∧ u32 c 20 < 2 ^ 31)) && (!cSignal c || decide (1 ≤ u32 c 24 ∧ u32 c 24 < 2 ^ 31)) &&
  ((reservedBytes (cOp c)).all fun (o, n) => zeros c o n) && fieldsOk slot c

end Sys2Proof.Machine
end

