-- ==== Sys2Proof/Machine/HostRings.lean ====
section
/-! DEFINITION. Host interface: polling, sleeping and waking, enabling and disabling, taking commands, writing completions and
event records (chapter 11, R299 to R303, R476, R477). -/

namespace Sys2Proof.Machine

/-- Host stores that the module's next reads see (R338, log 5). -/
def landStores (ss : List HostStore) : Act := Act.each ss fun s => .one (.host s.addr s.bytes)

/-- Number under which the partner's ring 0 stands in the ring table once it is taken over (R352). -/
def partnerRing : Nat := 64

/-- This module is the active member of its partner's ring 0. -/
def Ctl.takenOver (c : Ctl) : Bool := (c.ring partnerRing).on

/-- Enabled rings of a port. -/
def Ctl.ownRings (c : Ctl) (port : Bool) : List Nat := (List.range 64).filter fun n => c.portOf n == port && (c.ring n).on && c.ringLive n

/-- Rings whose doorbell records a port reads: while it polls its enabled rings, with HIF_CTRL.ENABLE clear the pair ring (R476), and on
port 0 always a ring taken over (R352). -/
def Ctl.polled (c : Ctl) (port : Bool) : List Nat :=
  (if (c.hif.hif port).polling || !c.hifOn port then c.ownRings port else []) ++ (if !port && c.takenOver then [partnerRing] else [])

/-- The port exists (R336). -/
def Ctl.hasPort (c : Ctl) (port : Bool) : Bool := !port || c.glb.dualPort

/-- Leave IDLE (R444). -/
def leaveIdle : Act :=
  .upd fun c => if c.power.state = .idle then { c with power := { c.power with state := .run } } else c

/-- POLLING written into the doorbell records of a port's own rings (Table 11-2). -/
def writePolling (port : Bool) (v : Byte) : Act :=
  .look fun b => Act.each (b.ctl.ownRings port) fun n => .one (.host ((b.ctl.ring n).dbrec.toNat + 12) [v])

/-- Read the doorbell records of a port (R343): SQ_TAIL and CQ_HEAD.  A change of SQ_TAIL is something to do (R344). -/
def readRecords (port : Bool) : Act :=
  .look fun b =>
    let ns := b.ctl.polled port
    let seen := fun n => (b.host.nat (b.ctl.ring n).dbrec.toNat 4, b.host.nat ((b.ctl.ring n).dbrec.toNat + 4) 4)
    let news := ns.any fun n => (seen n).1 != (b.ctl.ring n).sqTail
    Act.all [
      Act.each ns (fun n => updRing n fun r => { r with sqTail := (seen n).1, cqHead := (seen n).2 }),
      Act.when news (updHif port fun h => { h with busyAt := b.lhTime }),
      Act.when (!port && (b.ctl.pair.role == .bound) && !b.ctl.takenOver) <|
        .upd fun c => { c with pair := { c.pair with ring := { c.pair.ring with cqHead := b.host.nat (c.pair.ring.dbrec + 4) 4 } } }]

/-- The port polls: HIF enabled and polling, or the pair ring that never stops (R446, R352). -/
def Ctl.polls (c : Ctl) (port : Bool) : Bool :=
  c.hasPort port && c.glb.state.ringState && (((c.hif.hif port).polling && c.hifOn port) || (!port && (c.bound || c.takenOver)))

/-- DOORBELL_POLL (R343): the module reads the doorbell record of every enabled ring of the port. -/
def doorbellPollAct (port : Bool) (stores : List HostStore) : Act :=
  (landStores stores).seq (.look fun b => Act.when (b.ctl.polls port) (readRecords port))

/-- SLEEP_AFTER of a port in ns; 0 means never (R344). -/
def Hif.sleepAfter (h : Hif) : Nat := bits h.dbPoll.toNat 25 16 * 10000

/-- Nothing to do on a port (R344): idle for SLEEP_AFTER, no command taken and unfinished, no completion held, no event queued. -/
def Block.nothingToDo (b : Block) (port : Bool) : Bool :=
  let h := b.ctl.hif.hif port
  h.sleepAfter != 0 && decide (h.busyAt + h.sleepAfter ≤ b.lhTime) &&
  (b.ctl.hif.cmds.all fun x => b.ctl.portOf x.ring != port) && (b.arb.queue port).held.isEmpty

/-- No plan operation, channel or tide mover is running (R444). -/
def Ctl.planQuiet (c : Ctl) : Bool :=
  (c.engine.coves.all fun e => e.2.ctxs.isEmpty && e.2.queue.isEmpty && e.2.queue2.isEmpty) &&
  (c.engine.ls.chans.all fun e => e.2.state == .idle)

/-- IDLE is entered when it is permitted, every port has stopped polling and nothing of the plan runs (R444). -/
def enterIdle : Act :=
  .upd fun c =>
    if c.power.state = .run ∧ c.power.idleOk = true ∧ c.hif.port0.polling = false ∧ c.hif.port1.polling = false ∧ c.planQuiet = true
      ∧ c.takenOver = false
    then { c with power := { c.power with state := .idle } } else c

/-- POLL_SLEEP (R344): POLLING 0 is written, every record is read once more, and polling stops unless an SQ_TAIL has advanced. -/
def pollSleepAct (port : Bool) (stores : List HostStore) : Act :=
  .look fun b =>
    if (b.ctl.hif.hif port).polling && b.ctl.hifOn port && b.nothingToDo port then
      Act.all [writePolling port 0, landStores stores, readRecords port,
        .look fun t =>
          if (b.ctl.ownRings port).any fun n => (t.ctl.ring n).sqTail != (b.ctl.ring n).sqTail then writePolling port 1
          else (updHif port fun h => { h with polling := false }).seq enterIdle]
    else landStores stores

/-- BAR0 of a port takes accesses beyond the GLB block: its link is up and the whole map answers (R448, R458). -/
def Ctl.barUp (c : Ctl) (port : Bool) : Bool :=
  c.hasPort port && c.glb.pcieUp && !c.glb.glbOnly && (c.power.state == .run || c.power.state == .idle) &&
  !(if port then c.pins.perst1 else c.pins.perst0)

/-- HIF_WAKE (R344): POLLING 1 into every record, polling again, IDLE left.  No effect while ENABLE is 0 (R476). -/
def hifWakeAct (port : Bool) : Act :=
  .look fun b => Act.when (b.ctl.barUp port && b.ctl.hifOn port) <|
    Act.all [leaveIdle, updHif port (fun h => { h with polling := true, busyAt := b.lhTime }), writePolling port 1, readRecords port]

/-- Bits of HIF_CTRL that are not reserved (Table 16-3). -/
def hifCtrlMask : BitVec 64 := 0x3F01

/-- Event-ring slots of a port (R341). -/
def Hif.evtSlots (h : Hif) : Nat := bits h.evtSize.toNat 16 0

/-- The event ring goes on at the module's own record number where EVT_HEAD fits it, and else starts at EVT_HEAD (log 16). -/
def Hif.resumeEvents (h : Hif) (head : Nat) : Hif :=
  if (h.evtCount + 2 ^ 32 - head) % 2 ^ 32 ≤ h.evtSlots then h else { h with evtCount := head }

/-- HIF_ENABLE (R476): a write of HIF_CTRL with ENABLE 1; the port polls from the indices held in host memory. -/
def hifEnableAct (port : Bool) (v : BitVec 64) : Act :=
  .look fun b => Act.when (b.ctl.barUp port && v.getLsbD 0) <|
    Act.all [updHif port (fun h => { (if b.ctl.hifOn port then h else h.resumeEvents (b.host.nat h.evtDbrec.toNat 4)) with
        ctrl := v &&& hifCtrlMask, polling := true, busyAt := b.lhTime }), leaveIdle,
      Act.when b.ctl.glb.state.ringState ((writePolling port 1).seq (readRecords port))]

/-- HIF_DISABLE (R476): a write of HIF_CTRL with ENABLE 0; polling of the port's rings and writes to its event ring stop. -/
def hifDisableAct (port : Bool) (v : BitVec 64) : Act :=
  .look fun b => Act.when (b.ctl.barUp port && !v.getLsbD 0) <|
    updHif port fun h => { h with ctrl := v &&& hifCtrlMask, polling := false }

/-- RW bits of RING_CTRL other than ENABLE (Table 16-4). -/
def ringCtrlMask : BitVec 64 := 0x3F1C

/-- A port may write a ring's block (R336, R474). -/
def Ctl.mayWriteRing (c : Ctl) (port : Bool) (n : Nat) : Bool := c.barUp port && c.portOf n == port

/-- Where a ring starts when it is enabled: the indices of its doorbell record; a record whose SQ_HEAD is the module's own goes
on with the module's completion number, another starts at its CQ_HEAD (log 16). -/
def Ring.start (r : Ring) (head cq tail : Nat) : Ring :=
  { r with sqHead := head, sqTail := tail, cqHead := cq, cqCount := if head = r.sqHead then r.cqCount else cq }

/-- RING_ENABLE (R477): a write of RING_CTRL that sets ENABLE, ignored while IDLE reads 0 or ENABLE is set. -/
def ringEnableAct (port : Bool) (n : Nat) (v : BitVec 64) : Act :=
  .look fun b =>
    let r := b.ctl.ring n
    Act.when (b.ctl.mayWriteRing port n && v.getLsbD 0 && !r.on && b.ctl.inflight n == 0) <|
      let d := r.dbrec.toNat
      Act.all [updRing n (fun r => { (r.start (b.host.nat (d + 8) 4) (b.host.nat (d + 4) 4) (b.host.nat d 4)) with ctrl := (v &&& ringCtrlMask) ||| 1 }),
        Act.when ((b.ctl.hif.hif port).polling && b.ctl.glb.state.ringState) (.one (.host (d + 12) [1])),
        updHif port fun h => { h with busyAt := b.lhTime }]

/-- RING_DISABLE (R367): a write of RING_CTRL that clears ENABLE.  Refused for ring 0 of a bound member. -/
def ringDisableAct (port : Bool) (n : Nat) (v : BitVec 64) : Act :=
  .look fun b =>
    let r := b.ctl.ring n
    Act.when (b.ctl.mayWriteRing port n && !v.getLsbD 0 && !b.ctl.pairRing n) <|
      if r.on then updRing n fun r => { r with ctrl := r.ctrl &&& ringCtrlMask }
      else Act.when (b.ctl.inflight n == 0) (updRing n fun r => { r with ctrl := v &&& ringCtrlMask })

/-! ## Taking commands -/

/-- The ring has a command that the module may take (R346). -/
def Ctl.hasWork (c : Ctl) (n : Nat) : Bool :=
  let r := c.ring n
  let active := match c.pair.role with | .replacement _ => n != 0 | _ => true
  r.on && (n == partnerRing || c.ringLive n) && active && r.sqTail != r.sqHead && decide (c.inflight n < 64) && r.slots != 0

/-- Rings in the order in which they take turns: after the ring served last (R346). -/
def turnOrder (last : Nat) : List Nat := (List.range 65).map fun i => (last + 1 + i) % 65

/-- The ring from which the next command is taken: highest PRIO first, equal priorities in turn (R346). -/
def Ctl.pickRing (c : Ctl) : Option Nat :=
  (turnOrder c.hif.lastRing).foldl (fun best n =>
    if c.hasWork n then
      match best with
      | none => some n
      | some m => if (c.ring m).prio < (c.ring n).prio then some n else best
    else best) none

/-- A fresh taken command. -/
def Cmd.fresh (id ring index : Nat) (bytes : Bytes) : Cmd :=
  { id := id, ring := ring, index := index, bytes := bytes, phase := .waiting, waitMet := false, startNo := 0, steps := 0, tokens := 0,
    passes := 0, tookPend := false, stopping := false, ranks := [], status := 0, result := [], finNo := 0, evtNo := 0 }

/-- COMMAND_TAKE (R346, R347): the next command of the chosen ring is taken; SQ_HEAD moves on; a malformed command completes with
E_FORMAT at once, and so does one that names a semaphore outside every range that R349 allows (log 52). -/
def commandTakeAct : Act :=
  .look fun b => Act.when b.ctl.glb.state.ringState <| Act.opt b.ctl.pickRing fun n =>
    let r := b.ctl.ring n
    let bytes := b.host.read (r.base.toNat + r.sqHead % r.slots * 128) 128
    let id := b.ctl.hif.nextId
    let head := (r.sqHead + 1) % 2 ^ 32
    Act.all [
      .upd fun c => { c with hif := { c.hif with cmds := c.hif.cmds ++ [Cmd.fresh id n r.sqHead bytes], nextId := id + 1, lastRing := n } },
      updRing n fun r => { r with sqHead := head },
      Act.when (n == 0) (mirror (.command r.sqHead bytes)),
      .one (.host (r.dbrec.toNat + 8) (leBytes head 4)),
      Act.when (!formatOk b.slot bytes || (cWait bytes && semNever (u16 bytes 16)) || (cSignal bytes && semNever (u16 bytes 18)))
        (finish id .eFormat [])]

/-- WAIT_COMPLETE of a taken command (R349): satisfied, or completed with E_POISON and no other effect. -/
def commandWaitAct (id : Nat) : Act :=
  .look fun b => Act.opt (b.ctl.cmd id) fun x =>
    Act.when (x.phase == .waiting && cWait x.bytes && !x.waitMet && (waitTrouble b x.bytes).isNone) <|
      match b.waitOutcome (x.ring == partnerRing) (u16 x.bytes 16) (u32 x.bytes 20) with
      | none => .done
      | some true => finish id .ePoison []
      | some false => updCmd id fun y => { y with waitMet := true }

/-! ## Completions -/

/-- The next finished command of a ring, in finishing order. -/
def Ctl.nextDone (c : Ctl) (n : Nat) : Option Cmd :=
  c.hif.cmds.foldl (fun best x =>
    if x.ring = n && x.phase == .finished then
      match best with
      | none => some x
      | some y => if x.finNo < y.finNo then some x else best
    else best) none

/-- The signal that a command sends before its completion entry (R349); the semaphores of a ring taken over are those of the second rank
context (R420): the poison of a status of 0x10 or above reaches only a semaphore that
R349 allows (log 52). -/
def commandSignal (b : Block) (x : Cmd) : Act :=
  Act.when (cSignal x.bytes) <|
    let k := semIn (x.ring == partnerRing) (u16 x.bytes 18)
    if x.status < 0x10 then .one (.signal k (u32 x.bytes 24)) else Act.when (semTrouble b (u16 x.bytes 18)).isNone (.one (.poison k))

/-- The completion entry (Table 11-3). -/
def completionEntry (x : Cmd) (r : Ring) : Bytes :=
  slice x.bytes 8 8 ++ leBytes r.sqHead 4 ++ leBytes (if x.ring = partnerRing then 0 else x.ring) 2 ++ leBytes x.status 1 ++
  leBytes (if r.cqCount / r.slots % 2 = 0 then 1 else 0) 1 ++ result16 x.result

/-- One ring writes its next completion, after which FW_ACTIVATE and SET_POWER to STANDBY take the module away, when CQ_HEAD shows a free
slot and every event accepted before it is written (R301, R339), on a pair ring whose port a function-level reset has disabled too (R446,
log 53). -/
def completeRing (n : Nat) : Act :=
  .look fun b => Act.opt (b.ctl.nextDone n) fun x =>
    let r := b.ctl.ring n
    let port := b.ctl.portOf n && n != partnerRing
    let room := decide ((r.cqCount + 2 ^ 32 - r.cqHead) % 2 ^ 32 < r.slots)
    let events := (b.arb.queue port).held.all fun e => decide (x.evtNo ≤ e.seqno)
    Act.when (room && events && (n == partnerRing || b.ctl.ringLive n) && b.ctl.glb.state.ringState) <|
      let e := completionEntry x r
      Act.all [commandSignal b x, Act.when (n == 0) (mirror (.completion r.cqCount x.index e)),
        .one (.host (r.cqBase.toNat + r.cqCount % r.slots * 32) e),
        Act.when (cIrq x.bytes || r.irqAll) (send (.host (if port then 1 else 0)) (.msix r.vector)),
        updRing n fun r => { r with cqCount := (r.cqCount + 1) % 2 ^ 32 },
        .upd fun c => { c with hif := { c.hif with cmds := c.hif.cmds.filter fun y => y.id != x.id } },
        updHif port fun h => { h with busyAt := b.lhTime },
        Act.when x.leaves (if cOp x.bytes = 0x61 then warmReset else enterStandby)]

/-- Ring number of commands whose ring a function-level reset has cleared (R445). -/
def lostRing : Nat := 65

/-- Finished commands without a completion queue send their signal and are gone (R349). -/
def dropLost : Act :=
  .look fun b =>
    let gone := b.ctl.hif.cmds.filter fun x => x.ring == lostRing && x.phase == .finished
    (Act.each gone (commandSignal b)).seq <|
      .upd fun c => { c with hif := { c.hif with cmds := c.hif.cmds.filter fun y => !(y.ring == lostRing && y.phase == .finished) } }

/-- COMPLETION_WRITE (R339, R340, R351): a ring's next completion is written; ring 0 of a survivor stands for both pair rings. -/
def completionWriteAct (n : Nat) : Act :=
  Act.all [dropLost, completeRing n, Act.when (n == 0) (.look fun b => Act.when b.ctl.takenOver (completeRing partnerRing))]

/-! ## Events -/

/-- The codes of Table 09-9 that a unit raises. -/
def eventCodes : List Nat :=
  [0x0100, 0x0101, 0x0102, 0x0103, 0x0104, 0x0105, 0x0200, 0x0201, 0x0202, 0x0300, 0x0301, 0x0302, 0x0303, 0x0400, 0x0401, 0x0402,
   0x0500, 0x0501, 0x0600, 0x0601, 0x0700, 0x0701, 0x0800, 0x0900, 0x0901]

/-- EVENT_ACCEPT (R299, R300, R303): the arbiter accepts a raised event; an event brings the module out of IDLE (R444).  A code
that Table 09-9 does not list is never raised. -/
def eventAcceptAct (e : RawEvent) : Act :=
  Act.when (eventCodes.contains e.code) (raise e.code (e.source % 65536) (e.detail % 2 ^ 64))

/-- The bytes of an event record (Table 09-7). -/
def EventRec.bytes (r : EventRec) : Bytes :=
  leBytes r.seqno 8 ++ leBytes r.time 8 ++ leBytes r.code 2 ++ leBytes r.source 2 ++ zeroBytes 4 ++ leBytes r.detail 8

/-- EVENT_RECORD_WRITE (R341, R342): the oldest held record goes to the event ring while fewer than its size are unconsumed, and
raises the vector when its class is in the mask. -/
def eventRecordWriteAct (port : Bool) : Act :=
  .look fun b =>
    let h := b.ctl.hif.hif port
    Act.when (b.ctl.hasPort port && b.ctl.hifOn port && b.ctl.glb.state.ringState &&
        decide ((h.evtCount + 2 ^ 32 - b.host.nat h.evtDbrec.toNat 4) % 2 ^ 32 < h.evtSlots)) <|
      Act.opt (b.arb.queue port).held.head? fun r =>
        Act.all [.one (.host (h.evtBase.toNat + h.evtCount % h.evtSlots * 32) r.bytes), .one (.dequeue port),
          updHif port (fun h => { h with evtCount := (h.evtCount + 1) % 2 ^ 32, busyAt := b.lhTime }),
          Act.when (h.evtMask.getLsbD (r.code / 256)) (send (.host (if port then 1 else 0)) (.msix (bits h.ctrl.toNat 13 8)))]

/-! ## Meanings -/

/-- DOORBELL_POLL. -/
def execDoorbellPoll (port : Fin 2) (stores : List HostStore) (s : State) : Host.Outcome State Fault Refusal :=
  s.perform (doorbellPollAct (port == 1) stores)
/-- POLL_SLEEP. -/
def execPollSleep (port : Fin 2) (stores : List HostStore) (s : State) : Host.Outcome State Fault Refusal :=
  s.perform (pollSleepAct (port == 1) stores)
/-- HIF_WAKE. -/
def execHifWake (port : Fin 2) (s : State) : Host.Outcome State Fault Refusal := s.perform (hifWakeAct (port == 1))
/-- HIF_ENABLE. -/
def execHifEnable (port : Fin 2) (v : BitVec 64) (s : State) : Host.Outcome State Fault Refusal := s.perform (hifEnableAct (port == 1) v)
/-- HIF_DISABLE. -/
def execHifDisable (port : Fin 2) (v : BitVec 64) (s : State) : Host.Outcome State Fault Refusal := s.perform (hifDisableAct (port == 1) v)
/-- RING_ENABLE. -/
def execRingEnable (port : Fin 2) (ring : Fin 64) (v : BitVec 64) (s : State) : Host.Outcome State Fault Refusal :=
  s.perform (ringEnableAct (port == 1) ring.val v)
/-- RING_DISABLE. -/
def execRingDisable (port : Fin 2) (ring : Fin 64) (v : BitVec 64) (s : State) : Host.Outcome State Fault Refusal :=
  s.perform (ringDisableAct (port == 1) ring.val v)
/-- COMMAND_TAKE. -/
def execCommandTake (s : State) : Host.Outcome State Fault Refusal := s.perform commandTakeAct
/-- COMPLETION_WRITE. -/
def execCompletionWrite (ring : Fin 64) (s : State) : Host.Outcome State Fault Refusal := s.perform (completionWriteAct ring.val)
/-- EVENT_ACCEPT. -/
def execEventAccept (e : RawEvent) (s : State) : Host.Outcome State Fault Refusal := s.perform (eventAcceptAct e)
/-- EVENT_RECORD_WRITE. -/
def execEventRecordWrite (port : Fin 2) (s : State) : Host.Outcome State Fault Refusal := s.perform (eventRecordWriteAct (port == 1))

end Sys2Proof.Machine
end

