-- ==== Sys2Proof/Machine/Links.lean ====
section
/-! DEFINITION. Luapra links: states, training, identity checks, bundles, flits, lanes, cages and the link registers (chapter 10,
R213, R272, R435, R479). -/

namespace Sys2Proof.Machine

/-! ## Access -/

/-- Link n. -/
def Ctl.link (c : Ctl) (n : Nat) : Link := Tab.get Link.reset c.links.links n

/-- Change a link. -/
def updLink (n : Nat) (f : Link → Link) : Act :=
  .upd fun c => { c with links := { c.links with links := Tab.set Link.reset c.links.links n (f (c.link n)) } }

/-- Board class (Table 10-1). -/
def boardLink (n : Nat) : Bool := decide (n < 56)

/-- Cage of a front link (R435). -/
def cageOf (n : Nat) : Nat := (n - 56) / 2

/-- Board slot that a board link's group reaches (R310). -/
def groupSlot (slot n : Nat) : Nat := (slot + 1 + n / 8) % 8

/-- SOURCE of a link event (R333). -/
def linkSource (n : Nat) : Nat := src 2 n

/-- Start-up has reached the training of links, and the dies are powered (Table 14-9 step 9). -/
def Ctl.linksAlive (c : Ctl) : Bool := decide (9 ≤ c.glb.step) && (c.power.state == .run || c.power.state == .idle)

/-- The link carries flits. -/
def LinkState.carries : LinkState → Bool
  | .up | .quarantined | .pass => true
  | _ => false

/-! ## Ownership and expectations -/

/-- The pass-through entry that owns a link, and the other side (R327, R328). -/
def Fabric.passOf (f : Fabric) (n : Nat) : Option (PassEntry × Nat) :=
  f.passes.findSome? fun p => if p.a = n then some (p, p.b) else if p.b = n then some (p, p.a) else none

/-- Lowest version this module accepts (R314). -/
def Fabric.verMin (f : Fabric) : Nat := if f.fabric = 0 then 1 else f.minVersion

/-- Highest version this firmware supports (R314). -/
def verMaxOwn : Nat := 2

/-- SERIAL of a rank. -/
def Fabric.serialOf (f : Fabric) (r : Nat) : Nat := match f.ranks[r]? with | some e => e.serial | none => 0

/-- The rank that a SERIAL names. -/
def Fabric.rankOfSerial (f : Fabric) (s : Nat) : Option Nat := (List.range f.ranks.length).find? fun r => f.serialOf r == s

/-- The bundle entry whose mask holds the link. -/
def Fabric.maskOf (f : Fabric) (n : Nat) : Option BundleEntry := f.bundles.find? fun e => bit e.mask n

/-- SERIAL expected at the far end of a link; 0 when none. -/
def Fabric.expected (f : Fabric) (slot n : Nat) : Nat :=
  match f.maskOf n with
  | some e => f.serialOf e.peer
  | none =>
    if boardLink n && f.fabric != 0 then
      match f.ranks.find? (fun e => e.slot == groupSlot slot n && e.board == (match f.ranks[f.myRank]? with | some m => m.board | none => 0)) with
      | some e => e.serial
      | none => 0
    else 0

/-- The identity record this module sends on a link (R313). -/
def Block.ownId (b : Block) (n : Nat) : IdRec :=
  let f := b.ctl.links.fabric
  let base : IdRec := { serial := b.fuses.serial.toNat, port := n, slot := b.slot, verMin := f.verMin, verMax := verMaxOwn, fabric := 0,
                        rank := 0xFFFF, role := 0, transit := 0 }
  match f.passOf n with
  | some (p, _) => { base with fabric := p.foreign, role := 2, transit := b.fuses.serial.toNat }
  | none => if f.fabric = 0 then base else { base with fabric := f.fabric, rank := f.myRank, role := 1 }

/-- The 32 bytes of an identity record (Table 10-6). -/
def idBytes (r : IdRec) : Bytes :=
  leBytes r.serial 8 ++ leBytes r.port 1 ++ leBytes r.slot 1 ++ leBytes r.verMin 1 ++ leBytes r.verMax 1 ++ leBytes r.fabric 8 ++ leBytes r.rank 2 ++
  leBytes r.role 1 ++ [0] ++ leBytes r.transit 8

/-- The record that 32 bytes hold; byte 23 is reserved. -/
def idOfBytes (bs : Bytes) : IdRec :=
  { serial := u64 bs 0, port := u8 bs 8, slot := u8 bs 9, verMin := u8 bs 10, verMax := u8 bs 11, fabric := u64 bs 12, rank := u16 bs 20,
    role := u8 bs 22, transit := u64 bs 24 }

/-- How a peer's record is judged (R314, R316, R317). -/
inductive Verdict where
  | up | pass | version | quarantine
  deriving DecidableEq, Repr

/-- The common version of a peer's record (R314). -/
def commonVersion (r : IdRec) : Nat := min verMaxOwn r.verMax

/-- Judge the far end of a link. -/
def Block.judge (b : Block) (n : Nat) (r : IdRec) : Verdict :=
  let f := b.ctl.links.fabric
  let v := commonVersion r
  if v < f.verMin ∨ v < r.verMin then .version
  else if boardLink n && r.slot != groupSlot b.slot n then .quarantine
  else if (f.passOf n).isSome then (if 2 ≤ v then .pass else .quarantine)
  else if f.fabric = 0 then .up
  else
    let known := f.rankOfSerial r.serial
    let wrongMask := match f.maskOf n with | some e => f.serialOf e.peer != r.serial | none => false
    let configured := f.bundles.any fun e => f.serialOf e.peer == r.serial
    if wrongMask then .quarantine
    else if configured then (if r.fabric = f.fabric ∨ r.fabric = 0 then .up else .quarantine)
    else if r.role = 2 ∧ r.fabric ≠ f.fabric then .quarantine
    else if boardLink n || known.isSome then .up else .quarantine

/-! ## State changes and bundles -/

/-- The link enters a state; CHANGED and its counter follow (R479). -/
def Link.enter (l : Link) (s : LinkState) : Link := if l.state = s then l else { l with state := s, changed := true, changes := l.changes + 1 }

/-- A link that goes down loses credits, replay buffer and sequence numbers (R324). -/
def Link.cleared (l : Link) : Link :=
  { l with lanes := 0, version := 0, replays := l.replays, txSeq := 0, rxSeq := 0, replayBuf := [], unacked := 0, credits := creditsReset,
           shared := [0, 0, 0, 0, 0, 0], owed := [0, 0, 0, 0, 0, 0], held := [0, 0, 0, 0, 0, 0], waiting := [], turn := 0, recent := [] }

/-- Up members of the bundle to a module (R316). -/
def Ctl.members (c : Ctl) (serial : Nat) : List Nat :=
  (c.links.links.filter fun e => e.2.state == .up && (match e.2.peer with | some r => r.serial == serial | none => false)).map Prod.fst

/-- What the bundle to a rank is used for: the USE bits of its entries. -/
def Fabric.useOf (f : Fabric) (serial : Nat) : Nat :=
  (f.bundles.filter fun e => f.serialOf e.peer == serial).foldl (fun u e => u ||| e.use) 0

/-- The loss of a whole bundle (R213, R272, R418): a module fault of the higher-ranked end for a ring, chain or tree bundle of the
running job, and of the higher rank or slot for the pair bundle while a relay is heard; the other member then takes over with
cause 3. -/
def bundleLost (serial : Nat) : Act :=
  .look fun b =>
    let c := b.ctl
    let f := c.links.fabric
    let pair := c.bound && c.pair.partnerSerial == serial
    let higher := match f.rankOfSerial serial with | some r => decide (r < c.rank) | none => decide (c.pair.partner < b.slot)
    if pair then
      (if c.pair.relay.isNone then .done
       else if higher then moduleFault serial
       else .upd fun c => { c with pair := { c.pair with takeCause := some 3 } })
    else Act.when (c.job.inJob && f.useOf serial % 8 != 0 && higher) (moduleFault serial)

/-- Key of a bundle's numbers: peer serial and virtual channel. -/
def bundleKey (peer vc : Nat) : Nat := peer * 8 + vc

/-- Change the bundles. -/
def updBundles (f : Bundles → Bundles) : Act := .upd fun c => { c with links := { c.links with bundles := f c.links.bundles } }

/-- The bundle takes a packet for a member: it gets the next number of its virtual channel (R318). -/
def Bundles.push (s : Bundles) (peer vc flits : Nat) : Bundles :=
  let k := bundleKey peer vc
  { s with queue := s.queue ++ [{ peer := peer, vc := vc, num := Tab.get 0 s.sent k, flits := flits }], sent := Tab.set 0 s.sent k (Tab.get 0 s.sent k + 1) }

/-- Packets of own traffic of which a link holds a flit that no ACK covers. -/
def Link.packets (l : Link) : List Packet :=
  ((l.replayBuf.map (·.flit) ++ l.waiting).filterMap fun w => match w.load with | .own p => some p | .passed _ => none).eraseDups

/-- A member of a bundle has gone down (R319): over a remaining member a gap notice names, for each virtual channel, the numbers it held
unacknowledged; TIDE, MIRROR, CTRL and MGMT packets are sent again as new packets, REQ and RSP packets by the requester after a bus
error (R213, R272).  With no member left the bundle is lost. -/
def memberDown (serial : Nat) (held : List Packet) : Act :=
  .look fun b =>
    match b.ctl.members serial with
    | [] => (updBundles fun s => { s with queue := s.queue.filter fun p => p.peer != serial }).seq (bundleLost serial)
    | l :: _ =>
      (Act.each ((List.finRange 8).filter fun vc => held.any fun p => p.vc == vc.val) fun vc =>
        send (.link l) (.gap { peer := b.fuses.serial.toNat, vc := vc, lost := (held.filter fun p => p.vc == vc.val).map (·.num) })).seq
      (updBundles fun s => (held.filter fun p => decide (2 ≤ p.vc)).foldl (fun s p => s.push p.peer p.vc p.flits) s)

/-- LINK_DOWN (Table 10-14). -/
def linkDownEvent (n step locked cause : Nat) : Act := raise 0x0101 (linkSource n) (step % 256 * 65536 + locked % 256 * 256 + cause % 256)

/-- A link leaves UP, or its training, for a state, with LINK_DOWN and its cause; a lost member is reported (R319, R333). -/
def linkDown (n : Nat) (s : LinkState) (step locked cause : Nat) : Act :=
  .look fun b =>
    let l := b.ctl.link n
    Act.all [updLink n fun l => { (l.cleared.enter s) with lastCause := cause }, linkDownEvent n step locked cause,
      Act.when (l.state == .up) (Act.opt l.peer fun r => memberDown r.serial l.packets)]

/-- LINK_UP (Table 10-14). -/
def linkUpEvent (n : Nat) (r : IdRec) (lanes : Nat) : Act :=
  raise 0x0100 (linkSource n) (r.serial % 2 ^ 32 * 2 ^ 32 + r.port % 256 * 2 ^ 24 + lanes % 16 * 2 ^ 20 + commonVersion r % 16 * 2 ^ 16 + r.rank % 65536)

/-- LINK_VERSION_DOWN (Table 10-14). -/
def versionEvent (n : Nat) (r : IdRec) (own : Nat) : Act :=
  raise 0x0104 (linkSource n) (r.verMax % 16 * 4096 + r.verMin % 16 * 256 + verMaxOwn * 16 + own % 16)

/-- LINK_QUARANTINE (Table 10-14). -/
def quarantineEvent (n found expected : Nat) : Act := raise 0x0102 (linkSource n) (found % 2 ^ 32 * 2 ^ 32 + expected % 2 ^ 32)

/-- Data lanes in use after the retirements of a link (Table 10-3). -/
def lanesOf (n : Nat) (retired : BitVec 5) : Nat :=
  let k := countIf (fun i => retired.getLsbD i) [0, 1, 2, 3, 4]
  if boardLink n then (if k ≤ 1 then 4 else if k = 2 then 2 else 0) else (if k = 0 then 4 else if k = 1 then 2 else 0)

/-- Judge a link's far end and act on it (Table 10-5 steps 7 to 9, R316). -/
def checkPeer (n : Nat) (r : IdRec) : Act :=
  .look fun b =>
    let l := b.ctl.link n
    let left := Act.when (l.state == .up) (Act.opt l.peer fun k => memberDown k.serial l.packets)
    let lanes := lanesOf n l.retired
    match b.judge n r with
    | .version =>
      Act.when (l.state != .versionDown || l.peer != some r) <|
        Act.all [updLink n fun l => l.cleared.enter .versionDown, versionEvent n r b.ctl.links.fabric.verMin, left]
    | .quarantine =>
      Act.when (l.state != .quarantined) <|
        Act.all [updLink n fun l => { (l.enter .quarantined) with version := commonVersion r, lanes := lanes },
          quarantineEvent n r.serial (b.ctl.links.fabric.expected b.slot n), left]
    | .pass => Act.when (l.state != .pass) <|
        (updLink n fun l => { (l.enter .pass) with version := commonVersion r, lanes := lanes }).seq (linkUpEvent n r lanes)
    | .up => Act.when (l.state != .up) <|
        (updLink n fun l => { (l.enter .up) with version := commonVersion r, lanes := lanes }).seq (linkUpEvent n r lanes)

/-! ## Training (R312) -/

/-- The cage of a front link lets it run: present, fed and not held in low power (R329, R435). -/
def Ctl.cageOk (c : Ctl) (n : Nat) : Bool :=
  boardLink n ||
  (c.pins.cageFeed.getLsbD (cageOf n) &&
    (match Tab.get (none : Option CageReading) c.links.cages (cageOf n) with
     | none => true
     | some r => r.present && (r.passiveCu || (decide (r.declaredW ≤ 16) && r.suitable && !r.alarm))))

/-- The link may train: after a failed step only once TRAINING_RETRY has started it again (R312). -/
def Block.mayTrain (b : Block) (n : Nat) : Bool :=
  let l := b.ctl.link n
  b.ctl.linksAlive && !l.disable && (l.state == .down || l.state == .training || l.state == .circuitDown) &&
  l.retryAt == 0 && b.ctl.cageOk n && decide (0 < lanesOf n l.retired)

/-- Both sides of a circuit pass their far ends' records on to each other, marked as passed through (R327). -/
def passRecord (n : Nat) : Act :=
  .look fun b => Act.opt (b.ctl.links.fabric.passOf n) fun (_, m) =>
    let give := fun (i k : Nat) => Act.opt (b.ctl.link i).peer fun r =>
      send (.link k) (.identity (idBytes { r with role := 2, transit := b.fuses.serial.toNat }))
    Act.when ((b.ctl.link n).state == .pass && (b.ctl.link m).state == .pass) ((give n m).seq (give m n))

/-- LINK_TRAIN (R312): an attempt fails at a step and waits 100 ms, or goes through: a fresh link, identities, version, peer. -/
def linkTrainAct (n : Nat) (o : TrainOutcome) : Act :=
  .look fun b => Act.when (b.mayTrain n) <|
    (updLink n fun l => { (l.enter .training) with retrain := false }).seq <|
    match o with
    | .failed step =>
      Act.all [updLink n fun l => { (l.cleared.enter .down) with retryAt := b.lhTime + 100000000, lastCause := if step.val = 2 then 4 else 3 },
        linkDownEvent n (if step.val = 2 then 0 else step.val) 0 (if step.val = 2 then 4 else 3)]
    | .trained r =>
      Act.all [updLink n fun l => { l.cleared with peer := some r, lastPeer := r.serial, lanes := lanesOf n l.retired, retryAt := 0 },
        send (.link n) (.identity (idBytes (b.ownId n))), checkPeer n r, passRecord n]

/-- An attempt to train counts in LINK_TRAIN_FAIL (R312). -/
def Link.counted (l : Link) : Link := { l with trainFails := (l.trainFails + 1) % 2 ^ 48 }

/-- TRAINING_RETRY (R312): 100 ms after a failed step training starts again; every attempt counts. -/
def trainingRetryAct (n : Nat) : Act :=
  .look fun b =>
    let l := b.ctl.link n
    Act.when (b.ctl.linksAlive && !l.disable && l.state == .down && l.retryAt != 0 && decide (l.retryAt ≤ b.lhTime)) <|
      updLink n fun l => { (l.counted.enter .training) with retryAt := 0 }

/-- IDENTITY_RECORD (R313, R314, R316): the far end's record replaces the old one and the link is checked again; on a circuit it
is passed on to the other side (R327). -/
def identityRecordAct (n : Nat) (r : IdRec) : Act :=
  .look fun b =>
    let l := b.ctl.link n
    Act.when (l.state.carries || l.state == .versionDown) <|
      Act.all [checkPeer n r, updLink n fun l => { l with peer := some r, lastPeer := r.serial },
        Act.opt (b.ctl.links.fabric.passOf n) fun (_, m) =>
          Act.when ((b.ctl.link m).state == .pass) (send (.link m) (.identity (idBytes { r with role := 2, transit := b.fuses.serial.toNat })))]

/-! ## Flits (R320 to R324) -/

/-- The 64-bit CRC with the ECMA-182 polynomial, most significant bit first, from 0 (log 21). -/
def crc64 (bs : Bytes) : Nat :=
  (bs.foldl (fun (c : BitVec 64) x =>
    (List.range 8).foldl (fun c _ => if c.getLsbD 63 then (c <<< 1) ^^^ 0x42F0E1EBA9EA3693 else c <<< 1) (c ^^^ ((BitVec.setWidth 64 x) <<< (56 : Nat)))) 0).toNat

/-- Fields of a flit header (Table 10-8). -/
structure FlitHead where
  vc    : Nat
  first : Bool
  last  : Bool
  seq   : Nat
  ack   : Nat
  cvc   : Nat
  cnt   : Nat
  nak   : Bool
  deriving DecidableEq, Repr

/-- The header of a flit. -/
def flitHead (f : Bytes) : FlitHead :=
  let h := u64 f 0
  { vc := bits h 2 0, first := bit h 3, last := bit h 4, seq := bits h 27 12, ack := bits h 43 28, cvc := bits h 46 44, cnt := bits h 54 47,
    nak := bit h 55 }

/-- The 8 bytes of a header. -/
def FlitHead.bytes (h : FlitHead) : Bytes :=
  leBytes (h.vc % 8 + (if h.first then 8 else 0) + (if h.last then 16 else 0) + h.seq % 65536 * 2 ^ 12 + h.ack % 65536 * 2 ^ 28 + h.cvc % 8 * 2 ^ 44 +
    h.cnt % 256 * 2 ^ 47 + (if h.nak then 2 ^ 55 else 0)) 8

/-- A flit with a header, payload and its CRC. -/
def mkFlit (h : FlitHead) (payload : Bytes) : Bytes :=
  let body := h.bytes ++ (payload ++ zeroBytes 240).take 240
  body ++ leBytes (crc64 body) 8

/-- A flit with no CRC error, FEC failure or reserved field. -/
def flitOk (f : Bytes) (fecOk : Bool) : Bool :=
  fecOk && f.length == 256 && leNat (slice f 248 8) == crc64 (f.take 248) && bits (u64 f 0) 63 56 == 0 && bits (u64 f 0) 11 5 == 0 && bits (u64 f 0) 2 0 != 6

/-- Reserved credits of a virtual channel (Table 10-10). -/
def reservedOf (vc : Nat) : Nat := creditsReset.getD vc 0

/-- Credits that come back: first the shared ones taken, then the reserved ones. -/
def Link.credit (l : Link) (vc n : Nat) : Link :=
  let s := l.shared.getD vc 0
  let back := min s n
  { l with shared := l.shared.set vc (s - back), credits := l.credits.set vc (min (reservedOf vc) (l.credits.getD vc 0 + (n - back))) }

/-- Flits leave the receiver's buffer: their credits are to be returned (R322). -/
def Link.release (l : Link) (vc n : Nat) : Link :=
  { l with held := l.held.set vc (l.held.getD vc 0 - n), owed := l.owed.set vc (l.owed.getD vc 0 + n) }

/-- A credit for one flit of a virtual channel: reserved first, then shared, at most 200 of the channel and 400 of all (R322). -/
def Link.spend (l : Link) (vc : Nat) : Option Link :=
  if 0 < l.credits.getD vc 0 then some { l with credits := l.credits.set vc (l.credits.getD vc 0 - 1) }
  else if l.shared.getD vc 0 < 200 ∧ l.shared.sum < 400 then some { l with shared := l.shared.set vc (l.shared.getD vc 0 + 1) }
  else none

/-- A CTRL or MGMT flit keeps within 1/16 of the flit slots of a microsecond: 14 of the 236 of four lanes, 7 with two (R323). -/
def Link.inCap (l : Link) (now vc : Nat) : Bool :=
  decide (countIf (fun t => t.1 == vc && decide (now < t.2 + 1000)) l.recent < (if 4 ≤ l.lanes then 14 else 7))

/-- The frame of weighted slots: TIDE 6, MIRROR 4, REQ 3, RSP 3 (Table 10-10; its order is the model's, log 63). -/
def slotFrame : List Nat := [2, 3, 0, 2, 1, 3, 2, 0, 2, 1, 3, 2, 0, 2, 1, 3]

/-- A virtual channel has both a flit and credit. -/
def Link.ready (l : Link) (vc : Nat) : Bool := l.waiting.any (fun w => w.vc == vc) && (l.spend vc).isSome

/-- The virtual channel of the next flit slot, and the frame's place after it (R323). -/
def Link.pick (l : Link) (now : Nat) : Option (Nat × Nat) :=
  if l.ready 4 && l.inCap now 4 then some (4, l.turn)
  else if l.ready 5 && l.inCap now 5 then some (5, l.turn)
  else ((List.range 16).find? fun i => l.ready (slotFrame.getD ((l.turn + i) % 16) 0)).map fun i =>
    (slotFrame.getD ((l.turn + i) % 16) 0, (l.turn + i + 1) % 16)

/-- The first flit of a virtual channel leaves a list. -/
def takeFlit (vc : Nat) : List WaitFlit → Option (WaitFlit × List WaitFlit)
  | [] => none
  | w :: ws => if w.vc = vc then some (w, ws) else (takeFlit vc ws).map fun r => (r.1, w :: r.2)

/-- The flits that leave a link while it has slots, credit and replay room, each with this side's own number (R321 to R323). -/
def Link.drain (l : Link) (now : Nat) : Nat → Link × List ReplayFlit
  | 0 => (l, [])
  | fuel + 1 =>
    if 1024 ≤ l.replayBuf.length then (l, [])
    else
      match l.pick now with
      | none => (l, [])
      | some (vc, turn) =>
        match l.spend vc, takeFlit vc l.waiting with
        | some l1, some (w, rest) =>
          let x : ReplayFlit := { seq := (l.txSeq + 1).toNat, flit := w, replays := 0 }
          let recent := if vc = 4 ∨ vc = 5 then (vc, now) :: l.recent.filter (fun t => decide (now < t.2 + 1000)) else l.recent
          let r := Link.drain { l1 with txSeq := l.txSeq + 1, waiting := rest, replayBuf := l.replayBuf ++ [x], turn := turn, recent := recent } now fuel
          (r.1, x :: r.2)
        | _, _ => (l, [])

/-- The bytes of a flit in a replay buffer: its payload is the passed one, or free, since the spec lays out no packet (log 63). -/
def Block.flitBytes (b : Block) (l : Link) (x : ReplayFlit) : Bytes :=
  mkFlit { vc := x.flit.vc, first := x.flit.first, last := x.flit.last, seq := x.seq, ack := l.rxSeq.toNat, cvc := 0, cnt := 0, nak := false }
    (match x.flit.load with | .passed bs => bs | .own _ => b.outside 255 (x.seq * 256) 240)

/-- A flit is of a circuit. -/
def WaitFlit.isPassed (w : WaitFlit) : Bool := match w.load with | .passed _ => true | .own _ => false

/-- Send what a link can send now.  Flits of own packets carry messages that have left the module already and go out unseen; those of a
circuit go out as they are, and free their places in the other side's buffer (R322, R327). -/
def pump (n : Nat) : Act :=
  .look fun b =>
    let l := b.ctl.link n
    let r := l.drain b.lhTime (l.waiting.length + 1)
    let passed := r.2.filter fun x => x.flit.isPassed
    Act.when (l.state.carries && !r.2.isEmpty) <|
      Act.all [updLink n fun _ => r.1, Act.each passed fun x => send (.link n) (.flit (b.flitBytes r.1 x)),
        Act.opt (b.ctl.links.fabric.passOf n) fun (_, m) => updLink m fun k => passed.foldl (fun k x => k.release x.flit.vc 1) k]

/-- An idle flit that carries ACK, a NAK and the credits owed on one channel. -/
def Link.control (l : Link) (nak : Bool) : Bytes × Link :=
  let vc := (List.range 6).find? (fun v => 0 < l.owed.getD v 0)
  let n := match vc with | some v => min 255 (l.owed.getD v 0) | none => 0
  (mkFlit { vc := 7, first := false, last := false, seq := l.txSeq.toNat, ack := l.rxSeq.toNat, cvc := vc.getD 0, cnt := n, nak := nak } [],
   { l with unacked := 0, owed := match vc with | some v => l.owed.set v (l.owed.getD v 0 - n) | none => l.owed })

/-- Return an ACK or NAK on a link. -/
def sendControl (n : Nat) (nak : Bool) : Act :=
  .look fun b =>
    let r := (b.ctl.link n).control nak
    (updLink n fun _ => r.2).seq (send (.link n) (.flit r.1))

/-- Sequence number a lies in the 1,024 flits up to b, modulo 2^16. -/
def covered (a b : Nat) : Bool := decide ((b + 65536 - a) % 65536 < 1024)

/-- A link-down event of cause 1 counts in the trend of the link's lanes; the eighth in a window retires one (R403, log 22). -/
def replayTrend (n : Nat) : Act :=
  .look fun b =>
    let w := bits b.ctl.power.monClass.toNat 15 8 * 3600000000000
    let key := 6 * 65536 + n * 8
    let ts := b.lhTime :: (Tab.get [] b.ctl.health.corrected key).filter fun t => decide (b.lhTime < t + w)
    let lane := (List.range 5).find? fun i => !((b.ctl.link n).retired.getLsbD i) && (boardLink n || decide (i < 4))
    .upd fun c => { c with health := { c.health with
      corrected := Tab.set [] c.health.corrected key (if 8 ≤ ts.length then [] else ts),
      planned := match lane with
        | some i => if 8 ≤ ts.length then ({ cls := 6, number := n * 8 + i, row := 0, bank := 0 }, 2) :: c.health.planned else c.health.planned
        | none => c.health.planned } }

/-- Every flit that no ACK covers is sent again in order and counts in LINK_REPLAY; one replayed for the eighth time takes the link down
with cause 1 (R309, R321). -/
def replayAll (n : Nat) : Act :=
  .look fun b =>
    let l := b.ctl.link n
    let again := l.replayBuf.map fun x => { x with replays := x.replays + 1 }
    Act.all [updLink n fun l => { l with replayBuf := again, replays := (l.replays + again.length) % 2 ^ 48 },
      Act.when (again.any fun x => !x.flit.isPassed) takeFresh, Act.each again fun x => send (.link n) (.flit (b.flitBytes l x)),
      Act.when (again.any fun x => decide (8 ≤ x.replays)) ((linkDown n .down 0 l.lanes 1).seq (replayTrend n))]

/-- The sender's side of a received flit (R321): the ACK covers, credits return, a NAK resends in order. -/
def flitSender (n : Nat) (h : FlitHead) : Act :=
  Act.all [updLink n fun l =>
      { (if h.cvc < 6 then l.credit h.cvc h.cnt else l) with replayBuf := l.replayBuf.filter fun x => !covered x.seq h.ack },
    Act.when h.nak (replayAll n), pump n]

/-- Virtual channels that a link delivers from (R316): MGMT alone when quarantined; no TIDE and no MIRROR in a bundle that no entry
configures. -/
def Ctl.delivers (c : Ctl) (n vc : Nat) : Bool :=
  let l := c.link n
  match l.state with
  | .quarantined => vc == 5
  | .up => (vc != 2 && vc != 3) || (match l.peer with | some r => c.links.fabric.bundles.any fun e => c.links.fabric.serialOf e.peer == r.serial | none => false)
  | _ => true

/-- A good flit in order is taken into the buffer.  With the last of a packet the packet is delivered, in its bundle's order, and its places
are free (R318, R322); a flit of a virtual channel that the link does not carry is dropped. -/
def takeFlitIn (n : Nat) (h : FlitHead) : Act :=
  .look fun b =>
    let key := match (b.ctl.link n).peer with | some r => bundleKey r.serial h.vc | none => 0
    Act.all [updLink n fun l => { l with rxSeq := l.rxSeq + 1, unacked := l.unacked + 1, held := l.held.set h.vc (l.held.getD h.vc 0 + 1) },
      Act.when ((b.ctl.link n).state != .pass && (h.last || !b.ctl.delivers n h.vc)) (updLink n fun l => l.release h.vc (l.held.getD h.vc 0)),
      Act.when ((b.ctl.link n).state == .up && h.last && b.ctl.delivers n h.vc)
        (updBundles fun s => { s with next := Tab.set 0 s.next key (Tab.get 0 s.next key + 1) })]

/-- FLIT_RECEIVE (R321, R327): a bad or out-of-order flit is discarded and answered with NAK; a good one is taken in order, and on
a circuit goes on to the other side while that carries it. -/
def flitReceiveAct (n : Nat) (f : Bytes) (fecOk : Bool) : Act :=
  .look fun b =>
    let l := b.ctl.link n
    let h := flitHead f
    Act.when (b.ctl.linksAlive && l.state.carries) <|
      if !flitOk f fecOk then sendControl n true
      else if h.vc = 7 then flitSender n h
      else if h.seq ≠ (l.rxSeq + 1).toNat then (flitSender n h).seq (sendControl n true)
      else
        Act.all [flitSender n h,
          .look fun b => Act.when ((b.ctl.link n).state.carries) <|
            Act.all [takeFlitIn n h,
              Act.when (b.ctl.power.state == .idle && b.ctl.delivers n h.vc && (h.vc == 0 || h.vc == 4))
                (.upd fun c => { c with power := { c.power with state := .run } }),
              Act.when (l.state == .pass) (Act.opt (b.ctl.links.fabric.passOf n) fun (_, m) =>
                if (b.ctl.link m).state == .pass then
                  (updLink m fun k => { k with waiting := k.waiting ++ [{ vc := h.vc, first := h.first, last := h.last, load := .passed (slice f 8 240) }] }).seq (pump m)
                else updLink n fun l => l.release h.vc 1),
              Act.when (decide (32 ≤ l.unacked + 1)) (sendControl n false)]]

/-- ACK_TIMER (R321): 200 ns after the last ACK, one is returned if a flit has come. -/
def ackTimerAct (n : Nat) : Act :=
  .look fun b => Act.when (b.ctl.linksAlive && (b.ctl.link n).state.carries && decide (0 < (b.ctl.link n).unacked)) (sendControl n false)

/-! ## Own traffic (R318, R322, R323) -/

/-- Virtual channel on which a message of this module travels; none for one that crosses no link of itself. -/
def msgVc : Msg → Option Nat
  | .request _ => some 0
  | .response _ | .noAnswer => some 1
  | .grant _ | .piece _ | .payload _ | .partialOf _ | .window _ | .windowData _ | .global _ | .poison _ | .resend _ => some 2
  | .stateRecord _ | .mirror _ | .mirrorAck _ | .commitNotice _ => some 3
  | .identity _ => some 5
  | .msix _ | .flit _ | .spdm _ _ | .bar2Data _ | .pldm _ => none
  | _ => some 4

/-- Bytes that a mirror message carries. -/
def mirrorSize : MirrorMsg → Nat
  | .record _ _ _ _ bs | .context _ bs | .command _ bs | .completion _ _ bs | .back _ _ _ _ bs | .backContext _ bs => bs.length
  | .journal _ _ => 0

/-- Bytes that a message carries. -/
def msgSize : Msg → Nat
  | .request (.store _ _ bs) | .request (.rankStore _ _ _ bs) | .response bs | .windowData bs => bs.length
  | .piece p => p.header.length + p.pages.length
  | .payload p => (p.data.map fun s => s.bytes.length).sum
  | .partialOf p => (p.data.map fun s => s.bytes.length).sum
  | .global (.page _ _ _ _ bs) => bs.length
  | .global (.cache _ _ _ _ data) => (data.map fun s => s.bytes.length).sum
  | .mirror m => mirrorSize m
  | .stateRecord r => (r.seqs.map fun x => x.entry.length).sum + (r.progress.map fun x => x.bytes.length).sum
  | _ => 0

/-- Flits of the packets of a message: one packet for each 4 KiB segment (R208), 240 bytes a flit (R320); the header inside is left out,
since the spec does not size it (log 63). -/
def msgFlits (m : Msg) : List Nat :=
  (List.range (max 1 (ceilDiv (msgSize m) 4096))).map fun i => max 1 (ceilDiv (min 4096 (msgSize m - 4096 * i)) 240)

/-- Serial of the module that a message goes to over a bundle. -/
def Block.destSerial (b : Block) : Dest → Option Nat
  | .rank r => if (b.ctl.servesRank r).isSome then none else (b.ctl.links.fabric.ranks[r]?).map (·.serial)
  | .slot s =>
    if s = b.slot then none
    else (b.ctl.links.links.findSome? fun e => match e.2.peer with | some r => if boardLink e.1 && r.slot == s then some r.serial else none | none => none)
  | .partner => some b.ctl.pair.partnerSerial
  | .link n => (b.ctl.link n).peer.map (·.serial)
  | _ => none

/-- Credit that a link has left for a virtual channel beyond the flits that wait on it. -/
def Link.freeCredit (l : Link) (vc : Nat) : Bool :=
  decide (countIf (fun w => w.vc == vc) l.waiting < l.credits.getD vc 0 + min (200 - l.shared.getD vc 0) (400 - l.shared.sum))

/-- The flits of a packet. -/
def Packet.toFlits (p : Packet) : List WaitFlit :=
  (List.range p.flits).map fun i => { vc := p.vc, first := i == 0, last := i + 1 == p.flits, load := .own p }

/-- The member that takes a packet: of those that carry its virtual channel and have free credit, the next in turn (R316, R318). -/
def Ctl.memberFor (c : Ctl) (p : Packet) : Option Nat :=
  let ms := (c.members p.peer).filter fun n => c.delivers n p.vc
  let after := Tab.get 0 c.links.bundles.last p.peer
  ((ms.filter fun n => decide (after ≤ n)) ++ ms.filter fun n => decide (n < after)).find? fun n => (c.link n).freeCredit p.vc

/-- Assign the packets that wait to members, in order. -/
def Ctl.assign (c : Ctl) : Ctl :=
  c.links.bundles.queue.foldl (fun c p =>
    let s := c.links.bundles
    match c.memberFor p with
    | none => { c with links := { c.links with bundles := { s with queue := s.queue ++ [p] } } }
    | some n =>
      let l := c.link n
      { c with links := { c.links with links := Tab.set Link.reset c.links.links n { l with waiting := l.waiting ++ p.toFlits },
                                       bundles := { s with last := Tab.set 0 s.last p.peer (n + 1) } } })
    { c with links := { c.links with bundles := { c.links.bundles with queue := [] } } }

/-- A packet for a bundle waits for a member; one that names its link waits there (R313, R319). -/
def Ctl.offer (c : Ctl) (dest : Dest) (peer vc flits : Nat) : Ctl :=
  let s := c.links.bundles.push peer vc flits
  match dest with
  | .link n =>
    let l := c.link n
    let p : Packet := { peer := peer, vc := vc, num := Tab.get 0 c.links.bundles.sent (bundleKey peer vc), flits := flits }
    { c with links := { c.links with links := Tab.set Link.reset c.links.links n { l with waiting := l.waiting ++ p.toFlits },
                                     bundles := { s with queue := c.links.bundles.queue } } }
  | _ => { c with links := { c.links with bundles := s } }

/-- The links take over the messages sent since they last did, as packets. -/
def Block.packed (b : Block) : Ctl :=
  let new := (b.out.take (b.out.length - b.ctl.links.bundles.taken)).reverse
  let c := new.foldl (fun c x => match msgVc x.msg, b.destSerial x.dest with
    | some vc, some peer => (msgFlits x.msg).foldl (fun c n => c.offer x.dest peer vc n) c
    | _, _ => c) b.ctl
  { c with links := { c.links with bundles := { c.links.bundles with taken := b.out.length } } }

/-- The links go on with own traffic: messages become packets, packets go to members, and members send what they can. -/
def linksRun : Act :=
  .look fun b => Act.when b.ctl.linksAlive <|
    Act.all [.upd fun _ => b.packed, .upd Ctl.assign,
      .look fun c => Act.each ((c.ctl.links.links.filter fun e => !e.2.waiting.isEmpty).map Prod.fst) pump]

/-- GAP_NOTICE (R319): the receiver delivers past the numbers that the notice names. -/
def gapNoticeAct (m : GapNotice) : Act :=
  Act.when (!m.lost.isEmpty) <| .upd fun c =>
    let k := bundleKey m.peer m.vc.val
    let bs := c.links.bundles
    { c with links := { c.links with bundles :=
      { bs with
        next := Tab.set 0 bs.next k (m.lost.foldl (fun x n => max x (n + 1)) (Tab.get 0 bs.next k)),
        skipped := Tab.set 0 bs.skipped k (Tab.get 0 bs.skipped k + m.lost.length) } } }

/-! ## Lanes and signal (R308, R309, R325, R326, R402) -/

/-- Key of a unit in the tables of errors. -/
def unitKey (u : UnitRef) : Nat := (u.cls * 65536 + u.number) * 65536 + (if u.cls = 1 then u.row else 0)

/-- The classification window in ns of Lighthouse time. -/
def Ctl.window (c : Ctl) : Nat := bits c.power.monClass.toNat 15 8 * 3600000000000

/-- MON_CLASS.THRESH. -/
def Ctl.thresh (c : Ctl) : Nat := bits c.power.monClass.toNat 7 0

/-- The times of a list that lie in the window, with a new one in front. -/
def inWindow (w now : Nat) (ts : List Nat) : List Nat := now :: ts.filter fun t => decide (now < t + w)

/-- A lane is retired (R308, R406, R411): the link narrows, or goes down with cause 2. -/
def retireLane (n lane reason : Nat) : Act :=
  .look fun b =>
    let l := b.ctl.link n
    Act.when (!l.retired.getLsbD lane && (boardLink n || decide (lane < 4))) <|
      let r := l.retired ||| BitVec.ofNat 5 (2 ^ lane)
      let spare := boardLink n && !l.spareUsed && lane != 4 && countIf (fun i => l.retired.getLsbD i) [0, 1, 2, 3, 4] == 0
      let after := lanesOf n r
      Act.all [
        updLink n fun l => { l with retired := r, spareUsed := l.spareUsed || spare, lanes := if l.state.carries then after else l.lanes },
        Act.when (l.state.carries && after != 0) (replayAll n),
        .upd fun c => { c with health := { c.health with spares := { c.health.spares with lanes := c.health.spares.lanes ++ [n * 8 + lane] } } },
        raise 0x0103 (linkSource n) ((if spare then 256 else 0) + after * 16 + lane),
        unitRetired 6 (n * 8 + lane) (n * 8 + lane) (if spare then n * 8 + 4 else 0xFFFF) reason (linkSource n),
        spareLow 6 n 0 (linkSource n),
        Act.when ((l.state.carries || l.state == .training || l.state == .versionDown) && after == 0) (linkDown n .down 0 0 2)]

/-- LANE_LOSS (R308, R309): a lane that loses lock is retired; sequence numbers, replay buffer and credits stay, and what no ACK covers is
sent again. -/
def laneLossAct (n lane : Nat) : Act :=
  .look fun b => Act.when (b.ctl.linksAlive && ((b.ctl.link n).state.carries || (b.ctl.link n).state == .training || (b.ctl.link n).state == .versionDown)) (retireLane n lane 1)

/-- A transient error of a lane (R402): the count that reaches THRESH in the window retires the lane. -/
def chargeLane (n lane : Nat) : Act :=
  .look fun b =>
    let u : UnitRef := { cls := 6, number := n * 8 + lane, row := 0, bank := 0 }
    let ts := inWindow b.ctl.window b.lhTime (Tab.get [] b.ctl.health.transient (unitKey u))
    let ok := decide (ts.length < b.ctl.thresh)
    Act.all [
      .upd fun c => { c with health := { c.health with transient := Tab.set [] c.health.transient (unitKey u) (if ok then ts else []) } },
      history fun t => { time := t, cls := 6, kind := if ok then 0 else 1, unit := u.number, detail := 0 },
      Act.when (!ok) (retireLane n lane 0)]

/-- The link is bound to a running job, or to a pass-through entry (R326). -/
def Ctl.inJobLink (c : Ctl) (n : Nat) : Bool :=
  (c.links.fabric.passOf n).isSome ||
  (c.job.inJob && (match (c.link n).peer with | some r => c.links.fabric.bundles.any fun e => c.links.fabric.serialOf e.peer == r.serial | none => false))

/-- SIGNAL_LOSS (R325, R326): a front link that loses signal on every lane enters CIRCUIT_DOWN, an error of its lanes when it is bound to a
running job; one that loses some lanes goes down with cause 2.  A board link without signal goes down with cause 5, and lanes that it loses
are retired (R308). -/
def signalLossAct (n : Nat) (lanes : List (Fin 5)) : Act :=
  .look fun b =>
    let l := b.ctl.link n
    let k := l.peer
    let here := (List.finRange 5).filter fun i => !l.retired.getLsbD i.val && (boardLink n || decide (i.val < 4))
    let left := here.filter fun i => !lanes.contains i
    Act.when (b.ctl.linksAlive && (l.state.carries || l.state == .training || l.state == .versionDown) && decide (left.length < here.length)) <|
      if boardLink n then
        (if left.isEmpty then linkDown n .down 0 0 5
         else Act.each ((here.filter fun i => lanes.contains i).map Fin.val) fun k => retireLane n k 1)
      else if !left.isEmpty then linkDown n .down 0 left.length 2
      else
        Act.all [updLink n fun l => l.cleared.enter .circuitDown, raise 0x0105 (linkSource n) (if b.ctl.inJobLink n then 1 else 0),
          Act.when (b.ctl.inJobLink n) (Act.each ((List.range 4).filter fun k => !l.retired.getLsbD k) (chargeLane n)),
          Act.when (l.state == .up) (Act.opt k fun r => memberDown r.serial l.packets)]

/-! ## Cages (R329, R435) -/

/-- Both links of a cage go down for a cause. -/
def cageDown (cage cause : Nat) : Act :=
  Act.each [56 + 2 * cage, 57 + 2 * cage] fun n => .look fun b =>
    Act.when ((b.ctl.link n).state.carries || (b.ctl.link n).state == .training || (b.ctl.link n).state == .versionDown) (linkDown n .down 0 0 cause)

/-- Firmware records a reading of a cage and holds the module in low power where R329 says so. -/
def cageReading (cage : Nat) (r : CageReading) : Act :=
  .look fun b =>
    Act.all [.upd fun c => { c with links := { c.links with cages := Tab.set none c.links.cages cage (some r) } },
      if !r.present then Act.each [56 + 2 * cage, 57 + 2 * cage] fun n => signalLossAct n [0, 1, 2, 3]
      else Act.when (!(r.passiveCu || (decide (r.declaredW ≤ 16) && r.suitable && !r.alarm))) (cageDown cage 6),
      Act.when (r.present && decide (16 < r.drawW) && b.ctl.pins.cageFeed.getLsbD cage) <|
        (Act.upd fun c => { c with pins := { c.pins with cageFeed := c.pins.cageFeed &&& ~~~(BitVec.ofNat 20 (2 ^ cage)) } }).seq (cageDown cage 6)]

/-- CAGE_INSERT (R329). -/
def cageInsertAct (cage : Nat) (r : CageReading) : Act := .look fun b => Act.when b.ctl.linksAlive (cageReading cage r)

/-- CMIS_POLL (R329, R435). -/
def cmisPollAct (cage : Nat) (r : CageReading) : Act :=
  .look fun b => Act.when (b.ctl.linksAlive && (Tab.get (none : Option CageReading) b.ctl.links.cages cage).isSome) (cageReading cage r)

/-! ## Registers (R479) -/

/-- A port may write the blocks that only port 0 may write (R474). -/
def Ctl.mayWriteCommon (c : Ctl) (port : Bool) : Bool :=
  c.hasPort port && !port && c.glb.pcieUp && !c.glb.glbOnly && (c.power.state == .run || c.power.state == .idle) && !c.pins.perst0

/-- LNK_DISABLE (R479): a write of LNK_n_CTRL with DISABLE 1 holds the link DISABLED; one with DISABLE 0 and RETRAIN 0 lets it go. -/
def lnkDisableAct (port : Bool) (n : Nat) (v : BitVec 64) : Act :=
  .look fun b => Act.when (b.ctl.mayWriteCommon port) <|
    let l := b.ctl.link n
    if v.getLsbD 0 then
      Act.all [updLink n fun l => { l with disable := true, retrain := false },
        if l.state.carries then linkDown n .disabled 0 l.lanes 7 else updLink n fun l => l.cleared.enter .disabled]
    else Act.when (!v.getLsbD 1) (updLink n fun l => { (if l.state = .disabled then l.enter .down else l) with disable := false })

/-- LNK_RETRAIN (R479): a write with RETRAIN 1 and DISABLE 0 takes an up link down with cause 7 and starts training. -/
def lnkRetrainAct (port : Bool) (n : Nat) (v : BitVec 64) : Act :=
  .look fun b => Act.when (b.ctl.mayWriteCommon port && v.getLsbD 1 && !v.getLsbD 0) <|
    let l := b.ctl.link n
    Act.all [Act.when l.state.carries (linkDown n .down 0 l.lanes 7),
      updLink n fun l => { ((if l.retryAt = 0 then l else l.counted).enter .training) with disable := false, retrain := true, retryAt := 0 }]

/-! ## Meanings -/

/-- LINK_TRAIN. -/
def execLinkTrain (link : Fin 96) (o : TrainOutcome) (s : State) : Host.Outcome State Fault Refusal := s.perform (linkTrainAct link.val o)
/-- TRAINING_RETRY. -/
def execTrainingRetry (link : Fin 96) (s : State) : Host.Outcome State Fault Refusal := s.perform (trainingRetryAct link.val)
/-- IDENTITY_RECORD. -/
def execIdentityRecord (link : Fin 96) (r : IdRec) (s : State) : Host.Outcome State Fault Refusal := s.perform (identityRecordAct link.val r)
/-- FLIT_RECEIVE. -/
def execFlitReceive (link : Fin 96) (flit : Bytes) (fecOk : Bool) (s : State) : Host.Outcome State Fault Refusal :=
  s.perform (flitReceiveAct link.val flit fecOk)
/-- ACK_TIMER. -/
def execAckTimer (link : Fin 96) (s : State) : Host.Outcome State Fault Refusal := s.perform (ackTimerAct link.val)
/-- LANE_LOSS. -/
def execLaneLoss (link : Fin 96) (lane : Fin 5) (s : State) : Host.Outcome State Fault Refusal := s.perform (laneLossAct link.val lane.val)
/-- SIGNAL_LOSS. -/
def execSignalLoss (link : Fin 96) (lanes : List (Fin 5)) (s : State) : Host.Outcome State Fault Refusal := s.perform (signalLossAct link.val lanes)
/-- GAP_NOTICE. -/
def execGapNotice (m : GapNotice) (s : State) : Host.Outcome State Fault Refusal := s.perform (gapNoticeAct m)
/-- CAGE_INSERT. -/
def execCageInsert (cage : Fin 20) (r : CageReading) (s : State) : Host.Outcome State Fault Refusal := s.perform (cageInsertAct cage.val r)
/-- CMIS_POLL. -/
def execCmisPoll (cage : Fin 20) (r : CageReading) (s : State) : Host.Outcome State Fault Refusal := s.perform (cmisPollAct cage.val r)
/-- LNK_DISABLE. -/
def execLnkDisable (port : Fin 2) (link : Fin 96) (value : BitVec 64) (s : State) : Host.Outcome State Fault Refusal :=
  s.perform (lnkDisableAct (port == 1) link.val value)
/-- LNK_RETRAIN. -/
def execLnkRetrain (port : Fin 2) (link : Fin 96) (value : BitVec 64) (s : State) : Host.Outcome State Fault Refusal :=
  s.perform (lnkRetrainAct (port == 1) link.val value)

end Sys2Proof.Machine
end

