-- ==== Sys2Proof/Machine/Clock.lean ====
section
/-! DEFINITION. The passing of time on an empty queue: LH_TIME (R442) and the time counters of the coves (R293, R294); log 3. -/

namespace Sys2Proof.Machine

/-- Nanoseconds of one tick, and the 64ths of a nanosecond carried to the next: the module reference clock advances LH_TIME by
10 ns; in STANDBY the 32,768 Hz crystal advances it by 30,517 and 37/64 ns a period; in OFF time stands still (R442). -/
def tickLength (p : PowerState) (frac : Nat) : Nat × Nat :=
  match p with
  | .off => (0, frac)
  | .standby => (30517 + (frac + 37) / 64, (frac + 37) % 64)
  | _ => (10, frac)

/-! ## Cove time (Table 09-5, counter codes of Table 16-12) -/

/-- COVE_BUSY. -/
def codeBusy : Nat := 8

/-- The operation that was taken first. -/
def oldestCtx : List (Nat × Ctx) → Option (Nat × Ctx)
  | [] => none
  | x :: xs => match oldestCtx xs with | none => some x | some y => if y.2.taken < x.2.taken then some y else some x

/-- Causes that hold back a queue head: a step boundary until the Flood, scratch space for a take, its waits, or the data of its
shape (R66, R76, R178, Table 09-5). -/
def Block.headCauses (b : Block) (cove : Nat) (second : Bool) (e : QEntry) : List Nat :=
  let short := usesScratch e.record &&
    decide (scratchBudget < b.ctl.heldScratch cove + b.ctl.plan.workingSet e.record cove + b.ctl.plan.residentScratch cove)
  let held := (if b.passRuns then [] else [4]) ++ (if short then [2] else []) ++ (if takeReady e.record e.met then [] else b.ctl.waitCauses second e.record e.met)
  if held.isEmpty then [1] else held

/-- The counter that a cove's time goes to: busy while an operation advances; else the cause that holds the oldest operation in a
context, or the queue head; none when the cove is idle (R294). -/
def Block.charge (b : Block) (cove : Nat) : Option Nat :=
  let v := b.ctl.cove cove
  if v.ctxs.any fun x => (b.ctl.blocker cove x.1 x.2).isNone then some codeBusy
  else match oldestCtx v.ctxs with
    | some x => b.ctl.blocker cove x.1 x.2
    | none => match (v.queue.map fun e => (false, e)) ++ v.queue2.map fun e => (true, e) with
      | [] => none
      | (second, e) :: _ => firstCause (b.headCauses cove second e)

/-- A cove's counters after `ns` nanoseconds: three units a nanosecond (R293).  While clocks are stepped down a share of busy time, which the
spec leaves open, is the shortfall and counts as STALL_LIMIT (R44, log 38).  COVE_IDLE is not kept: it is the rest (READ_COUNTERS). -/
def Block.spent (b : Block) (cove ns : Nat) : Tab Nat :=
  let cs := (b.ctl.cove cove).counters
  match b.charge cove with
  | none => cs
  | some k =>
    let lost := if k = codeBusy ∧ b.ctl.power.clocksDown = true then Config.lostShare b.fresh cove % (3 * ns + 1) else 0
    addCount (addCount cs k (3 * ns - lost)) 5 lost

/-- A tick: time passes for Lighthouse, the coves and the links (log 3). -/
def tickAct : Act :=
  .look fun b =>
    let (ns, frac) := tickLength b.ctl.power.state b.ctl.lh.frac
    Act.all [.one (.tick ns), Act.when b.ctl.power.clocksDown takeFresh, .upd fun c =>
      { c with lh := { c.lh with frac := frac },
               engine := { c.engine with coves := c.engine.coves.map fun e => (e.1, { e.2 with counters := b.spent e.1 ns }) } },
      linksRun]

end Sys2Proof.Machine
end

