-- ==== Sys2Proof/Machine/Flags.lean ====
section
/-! DEFINITION. The status flags of the Lighthouse domain and their occurrence counters (R12, R304, R443, R478), and what wakes the
module from STANDBY (R444, R447). -/

namespace Sys2Proof.Machine

/-! ## Flags of LH_STATUS (Table 16-6) -/

/-- CMP0, LH_TIME reached LH_CMP0. -/
def flagCmp0 : Nat := 0
/-- CMP1. -/
def flagCmp1 : Nat := 1
/-- TEMP, a die junction passed its level. -/
def flagTemp : Nat := 2
/-- V54_UP. -/
def flagV54 : Nat := 3
/-- WAKE_IN. -/
def flagWakeIn : Nat := 4
/-- PCIE. -/
def flagPcie : Nat := 5
/-- UNDERVOLT. -/
def flagUnder : Nat := 6
/-- LEAK. -/
def flagLeak : Nat := 7

/-- A flag set by an occurrence of its condition: the flag reads 1 and its counter rises by 1, wrapping at 16 bits (R304). -/
def Lighthouse.occur (h : Lighthouse) (k : Nat) : Lighthouse :=
  { h with flags := h.flags ||| BitVec.ofNat 8 (2 ^ k), counts := Tab.set 0 h.counts k (Tab.get 0 h.counts k + 1) }

/-- Every flag of a set occurs. -/
def Lighthouse.occurAll (h : Lighthouse) (ks : BitVec 8) : Lighthouse :=
  (List.range 8).foldl (fun h k => if ks.getLsbD k then h.occur k else h) h

/-- A write to LH_STATUS clears the flags it writes 1 to; a flag whose condition occurs in the same cycle stays set and is counted (R12, R304). -/
def Lighthouse.clear (h : Lighthouse) (v landing : BitVec 8) : Lighthouse := ({ h with flags := h.flags &&& ~~~v }).occurAll landing

/-- Change the Lighthouse registers. -/
def updLh (f : Lighthouse → Lighthouse) : Act := .upd fun c => { c with lh := f c.lh }

/-! ## Waking (R444, R447) -/

/-- The detail of STANDBY_WAKE (Table 14-4): seconds in STANDBY, saturating, and the cause. -/
def wakeDetail (ns k : Nat) : Nat := min (ns / 1000000000) (2 ^ 32 - 1) * 2 ^ 32 + 2 ^ k

/-- A wake from STANDBY: the dies come out of reset into BOOT at step 3 of start-up, SEQNO restarts, and STANDBY_WAKE is the first event;
a wake that the module begins itself goes to the host as WAKE#. -/
def wakeUp (k : Nat) : Act :=
  .look fun b => Act.all [
    .upd (fun c => let d := c.resetDies b.lhTime; { d with pins := { d.pins with wake := k != flagPcie } }),
    .one .arbReset,
    raise 0x0901 (src 8 0) (wakeDetail (b.lhTime - b.ctl.power.standbyAt) k)]

/-- A Lighthouse flag occurs; in STANDBY it wakes the module when its wake-enable bit is set (R443, R478). -/
def lighthouseFlag (k : Nat) : Act :=
  .look fun b => Act.when (b.ctl.power.state != .off) <|
    (updLh fun h => h.occur k).seq (Act.when (b.ctl.power.state == .standby && decide (k < 6) && b.ctl.lh.wakeEn.getLsbD k) (wakeUp k))

end Sys2Proof.Machine
end

