-- ==== Sys2Proof/Machine/Hash.lean ====
section
/-! DEFINITION. SHA-512 as FIPS 180-4 defines it, and ECDSA verification on curve P-521 as FIPS 186-5 defines it, on which the digests
and signatures of chapter 15 rest. -/

namespace Sys2Proof.Machine

/-! ## SHA-512 -/

/-- Round constants 0 to 15. -/
def shaK0 : List (BitVec 64) :=
  [0x428A2F98D728AE22, 0x7137449123EF65CD, 0xB5C0FBCFEC4D3B2F, 0xE9B5DBA58189DBBC,
   0x3956C25BF348B538, 0x59F111F1B605D019, 0x923F82A4AF194F9B, 0xAB1C5ED5DA6D8118,
   0xD807AA98A3030242, 0x12835B0145706FBE, 0x243185BE4EE4B28C, 0x550C7DC3D5FFB4E2,
   0x72BE5D74F27B896F, 0x80DEB1FE3B1696B1, 0x9BDC06A725C71235, 0xC19BF174CF692694]

/-- Round constants 16 to 31. -/
def shaK1 : List (BitVec 64) :=
  [0xE49B69C19EF14AD2, 0xEFBE4786384F25E3, 0x0FC19DC68B8CD5B5, 0x240CA1CC77AC9C65,
   0x2DE92C6F592B0275, 0x4A7484AA6EA6E483, 0x5CB0A9DCBD41FBD4, 0x76F988DA831153B5,
   0x983E5152EE66DFAB, 0xA831C66D2DB43210, 0xB00327C898FB213F, 0xBF597FC7BEEF0EE4,
   0xC6E00BF33DA88FC2, 0xD5A79147930AA725, 0x06CA6351E003826F, 0x142929670A0E6E70]

/-- Round constants 32 to 47. -/
def shaK2 : List (BitVec 64) :=
  [0x27B70A8546D22FFC, 0x2E1B21385C26C926, 0x4D2C6DFC5AC42AED, 0x53380D139D95B3DF,
   0x650A73548BAF63DE, 0x766A0ABB3C77B2A8, 0x81C2C92E47EDAEE6, 0x92722C851482353B,
   0xA2BFE8A14CF10364, 0xA81A664BBC423001, 0xC24B8B70D0F89791, 0xC76C51A30654BE30,
   0xD192E819D6EF5218, 0xD69906245565A910, 0xF40E35855771202A, 0x106AA07032BBD1B8]

/-- Round constants 48 to 63. -/
def shaK3 : List (BitVec 64) :=
  [0x19A4C116B8D2D0C8, 0x1E376C085141AB53, 0x2748774CDF8EEB99, 0x34B0BCB5E19B48A8,
   0x391C0CB3C5C95A63, 0x4ED8AA4AE3418ACB, 0x5B9CCA4F7763E373, 0x682E6FF3D6B2B8A3,
   0x748F82EE5DEFB2FC, 0x78A5636F43172F60, 0x84C87814A1F0AB72, 0x8CC702081A6439EC,
   0x90BEFFFA23631E28, 0xA4506CEBDE82BDE9, 0xBEF9A3F7B2C67915, 0xC67178F2E372532B]

/-- Round constants 64 to 79. -/
def shaK4 : List (BitVec 64) :=
  [0xCA273ECEEA26619C, 0xD186B8C721C0C207, 0xEADA7DD6CDE0EB1E, 0xF57D4F7FEE6ED178,
   0x06F067AA72176FBA, 0x0A637DC5A2C898A6, 0x113F9804BEF90DAE, 0x1B710B35131C471B,
   0x28DB77F523047D84, 0x32CAAB7B40C72493, 0x3C9EBE0A15C9BEBC, 0x431D67C49C100D4C,
   0x4CC5D4BECB3E42B6, 0x597F299CFC657E2A, 0x5FCB6FAB3AD6FAEC, 0x6C44198C4A475817]

/-- The eighty round constants. -/
def shaK : List (BitVec 64) := shaK0 ++ shaK1 ++ shaK2 ++ shaK3 ++ shaK4

/-- The eight working words. -/
structure ShaState where
  a : BitVec 64
  b : BitVec 64
  c : BitVec 64
  d : BitVec 64
  e : BitVec 64
  f : BitVec 64
  g : BitVec 64
  h : BitVec 64
  deriving DecidableEq, Repr

/-- The initial hash value. -/
def ShaState.init : ShaState :=
  { a := 0x6A09E667F3BCC908, b := 0xBB67AE8584CAA73B, c := 0x3C6EF372FE94F82B, d := 0xA54FF53A5F1D36F1,
    e := 0x510E527FADE682D1, f := 0x9B05688C2B3E6C1F, g := 0x1F83D9ABFB41BD6B, h := 0x5BE0CD19137E2179 }

/-- The big-endian 64-bit word of eight bytes. -/
def beWord (bs : Bytes) : BitVec 64 := BitVec.ofNat 64 (beNat bs)

/-- `len` bytes of a number, big-endian. -/
def beBytes (n len : Nat) : Bytes := (leBytes n len).reverse

/-- The message schedule behind its last sixteen words, newest first. -/
def shaSchedule : Nat → List (BitVec 64) → List (BitVec 64)
  | 0, w => w
  | n + 1, w =>
    let s0 := fun (x : BitVec 64) => x.rotateRight 1 ^^^ x.rotateRight 8 ^^^ x >>> (7 : Nat)
    let s1 := fun (x : BitVec 64) => x.rotateRight 19 ^^^ x.rotateRight 61 ^^^ x >>> (6 : Nat)
    shaSchedule n ((s1 (w.getD 1 0) + w.getD 6 0 + s0 (w.getD 14 0) + w.getD 15 0) :: w)

/-- One round. -/
def shaRound (s : ShaState) (kw : BitVec 64 × BitVec 64) : ShaState :=
  let ch := (s.e &&& s.f) ^^^ (~~~s.e &&& s.g)
  let maj := (s.a &&& s.b) ^^^ (s.a &&& s.c) ^^^ (s.b &&& s.c)
  let t1 := s.h + (s.e.rotateRight 14 ^^^ s.e.rotateRight 18 ^^^ s.e.rotateRight 41) + ch + kw.1 + kw.2
  let t2 := (s.a.rotateRight 28 ^^^ s.a.rotateRight 34 ^^^ s.a.rotateRight 39) + maj
  { a := t1 + t2, b := s.a, c := s.b, d := s.c, e := s.d + t1, f := s.e, g := s.f, h := s.g }

/-- The sixteen words of a block of 128 bytes. -/
def shaWords (block : Bytes) : List (BitVec 64) := (List.range 16).map fun i => beWord (slice block (8 * i) 8)

/-- One block of 128 bytes. -/
def shaBlock (s : ShaState) (block : Bytes) : ShaState :=
  let w := (shaSchedule 64 (shaWords block).reverse).reverse
  let t := (shaK.zip w).foldl shaRound s
  { a := s.a + t.a, b := s.b + t.b, c := s.c + t.c, d := s.d + t.d, e := s.e + t.e, f := s.f + t.f, g := s.g + t.g, h := s.h + t.h }

/-- The blocks of a padded message. -/
def shaBlocks : Nat → Bytes → ShaState → ShaState
  | 0, _, s => s
  | n + 1, bs, s => shaBlocks n (bs.drop 128) (shaBlock s (bs.take 128))

/-- The message with its padding: a bit 1, zeros, and its length in bits in 16 bytes. -/
def shaPad (m : Bytes) : Bytes := m ++ [0x80] ++ zeroBytes ((128 - (m.length + 17) % 128) % 128) ++ beBytes (8 * m.length) 16

/-- The SHA-512 digest of a byte string. -/
def sha512 (m : Bytes) : Bytes :=
  let p := shaPad m
  let s := shaBlocks (p.length / 128) p ShaState.init
  [s.a, s.b, s.c, s.d, s.e, s.f, s.g, s.h].flatMap fun x => beBytes x.toNat 8

/-! ## ECDSA on P-521 -/

/-- The field prime. -/
def ecP : Nat := 2 ^ 521 - 1
/-- The curve coefficient b; a is -3. -/
def ecB : Nat := 0x51953EB9618E1C9A1F929A21A0B68540EEA2DA725B99B315F3B8B489918EF109E156193951EC7E937B1652C0BD3BB1BF073573DF883D2C34F1EF451FD46B503F00
/-- The order of the base point. -/
def ecN : Nat := 0x1FFFFFFFFFFFFFFFFFFFFFFFFFFFFFFFFFFFFFFFFFFFFFFFFFFFFFFFFFFFFFFFFFA51868783BF2F966B7FCC0148F709A5D03BB5C9B8899C47AEBB6FB71E91386409
/-- The base point. -/
def ecG : Nat × Nat :=
  (0xC6858E06B70404E9CD9E3ECB662395B4429C648139053FB521F828AF606B4D3DBAA14B5E77EFE75928FE1DC127A2FFA8DE3348B3C1856A429BF97E7E31C2E5BD66,
   0x11839296A789A3BC0045C8A5FB42C7D1BD998F54449579B446817AFBD17273E662C97EE72995EF42640C550B9013FAD0761353C7086A272C24088BE94769FD16650)

/-- Inverse modulo m of a number prime to it, by Euclid's algorithm: `r` and `t` go with the remainders r0 and r1. -/
def invSteps (m : Nat) : Nat → Nat → Nat → Nat → Nat → Nat
  | 0, _, _, _, t1 => t1
  | n + 1, r0, r1, t0, t1 => if r1 ≤ 1 then t1 else invSteps m n r1 (r0 % r1) t1 ((t0 + (m - r0 / r1 % m) * t1) % m)

/-- Inverse of a modulo m; 521-bit numbers need fewer than 800 steps. -/
def invMod (m a : Nat) : Nat := invSteps m 800 m (a % m) 0 1

/-- A point of the curve; none is the point at infinity. -/
abbrev EcPoint := Option (Nat × Nat)

/-- The line through two points with slope `l` gives their sum. -/
def ecMeet (l x1 y1 x2 : Nat) : EcPoint :=
  let x := (l * l + 2 * ecP - x1 - x2) % ecP
  some (x, (l * (x1 + ecP - x) + ecP - y1) % ecP)

/-- Sum of two points. -/
def ecAdd : EcPoint → EcPoint → EcPoint
  | none, q => q
  | p, none => p
  | some (x1, y1), some (x2, y2) =>
    if x1 = x2 then
      if (y1 + y2) % ecP = 0 then none else ecMeet (3 * (x1 * x1 + ecP - 1) * invMod ecP (2 * y1) % ecP) x1 y1 x2
    else ecMeet ((y2 + ecP - y1) * invMod ecP (x2 + ecP - x1) % ecP) x1 y1 x2

/-- The multiple of a point by the low `n` bits of k. -/
def ecMul (p : EcPoint) (k : Nat) : Nat → EcPoint
  | 0 => none
  | n + 1 =>
    let q := ecMul p (k / 2) n
    let d := ecAdd q q
    if k % 2 = 1 then ecAdd d p else d

/-- The point of a 132-byte public key, when it lies on the curve. -/
def ecKey (pub : Bytes) : EcPoint :=
  let x := beNat (slice pub 0 66)
  let y := beNat (slice pub 66 66)
  if pub.length = 132 ∧ x < ecP ∧ y < ecP ∧ (y * y) % ecP = (x * (x * x + ecP - 3) + ecB) % ecP then some (x, y) else none

/-- A 132-byte signature over a message verifies under a 132-byte public key. -/
def ecdsaVerify (pub msg sig : Bytes) : Bool :=
  let r := beNat (slice sig 0 66)
  let s := beNat (slice sig 66 66)
  match ecKey pub with
  | none => false
  | some q =>
    decide (sig.length = 132 ∧ 1 ≤ r ∧ r < ecN ∧ 1 ≤ s ∧ s < ecN) &&
    (let w := invMod ecN s
     match ecAdd (ecMul (some ecG) (beNat (sha512 msg) * w % ecN) 521) (ecMul (some q) (r * w % ecN) 521) with
     | none => false
     | some v => v.1 % ecN == r)

end Sys2Proof.Machine
end

