-- ==== Sys2Proof/Machine/Crc.lean ====
section
/-! DEFINITION. The CRC-32C that slots, segments, records and headers carry (R193, R208, chapters 12, 13 and 15). -/

namespace Sys2Proof.Machine

/-- One byte of a CRC-32C in its reflected form: the polynomial 0x1EDC6F41 (PRESUMED, log 21). -/
def crc32cByte (c : BitVec 32) (x : Byte) : BitVec 32 :=
  (List.range 8).foldl (fun (c : BitVec 32) _ => if c.getLsbD 0 then (c >>> 1) ^^^ 0x82F63B78 else c >>> 1) (c ^^^ BitVec.setWidth 32 x)

/-- CRC-32C of a byte string. -/
def crc32c (bs : Bytes) : Nat := (~~~ (bs.foldl crc32cByte 0xFFFFFFFF)).toNat

end Sys2Proof.Machine
end

