-- ==== Sys2Proof/Machine/Health.lean ====
section
/-! DEFINITION. Errors, their classification, retirement and spares, memory errors, scrubbing and the store (chapter 13 to R411, R57,
R59, R218, R226, R241, R242, R274, R371, R429 to R431). -/

namespace Sys2Proof.Machine

/-! ## Classification (R402, R403) -/

/-- Trend limits of Table 13-2; none for the other classes. -/
def trendLimit (cls : Nat) : Option Nat :=
  match cls with | 1 => some 16 | 3 => some 10000 | 4 => some 1000 | 5 => some 64 | _ => none

/-! ## Retirement, class by class -/

/-- A unit waits for a planned retirement (R404). -/
def planUnit (u : UnitRef) (reason : Nat) : Act :=
  .upd fun c => if c.health.planned.any (fun p => p.1 == u) then c else { c with health := { c.health with planned := c.health.planned ++ [(u, reason)] } }

/-- Change the spare map. -/
def updSpares (f : Spares → Spares) : Act := .upd fun c => { c with health := { c.health with spares := f c.health.spares } }

/-- Physical slot of a logical cove (R55): its own slot, or the spare. -/
def Spares.slotOf (s : Spares) (c : Nat) : Nat := match Tab.get 0 s.coves c with | 0 => c % 16 | v => v - 1

/-- Physical number of a logical cove (R55). -/
def Spares.physOf (s : Spares) (c : Nat) : Nat := c / 256 * 272 + c % 256 / 16 * 17 + s.slotOf c

/-- Bay of a physical cove as die × 16 + bay. -/
def bayOf (p : Nat) : Nat := p / 272 * 16 + p % 272 / 17

/-- The logical cove that a physical cove serves, if any. -/
def Spares.logicalOf (s : Spares) (p : Nat) : Option Nat :=
  (List.range 16).findSome? fun i => let c := p / 272 * 256 + p % 272 / 17 * 16 + i; if s.physOf c = p then some c else none

/-- The operations that a cove holds run again from their start (R57 step 3, R401): array, attention and kernel instances, and an XFER, whose
channel is idle again.  What a TIDE_STEP's mover has done its neighbours hold already: it goes on from its place (log 44). -/
def rerunCove (cove : Nat) : Act :=
  .upd fun c =>
    let v := c.cove cove
    let again := fun (x : Ctx) => if rOp x.record = opTide then { x with fault := none }
      else { x with pos := 0, accs := [], started := false, staging := .none, tailSeq := 0, begun := false, poisoned := false, fault := none }
    let mine := fun (k : Channel) => k.state != .idle && k.cove == cove
    let keep := fun (f : XFault) => match f.who with
      | .context k _ | .thread k _ => k != cove | .channel e ch => !mine (c.chan e ch) | .remote _ => true
    let v' := { v with ctx0 := v.ctx0.map again, ctx1 := v.ctx1.map again, ctx2 := v.ctx2.map again, ctx3 := v.ctx3.map again,
                       thread0 := Thread.idle, thread1 := Thread.idle, thread2 := Thread.idle, thread3 := Thread.idle }
    let c' := c.setCove cove fun _ => v'
    { c' with fw := { c'.fw with faults := c'.fw.faults.filter keep },
              engine := { c'.engine with ls := { c'.engine.ls with chans := c'.engine.ls.chans.filter fun e => !mine e.2 } } }

/-- Firmware restores a resident buffer from BACKING, or from its initial contents (R102). -/
def restoreBuf (x : Buf) : Act :=
  .look fun b =>
    let e := x.entry
    (if bufBacking e = 0 then Act.done else countFw (bufBytes e)).seq <|
    fwWrite (bufVaddr e) (if bufBacking e = 0 then (x.init ++ zeroBytes (bufBytes e)).take (bufBytes e) else b.readVa fwSpace (bufBacking e) (bufBytes e))

/-- A cove is retired (R57, R59): the spare serves its logical number with its scratch refilled, and the work it held runs again. -/
def retireCove (p reason : Nat) : Act :=
  .look fun b =>
    let s := b.ctl.health.spares
    let bay := bayOf p
    if s.badCoves.contains p then .done
    else if s.badCoves.any (fun q => bayOf q == bay) then moduleFault p
    else
      let spare := p / 17 * 17 + 16
      match s.logicalOf p with
      | none => Act.all [updSpares fun s => { s with badCoves := p :: s.badCoves },
          unitRetired 0 p 0xFFFF 0xFFFF reason (src 1 0), spareLow 0 bay 0 (src 1 0)]
      | some c => Act.all [
          updSpares fun s => { s with badCoves := p :: s.badCoves, coves := Tab.set 0 s.coves c 17 },
          Act.each (b.ctl.plan.bufs.filter fun x => bufTier x.entry == 2 && bufCove x.entry == c) restoreBuf,
          rerunCove c,
          unitRetired 0 p c spare reason (src 1 c), spareLow 0 bay 0 (src 1 c)]

/-- A lagoon bank is retired into the slice's spare bank; a second is a module fault (R406). -/
def retireBank (slice bank reason : Nat) : Act :=
  .look fun b =>
    let s := b.ctl.health.spares
    if s.banks.contains (slice, bank) then .done
    else if s.banks.any (fun x => x.1 == slice) then moduleFault slice
    else Act.all [updSpares fun s => { s with banks := (slice, bank) :: s.banks },
      unitRetired 2 slice bank slice reason (src 12 slice), spareLow 2 slice 0 (src 12 slice)]

/-- A lagoon row is retired into a spare row (R226, R406); a fifth row of one bank retires the bank. -/
def retireRow (u : UnitRef) (reason : Nat) : Act :=
  .look fun b =>
    let s := b.ctl.health.spares
    let key := u.bank * 65536 + u.row
    let used := countIf (fun x => x.1 == u.number) s.rows
    if s.rows.contains (u.number, key) || s.banks.contains (u.number, u.bank) then .done
    else if 4 ≤ countIf (fun x => x.1 == u.number && x.2 / 65536 == u.bank) s.rows then
      (history fun t => { time := t, cls := 2, kind := 1, unit := u.number, detail := u.bank }).seq (retireBank u.number u.bank 1)
    else if 64 ≤ used then .done
    else Act.all [updSpares fun s => { s with rows := (u.number, key) :: s.rows },
      unitRetired 1 u.number u.row u.number reason (src 12 u.number),
      Act.when (decide (56 ≤ used + 1)) (spareLow 1 u.number (64 - (used + 1)) (src 12 u.number))]

/-- An HBM4 channel is retired: its copy into the spare begins (R407); a second in one stack is a module fault. -/
def retireHbm (u reason : Nat) : Act :=
  .look fun b =>
    let h := b.ctl.health
    if h.spares.badHbm.contains u || h.copying.any (fun x => x.1 == u) then .done
    else if h.spares.badHbm.any (fun x => x / 32 == u / 32) || h.copying.any (fun x => x.1 / 32 == u / 32) then moduleFault u
    else if u % 32 = 31 then Act.all [updSpares fun s => { s with badHbm := u :: s.badHbm },
      unitRetired 3 u u 0xFFFF reason (src 4 u), spareLow 3 (u / 32) 0 (src 4 u)]
    else .upd fun c => { c with health := { c.health with copying := c.health.copying ++ [(u, reason)] } }

/-- HBM_SPARE_COPY (R407): the copy of a stack's retiring channel ends and the spare map switches in one step. -/
def hbmSpareCopyAct (stack : Nat) : Act :=
  .look fun b => Act.opt (b.ctl.health.copying.find? fun x => x.1 / 32 == stack) fun (u, reason) =>
    Act.all [.upd fun c => { c with health := { c.health with copying := c.health.copying.filter fun x => x.1 != u } },
      updSpares fun s => { s with badHbm := u :: s.badHbm, hbm := Tab.set 0 s.hbm (stack * 31 + u % 32) 31 },
      unitRetired 3 u u (stack * 32 + 31) reason (src 4 u), spareLow 3 stack 0 (src 4 u)]

/-- One device of a DDR5 rank is spared (R408); a second is a module fault planned for the next commit. -/
def retireDdr (u reason : Nat) : Act :=
  .look fun b =>
    if b.ctl.health.spares.ddr.contains u then
      (if b.ctl.job.pass.isNone && !b.ctl.job.inJob then moduleFault u
       else .upd fun c => { c with health := { c.health with plannedFault := true } })
    else Act.all [updSpares fun s => { s with ddr := u :: s.ddr },
      unitRetired 4 u u u reason (src 5 u), spareLow 4 u 0 (src 5 u)]

/-- A running Shoal command. -/
def shoalOp (op : Nat) : Bool := decide (0x20 ≤ op ∧ op ≤ 0x24)

/-- The index is lost (R371): running Shoal commands complete with E_ABORTED; the stored epoch record names no index from then on. -/
def indexLost : Act :=
  .look fun b => Act.all [
    Act.each (b.ctl.hif.cmds.filter fun x => shoalOp (cOp x.bytes) && x.phase == .running) fun x => finish x.id .eAborted [],
    .upd fun c => { c with shoal := { c.shoal.unmounted with lost := true, stored := some { indexId := 0, epoch := 0, map := 0, check := 0 } } }]

/-- A flash channel is retired (R371, R406). -/
def retireFlash (u reason : Nat) : Act :=
  .look fun b =>
    let h := b.ctl.health
    if h.spares.flash.contains u then .done
    else Act.all [updSpares fun s => { s with flash := u :: s.flash },
      .upd fun c => { c with health := { c.health with rewriting := u :: c.health.rewriting } },
      unitRetired 5 u u 0xFFFF reason (src 6 u), spareLow 5 0xFFFF 0 (src 6 u),
      Act.when (!h.rewriting.isEmpty) indexLost]

/-- A control core is retired (R409, R406): the die's spare core takes its tasks. -/
def retireCore (u reason : Nat) : Act :=
  .look fun b =>
    let s := b.ctl.health.spares
    if s.cores.contains u then .done
    else if s.cores.any (fun x => x / 4 == u / 4) then moduleFault u
    else Act.all [updSpares fun s => { s with cores := u :: s.cores },
      unitRetired 7 u u (if u % 4 = 3 then 0xFFFF else u / 4 * 4 + 3) reason (src 11 u), spareLow 7 (u / 4) 0 (src 11 u)]

/-- Channels of an engine (Table 08-1). -/
def engineChans (e : Nat) : Nat := if e < 32 then 16 else 32

/-- The channel that takes over a retired channel's numbers (R274): the next of the engine that is not retired, of its own kind; for
a firmware channel with none left, one of another system engine of its die. -/
def nextChannel (retired : List Nat) (e ch : Nat) : Option Nat :=
  let c := engineChans e
  let here := ((List.range c).map fun i => (ch + 1 + i) % c).find? fun k => fwChannel e k == fwChannel e ch && !retired.contains (e * 32 + k)
  match here with
  | some k => some (e * 32 + k)
  | none =>
    if fwChannel e ch then
      ((List.range 4).flatMap fun i => (List.range 4).map fun j => ((e - 32) / 4 * 4 + 32 + i) * 32 + 28 + j).find? fun k => !retired.contains k
    else none

/-- A Longshore channel is retired (R274, R406): its numbers share the next channel; a fifth of one engine is a module fault. -/
def retireChannel (u reason : Nat) : Act :=
  .look fun b =>
    let s := b.ctl.health.spares
    let n := countIf (fun x => x / 32 == u / 32) s.chans
    if s.chans.contains u then .done
    else if 4 ≤ n then moduleFault u
    else
      let t := (nextChannel (u :: s.chans) (u / 32) (u % 32)).getD u
      let moved := (List.range 1280).filter fun k => k == u || Tab.get 0 b.ctl.engine.ls.serves k == u + 1
      Act.all [updSpares fun s => { s with chans := u :: s.chans },
        .upd fun c => { c with engine := { c.engine with ls := { c.engine.ls with
          serves := moved.foldl (fun m k => Tab.set 0 m k (t + 1)) c.engine.ls.serves } } },
        unitRetired 8 u u t reason (src 3 u),
        Act.when (n == 2) (spareLow 8 (u / 32) 1 (src 3 u))]

/-- Retire a unit (R404; log 44). -/
def retireUnit (u : UnitRef) (reason : Nat) : Act :=
  match u.cls with
  | 0 => retireCove u.number reason
  | 1 => retireRow u reason
  | 2 => retireBank u.number u.bank reason
  | 3 => retireHbm u.number reason
  | 4 => retireDdr u.number reason
  | 5 => retireFlash u.number reason
  | 6 => retireLane (u.number / 8) (u.number % 8) reason
  | 7 => retireCore u.number reason
  | 8 => retireChannel u.number reason
  | _ => .done

/-- Charge an error to a unit (R402): transient while its retry succeeds and its count stays below THRESH in the window; otherwise
permanent, and the unit is retired at once (R404). -/
def chargeError (u : UnitRef) (retried : Bool) (detail : Nat) (transient : Act) : Act :=
  .look fun b =>
    let ts := inWindow b.ctl.window b.lhTime (Tab.get [] b.ctl.health.transient (unitKey u))
    let ok := retried && decide (ts.length < b.ctl.thresh)
    Act.all [
      .upd fun c => { c with health := { c.health with transient := Tab.set [] c.health.transient (unitKey u) (if ok then ts else []) } },
      history fun t => { time := t, cls := u.cls, kind := if ok then 0 else 1, unit := u.number, detail := detail },
      if ok then transient else retireUnit u (if retried then 0 else 1)]

/-- The module-wide summary of the hour's corrections (Table 13-4). -/
def summaryEvent : Act :=
  .look fun b =>
    let h := b.ctl.health.hour
    let most := h.foldl (fun (m : Nat × Nat) e => if m.2 < e.2 then e else m) (0, 0)
    raise 0x0202 0 (min (2 ^ 32 - 1) (h.map Prod.snd).sum * 2 ^ 32 + most.1 / 65536 % 65536 * 65536 + most.1 / 2 ^ 32 % 16)

/-- Key of a trend (R403): that of the unit, and for a DDR5 rank of one of its devices. -/
def trendKey (u : UnitRef) (device : Nat) : Nat := unitKey u + if u.cls = 4 then device % 65536 else 0

/-- Nanoseconds of an hour. -/
def hourNs : Nat := 3600000000000

/-- A corrected error of a unit (R403, R411, R484): counter, trend, summary at half the limit, planned retirement at the limit. -/
def correctedError (u : UnitRef) (device source : Nat) : Act :=
  .look fun b =>
    let k := unitKey u
    let d := trendKey u device
    let ts := inWindow b.ctl.window b.lhTime (Tab.get [] b.ctl.health.corrected d)
    Act.all [
      .upd fun c => { c with health := { c.health with
        corrected := Tab.set [] c.health.corrected d ts,
        counters := addCount c.health.counters source 1,
        hour := Tab.set 0 c.health.hour k (Tab.get 0 c.health.hour k + 1),
        hourAt := if c.health.hour.isEmpty then b.lhTime / hourNs * hourNs else c.health.hourAt } },
      Act.opt (trendLimit u.cls) fun n =>
        (Act.when (ts.length == n / 2 + 1) summaryEvent).seq (Act.when (ts.length == n) (planUnit u 2))]

/-- CORRECTED_SUMMARY (R411): at the end of an hour of Lighthouse time that saw a corrected error. -/
def correctedSummaryAct : Act :=
  .look fun b => Act.when (!b.ctl.health.hour.isEmpty && decide (b.ctl.health.hourAt + hourNs ≤ b.lhTime)) <|
    summaryEvent.seq (.upd fun c => { c with health := { c.health with hour := [], hourAt := b.lhTime } })

/-- A step is running: a pass is in progress (R404). -/
def Ctl.stepRuns (c : Ctl) : Bool := c.job.pass.isSome

/-- Carry out every planned retirement (R404), at a commit. -/
def retirePlanned : Act :=
  .look fun b => Act.all [.upd fun c => { c with health := { c.health with planned := [] } },
    Act.each b.ctl.health.planned fun p => retireUnit p.1 p.2]

/-- PLANNED_RETIREMENT (R404): at once on a module with no running step; otherwise at the commit. -/
def plannedRetirementAct (u : UnitRef) : Act :=
  .look fun b => Act.when (!b.ctl.stepRuns) <| Act.opt (b.ctl.health.planned.find? fun p => p.1 == u) fun p =>
    (Act.upd fun c => { c with health := { c.health with planned := c.health.planned.filter fun q => q.1 != u } }).seq (retireUnit u p.2)

/-- The dies are powered and firmware runs. -/
def Ctl.awake (c : Ctl) : Bool := decide (5 ≤ c.glb.step) && (c.power.state == .run || c.power.state == .idle)

/-- AGEING_SAMPLE (R410): units below their retirement mark are planned with reason 2. -/
def ageingSampleAct (below : List UnitRef) : Act := .look fun b => Act.when b.ctl.awake (Act.each below fun u => planUnit u 2)

/-- WATCHDOG_EXPIRY (R401, R409): the core is retired and the spare core restarts its tasks. -/
def watchdogExpiryAct (core : Nat) : Act :=
  .look fun b => Act.when b.ctl.awake <|
    (history fun t => { time := t, cls := 7, kind := 1, unit := core, detail := 0 }).seq (retireCore core 1)

/-- COVE_ERROR (R401, R402): the cove's instances run again on it, or the cove is retired. -/
def coveErrorAct (p : Nat) (permanent : Bool) : Act :=
  .look fun b => Act.when (b.ctl.awake && !b.ctl.health.spares.badCoves.contains p) <|
    chargeError { cls := 0, number := p, row := 0, bank := 0 } (!permanent) 0
      (Act.opt (b.ctl.health.spares.logicalOf p) fun c => rerunCove c)

/-! ## Memory errors (R218, R220, R224, R241, R242) -/

/-- The unit that holds a line: HBM4 channel through the spare map, DDR5 rank of its channel, lagoon row of its slice (log 44). -/
def Block.lineUnit (b : Block) (a row bank : Nat) : Option UnitRef :=
  match region b.fuses.twoTiB a with
  | .hbm die =>
    let u := (a - die * 0x4000000000) / 4096
    let c := u % 124
    let stack := die * 4 + c / 31
    let lch := c % 31
    let pch := match Tab.get 0 b.ctl.health.spares.hbm (stack * 31 + lch) with | 0 => lch | v => v
    some { cls := 3, number := stack * 32 + pch, row := 0, bank := 0 }
  | .ddr => some { cls := 4, number := (a - ddrBase) / 4096 % 8 * 8 + row % 8, row := 0, bank := 0 }
  | .lagoon die =>
    some { cls := 1, number := die * 16 + (a - lagoonBase - die * lagoonSize) / 4096 % 16, row := row % 65536, bank := bank % 65536 }
  | _ => none

/-- SOURCE of the memory unit's corrected-error counter (Table 16-12). -/
def memSource (u : UnitRef) : Nat := match u.cls with | 3 => src 4 u.number | 4 => src 5 u.number | _ => src 12 u.number

/-- A good copy of a line within the module: the backing of a resident buffer (R241). -/
def Block.backingLine (b : Block) (a : Nat) : Option Bytes :=
  (b.ctl.plan.bufs.find? fun x => decide (2 ≤ bufTier x.entry) && bufBacking x.entry != 0 &&
      decide (bufVaddr x.entry ≤ a ∧ a < bufVaddr x.entry + bufBytes x.entry)).map fun x =>
    b.readVa fwSpace (bufBacking x.entry + (a - bufVaddr x.entry)) 64

/-- Firmware rewrites a line from a good copy, and charges its unit; without one the module declares a fault (R241). -/
def repairLine (l : BadLine) (resume : Act) : Act :=
  .look fun b =>
    let a := l.addr / 64 * 64
    match (b.backingLine a).orElse fun _ => l.good with
    | some bs => Act.all [.one (.mem a ((bs ++ zeroBytes 64).take 64)),
        Act.opt (b.lineUnit a l.row l.bank) fun u => chargeError u true a .done, resume]
    | none => moduleFault a

/-- The agent runs and can be halted. -/
def Ctl.reads (c : Ctl) : Faulter → Bool
  | .context v n => match (c.cove v).ctx n with | some x => x.fault.isNone | none => false
  | .thread v t => ((c.cove v).thread t).state == .running
  | .channel e ch => (c.chan e ch).state == .run
  | .remote _ => false

/-- The rank context in which an agent runs. -/
def Ctl.secondOf (c : Ctl) : Faulter → Bool
  | .context v n => match (c.cove v).ctx n with | some x => x.second | none => false
  | .thread v t => match (c.cove v).ctx ((c.cove v).thread t).ctx with | some x => x.second | none => false
  | .channel e ch => (c.chan e ch).second
  | .remote _ => false

/-- The agent halts on a fault, its position saved. -/
def haltAgent (id : Nat) : Faulter → Act
  | .context v n => updCtx v n fun x => { x with fault := some id }
  | .thread v t => updThread v t fun u => { u with state := .faulted }
  | .channel e ch => .upd fun c => { c with engine := { c.engine with ls := { c.engine.ls with
      chans := Tab.set Channel.idle c.engine.ls.chans (chKey e ch) { c.chan e ch with state := .haltedFault, fault := some id } } } }
  | .remote _ => .done

/-- A read in vain: its agent halts and firmware is told (R241). -/
def haltReader (l : BadLine) (who : Faulter) : Act :=
  .look fun b =>
    let id := b.ctl.fw.nextId
    let f : XFault := { id := id, who := who, vaddr := 0, write := false, second := b.ctl.secondOf who, line := some l }
    (Act.upd fun c => { c with fw := { c.fw with nextId := id + 1, faults := c.fw.faults ++ [f] } }).seq (haltAgent id who)

/-- UNCORRECTABLE_ERROR (R220, R224, R226, R241): a line that ECC corrects is counted; one whose second read is good is a transient error of
its lagoon row (log 44); one that fails twice halts its reader until firmware has rewritten it. -/
def uncorrectableErrorAct (l : BadLine) : Act :=
  .look fun b =>
    let a := l.addr / 64 * 64
    Act.when (b.ctl.awake && backed b.fuses.twoTiB a) <|
      match l.outcome with
      | .corrected => Act.opt (b.lineUnit a l.row l.bank) fun u => correctedError u l.device (memSource u)
      | .reread => Act.opt (b.lineUnit a l.row l.bank) fun u => Act.when (u.cls == 1) (chargeError u true a .done)
      | .lost =>
        match l.reader with
        | some who => if b.ctl.reads who then haltReader l who else repairLine l .done
        | none => repairLine l .done

/-- PATROL_SCRUB (R242): a corrected line is rewritten with the bytes it holds, and the correction is counted. -/
def patrolScrubAct (line : Nat) (part : DramPart) (corrected : Bool) : Act :=
  .look fun b =>
    Act.when (b.ctl.awake && corrected && (match region b.fuses.twoTiB (line * 64) with | .hbm _ | .ddr => true | _ => false)) <|
      Act.opt (b.lineUnit (line * 64) part.rank 0) fun u => correctedError u part.device (memSource u)

/-! ## The store (R431) -/

/-- SNAPSHOT_WRITE (R431): a whole snapshot into the older bank, when a retirement, binding change or commit asked for one, or for
new error history at most once a minute. -/
def snapshotWriteAct : Act :=
  .look fun b => Act.when (b.ctl.awake && b.ctl.storeTaken && b.storeDue) storeNow

/-- STRIPE_REWRITE (R371): every stripe that held a retired flash channel has been rewritten. -/
def stripeRewriteAct (ch : Nat) : Act :=
  .upd fun c => { c with health := { c.health with rewriting := c.health.rewriting.filter fun x => x != ch } }

/-! ## Meanings -/

/-- UNCORRECTABLE_ERROR. -/
def execUncorrectableError (l : BadLine) (s : State) : Host.Outcome State Fault Refusal := s.perform (uncorrectableErrorAct l)
/-- PATROL_SCRUB. -/
def execPatrolScrub (line : Nat) (part : DramPart) (corrected : Bool) (s : State) : Host.Outcome State Fault Refusal :=
  s.perform (patrolScrubAct line part corrected)
/-- COVE_ERROR. -/
def execCoveError (cove : Fin 544) (permanent : Bool) (s : State) : Host.Outcome State Fault Refusal := s.perform (coveErrorAct cove.val permanent)
/-- PLANNED_RETIREMENT. -/
def execPlannedRetirement (u : UnitRef) (s : State) : Host.Outcome State Fault Refusal := s.perform (plannedRetirementAct u)
/-- HBM_SPARE_COPY. -/
def execHbmSpareCopy (stack : Fin 8) (s : State) : Host.Outcome State Fault Refusal := s.perform (hbmSpareCopyAct stack.val)
/-- WATCHDOG_EXPIRY. -/
def execWatchdogExpiry (core : Fin 8) (s : State) : Host.Outcome State Fault Refusal := s.perform (watchdogExpiryAct core.val)
/-- AGEING_SAMPLE. -/
def execAgeingSample (below : List UnitRef) (s : State) : Host.Outcome State Fault Refusal := s.perform (ageingSampleAct below)
/-- CORRECTED_SUMMARY. -/
def execCorrectedSummary (s : State) : Host.Outcome State Fault Refusal := s.perform correctedSummaryAct
/-- SNAPSHOT_WRITE. -/
def execSnapshotWrite (s : State) : Host.Outcome State Fault Refusal := s.perform snapshotWriteAct
/-- STRIPE_REWRITE. -/
def execStripeRewrite (ch : Fin 16) (s : State) : Host.Outcome State Fault Refusal := s.perform (stripeRewriteAct ch.val)

end Sys2Proof.Machine
end

