-- ==== Sys2Proof/Machine/Longshore.lean ====
section
/-! DEFINITION. Longshore channels: programs, MOVE and MCAST, waits and signals, bus errors, halts and stops (chapter 8, R97,
R163, R240, R290). -/

namespace Sys2Proof.Machine

/-! ## Channels -/

/-- Change a channel. -/
def updChan (e ch : Nat) (f : Channel → Channel) : Act :=
  .upd fun c => { c with engine := { c.engine with ls := { c.engine.ls with
    chans := Tab.set Channel.idle c.engine.ls.chans (chKey e ch) (f (c.chan e ch)) } } }

/-- How a channel translates: the rank context of its XFER, without a scratch window. -/
def Channel.space (k : Channel) : Space := { second := k.second, cove := none, tlb := [] }

/-- The channel's program has ended: IDLE, and the XFER signals (R97, R266). -/
def endProgramOf (e ch : Nat) (poison : Bool) : Act :=
  .look fun b =>
    let k := b.ctl.chan e ch
    Act.all [Act.when poison (flagPass fun f => { f with poisoned := true }), updChan e ch fun _ => Channel.idle,
      .upd fun c => { c with fw := { c.fw with faults := c.fw.faults.filter fun f => f.who != .channel e ch } },
      endInstance k.cove k.ctx poison]

/-- HALTED_ERR (Table 08-9): CHANNEL_HALTED is raised before the poisoned signals (R271), and the channel is IDLE again. -/
def haltErr (e ch addr cause : Nat) : Act :=
  .look fun b =>
    let k := b.ctl.chan e ch
    Act.all [updChan e ch fun k => { k with state := .haltedErr },
      raise 0x0501 (src 3 (chKey e ch)) (bits addr 47 12 * 2 ^ 28 + k.instr % 4096 * 2 ^ 16 + cause % 4 * 2 ^ 14 + ch % 32 * 2 ^ 8 + e % 256),
      endProgramOf e ch true]

/-- A channel whose access does not translate: halted with its position saved (R269), or an access error (R240). -/
def chanBad (e ch : Nat) (second : Bool) (va : Nat) (write : Bool) : Xlate → Act
  | .accessError => haltErr e ch va 2
  | .deviceFault => moduleFault va
  | _ => raiseFault (.channel e ch) va write second fun id => updChan e ch fun k => { k with state := .haltedFault, fault := some id }

/-- Another XFER whose waits were met before goes first on the channel (R268). -/
def Ctl.xferAhead (c : Ctl) (x : Ctx) : Bool :=
  c.engine.coves.any fun e => e.2.ctxs.any fun y =>
    rOp y.2.record == opXfer && slice y.2.record 104 2 == slice x.record 104 2 && waitsMet y.2.record y.2.met && !y.2.begun && y.2.fault.isNone &&
    decide (y.2.metNo < x.metNo ∨ (y.2.metNo = x.metNo ∧ y.2.op < x.op))

/-- XFER (R97, R268, R273): the program starts when its channel has none and no XFER is ahead; while a stop of the plan channels is in effect it
ends at once. -/
def xferAct (cove n : Nat) : Act :=
  runInstance cove n opXfer (fun _ _ => (false, false, false)) (fun _ => false) fun x =>
    .look fun b =>
      let e := u8 x.record 104
      let ch := u8 x.record 105
      Act.when (!x.begun) <|
        if b.ctl.job.stopChans then (flagPass fun f => { f with poisoned := true }).seq (endInstance cove n true)
        else Act.when ((b.ctl.chan e ch).state == .idle && !b.ctl.xferAhead x) <|
          (updChan e ch fun _ => { Channel.idle with state := .run, cove := cove, ctx := n, second := x.second, prog := u64 x.record 112, bound := true }).seq
            (updCtx cove n fun y => { y with begun := true })

/-! ## Shared channels (R274) -/

/-- The channel that serves a channel number. -/
def Engines.server (s : Engines) (k : Nat) : Nat := match Tab.get 0 s.serves k with | 0 => k | n + 1 => n

/-- The threshold of a WAIT at an iteration (R255). -/
def lsThresh (i : Bytes) (iter : Nat) : Nat := bits (u32 i 8) 30 0 + iter * bits (u32 i 12) 30 0

/-- What the WAIT at which a program stands finds (R282). -/
def Block.lsWait (b : Block) (k : Channel) (i : Bytes) : Option Bool := b.waitOutcome k.second (bits (u16 i 4) 14 0) (lsThresh i k.iter)

/-- A program stands at a WAIT whose threshold is not met. -/
def Block.lsBlocked (b : Block) (k : Channel) : Bool :=
  let i := b.lsInstr k.space k.prog k.instr
  u8 i 0 == 4 && (b.lsWait k i).isNone

/-- A program holds a shared channel: it has one, and stands neither at a descriptor boundary nor at a WAIT that is not met. -/
def Block.holdsChannel (b : Block) (k : Channel) : Bool := k.state != .idle && !k.bound && !b.lsBlocked k

/-- The channel that serves a number serves it now: no other number that shares it holds it. -/
def Block.served (b : Block) (k : Nat) : Bool :=
  let s := b.ctl.engine.ls
  s.chans.all fun e => e.1 == k || s.server e.1 != s.server k || !b.holdsChannel e.2

/-- An error of a channel number counts against the channel that serves it (R270, R274). -/
def chargeChannel (e ch : Nat) (retried : Bool) (addr : Nat) : Act :=
  .look fun b => chargeError { cls := 8, number := b.ctl.engine.ls.server (chKey e ch), row := 0, bank := 0 } retried addr .done

/-! ## Instructions -/

/-- The instruction a running channel stands at, when it has this opcode and the channel serves it; a fetch that does not translate halts the
channel (R253, R269, R274). -/
def lsThen (e ch op : Nat) (k : Block → Channel → Bytes → Act) : Act :=
  .look fun b =>
    let c := b.ctl.chan e ch
    Act.when (c.state == .run && b.served (chKey e ch)) <|
      match b.firstBad c.space [{ va := c.prog + 16 * c.instr, len := 16, write := false }] with
      | some (va, w, x) => chanBad e ch c.second va w x
      | none =>
        let i := b.lsInstr c.space c.prog c.instr
        Act.when (u8 i 0 == op) (k b c i)

/-- At a descriptor boundary a requested stop ends the program (R273). -/
def boundary (e ch : Nat) : Act :=
  .look fun b => Act.when ((b.ctl.chan e ch).stop && (b.ctl.chan e ch).state == .run) (endProgramOf e ch true)

/-- Go on with the next instruction, from a descriptor boundary or not. -/
def lsNext (e ch : Nat) (bound : Bool) : Act := updChan e ch fun k => { k with instr := k.instr + 1, done := 0, retries := 0, bound := bound }

/-- LOOP (R255). -/
def loopAct (e ch : Nat) : Act :=
  lsThen e ch 3 fun _ c i =>
    if c.iter + 1 < bits (u32 i 4) 23 0 then
      updChan e ch fun k => { k with iter := k.iter + 1, instr := ((c.instr : Int) + s32 i 8).toNat, done := 0, retries := 0, bound := false }
    else (updChan e ch fun k => { k with iter := 0 }).seq (lsNext e ch false)

/-- WAIT (R282, R288, Table 08-9): the program goes on when the count reaches the threshold, and ends poisoned on POISON without an
event; a stop takes effect while it waits. -/
def lsWaitAct (e ch : Nat) : Act :=
  lsThen e ch 4 fun b c i =>
    if c.stop then endProgramOf e ch true
    else
      match b.lsWait c i with
      | none => .done
      | some true => endProgramOf e ch true
      | some false => lsNext e ch false

/-! ## Streams -/

/-- Address of a stream byte; one below 0 lies outside every space. -/
def streamAddr (a : Int) : Nat := if a < 0 then 2 ^ 64 else a.toNat

/-- The contiguous ranges that `len` bytes of a stream from offset `off` cover (R257); each range costs one unit of fuel. -/
def streamRanges (starts : List Int) (run : Nat) : Nat → Nat → Nat → List (Nat × Nat)
  | 0, _, _ => []
  | fuel + 1, off, len =>
    if len = 0 then []
    else
      let n := min len (run - off % run)
      (streamAddr (starts.getD (off / run) (-1) + Int.ofNat (off % run)), n) :: streamRanges starts run fuel (off + n) (len - n)

/-- Ranges of a descriptor at a loop iteration. -/
def descRanges (d : Bytes) (iter off len : Nat) : List (Nat × Nat) :=
  if streamRun d = 0 then [] else streamRanges (streamStarts d iter) (streamRun d) (len / streamRun d + 2) off len

/-- KIND of a descriptor (Table 08-8). -/
def descKind (d : Bytes) : Nat := u8 d 8 % 16

/-- Where bytes lie: board slots 0 to 15, flash, host, or 64 + rank for another rank's memory. -/
structure LsPlace where
  at'  : Nat
  addr : Nat
  len  : Nat
  deriving DecidableEq, Repr

/-- Marks of the places that are no module. -/
def placeFlash : Nat := 16
def placeHost : Nat := 17

/-- A host range lies in a region that START_JOB registered. -/
def Ctl.inHostRegion (c : Ctl) (a n : Nat) : Bool := c.job.regions.any fun r => decide (r.1 ≤ a ∧ a + n ≤ r.1 + r.2)

/-- The first address of a range that a descriptor's kind cannot reach, with what is wrong (Table 08-8, R240). -/
def Block.rangeBad (b : Block) (e ch : Nat) (second : Bool) (d : Bytes) (write : Bool) (r : Nat × Nat) : Option (Nat × Xlate) :=
  let va := fun (sp : Space) => (b.firstBad sp [{ va := r.1, len := r.2, write := write }]).map fun x => (x.1, x.2.2)
  let sp : Space := { second := second, cove := none, tlb := [] }
  match descKind d with
  | 0 => va sp
  | 1 => (b.ctl.servesRank (u16 d 10)).bind fun s => va { sp with second := s }
  | 2 => if fwChannel e ch && backed b.fuses.twoTiB r.1 then none else some (r.1, .accessError)
  | 3 => if b.fuses.shoal && decide (32 ≤ e) && (!write || fwChannel e ch) then none else some (r.1, .accessError)
  | 4 => if b.ctl.inHostRegion r.1 r.2 then none else some (r.1, .accessError)
  | _ => some (r.1, .accessError)

/-- The places of a range. -/
def Block.places (b : Block) (second : Bool) (d : Bytes) (write : Bool) (r : Nat × Nat) : List LsPlace :=
  let va := fun (sp : Space) => (parts r.1 r.2).filterMap fun (v, n) =>
    match b.xlate sp v write with | .ok slot a => some ({ at' := slot, addr := a, len := n } : LsPlace) | _ => none
  let sp : Space := { second := second, cove := none, tlb := [] }
  match descKind d with
  | 0 => va sp
  | 1 => match b.ctl.servesRank (u16 d 10) with | some s => va { sp with second := s } | none => [{ at' := 64 + u16 d 10, addr := r.1, len := r.2 }]
  | 2 => [{ at' := b.slot, addr := r.1, len := r.2 }]
  | 3 => [{ at' := placeFlash, addr := r.1, len := r.2 }]
  | _ => [{ at' := placeHost, addr := r.1, len := r.2 }]

/-- The bytes of a place: of this module, of flash, of host memory, or free ones of another module (log 7). -/
def Block.placeBytes (b : Block) (p : LsPlace) : Bytes :=
  if p.at' = b.slot then b.read p.addr p.len
  else if p.at' = placeFlash then b.flash.read p.addr p.len
  else if p.at' = placeHost then b.host.read p.addr p.len
  else b.outside p.at' p.addr p.len

/-- Bytes written to a place. -/
def putPlace (p : LsPlace) (bs : Bytes) : Act :=
  .look fun b =>
    if p.at' = b.slot then .one (.mem p.addr bs)
    else if p.at' = placeHost then .one (.host p.addr bs)
    else if p.at' = placeFlash then .one (.flash p.addr bs)
    else if p.at' < 16 then send (.slot p.at') (.request (.store b.ctl.glb.slot p.addr bs))
    else send (.rank (p.at' - 64)) (.request (.rankStore (p.at' - 64) b.ctl.rank p.addr bs))

/-- Write a byte string over a list of places in order. -/
def putPlaces : List LsPlace → Bytes → Act
  | [], _ => .done
  | p :: ps, bs => (putPlace p (bs.take p.len)).seq (putPlaces ps (bs.drop p.len))

/-- A byte of a place. -/
def inPlaces (ps : List LsPlace) (at' a : Nat) : Bool := ps.any fun p => p.at' == at' && decide (p.addr ≤ a ∧ a < p.addr + p.len)

/-- The bytes to write with those that lie in the source of the same MOVE made free (R260, log 11). -/
def freeOverlap (b : Block) (source : List LsPlace) : List LsPlace → Bytes → Bytes
  | [], _ => []
  | p :: ps, bs =>
    ((bs.take p.len).zip (List.range p.len)).map (fun (v, i) =>
      if inPlaces source p.at' (p.addr + i) then Config.unspecifiedByte b.fresh (p.at' * 2 ^ 64 + p.addr + i) else v) ++
    freeOverlap b source ps (bs.drop p.len)

/-- SWAP over a byte string of whole units (R259): 1 reverses the bytes of each unit, 2 its 2-byte halves. -/
def swapUnits (swap unit : Nat) : Nat → Bytes → Bytes
  | 0, bs => bs
  | fuel + 1, bs =>
    if bs.isEmpty then []
    else
      let u := bs.take unit
      (match swap with
       | 0 => u
       | 1 => u.reverse
       | _ => ((List.range (unit / 2)).reverse.map fun i => slice u (2 * i) 2).flatten) ++ swapUnits swap unit fuel (bs.drop unit)

/-- Bytes of a transfer tile (R261). -/
def tileBytes : Nat := 4096

/-- Stream offsets at which a range of a stream does not go on from the one before it. -/
def streamBreaks : Nat → Nat → List (Nat × Nat) → List Nat
  | _, _, [] => []
  | off, next, (a, n) :: rest => (if off = 0 ∨ a ≠ next then [off] else []) ++ streamBreaks (off + n) (a + n) rest

/-- Stream offsets at which the pieces shorter than 4 KiB of a MOVE start; a piece is contiguous in both streams (R252, R261). -/
def smallPieces (src dst : List (Nat × Nat)) (len : Nat) : List Nat :=
  let starts := (streamBreaks 0 0 src ++ streamBreaks 0 0 dst).eraseDups.mergeSort (fun a b => decide (a ≤ b))
  ((starts.zip (starts.drop 1 ++ [len])).filter fun (lo, hi) => decide (hi - lo < tileBytes)).map Prod.fst

/-! ## Receivers (R275) -/

/-- The slots that an MCAST still writes: named and not ejected from this program run (R275, R277). -/
def mcastSlots (c : Channel) (i : Bytes) : List Nat := (List.range 8).filter fun s => bit (u8 i 3) s && !c.ejected.getLsbD s

/-- Who translates a destination: this module in a rank context, or the module of a rank, on its own tables. -/
inductive Receiver where
  | here (second : Bool)
  | rank (r : Nat)
  deriving DecidableEq, Repr

/-- The receiver on a board slot: this module for its own slot, its second context for a slot it has taken over (R420), else that slot's rank. -/
def Block.receiver (b : Block) (c : Channel) (s : Nat) : Receiver :=
  if s = b.slot then .here (if b.takenSlot.isSome then false else c.second)
  else if b.takenSlot = some s then .here true
  else .rank (b.ctl.rankOnSlot s)

/-- The receivers of a MOVE or MCAST. -/
def Block.receivers (b : Block) (c : Channel) (i : Bytes) : List Receiver :=
  if u8 i 0 = 2 then (mcastSlots c i).map (b.receiver c) else [.here c.second]

/-- Where a receiver's part of the destination stream lies. -/
def Block.receiverPlaces (b : Block) (c : Channel) (dst : Bytes) (off len : Nat) : Receiver → List LsPlace
  | .here second => (descRanges dst c.iter off len).flatMap (b.places second dst true)
  | .rank r => (descRanges dst c.iter off len).map fun x => { at' := 64 + r, addr := x.1, len := x.2 }

/-! ## Tiles (R258 to R261, R264) -/

/-- The first part of a tile that cannot be reached: the rank context, the address, whether it is written, and what translating it gives. -/
def Block.tileBad (b : Block) (e ch : Nat) (c : Channel) (i src dst : Bytes) (off len : Nat) : Option (Bool × Nat × Bool × Xlate) :=
  ((descRanges src c.iter off len).findSome? fun r => (b.rangeBad e ch c.second src false r).map fun x => (c.second, x.1, false, x.2)).orElse fun _ =>
    (b.receivers c i).findSome? fun q =>
      match q with
      | .here second => (descRanges dst c.iter off len).findSome? fun r => (b.rangeBad e ch second dst true r).map fun x => (second, x.1, true, x.2)
      | .rank _ => none

/-- The bytes of a tile as they are written: read from the source, swapped in stream order (R259). -/
def Block.tileOut (b : Block) (c : Channel) (i src : Bytes) (off len : Nat) : Bytes :=
  let bs := ((descRanges src c.iter off len).flatMap (b.places c.second src false)).flatMap b.placeBytes
  swapUnits (bits (u8 i 1) 1 0) (2 * 2 ^ bits (u8 i 1) 3 2) (bs.length + 1) bs

/-- What a tile writes at each receiver: its places and their bytes, free where they lie in the source of the same instruction (R260, log 11). -/
def Block.tilePuts (b : Block) (c : Channel) (i src dst : Bytes) (off len : Nat) : List (List LsPlace × Bytes) :=
  let all := (descRanges src c.iter 0 (streamLen dst)).flatMap (b.places c.second src false)
  (b.receivers c i).map fun q =>
    let ps := b.receiverPlaces c dst off len q
    (ps, freeOverlap b all ps (b.tileOut c i src off len))

/-- The part of a place that its last line holds, as the last line of its target (R264). -/
def lastLineOf (c : Channel) (off : Nat) (p : LsPlace) (bs : Bytes) : LastLine :=
  let a := max p.addr ((p.addr + p.len - 1) / 64 * 64)
  { unit := p.at', addr := a, bytes := bs.drop (a - p.addr), instr := c.instr, iter := c.iter, off := off, retries := 0 }

/-- The last lines with one more: the tile that wrote the one it replaces keeps its retries. -/
def noteLine (ls : List LastLine) (l : LastLine) : List LastLine :=
  let kept := match ls.find? fun x => x.unit == l.unit && x.instr == l.instr && x.iter == l.iter && x.off == l.off with | some x => x.retries | none => 0
  { l with retries := kept } :: ls.filter fun x => x.unit != l.unit

/-- The last line written to each target after a byte string went to places in order (R264). -/
def noteLast (c : Channel) (off : Nat) : List LsPlace → Bytes → List LastLine → List LastLine
  | [], _, ls => ls
  | p :: ps, bs, ls => noteLast c off ps (bs.drop p.len) (if p.len = 0 then ls else noteLine ls (lastLineOf c off p (bs.take p.len)))

/-- The requests that reading places of other modules takes (R216, R247). -/
def placeLoads (ps : List LsPlace) : Act :=
  .look fun b => Act.each ps fun p =>
    if p.at' = b.slot ∨ p.at' = placeFlash ∨ p.at' = placeHost then .done
    else if p.at' < 16 then send (.slot p.at') (.request (.load b.ctl.glb.slot p.addr p.len))
    else send (.rank (p.at' - 64)) (.request (.rankLoad (p.at' - 64) b.ctl.rank p.addr p.len))

/-- A tile's accesses to places of this module pass through the memory-side caches; only a move of less than 4 KiB allocates there (R228). -/
def placesCached (ps : List LsPlace) (write small : Bool) : Act :=
  .look fun b => .upd fun c =>
    let k := (ps.filter fun p => p.at' == b.slot).foldl (fun k p => b.cached k p.addr p.len write small) c.engine.caches
    { c with engine := { c.engine with caches := k } }

/-- One tile is read and written, or the channel halts where it does not translate; then `k`.  `c` is the channel where the tile's instruction
stands. -/
def issueTile (e ch : Nat) (c : Channel) (i src dst : Bytes) (off len : Nat) (k : Act) : Act :=
  .look fun b =>
    match b.tileBad e ch c i src dst off len with
    | some (second, va, w, x) => chanBad e ch second va w x
    | none =>
      let puts := b.tilePuts c i src dst off len
      let small := decide (streamLen dst < tileBytes)
      let sources := (descRanges src c.iter off len).flatMap (b.places c.second src false)
      Act.all [placeLoads sources, placesCached sources false small, placesCached (puts.flatMap Prod.fst) true small, Act.each puts fun (ps, bs) => putPlaces ps bs, takeFresh,
        updChan e ch (fun x => { x with last := puts.foldl (fun ls (ps, bs) => noteLast c off ps bs ls) x.last }), k]

/-- The tiles of a stream from a byte on. -/
def tilesFrom (len : Nat) : Nat → Nat → List (Nat × Nat)
  | 0, _ => []
  | fuel + 1, off => if len ≤ off then [] else (off, min tileBytes (len - off)) :: tilesFrom len fuel (off + tileBytes)

/-- The tiles of a stream that are not acknowledged. -/
def tilesLeft (c : Channel) (dst : Bytes) : List (Nat × Nat) := tilesFrom (streamLen dst) (streamLen dst / tileBytes + 1) c.done

/-- Tiles in stream order, each acknowledged (R260), then `fin`.  `small` lists where short pieces start: each counts with the tile it starts
in. -/
def moveTiles (e ch : Nat) (i src dst : Bytes) (small : List Nat) (fin : Act) : List (Nat × Nat) → Act
  | [] => fin
  | (off, len) :: ts => .look fun b =>
    issueTile e ch (b.ctl.chan e ch) i src dst off len <|
      Act.all [countLs e 0 len, countLs e 1 (countIf (fun o => decide (off ≤ o ∧ o < off + len)) small),
        updChan e ch (fun k => { k with done := off + len, retries := 0, bound := false }), moveTiles e ch i src dst small fin ts]

/-- The descriptors of a MOVE or MCAST; a fetch that does not translate halts the channel. -/
def withDescs (e ch : Nat) (c : Channel) (i : Bytes) (k : Bytes → Bytes → Act) : Act :=
  .look fun b =>
    let s := lsDesc c.prog i 8
    let d := lsDesc c.prog i 12
    match b.firstBad c.space [{ va := s, len := 64, write := false }, { va := d, len := 64, write := false }] with
    | some (va, w, x) => chanBad e ch c.second va w x
    | none => k (b.readVa c.space s 64) (b.readVa c.space d 64)

/-- The next tiles of a MOVE or MCAST, as many as are named or all; after the last of the stream comes `fin`. -/
def streamAct (e ch op : Nat) (tiles : Option Nat) (fin : Channel → Bytes → Act) : Act :=
  lsThen e ch op fun _ c i => withDescs e ch c i fun src dst =>
    let left := tilesLeft c dst
    let now := match tiles with | none => left | some n => left.take n
    moveTiles e ch i src dst (smallPieces (descRanges src c.iter 0 (streamLen dst)) (descRanges dst c.iter 0 (streamLen dst)) (streamLen dst))
      (Act.when (decide (left.length ≤ now.length)) (fin c i)) now

/-! ## Read-back and retries (R264, R270) -/

/-- RETRY of an engine (Table 08-12). -/
def Plan.retryOf (p : Plan) (e : Nat) : Nat :=
  match p.engines[e]? with
  | some x => if bit (u8 x 1) 7 then u8 x 1 % 16 else 3
  | none => 3

/-- The tile that a channel issues next goes out again, its source read again; its acknowledgement is still to come (R263, R270). -/
def reissueTile (e ch : Nat) : Act :=
  .look fun b =>
    let c := b.ctl.chan e ch
    let i := b.lsInstr c.space c.prog c.instr
    Act.when (u8 i 0 == 1 || u8 i 0 == 2) <| withDescs e ch c i fun src dst =>
      Act.opt (tilesLeft c dst).head? fun (off, len) => issueTile e ch c i src dst off len .done

/-- The tile that wrote a line goes out again. -/
def reissueLine (e ch : Nat) (l : LastLine) : Act :=
  .look fun b =>
    let c := { b.ctl.chan e ch with instr := l.instr, iter := l.iter }
    let i := b.lsInstr c.space c.prog c.instr
    withDescs e ch c i fun src dst => issueTile e ch c i src dst l.off (min tileBytes (streamLen dst - l.off)) .done

/-- A line does not read back as it was written: a bus error on the tile that wrote it (R264, R270, R271). -/
def lineError (e ch : Nat) (l : LastLine) : Act :=
  .look fun b =>
    let retry := decide (l.retries < b.ctl.plan.retryOf e)
    Act.all [
      if retry then Act.all [countLs e 2 1,
        updChan e ch (fun k => { k with last := k.last.map fun x => if x = l then { x with retries := x.retries + 1 } else x }), reissueLine e ch l]
      else haltErr e ch (if l.unit = placeHost then 0 else l.addr) 1,
      chargeChannel e ch retry l.addr]

/-- A line of this module or the host reads back as it was written; what another module answers BUS_ERROR tells (log 65). -/
def Block.lineHolds (b : Block) (l : LastLine) : Bool :=
  if l.unit = b.slot then b.read l.addr l.bytes.length == l.bytes
  else if l.unit = placeHost then b.host.read l.addr l.bytes.length == l.bytes
  else true

/-- The read-backs of the last line of every target, then `k` (R264). -/
def readBack (e ch : Nat) (k : Act) : Act :=
  .look fun b =>
    let ls := (b.ctl.chan e ch).last
    match ls.find? fun l => !b.lineHolds l with
    | some l => lineError e ch l
    | none => Act.all [placeLoads (ls.map fun l => { at' := l.unit, addr := l.addr / 64 * 64, len := 64 }), updChan e ch (fun c => { c with last := [] }), k]

/-! ## MOVE, MCAST, SIGNAL, STOPPT, END -/

/-- MOVE (R257 to R263): tiles not yet acknowledged are read and written in stream order; its end is a descriptor boundary. -/
def moveAct (e ch : Nat) (tiles : Option Nat) : Act := streamAct e ch 1 tiles fun _ _ => (lsNext e ch true).seq (boundary e ch)

/-- MCAST (R275, R276): every receiver's stream is written and read back, and its RX_SEM is signalled. -/
def mcastAct (e ch : Nat) (tiles : Option Nat) : Act :=
  if e < 32 then .done
  else streamAct e ch 2 tiles fun _ i => readBack e ch <| .look fun b =>
    let c := b.ctl.chan e ch
    Act.all [Act.each (mcastSlots c i) fun s => signalSlot c.second s (bits (u16 i 4) 14 0) 1 false, lsNext e ch true, boundary e ch]

/-- SIGNAL (R264, R265): after the read-backs, with release. -/
def lsSignalAct (e ch : Nat) : Act :=
  lsThen e ch 5 fun _ c i => readBack e ch <|
    let poison := bit (u8 i 1) 0
    let sem := bits (u16 i 4) 14 0
    let n := bits (u32 i 8) 30 0
    (match bits (u8 i 1) 2 1 with
     | 0 => signalLocal c.second sem n poison
     | 1 => signalSlot c.second (u8 i 2) sem n poison
     | _ => signalRank (u16 i 6) sem n poison).seq (lsNext e ch false)

/-- STOPPT: a descriptor boundary (R254, R273). -/
def stopptAct (e ch : Nat) : Act := lsThen e ch 6 fun _ _ _ => (lsNext e ch true).seq (boundary e ch)

/-- END (R264, R266): the read-backs match, the channel is idle and its XFER signals its list. -/
def endProgramAct (e ch : Nat) : Act := lsThen e ch 7 fun _ _ _ => readBack e ch (endProgramOf e ch false)

/-- MCAST_PATIENCE (R277): the receiver on which the stream waits is ejected: the event, then the poison, then its slot is dropped for this
program run; a channel that halted for its destination goes on. -/
def mcastPatienceAct (e ch slot : Nat) : Act :=
  .look fun b =>
    let c := b.ctl.chan e ch
    let i := b.lsInstr c.space c.prog c.instr
    let sem := bits (u16 i 4) 14 0
    let fault := b.ctl.fw.faults.find? fun f => f.who == .channel e ch && f.line.isNone && f.write && .here f.second == b.receiver c slot
    let free := c.state == .run && b.served (chKey e ch) || c.state == .haltedFault && fault.isSome
    Act.when (free && u8 i 0 == 2 && decide (32 ≤ e) && (mcastSlots c i).contains slot) <|
      Act.all [
        raise 0x0500 (src 3 (chKey e ch)) (min (ceilDiv c.done tileBytes) (2 ^ 32 - 1) * 2 ^ 32 + sem * 2 ^ 16 + slot % 8 * 2 ^ 13 + ch % 32 * 2 ^ 8 + e % 256),
        countLs e 3 1, signalSlot c.second slot sem 0 true,
        Act.when (c.state == .haltedFault) (.upd fun t => { t with fw := { t.fw with faults := t.fw.faults.filter fun f => some f != fault } }),
        updChan e ch fun k => { k with ejected := k.ejected ||| BitVec.ofNat 8 (2 ^ slot), state := .run, fault := none }]

/-! ## Stops -/

/-- CHANNEL_STOP (R273, Table 08-9): a requested stop takes effect at once on a channel halted for a fault, waiting in WAIT, or at a
descriptor boundary. -/
def channelStopAct (e ch : Nat) : Act :=
  .look fun b =>
    let c := b.ctl.chan e ch
    let atWait := u8 (b.lsInstr c.space c.prog c.instr) 0 == 4
    Act.when (c.stop && (c.state == .haltedFault || (c.state == .run && (atWait || c.bound)))) <|
      endProgramOf e ch true

/-- A stop of every plan channel is requested (R273). -/
def stopPlanChannels : Act :=
  .upd fun c => { c with
    job := { c.job with stopChans := true },
    engine := { c.engine with ls := { c.engine.ls with chans := c.engine.ls.chans.map fun e => (e.1, { e.2 with stop := true }) } } }

/-- No plan channel has a program. -/
def Ctl.chansQuiet (c : Ctl) : Bool := c.engine.ls.chans.all fun e => e.2.state == .idle || fwChannel (e.1 / 32) (e.1 % 32)

/-! ## Meanings -/

/-- XFER. -/
def execXfer (cove : Fin 512) (ctx : Fin 4) (s : State) : Host.Outcome State Fault Refusal := s.perform (xferAct cove.val ctx.val)
/-- LOOP. -/
def execLoop (engine : Fin 40) (ch : Fin 32) (s : State) : Host.Outcome State Fault Refusal := s.perform (loopAct engine.val ch.val)
/-- MCAST_PATIENCE. -/
def execMcastPatience (engine : Fin 40) (ch : Fin 32) (slot : Fin 8) (s : State) : Host.Outcome State Fault Refusal :=
  s.perform (mcastPatienceAct engine.val ch.val slot.val)

end Sys2Proof.Machine
end

