-- ==== Sys2Proof/Machine/Tide.lean ====
section
/-! DEFINITION. Tide movers: ring and fold steps, broadcasts and gathers, windows and the global page cache, poison notices and
resends (chapter 6, R288 to R290). -/

namespace Sys2Proof.Machine

/-! ## Slots and blocks -/

/-- Bytes of a ring slot (Table 06-1). -/
def Plan.slotBytes (p : Plan) : Nat := 8192 + u32 p.tide 8 * 8192

/-- Address of ring slot j. -/
def Plan.slotAddr (p : Plan) (j : Nat) : Nat := u64 p.tide 16 + j * p.slotBytes

/-- How a mover translates for an instance. -/
def Block.tideSpace (b : Block) (cove : Nat) (x : Ctx) : Space := b.ctl.space cove x.second

/-- A field of the pass block as the mover sees it (Table 03-24). -/
def Block.passField (b : Block) (sp : Space) (o n : Nat) : Nat := b.natVa sp (b.ctl.plan.passBlock + o) n

/-- Runs of this rank's block for positions below `e` (R192): its early and its late chunk, as first page and pages. -/
def ownRuns (chunk n me e : Nat) : List (Nat × Nat) :=
  let np := ceilDiv e 16
  [me * chunk, (2 * n - 1 - me) * chunk].filterMap fun f => if f < np then some (f, min chunk (np - f)) else none

/-- The pages of runs, in order. -/
def runPages (rs : List (Nat × Nat)) : List Nat := rs.flatMap fun (f, n) => upto f (f + n)

/-- CHECK of a slot (Table 06-2). -/
def slotCheck (h pages : Bytes) : Nat := crc32c (slice h 0 8 ++ slice h 9 3 ++ slice h 16 16 ++ pages)

/-- A tide slot header (Table 06-2). -/
def slotHeader (origin step layer seq : Nat) (use : Bool) (runs : List (Nat × Nat)) (pages : Bytes) : Bytes :=
  let (f0, n0) := runs.getD 0 (0, 0)
  let (f1, n1) := runs.getD 1 (0, 0)
  let h := leBytes origin 2 ++ leBytes step 2 ++ leBytes layer 2 ++ leBytes seq 2 ++ leBytes (if use then 1 else 0) 1 ++ leBytes runs.length 1 ++
    zeroBytes 6 ++ leBytes f0 4 ++ leBytes n0 4 ++ leBytes f1 4 ++ leBytes n1 4 ++ zeroBytes 8160
  patch h 12 (leBytes (slotCheck h pages) 4)

/-- Runs that a header lists. -/
def headerRuns (h : Bytes) : List (Nat × Nat) := [(u32 h 16, u32 h 20), (u32 h 24, u32 h 28)].take (u8 h 9)

/-- Pages that a header lists. -/
def headerPages (h : Bytes) : Nat := ((headerRuns h).map Prod.snd).sum

/-- The rank's highest query position of the pass (R195), from the runs of its pass block. -/
def Block.topQuery (b : Block) (sp : Space) : Option Nat :=
  let run := fun (pos cnt : Nat) => let n := b.passField sp cnt 4; if n = 0 then none else some (b.passField sp pos 8 + n - 1)
  match run 24 40, run 32 44 with
  | some a, some c => some (max a c)
  | some a, none => some a
  | none, t => t

/-- USE of an arriving block (R195, R197). -/
def Block.useOfBlock (b : Block) (sp : Space) (me step dir : Nat) (h : Bytes) : Bool :=
  let low := ((headerRuns h).map fun r => r.1 * 16).foldl min (2 ^ 40)
  let visible := !(headerRuns h).isEmpty && (match b.topQuery sp with | some t => decide (low ≤ t) | none => false)
  let o := u16 h 0
  visible && (!b.ctl.plan.fold || (if dir = 0 then decide (o + step + 1 = me) else decide (me < o)))

/-- Fold form: the station of a rank in a direction holds a block at a step (R197). -/
def foldHolds (n me dir step : Nat) : Bool :=
  let v := if dir = 0 then me else 2 * n - 2 - me
  let len := 2 * n - 2
  decide (len = 0) || decide ((v + len - step % len) % len < n)

/-- The slot that a step sends: TX_SLOT; at an end of the fold, where the block turns, the slot of the other direction into which
it came (R197, log 24). -/
def sentSlot (p : Plan) (n me : Nat) (r : Bytes) : Nat :=
  let j := u8 r 132
  if !p.fold then j
  else if tDir r = 1 ∧ me + 1 = n then j - 3
  else if tDir r = 0 ∧ me = 0 ∧ 0 < tStep r then j + 3
  else j

/-! ## Finding the step a message belongs to -/

/-- A running TIDE_STEP that a message is for: its cove, context and instance. -/
def Block.tideStep (b : Block) (toRank mode : Nat) (p : Nat → Ctx → Bool) : Option (Nat × Nat × Ctx) :=
  b.ctl.engine.coves.findSome? fun (c, v) => v.ctxs.findSome? fun (n, x) =>
    if rOp x.record == opTide && tMode x.record == mode && x.begun && b.ctl.rankOf x.second == toRank && p c x then some (c, n, x) else none

/-- A message that came before its step waits in the mover. -/
def keepMsg (m : Msg) : Act := .upd fun c => { c with engine := { c.engine with movers := { c.engine.movers with inbox := c.engine.movers.inbox ++ [m] } } }

/-- A waiting message is taken. -/
def dropMsg (m : Msg) : Act :=
  .upd fun c => { c with engine := { c.engine with movers := { c.engine.movers with inbox := c.engine.movers.inbox.erase m } } }

/-- The first waiting message of a kind. -/
def Block.waitingMsg (b : Block) (p : Msg → Bool) : Option Msg := b.ctl.engine.movers.inbox.find? p

/-- The step has ended when both halves are done (R194). -/
def tideEnd (cove n : Nat) : Act :=
  .look fun b => Act.opt ((b.ctl.cove cove).ctx n) fun x => Act.when (x.rxDone && x.txDone) (endInstance cove n x.poisoned)

/-- A half of a step is done. -/
def rxDone (cove n : Nat) : Act := updCtx cove n fun x => { x with rxDone := true }
def txDone (cove n : Nat) : Act := updCtx cove n fun x => { x with txDone := true }

/-- A step that a poison notice has reached: it ends poisoned, without an event (R290, R291, log 23). -/
def poisonStep (cove n : Nat) : Act :=
  (flagPass fun f => { f with poisoned := true }).seq (updCtx cove n fun x => { x with poisoned := true })

/-- A local semaphore that the mover signals (R206). -/
def tideSignal (x : Ctx) (base off : Nat) (poison : Bool) : Act := signalLocal x.second (u16 x.record base + off) 1 poison

/-- A TIDE_STEP of a mode whose waits are met (R206). -/
def tideRun (cove n mode : Nat) (k : Ctx → Act) : Act :=
  .look fun b => Act.opt ((b.ctl.cove cove).ctx n) fun x => Act.when (rOp x.record == opTide && tMode x.record == mode) <|
    runInstance cove n opTide (fun _ _ => (false, false, false)) (fun _ => false) k

/-! ## Mismatches (R208) -/

/-- Die whose mover handles a message: that of the step, or of the plan's record for it. -/
def Block.moverDie (b : Block) (mode layer : Nat) : Nat :=
  match b.ctl.plan.ops.find? fun r => rOp r == opTide && tMode r == mode && tLayer r == layer with
  | some r => dieOf (rSet r).1
  | none => 0

/-- A transfer arrived at rank `me` with a bad CRC: it is asked for again up to three times; a fourth mismatch is the loss of the bundle to
the sender, which the sender is told where it is the higher-ranked end (R208, R213, log 64). -/
def mismatch (key die me sender : Nat) (again : ResendOf) : Act :=
  .look fun b =>
    let n := Tab.get 0 b.ctl.engine.movers.misses key
    if n < 3 then
      (Act.upd fun c => { c with engine := { c.engine with movers := { c.engine.movers with
        misses := Tab.set 0 c.engine.movers.misses key (n + 1), resends := addCount c.engine.movers.resends die 1 } } }).seq
      (send (.rank sender) (.resend again))
    else if me < sender then send (.rank sender) (.resend (.lost me))
    else bundleLost (b.ctl.links.fabric.serialOf sender)

/-- A transfer has arrived whole: its mismatches are forgotten. -/
def arrived (key : Nat) : Act :=
  .upd fun c => { c with engine := { c.engine with movers := { c.engine.movers with misses := Tab.set 0 c.engine.movers.misses key 0 } } }

/-- Key of the mismatches of a transfer. -/
def missKey (kind toRank a c d : Nat) : Nat := (((kind * 512 + toRank) * 65536 + a) * 65536 + c) * 512 + d

/-! ## Ring and fold steps (R194 to R197) -/

/-- The mover sends a step's block to its successor and signals SENT (R194). -/
def ringSend (cove n : Nat) : Act :=
  .look fun b => Act.opt ((b.ctl.cove cove).ctx n) fun x =>
    let r := x.record
    let sp := b.tideSpace cove x
    let me := b.ctl.rankOf x.second
    let p := b.ctl.plan
    let va := p.slotAddr (sentSlot p b.ctl.jobP me r)
    let held := !p.fold || foldHolds b.ctl.jobP me (tDir r) (tStep r)
    let h := if held then b.readVa sp va 8192 else slotHeader me (tStep r) (tLayer r) (tSeq r) false [] []
    let pages := if held then b.readVa sp (va + 8192) (headerPages h * 8192) else []
    Act.all [Act.when (!held) (writeVa sp va h),
      Act.opt (tideNext p b.ctl.jobP me (tDir r)) fun k =>
        send (.rank k) (.piece { toRank := k, die := Fin.ofNat 2 (dieOf cove), step := tStep r, dir := tDir r, header := h, pages := pages }),
      tideSignal x 136 (u8 r 132) false, txDone cove n]

/-- The own block is read through translation into slot 0, and FULL_SEM + 0 is signalled (R194 step 1). -/
def ringGather (cove n : Nat) (x : Ctx) (k : Act) : Act :=
  .look fun b =>
    let r := x.record
    let sp := b.tideSpace cove x
    let me := b.ctl.rankOf x.second
    let e := b.seq (tSeq r)
    let runs := ownRuns b.ctl.plan.chunk b.ctl.jobP me (b.passField sp 16 8)
    let as := (runPages runs).map fun g => ({ va := e.pageAddr (tLayer r) g, len := 8192, write := false } : Access)
    withAccess cove n x.second as <|
      let bs := as.flatMap fun a => b.readVa sp a.va 8192
      let slot := b.ctl.plan.slotAddr 0
      withAccess cove n x.second [{ va := slot, len := 8192 + bs.length, write := true }] <|
        Act.all [writeVa sp slot (slotHeader me (tStep r) (tLayer r) (tSeq r) true runs bs ++ bs), tideSignal x 134 0 false, k]

/-- A poison notice in place of the piece of this step. -/
def isPiecePoison (toRank die : Nat) (r : Bytes) : Msg → Bool
  | .poison (.piece t d s dir) => t == toRank && d.val == die && s == tStep r && dir == tDir r
  | _ => false

/-- The receive half of a step whose piece will not come: FULL is poisoned (R290). -/
def ringPoison (cove n : Nat) (x : Ctx) : Act :=
  Act.all [flagPass fun f => { f with poisoned := true }, tideSignal x 134 (u8 x.record 133) true, rxDone cove n]

/-- The grant to the predecessor, unless its poison notice is there already; and on an end of a fold that has none an empty slot at once
(R194 step 2, R290, log 24). -/
def ringReceive (cove n : Nat) (x : Ctx) : Act :=
  .look fun b =>
    let r := x.record
    let sp := b.tideSpace cove x
    let me := b.ctl.rankOf x.second
    match tidePrev b.ctl.plan b.ctl.jobP me (tDir r) with
    | some k =>
      match b.waitingMsg (isPiecePoison me (dieOf cove) r) with
      | some m => (dropMsg m).seq (ringPoison cove n x)
      | none => send (.rank k) (.grant { toRank := k, die := Fin.ofNat 2 (dieOf cove), step := tStep r, dir := tDir r, layer := tLayer r, seq := tSeq r })
    | none => withAccess cove n x.second [{ va := b.ctl.plan.slotAddr (u8 r 133), len := 8192, write := true }] <|
        Act.all [writeVa sp (b.ctl.plan.slotAddr (u8 r 133)) (slotHeader me (tStep r) (tLayer r) (tSeq r) false [] []),
          tideSignal x 134 (u8 r 133) false, rxDone cove n]

/-- A message is a grant, or a poison notice in place of one, for this step. -/
def isGrant (toRank die : Nat) (r : Bytes) : Msg → Bool
  | .grant g => g.toRank == toRank && g.die.val == die && g.step == tStep r && g.dir == tDir r && g.layer == tLayer r && g.seq == tSeq r
  | .poison (.grant t d s dir) => t == toRank && d.val == die && s == tStep r && dir == tDir r
  | _ => false

/-- The send half on a grant that has come: the block goes out, or SENT is poisoned. -/
def grantSend (cove n : Nat) : Msg → Act
  | .grant _ => ringSend cove n
  | _ => .look fun b => Act.opt ((b.ctl.cove cove).ctx n) fun x =>
      Act.all [flagPass fun f => { f with poisoned := true }, tideSignal x 136 (u8 x.record 132) true, txDone cove n]

/-- The send half looks for a grant that came before the step. -/
def ringTry (cove n : Nat) : Act :=
  .look fun b => Act.opt ((b.ctl.cove cove).ctx n) fun x => Act.when (!x.txDone) <|
    let me := b.ctl.rankOf x.second
    match tideNext b.ctl.plan b.ctl.jobP me (tDir x.record) with
    | none => ringSend cove n
    | some _ => Act.opt (b.waitingMsg (isGrant me (dieOf cove) x.record)) fun m => (dropMsg m).seq (grantSend cove n m)

/-- TIDE_RING (R194): gather at step 0, grant, and send where the successor's grant is there. -/
def tideRingAct (cove n : Nat) : Act :=
  tideRun cove n 0 fun x => Act.when (!x.begun) <|
    let r := x.record
    let go := Act.all [updCtx cove n fun x => { x with begun := true, rxDone := tNoRx r, txDone := tNoTx r },
      Act.when (!tNoRx r) (ringReceive cove n x), ringTry cove n, tideEnd cove n]
    if tGather r then ringGather cove n x go else go

/-- TIDE_GRANT (R194): the successor's grant lets the current slot go out; an early grant waits. -/
def tideGrantAct (g : TideGrant) : Act :=
  .look fun b =>
    match b.tideStep g.toRank 0 (fun c x => !x.txDone && isGrant g.toRank (dieOf c) x.record (.grant g)) with
    | some (c, n, _) => (ringSend c n).seq (tideEnd c n)
    | none => keepMsg (.grant g)

/-- TIDE_PIECE (R194, R195, R208): CHECK, then USE and the piece into RX_SLOT, and FULL. -/
def tidePieceAct (p : TidePiece) : Act :=
  .look fun b => Act.opt (b.tideStep p.toRank 0 fun c x => !x.rxDone && dieOf c == p.die.val && tStep x.record == p.step && tDir x.record == p.dir) fun (c, n, x) =>
    let sp := b.tideSpace c x
    let key := missKey 0 p.toRank p.step p.dir p.die.val
    if slotCheck p.header p.pages ≠ u32 p.header 12 || p.header.length != 8192 || p.pages.length != headerPages p.header * 8192 then
      Act.opt (tidePrev b.ctl.plan b.ctl.jobP p.toRank p.dir) fun k => mismatch key p.die.val p.toRank k (.piece p.toRank p.die p.step p.dir)
    else
      let h := patch p.header 8 [if b.useOfBlock sp p.toRank p.step p.dir p.header then 1 else 0]
      let slot := b.ctl.plan.slotAddr (u8 x.record 133)
      (arrived key).seq <| withAccess c n x.second [{ va := slot, len := 8192 + p.pages.length, write := true }] <|
        Act.all [writeVa sp slot (h ++ p.pages), tideSignal x 134 (u8 x.record 133) false, rxDone c n, tideEnd c n]

/-! ## Broadcasts (R200) -/

/-- Segments of a byte string with their CRCs (R208). -/
def tideSegments : Nat → Bytes → List Segment
  | 0, _ => []
  | fuel + 1, bs => if bs.isEmpty then [] else { bytes := bs.take 4096, crc := crc32c (bs.take 4096) } :: tideSegments fuel (bs.drop 4096)

/-- The segments of a whole byte string. -/
def cut (bs : Bytes) : List Segment := tideSegments (bs.length / 4096 + 1) bs

/-- Every segment arrived with its CRC. -/
def segmentsOk (ss : List Segment) : Bool := ss.all fun s => crc32c s.bytes == s.crc

/-- The bytes of segments. -/
def joined (ss : List Segment) : Bytes := ss.flatMap (·.bytes)

/-- The root's payload: query rows, staged records with their positions, and the new LENGTH (R200, Table 06-6, log 64). -/
def Block.payload (b : Block) (cove : Nat) (x : Ctx) : BcastPayload :=
  let r := x.record
  let sp := b.tideSpace cove x
  { toRank := b.ctl.rankOf x.second, seq := tSeq r, layer := tLayer r, root := tRoot r,
    data := cut (b.readVa sp (u64 r 144) (u32 r 152) ++ b.readVa sp (u64 r 160) (576 * u32 r 156) ++ leBytes (x.len + u32 r 156) 8) }

/-- A payload that waits for a step. -/
def isPayload (toRank : Nat) (r : Bytes) : Msg → Bool
  | .payload p => p.toRank == toRank && p.seq == tSeq r && p.layer == tLayer r && p.root == tRoot r
  | .poison (.payload t q l root) => t == toRank && q == tSeq r && l == tLayer r && root == tRoot r
  | _ => false

/-- The parts of a payload at a rank behind its forwarding, in the order of R200: the query rows, the records of pages held here through
translation (with the allocation ahead of R165 and the mirror), and LENGTH. -/
def Block.payloadUnits (b : Block) (cove : Nat) (x : Ctx) (p : BcastPayload) : List (List Access × Act) :=
  let r := x.record
  let sp := b.tideSpace cove x
  let e := b.seq p.seq
  let bs := joined p.data
  let q := u32 r 152
  let put := fun (va : Nat) (bytes : Bytes) (more : Act) =>
    ([({ va := va, len := bytes.length, write := true } : Access)], (writeVa sp va bytes).seq more)
  let recs := (List.range ((bs.length - q - 8) / 576)).map fun i => (u32 bs (q + 576 * i), slice bs (q + 576 * i + 64) 512)
  put (u64 r 144) (bs.take q) .done ::
    ((recs.filter fun c => b.ctl.holder p.layer (c.1 / 16) == b.ctl.rankOf x.second).map fun (pos, bytes) =>
      put (e.recAddr p.layer pos) bytes <|
        (mirrorRecord x.second p.seq p.layer (pos / 16) (pos % 16) bytes).seq
          (Act.when (pos % 16 == 0) (allocAhead x.second p.seq p.layer (pos / 16)))) ++
    [put (u64 r 112) (bs.drop (bs.length - 8)) .done]

/-- A payload at a rank (R200): forwarded once, its parts written in order, then ARRIVE.  An entry that stops a record's write halts the step
there, and it goes on from there (R211). -/
def deliverPayload (cove n : Nat) (p : BcastPayload) : Act :=
  .look fun b => Act.opt ((b.ctl.cove cove).ctx n) fun x =>
    (Act.when (!x.txDone) ((Act.each (treeChildren b.ctl.jobP (b.ctl.rankOf x.second) p.root) fun (_, k) =>
      send (.rank k) (.payload { p with toRank := k })).seq (txDone cove n))).seq <|
    walkUnits cove n x.second (fun u _ => u)
      (Act.all [tideSignal x 180 0 false, dropMsg (.payload p), rxDone cove n, tideEnd cove n]) ((b.payloadUnits cove x p).drop x.pos)

/-- A poison notice in place of a payload: ARRIVE is poisoned and the step ends poisoned, which sends the notice on (log 23). -/
def poisonPayload (cove n : Nat) (m : Msg) : Act :=
  .look fun b => Act.opt ((b.ctl.cove cove).ctx n) fun x =>
    Act.all [dropMsg m, poisonStep cove n, tideSignal x 180 0 true, endInstance cove n true]

/-- A step takes the payload that waits for it. -/
def bcastTry (cove n : Nat) : Act :=
  .look fun b => Act.opt ((b.ctl.cove cove).ctx n) fun x => Act.when (!x.rxDone && x.fault.isNone) <|
    Act.opt (b.waitingMsg (isPayload (b.ctl.rankOf x.second) x.record)) fun m =>
      match m with
      | .payload p => deliverPayload cove n p
      | m => poisonPayload cove n m

/-- TIDE_BCAST (R200): the root makes the payload and treats it as every rank does; another rank waits for it. -/
def tideBcastAct (cove n : Nat) : Act :=
  tideRun cove n 1 fun x =>
    if x.begun then bcastTry cove n
    else .look fun b =>
      let r := x.record
      let root := b.ctl.rankOf x.second == tRoot r
      let as := if root then ({ va := u64 r 144, len := u32 r 152, write := false } : Access) ::
        (if u32 r 156 = 0 then [] else [{ va := u64 r 160, len := 576 * u32 r 156, write := false }]) else []
      withAccess cove n x.second as <|
        Act.all [updCtx cove n fun x => { x with begun := true, txDone := tNoTx r, rxDone := tNoRx r && !root },
          Act.when root (keepMsg (.payload (b.payload cove x))), bcastTry cove n, tideEnd cove n]

/-- BROADCAST_PAYLOAD (R200, R208): checked, then delivered by the step it is for, or held until that step runs. -/
def broadcastPayloadAct (p : BcastPayload) : Act :=
  .look fun b =>
    let key := missKey 1 p.toRank p.layer p.root p.seq
    if !segmentsOk p.data then
      Act.opt (treeParent b.ctl.jobP p.toRank p.root) fun (k, _) => mismatch key (b.moverDie 1 p.layer) p.toRank k (.payload p.toRank p.seq p.layer p.root)
    else
      Act.all [arrived key, keepMsg (.payload p),
        Act.opt (b.tideStep p.toRank 1 fun _ x => !x.rxDone && isPayload p.toRank x.record (.payload p)) fun (c, n, _) => bcastTry c n]

/-! ## Gathers (R201) -/

/-- The empty partial that stands for a lacking child: rows of MAX −∞, SUM 0 and ACC 0 over BUF_BYTES, with the DV of the merge that
reads the buffer (R108, R201). -/
def Plan.emptyPartial (p : Plan) (r : Bytes) : Bytes :=
  let dv := match p.ops.find? fun q => rOp q == opMerge && u64 q 104 == u64 r 168 with | some q => (rMax q).2.1 | none => 128
  (List.replicate (u32 r 152 / (64 + 4 * dv)) (RowState.empty dv).bytes).flatten

/-- A partial of a step, or the notice in its place. -/
def isPartial (toRank : Nat) (r : Bytes) : Msg → Bool
  | .partialOf g => g.toRank == toRank && g.seq == tSeq r && g.layer == tLayer r && g.root == tRoot r
  | .poison (.partialOf t q l root _) => t == toRank && q == tSeq r && l == tLayer r && root == tRoot r
  | _ => false

/-- A child's partial lands in its place of the merge buffer, and ARRIVE is signalled (R201). -/
def landPartial (cove n : Nat) (m : Msg) : Act :=
  .look fun b => Act.opt ((b.ctl.cove cove).ctx n) fun x =>
    let r := x.record
    let sp := b.tideSpace cove x
    let need := (treeChildren b.ctl.jobP (b.ctl.rankOf x.second) (tRoot r)).length
    let landed := updCtx cove n fun x => { x with pos := x.pos + 1, rxDone := decide (need ≤ x.pos + 1) }
    (dropMsg m).seq <|
      match m with
      | .partialOf g =>
        let va := u64 r 168 + g.child * u32 r 176
        let bs := joined g.data
        withAccess cove n x.second [{ va := va, len := bs.length, write := true }] <| Act.all [writeVa sp va bs, tideSignal x 180 0 false, landed]
      | _ => Act.all [poisonStep cove n, tideSignal x 180 0 true, landed]

/-- Partials that came before the step land in order. -/
def landWaiting (cove n : Nat) : Nat → Act
  | 0 => .done
  | fuel + 1 => .look fun b => Act.opt ((b.ctl.cove cove).ctx n) fun x =>
      Act.opt (b.waitingMsg (isPartial (b.ctl.rankOf x.second) x.record)) fun m => (landPartial cove n m).seq (landWaiting cove n fuel)

/-- The send half of a gather: the merged partial to the parent, or its notice where a child's was poisoned. -/
def gatherSend (cove n : Nat) : Act :=
  .look fun b => Act.opt ((b.ctl.cove cove).ctx n) fun x => Act.when (x.rxDone && !x.txDone) <|
    let r := x.record
    let me := b.ctl.rankOf x.second
    if x.poisoned then endInstance cove n true
    else
      match treeParent b.ctl.jobP me (tRoot r) with
      | none => (txDone cove n).seq (tideEnd cove n)
      | some (k, i) =>
        withAccess cove n x.second [{ va := u64 r 144, len := u32 r 152, write := false }] <|
          Act.all [send (.rank k) (.partialOf { toRank := k, seq := tSeq r, layer := tLayer r, root := tRoot r, child := i,
                                                data := cut (b.readVa (b.tideSpace cove x) (u64 r 144) (u32 r 152)) }),
            txDone cove n, tideEnd cove n]

/-- TIDE_GATHER (R201): taken, the step puts empty partials where children lack and waits for the others; later it sends what the
merge has left in BUF_ADDR to the parent (log 25). -/
def tideGatherAct (cove n : Nat) : Act :=
  tideRun cove n 2 fun x =>
    if x.begun then gatherSend cove n
    else .look fun b =>
      let r := x.record
      let sp := b.tideSpace cove x
      let kids := (treeChildren b.ctl.jobP (b.ctl.rankOf x.second) (tRoot r)).map Prod.fst
      let lacking := if tNoRx r then [] else [1, 2].filter fun k => !kids.contains k
      let as := lacking.map fun k => ({ va := u64 r 168 + k * u32 r 176, len := u32 r 152, write := true } : Access)
      withAccess cove n x.second as <|
        Act.all [updCtx cove n fun x => { x with begun := true, pos := 0, txDone := tNoTx r, rxDone := tNoRx r || kids.isEmpty },
          Act.each lacking fun k => (writeVa sp (u64 r 168 + k * u32 r 176) (b.ctl.plan.emptyPartial r)).seq (tideSignal x 180 0 false),
          Act.when (!tNoRx r) (landWaiting cove n 2), tideEnd cove n]

/-- GATHER_PARTIAL (R201, R208): checked, then landed by the step it is for, or held until that step runs. -/
def gatherPartialAct (g : GatherMsg) : Act :=
  .look fun b =>
    let key := missKey (2 + g.child) g.toRank g.layer g.root g.seq
    if !segmentsOk g.data then
      Act.opt ((treeChildren b.ctl.jobP g.toRank g.root).find? fun c => c.1 == g.child) fun (_, k) =>
        mismatch key (b.moverDie 2 g.layer) g.toRank k (.partialOf g.toRank g.seq g.layer g.root g.child)
    else
      Act.all [arrived key, keepMsg (.partialOf g),
        Act.opt (b.tideStep g.toRank 2 fun _ x => !x.rxDone && isPartial g.toRank x.record (.partialOf g)) fun (c, n, _) =>
          (landPartial c n (.partialOf g)).seq (tideEnd c n)]

/-! ## Windows (R203) -/

/-- The runs of a window slot: for each query run of the rank, from WINDOW_PAGES − 1 pages before its first page to its last. -/
def Block.windowRuns (b : Block) (sp : Space) (w : Nat) : List (Nat × Nat) :=
  [(24, 40), (32, 44)].filterMap fun (p, c) =>
    let pos := b.passField sp p 8
    let cnt := b.passField sp c 4
    if cnt = 0 then none
    else
      let first := pos / 16 - (w - 1)
      some (first, (pos + cnt - 1) / 16 + 1 - first)

/-- TIDE_WINDOW (R203): pages held here and on the board through translation, those of other boards by remote reads on TIDE, whose
bytes the model does not know (log 7). -/
def tideWindowAct (cove n : Nat) : Act :=
  tideRun cove n 3 fun x => .look fun b =>
    let r := x.record
    let sp := b.tideSpace cove x
    let me := b.ctl.rankOf x.second
    let e := b.seq (tSeq r)
    let runs := b.windowRuns sp (u32 r 184)
    let far := fun (g : Nat) => let h := b.ctl.holder (tLayer r) g; h != me && !b.ctl.onBoard h
    let pages := runPages runs
    let as := (pages.filter fun g => !far g).map fun g => ({ va := e.pageAddr (tLayer r) g, len := 8192, write := false } : Access)
    let slot : Access := { va := u64 r 120, len := 8192 + 8192 * pages.length, write := true }
    withAccess cove n x.second (as ++ [slot]) <|
      let bs := pages.flatMap fun g =>
        if far g then b.outside (64 + b.ctl.holder (tLayer r) g) (e.pageAddr (tLayer r) g) 8192 else b.readVa sp (e.pageAddr (tLayer r) g) 8192
      Act.all [
        Act.each (pages.filter far) (fun g => send (.rank (b.ctl.holder (tLayer r) g))
          (.window { toRank := b.ctl.holder (tLayer r) g, rank := me, seq := tSeq r, layer := tLayer r, page := g, pages := 1 })),
        writeVa sp (u64 r 120) (slotHeader me 0 (tLayer r) (tSeq r) true runs bs ++ bs), takeFresh, endInstance cove n false]

/-- WINDOW_READ (R203): pages this module holds are read for another rank's window. -/
def windowReadAct (q : WindowReq) : Act :=
  .look fun b => Act.opt (b.ctl.servesRank q.toRank) fun second =>
    let e := b.seq q.seq
    let sp : Space := { second := second, cove := none, tlb := [] }
    let as := (upto q.page (q.page + q.pages)).map fun g => ({ va := e.pageAddr q.layer g, len := 8192, write := false } : Access)
    Act.when ((b.firstBad sp as).isNone) (send (.rank q.rank) (.windowData (as.flatMap fun a => b.readVa sp a.va 8192)))

/-! ## The global page cache (R204) -/

/-- Arrivals counted for a cache. -/
def Movers.count (m : Movers) (seq layer : Nat) : Nat := match m.globals.find? (fun g => g.1 == seq && g.2.1 == layer) with | some g => g.2.2 | none => 0

/-- Set the arrivals of a cache; 0 forgets it. -/
def setArrivals (seq layer k : Nat) : Act :=
  .upd fun c =>
    let rest := c.engine.movers.globals.filter fun g => !(g.1 == seq && g.2.1 == layer)
    { c with engine := { c.engine with movers := { c.engine.movers with globals := if k = 0 then rest else (seq, layer, k) :: rest } } }

/-- A message of the global cache for a step. -/
def isGlobal (toRank : Nat) (r : Bytes) : Msg → Bool
  | .global (.page t q l _ _) => t == toRank && q == tSeq r && l == tLayer r
  | .global (.cache t q l root _) => t == toRank && q == tSeq r && l == tLayer r && root == tRoot r
  | .poison (.global t q l) => t == toRank && q == tSeq r && l == tLayer r
  | _ => false

/-- The root broadcasts the cache when every page has come, and the step ends (R204). -/
def globalFull (cove n : Nat) : Act :=
  .look fun b => Act.opt ((b.ctl.cove cove).ctx n) fun x =>
    let r := x.record
    let sp := b.tideSpace cove x
    let me := b.ctl.rankOf x.second
    let total := (globalPages (b.tableOf sp r)).length
    Act.when (me == tRoot r && decide (total ≤ b.ctl.engine.movers.count (tSeq r) (tLayer r))) <|
      if x.poisoned then Act.all [setArrivals (tSeq r) (tLayer r) 0, tideSignal x 180 0 true, endInstance cove n true]
      else
        let bs := b.readVa sp (u64 r 200) (total * 8192)
        Act.all [setArrivals (tSeq r) (tLayer r) 0,
          Act.each (treeChildren b.ctl.jobP me (tRoot r)) fun (_, k) => send (.rank k) (.global (.cache k (tSeq r) (tLayer r) (tRoot r) (cut bs))),
          tideSignal x 180 0 false, endInstance cove n false]

/-- One message of the global cache at its step. -/
def takeGlobal (cove n : Nat) (m : Msg) : Act :=
  .look fun b => Act.opt ((b.ctl.cove cove).ctx n) fun x =>
    let r := x.record
    let sp := b.tideSpace cove x
    let me := b.ctl.rankOf x.second
    let count := setArrivals (tSeq r) (tLayer r) (b.ctl.engine.movers.count (tSeq r) (tLayer r) + 1)
    (dropMsg m).seq <|
      match m with
      | .global (.page _ _ _ i bs) =>
        withAccess cove n x.second [{ va := u64 r 200 + i * 8192, len := bs.length, write := true }] <|
          Act.all [writeVa sp (u64 r 200 + i * 8192) bs, count, globalFull cove n]
      | .global (.cache _ _ _ _ data) => Act.all [
          Act.each (treeChildren b.ctl.jobP me (tRoot r)) fun (_, k) => send (.rank k) (.global (.cache k (tSeq r) (tLayer r) (tRoot r) data)),
          txDone cove n,
          withAccess cove n x.second [{ va := u64 r 200, len := (joined data).length, write := true }] <|
            Act.all [writeVa sp (u64 r 200) (joined data), tideSignal x 180 0 false, endInstance cove n false]]
      | _ =>
        if me = tRoot r then Act.all [poisonStep cove n, count, globalFull cove n]
        else Act.all [poisonStep cove n, tideSignal x 180 0 true, endInstance cove n true]

/-- Messages that came before the step are taken in order. -/
def globalWaiting (cove n : Nat) : Nat → Act
  | 0 => .done
  | fuel + 1 => .look fun b => Act.opt ((b.ctl.cove cove).ctx n) fun x =>
      Act.opt (b.waitingMsg (isGlobal (b.ctl.rankOf x.second) x.record)) fun m => (takeGlobal cove n m).seq (globalWaiting cove n fuel)

/-- TIDE_GLOBAL (R204): every global page held here goes into the root's cache at its index of the table; the root waits for all and
broadcasts. -/
def tideGlobalAct (cove n : Nat) : Act :=
  tideRun cove n 4 fun x => Act.when (!x.begun) <| .look fun b =>
    let r := x.record
    let sp := b.tideSpace cove x
    let me := b.ctl.rankOf x.second
    let e := b.seq (tSeq r)
    let pages := globalPages (b.tableOf sp r)
    let mine := b.globalsHere sp r
    let va := fun (i : Nat) => e.pageAddr (tLayer r) (pages.getD i 0)
    let puts := if me = tRoot r then mine.map fun i => ({ va := u64 r 200 + i * 8192, len := 8192, write := true } : Access) else []
    withAccess cove n x.second (({ va := u64 r 192, len := 8 + 8 * (b.natVa sp (u64 r 192) 8 % 65536), write := false } : Access) ::
        (mine.map fun i => { va := va i, len := 8192, write := false }) ++ puts) <|
      Act.all [updCtx cove n fun x => { x with begun := true },
        Act.each mine fun i =>
          let bs := b.readVa sp (va i) 8192
          if me = tRoot r then (writeVa sp (u64 r 200 + i * 8192) bs).seq
              (.look fun b => setArrivals (tSeq r) (tLayer r) (b.ctl.engine.movers.count (tSeq r) (tLayer r) + 1))
          else send (.rank (tRoot r)) (.global (.page (tRoot r) (tSeq r) (tLayer r) i bs)),
        .look fun b => globalWaiting cove n (b.ctl.engine.movers.inbox.length), globalFull cove n]

/-- GLOBAL_PAGE (R204, R208): into the cache of the step it is for, or held until that step runs; the broadcast of the cache is checked as
every broadcast is. -/
def globalPageAct (g : GlobalMsg) : Act :=
  .look fun b =>
    let take := fun (toRank : Nat) => (keepMsg (.global g)).seq <|
      Act.opt (b.tideStep toRank 4 fun _ x => isGlobal toRank x.record (.global g)) fun (c, n, _) => takeGlobal c n (.global g)
    match g with
    | .page t _ _ _ _ => take t
    | .cache t q l root data =>
      let key := missKey 5 t l root q
      if !segmentsOk data then
        Act.opt (treeParent b.ctl.jobP t root) fun (k, _) => mismatch key (b.moverDie 4 l) t k (.cache t q l root)
      else (arrived key).seq (take t)

/-! ## Poison notices and resends -/

/-- POISON_NOTICE (R290): the semaphores that the transfer would have signalled are poisoned; an early notice waits for its step. -/
def poisonNoticeAct (p : PoisonOf) : Act :=
  .look fun b =>
    let m := Msg.poison p
    match p with
    | .piece toRank die step dir =>
      match b.tideStep toRank 0 fun c x => !x.rxDone && dieOf c == die.val && tStep x.record == step && tDir x.record == dir with
      | some (c, n, x) => (ringPoison c n x).seq (tideEnd c n)
      | none => keepMsg m
    | .grant toRank _ _ _ =>
      match b.tideStep toRank 0 fun c x => !x.txDone && isGrant toRank (dieOf c) x.record m with
      | some (c, n, _) => (grantSend c n m).seq (tideEnd c n)
      | none => keepMsg m
    | .payload toRank _ _ _ =>
      match b.tideStep toRank 1 fun _ x => !x.rxDone && isPayload toRank x.record m with
      | some (c, n, _) => poisonPayload c n m
      | none => keepMsg m
    | .partialOf toRank _ _ _ _ =>
      match b.tideStep toRank 2 fun _ x => !x.rxDone && isPartial toRank x.record m with
      | some (c, n, _) => (landPartial c n m).seq (tideEnd c n)
      | none => keepMsg m
    | .global toRank _ _ =>
      match b.tideStep toRank 4 fun _ x => isGlobal toRank x.record m with
      | some (c, n, _) => takeGlobal c n m
      | none => keepMsg m

/-- The message of an earlier transfer that a request to send again names. -/
def isResent (q : ResendOf) : Sent → Bool
  | { dest := .rank k, msg := .piece p } =>
    (match q with | .piece toRank die step dir => k == toRank && p.toRank == toRank && p.die == die && p.step == step && p.dir == dir | _ => false)
  | { dest := .rank k, msg := .payload p } =>
    (match q with | .payload toRank s l r => k == toRank && p.toRank == toRank && p.seq == s && p.layer == l && p.root == r | _ => false)
  | { dest := .rank k, msg := .partialOf p } =>
    (match q with | .partialOf toRank s l r i => k == toRank && p.toRank == toRank && p.seq == s && p.layer == l && p.root == r && p.child == i | _ => false)
  | { dest := .rank k, msg := .global (.cache toRank s l r _) } =>
    (match q with | .cache t s2 l2 r2 => k == t && toRank == t && s == s2 && l == l2 && r == r2 | _ => false)
  | _ => false

/-- RESEND_REQUEST (R208): the mover sends the transfer that the request names again; a fourth mismatch at a rank has lost the bundle to it
(R213, log 64). -/
def resendRequestAct (q : ResendOf) : Act :=
  .look fun b =>
    match q with
    | .lost k => bundleLost (b.ctl.links.fabric.serialOf k)
    | q => Act.opt (b.out.find? (isResent q)) fun m => send m.dest m.msg

/-! ## Meanings -/

/-- TIDE_RING. -/
def execTideRing (cove : Fin 512) (ctx : Fin 4) (s : State) : Host.Outcome State Fault Refusal := s.perform (tideRingAct cove.val ctx.val)
/-- TIDE_BCAST. -/
def execTideBcast (cove : Fin 512) (ctx : Fin 4) (s : State) : Host.Outcome State Fault Refusal := s.perform (tideBcastAct cove.val ctx.val)
/-- TIDE_GATHER. -/
def execTideGather (cove : Fin 512) (ctx : Fin 4) (s : State) : Host.Outcome State Fault Refusal := s.perform (tideGatherAct cove.val ctx.val)
/-- TIDE_WINDOW. -/
def execTideWindow (cove : Fin 512) (ctx : Fin 4) (s : State) : Host.Outcome State Fault Refusal := s.perform (tideWindowAct cove.val ctx.val)
/-- TIDE_GLOBAL. -/
def execTideGlobal (cove : Fin 512) (ctx : Fin 4) (s : State) : Host.Outcome State Fault Refusal := s.perform (tideGlobalAct cove.val ctx.val)
/-- TIDE_GRANT. -/
def execTideGrant (g : TideGrant) (s : State) : Host.Outcome State Fault Refusal := s.perform (tideGrantAct g)
/-- TIDE_PIECE. -/
def execTidePiece (p : TidePiece) (s : State) : Host.Outcome State Fault Refusal := s.perform (tidePieceAct p)
/-- BROADCAST_PAYLOAD. -/
def execBroadcastPayload (p : BcastPayload) (s : State) : Host.Outcome State Fault Refusal := s.perform (broadcastPayloadAct p)
/-- GATHER_PARTIAL. -/
def execGatherPartial (p : GatherMsg) (s : State) : Host.Outcome State Fault Refusal := s.perform (gatherPartialAct p)
/-- WINDOW_READ. -/
def execWindowRead (r : WindowReq) (s : State) : Host.Outcome State Fault Refusal := s.perform (windowReadAct r)
/-- GLOBAL_PAGE. -/
def execGlobalPage (p : GlobalMsg) (s : State) : Host.Outcome State Fault Refusal := s.perform (globalPageAct p)
/-- POISON_NOTICE. -/
def execPoisonNotice (n : PoisonOf) (s : State) : Host.Outcome State Fault Refusal := s.perform (poisonNoticeAct n)
/-- RESEND_REQUEST. -/
def execResendRequest (r : ResendOf) (s : State) : Host.Outcome State Fault Refusal := s.perform (resendRequestAct r)

end Sys2Proof.Machine
end

