-- ==== Sys2Proof/Machine/PassCore.lean ====
section
/-! DEFINITION. Passes: which tokens a pass covers, its pass block and bound records, how it starts on a rank, how the leader
chooses it, and what firmware does to the plan's work when a pass is abandoned (R60, R103, R104, R191, R287, R357 to R361, R488). -/

namespace Sys2Proof.Machine

/-! ## The pass table (Tables 03-23, 03-24) -/

/-- The pass-table entry of a KIND. -/
def Plan.passEntry (p : Plan) (kind : Nat) : Option Bytes := p.passes.find? fun e => u8 e 0 == kind

/-- END entries of a pass-table entry. -/
def passEnds (e : Bytes) : List Nat := (List.range (min (u8 e 1) 4)).map fun i => u64 e (16 + 8 * i)

/-- MAX_TOKENS of a KIND. -/
def Plan.maxTokens (p : Plan) (kind : Nat) : Nat := match p.passEntry kind with | some e => u32 e 12 | none => 0

/-- First position beyond the zigzag prefix; no position is beyond it without a Tideway descriptor (R190, R357). -/
def Plan.prefixEnd (p : Plan) (ranks : Nat) : Nat := if p.hasTide then 32 * ranks * p.chunk else 2 ^ 31

/-- The plan's position passes are cut by chunks; else every rank has every new position (R104). -/
def Plan.byChunk (p : Plan) : Bool := p.hasTide && !p.byHead

/-- Positions of a rank's two chunks, as first and end. -/
def Plan.chunkSpans (p : Plan) (ranks rank : Nat) : List (Nat × Nat) :=
  [rank, 2 * ranks - 1 - rank].map fun k => (k * 16 * p.chunk, (k + 1) * 16 * p.chunk)

/-- The runs of new positions of a rank in a POSITION pass over [l0, e): first position and count (R104; one in each chunk). -/
def Plan.newRuns (p : Plan) (ranks rank l0 e : Nat) : List (Nat × Nat) :=
  (if p.byChunk then p.chunkSpans ranks rank else [(l0, e)]).filterMap fun (s, t) =>
    if max l0 s < min e t then some (max l0 s, min e t - max l0 s) else none

/-- Where a pass from l0 on must end so that the spans get no more than `left` new positions; none for no limit. -/
def spanEnd (l0 : Nat) : Nat → List (Nat × Nat) → Option Nat
  | _, [] => none
  | left, (s, t) :: rest =>
    let a := max l0 s
    if t ≤ a then spanEnd l0 left rest else if left < t - a then some (a + left) else spanEnd l0 (left - (t - a)) rest

/-- End of the POSITION pass from l0 towards `to` in which no rank takes more than `most` new positions (R357, R416). -/
def Plan.cutEnd (p : Plan) (ranks l0 upTo most : Nat) : Nat :=
  (if p.byChunk then (List.range ranks).filterMap fun r => spanEnd l0 most (p.chunkSpans ranks r) else [l0 + most]).foldl min upTo

/-- RUN0_POS, RUN0_COUNT, RUN1_POS and RUN1_COUNT of a rank's pass block (R104). -/
def runWords (p : Plan) (ranks : Nat) (n : PassNotice) : Nat × Nat × Nat × Nat :=
  match (if n.kind = 1 then p.newRuns ranks n.rank n.l0 n.e else [(n.l0, n.e - n.l0)]) with
  | [] => (n.l0, 0, n.l0, 0)
  | [(a, k)] => (a, k, a + k, 0)
  | (a, k) :: (c, m) :: _ => (a, k, c, m)

/-- Bytes 0 to 71 of the pass block (Table 03-24). -/
def passBlockHead (n : PassNotice) (w : Nat × Nat × Nat × Nat) (seed : Nat) : Bytes :=
  leBytes n.seq 2 ++ leBytes n.kind 1 ++ [0] ++ leBytes n.step 4 ++ leBytes n.l0 8 ++ leBytes n.e 8 ++ leBytes w.1 8 ++ leBytes w.2.2.1 8 ++
  leBytes w.2.1 4 ++ leBytes w.2.2.2 4 ++ leBytes n.tokens.length 4 ++ leBytes n.pending 4 ++ leBytes seed 8 ++ leBytes n.sampleArg 8

/-! ## Bound records (R359) -/

/-- Offsets of SEQ and LEN_ADDR in a record that can be bound; none for the others. -/
def bindFields (r : Bytes) : Option (Nat × Nat) :=
  if gAppend r then some (200, 208)
  else if rOp r = opPrefill ∨ rOp r = opDecode ∨ rOp r = opRecompute then some (116, 120)
  else if rOp r = opTide then some (108, 112) else none

/-- A record with SEQ 0xFFFF is bound to the pass. -/
def isBound (r : Bytes) : Bool := match bindFields r with | some (o, _) => u16 r o == 0xFFFF | none => false

/-- The queued copy of a record of a pass on sequence `q`: SEQ, LEN_ADDR, the position words and REC_COUNT are bound. -/
def bindRecord (seqAddr q : Nat) (w : Nat × Nat × Nat × Nat) (r : Bytes) : Bytes :=
  match bindFields r with
  | some (so, lo) =>
    if u16 r so ≠ 0xFFFF then r
    else
      let r := patch r so (leBytes q 2)
      let r := if u64 r lo = 0xFFFFFFFFFFFFFFC0 then patch r lo (leBytes seqAddr 8) else r
      let r := if so = 116 ∧ u32 r 220 = 0xFFFFFFFF then patch r 216 (leBytes w.1 4 ++ leBytes w.2.1 4 ++ leBytes w.2.2.1 4) else r
      if so = 108 ∧ tMode r = 1 ∧ u32 r 156 = 0xFFFFFFFF then patch r 156 (leBytes w.2.1 4) else r
  | none => r

/-! ## Starting a pass on a rank (Table 11-7 steps 2 to 5) -/

/-- The semaphores of the plan's ranges with their entries of the initial-value table (R286). -/
def Block.semInits (b : Block) : List (Nat × Nat) :=
  let o := b.ctl.plan.sem
  let n0 := u16 o 2
  (upto (u16 o 0) (u16 o 0 + n0) ++ upto (u16 o 4) (u16 o 4 + u16 o 6)).zipIdx.map fun (s, i) => (s, b.natVa fwSpace (u64 o 8 + 4 * i) 4)

/-- Reset the plan's semaphores of a rank context: the pass-scope ones, or all of them (R287). -/
def resetSems (second all : Bool) : Act :=
  .look fun b => Act.each (b.semInits.filter fun s => all || bit s.2 31) fun (s, v) => .one (.semReset (semIn second s) (v % 2 ^ 31))

/-- The records of a pass-table entry go into the queues of their coves, in table order (R60). -/
def fillQueues (second : Bool) (entry : Bytes) (seqAddr : Nat) (n : PassNotice) (w : Nat × Nat × Nat × Nat) : Act :=
  .upd fun c =>
    (upto (u32 entry 4) (u32 entry 4 + u32 entry 8)).foldl (fun c i =>
      match c.plan.ops[i]? with
      | none => c
      | some r =>
        let q : QEntry := { op := i, record := bindRecord seqAddr n.seq w r, met := 0 }
        (rCoves r).foldl (fun (c : Ctl) v => c.setCove v fun x => x.setQ second (x.q second ++ [q])) c) c

/-- Steps 2 to 5 of Table 11-7 in a rank context: pass block, tokens, semaphores, queues; the sequence is ACTIVE (R157). -/
def beginPass (second : Bool) (n : PassNotice) : Act :=
  .look fun b => Act.opt (b.ctl.plan.passEntry n.kind) fun e =>
    let p := b.ctl.plan
    let sp : Space := { fwSpace with second := second }
    let w := runWords p b.ctl.jobP n
    Act.all [
      Act.when (n.kind != 0) (setSeq n.seq fun s => { s with state := seqActive }),
      writeVa sp p.passBlock (passBlockHead n w (if n.kind = 0 then 0 else (b.seq n.seq).seed)),
      writeVa sp (p.passBlock + 76) (zeroBytes 180),
      Act.when (!n.tokens.isEmpty && p.tokenBuf != 0)
        ((countFw (4 * n.tokens.length)).seq (writeVa sp p.tokenBuf (n.tokens.flatMap fun t => leBytes t 4))),
      Act.when (n.kind != 0) (resetSems second false),
      .upd fun c => { c with engine := { c.engine with rows := c.engine.rows.filter fun r => r.second != second } },
      fillQueues second e (p.seqEntry n.seq) n w]

/-! ## Leaving a pass -/

/-- A cove whose queues, contexts and threads hold nothing but the XFERs of programs that run. -/
def Cove.drained (v : Cove) : Cove :=
  let keep := fun (x : Option Ctx) => x.filter fun x => rOp x.record == opXfer && x.begun
  { v with queue := [], queue2 := [], ctx0 := keep v.ctx0, ctx1 := keep v.ctx1, ctx2 := keep v.ctx2, ctx3 := keep v.ctx3, thread0 := Thread.idle,
           thread1 := Thread.idle, thread2 := Thread.idle, thread3 := Thread.idle }

/-- Uncommitted work is abandoned: queues, contexts, threads and movers are empty, and no fault of theirs is left; nothing is signalled
(R178, R214, R360).  A plan channel that runs is asked to stop: its XFER ends at the next descriptor boundary (R273). -/
def Ctl.discardWork (c : Ctl) : Ctl :=
  { c with
    engine := { c.engine with
      coves := Tab.mapVals Cove.empty Cove.drained c.engine.coves, stages := [], rows := [],
      ls := { c.engine.ls with chans := c.engine.ls.chans.map fun e => (e.1, if fwChannel (e.1 / 32) (e.1 % 32) then e.2 else { e.2 with stop := true }) },
      movers := { c.engine.movers with inbox := [], misses := [], globals := [] } },
    fw := { c.fw with faults := c.fw.faults.filter fun f => match f.who with | .channel _ _ | .remote _ => true | .context _ _ | .thread _ _ => false } }

/-- Plan work is discarded. -/
def discardPass : Act := .upd Ctl.discardWork

/-! ## The leader -/

/-- A message to every rank that does not run here. -/
def toOthers (f : Nat → Msg) : Act :=
  .look fun b => Act.each ((List.range b.ctl.jobP).filter fun r => (b.ctl.servesRank r).isNone) fun r => send (.rank r) (f r)

/-- The leader tells every rank a sequence's committed length, pending token and state (Table 13-6 step 5, R154). -/
def announce (q : Nat) : Act :=
  .look fun b =>
    let e := b.seq q
    toOthers fun _ => .commit { seq := q, length := e.length, e := e.committed, pending := e.pending, state := e.state }

/-- A SEQ_APPEND or SEQ_STEP ends with a status: LENGTH is COMMITTED, the sequence OPEN again, on every rank (R157, R363, R366). -/
def endSeqCmd (id code : Nat) (stopped : Bool) : Act :=
  .look fun b => Act.opt (b.ctl.cmd id) fun x =>
    Act.all [
      setSeq (cSeq x.bytes) fun s => { s with length := s.committed, state := if s.state = seqActive then seqOpenSt else s.state },
      .look fun b => finishCode id code (seqResult b x stopped), announce (cSeq x.bytes)]

/-- Token identity j of a SEQ_APPEND's source (Table 11-5). -/
def Block.sourceToken (b : Block) (c : Bytes) (j : Nat) : Nat :=
  if u8 c 34 = 0 then b.host.nat (u64 c 40 + 4 * j) 4 else b.natVa fwSpace (u64 c 40 + 4 * j) 4

/-- Token identity of position `p` of a SEQ_APPEND whose next pass starts at `l0`: the pending token first where it took one (R488). -/
def Block.appendToken (b : Block) (x : Cmd) (l0 p : Nat) : Nat :=
  let i := p + x.tokens - l0
  if x.tookPend then (if i = 0 then (b.seq (cSeq x.bytes)).pending else b.sourceToken x.bytes (i - 1)) else b.sourceToken x.bytes i

/-- The notice of a command's next pass for a rank (Table 11-7 step 1). -/
def Block.noticeOf (b : Block) (x : Cmd) (kind l0 e rank : Nat) : PassNotice :=
  let p := b.ctl.plan
  let pend := (b.seq (cSeq x.bytes)).pending
  let tokens := fun (rs : List (Nat × Nat)) => rs.flatMap fun (a, k) => (upto a (a + k)).map (b.appendToken x l0)
  { rank := rank, kind := kind, seq := cSeq x.bytes, step := x.passes, l0 := l0, e := e, pending := if kind = 3 then pend else 0,
    sampleArg := if kind = 3 then u64 x.bytes 56 else 0,
    tokens := if kind = 3 then (if pend = noToken then [] else [pend])
              else if kind = 1 then tokens (p.newRuns b.ctl.jobP rank l0 e) else tokens [(l0, e - l0)] }

/-- The pass that a command runs next from LENGTH: KIND and E (R357, R191, R365). -/
def Block.nextPass (b : Block) (x : Cmd) : Nat × Nat :=
  let p := b.ctl.plan
  let s := b.seq (cSeq x.bytes)
  let l0 := s.length
  if cOp x.bytes = 0x12 then (3, l0 + (if s.pending = noToken then 0 else 1))
  else
    let target := l0 + (u32 x.bytes 36 + (if x.tookPend then 1 else 0) - x.tokens)
    let pre := p.prefixEnd b.ctl.jobP
    if l0 < pre then (1, p.cutEnd b.ctl.jobP l0 (min target pre) (p.maxTokens 1)) else (2, min target (l0 + p.maxTokens 2))

/-- The leader opens a pass: its own notice is kept for PASS_NOTICE, the others' are sent (Table 11-7 step 1). -/
def openPass (cmd : Option Nat) (mk : Nat → PassNotice) : Act :=
  let pass : PassNotice → Option PassNotice → Pass := fun n n2 =>
    { notice := n, notice2 := n2, cmd := cmd, started := false, started2 := false, reported := false, reported2 := false,
      flags := { poisoned := false, shape := false, capacity := false }, reports := [], ready := [], noticed := false }
  (Act.upd fun c => { c with job := { c.job with pass := some (pass (mk c.rank) (c.pair.rank2.map mk)) } }).seq
    (toOthers fun r => .passNotice (mk r))

/-- Value of a SEQ_EDIT_PAGES command's step count while the ranks check its list (R168, R170; log 29). -/
def checkStep : Nat := 2

/-- The ranks check an edit list with SHARE entries of the sequence. -/
def Ctl.checking (c : Ctl) (q : Nat) : Bool :=
  c.hif.cmds.any fun x => cOp x.bytes == 0x16 && cSeq x.bytes == q && x.phase == .running && x.steps == checkStep

/-- Running commands that have passes left (R358): of this leader, on a sequence that no pre-emption holds and no edit that is being
checked (R170). -/
def Block.candidates (b : Block) : List Cmd :=
  b.ctl.hif.cmds.filter fun x => decide (cOp x.bytes = 0x11 ∨ cOp x.bytes = 0x12) && x.phase == .running && !x.stopping &&
    (b.seq (cSeq x.bytes)).state == seqActive && (b.ctl.seqFw (cSeq x.bytes)).pre == .none && !b.ctl.checking (cSeq x.bytes)

/-- The candidate of highest ring PRIO, and among equals the one that started first (R358). -/
def Ctl.firstOf (c : Ctl) (xs : List Cmd) : Option Cmd :=
  xs.foldl (fun best x =>
    match best with
    | none => some x
    | some y =>
      let px := (c.ring x.ring).prio
      let py := (c.ring y.ring).prio
      if decide (py < px) || (px == py && decide (x.startNo < y.startNo)) then some x else best) none

/-- The leader chooses the next pass (R358); a DECODE pass whose pending token has no place ends its command with E_CAPACITY (R361). -/
def choosePassN : Nat → Act
  | 0 => .done
  | fuel + 1 => .look fun b =>
    Act.when (b.ctl.leader && b.ctl.job.inJob && b.ctl.job.pass.isNone) <| Act.opt (b.ctl.firstOf b.candidates) fun x =>
      let s := b.seq (cSeq x.bytes)
      let (kind, e) := b.nextPass x
      if kind = 3 ∧ s.pending ≠ noToken ∧ 16 * s.capPages ≤ s.length then (endSeqCmd x.id Status.eCapacity.code false).seq (choosePassN fuel)
      else openPass (some x.id) (b.noticeOf x kind s.length e)

/-- The leader chooses the next pass. -/
def choosePass : Act := .look fun b => choosePassN (b.ctl.hif.cmds.length + 1)

end Sys2Proof.Machine
end

