-- ==== Sys2Proof/Machine/Mirror.lean ====
section
/-! DEFINITION. What a bound member sends its partner at a commit: the state record with its CRC, sent again on a mismatch, and the
task journal (R351, R414, R417, R421, Table 13-6). -/

namespace Sys2Proof.Machine

/-! ## The context area -/

/-- Offset in the context area of a scratch or lagoon address. -/
def onChipOffset (va : Nat) : Nat := if va < lagoonBase then va - scratchBase else 512 * scratchSize + (va - lagoonBase)

/-- Buffers one behind another from an offset: offset and place of each piece. -/
def contextRun : Nat → List Buf → List (Nat × Piece)
  | _, [] => []
  | off, x :: xs => (x.pieces.map fun q => (off + (q.vaddr - bufVaddr x.entry), q)) ++ contextRun (off + bufBytes x.entry) xs

/-- The pieces of the context area (Table 13-5): scratch- and lagoon-resident buffers at their images' places, then the writable
buffers that are not replicated. -/
def Plan.contextPieces (p : Plan) : List (Nat × Piece) :=
  ((p.bufs.filter fun x => decide (2 ≤ bufTier x.entry) && bufKind x.entry != 6).flatMap fun x => x.pieces.map fun q => (onChipOffset q.vaddr, q)) ++
  contextRun (512 * scratchSize + 2 * lagoonSize) (p.bufs.filter inContext)

/-- The context of a rank context of this module goes out (R414, Table 13-8 step 2). -/
def mirrorContext (second : Bool) : Act :=
  .look fun b => Act.each b.ctl.plan.contextPieces fun (off, q) =>
    mirror (if second then .backContext off (b.read (b.contextBase + off) q.bytes) else .context off (b.read q.paddr q.bytes))

/-! ## The state record -/

/-- The mirror messages of the step in progress, newest first: those behind the last state record (Table 13-6). -/
def mirrorTail : List Sent → List MirrorMsg
  | [] => []
  | s :: rest =>
    match s.msg with
    | .stateRecord _ => []
    | .mirror m => m :: mirrorTail rest
    | _ => mirrorTail rest

/-- The last 64-byte line of a byte string. -/
def lastLine (bs : Bytes) : Bytes := bs.drop (bs.length - 64)

/-- The line written last in the records area by a list of mirror messages, newest first. -/
def lastRecordLine (ms : List MirrorMsg) : Bytes := (ms.findSome? fun m => match m with | .record _ _ _ _ bs => some (lastLine bs) | _ => none).getD []

/-- The line written last in the context area. -/
def lastContextLine (ms : List MirrorMsg) : Bytes := (ms.findSome? fun m => match m with | .context _ bs => some (lastLine bs) | _ => none).getD []

/-- The line written last in the state area: the last sequence entry of the record. -/
def lastStateLine (xs : List SeqImage) : Bytes := match xs.getLast? with | some x => lastLine x.entry | none => []

/-- CRC-32C of the lines written last in the state, context and records areas, in that order (Table 13-6 step 2; log 21). -/
def lineCrc (state context records : Bytes) : Nat := crc32c (state ++ context ++ records)

/-- The words of the semaphores that outlast a pass in a rank context: those of job scope (R287), and those of host commands. -/
def Block.keptSems (b : Block) (second : Bool) : List (Nat × Nat) :=
  ((b.semInits.filter fun s => !bit s.2 31).map Prod.fst ++ upto 16256 16320).map fun s => (s, (b.sem (semIn second s)).toNat)

/-- Semaphores of a rank context take the words of a state record. -/
def putSems (second : Bool) (ws : List (Nat × Nat)) : Act :=
  Act.each ws fun (s, w) => (Act.one (.semReset (semIn second s) (w % 2 ^ 31))).seq (Act.when (bit w 31) (.one (.poison (semIn second s))))

/-- The state record of this module (R414): of its own ring and the steps on it, or, when the share goes back, of the ring taken over and
all its commands. -/
def Block.stateRec (b : Block) (hand : Nat) : StateRec :=
  let rg := if hand = 1 then partnerRing else 0
  let seqs := b.openSeqs.map fun q => ({ seq := q, entry := b.seqBytes false q } : SeqImage)
  let ms := mirrorTail b.out
  { seqs := seqs,
    progress := (b.ctl.hif.cmds.filter fun x => x.ring == rg && (hand == 1 || (decide (cOp x.bytes = 0x11 ∨ cOp x.bytes = 0x12) &&
        (x.phase == .running || x.phase == .held)))).map fun x =>
      { index := x.index, bytes := x.bytes, held := x.phase == .held, tookPend := x.tookPend, steps := x.steps, tokens := x.tokens,
        passes := x.passes, order := x.startNo, started := x.phase != .waiting },
    sqHead := (b.ctl.ring rg).sqHead, cqCount := (b.ctl.ring rg).cqCount, hand := hand,
    swapAddr := if hand = 1 then b.ctl.pair.swapAddr else b.ctl.job.swapAddr,
    swapBytes := if hand = 1 then b.ctl.pair.swapBytes else b.ctl.job.swapBytes, regions := b.ctl.job.regions, sems := b.keptSems (hand == 1),
    crc := lineCrc (lastStateLine seqs) (lastContextLine ms) (lastRecordLine ms) }

/-- Send the state record of a commit, and keep its CRC for the partner's answer. -/
def sendHand (hand : Nat) : Act :=
  .look fun b => Act.when b.ctl.mirrors <|
    let r := b.stateRec hand
    (Act.upd fun c => { c with pair := { c.pair with crcSent := r.crc } }).seq (send .partner (.stateRecord r))

/-- Send the state record of a commit. -/
def sendState : Act := sendHand 0

/-- The mirror messages of the step whose state record was sent last, oldest first. -/
def stepMessages (out : List Sent) : List MirrorMsg :=
  match out.dropWhile (fun s => match s.msg with | .stateRecord _ => false | _ => true) with
  | [] => []
  | _ :: rest => (mirrorTail rest).reverse

/-- The step's mirror writes are sent again, then its state record (R417). -/
def resendStep : Act :=
  .look fun b => (Act.each (stepMessages b.out) fun m => send .partner (.mirror m)).seq sendState

/-- A task journal entry for each rank that this module runs (R421). -/
def journal (key : Nat) : Act :=
  .look fun b => Act.each (b.ctl.rank :: b.ctl.pair.rank2.toList) fun r => mirror (.journal key r)

end Sys2Proof.Machine
end

