-- ==== Sys2Proof/Machine/Preempt.lean ====
section
/-! DEFINITION. Pages of a sequence on this module, invalidates, and pre-emption: the choice of a victim, the step boundary and what
takes effect there (R166, R175 to R181, R238). -/

namespace Sys2Proof.Machine

/-! ## Pages -/

/-- A page that a rank of this module holds. -/
structure PageAt where
  second : Bool
  layer  : Nat
  page   : Nat
  entry  : Nat
  deriving DecidableEq, Repr

/-- The pages of a sequence that the rank of a context holds, ascending by record layer and then page. -/
def Block.heldPages (b : Block) (q : Nat) (second : Bool) : List PageAt :=
  let s := b.seq q
  (List.range b.ctl.plan.layers).flatMap fun l => (List.range s.capPages).filterMap fun n =>
    if b.ctl.holder l n = b.ctl.rankOf second then
      some { second := second, layer := l, page := n, entry := b.pageEntry second (s.pageAddr l n) } else none

/-- All pages of a sequence that this module holds. -/
def Block.allPages (b : Block) (q : Nat) : List PageAt := b.ctl.contexts.flatMap (b.heldPages q)

/-- The pages that hold a frame here. -/
def Block.framed (b : Block) (q : Nat) : List PageAt := (b.allPages q).filter fun x => (b.frameOf x.entry).isSome

/-- The pages that Ebb copies (R181). -/
def Block.unpinned (b : Block) (q : Nat) : List PageAt := (b.framed q).filter fun x => !entPinned x.entry

/-- The entry is host-swapped (Table 05-6). -/
def isSwapped (e : Nat) : Bool := bit e 0 && entTier e == 2

/-- The pages in host swap. -/
def Block.swappedPages (b : Block) (q : Nat) : List PageAt := (b.allPages q).filter fun x => isSwapped x.entry

/-! ## Invalidates (R166, R238) -/

/-- An invalidate of several ranges begins. -/
def invalidateAll (lo hi : Nat) (more : List (Nat × Nat)) (what : InvFor) : Act :=
  .upd fun c =>
    let i : Inval := { id := c.fw.nextId, lo := lo, hi := hi, more := more, what := what }
    { c with fw := { c.fw with nextId := c.fw.nextId + 1, invals := c.fw.invals ++ [i] } }

/-- An invalidate of a range begins. -/
def invalidate (lo hi : Nat) (what : InvFor) : Act := invalidateAll lo hi [] what


/-- A sequence's virtual range. -/
def Block.seqRange (b : Block) (q : Nat) : Nat × Nat := ((b.seq q).vbase, (b.seq q).vbase + b.seqSpan q)

/-! ## Choosing a victim (R175) -/

/-- Swap slots of the swap area. -/
def Ctl.swapSlots (c : Ctl) : Nat := c.job.swapBytes / 8192

/-- Free swap slots. -/
def Ctl.freeSlots (c : Ctl) : Nat := c.swapSlots - c.fw.alloc.swap.length

/-- A pre-emption waits for its boundary or is still copying. -/
def Ctl.preempting (c : Ctl) : Bool := c.fw.seqs.any fun e => match e.2.pre with | .pending _ | .ebbing => true | _ => false

/-- Sequences that may be pre-empted for sequence `q`; below a priority under R183. -/
def Block.victims (b : Block) (q : Nat) (below : Option Nat) : List Nat :=
  b.openSeqs.filter fun v =>
    let s := b.seq v
    let n := (b.unpinned v).length
    v != q && (s.state == seqOpenSt || s.state == seqActive) && (b.ctl.seqFw v).pre == .none && decide (0 < n ∧ n ≤ b.ctl.freeSlots) &&
    (match below with | none => true | some p => decide (s.priority < p))

/-- Lowest PRIORITY, then oldest OPEN_TIME, then lowest number. -/
def Block.victim (b : Block) (q : Nat) (below : Option Nat) : Option Nat :=
  (b.victims q below).foldl (fun best v =>
    match best with
    | none => some v
    | some w =>
      let s := b.seq v
      let t := b.seq w
      if s.priority < t.priority ∨ (s.priority = t.priority ∧ s.openTime < t.openTime) then some v else best) none

/-! ## Taking effect (R178, R179) -/

/-- A pass of the sequence is in progress on this rank. -/
def Ctl.passOn (c : Ctl) (q : Nat) : Bool := match c.job.pass with | some p => p.notice.kind != 0 && p.notice.seq == q | none => false

/-- The pass in progress is a POSITION pass of a Tideway ring (R178). -/
def Ctl.ringPass (c : Ctl) : Bool :=
  match c.job.pass with | some p => p.notice.kind == 1 && c.plan.hasTide && !c.plan.byHead && decide (1 < c.jobP) | none => false

/-- The pre-emption of a sequence takes effect here: no work of its pass goes on, LENGTH is COMMITTED, the sequence is PREEMPTED, its
command is held, and Ebb begins. -/
def preemptNow (q cause : Nat) : Act :=
  .look fun b => Act.all [
    Act.when (b.ctl.passOn q) (discardPass.seq (.upd fun c => { c with job := { c.job with pass := none } })),
    setSeq q fun s => { s with length := s.committed, state := seqPreempted },
    Act.each b.ctl.contexts fun s => raise 0x0400 (src 10 q)
      ((countIf (fun x : PageAt => x.second == s) (b.unpinned q)) % 2 ^ 32 * 65536 + cause % 16 * 4096 + q % 4096),
    .upd fun c =>
      let d := c.setSeqFw q fun s => { s with pre := .ebbing }
      let hold : Cmd → Cmd := fun x =>
        if decide (cOp x.bytes = 0x11 ∨ cOp x.bytes = 0x12) && cSeq x.bytes == q && x.phase == .running then { x with phase := .held } else x
      { d with hif := { d.hif with cmds := d.hif.cmds.map hold } },
    sendState, Act.when b.ctl.leader (announce q)]

/-- The leader pre-empts a sequence on every rank (R176): at once where no pass of it runs, else at the step boundary. -/
def preempt (q cause : Nat) : Act :=
  .look fun b =>
    (if b.ctl.passOn q || b.ctl.checking q then Act.upd fun c => c.setSeqFw q fun s => { s with pre := .pending cause } else preemptNow q cause).seq
      (toOthers fun _ => .preempt q cause)

/-- The pre-emption that waits for the boundary takes effect at it; a check of an edit list that was deferred to the boundary comes first
(R170, R178). -/
def preemptDue (q : Nat) : Act :=
  .look fun b => match (b.ctl.seqFw q).pre with
    | .pending k => Act.when (!b.ctl.passOn q && !b.ctl.checking q) (preemptNow q k)
    | _ => .done

/-- An instance of a ring step, one of a TIDE_STEP or of the work on its block, is in progress here (R178, R140). -/
def Ctl.ringStepRuns (c : Ctl) : Bool :=
  c.engine.coves.any fun e => e.2.ctxs.any fun x =>
    decide (rOp x.2.record = opTide ∨ rOp x.2.record = opPrefill ∨ rOp x.2.record = opDecode ∨ rOp x.2.record = opRecompute ∨ rOp x.2.record = opMerge) &&
    (x.2.begun || x.2.started || decide (0 < x.2.pos))

/-- A Flood of which the other ranks' part has failed is undone: its pages are swapped out again, into the slots they came from (R183). -/
def undoFlood (q : Nat) : Act := .upd fun c => c.setSeqFw q fun s => { s with pre := .ebbing, resume := none }

/-- PREEMPT_EFFECT (R178, R183): the boundary has come on this rank: between passes, or in a ring when no ring step is in progress.  Of a
sequence whose Flood is done here and has failed elsewhere, the pages go out again. -/
def preemptEffectAct (q cause : Nat) : Act :=
  .look fun b =>
    let pre := (b.ctl.seqFw q).pre
    let due := match pre with | .pending _ => true | .none => !b.ctl.leader && (b.seq q).state != seqClosed | _ => false
    let at' := !b.ctl.passOn q || (b.ctl.ringPass && !b.ctl.ringStepRuns)
    Act.when (b.ctl.awake && b.ctl.job.inJob) <|
      if pre == .flooded then Act.when (!b.ctl.leader) (undoFlood q)
      else Act.when (due && at' && !b.ctl.checking q) <|
        (preemptNow q (match pre with | .pending k => k | _ => cause)).seq choosePass

/-! ## Ebb (R181) -/

/-- Free swap slots, lowest first. -/
def Ctl.slotsFree (c : Ctl) (n : Nat) : List Nat := ((List.range c.swapSlots).filter fun i => !c.fw.alloc.swap.contains i).take n

/-- One page is copied to its swap slot and its entry rewritten. -/
def ebbPage (q : Nat) (x : PageAt) (slot : Nat) : Act :=
  .look fun b => Act.all [
    countFw 8192, .one (.host (b.ctl.job.swapAddr + 8192 * slot) (b.read (entFrame x.entry) 8192)),
    .upd fun c => { c with fw := { c.fw with alloc := { c.fw.alloc with swap := slot :: c.fw.alloc.swap.filter fun i => i != slot } } },
    putEntry q x.layer x.page (swappedEntry slot false)]

/-- The page that Flood has brought back from a slot it still holds. -/
def BackPage.is (k : BackPage) (x : PageAt) : Bool := k.second == x.second && k.layer == x.layer && k.page == x.page

/-- The slots of the pages that Ebb copies: the one a page came from where Flood still holds it, else the free ones in order.  A page for
which the swap area has no slot stays where it is (log 42). -/
def pairSlots (back : List BackPage) : List PageAt → List Nat → List (PageAt × Nat)
  | [], _ => []
  | x :: xs, free =>
    match back.find? (fun k => k.is x), free with
    | some k, _ => (x, k.slot) :: pairSlots back xs free
    | none, s :: rest => (x, s) :: pairSlots back xs rest
    | none, [] => pairSlots back xs []

/-- EBB (R181): every unpinned page goes to its swap slot, ascending; the frames wait for the invalidate (log 42). -/
def ebbAct (q : Nat) : Act :=
  .look fun b => Act.when (b.ctl.awake && (b.ctl.seqFw q).pre == .ebbing && !(b.ctl.fw.invals.any fun i => match i.what with | .ebb s _ => s == q | _ => false)) <|
    let xs := pairSlots (b.ctl.seqFw q).back (b.unpinned q) (b.ctl.slotsFree (b.unpinned q).length)
    let (lo, hi) := b.seqRange q
    Act.all [Act.each xs (fun (x, slot) => ebbPage q x slot), .upd fun c => c.setSeqFw q fun s => { s with back := [] },
      invalidate lo hi (.ebb q (xs.filterMap fun (x, _) => b.frameOf x.entry))]

/-- PREEMPT_EFFECT. -/
def execPreemptEffect (seq : Fin 4096) (cause : Fin 3) (s : State) : Host.Outcome State Fault Refusal := s.perform (preemptEffectAct seq.val cause.val)
/-- EBB. -/
def execEbb (seq : Fin 4096) (s : State) : Host.Outcome State Fault Refusal := s.perform (ebbAct seq.val)

end Sys2Proof.Machine
end

