-- ==== Sys2Proof/Machine/Parts.lean ====
section
/-! DEFINITION. What each rank does for a command that the leader fans out, and how the leader gathers the parts: opening, closing
and editing sequences, and leaving a job (R155, R158, R166 to R171, R235, R366). -/

namespace Sys2Proof.Machine

/-! ## Tables of a sequence's range (R235, R236) -/

/-- The blocks of 2^sh bytes that a range meets. -/
def unitsOf (lo hi sh : Nat) : List Nat := if lo < hi then upto (lo / 2 ^ sh) ((hi - 1) / 2 ^ sh + 1) else []

/-- The table at the end of a path of levels has a table below an address, built from the pool where it has none. -/
def ensureTable (second : Bool) (va : Nat) (path : List Nat) (sh : Nat) : Act :=
  .look fun b => Act.opt (leafTable b.mem va path (b.root second)) fun t =>
    Act.when (!bit (b.mem.nat (entryAddr t va sh) 8) 0) <| Act.opt (b.pickTableIn second) fun f =>
      Act.all [useTable second f, fillTable f 0, writeEntry (entryAddr t va sh) (mkPointer (f * 8192) b.slot (tierOfFrame f))]

/-- Level-2 and level-3 tables that a range still lacks. -/
def Block.missingTables (b : Block) (lo hi : Nat) : Nat :=
  countIf (fun u => (leafTable b.mem (u * 2 ^ 43) [43] (b.root false)).isNone) (unitsOf lo hi 43) +
  countIf (fun u => (leafTable b.mem (u * 2 ^ 33) [43, 33] (b.root false)).isNone) (unitsOf lo hi 33)

/-- The tables of a sequence's range: every 8 MiB span points to the shared table of absent entries. -/
def buildTables (second : Bool) (lo hi : Nat) : Act :=
  Act.all [
    Act.each (unitsOf lo hi 43) fun u => ensureTable second (u * 2 ^ 43) [] 43,
    Act.each (unitsOf lo hi 33) fun u => ensureTable second (u * 2 ^ 33) [43] 33,
    Act.each (unitsOf lo hi 23) fun u => .look fun b =>
      Act.opt (b.ctl.absentTable second) fun f => Act.opt (leafTable b.mem (u * 2 ^ 23) [43, 33] (b.root second)) fun t =>
        writeEntry (entryAddr t (u * 2 ^ 23) 23) (mkPointer (f * 8192) b.slot (tierOfFrame f))]

/-- The table entry of a sequence, or the one that a SEQ_OPEN in progress will give it (R157). -/
def Block.seqOrOpening (b : Block) (q : Nat) : SeqEnt := (b.ctl.seqFw q).opening.getD (b.seq q)

/-- Sequences that a SEQ_OPEN in progress opens. -/
def Ctl.openings (c : Ctl) : List Nat := (c.fw.seqs.filter fun e => e.2.opening.isSome).map Prod.fst

/-- The virtual range of a sequence, or of one that a SEQ_OPEN in progress opens. -/
def Block.rangeOf (b : Block) (q : Nat) : Nat × Nat :=
  let e := b.seqOrOpening q
  (e.vbase, e.vbase + b.ctl.plan.layers * e.capPages * 8192)

/-- The tables of a range are taken down: the spans' entries, the level-3 and level-2 tables that no other sequence or buffer needs. -/
def dropTables (second : Bool) (q lo hi : Nat) : Act :=
  .look fun b =>
    let others := ((b.openSeqs ++ b.ctl.openings).filter fun p => p != q).map b.rangeOf
    let needed := fun (u sh : Nat) => others.any (fun r => decide (r.1 < (u + 1) * 2 ^ sh ∧ u * 2 ^ sh < r.2)) ||
      b.ctl.plan.bufs.any fun x => decide (bufVaddr x.entry < (u + 1) * 2 ^ sh ∧ u * 2 ^ sh < bufVaddr x.entry + bufBytes x.entry)
    let drop := fun (path : List Nat) (sh u : Nat) => Act.look fun b => Act.opt (leafTable b.mem (u * 2 ^ sh) path (b.root second)) fun t =>
      let e := b.mem.nat (entryAddr t (u * 2 ^ sh) sh) 8
      Act.when (bit e 0) ((freeTables second [entFrame e / 8192]).seq (writeEntry (entryAddr t (u * 2 ^ sh) sh) 0))
    Act.all [
      Act.each (unitsOf lo hi 23) fun u => .look fun b => Act.opt (leafTable b.mem (u * 2 ^ 23) [43, 33] (b.root second)) fun t =>
        writeEntry (entryAddr t (u * 2 ^ 23) 23) 0,
      Act.each ((unitsOf lo hi 33).filter fun u => !needed u 33) (drop [43] 33),
      Act.each ((unitsOf lo hi 43).filter fun u => !needed u 43) (drop [] 43), dropTlb lo hi]

/-- Lowest free range of the sequence region, on 8 MiB (R155). -/
def Block.freeRange (b : Block) (size : Nat) : Option Nat :=
  let (s, n) := b.seqRegion
  let used := (b.openSeqs ++ b.ctl.openings).map b.rangeOf
  let starts := s :: used.map fun r => roundUp r.2 (2 ^ 23)
  (starts.filter fun c => decide (s ≤ c ∧ c + size ≤ s + n) && used.all fun r => decide (r.2 ≤ c ∨ c + size ≤ r.1)).foldl
    (fun best c => match best with | none => some c | some d => some (min c d)) none

/-! ## Opening -/

/-- CAP_PAGES of a requested capacity (R155). -/
def capPagesOf (tokens : Nat) : Nat := roundUp tokens 16384 / 16

/-- Bytes of the range of a SEQ_OPEN. -/
def Plan.openSpan (p : Plan) (c : Bytes) : Nat := p.layers * capPagesOf (u32 c 36) * 8192

/-- The table pools cover a new range: its missing level-2 and level-3 tables, and a level-4 table for each 8 MiB (R235). -/
def Block.tablesFit (b : Block) (lo size : Nat) : Bool :=
  decide (b.missingTables lo (lo + size) + (unitsOf lo (lo + size) 23).length + b.ctl.fw.alloc.reserved ≤ b.ctl.freeTables)

/-- A rank's part of SEQ_OPEN: the tables of the range; the sequence is OPEN once every rank has done its part (R157). -/
def openPart (q : Nat) (c : Bytes) (vbase openTime : Nat) : Act :=
  .look fun b =>
    let size := b.ctl.plan.openSpan c
    let spans := (unitsOf vbase (vbase + size) 23).length
    let cap := capPagesOf (u32 c 36)
    let rules := (List.range (u8 c 35)).map fun i =>
      let (l, n, t) := placeEntry c i
      ({ layer := l, layers := n, page := 0, pages := cap, tier := some t, pin := false } : PageRule)
    let ent : SeqEnt := { length := 0, committed := 0, vbase := vbase, capPages := cap, state := seqOpenSt, priority := u8 c 34,
                          openTime := openTime, seed := u64 c 40, swapped := 0, pending := noToken }
    Act.all [
      Act.each b.ctl.contexts fun s => buildTables s vbase (vbase + size),
      .upd fun c =>
        let d := c.setSeqFw q fun _ => { SeqFw.closed with rules := rules, reserve := spans, opening := some ent }
        { d with fw := { d.fw with alloc := { d.fw.alloc with reserved := d.fw.alloc.reserved + spans } } }]

/-- SEQ_OPEN has completed OK: the sequence is OPEN (R157). -/
def openDone (q : Nat) : Act :=
  .look fun b => Act.opt (b.ctl.seqFw q).opening fun e =>
    (Act.upd fun c => c.setSeqFw q fun s => { s with opening := none }).seq (setSeq q fun _ => e)

/-- A SEQ_OPEN that has failed on some rank is undone on this one: the tables of its range are gone. -/
def openUndo (q : Nat) : Act :=
  .look fun b => Act.when (b.ctl.seqFw q).opening.isSome <|
    let s := b.ctl.seqFw q
    let (lo, hi) := b.rangeOf q
    Act.all [Act.each b.ctl.contexts (fun k => dropTables k q lo hi), freeTables false s.tables, freeTables true s.tables2,
      .upd fun c =>
        let d := c.setSeqFw q fun _ => SeqFw.closed
        { d with fw := { d.fw with alloc := { d.fw.alloc with reserved := d.fw.alloc.reserved - s.reserve } } }]

/-! ## Moves (R169) -/

/-- An entry with READONLY set or clear. -/
def withReadonly (e : Nat) (v : Bool) : Nat := if entReadonly e == v then e else if v then e + 16 else e - 16

/-- The sequences whose entry for a page names a frame. -/
def Block.sharers (b : Block) (layer page f : Nat) : List Nat :=
  b.openSeqs.filter fun q => decide (page < (b.seq q).capPages) && b.frameOf (b.pageEntry false ((b.seq q).pageAddr layer page)) == some f

/-- The page of each of several sequences as a range of addresses. -/
def Block.pageRanges (b : Block) (layer page : Nat) (qs : List Nat) : List (Nat × Nat) :=
  qs.map fun q => ((b.seq q).pageAddr layer page, (b.seq q).pageAddr layer page + 8192)

/-- The frame that the entries name while a move stands where it does. -/
def PageMv.frame (m : PageMv) : Nat := if m.step < 3 then m.old else m.new

/-- A page move begins (R167, R169 step 1): a frame of the new tier is taken, every sharer's entry is READONLY, an invalidate runs; where
the page's frame is moving already, this move follows that one. -/
def startMove (q key tier layer page : Nat) : Act :=
  .look fun b =>
    let va := (b.seq q).pageAddr layer page
    let e := b.pageEntry false va
    Act.when ((b.seq q).state != seqClosed) <| Act.opt (b.frameOf e) fun old =>
      match b.ctl.fw.moves.find? fun m => m.frame == old with
      | some m => .upd fun c => { c with fw := { c.fw with
          moves := c.fw.moves.map fun k => if k.id = m.id then { k with next := k.next ++ [(q, tier, key)] } else k } }
      | none => Act.when (entTier e != tier) <| Act.opt (freeFrame (b.ctl.plan.poolRanges 2 tier) b.ctl.fw.alloc.used) fun f =>
        let id := b.ctl.fw.nextId
        let qs := b.sharers layer page old
        let m : PageMv := { id := id, seq := q, layer := layer, page := page, old := old, new := f, tier := tier, step := 1, key := key, next := [] }
        Act.all [addRef f 1, poolLow tier,
          Act.each qs fun p => putEntry p layer page (withReadonly (b.pageEntry false ((b.seq p).pageAddr layer page)) true),
          .upd fun c => { c with fw := { c.fw with nextId := id + 1, moves := c.fw.moves ++ [m] } },
          invalidateAll va (va + 8192) (b.pageRanges layer page qs) (.move id)]

/-- The moves that waited for a move of the same page begin, in order. -/
def nextMoves (m : PageMv) : Act := Act.each m.next fun (q, tier, key) => startMove q key tier m.layer m.page

/-! ## Closing (R158) -/

/-- Page moves of a sequence that have not rewritten the entries are given up: the new frame is free again. -/
def cancelMoves (q : Nat) : Act :=
  .look fun b =>
    let ms := b.ctl.fw.moves.filter fun m => m.seq == q && decide (m.step < 3)
    Act.all [
      .upd fun c => { c with fw := { c.fw with
        moves := c.fw.moves.filter fun m => !ms.contains m,
        invals := c.fw.invals.filter fun i => match i.what with | .move id => !(ms.any fun m => m.id == id) | _ => true } },
      Act.each ms fun m => dropFrame m.new,
      Act.each ms fun m => nextMoves { m with next := m.next.filter fun n => n.1 != q }]

/-- A rank begins to close a sequence: nothing else of it goes on here, and the invalidate of its range starts. -/
def closeLocal (q key : Nat) : Act :=
  (cancelMoves q).seq <| .look fun b =>
    let frames := b.ctl.fw.invals.flatMap fun i => match i.what with | .ebb s fs => if s = q then fs else [] | _ => []
    let (lo, hi) := b.seqRange q
    Act.all [
      .upd fun c =>
        let d := c.setSeqFw q fun s => { s with pre := .none, closing := true, resume := none, deferred := [] }
        { d with fw := { d.fw with
          invals := d.fw.invals.filter fun i => match i.what with | .ebb s _ => s != q | .flood s => s != q | .close s _ _ => s != q | _ => true,
          tasks := d.fw.tasks.filter fun t => t.seq != q } },
      invalidate lo hi (.close q key frames)]

/-- Swap slots are free again. -/
def freeSwap (slots : List Nat) : Act :=
  .upd fun c => { c with fw := { c.fw with alloc := { c.fw.alloc with swap := c.fw.alloc.swap.filter fun i => !slots.contains i } } }

/-- A rank ends the close: frames, swap slots, tables, mirror frames and the entry are gone. -/
def closeEnd (q : Nat) (frames : List Nat) : Act :=
  .look fun b =>
    let s := b.ctl.seqFw q
    let (lo, hi) := b.seqRange q
    Act.all [
      Act.each frames dropFrame,
      Act.each ((b.framed q).filterMap fun x => b.frameOf x.entry) dropFrame,
      freeSwap ((b.swappedPages q).map (fun x => entFrame x.entry / 8192) ++ s.back.map (·.slot)),
      Act.each b.ctl.contexts fun k => dropTables k q lo hi,
      freeTables false s.tables, freeTables true s.tables2,
      Act.each b.ctl.contexts fun k => writeVa { fwSpace with second := k } (b.ctl.plan.seqEntry q) (zeroBytes 64),
      .upd fun c =>
        let d := c.setSeqFw q fun _ => SeqFw.closed
        { d with fw := { d.fw with alloc := { d.fw.alloc with reserved := d.fw.alloc.reserved - s.reserve } } }]

/-! ## Editing (R166 to R170, Table 05-7) -/

/-- An edit entry. -/
structure Edit where
  kind   : Nat
  tier   : Nat
  layer  : Nat
  layers : Nat
  page   : Nat
  pages  : Nat
  src    : Nat
  deriving DecidableEq, Repr

/-- The bytes of edit entry i of a list. -/
def editBytes (l : Bytes) (i : Nat) : Bytes := slice l (8 + 32 * i) 32

/-- An entry's fields; PAGE_COUNT 0 reaches to the capacity. -/
def editOf (cap : Nat) (e : Bytes) : Edit :=
  { kind := u8 e 0, tier := u8 e 1, layer := u16 e 4, layers := u16 e 6, page := u32 e 8, pages := if u32 e 12 = 0 then cap - u32 e 8 else u32 e 12,
    src := u16 e 16 }

/-- Entries that a list counts. -/
def editCount (l : Bytes) : Nat := u64 l 0

/-- The entries of a list on a sequence. -/
def Block.edits (b : Block) (q : Nat) (l : Bytes) : List Edit := (List.range (editCount l)).map fun i => editOf (b.seq q).capPages (editBytes l i)

/-- A list holds a SHARE entry. -/
def hasShare (l : Bytes) : Bool := (List.range (min (editCount l) 256)).any fun i => u8 (editBytes l i) 0 == 4

/-- The pages of an edit that this module holds; those of a rank it has taken over only where that rank had not done its part (R421). -/
def Block.editPages (b : Block) (q key : Nat) (e : Edit) : List PageAt :=
  let again := b.ctl.pair.journal.any fun j => j.1 == key && b.ctl.pair.rank2 == some j.2
  (b.allPages q).filter fun x => !(x.second && again && e.kind == 4) && decide (e.layer ≤ x.layer ∧ x.layer < e.layer + e.layers ∧ e.page ≤ x.page ∧ x.page < e.page + e.pages)

/-- The conditions of a SHARE (R168), on the pages that this module holds. -/
def Block.shareOk (b : Block) (q key : Nat) (e : Edit) : Bool :=
  let t := b.seq q
  let s := b.seq e.src
  t.length == 16 * e.page && e.src != q && decide (e.src < 4096) && (s.state == seqOpenSt || s.state == seqActive) && decide (16 * e.page < s.length) &&
  decide (e.page + e.pages ≤ s.capPages) &&
  (b.editPages q key e).all fun x => x.entry == absentEntry && (b.frameOf (b.pageEntry x.second (s.pageAddr x.layer x.page))).isSome

/-- The list is well formed and every condition of it holds (Table 05-7, R168) (log 29). -/
def Block.editsOk (b : Block) (q key : Nat) (l : Bytes) : Bool :=
  let n := editCount l
  decide (1 ≤ n ∧ n ≤ 256) && l.length == 8 + 32 * n &&
  (List.range n).all fun i =>
    let r := editBytes l i
    let e := editOf (b.seq q).capPages r
    decide (1 ≤ e.kind ∧ e.kind ≤ 4 ∧ e.tier ≤ (if e.kind = 1 then 1 else 0)) && zeros r 2 2 && zeros r 18 14 && (e.kind == 4 || e.src == 0) &&
    decide (1 ≤ e.layers ∧ e.layer + e.layers ≤ b.ctl.plan.layers ∧ e.page < (b.seq q).capPages ∧ e.page + e.pages ≤ (b.seq q).capPages) &&
    (e.kind != 4 || (u32 r 12 != 0 && b.shareOk q key e))

/-- An entry with PINNED set or clear. -/
def withPinned (e : Nat) (v : Bool) : Nat := if entPinned e == v then e else if v then e + 32 else e - 32

/-- A page of the source becomes a page of the target too (R167 SHARE); the partner gets the target's copy of its records. -/
def sharePage (q : Nat) (e : Edit) (x : PageAt) : Act :=
  .look fun b =>
    let s := b.seq e.src
    let r := b.pageEntry x.second (s.pageAddr x.layer x.page)
    Act.opt (b.frameOf r) fun f => Act.all [
      addRef f 1, putEntry e.src x.layer x.page (withReadonly r true),
      putEntry q x.layer x.page (withPinned (withReadonly r true) ((b.ctl.seqFw q).pinOf x.layer x.page)),
      Act.when (!x.second) (reserveMirror q x.layer x.page), mirrorRecord x.second q x.layer x.page 0 (b.read (f * 8192) 8192)]

/-- One edit is applied (R167). -/
def applyEdit (q key : Nat) (e : Edit) : Act :=
  .look fun b =>
    let rule := fun (t : Option Nat) (p : Bool) => Act.upd fun c => c.setSeqFw q fun s =>
      { s with rules := s.rules ++ [{ layer := e.layer, layers := e.layers, page := e.page, pages := e.pages, tier := t, pin := p }] }
    let framed := (b.editPages q key e).filter fun x => (b.frameOf x.entry).isSome
    match e.kind with
    | 1 => (rule (some e.tier) false).seq (Act.each framed fun x => startMove q key e.tier x.layer x.page)
    | 2 => (rule none true).seq (Act.each framed fun x => putEntry q x.layer x.page (withPinned x.entry true))
    | 3 => (rule none false).seq (Act.each framed fun x => putEntry q x.layer x.page (withPinned x.entry false))
    | _ =>
      Act.all [Act.each (b.editPages q key e) (sharePage q e),
        setSeq q fun t => { t with length := max t.length (min (b.seq e.src).length (16 * (e.page + e.pages))) },
        invalidate (b.seqRange e.src).1 (b.seqRange e.src).2 (.edit key)]

/-! ## The parts -/

/-- A key that no command has. -/
def noKey : Nat := 2 ^ 40

/-- The key of a rank's answer to the check of an edit list, beyond that of its command. -/
def checkKey : Nat := 2 ^ 41

/-- The worse of two statuses: the lowest code of 0x10 and above (R362). -/
def worse (a c : Nat) : Nat := if 0x10 ≤ a ∧ 0x10 ≤ c then min a c else max a c

/-- The last steps of Flood, once the pages of every rank are back (R182 steps 4 to 6, R185): the slots are free, the sequence is ACTIVE
when a command is held (log 42), SEQ_RESUMED is raised for each rank here, and the held command goes on. -/
def floodDone (q : Nat) : Act :=
  .look fun b =>
    let back := (b.ctl.seqFw q).back
    let held := b.ctl.hif.cmds.any fun x => decide (cOp x.bytes = 0x11 ∨ cOp x.bytes = 0x12) && cSeq x.bytes == q && x.phase == .held
    Act.all [freeSwap (back.map (·.slot)), setSeq q fun s => { s with swapped := 0, state := if held then seqActive else seqOpenSt },
      Act.each b.ctl.contexts fun s => raise 0x0401 (src 10 q) ((countIf (fun k : BackPage => k.second == s) back) % 2 ^ 32 * 65536 + q % 4096),
      .upd fun c =>
        let d := c.setSeqFw q fun s => { s with pre := .none, resume := none, back := [] }
        let go : Cmd → Cmd := fun x =>
          if decide (cOp x.bytes = 0x11 ∨ cOp x.bytes = 0x12) && cSeq x.bytes == q && x.phase == .held then { x with phase := .running } else x
        { d with hif := { d.hif with cmds := d.hif.cmds.map go } }]

/-- The leader's command whose parts are all done completes. -/
def endParts (x : Cmd) (st : Nat) : Act :=
  let q := cSeq x.bytes
  .look fun b =>
    match cOp x.bytes with
    | 0x10 =>
      if st < 0x10 then Act.all [openDone q, announce q,
        .look fun t => finishCode x.id st (leBytes (t.seq q).vbase 8 ++ leBytes (t.seq q).capPages 4)]
      else Act.all [
        toOthers fun _ => .fanout { cmd := patch x.bytes 0 [0x15], key := noKey, vbase := 0, openTime := 0, list := [] },
        openUndo q, finishCode x.id st []]
    | 0x14 =>
      let pages := leBytes (b.ctl.seqFw q).back.length 4
      if st < 0x10 then Act.all [floodDone q, announce q, finishCode x.id st pages, choosePass]
      else Act.all [toOthers fun _ => .preempt q 2, Act.when ((b.ctl.seqFw q).pre == .flooded) (undoFlood q), finishCode x.id st pages]
    | 0x15 => (Act.upd fun c => c.setSeqFw q fun s => { s with closing := false }).seq (finishCode x.id st [])
    | 0x16 => finishCode x.id st (if st < 0x10 then leBytes (ceilDiv (u32 x.bytes 48 - 8) 32) 4 else [])
    | _ => finishCode x.id st []

/-- The leader's number for a command, the same on both members of its pair: from its ring and command number, 0 standing for START_JOB. -/
def Cmd.key (x : Cmd) : Nat := x.index + 1 + 2 ^ 33 * (if x.ring = partnerRing then 0 else x.ring)

/-- The taken command of a key. -/
def Ctl.cmdOfKey (c : Ctl) (key : Nat) : Option Cmd := c.hif.cmds.find? fun x => x.key == key

/-- A task begins. -/
def startTask (key op q : Nat) : Act :=
  .upd fun c =>
    let t : Task := { key := key, opcode := op, seq := q, status := 0 }
    { c with fw := { c.fw with tasks := c.fw.tasks ++ [t] } }

/-- A list whose conditions hold is applied to this rank's pages, in list order, and its invalidate begins (R166, R167, R170). -/
def applyList (q key : Nat) (l : Bytes) : Act :=
  .look fun b =>
    let (lo, hi) := b.seqRange q
    Act.all [startTask key 0x16 q, Act.each (b.edits q l) (applyEdit q key), invalidate lo hi (.edit key)]

/-- The edit list of a SEQ_EDIT_PAGES. -/
def Block.editList (b : Block) (x : Cmd) : Bytes := b.host.read (u64 x.bytes 40) (u32 x.bytes 48)

/-- Every rank has checked a list with SHARE entries (R168, R170): it is applied on every rank or on none. -/
def checkDone (x : Cmd) (st : Nat) : Act :=
  let q := cSeq x.bytes
  .look fun b =>
    let l := b.editList x
    let ok := decide (st < 0x10) && ((b.seq q).state == seqOpenSt || (b.seq q).state == seqActive) && b.editsOk q x.key l
    Act.all [
      updCmd x.id fun y => { y with steps := 0, ranks := List.range b.ctl.jobP, status := 0 },
      if ok then (toOthers fun _ => .fanout { cmd := x.bytes, key := x.key, vbase := 2, openTime := 0, list := l }).seq (applyList q x.key l)
      else finishCode x.id (worse Status.eFormat.code st) [],
      preemptDue q, choosePass]

/-- The leader hears that a rank has done its part of a command (R166), or has checked an edit list; key 0 stands for START_JOB. -/
def rankPart (r key status : Nat) : Act :=
  .look fun b =>
    if key = 0 then .upd fun c => if c.job.started.contains r then c else { c with job := { c.job with started := c.job.started ++ [r] } }
    else
      let check := decide (checkKey ≤ key)
      Act.opt (b.ctl.cmdOfKey (if check then key - checkKey else key)) fun x =>
      Act.when (x.phase == .running && x.ranks.contains r && check == (cOp x.bytes == 0x16 && x.steps == checkStep)) <|
        let left := x.ranks.filter fun k => k != r
        let st := worse x.status status
        (updCmd x.id fun y => { y with ranks := left, status := st }).seq (Act.when left.isEmpty (if check then checkDone x st else endParts x st))

/-- The answer of each rank here goes to the leader. -/
def tellLeader (key status : Nat) : Act :=
  .look fun b => Act.each (b.ctl.rank :: b.ctl.pair.rank2.toList) fun r =>
    if b.ctl.leader then rankPart r key status else send (.rank 0) (.rankFinished r key status)

/-- This module's part of a command is done, for every rank it runs (R166, R421). -/
def partDone (key status : Nat) : Act :=
  ((journal key).seq (.upd fun c => { c with fw := { c.fw with journal := (c.fw.journal.filter fun j => j.1 != key) ++ [(key, status)] } })).seq
    (tellLeader key status)

/-- The task of a key, when nothing of it is left: its part is done. -/
def taskCheck (key : Nat) : Act :=
  .look fun b => Act.opt (b.ctl.fw.tasks.find? fun t => t.key == key) fun t =>
    let busy := (b.ctl.fw.invals.any fun i => i.what == .edit key) || (b.ctl.fw.moves.any fun m => m.key == key || m.next.any fun n => n.2.2 == key) ||
      (t.opcode == 0x13 && (b.ctl.seqFw t.seq).pre != .swapped)
    Act.when (!busy) <|
      (Act.upd fun c => { c with fw := { c.fw with tasks := c.fw.tasks.filter fun u => u.key != key } }).seq (partDone key t.status)

/-- A rank's part of SEQ_EDIT_PAGES without SHARE, or of a job on one module: refused whole with E_FORMAT, or applied (R166 to R170)
(log 29). -/
def editPart (q key : Nat) (l : Bytes) : Act :=
  .look fun b => if b.editsOk q key l then applyList q key l else partDone key Status.eFormat.code

/-- A rank's check of a list with SHARE entries; nothing is applied yet (R168, R170; log 29). -/
def checkPart (q key : Nat) (l : Bytes) : Act := .look fun b => tellLeader (key + checkKey) (if b.editsOk q key l then 0 else Status.eFormat.code)

/-- The second rank context closes: its tables and translations are gone, its mirror frames hold no page of this module's any more, and
what its pages have of the pools is free. -/
def closeSecond : Act :=
  .look fun b => (Act.each b.openSeqs fun q => Act.each ((b.heldPages q true).filterMap fun x => b.frameOf x.entry) fun f =>
      Act.when (!b.ctl.pair.frames.any fun m => m.1 == f) (dropFrame f)).seq <|
    (freeSwap (b.openSeqs.flatMap fun q => ((b.heldPages q true).filter fun x => isSwapped x.entry).map fun x => entFrame x.entry / 8192)).seq <|
    .upd fun c =>
    let drop : Cove → Cove := fun v => { v with queue2 := [] }
    let mine : Nat → Bool := fun f => c.pair.frames.any fun m => m.1 == f
    { c with
      pair := { c.pair with rank2 := none, tables2 := [], absent2 := none },
      engine := { c.engine with coves := Tab.mapVals Cove.empty drop c.engine.coves }.dropWalks fun second _ _ => second,
      fw := { c.fw with alloc := { c.fw.alloc with refs := c.fw.alloc.refs.filter fun e => !mine e.1, owner := c.fw.alloc.owner.filter fun e => !mine e.1 } } }

/-- The rank leaves the job when it is stopping, no sequence is left and no plan channel has a program (R273, R366). -/
def stopCheck : Act :=
  .look fun b => Act.opt b.ctl.job.stopping fun (key, _) => Act.when (b.openSeqs.isEmpty && b.ctl.chansQuiet) <|
    (Act.upd fun c => { c with
      job := { Job.blank with maps := [] }, glb := { c.glb with state := if c.plan.loaded then .loaded else c.glb.state },
      pair := { c.pair with frames := [], journal := [], progress := [], handover := false },
      fw := { c.fw with seqs := [], alloc := { c.fw.alloc with swap := [] } } }).seq ((partDone key 0).seq (closeSecond.seq serveRemoval))

/-! ## Channel commands

The end of a program may be what a STOP_JOB waits for (R273). -/

/-- What a channel does, and then the rank's part of STOP_JOB where it was the last. -/
def State.channel (s : State) (a : Act) : Host.Outcome State Fault Refusal := s.perform (a.seq stopCheck)

/-- MOVE. -/
def execMove (engine : Fin 40) (run : TileRun) (s : State) : Host.Outcome State Fault Refusal := s.channel (moveAct engine.val run.ch.val run.tiles)
/-- MCAST. -/
def execMcast (engine : Fin 40) (run : TileRun) (s : State) : Host.Outcome State Fault Refusal := s.channel (mcastAct engine.val run.ch.val run.tiles)
/-- WAIT of a channel. -/
def execLsWait (engine : Fin 40) (ch : Fin 32) (s : State) : Host.Outcome State Fault Refusal := s.channel (lsWaitAct engine.val ch.val)
/-- SIGNAL of a channel. -/
def execLsSignal (engine : Fin 40) (ch : Fin 32) (s : State) : Host.Outcome State Fault Refusal := s.channel (lsSignalAct engine.val ch.val)
/-- STOPPT. -/
def execStoppt (engine : Fin 40) (ch : Fin 32) (s : State) : Host.Outcome State Fault Refusal := s.channel (stopptAct engine.val ch.val)
/-- END. -/
def execEndProgram (engine : Fin 40) (ch : Fin 32) (s : State) : Host.Outcome State Fault Refusal := s.channel (endProgramAct engine.val ch.val)
/-- CHANNEL_STOP. -/
def execChannelStop (engine : Fin 40) (ch : Fin 32) (s : State) : Host.Outcome State Fault Refusal := s.channel (channelStopAct engine.val ch.val)

end Sys2Proof.Machine
end

