-- ==== Sys2Proof/Machine/Pages.lean ====
section
/-! DEFINITION. Firmware's work on pages: faults, Flood, moves, invalidates, entries of board peers and buffer maps; the accesses of
board peers and of the host through BAR2; signals and waits (chapter 5, R160, R163, R169, R175 to R186, R216, R217, R231, R238,
R281, R282). -/

namespace Sys2Proof.Machine

/-! ## Faults (R163, R177) -/

/-- The agent still halts on the fault. -/
def Ctl.halted (c : Ctl) (f : XFault) : Bool :=
  match f.who with
  | .context v n => match (c.cove v).ctx n with | some x => x.fault == some f.id | none => false
  | .thread v t => ((c.cove v).thread t).state == .faulted
  | .channel e ch => (c.chan e ch).state == .haltedFault && (c.chan e ch).fault == some f.id
  | .remote id => c.fw.remote.any fun r => r.1 == id

/-- The fault is out of firmware's hands. -/
def dropFault (id : Nat) : Act := .upd fun c => { c with fw := { c.fw with faults := c.fw.faults.filter fun f => f.id != id } }

/-! ### Accesses of other ranks -/

/-- The records of this rank's pages that a physical range touches: the holder mirrors them and allocates ahead (R93, R164, R165; log 26). -/
def storedRecords (addr len : Nat) : Act :=
  Act.each (unitsOf addr (addr + len) 9) fun u => .look fun b =>
    Act.when (Tab.get 0 b.ctl.fw.alloc.owner (u / 16) != 0) <|
      let k := Tab.get 0 b.ctl.fw.alloc.owner (u / 16) - 1
      let q := k / 2 ^ 44
      let layer := k / 2 ^ 32 % 4096
      let page := k % 2 ^ 32
      let second := b.ctl.pair.rank2.isSome && b.ctl.pair.frames.any fun m => m.1 == u / 16
      (mirrorRecord second q layer page (u % 16) (b.read (u * 512) 512)).seq
        (Act.when (u % 16 == 0) (allocAhead second q layer page))

/-- The records that a rank's store to virtual addresses of this one touches. -/
def storedVa (sp : Space) (va len : Nat) : Act :=
  Act.each (parts va len) fun (a, n) => .look fun b =>
    match b.xlate sp a true with
    | .ok slot pa => Act.when (slot == b.slot) (storedRecords pa n)
    | _ => .done

/-- A rank's KIND 1 write or read is performed through this module's own translation; where that does not translate the request waits for
firmware like an access of an agent here, and an access error goes back as no answer (R247, R265, R269). -/
def rankAccess (r : RemoteReq) : Act :=
  let go := fun (toRank source va len : Nat) (write : Bool) (act : Space → Act) => Act.look fun b => Act.opt (b.ctl.servesRank toRank) fun s =>
    let sp : Space := { second := s, cove := none, tlb := [] }
    match b.firstBad sp [{ va := va, len := len, write := write }] with
    | none => act sp
    | some (_, _, .accessError) => send (.rank source) .noAnswer
    | some (a, _, .deviceFault) => moduleFault a
    | some (a, w, _) => raiseFault (.remote b.ctl.fw.nextId) a w s fun id => .upd fun c => { c with fw := { c.fw with remote := c.fw.remote ++ [(id, r)] } }
  match r with
  | .rankStore toRank source va bytes => go toRank source va bytes.length true fun sp => (writeVa sp va bytes).seq (storedVa sp va bytes.length)
  | .rankLoad toRank source va len => go toRank source va len false fun sp => .look fun b => send (.rank source) (.response (b.readVa sp va len))
  | _ => .done

/-- The request that waits under a number is taken out. -/
def takeRemote (id : Nat) (k : RemoteReq → Act) : Act :=
  .look fun b => Act.opt (b.ctl.fw.remote.find? fun r => r.1 == id) fun r =>
    (Act.upd fun c => { c with fw := { c.fw with remote := c.fw.remote.filter fun x => x.1 != id } }).seq (k r.2)

/-- A request that cannot be done is answered as an access to memory that is not there. -/
def denyRemote (id : Nat) : Act :=
  takeRemote id fun r => match r with | .rankStore _ source _ _ | .rankLoad _ source _ _ => send (.rank source) .noAnswer | _ => .done

/-! ### How a halted agent goes on -/

/-- The agent goes on at its saved position. -/
def resumeAgent (f : XFault) : Act :=
  (dropFault f.id).seq <|
    match f.who with
    | .context v n => updCtx v n fun x => { x with fault := none }
    | .thread v t => updThread v t fun u => { u with state := .running }
    | .channel e ch => updChan e ch fun k => { k with state := .run, fault := none }
    | .remote id => takeRemote id rankAccess

/-- How the agent translates. -/
def Ctl.faultSpace (c : Ctl) (f : XFault) : Space :=
  match f.who with
  | .context v _ | .thread v _ => c.space v f.second
  | .channel _ _ | .remote _ => { second := f.second, cove := none, tlb := [] }

/-- The agent's access turns out to be an access error (R240). -/
def agentError (f : XFault) : Act :=
  (dropFault f.id).seq <| .look fun b =>
    match f.who with
    | .context v n => accessError v n f.vaddr
    | .thread v t => threadTrap v t ((b.ctl.cove v).thread t) (if f.write then 7 else 5)
    | .channel e ch => (haltErr e ch f.vaddr 2).seq stopCheck
    | .remote id => denyRemote id

/-- No sequence can be pre-empted, or no mirror frame is free: the agent ends as poisoned and LENGTH is COMMITTED (R177). -/
def agentStarved (f : XFault) (q : Nat) : Act :=
  let poisoned := (flagPass fun p => { p with poisoned := true, capacity := true }).seq (setSeq q fun s => { s with length := s.committed })
  (dropFault f.id).seq <|
    match f.who with
    | .context v n => poisoned.seq (endPoisoned v n q 0xFC 0)
    | .thread v t => poisoned.seq (.look fun b => endPoisoned v ((b.ctl.cove v).thread t).ctx q 0xFC 0)
    | .channel e ch => poisoned.seq ((haltErr e ch f.vaddr 3).seq stopCheck)
    | .remote id => denyRemote id

/-- The request to the leader is for a Flood. -/
def forFlood (w : VictimWhy) : Bool := w == .flood || w == .noFlood

/-- The leader chooses a victim for a rank (R175, R183): a Flood takes only one of lower PRIORITY than its own sequence. -/
def Block.victimFor (b : Block) (q : Nat) (why : VictimWhy) : Option Nat := b.victim q (if forFlood why then some (b.seq q).priority else none)

/-- Both tiers are empty (R175, R176): wait for a pre-emption in progress; the leader begins one or gives up, another rank asks the leader,
and gives up once it has `answered` that no sequence qualifies. -/
def needFrames (q : Nat) (why : VictimWhy) (answered : Bool) (fail : Act) : Act :=
  .look fun b =>
    if b.ctl.preempting then .done
    else if b.ctl.leader then
      match b.victimFor q why with
      | none => fail
      | some v => preempt v (if forFlood why then 2 else 0)
    else if answered then fail
    else send (.rank 0) (.victim b.ctl.rank q why)

/-- The frame, old or new, belongs to a page move in progress. -/
def Ctl.moving (c : Ctl) (f : Nat) : Bool := c.fw.moves.any fun m => m.old == f || m.new == f

/-- The holder of a page makes it usable for a read or write (R163): it allocates an absent page, copies a shared one, or makes a page
that is no longer shared writable; a swapped page or one being moved waits. -/
def makePage (second : Bool) (q layer page : Nat) (write answered : Bool) (ok fail : Act) : Act :=
  .look fun b =>
    let va := (b.seq q).pageAddr layer page
    let e := b.pageEntry second va
    match b.frameOf e with
    | some f =>
      if !(write && entReadonly e) then ok
      else if b.ctl.moving f then .done
      else if 1 < Tab.get 0 b.ctl.fw.alloc.refs f then
        match b.pickIn second (entTier e) with
        | some (t, n) => Act.all [.one (.mem (n * 8192) (b.read (f * 8192) 8192)), takeFrame second q layer page n,
            putEntry q layer page (mkEntry (n * 8192) b.slot t false (entPinned e)), poolLow t, dropFrame f, dropTlb va (va + 8192), ok]
        | none => needFrames q .pool answered fail
      else Act.all [putEntry q layer page (withReadonly e false), dropTlb va (va + 8192), ok]
    | none =>
      if isSwapped e then .done
      else if !second && !b.ctl.mirrorRoom q layer page then fail
      else
        match b.pickIn second ((b.ctl.seqFw q).tierOf layer page) with
        | some (t, f) => (givePage second q layer page t f).seq ok
        | none => needFrames q .pool answered fail

/-- A fault on a page of the sequence region. -/
def pageFault (f : XFault) (answered : Bool) (q layer page : Nat) : Act :=
  .look fun b =>
    let h := b.ctl.holder layer page
    let here := fun (second : Bool) => makePage second q layer page f.write answered
      ((Act.look fun t =>
        let va := (t.seq q).pageAddr layer page
        Act.when (f.second != second) (setPage f.second q va (t.pageEntry second va))).seq (resumeAgent f)) (agentStarved f q)
    match b.ctl.servesRank h with
    | some second => here second
    | none => if b.ctl.onBoard h then send (.slot (b.ctl.slotOfRank h)) (.entryRequest f.vaddr) else here f.second

/-- The page that the address lies in waits for the end of its Flood, or, for a write, for the end of its move (R163). -/
def Block.pageBusy (b : Block) (va : Nat) (write : Bool) : Bool :=
  match b.pageOf va with
  | some (q, l, n) => ((b.ctl.seqFw q).back.any fun k => k.layer == l && k.page == n) ||
      (write && (match b.frameOf (b.pageEntry false ((b.seq q).pageAddr l n)) with | some f => b.ctl.moving f | none => false))
  | none => false

/-- Firmware deals with a translation fault, where the leader may have `answered` that no sequence can be pre-empted (R163, R177, R234, R240). -/
def resolveFault (f : XFault) (answered : Bool) : Act :=
  .look fun b =>
    if !b.ctl.halted f then dropFault f.id
    else
      match b.xlate (b.ctl.faultSpace f) f.vaddr f.write with
      | .ok _ _ => Act.when (!b.pageBusy f.vaddr f.write) (resumeAgent f)
      | .swapped => .done
      | .deviceFault => moduleFault f.vaddr
      | .accessError => agentError f
      | _ => match b.pageOf f.vaddr with | some (q, l, n) => pageFault f answered q l n | none => moduleFault f.vaddr

/-- FAULT_RESOLVE (R163, R234, R240, R241, R269): a translation fault, or a line that two reads have not given, which firmware rewrites. -/
def faultResolveAct (id : Nat) : Act :=
  .look fun b => Act.when b.ctl.awake <| Act.opt (b.ctl.fw.faults.find? fun f => f.id == id) fun f =>
    match f.line with
    | none => resolveFault f false
    | some l => if b.ctl.halted f then repairLine l (resumeAgent f) else dropFault id

/-! ## Flood (R182, R183) -/

/-- Frames for the pages that Flood brings back, under their placements; none where both tiers run out. -/
def assignFrames (q : Nat) (c : Ctl) : List PageAt → Option (List (Nat × Nat))
  | [] => some []
  | x :: xs =>
    match c.pickFrame ((c.seqFw q).tierOf x.layer x.page) with
    | none => none
    | some (t, f) =>
      let c := { c with fw := { c.fw with alloc := { c.fw.alloc with refs := Tab.set 0 c.fw.alloc.refs f 1 } } }
      (assignFrames q c xs).map fun r => (t, f) :: r

/-- One page comes back from its swap slot. -/
def floodPage (q : Nat) (x : PageAt) (t f : Nat) : Act :=
  .look fun b => Act.all [
    countFw 8192, .one (.mem (f * 8192) (b.host.read (b.ctl.job.swapAddr + entFrame x.entry) 8192)), addRef f 1, ownFrame f q x.layer x.page,
    putEntry q x.layer x.page (mkEntry (f * 8192) b.slot t false ((b.ctl.seqFw q).pinOf x.layer x.page)), poolLow t,
    .upd fun c => c.setSeqFw q fun s =>
      { s with back := s.back ++ [{ second := x.second, layer := x.layer, page := x.page, slot := entFrame x.entry / 8192 }] }]

/-- FLOOD on a rank (R182 steps 1 to 3, R183): frames, copies and entries, then the invalidate; or a pre-emption of a sequence of lower
PRIORITY, or E_CAPACITY where the leader has `answered` that there is none. -/
def floodPart (q : Nat) (answered : Bool) : Act :=
  .look fun b => Act.when ((b.ctl.seqFw q).pre == .swapped && !(b.ctl.fw.invals.any fun i => i.what == .flood q)) <|
    Act.opt (b.ctl.seqFw q).resume fun key =>
      let xs := b.swappedPages q
      match assignFrames q b.ctl xs with
      | some fs =>
        let (lo, hi) := b.seqRange q
        (Act.each (xs.zip fs) fun (x, t, f) => floodPage q x t f).seq (invalidate lo hi (.flood q))
      | none => needFrames q .flood answered
          ((Act.upd fun c => c.setSeqFw q fun s => { s with resume := none }).seq (partDone key Status.eCapacity.code))

/-- FLOOD (R182, R183). -/
def floodAct (q : Nat) : Act := .look fun b => Act.when b.ctl.awake (floodPart q false)

/-- The invalidate of a Flood has completed: this rank's part of SEQ_RESUME is done, and the swap slots stay held until every rank's is
(R182, R183). -/
def floodEnd (q : Nat) : Act :=
  .look fun b => (Act.upd fun c => c.setSeqFw q fun s => { s with pre := .flooded }).seq
    (Act.opt (b.ctl.seqFw q).resume fun key => partDone key 0)

/-! ## Moves (R169) -/

/-- PAGE_MOVE (R169 steps 2 to 4): the copy, the new entries, and the second invalidate.  The sharers' references go over to the new frame;
the old one keeps one of the move's own. -/
def pageMoveAct (id : Nat) : Act :=
  .look fun b => Act.when b.ctl.awake <| Act.opt (b.ctl.fw.moves.find? fun m => m.id == id && m.step == 2) fun m =>
    let qs := b.sharers m.layer m.page m.old
    let va := (b.seq m.seq).pageAddr m.layer m.page
    Act.all [
      countFw 8192, .one (.mem (m.new * 8192) (b.read (m.old * 8192) 8192)),
      Act.each qs fun q =>
        let e := b.pageEntry false ((b.seq q).pageAddr m.layer m.page)
        putEntry q m.layer m.page (mkEntry (m.new * 8192) b.slot m.tier (decide (1 < qs.length)) (entPinned e)),
      ownFrame m.new m.seq m.layer m.page, addRef m.new (Int.ofNat qs.length - 1), addRef m.old (1 - Int.ofNat qs.length),
      .upd fun c => { c with fw := { c.fw with moves := c.fw.moves.map fun k => if k.id = id then { k with step := 3 } else k } },
      invalidateAll va (va + 8192) (b.pageRanges m.layer m.page qs) (.move id)]

/-- The move is over (R169 step 5): the old frame is free, and the moves of the page that waited for it begin. -/
def moveEnd (m : PageMv) : Act :=
  Act.all [
    .upd fun c => { c with fw := { c.fw with moves := c.fw.moves.filter fun k => k.id != m.id } },
    dropFrame m.old, nextMoves m, taskCheck m.key, Act.each m.next fun n => taskCheck n.2.2]

/-- INVALIDATE_COMPLETE (R166, R238): the translations of the range are gone, and what waited for that goes on. -/
def invalidateCompleteAct (id : Nat) : Act :=
  .look fun b => Act.when b.ctl.awake <| Act.opt (b.ctl.fw.invals.find? fun i => i.id == id) fun i =>
    Act.all [Act.each ((i.lo, i.hi) :: i.more) fun r => dropTlb r.1 r.2,
      .upd fun c => { c with fw := { c.fw with invals := c.fw.invals.filter fun k => k.id != id } },
      match i.what with
      | .edit key => taskCheck key
      | .move m => Act.opt (b.ctl.fw.moves.find? fun k => k.id == m) fun k =>
          if k.step = 1 then .upd fun c => { c with fw := { c.fw with moves := c.fw.moves.map fun x => if x.id = m then { x with step := 2 } else x } }
          else moveEnd k
      | .ebb q fs => Act.all [Act.each fs dropFrame,
          (.look fun b => setSeq q fun s => { s with swapped := (b.swappedPages q).length }),
          .upd fun c => c.setSeqFw q fun s => { s with pre := .swapped },
          .look fun b => Act.each (b.ctl.fw.tasks.filter fun t => t.opcode == 0x13 && t.seq == q) fun t => taskCheck t.key]
      | .flood q => floodEnd q
      | .close q key fs => Act.all [closeEnd q fs,
          .upd fun c =>
            let d := { c with pair := { c.pair with frames := c.pair.frames.filter fun m => m.2 / 2 ^ 44 != q } }
            if (c.cmdOfKey key).isSome then d.setSeqFw q fun s => { s with closing := true } else d,
          partDone key 0, (.look fun b => Act.each (b.ctl.fw.tasks.map (·.key)) taskCheck), stopCheck]
      | .nothing => .done]

/-! ## Board peers -/

/-- PAGE_ENTRY (R160, R166): the holder's entry is mapped here; an entry of 0 says that the holder has no frame to give (log 28). -/
def pageEntryAct (m : PageEntryMsg) : Act :=
  .look fun b => Act.when (b.ctl.awake && (b.seq m.seq).state != seqClosed && decide (m.page < (b.seq m.seq).capPages)) <|
    let va := (b.seq m.seq).pageAddr m.layer m.page
    if m.entry.toNat = 0 then
      Act.each (b.ctl.fw.faults.filter fun f => decide (va ≤ f.vaddr ∧ f.vaddr < va + 8192) && b.ctl.halted f) fun f => agentStarved f m.seq
    else (Act.each b.ctl.contexts fun s => setPage s m.seq va m.entry.toNat).seq (dropTlb va (va + 8192))

/-- A board peer that writes a page gets its entry from the holder, or an entry of 0 where no frame can be had (R160, R163, R177; log 28);
until then the request waits. -/
def answerEntry (slot vaddr : Nat) (answered : Bool) : Act :=
  .look fun b => Act.opt (b.pageOf vaddr) fun (q, l, n) =>
    Act.opt (b.ctl.servesRank (b.ctl.holder l n)) fun second =>
      let want := fun (on : Bool) => Act.upd fun c => { c with fw := { c.fw with
        wanting := (c.fw.wanting.filter fun w => w != (slot, vaddr)) ++ (if on then [(slot, vaddr)] else []) } }
      let answer := fun (e : Nat) => (want false).seq (send (.slot slot) (.pageEntry { seq := q, layer := l, page := n, entry := BitVec.ofNat 64 e }))
      (want true).seq
        (makePage second q l n true answered (.look fun t => answer (t.pageEntry second ((t.seq q).pageAddr l n))) (answer 0))

/-- ENTRY_REQUEST (R160, R163). -/
def entryRequestAct (slot vaddr : Nat) : Act := .look fun b => Act.when b.ctl.awake (answerEntry slot vaddr false)

/-- The leader has no victim for a page of a sequence: what waits here for a frame of it ends (R177). -/
def starveAll (q : Nat) : Act :=
  .look fun b =>
    let of := fun (va : Nat) => match b.pageOf va with | some (p, _, _) => p == q | none => false
    (Act.each (b.ctl.fw.faults.filter fun f => f.line.isNone && of f.vaddr) fun f => resolveFault f true).seq
      (Act.each (b.ctl.fw.wanting.filter fun w => of w.2) fun w => answerEntry w.1 w.2 true)

/-- VICTIM_REQUEST (R176, R177, R183): a rank asks the leader for a pre-emption, for an allocation or for a Flood; the leader without one
tells the rank so. -/
def victimRequestAct (rank q : Nat) (why : VictimWhy) : Act :=
  .look fun b => Act.when (b.ctl.awake && b.ctl.job.inJob) <|
    match why with
    | .noPool => Act.when (!b.ctl.leader) (starveAll q)
    | .noFlood => Act.when (!b.ctl.leader) (floodPart q true)
    | .pool | .flood => Act.when (b.ctl.leader && !b.ctl.preempting) <|
        match b.victimFor q why with
        | some v => preempt v (if forFlood why then 2 else 0)
        | none => send (.rank rank) (.victim rank q (if forFlood why then .noFlood else .noPool))

/-- A run of blocks of 2^shift bytes of a buffer. -/
structure BlockRun where
  shift : Nat
  lo    : Nat
  hi    : Nat
  deriving DecidableEq, Repr

/-- The largest blocks that a range's alignment and size allow, for the listed block sizes. -/
def blockRuns : List Nat → Nat → Nat → List BlockRun
  | [], _, _ => []
  | sh :: rest, v, e =>
    let a := roundUp v (2 ^ sh)
    let z := e / 2 ^ sh * 2 ^ sh
    if a < z then { shift := sh, lo := a, hi := z } :: (blockRuns rest v a ++ blockRuns rest z e) else blockRuns rest v e

/-- The block sizes of final entries: 8 GiB, 8 MiB, 8 KiB (Table 07-4). -/
def blockShifts : List Nat := [33, 23, 13]

/-- The tables above the final entry of a block of 2^shift bytes. -/
def ensurePath (second : Bool) (va shift : Nat) : Act :=
  let path := [43, 33, 23].filter fun s => decide (shift < s)
  Act.each (List.range path.length) fun k => ensureTable second va (path.take k) (path.getD k 43)

/-- The final entry of a block of 2^shift bytes, with the tables above it. -/
def putBlock (second : Bool) (va shift e : Nat) : Act :=
  (ensurePath second va shift).seq <| .look fun b =>
    Act.opt (leafTable b.mem va ([43, 33, 23].filter fun s => decide (shift < s)) (b.root second)) fun t => writeEntry (entryAddr t va shift) e

/-- Final entries for the blocks of a run that lies at consecutive frames, with the tables above them. -/
def mapRun (second : Bool) (r : BlockRun) (paddr tier : Nat) (readonly : Bool) : Act :=
  Act.each (unitsOf r.lo r.hi r.shift) fun u =>
    .look fun b => putBlock second (u * 2 ^ r.shift) r.shift (mkEntry (paddr + (u * 2 ^ r.shift - r.lo)) b.slot tier readonly true)

/-- Final entries for a physical range of a module at a virtual one, with the largest blocks that both allow (R231). -/
def mapRange (second : Bool) (va pa bytes module : Nat) (readonly : Bool) : Act :=
  let shifts := blockShifts.filter fun s => s == 13 || va % 2 ^ s == pa % 2 ^ s
  Act.each (blockRuns shifts (va / 8192 * 8192) (roundUp (va + bytes) 8192)) fun r => Act.each (unitsOf r.lo r.hi r.shift) fun u =>
    let v := max va (u * 2 ^ r.shift)
    let frame := (pa + (v - va)) / 8192 * 8192
    putBlock second v r.shift (mkEntry frame module (if ddrBase ≤ frame ∧ frame < scratchBase then 1 else 0) readonly true)

/-- The alias buffers of a peer's map are mapped (R231). -/
def mapAliases (m : BufferMapMsg) : Act :=
  .look fun b => Act.each (b.ctl.plan.bufs.filter fun x => bufKind x.entry == 6 && u8 x.entry 52 == m.home.val) fun x =>
    let ps := m.pieces.filter fun p => p.index == u16 x.entry 54
    let base := (ps.map (·.vaddr)).foldl min (2 ^ 48)
    Act.each ps fun p => Act.each b.ctl.contexts fun s =>
      mapRange s (bufVaddr x.entry + (p.vaddr - base)) p.paddr p.bytes m.slot.val (bufReadonly x.entry)

/-- Every board peer of the job has sent its buffer map (R231). -/
def Ctl.mapsIn (c : Ctl) : Bool := (List.range c.jobP).all fun r => r == c.rank || !c.onBoard r || c.job.maps.any fun m => m.rank == r

/-- START_JOB has ended on this rank: the partner gets the context as the START pass has left it, and a first state record, from which a
takeover before the first commit replays (R18, R414); RUNNING; the leader and the partner hear of it (R357, R364, R426). -/
def startDone : Act :=
  .look fun b => Act.opt b.ctl.job.starting fun st => Act.all [
    mirrorContext false, sendState,
    .upd fun c => { c with job := { c.job with inJob := true, starting := none, pass := none }, glb := { c.glb with state := .running } },
    finish st.cmd .ok [],
    if b.ctl.leader then rankPart b.ctl.rank 0 0 else send (.rank 0) (.rankFinished b.ctl.rank 0 0),
    Act.when (b.ctl.pair.role == .bound) (send .partner (.rankFinished b.ctl.rank 0 0))]

/-- The notice of the START pass for a rank (R357). -/
def startNotice (rank : Nat) : PassNotice :=
  { rank := rank, kind := 0, seq := 0, step := 0, l0 := 0, e := 0, pending := 0, sampleArg := 0, tokens := [] }

/-- START_JOB goes on once the buffer maps are in: the leader opens the START pass; without one in the plan, the rank's START_JOB has ended. -/
def startCheck : Act :=
  .look fun b => Act.opt b.ctl.job.starting fun st => Act.when (b.ctl.mapsIn && !st.passDone) <|
    (Act.upd fun c => { c with job := { c.job with starting := some { st with passDone := true } } }).seq <|
      if (b.ctl.plan.passEntry 0).isNone then startDone else Act.when b.ctl.leader (openPass none startNotice)

/-- BUFFER_MAP (R231): a board peer's buffer map arrives. -/
def bufferMapAct (m : BufferMapMsg) : Act :=
  .look fun b => Act.when (b.ctl.awake && b.ctl.plan.loaded) <|
    (Act.upd fun c => { c with job := { c.job with maps := c.job.maps.filter (fun k => k.rank != m.rank) ++ [m] } }).seq ((mapAliases m).seq startCheck)

/-- Every byte of a physical range is in HBM4, DDR5, scratch or lagoon. -/
def Block.backedRange (b : Block) (addr len : Nat) : Bool :=
  (unitsOf addr (addr + len) 6).all fun u => backed b.fuses.twoTiB (max addr (u * 64))

/-- REMOTE_REQUEST (R216, R247, R265): a board peer's load, store or signal is performed as a local access, and a KIND 1 transfer
through this module's own translation. -/
def remoteRequestAct (r : RemoteReq) : Act :=
  .look fun b => Act.when b.ctl.awake <|
    match r with
    | .load slot addr len =>
      if b.backedRange addr len then (cacheAccess addr len false).seq (send (.slot slot.val) (.response (b.read addr len)))
      else send (.slot slot.val) .noAnswer
    | .store slot addr bytes =>
      if b.backedRange addr bytes.length then
        Act.all [cacheAccess addr bytes.length true, .one (.mem addr bytes), storedRecords addr bytes.length]
      else send (.slot slot.val) .noAnswer
    | .signal toRank sem n => Act.opt (b.ctl.servesRank toRank) fun s => signalLocal s sem.val n.toNat false
    | .signalPoison toRank sem => Act.opt (b.ctl.servesRank toRank) fun s => signalLocal s sem.val 0 true
    | .rankStore _ _ _ _ | .rankLoad _ _ _ _ => rankAccess r

/-! ## BAR2 (R217) -/

/-- Module-local address of a BAR2 offset. -/
def Ctl.bar2Addr (c : Ctl) (port : Bool) (off : Nat) : Nat := (c.hif.hif port).bar2Off.toNat + off

/-- The access lies in the window of a port. -/
def Ctl.inBar2 (c : Ctl) (port : Bool) (off len : Nat) : Bool := c.barUp port && decide (off + len ≤ (c.hif.hif port).bar2Size)

/-- An access outside backed memory is counted (R217). -/
def bar2Error : Act := .upd fun c => { c with bar2Err := (c.bar2Err + 1) % 2 ^ 48 }

/-- BAR2_READ: the bytes, or all ones. -/
def bar2ReadAct (port : Bool) (off len : Nat) : Act :=
  .look fun b => Act.when (b.ctl.inBar2 port off len) <|
    let a := b.ctl.bar2Addr port off
    if b.backedRange a len then (cacheAccess a len false).seq (send (.host (if port then 1 else 0)) (.bar2Data (b.read a len)))
    else bar2Error.seq (send (.host (if port then 1 else 0)) (.bar2Data (List.replicate len 0xFF)))

/-- BAR2_WRITE: the bytes land, or are discarded. -/
def bar2WriteAct (port : Bool) (off : Nat) (bytes : Bytes) : Act :=
  .look fun b => Act.when (b.ctl.inBar2 port off bytes.length) <|
    let a := b.ctl.bar2Addr port off
    if b.backedRange a bytes.length then (cacheAccess a bytes.length true).seq (.one (.mem a bytes)) else bar2Error

/-! ## Signals and waits -/

/-- SIGNAL (Table 09-1): an increment of 1 to 2^31 - 1 arrives at a semaphore of this module. -/
def signalAct (sem n : Nat) : Act := .look fun b => Act.when (b.ctl.awake && decide (1 ≤ n)) (.one (.signal sem n))

/-- SIGNAL_POISON (Table 09-1). -/
def signalPoisonAct (sem : Nat) : Act := .look fun b => Act.when b.ctl.awake (.one (.poison sem))

/-- WAIT_COMPLETE (R282): the wait of an instance, a queue head, a command, a thread or a channel. -/
def waitCompleteAct : Waiter → Act
  | .context c n i => contextWaitAct c.val n.val i.val
  | .head c s i => headWaitAct c.val s i.val
  | .command id => commandWaitAct id
  | .thread c t => threadWaitAct c.val t.val
  | .channel e ch => (lsWaitAct e.val ch.val).seq stopCheck

/-! ## Meanings -/

/-- FAULT_RESOLVE. -/
def execFaultResolve (fault : Nat) (s : State) : Host.Outcome State Fault Refusal := s.perform (faultResolveAct fault)
/-- FLOOD. -/
def execFlood (seq : Fin 4096) (s : State) : Host.Outcome State Fault Refusal := s.perform (floodAct seq.val)
/-- PAGE_MOVE. -/
def execPageMove (move : Nat) (s : State) : Host.Outcome State Fault Refusal := s.perform (pageMoveAct move)
/-- INVALIDATE_COMPLETE. -/
def execInvalidateComplete (inv : Nat) (s : State) : Host.Outcome State Fault Refusal := s.perform (invalidateCompleteAct inv)
/-- PAGE_ENTRY. -/
def execPageEntry (m : PageEntryMsg) (s : State) : Host.Outcome State Fault Refusal := s.perform (pageEntryAct m)
/-- ENTRY_REQUEST. -/
def execEntryRequest (slot : Fin 8) (vaddr : Nat) (s : State) : Host.Outcome State Fault Refusal := s.perform (entryRequestAct slot.val vaddr)
/-- VICTIM_REQUEST. -/
def execVictimRequest (rank : Nat) (ask : VictimAsk) (s : State) : Host.Outcome State Fault Refusal := s.perform (victimRequestAct rank ask.seq ask.why)
/-- BUFFER_MAP. -/
def execBufferMap (m : BufferMapMsg) (s : State) : Host.Outcome State Fault Refusal := s.perform (bufferMapAct m)
/-- REMOTE_REQUEST. -/
def execRemoteRequest (r : RemoteReq) (s : State) : Host.Outcome State Fault Refusal := s.perform (remoteRequestAct r)
/-- BAR2_READ. -/
def execBar2Read (port : Fin 2) (offset len : Nat) (s : State) : Host.Outcome State Fault Refusal := s.perform (bar2ReadAct (port == 1) offset len)
/-- BAR2_WRITE. -/
def execBar2Write (port : Fin 2) (offset : Nat) (bytes : Bytes) (s : State) : Host.Outcome State Fault Refusal :=
  s.perform (bar2WriteAct (port == 1) offset bytes)
/-- SIGNAL. -/
def execSignal (sem : Fin 32768) (n : BitVec 31) (s : State) : Host.Outcome State Fault Refusal := s.perform (signalAct sem.val n.toNat)
/-- SIGNAL_POISON. -/
def execSignalPoison (sem : Fin 32768) (s : State) : Host.Outcome State Fault Refusal := s.perform (signalPoisonAct sem.val)
/-- WAIT_COMPLETE. -/
def execWaitComplete (w : Waiter) (s : State) : Host.Outcome State Fault Refusal := s.perform (waitCompleteAct w)

end Sys2Proof.Machine
end

