-- ==== Sys2Proof/Machine/SeqCmds.lean ====
section
/-! DEFINITION. The sequence commands and STOP_JOB on the leader, and their parts on the other ranks (R155, R158, R166, R170, R175,
R182, R349, R353, R357, R361, R365, R366, R488). -/

namespace Sys2Proof.Machine

/-- The command came to the job leader: a survivor leads on the ring it has taken over (R353). -/
def Ctl.leads (c : Ctl) (x : Cmd) : Bool := c.leader && (c.rank == 0 || x.ring == partnerRing)

/-- The module and the sequence are in a state in which a sequence command is legal (Tables 11-11, 11-12). -/
def seqLegal (states : List Nat) (b : Block) (x : Cmd) : Bool :=
  inStates [.running, .degraded] b && b.ctl.leads x && b.ctl.plan.hasSeqs && states.contains (b.seq (cSeq x.bytes)).state &&
  !(b.ctl.seqFw (cSeq x.bytes)).closing && (b.ctl.seqFw (cSeq x.bytes)).opening.isNone

/-- A range of a sequence command's own bytes is reachable: a host region, or one plan buffer (R354). -/
def Block.operandOk (b : Block) (kind addr len : Nat) : Bool :=
  if kind = 0 then b.ctl.inHostRegion addr len
  else match b.ctl.plan.bufAt addr with | some x => decide (addr + len ≤ bufVaddr x.entry + bufBytes x.entry) | none => false

/-- Running and held SEQ_APPEND and SEQ_STEP commands of a sequence. -/
def Ctl.stepsOf (c : Ctl) (q : Nat) : List Cmd :=
  c.hif.cmds.filter fun x => decide (cOp x.bytes = 0x11 ∨ cOp x.bytes = 0x12) && cSeq x.bytes == q && (x.phase == .running || x.phase == .held)

/-- The command waits for a part of every rank (R166). -/
def awaitRanks (id : Nat) : Act := .look fun b => updCmd id fun x => { x with ranks := List.range b.ctl.jobP, status := 0 }

/-- The command goes to every other rank on CTRL (R353). -/
def fanCommand (x : Cmd) (vbase openTime : Nat) (list : Bytes) : Act :=
  toOthers fun _ => .fanout { cmd := x.bytes, key := x.key, vbase := vbase, openTime := openTime, list := list }

/-! ## SEQ_OPEN, SEQ_APPEND, SEQ_STEP -/

/-- SEQ_OPEN (R155, R172, R235). -/
def seqOpenAct (id : Nat) : Act :=
  startCmd id 0x10 (seqLegal [seqClosed]) fun x => .look fun b =>
    match b.freeRange (b.ctl.plan.openSpan x.bytes) with
    | none => finish id .eCapacity []
    | some v =>
      if !b.tablesFit v (b.ctl.plan.openSpan x.bytes) then finish id .eCapacity []
      else Act.all [awaitRanks id, fanCommand x v b.lhTime [], openPart (cSeq x.bytes) x.bytes v b.lhTime, partDone x.key 0]

/-- The command begins to run passes: its sequence is ACTIVE (R157). -/
def beginSteps (x : Cmd) : Act :=
  Act.all [setSeq (cSeq x.bytes) fun s => { s with state := seqActive }, announce (cSeq x.bytes), choosePass]

/-- SEQ_APPEND (R357, R361, R488). -/
def seqAppendAct (id : Nat) : Act :=
  startCmd id 0x11 (seqLegal [seqOpenSt]) fun x => .look fun b =>
    let s := b.seq (cSeq x.bytes)
    let n := u32 x.bytes 36
    let took := s.pending != noToken
    let total := n + if took then 1 else 0
    let pre := b.ctl.plan.prefixEnd b.ctl.jobP
    let lacks := (decide (s.length < pre) && (b.ctl.plan.passEntry 1).isNone) || (decide (pre < s.length + total) && (b.ctl.plan.passEntry 2).isNone)
    if n = 0 then finish id .okEmpty (seqResult b x false)
    else if lacks then finish id .eState []
    else if !b.operandOk (u8 x.bytes 34) (u64 x.bytes 40) (4 * n) then finish id .eFormat []
    else if 16 * s.capPages < s.length + total then finish id .eCapacity (seqResult b x false)
    else (updCmd id fun y => { y with tookPend := took }).seq (beginSteps x)

/-- SEQ_STEP (R357, R365). -/
def seqStepAct (id : Nat) : Act :=
  startCmd id 0x12 (seqLegal [seqOpenSt]) fun x => .look fun b =>
    let n := u32 x.bytes 36
    if n = 0 then finish id .okEmpty (seqResult b x false)
    else if (b.ctl.plan.passEntry 3).isNone then finish id .eState []
    else if !b.operandOk (u8 x.bytes 34) (u64 x.bytes 40) (4 * n) then finish id .eFormat []
    else beginSteps x

/-! ## SEQ_PREEMPT, SEQ_RESUME -/

/-- SEQ_PREEMPT (R175 to R181): the pre-emption begins, and the command completes when Ebb has ended on every rank. -/
def seqPreemptAct (id : Nat) : Act :=
  startCmd id 0x13 (seqLegal [seqOpenSt, seqActive]) fun x => .look fun b =>
    let q := cSeq x.bytes
    Act.all [awaitRanks id, fanCommand x 0 0 [], startTask x.key 0x13 q, Act.when ((b.ctl.seqFw q).pre == .none) (preempt q 1)]

/-- A rank's part of SEQ_RESUME: queued until Ebb has ended (R182). -/
def resumePart (q key : Nat) : Act := .upd fun c => c.setSeqFw q fun s => { s with resume := some key }

/-- SEQ_RESUME (R182). -/
def seqResumeAct (id : Nat) : Act :=
  startCmd id 0x14 (fun b x => seqLegal [seqPreempted] b x && (b.ctl.seqFw (cSeq x.bytes)).resume.isNone) fun x =>
    Act.all [awaitRanks id, fanCommand x 0 0 [], resumePart (cSeq x.bytes) x.key]

/-! ## SEQ_CLOSE -/

/-- SEQ_CLOSE goes on once no pass of the sequence runs: every rank frees the sequence (R158) (log 41). -/
def closeGo (x : Cmd) : Act :=
  .look fun b => Act.when (!b.ctl.passOn (cSeq x.bytes) && (b.ctl.stepsOf (cSeq x.bytes)).isEmpty && x.steps == 0) <|
    Act.all [updCmd x.id fun y => { y with steps := 1 }, fanCommand x 0 0 [], closeLocal (cSeq x.bytes) x.key]

/-- Running SEQ_CLOSE commands that waited for a pass go on. -/
def closesGo : Act := .look fun b => Act.each (b.ctl.hif.cmds.filter fun x => cOp x.bytes == 0x15 && x.phase == .running) closeGo

/-- A sequence's append or step stops: at once between passes or while held, else at its next commit (R158, R358, R366). -/
def stopSteps (q : Nat) : Act :=
  .look fun b => Act.each (b.ctl.stepsOf q) fun y =>
    if y.phase == .running && b.ctl.passOn q then updCmd y.id fun z => { z with stopping := true } else endSeqCmd y.id Status.eAborted.code false

/-- The other running commands of a sequence end with E_ABORTED. -/
def abortOthers (q id : Nat) : Act :=
  .look fun b => Act.each (b.ctl.hif.cmds.filter fun y => decide (0x13 ≤ cOp y.bytes ∧ cOp y.bytes ≤ 0x16) && cSeq y.bytes == q && y.id != id &&
      y.phase == .running && !(cOp y.bytes == 0x16 && b.ctl.passOn q)) fun y => finish y.id .eAborted []

/-- SEQ_CLOSE (R158). -/
def seqCloseAct (id : Nat) : Act :=
  startCmd id 0x15 (seqLegal [seqOpenSt, seqActive, seqPreempted]) fun x =>
    let q := cSeq x.bytes
    Act.all [.upd fun c => c.setSeqFw q fun s => { s with closing := true }, awaitRanks id, stopSteps q, abortOthers q id, closesGo, choosePass]

/-! ## SEQ_EDIT_PAGES -/

/-- The edit goes to every rank and is applied here (R166, R170).  A list with SHARE entries is first checked on every rank of a job of
several modules (R168; log 29). -/
def editGo (q : Nat) (x : Cmd) (l : Bytes) : Act :=
  .look fun b =>
    let check := hasShare l && (List.range b.ctl.jobP).any fun r => (b.ctl.servesRank r).isNone
    let fan := toOthers fun _ => .fanout { cmd := x.bytes, key := x.key, vbase := if check then 1 else 0, openTime := 0, list := l }
    if check then Act.all [updCmd x.id fun y => { y with steps := checkStep }, fan, checkPart q x.key l] else fan.seq (editPart q x.key l)

/-- SEQ_EDIT_PAGES (R166 to R171): applied at once, or, with a SHARE while a step of the target runs or is held, at its next commit. -/
def seqEditPagesAct (id : Nat) : Act :=
  startCmd id 0x16 (seqLegal [seqOpenSt, seqActive]) fun x => .look fun b =>
    let q := cSeq x.bytes
    let l := b.editList x
    (awaitRanks id).seq <|
      if hasShare l && !(b.ctl.stepsOf q).isEmpty then .upd fun c => c.setSeqFw q fun s => { s with deferred := s.deferred ++ [(x.key, l)] }
      else editGo q x l

/-- The deferred edits of a sequence are applied at its commit (R170). -/
def deferredEdits (q : Nat) : Act :=
  .look fun b =>
    (Act.upd fun c => c.setSeqFw q fun s => { s with deferred := [] }).seq <|
      Act.each (b.ctl.seqFw q).deferred fun (key, l) => Act.opt (b.ctl.cmdOfKey key) fun x => Act.when (x.phase == .running) (editGo q x l)

/-! ## STOP_JOB (R366) -/

/-- A rank's part of STOP_JOB: DRAINING, plan work gone, every sequence closing. -/
def stopPart (key mode : Nat) : Act :=
  Act.all [
    .upd fun c => { c with job := { c.job with stopping := some (key, mode), pass := none }, glb := { c.glb with state := .draining } },
    discardPass, (.look fun b => Act.each b.ctl.openings openUndo),
    .look fun b => Act.each (b.openSeqs.filter fun q => !(b.ctl.fw.invals.any fun i => match i.what with | .close s _ _ => s == q | _ => false))
      fun q => (setSeq q fun s => { s with length := s.committed }).seq (closeLocal q noKey),
    stopCheck]

/-- STOP_JOB goes on once no pass is in progress (log 41). -/
def stopGo (x : Cmd) : Act :=
  .look fun b => Act.when (b.ctl.job.pass.isNone && x.steps == 0) <|
    Act.all [updCmd x.id fun y => { y with steps := 1 }, fanCommand x 0 0 [], stopPart x.key (u8 x.bytes 32)]

/-- A running STOP_JOB that waited for a pass goes on. -/
def stopsGo : Act := .look fun b => Act.each (b.ctl.hif.cmds.filter fun x => cOp x.bytes == 0x05 && x.phase == .running) stopGo

/-- STOP_JOB: sequence commands not started, held or not stepping complete with E_ABORTED, running steps at their next commit or, under
ABORT, now; then every rank closes its sequences and leaves the job. -/
def stopJobAct (id : Nat) : Act :=
  startCmd id 0x05 (fun b x => b.ctl.leader && b.ctl.job.inJob && (inStates [.running, .degraded] b || (inStates [.draining] b && u8 x.bytes 32 == 1)))
    fun x => .look fun b => Act.all [
      .upd fun c => { c with glb := { c.glb with state := .draining } },
      awaitRanks id,
      Act.each (b.ctl.hif.cmds.filter fun y => isSeqOp (cOp y.bytes) && y.id != id &&
          (y.phase == .waiting || (y.phase == .running && !decide (cOp y.bytes = 0x11 ∨ cOp y.bytes = 0x12)))) fun y => finish y.id .eAborted [],
      Act.when (u8 x.bytes 32 == 1)
        ((stopPlanChannels).seq (discardPass.seq (.upd fun c => { c with job := { c.job with pass := none } }))),
      Act.each b.openSeqs stopSteps, stopsGo]

/-! ## The other ranks -/

/-- COMMAND_FANOUT (R353, R166): a rank's part of a command that the leader has started. -/
def commandFanoutAct (m : Fanout) : Act :=
  .look fun b => Act.when (b.ctl.awake && b.ctl.job.inJob && !b.ctl.leader) <|
    let q := cSeq m.cmd % 4096
    let check := cOp m.cmd == 0x16 && m.vbase == 1
    let tell := fun (status : Nat) => Act.each (b.ctl.rank :: b.ctl.pair.rank2.toList) fun r =>
      send (.rank 0) (.rankFinished r (if check then m.key + checkKey else m.key) status)
    match b.ctl.fw.journal.find? fun j => j.1 == m.key && j.1 != noKey with
    | some j => tell j.2
    | none =>
    if b.ctl.fw.tasks.any fun t => t.key == m.key then Act.when check (tell 0) else
    match cOp m.cmd with
    | 0x05 => stopPart m.key (u8 m.cmd 32)
    | 0x10 =>
      if (b.seq q).state = seqClosed && (b.ctl.seqFw q).opening.isNone && b.tablesFit m.vbase (b.ctl.plan.openSpan m.cmd) then
        (openPart q m.cmd m.vbase m.openTime).seq (partDone m.key 0)
      else partDone m.key Status.eCapacity.code
    | 0x13 => (startTask m.key 0x13 q).seq (taskCheck m.key)
    | 0x14 => if (b.ctl.seqFw q).pre = .none then partDone m.key 0 else resumePart q m.key
    | 0x15 =>
      if (b.seq q).state = seqClosed then (openUndo q).seq (partDone m.key 0) else closeLocal q m.key
    | 0x16 => match m.vbase with | 0 => editPart q m.key m.list | 1 => checkPart q m.key m.list | _ => applyList q m.key m.list
    | _ => .done

/-- RANK_FINISHED (R166): the leader hears that a rank has done its part; of START_JOB the partner hears too (R426). -/
def rankFinishedAct (r key status : Nat) : Act := .look fun b => Act.when (b.ctl.awake && (b.ctl.leader || key == 0)) (rankPart r key status)

/-- JOB_START_TIMEOUT (Table 11-13): a sequence command that waited 10 s for every rank's START_JOB completes with E_LINK. -/
def jobStartTimeoutAct (id : Nat) : Act :=
  .look fun b => Act.opt (b.ctl.cmd id) fun x =>
    Act.when (x.phase == .waiting && isSeqOp (cOp x.bytes) && b.ctl.leader && b.ctl.job.inJob &&
      !((List.range b.ctl.jobP).all fun r => b.ctl.job.started.contains r)) (finish id .eLink [])

/-! ## Meanings -/

/-- SEQ_OPEN. -/
def execSeqOpen (id : Nat) (s : State) : Host.Outcome State Fault Refusal := s.perform (seqOpenAct id)
/-- SEQ_APPEND. -/
def execSeqAppend (id : Nat) (s : State) : Host.Outcome State Fault Refusal := s.perform (seqAppendAct id)
/-- SEQ_STEP. -/
def execSeqStep (id : Nat) (s : State) : Host.Outcome State Fault Refusal := s.perform (seqStepAct id)
/-- SEQ_PREEMPT. -/
def execSeqPreempt (id : Nat) (s : State) : Host.Outcome State Fault Refusal := s.perform (seqPreemptAct id)
/-- SEQ_RESUME. -/
def execSeqResume (id : Nat) (s : State) : Host.Outcome State Fault Refusal := s.perform (seqResumeAct id)
/-- SEQ_CLOSE. -/
def execSeqClose (id : Nat) (s : State) : Host.Outcome State Fault Refusal := s.perform (seqCloseAct id)
/-- SEQ_EDIT_PAGES. -/
def execSeqEditPages (id : Nat) (s : State) : Host.Outcome State Fault Refusal := s.perform (seqEditPagesAct id)
/-- STOP_JOB. -/
def execStopJob (id : Nat) (s : State) : Host.Outcome State Fault Refusal := s.perform (stopJobAct id)
/-- COMMAND_FANOUT. -/
def execCommandFanout (m : Fanout) (s : State) : Host.Outcome State Fault Refusal := s.perform (commandFanoutAct m)
/-- RANK_FINISHED. -/
def execRankFinished (rank key status : Nat) (s : State) : Host.Outcome State Fault Refusal := s.perform (rankFinishedAct rank key status)
/-- JOB_START_TIMEOUT. -/
def execJobStartTimeout (id : Nat) (s : State) : Host.Outcome State Fault Refusal := s.perform (jobStartTimeoutAct id)

end Sys2Proof.Machine
end

