-- ==== Sys2Proof/Machine/PairCore.lean ====
section
/-! DEFINITION. The mirror of a Breakwater pair: what a member copies into its partner's mirror region and into a replacement, what
the partner does with it, and what a commit brings about for the pair (R404, R412, R414, R417, R423, R425, Tables 13-5, 13-6, 13-8). -/

namespace Sys2Proof.Machine

/-! ## What goes to a replacement -/

/-- Every page of a rank context goes out: from its frame, or from its swap slot. -/
def mirrorPages (second : Bool) : Act :=
  .look fun b => Act.each b.openSeqs fun q => Act.each (b.heldPages q second) fun x =>
    match b.frameOf x.entry with
    | some f => mirrorRecord second q x.layer x.page 0 (b.read (f * 8192) 8192)
    | none => Act.when (isSwapped x.entry) (mirrorRecord second q x.layer x.page 0 (b.host.read (b.ctl.job.swapAddr + entFrame x.entry) 8192))

/-! ## The partner's side -/

/-- This module keeps a mirror of its partner. -/
def Ctl.keepsMirror (c : Ctl) : Bool := match c.pair.role with | .bound | .replacement _ => true | _ => false

/-- A mirror frame takes records; the last line of them is what a commit reads back. -/
def putMirror (f slot : Nat) (bytes : Bytes) : Act :=
  (Act.one (.mem (f * 8192 + 512 * slot) bytes)).seq
    (.upd fun c => { c with pair := { c.pair with lineRec := f * 8192 + 512 * slot + bytes.length - 64 } })

/-- Records of the partner's page go into its mirror frame, found or taken. -/
def storeRecord (q layer page slot : Nat) (bytes : Bytes) : Act :=
  .look fun b =>
    let k := pageKey q layer page
    match b.ctl.pair.frames.find? fun m => m.2 == k with
    | some m => putMirror m.1 slot bytes
    | none => Act.opt b.pickMirror fun f =>
        (Act.upd fun c => { c with pair := { c.pair with frames := c.pair.frames ++ [(f, k)] } }).seq (putMirror f slot bytes)

/-- Records of a page of the share that a replacement takes back go into its own pools. -/
def storeBack (q layer page slot : Nat) (bytes : Bytes) : Act :=
  .look fun b =>
    let va := (b.seq q).pageAddr layer page
    match b.frameOf (b.pageEntry false va) with
    | some f => .one (.mem (f * 8192 + 512 * slot) bytes)
    | none => Act.opt (b.ctl.pickFrame ((b.ctl.seqFw q).tierOf layer page)) fun (t, f) =>
        Act.all [takeFrame false q layer page f, poolLow t, setPage false q va (mkEntry (f * 8192) b.slot t false false),
          .one (.mem (f * 8192 + 512 * slot) bytes)]

/-- MIRROR_WRITE (R351, R414, R421). -/
def mirrorWriteAct (m : MirrorMsg) : Act :=
  .look fun b => Act.when (b.ctl.awake && b.ctl.keepsMirror) <|
    let ring := fun (f : PartnerRing → PartnerRing) => Act.upd fun c => { c with pair := { c.pair with ring := f c.pair.ring } }
    match m with
    | .record q l n slot bytes => storeRecord q l n slot bytes
    | .context off bytes =>
      (Act.one (.mem (b.contextBase + off) bytes)).seq
        (.upd fun c => { c with pair := { c.pair with lineCtx := b.contextBase + off + bytes.length - 64 } })
    | .command i bytes => ring fun r => { r with cmds := r.cmds ++ [(i, bytes)], sqHead := (i + 1) % 2 ^ 32 }
    | .completion i cmd bytes => ring fun r =>
        { r with cqCount := (i + 1) % 2 ^ 32, cmds := r.cmds.filter fun x => x.1 != cmd,
                 entries := (r.entries.filter fun e => decide ((e.1 + 2 ^ 32 - r.cqHead) % 2 ^ 32 < 2 ^ 31)) ++ [(i, bytes)] }
    | .journal key r => .upd fun c => { c with pair := { c.pair with journal := c.pair.journal ++ [(key, r)] } }
    | .back q l n slot bytes => storeBack q l n slot bytes
    | .backContext off bytes => Act.opt (b.ctl.plan.contextPieces.find? fun p => p.1 == off) fun p => .one (.mem p.2.paddr bytes)

/-- A replacement takes a sequence of a state record as its own. -/
def openImage (i : SeqImage) : Act :=
  .look fun b =>
    let e := SeqEnt.ofBytes i.entry
    let size := b.ctl.plan.layers * e.capPages * 8192
    let spans := (unitsOf e.vbase (e.vbase + size) 23).length
    (Act.when ((b.seq i.seq).state == seqClosed) <| (buildTables false e.vbase (e.vbase + size)).seq <|
      .upd fun c =>
        let d := c.setSeqFw i.seq fun _ => { SeqFw.closed with reserve := spans }
        { d with fw := { d.fw with alloc := { d.fw.alloc with reserved := d.fw.alloc.reserved + spans } } }).seq
      (writeVa fwSpace (b.ctl.plan.seqEntry i.seq) i.entry)

/-- A replacement's sequences become those of the record. -/
def openImages (xs : List SeqImage) : Act :=
  (Act.each xs openImage).seq <| .look fun b =>
    Act.each (b.openSeqs.filter fun q => !xs.any fun i => i.seq == q) fun q => closeEnd q []

/-- The commands of a mirrored ring, as this module goes on with them: those with progress where it stands, the others from their start. -/
def cmdOfProgress (id ring : Nat) (p : Progress) : Cmd :=
  { Cmd.fresh id ring p.index p.bytes with
    phase := if !p.started then .waiting else if p.held then .held else .running,
    startNo := p.order, steps := p.steps, tokens := p.tokens, passes := p.passes, tookPend := p.tookPend }

/-- Commands join the taken ones. -/
def adopt (mk : Nat → List Cmd) : Act :=
  .upd fun c =>
    let cs := mk c.hif.nextId
    { c with hif := { c.hif with
      cmds := c.hif.cmds ++ cs, nextId := c.hif.nextId + cs.length,
      nextStart := cs.foldl (fun n x => max n (x.startNo + 1)) c.hif.nextStart } }

/-- HANDBACK_DONE (Table 13-9). -/
def handbackDone (serial slot rank : Nat) : Act := raise 0x0303 (src 9 slot) (serial % 2 ^ 32 * 2 ^ 32 + rank % 65536)

/-- The replacement becomes its rank again (Table 13-8 steps 6 and 7): active on its ring 0 with the commands there, its pages sent to the
board peers. -/
def becomeActive (r : StateRec) : Act :=
  .look fun b => Act.all [
    .upd fun c => { c with
      pair := { c.pair with role := .bound, armed := true, swapAddr := 0, swapBytes := 0 },
      glb := { c.glb with state := .running },
      job := { c.job with inJob := true, started := List.range c.jobP, swapAddr := r.swapAddr, swapBytes := r.swapBytes, regions := r.regions } },
    updRing 0 fun g => { g with sqHead := r.sqHead, cqCount := r.cqCount }, putSems false r.sems,
    adopt fun id => r.progress.zipIdx.map fun (p, i) => cmdOfProgress (id + i) 0 p,
    handbackDone (b.fuses.serial.toNat) b.ctl.pair.partner b.ctl.rank,
    Act.each b.openSeqs fun q => Act.each (b.heldPages q false) fun x => Act.when (b.frameOf x.entry).isSome <|
      (reserveMirror q x.layer x.page).seq (putEntry q x.layer x.page x.entry),
    choosePass, serveRemoval]

/-- The 64-byte line that a commit reads back; nothing where none was written. -/
def Block.lineAt (b : Block) (a : Nat) : Bytes := if a = 0 then [] else b.read a 64

/-- STATE_RECORD (R414, R417, Table 13-6 step 2): the record is kept, and the CRC of the lines written last goes back (log 43). -/
def stateRecordAct (r : StateRec) : Act :=
  .look fun b => Act.when (b.ctl.awake && b.ctl.keepsMirror) <|
    let crc := lineCrc (lastStateLine r.seqs) (b.lineAt b.ctl.pair.lineCtx) (b.lineAt b.ctl.pair.lineRec)
    let back := match b.ctl.pair.role with | .replacement _ => true | _ => false
    Act.all [
      Act.when (r.hand != 1) <| .upd fun c => { c with pair := { c.pair with
        seqs := r.seqs, progress := r.progress, notice := none, lineRec := 0, lineCtx := 0, swapAddr := r.swapAddr, swapBytes := r.swapBytes,
        regions := r.regions, sems := r.sems, ring := { c.pair.ring with sqHead := r.sqHead, cqCount := r.cqCount } } },
      Act.when back (openImages r.seqs),
      send .partner (.mirrorAck crc),
      Act.when (back && r.hand == 1) (becomeActive r),
      Act.when (r.hand == 2) (.upd fun c => { c with pair := { c.pair with takeCause := some 4 } })]

/-- COMMIT_NOTICE (Table 13-6 step 4): the leader's partner holds the notice. -/
def commitNoticeAct (n : CommitNotice) : Act :=
  .look fun b => Act.when (b.ctl.awake && b.ctl.keepsMirror) (.upd fun c => { c with pair := { c.pair with notice := some n } })

/-! ## What a commit brings about on a module -/

/-- Bytes of the records and contexts that messages carry, one number for each. -/
def mirroredBytes (out : List Sent) : List Nat :=
  out.filterMap fun m => match m.msg with
    | .mirror (.record _ _ _ _ bs) | .mirror (.back _ _ _ _ bs) | .mirror (.context _ bs) | .mirror (.backContext _ bs) => some bs.length
    | _ => none

/-- The snapshot point of a resynchronisation (Table 13-8 step 2): both shares go to the replacement. -/
def snapshotPoint : Act :=
  .look fun b => Act.when (b.ctl.pair.role == .resyncing false && !b.ctl.pair.snapshot) <|
    Act.all [.upd fun c => { c with pair := { c.pair with snapshot := true } }, sendState, mirrorContext false, mirrorPages false, mirrorContext true,
      mirrorPages true, .look fun t => Act.each (mirroredBytes (t.out.take (t.out.length - b.out.length))) countFw, sendState]

/-- The share goes back (Table 13-8 steps 6 and 7), once no completion of the ring taken over is left to be written. -/
def handBack : Act :=
  .look fun b => Act.opt b.ctl.pair.handback fun id => Act.opt b.ctl.pair.rank2 fun r =>
    Act.when (b.ctl.pair.role == .resyncing true && (b.ctl.nextDone partnerRing).isNone) <|
      let serial := b.ctl.pair.partnerSerial
      let place : RankEntry → RankEntry := fun e => { e with serial := serial, slot := b.ctl.pair.partner }
      Act.all [
        sendHand 1,
        toOthers fun _ => .abandon { failedRank := r, failedSlot := b.slot, partnerSlot := b.ctl.pair.partner, partnerSerial := serial, replay := false },
        .upd fun c => { c with
          hif := { c.hif with cmds := c.hif.cmds.filter (fun x => x.ring != partnerRing), rings := Tab.set Ring.reset c.hif.rings partnerRing Ring.reset },
          links := { c.links with fabric := { c.links.fabric with ranks := c.links.fabric.ranks.modify r place } },
          glb := { c.glb with state := .running },
          pair := { c.pair with role := .bound, armed := true, handback := none, snapshot := false, failedSerial := 0 } },
        closeSecond, finish id .ok [], handbackDone serial b.ctl.pair.partner r, serveRemoval]

/-- The share is handed to the partner, for a removal or a planned fault (R408, R425): the leaving module fences. -/
def handOver : Act :=
  .look fun b => Act.when (b.ctl.pair.handover || b.ctl.health.plannedFault) <|
    if b.ctl.pair.role == .bound && b.ctl.pair.armed then (sendHand 2).seq (if b.ctl.power.removal.isSome then removeEnd else fence 4)
    else Act.when b.ctl.health.plannedFault (moduleFault 0)

/-- What follows a commit on a module: planned retirements, the snapshot point, the handback, and last the handover. -/
def commitHooks : Act := Act.all [retirePlanned, snapshotPoint, handBack, handOver]

/-! ## Meanings -/

/-- MIRROR_WRITE. -/
def execMirrorWrite (m : MirrorMsg) (s : State) : Host.Outcome State Fault Refusal := s.perform (mirrorWriteAct m)
/-- STATE_RECORD. -/
def execStateRecord (r : StateRec) (s : State) : Host.Outcome State Fault Refusal := s.perform (stateRecordAct r)
/-- COMMIT_NOTICE. -/
def execCommitNotice (n : CommitNotice) (s : State) : Host.Outcome State Fault Refusal := s.perform (commitNoticeAct n)

end Sys2Proof.Machine
end

