-- ==== Sys2Proof/Machine/Passes.lean ====
section
/-! DEFINITION. A pass on the ranks and at the leader: its notice, its end, the reports and the commit (R357 to R363, R365, R416, R417,
R488, Tables 11-7 and 13-6). -/

namespace Sys2Proof.Machine

/-! ## The notice -/

/-- Change the pass in progress. -/
def updPass (f : Pass → Pass) : Act := .upd fun c => { c with job := { c.job with pass := c.job.pass.map f } }

/-- Nothing of the plan runs in a rank context (R287). -/
def Ctl.contextQuiet (c : Ctl) (second : Bool) : Bool :=
  (c.engine.coves.all fun e => (e.2.q second).isEmpty && e.2.ctxs.all fun x => x.2.second != second) &&
  c.engine.ls.chans.all fun e => e.2.state == .idle || e.2.second != second || fwChannel (e.1 / 32) (e.1 % 32)

/-- A pass of which this rank has heard the first notice. -/
def Pass.heard (n : PassNotice) : Pass :=
  { notice := n, notice2 := none, cmd := none, started := false, started2 := false, reported := false, reported2 := false,
    flags := { poisoned := false, shape := false, capacity := false }, reports := [], ready := [], noticed := false }

/-- The pass with the notice of one of its rank contexts taken up. -/
def Pass.start (p : Pass) (second : Bool) (n : PassNotice) : Pass :=
  if second then { p with notice2 := some n, started2 := true } else { p with notice := n, started := true }

/-- The rank context of the pass has started. -/
def Pass.begun (p : Pass) (second : Bool) : Bool := if second then p.started2 else p.started

/-- The rank context of the pass has reported. -/
def Pass.told (p : Pass) (second : Bool) : Bool := if second then p.reported2 else p.reported

/-- A notice that this module may take up: the leader's own, or on another rank one that opens a pass or is of the pass in progress. -/
def Ctl.noticeFits (c : Ctl) (second : Bool) (n : PassNotice) : Bool :=
  match c.job.pass with
  | none => !c.leader
  | some p => !p.begun second &&
      (if c.leader then (if second then p.notice2 == some n else p.notice == n)
       else p.notice.kind == n.kind && p.notice.seq == n.seq && p.notice.step == n.step)

/-- PASS_NOTICE (R60, R104, R287, R359, Table 11-7 steps 2 to 5): no pass of a sequence that is PREEMPTED or CLOSED here starts (R157,
R184). -/
def passNoticeAct (n : PassNotice) : Act :=
  .look fun b => Act.opt (b.ctl.servesRank n.rank) fun second =>
    Act.when (b.ctl.awake && b.ctl.plan.loaded && (b.ctl.job.inJob || b.ctl.job.starting.isSome) && b.ctl.contextQuiet second &&
        (b.ctl.plan.passEntry n.kind).isSome && b.ctl.noticeFits second n &&
        (n.kind == 0 || (b.seq n.seq).state == seqOpenSt || (b.seq n.seq).state == seqActive)) <|
      Act.all [
        .upd fun c => { c with job := { c.job with stopChans := false, pass := some ((c.job.pass.getD (Pass.heard { n with rank := c.rank })).start second n) } },
        beginPass second n]

/-! ## The end on a rank -/

/-- How the pass stands in a rank context: none while it runs, else whether an END is poisoned (R360) (log 27). -/
def Block.passOutcome (b : Block) (second : Bool) (kind : Nat) : Option Bool :=
  match b.ctl.plan.passEntry kind with
  | none => none
  | some e =>
    let os := (passEnds e).map fun x => b.waitOutcome second (entrySem x) (entryAmount x)
    if os.contains (some true) then some true else if os.all (· == some false) then some false else none

/-- No poison. -/
def PassFlags.clean : PassFlags := { poisoned := false, shape := false, capacity := false }

/-- Status of a pass that ended poisoned (R360). -/
def poisonStatus (fs : List PassFlags) : Status :=
  let ps := fs.filter (·.poisoned)
  if ps.any (·.shape) then .eShape else if ps.any (·.capacity) then .eCapacity else .ePoison

/-- The step boundary on the leader: deferred edits, a pre-emption that waits, closes and stops, then the next pass (R158, R170, R178, R358, R366). -/
def boundaryWork (q : Nat) : Act :=
  Act.all [deferredEdits q,
    preemptDue q, closesGo, stopsGo, choosePass]

/-- The START pass has ended for this rank's START_JOB (R357). -/
def startEnd (f : PassFlags) : Act :=
  .look fun b => Act.opt b.ctl.job.starting fun st =>
    if f.poisoned then Act.all [discardPass,
      .upd fun c => { c with job := { c.job with pass := none, starting := none } },
      finish st.cmd (if f.shape then .eShape else .ePoison) []]
    else startDone

/-- The leader goes on when every rank has reported (Table 11-7 step 8, R360, R363). -/
def reportsGo : Act :=
  .look fun b => Act.opt b.ctl.job.pass fun p => Act.when ((List.range b.ctl.jobP).all fun r => p.reports.any fun x => x.rank == r) <|
    let fs := p.reports.map (·.flags)
    let bad := fs.any (·.poisoned)
    let st := poisonStatus fs
    if p.notice.kind = 0 then
      let f : PassFlags := { poisoned := bad, shape := st == .eShape, capacity := false }
      (toOthers fun _ => .passReport 0 f).seq (startEnd f)
    else Act.when bad <| Act.all [discardPass, .upd fun c => { c with job := { c.job with pass := none } },
      Act.opt p.cmd fun id => endSeqCmd id st.code false, boundaryWork p.notice.seq]

/-- The leader hears a rank's report. -/
def addReport (r : Nat) (f : PassFlags) : Act :=
  (updPass fun p => if p.reports.any fun x => x.rank == r then p else { p with reports := p.reports ++ [{ rank := r, flags := f }] }).seq reportsGo

/-- A rank context's report at the end of the pass (Table 11-7 step 7, Table 13-6 step 1). -/
def reportEnd (second : Bool) (n : PassNotice) (bad : Bool) : Act :=
  .look fun b => Act.opt b.ctl.job.pass fun p =>
    let f : PassFlags := if bad then { p.flags with poisoned := true } else PassFlags.clean
    Act.all [
      updPass fun p => if second then { p with reported2 := true } else { p with reported := true },
      Act.when bad discardPass,
      Act.when (!bad && n.kind != 0 && !second) sendState,
      if b.ctl.leader then addReport n.rank f else send (.rank 0) (.passReport n.rank f)]

/-- PASS_END (R103, R360): a rank context whose used END entries are all met, or of which one is poisoned, reports (log 27). -/
def passEndAct : Act :=
  .look fun b => Act.when b.ctl.awake <| Act.each b.ctl.contexts fun second => .look fun t =>
    Act.opt t.ctl.job.pass fun p => Act.opt (if second then p.notice2 else some p.notice) fun n =>
      Act.when (p.begun second && !p.told second) <| Act.opt (t.passOutcome second n.kind) fun bad => reportEnd second n bad

/-- PASS_REPORT (R360, R363): the leader takes a rank's report; on another rank the leader's ends the START pass. -/
def passReportAct (r : Nat) (f : PassFlags) : Act :=
  .look fun b => Act.when b.ctl.awake <| Act.opt b.ctl.job.pass fun p =>
    if b.ctl.leader then addReport r f else Act.when (r == 0 && p.notice.kind == 0) (startEnd f)

/-! ## Commit (Table 13-6) -/

/-- TOKEN_OUT of rank 0's pass block. -/
def Block.tokenOut (b : Block) : Nat :=
  b.natVa { fwSpace with second := (b.ctl.servesRank 0).getD false } (b.ctl.plan.passBlock + 72) 4

/-- The sequence's pending token after the commit of the leader's pass (R488). -/
def Block.nextPending (b : Block) (p : Pass) : Nat :=
  if p.notice.kind = 3 then b.tokenOut
  else match p.cmd.bind b.ctl.cmd with
    | some x => if x.tookPend && x.tokens == 0 then noToken else (b.seq p.notice.seq).pending
    | none => (b.seq p.notice.seq).pending

/-- Every rank is ready: the commit notice goes to the leader's partner (Table 13-6 step 4); without a partner the leader's own read-back
takes its place (R422). -/
def readyGo : Act :=
  .look fun b => Act.opt b.ctl.job.pass fun p => Act.when (!p.noticed && ((List.range b.ctl.jobP).all fun r => p.ready.contains r)) <|
    (Act.when b.ctl.mirrors (send .partner (.commitNotice { seq := p.notice.seq, e := p.notice.e, pending := b.nextPending p }))).seq
      (updPass fun q => { q with noticed := true })

/-- A rank is ready to commit (Table 13-6 step 3). -/
def rankReady (r : Nat) : Act :=
  .look fun b =>
    if b.ctl.leader then (updPass fun p => if p.ready.contains r then p else { p with ready := p.ready ++ [r] }).seq readyGo
    else send (.rank 0) (.commitReady r)

/-- COMMIT_READY (R416, R417): the partner's answer to a state record of this rank, or at the leader another rank's readiness.  A CRC that
differs makes the step's mirror writes go again, up to 3 times; a fourth is the loss of the pair bundle. -/
def commitReadyAct (r crc : Nat) : Act :=
  .look fun b => Act.when b.ctl.awake <| Act.opt b.ctl.job.pass fun p => Act.when (p.notice.kind != 0) <|
    match b.ctl.servesRank r with
    | some second =>
      Act.when (p.told second) <|
        if second || !b.ctl.mirrors || crc == b.ctl.pair.crcSent then rankReady r
        else if b.ctl.pair.crcFails < 3 then
          (Act.upd fun c => { c with pair := { c.pair with crcFails := c.pair.crcFails + 1 } }).seq resendStep
        else bundleLost b.ctl.pair.partnerSerial
    | none => Act.when b.ctl.leader (rankReady r)

/-- A step's token goes to OUT_ADDR + 4i (R365). -/
def putToken (x : Cmd) (token : Nat) : Act :=
  let a := u64 x.bytes 40 + 4 * x.steps
  if u8 x.bytes 34 = 0 then .one (.host a (leBytes token 4)) else fwWrite a (leBytes token 4)

/-- The command after its step has committed: it ends, or it runs on (R365, R366). -/
def stepDone (x : Cmd) (kind token : Nat) : Act :=
  .look fun b => Act.opt (b.ctl.cmd x.id) fun y =>
    let stopped := kind == 3 && bit (u8 y.bytes 35) 0 && token == u32 y.bytes 48
    let full := if kind = 3 then y.steps == u32 y.bytes 36 else y.tokens == u32 y.bytes 36 + (if y.tookPend then 1 else 0)
    if y.stopping then endSeqCmd y.id Status.eAborted.code false
    else if stopped then endSeqCmd y.id Status.okShort.code true
    else if full then endSeqCmd y.id Status.ok.code false
    else announce (cSeq y.bytes)

/-- The leader commits its pass (Table 13-6 steps 5 and 6). -/
def commitLead : Act :=
  .look fun b => Act.opt b.ctl.job.pass fun p => Act.when (b.ctl.leader && p.noticed) <|
    let n := p.notice
    let token := b.tokenOut
    let pend := b.nextPending p
    Act.all [
      setSeq n.seq fun s => { s with length := n.e, committed := n.e, pending := pend },
      .upd fun c => { c with job := { c.job with pass := none }, pair := { c.pair with crcFails := 0 } },
      Act.opt (p.cmd.bind b.ctl.cmd) fun x => Act.all [
        updCmd x.id fun y => { y with passes := y.passes + 1, steps := if n.kind = 3 then y.steps + 1 else y.steps,
                                      tokens := if n.kind = 3 then y.tokens else y.tokens + (n.e - n.l0) },
        Act.when (n.kind == 3) (putToken x token), stepDone x n.kind token],
      commitHooks, boundaryWork n.seq]

/-- The leader's commit reaches another rank: the lengths, the pending token and the STATE of the sequence (Table 13-6 step 5); a SEQ_OPEN or
a Flood that has completed on every rank ends here too (R157, R182). -/
def commitFollow (m : CommitMsg) : Act :=
  .look fun b =>
    let on := b.ctl.passOn m.seq
    let ended := match b.ctl.job.pass with | some p => on && p.reported | none => false
    Act.all [
      Act.when (m.state == seqOpenSt) (openDone m.seq),
      Act.when ((b.ctl.seqFw m.seq).pre == .flooded && (m.state == seqOpenSt || m.state == seqActive)) (floodDone m.seq),
      Act.when ((b.seq m.seq).state != seqClosed) (setSeq m.seq fun s => { s with length := m.length, committed := m.e, pending := m.pending, state := m.state }),
      Act.when (on && !ended) discardPass,
      Act.when on (.upd fun c => { c with job := { c.job with pass := none }, pair := { c.pair with crcFails := 0 } }),
      Act.when ended commitHooks]

/-- COMMIT (R416, R417): on the leader when its partner holds the notice; on another rank when the leader's broadcast arrives. -/
def commitAct : Option CommitMsg → Act
  | none => .look fun b => Act.when b.ctl.awake commitLead
  | some m => .look fun b => Act.when (b.ctl.awake && b.ctl.job.inJob && !b.ctl.leader && decide (m.seq < 4096)) (commitFollow m)

/-! ## Meanings -/

/-- PASS_NOTICE. -/
def execPassNotice (n : PassNotice) (s : State) : Host.Outcome State Fault Refusal := s.perform (passNoticeAct n)
/-- PASS_END. -/
def execPassEnd (s : State) : Host.Outcome State Fault Refusal := s.perform passEndAct
/-- PASS_REPORT. -/
def execPassReport (rank : Nat) (flags : PassFlags) (s : State) : Host.Outcome State Fault Refusal := s.perform (passReportAct rank flags)
/-- COMMIT_READY. -/
def execCommitReady (rank crc : Nat) (s : State) : Host.Outcome State Fault Refusal := s.perform (commitReadyAct rank crc)
/-- COMMIT. -/
def execCommit (m : Option CommitMsg) (s : State) : Host.Outcome State Fault Refusal := s.perform (commitAct m)

end Sys2Proof.Machine
end

