-- ==== Sys2Proof/Machine/Verify.lean ====
section
/-! DEFINITION. The loader's checks of a plan image, in the order of R98: header, buffers, semaphore range, layout, Tideway descriptor,
engine settings, pass table, operation records, cove budgets, Longshore programs (R98 to R103, Tables 03-17 to 03-23, 04-11, 06-7,
08-16). -/

namespace Sys2Proof.Machine

/-! ## Checks and findings -/

/-- One check on an object: its code, the DETAIL of a failure, and whether it holds. -/
abbrev Chk := Nat × Nat × Bool

/-- A failure comes before another: by check code, then by the offset of its field; failures of 0x000F as listed, whose DETAIL is no
offset (log 32). -/
def sooner (x y : Nat × Nat) : Bool := decide (x.1 < y.1) || (x.1 == y.1 && x.1 != 0xF && decide (x.2 < y.2))

/-- The first failure of an object (R98). -/
def firstBad (cs : List Chk) : Option (Nat × Nat) :=
  cs.foldl (fun best c => if c.2.2 then best else match best with
    | some b => if sooner (c.1, c.2.1) b then some (c.1, c.2.1) else some b
    | none => some (c.1, c.2.1)) none

/-- A finding record (Table 03-17). -/
def findingBytes (kind index : Nat) (f : Nat × Nat) : Bytes := leBytes f.1 2 ++ leBytes kind 1 ++ [0] ++ leBytes index 4 ++ leBytes f.2 8

/-- The finding of an object, if a check fails. -/
def judgeObject (kind index : Nat) (cs : List Chk) : Option Bytes := (firstBad cs).map (findingBytes kind index)

/-- The first finding of a list of objects, by index. -/
def judgeEach {α : Type} (kind : Nat) (xs : List α) (f : Nat → α → List Chk) : Option Bytes := xs.zipIdx.findSome? fun (x, i) => judgeObject kind i (f i x)

/-! ## The image -/

/-- The plan that an image's header locates (Table 03-20); its buffers are not yet placed. -/
def parsePlan (img : Bytes) (jobP : Nat) : Plan :=
  let rows := fun (off n size : Nat) => (List.range n).map fun i => slice img (off + size * i) size
  let lay := slice img (u64 img 48) 64
  let lats := if lay.any (· != 0) && u8 lay 0 == 0 then u16 lay 2 * u16 lay 4 else 0
  { loaded := true,
    bufs := (rows (u64 img 16) (min (u32 img 24) 65536) 64).map fun e => { entry := e, pieces := [], init := slice img (u64 e 24) (u64 e 32) },
    ops := rows (u64 img 32) (min (u32 img 28) 1048576) 256, passes := rows (u64 img 72) (min (u16 img 80) 4) 64,
    sem := slice img (u64 img 40) 64, layout := slice img (u64 img 48) (64 + lats), tide := slice img (u64 img 56) 64,
    engines := rows (u64 img 64) 40 16, passBlock := u64 img 88, tokenBuf := u64 img 96, tokenCap := u32 img 104, digest := [], jobP := jobP }

/-- The objects that the header locates, with the offset of the field that does: offset and bytes. -/
def headerObjects (img : Bytes) (p : Plan) : List (Nat × Nat × Nat) :=
  [(16, u64 img 16, 64 * u32 img 24), (32, u64 img 32, 256 * u32 img 28), (40, u64 img 40, 64), (48, u64 img 48, p.layout.length),
   (56, u64 img 56, 64), (64, u64 img 64, 640), (72, u64 img 72, 64 * u16 img 80)]

/-- A range of virtual addresses lies in one buffer. -/
def Plan.within (p : Plan) (va len : Nat) : Bool := match p.bufAt va with | some x => decide (va + len ≤ bufVaddr x.entry + bufBytes x.entry) | none => false

/-- A range lies in one buffer of a kind. -/
def Plan.withinKind (p : Plan) (kind va len : Nat) : Bool :=
  match p.bufAt va with | some x => bufKind x.entry == kind && decide (va + len ≤ bufVaddr x.entry + bufBytes x.entry) | none => false

/-- Checks of the header (R101).  A misaligned OP_OFF is a finding on the header's field (log 32). -/
def headerChecks (img : Bytes) (p : Plan) : List Chk :=
  let body := u64 img 8
  let os := headerObjects img p
  [(1, 4, u32 img 4 == 1), (1, 82, zeros img 82 6), (1, 108, zeros img 108 148),
   (0x1B, 0, slice img 0 4 == [0x4E, 0x56, 0x50, 0x4C]), (0x1B, 8, decide (256 ≤ body ∧ body ≤ img.length)),
   (0x1B, 24, decide (1 ≤ u32 img 24 ∧ u32 img 24 ≤ 65536)), (0x1B, 28, decide (1 ≤ u32 img 28 ∧ u32 img 28 ≤ 1048576)),
   (0x1B, 80, decide (1 ≤ u16 img 80 ∧ u16 img 80 ≤ 4))] ++
  (os.zipIdx.map fun (o, i) => (0x1B, o.1, decide (o.2.1 % 64 = 0 ∧ 256 ≤ o.2.1 ∧ o.2.1 + o.2.2 ≤ body) &&
    ((os.take i).all fun q => decide (q.2.1 + q.2.2 ≤ o.2.1 ∨ o.2.1 + o.2.2 ≤ q.2.1)))) ++
  [(0x1B, 88, decide (p.passBlock % 256 = 0) && (match p.bufAt p.passBlock with
      | some x => bufTier x.entry == 3 && bufDie x.entry == 0 && decide (p.passBlock + 256 ≤ bufVaddr x.entry + bufBytes x.entry) | none => false)),
   (0xB, 32, u64 img 32 % 256 == 0),
   (0x1B, 96, if p.tokenBuf = 0 then p.tokenCap == 0 else decide (p.tokenBuf % 64 = 0) && p.within p.tokenBuf (4 * p.tokenCap))]

/-! ## Buffers (R102) -/

/-- First and end of the range that holds a tier's resident buffer. -/
def residentRange (e : Bytes) : Nat × Nat :=
  if bufTier e = 2 then (scratchBase + bufCove e * scratchSize, scratchBase + (bufCove e + 1) * scratchSize)
  else (lagoonBase + bufDie e * lagoonSize, lagoonBase + (bufDie e + 1) * lagoonSize)

/-- A tier is allowed for a kind (Table 03-22). -/
def tierOfKind (kind tier : Nat) : Bool :=
  match kind with | 0 | 6 => true | 4 | 5 => tier == 3 | _ => decide (tier ≤ 1)

/-- Module slots of the job on this board. -/
def Block.jobSlot (b : Block) (slot : Nat) : Bool :=
  slot == b.slot || (List.range b.ctl.links.fabric.ranks.length).any fun r => b.ctl.onBoard r && b.ctl.slotOfRank r == slot

/-- Checks of buffer entry i (R102).  A peer alias in the address range of another module's scratch or lagoon has no place of its own to be
held to (log 32). -/
def bufferChecks (b : Block) (img : Bytes) (p : Plan) (i : Nat) (x : Buf) : List Chk :=
  let e := x.entry
  let v := bufVaddr e
  let n := bufBytes e
  let tier := bufTier e
  let kind := bufKind e
  let before := p.bufs.take i
  let onDie := fun (y : Buf) => bufTier y.entry == 3 && bufKind y.entry != 6 && bufDie y.entry == bufDie e
  let upToHere := (((before ++ [x]).filter onDie).map fun y => bufBytes y.entry).sum
  let total := ((p.bufs.filter onDie).map fun y => bufBytes y.entry).sum
  let (lo, hi) := residentRange e
  let chip := decide (2 ≤ tier) && kind != 6
  let named := p.bufs[u16 e 54]?
  let initial := kind == 0 || kind == 1 || kind == 5 || kind == 7
  [(1, 16, decide (kind ≤ 7)), (1, 17, decide (tier ≤ 3)), (1, 18, decide (u8 e 18 < 4)), (1, 22, zeros e 22 2), (1, 53, zeros e 53 1), (1, 56, zeros e 56 8),
   (0xA, 0, kind != 2 || v % 8192 == 0), (0x10, total, !(onDie x) || decide (upToHere ≤ lagoonSize)),
   (0x10, 0, !(chip && tier == 2) || decide (v + n ≤ lo + systemArea ∨ hi ≤ v)),
   (0x13, 0, decide (v + n ≤ windowBase)),
   (0x1C, 0, !chip || decide (lo ≤ v ∧ v + n ≤ hi)),
   (0x1C, 0, chip || (decide (v % 8192 = 0) && decide (v + n ≤ scratchBase ∨ 0x0F2000000000 ≤ v) &&
      (fld p.layout 24 8 == 0 || decide (v + n ≤ fld p.layout 16 8)))),
   (0x1C, 0, before.all fun y => decide (bufVaddr y.entry + bufBytes y.entry ≤ v ∨ v + n ≤ bufVaddr y.entry)),
   (0x1C, 8, n % 64 == 0 && (decide (2 ≤ tier) || n % 8192 == 0)),
   (0x1C, 17, tierOfKind kind tier),
   (0x1C, 18, (bufReadonly e || !(kind == 1 || kind == 7)) && (!bufReplicated e || decide (kind ≤ 1))),
   (0x1C, 19, if tier = 3 then decide (bufDie e ≤ 1) else bufDie e == 0), (0x1C, 20, if tier = 2 then decide (bufCove e ≤ 511) else bufCove e == 0),
   (0x1C, 24, if initial then decide (u64 e 24 + u64 e 32 ≤ u64 img 8) else u64 e 24 == 0),
   (0x1C, 32, if initial then decide (u64 e 32 ≤ n) else u64 e 32 == 0),
   (0x1C, 40, bufBacking e == 0 || (decide (2 ≤ tier) && decide (kind ≤ 1) && p.bufs.any fun y =>
      bufVaddr y.entry == bufBacking e && bufBytes y.entry == n && bufReadonly y.entry && decide (bufTier y.entry ≤ 1))),
   (0x1C, 48, if kind = 5 then n == 64 + 4 * bufCapacity e else bufCapacity e == 0),
   (0x1C, 52, if kind = 6 then b.jobSlot (u8 e 52) else u8 e 52 == 0),
   (0x1C, 8, kind != 6 || (match named with | some y => bufBytes y.entry == n | none => true)),
   (0x1C, 17, kind != 6 || (match named with | some y => bufTier y.entry == tier | none => true)),
   (0x1C, 54, if kind = 6 then (match named with | some y => bufKind y.entry != 6 | none => false) else u16 e 54 == 0)]

/-! ## Semaphore range, layout, Tideway, engines, passes -/

/-- Checks of the semaphore range object (R285, R286). -/
def semChecks (p : Plan) : List Chk :=
  let o := p.sem
  let n := u16 o 2 + u16 o 6
  [(1, 16, zeros o 16 48), (7, 2, u16 o 2 == 0 || decide (u16 o 0 + u16 o 2 ≤ 16256)),
   (7, 4, u16 o 6 == 0 || decide (16384 ≤ u16 o 4)), (7, 6, u16 o 6 == 0 || decide (u16 o 4 + u16 o 6 ≤ 32640)),
   (7, 8, n == 0 || (decide (u64 o 8 % 64 = 0) && p.within (u64 o 8) (4 * n) && match p.bufAt (u64 o 8) with | some x => bufReadonly x.entry | none => false))]

/-- Checks of the layout descriptor and the pools (R144, R149 to R151, R159, R235). -/
def layoutChecks (b : Block) (p : Plan) : List Chk :=
  if !p.hasSeqs then []
  else
    let o := p.layout
    let s := u64 o 16
    let n := u64 o 24
    let kind := u8 o 0
    let on := (List.range b.ctl.jobP).all b.ctl.onBoard
    [(1, 0, decide (kind ≤ 3)), (1, 6, decide (u8 o 6 ≤ 1)), (1, 7, zeros o 7 1), (1, 40, zeros o 40 24),
     (0x1E, 1, if kind = 2 then u8 o 1 == 3 || u8 o 1 == 4 else u8 o 1 == 0),
     (0x1E, 2, if kind ≤ 1 then u16 o 2 == 1 else decide (1 ≤ u16 o 2)), (0x1E, 2, decide (u16 o 2 * u16 o 4 ≤ 4096)), (0x1E, 4, decide (1 ≤ u16 o 4)),
     (0x1E, 6, u8 o 6 == 0 || (decide (2 ≤ kind) && u16 o 2 % b.ctl.jobP == 0 && decide (b.ctl.jobP ≤ 8) && on)),
     (0x1E, 8, decide (u64 o 8 % 8192 = 0) && p.within (u64 o 8) 0x40000),
     (0x1E, 16, decide (s % 2 ^ 33 = 0 ∧ s + n ≤ windowBase) && decide (s + n ≤ scratchBase ∨ 0x0F2000000000 ≤ s) &&
       p.bufs.all fun x => decide (bufVaddr x.entry + bufBytes x.entry ≤ s ∨ s + n ≤ bufVaddr x.entry)),
     (0x1E, 24, decide (0 < n ∧ n % 2 ^ 33 = 0)),
     (0x1E, 32, (p.bufs.any fun x => bufKind x.entry == 2) && p.bufs.any fun x => bufKind x.entry == 3)] ++
    (if kind = 0 then (List.range (o.length - 64)).map fun i => (0x1E, 64 + i, decide (u8 o (64 + i) ≤ 254)) else [])

/-- Ring slots of the plan's form. -/
def Plan.ringSlots (p : Plan) : Nat := if p.fold then 6 else 3

/-- Checks of the Tideway descriptor (R188, R192, R487). -/
def tideChecks (b : Block) (p : Plan) : List Chk :=
  if !p.hasTide then [(0x19, 0, !p.hasSeqs || p.byHead || b.ctl.jobP == 1)]
  else
    let o := p.tide
    [(1, 2, decide (u8 o 2 ≤ 1)), (1, 3, zeros o 3 1), (1, 12, zeros o 12 4), (1, 24, zeros o 24 40), (0x19, 0, u16 o 0 == b.ctl.jobP),
     (0x19, 4, decide (4 ≤ p.chunk ∧ p.chunk % 4 = 0)), (0x19, 8, decide (2 * p.chunk ≤ u32 o 8)),
     (0x19, 16, (List.range p.ringSlots).all fun j => p.withinKind 4 (p.slotAddr j) p.slotBytes)]

/-- Checks of engine settings entry e (R279). -/
def engineChecks (e : Nat) (o : Bytes) : List Chk :=
  [(0x1A, 0, decide (u8 o 0 ≤ 1)), (0x1A, 1, if bit (u8 o 1) 7 then bits (u8 o 1) 6 4 == 0 else u8 o 1 == 0), (0x1A, 2, decide (u16 o 2 ≤ 1000)),
   (0x1A, 4, zeros o 4 4), (0x1A, 8, if e < 32 then decide (u64 o 8 < 2 ^ 32) else decide (u64 o 8 < 2 ^ 56))]

/-- Least PLAN_MAX M of the ATTN_DECODE records of a pass's range. -/
def Plan.leastM (p : Plan) (first n : Nat) : Option Nat :=
  (((p.ops.drop first).take n).filter fun r => rOp r == opDecode).foldl (fun m r =>
    match m with | none => some (rMax r).1 | some k => some (min k (rMax r).1)) none

/-- Checks of pass entry i (R103). -/
def passChecks (p : Plan) (i : Nat) (o : Bytes) : List Chk :=
  let kind := u8 o 0
  let first := u32 o 4
  let n := u32 o 8
  let most := u32 o 12
  let before := p.passes.take i
  [(1, 0, decide (kind ≤ 3)), (1, 2, zeros o 2 2), (1, 48, zeros o 48 16)] ++
  ((List.range 4).flatMap fun k =>
    let w := u64 o (16 + 8 * k)
    let used := decide (k < u8 o 1)
    [(1, 16 + 8 * k, if used then bits w 31 15 == 0 && !bit w 63 else w == 0),
     (0x1D, 16 + 8 * k, !used || (inSemRange p.sem (entrySem w) && entryAmount w != 0))]) ++
  [(0x1D, 0, before.all fun q => u8 q 0 != kind), (0x1D, 1, decide (1 ≤ u8 o 1 ∧ u8 o 1 ≤ 4)),
   (0x1D, 4, decide (first + n ≤ p.ops.length) && before.all fun q => decide (u32 q 4 + u32 q 8 ≤ first ∨ first + n ≤ u32 q 4)),
   (0x1D, 8, decide (1 ≤ n)),
   (0x1D, 12, match kind with
      | 0 => most == 0
      | 1 => decide (1 ≤ most ∧ most ≤ 65536 ∧ most ≤ p.tokenCap)
      | 2 => decide (1 ≤ most ∧ most ≤ (p.leastM first n).getD 65536 ∧ most ≤ p.tokenCap)
      | _ => most == 1 && decide (1 ≤ p.tokenCap))]

/-! ## Operation records -/

/-- Checks 0x0001 on bytes 1 to 103 and 0x0002. -/
def commonReserved (r : Bytes) : List Chk :=
  ((List.range 4).flatMap fun k =>
    let w := u64 r (32 + 8 * k)
    let s := u64 r (64 + 8 * k)
    [(1, 32 + 8 * k, if k < u8 r 6 then bits w 31 15 == 0 && !bit w 63 else w == 0),
     (1, 64 + 8 * k, if k < u8 r 7 then bits s 31 20 == 0 && !bit s 63 && !bit s 15 && (bit s 19 || bits s 18 16 == 0) else s == 0)]) ++
  [(1, 96, decide (u64 r 96 < 2 ^ 23)), (2, 0, [opGemm, opGrouped, opPrefill, opDecode, opMerge, opRecompute, opKernel, opXfer, opTide].contains (rOp r))]

/-- FLAGS bits that an opcode has, and its reserved byte ranges within 104 to 255. -/
def ownReserved (r : Bytes) : Nat × List (Nat × Nat) :=
  let op := rOp r
  if op = opGemm then (8, [(175, 1), (196, 4), (206, 2), (216, 40)])
  else if op = opGrouped then (8, [(175, 1), (196, 4), (212, 4), (232, 24)])
  else if op = opMerge then (32, [(116, 4), (132, 4), (144, 112)])
  else if op = opKernel then (1, [(113, 3), (176, 80)])
  else if op = opXfer then (1, [(106, 6), (120, 136)])
  else if op = opTide then (8, [(140, 4), (182, 2), (188, 4), (208, 48)])
  else (64, [])

/-- Checks 3 to 8, common to all opcodes. -/
def commonChecks (b : Block) (p : Plan) (r : Bytes) : List Chk :=
  let (m, n, k) := rMax r
  let (first, count, stride) := rSet r
  [(4, 8, decide (u64 r 8 < 2 ^ 60 ∧ 1 ≤ m ∧ 1 ≤ n ∧ 1 ≤ k) && (rOp r != opXfer || (m, n, k) == (1, 1, 1))),
   (5, 5, decide (rSrc r ≤ 2) && (rSrc r != 1 || count == 1)),
   (5, 16, match rSrc r with | 0 => decide (rShape r < 2 ^ 60) | 1 => decide (rShape r < 16) | _ => decide (rShape r % 8 = 0) && p.within (rShape r) 8),
   (6, 6, decide (u8 r 6 ≤ 4)), (6, 7, decide (u8 r 7 ≤ 4)), (8, 96, decide (first + (count - 1) * stride ≤ 511))] ++
  ((recWaits r).zipIdx.flatMap fun (e, i) => [(6, 32 + 8 * i, entryAmount e != 0), (7, 32 + 8 * i, inSemRange p.sem (entrySem e))]) ++
  ((recSignals r).zipIdx.flatMap fun (e, i) => [(6, 64 + 8 * i, entryAmount e != 0),
    (7, 64 + 8 * i, inSemRange p.sem (entrySem e) && (!bit e 19 || b.jobSlot (bits e 18 16)))])

/-- A format byte is legal for an array operand, or for an output (Table 02-4). -/
def fmtLegal (o out : Bool) (f : Nat) : Bool :=
  let c := f % 16
  let m := f / 16
  match c with
  | 0 => out && o && (m == 0 || m == 2)
  | 1 | 2 => m == 0 || m == 2
  | 3 | 4 | 7 => decide (m ≤ 2)
  | 5 | 6 => m == 1
  | _ => false

/-- A and B form a legal pair (R27). -/
def pairLegal (a c : Nat) : Bool := (a == 7) == (c == 7) && !((a == 1 && c == 2) || (a == 2 && c == 1))

/-- Bytes of an MX32 or per-row scale array: rows, row bytes, and the stride rule (R88). -/
def scaleOk (fmt stride rowLen : Nat) : Bool := if fmt / 16 = 1 then decide (stride % 64 = 0 ∧ rowLen ≤ stride) else stride == 0

/-- Extent of rows of bytes at a stride. -/
def rowsExtent (rows stride row : Nat) : Nat := (rows - 1) * stride + row

/-- Extent of a scale array. -/
def scaleExtent (fmt rows stride rowLen : Nat) : Nat := if fmt / 16 = 1 then rowsExtent rows stride rowLen else 4 * rows

/-- The resident lagoon buffers keep clear of a range. -/
def Plan.lagoonClear (p : Plan) (a n : Nat) : Bool :=
  p.bufs.all fun x => bufTier x.entry != 3 || bufKind x.entry == 6 || decide (bufVaddr x.entry + bufBytes x.entry ≤ a ∨ a + n ≤ bufVaddr x.entry)

/-- SEQ is a sequence, or binds the record. -/
def seqOk (r : Bytes) (o : Nat) : Bool := decide (u16 r o < 4096) || u16 r o == 0xFFFF

/-- Checks of a GEMM or GEMM_GROUPED (checks 3, 9 to 0x15). -/
def gemmChecks (p : Plan) (r : Bytes) : List Chk :=
  let (m, n, k) := rMax r
  let fa := u8 r 2
  let fb := u8 r 3
  let fo := u8 r 4
  let grouped := rOp r == opGrouped
  let experts := if grouped then u16 r 210 else 1
  let app := gAppend r
  let (ms, ns) := scratchTile (gScratch r)
  let (ml, nl) := lagoonTile (gLagoon r)
  let rowA := rowBytes (fa % 16) k
  let rowB := rowBytes (fb % 16) k
  let rowO := rowBytes (fo % 16) n
  let dies := fun (d : Nat) => (rCoves r).any fun c => dieOf c == d
  let stage := fun (d o : Nat) =>
    let a := u64 r o
    let size := u32 r 192 * 1024
    [(0xA, o, a % 8192 == 0),
     (0xF, if dies d then p.stageNeed r d else 0, if dies d then decide (lagoonBase + d * lagoonSize ≤ a ∧ a + size ≤ lagoonBase + (d + 1) * lagoonSize) &&
       p.lagoonClear a size && decide (p.stageNeed r d ≤ size) else a == 0)]
  let al := fun (o : Nat) => u64 r o % 64 == 0
  [(1, 170, !bit (u8 r 170) 7), (1, 171, decide (u8 r 171 < 64)), (1, 174, decide (1 ≤ u8 r 174 ∧ u8 r 174 ≤ 16)),
   (3, 2, fmtLegal false false fa && pairLegal (fa % 16) (fb % 16)), (3, 3, fmtLegal false false fb), (3, 4, fmtLegal true true fo),
   (9, 104, al 104), (9, 112, al 112), (9, 120, al 120),
   (9, 128, decide (u32 r 128 % 64 = 0 ∧ rowA ≤ u32 r 128)), (9, 132, decide (u32 r 132 % 64 = 0 ∧ rowB ≤ u32 r 132)),
   (9, 136, app || decide (u32 r 136 % 64 = 0 ∧ rowO ≤ u32 r 136)),
   (9, 140, if fa / 16 = 0 then u64 r 140 == 0 else al 140), (9, 148, if fb / 16 = 0 then u64 r 148 == 0 else al 148),
   (9, 156, if fo / 16 = 0 then u64 r 156 == 0 else al 156),
   (9, 164, scaleOk fa (u16 r 164) (ceilDiv k 32)), (9, 166, scaleOk fb (u16 r 166) (ceilDiv k 32)), (9, 168, scaleOk fo (u16 r 168) (ceilDiv n 32)),
   (9, 200, !grouped || al 200), (9, 216, !grouped || decide (u64 r 216 % 64 = 0 ∧ rowB ≤ u64 r 216)),
   (9, 224, !grouped || (if fb / 16 = 0 then u64 r 224 == 0 else decide (u64 r 224 % 64 = 0 ∧ (if fb / 16 = 1 then ceilDiv k 32 else 4) ≤ u64 r 224))),
   (0xA, 204, grouped || u16 r 204 % 64 == 0),
   (0xC, 104, p.within (u64 r 104) (rowsExtent m (u32 r 128) rowA)),
   (if grouped then 0x15 else 0xC, 112, p.within (u64 r 112) ((experts - 1) * u64 r 216 * (if grouped then 1 else 0) + rowsExtent n (u32 r 132) rowB)),
   (0xC, 120, app || p.within (u64 r 120) (rowsExtent m (u32 r 136) rowO)),
   (0xC, 140, fa / 16 == 0 || p.within (u64 r 140) (scaleExtent fa m (u16 r 164) (ceilDiv k 32))),
   (if grouped then 0x15 else 0xC, 148, fb / 16 == 0 ||
      p.within (u64 r 148) ((experts - 1) * u64 r 224 * (if grouped then 1 else 0) + scaleExtent fb n (u16 r 166) (ceilDiv k 32))),
   (0xC, 156, fo / 16 == 0 || p.within (u64 r 156) (scaleExtent fo m (u16 r 168) (ceilDiv n 32))),
   (0xC, 200, !grouped || p.within (u64 r 200) (8 + 16 * u16 r 208)),
   (0xD, 170, decide (gScratch r ≤ 4 ∧ gLagoon r ≤ 4) && ml % ms == 0 && nl % ns == 0),
   (0x11, 171, if gOrder r then decide (u8 r 171 % 8 ≤ 5 ∧ u8 r 171 / 8 % 8 ≤ 5) && (rCoves r).all (fun c => c % 16 == 0) else u8 r 171 == 0),
   (0x12, 24, if gTail r then (match p.bufAt (rCtr r) with
        | some x => bufKind x.entry == 5 && bufVaddr x.entry == rCtr r && decide (u16 r 172 * ceilDiv n ns ≤ bufCapacity x.entry) | none => false)
      else rCtr r == 0),
   (0x12, 172, gTail r || u16 r 172 == 0),
   (0x14, 1, !rFlag r 0 || (!grouped && p.hasSeqs)), (0x14, 120, !app || u64 r 120 == 0), (0x14, 136, !app || u32 r 136 == 0),
   (0x14, 200, grouped || if app then seqOk r 200 else u16 r 200 == 0), (0x14, 202, grouped || if app then decide (u16 r 202 < p.layers) else u16 r 202 == 0),
   (0x14, 204, grouped || if !app then u16 r 204 == 0 else
      (let o := u16 r 204
       let kf := u8 p.layout 1
       match u8 p.layout 0 with
       | 0 => (o == 0 && n == 384 && (fo == 3 || fo == 0x23)) || (o == 384 && n == 64 && fo == 1)
       | 1 => (o == 0 && n == 192 && fo == 1) || (o == 384 && n == 64 && fo == 1)
       | 2 => fo == kf && ((o % 128 == 0 && decide (o ≤ 384) && n == 128) || ((o == 0 || o == 256) && n == 256) || (o == 0 && n == 512))
       | _ => fo == 1 && (((o == 0 || o == 256) && n == 128) || (o == 0 && n == 256)))),
   (0x14, 208, grouped || app || u64 r 208 == 0),
   (0x15, 208, !grouped || decide (1 ≤ u16 r 208 ∧ u16 r 208 ≤ 4096)), (0x15, 210, !grouped || decide (1 ≤ u16 r 210 ∧ u16 r 210 ≤ 4096))] ++
  stage 0 176 ++ stage 1 184

/-- Checks of a KERNEL (R95). -/
def kernelChecks (p : Plan) (r : Bytes) : List Chk :=
  let n := u8 r 112
  let size := u32 r 116
  let base := u64 r 120
  [(3, 2, u8 r 2 == 0), (3, 3, u8 r 3 == 0), (3, 4, u8 r 4 == 0), (0x12, 24, rCtr r == 0), (0x16, 104, decide (u64 r 104 % 64 = 0) && p.withinKind 1 (u64 r 104) 4), (0x16, 112, decide (1 ≤ n ∧ n ≤ 4)),
   (0x16, 116, size % 64 == 0), (0x16, 120, if size = 0 then base == 0 else decide (windowBase ≤ base ∧ base + n * size ≤ windowBase + systemArea))]

/-- Channels that a plan may name on an engine (R251, Table 03-16). -/
def planChannel (e ch : Nat) : Bool := decide ((e < 32 ∧ ch < 16) ∨ (32 ≤ e ∧ e < 40 ∧ ch < 28))

/-- Checks of an XFER (R97). -/
def xferChecks (r : Bytes) : List Chk :=
  [(3, 2, u8 r 2 == 0), (3, 3, u8 r 3 == 0), (3, 4, u8 r 4 == 0), (0xB, 112, u64 r 112 % 256 == 0), (0x12, 24, rCtr r == 0), (0x17, 96, rCount r == 1),
   (0x17, 104, decide (u8 r 104 < 40)), (0x17, 105, planChannel (u8 r 104) (u8 r 105))]

/-- LEN_ADDR of a record lies in the sequence table, or is the bind value in a bound record. -/
def lenOk (p : Plan) (r : Bytes) (seqAt at' : Nat) : Bool :=
  let a := u64 r at'
  (u16 r seqAt == 0xFFFF && a == 0xFFFFFFFFFFFFFFC0) || decide (fld p.layout 8 8 ≤ a ∧ a + 8 ≤ fld p.layout 8 8 + 0x40000 ∧ a % 8 = 0)

/-- The cache of 256 pages lies in one die's lagoon. -/
def Plan.cacheOk (p : Plan) (a : Nat) : Bool := p.tierAt a == 3 && p.within a (256 * 8192)

/-- Query rows of PLAN_MAX. -/
def attnRows (r : Bytes) : Nat := (rMax r).1 * aHeads r

/-- Check 0x0003 of an attention record: format bytes that name no format, no mode or no legal combination of Table 02-4. -/
def attnFormats (r : Bytes) : List Chk :=
  [(3, 2, fmtLegal false false (u8 r 2) && pairLegal (u8 r 2 % 16) (u8 r 3 % 16)), (3, 3, fmtLegal false false (u8 r 3)), (3, 4, fmtLegal true true (u8 r 4))]

/-- Checks of ATTN_MERGE (R133). -/
def mergeChecks (p : Plan) (r : Bytes) : List Chk :=
  let (m, n, k) := rMax r
  let part := rFlag r 0
  let rb := 64 + 4 * n
  let fo := u8 r 4
  let row := rowBytes (fo % 16) n + (if fo / 16 = 1 then n / 32 else if fo / 16 = 2 then 4 else 0)
  [(3, 4, fmtLegal true true fo), (0x18, 0, p.hasSeqs), (9, 104, u64 r 104 % 64 == 0), (9, 112, u32 r 112 % 64 == 0), (9, 120, u64 r 120 % 64 == 0),
   (9, 128, part || decide (u32 r 128 % 64 = 0 ∧ rowBytes (fo % 16) n ≤ u32 r 128)), (9, 136, u64 r 136 % 64 == 0),
   (0xC, 104, p.within (u64 r 104) (rowsExtent k (u32 r 112) (m * rb))),
   (0xC, 120, p.within (u64 r 120) (if part then m * rb else rowsExtent m (u32 r 128) row)),
   (0xC, 136, !rFlag r 4 || p.within (u64 r 136) (4 * m)),
   (0x12, 24, rCtr r == 0), (1, 1, bits (u8 r 1) 3 1 == 0), (0x18, 1, !(part && rFlag r 4)), (0x18, 136, rFlag r 4 || u64 r 136 == 0), (0x18, 2, u8 r 2 == 0), (0x18, 3, u8 r 3 == 0),
   (0x18, 4, if part then fo == 0 else fmtLegal true true fo && (fo / 16 != 1 || n % 32 == 0)),
   (0x18, 8, decide (n % 16 = 0 ∧ n ≤ 384 ∧ k ≤ 4096)), (0x18, 112, decide (m * rb ≤ u32 r 112) || k == 1),
   (0x18, 128, if part then u32 r 128 == 0 else decide (row ≤ u32 r 128))]

/-- Checks of ATTN_PREFILL, ATTN_DECODE and ATTN_RECOMPUTE (Table 04-11). -/
def attnChecks (p : Plan) (r : Bytes) : List Chk :=
  let (m, _, k) := rMax r
  let op := rOp r
  let kind := aKind r
  let re := op == opRecompute
  let fo := u8 r 4
  let rows := attnRows r
  let rb := aRb r
  let split := aKsplit r
  let bound := u16 r 116 == 0xFFFF
  let row := rowBytes (fo % 16) (aDv r) + (if fo / 16 = 1 then aDv r / 32 else if fo / 16 = 2 then 4 else 0)
  let src := aKeySrc r
  let off := u64 r 160 - windowBase
  let q := u32 r 216
  let state := fun (o : Nat) (on : Bool) => if on then p.within (u64 r o) (rows * rb) else u64 r o == 0
  let kv := re && u8 r 229 == 1
  let keys := (rMax r).2.1 * 2048 - u32 r 240
  let plain := !split && !aStateOut r
  let slots := fun (a : Nat) => (p.bufs.any fun x => bufKind x.entry == 4 && bufVaddr x.entry == a) || (p.hasTide && (List.range p.ringSlots).any fun j => p.slotAddr j == a)
  attnFormats r ++ [(9, 104, u64 r 104 % 64 == 0), (9, 112, decide (u32 r 112 % 64 = 0 ∧ rowBytes (u8 r 2 % 16) k ≤ u32 r 112)), (9, 128, u64 r 128 % 64 == 0),
   (9, 136, !plain || decide (u32 r 136 % 64 = 0 ∧ rowBytes (fo % 16) (aDv r) ≤ u32 r 136)), (9, 144, u64 r 144 % 64 == 0), (9, 152, u64 r 152 % 64 == 0),
   (9, 232, u64 r 232 % 64 == 0), (9, 248, u64 r 248 % 64 == 0), (0xC, 104, p.within (u64 r 104) (rowsExtent rows (u32 r 112) (rowBytes (u8 r 2 % 16) k))),
   (0xC, 128, !plain || kv || p.within (u64 r 128) (rowsExtent rows (u32 r 136) row)), (0xC, 144, !(aLse r || re) || p.within (u64 r 144) (4 * rows)),
   (0x18, 144, aLse r || re || u64 r 144 == 0),
   (0x18, 168, if op = opPrefill ∨ op = opDecode then decide (kind ≤ 3) else kind == 3),
   (0x18, 1, decide (u8 r 1 < 64) && (op == opDecode || !rFlag r 5) && (!split || !(aStateIn r || aStateOut r || aLse r)) && !(aLse r && aStateOut r) &&
      (!re || (!split && !aStateIn r && !aStateOut r && !aLse r && aPBf16 r))),
   (0x18, 2, match kind with | 0 => u8 r 2 == 3 | 2 => u8 r 2 == 3 || u8 r 2 == 4 | _ => u8 r 2 == 1),
   (0x18, 3, match kind with | 0 => u8 r 3 == 3 | 2 => u8 r 3 == u8 p.layout 1 | _ => u8 r 3 == 1),
   (0x18, 4, if split || aStateOut r then fo == 0 else if re then fo == 0 || fo == 1 else fmtLegal true true fo && (fo / 16 != 1 || aDv r % 32 == 0)),
   (0x18, 8, k == aDqk r), (0x12, 24, rCtr r == 0), (0x18, 116, seqOk r 116 && p.hasSeqs), (0x18, 118, decide (u16 r 118 < p.layers)),
   (0x18, 120, if src ≤ 1 then lenOk p r 116 120 else u64 r 120 == 0 || lenOk p r 116 120),
   (0x18, 128, (if split then p.within (u64 r 128) (rowsExtent (u16 r 230 + rCount r) (u32 r 140) (rows * rb))
      else if aStateOut r then u64 r 128 == 0 || p.within (u64 r 128) 64
      else !kv || p.within (u64 r 128) (rowsExtent keys (u32 r 136) row))),
   (0x18, 136, if split || aStateOut r then u32 r 136 == 0 else decide (row ≤ u32 r 136)),
   (0x18, 140, if split then decide (rows * rb ≤ u32 r 140 ∧ u32 r 140 % 64 = 0) else u32 r 140 == 0),
   (0x18, 152, if re then (if kv then p.within (u64 r 152) (rowsExtent keys (u32 r 136) row) else u64 r 152 == 0) else state 152 (aStateIn r)),
   (0x18, 160, decide (windowBase ≤ u64 r 160 ∧ off % 64 = 0 ∧ off + 256 ≤ systemArea) && (rCoves r).all fun c =>
      match p.bufAt (scratchBase + c * scratchSize + off) with
      | some x => bufTier x.entry == 2 && decide (scratchBase + c * scratchSize + off + 256 ≤ bufVaddr x.entry + bufBytes x.entry) | none => false),
   (0x18, 169, if kind = 0 then decide (u8 r 169 ≤ 254) else u8 r 169 == 127), (0x18, 170, decide (1 ≤ aHeads r ∧ aHeads r ≤ 256)),
   (0x18, 172, if kind ≤ 1 then aGroup r == 0 else decide (1 ≤ aGroup r) && aHeads r == aGroup r * (if kind = 2 then 2 else 1)),
   (0x18, 173, let d := u8 r 173 % 128; decide (2 ≤ d ∧ d ≤ 64 ∧ d % 2 = 0) && (decide (2 ≤ kind) || d == 64)),
   (1, 174, decide (u8 r 174 < 16)), (0x18, 175, if split then u8 r 175 == 0 else decide (1 ≤ u8 r 175)),
   (0x18, 180, if aWindow r then decide (1 ≤ u32 r 180) else u32 r 180 == 0), (0x18, 184, (u64 r 184 != 0) == aGlobal r),
   (0x18, 192, u64 r 192 == 0 || (aGlobal r && p.cacheOk (u64 r 192))), (0x18, 200, (u64 r 200 != 0) == aRagged r),
   (0x18, 208, (src == 2) == slots (u64 r 208)),
   (0x18, 216, bound && u32 r 220 == 0xFFFFFFFF || u32 r 220 == 0 || decide (q + min m (u32 r 220) ≤ 2 ^ 30)),
   (0x18, 220, decide (u32 r 220 ≤ m) || (bound && u32 r 220 == 0xFFFFFFFF)),
   (0x18, 224, decide (m ≤ u32 r 220) || decide (u32 r 224 + (m - u32 r 220) ≤ 2 ^ 30)), (0x18, 228, decide (src ≤ 2) && (!re || src == 0)),
   (0x18, 229, if aExpand r then fmtLegal false false (u8 r 229) && pairLegal (u8 r 229 % 16) (u8 r 3 % 16) else if re then decide (u8 r 229 ≤ 1) else u8 r 229 == 0),
   (0x18, 230, split || u16 r 230 == 0),
   (0x18, 232, if aExpand r then p.within (u64 r 232) (rowsExtent (aHeads r) (u32 r 240) (wuBytes r))
      else if re then p.within (u64 r 232) (rowsExtent rows (u32 r 112) 256) else u64 r 232 == 0),
   (9, 240, !aExpand r || u32 r 240 % 64 == 0),
   (0x18, 240, if aExpand r then decide (wuBytes r ≤ u32 r 240) else if kv then u32 r 240 % 16 == 0 else u32 r 240 == 0),
   (0x18, 244, if re then u32 r 244 != 0 else u32 r 244 == 0),
   (0x18, 248, if re then p.within (u64 r 248) (rowsExtent rows (u32 r 112) 256)
      else state 248 (aStateOut r) && (!(aStateIn r && aStateOut r) || decide (u64 r 152 + rows * rb ≤ u64 r 248 ∨ u64 r 248 + rows * rb ≤ u64 r 152)))]

/-- The pages that a WINDOW step can need (R203): for each of a rank's two chunks, the chunk and the W - 1 pages before it that exist; the
most over the ranks. -/
def Plan.windowNeed (p : Plan) (w : Nat) : Nat :=
  let n := u16 p.tide 0
  ((List.range n).map fun i => (min (w - 1) (i * p.chunk) + p.chunk) + (min (w - 1) ((2 * n - 1 - i) * p.chunk) + p.chunk)).foldl max 0

/-- Checks of a TIDE_STEP (Table 06-7). -/
def tideStepChecks (p : Plan) (r : Bytes) : List Chk :=
  let mode := tMode r
  let n := u16 p.tide 0
  let ring := mode == 0
  let slotOk := fun (o : Nat) (off : Bool) => if off then u8 r o == 0xFF else if !ring then zeros r o 1
    else decide (u8 r o < p.ringSlots) && (!p.fold || u8 r o / 3 == tDir r)
  let buffer := fun (o len : Nat) => decide (u64 r o % 64 = 0) && p.within (u64 r o) len
  let sem := fun (s : Nat) => inSemRange p.sem s
  [(0x19, 104, decide (mode ≤ 4)), (0x19, 0, p.hasTide), (0x19, 2, u8 r 2 == 0), (0x19, 3, u8 r 3 == 0), (0x19, 4, u8 r 4 == 0), (0x19, 8, rMax r == (1, 1, 1)), (0x19, 5, rSrc r == 0), (0x12, 24, rCtr r == 0),
   (0x19, 96, rCount r == 1), (0x19, 1, ring || !tGather r), (0x19, 105, tDir r == 0 || (ring && p.fold && tDir r == 1)),
   (0x19, 106, if ring then decide (tStep r < (if p.fold then 2 * n - 2 else n)) else tStep r == 0),
   (0x19, 108, seqOk r 108 && p.hasSeqs), (0x19, 110, decide (tLayer r < p.layers)), (0x19, 112, lenOk p r 108 112),
   (0x19, 120, if mode = 3 then p.withinKind 4 (u64 r 120) (u32 r 128 * 1024) else u64 r 120 == 0),
   (0x19, 128, if mode = 3 then decide (8 + 8 * p.windowNeed (u32 r 184) ≤ u32 r 128) else u32 r 128 == 0), (0x19, 132, slotOk 132 (tNoTx r)), (0x19, 133, slotOk 133 (tNoRx r)),
   (0x19, 134, (!ring && u16 r 134 == 0) || (sem (u16 r 134) && sem (u16 r 134 + 5))),
   (0x19, 136, (!ring && u16 r 136 == 0) || (sem (u16 r 136) && sem (u16 r 136 + 5))),
   (0x19, 138, if mode = 1 ∨ mode = 2 ∨ mode = 4 then decide (tRoot r < n) else tRoot r == 0),
   (0x19, 144, if mode = 1 ∨ mode = 2 then buffer 144 (u32 r 152) else u64 r 144 == 0), (0x19, 152, mode == 1 || mode == 2 || u32 r 152 == 0),
   (0x19, 156, mode == 1 || u32 r 156 == 0),
   (0x19, 160, if mode = 1 then buffer 160 (576 * (if u32 r 156 = 0xFFFFFFFF then p.maxTokens 2 else u32 r 156)) || u32 r 156 == 0 else u64 r 160 == 0),
   (0x19, 168, if mode = 2 then buffer 168 (2 * u32 r 176 + u32 r 152) else u64 r 168 == 0), (0x19, 176, if mode = 2 then decide (u32 r 152 ≤ u32 r 176 ∧ u32 r 176 % 64 = 0) else u32 r 176 == 0),
   (0x19, 180, if mode = 1 ∨ mode = 2 ∨ mode = 4 then sem (u16 r 180) else u16 r 180 == 0), (0x19, 184, mode == 3 || u32 r 184 == 0),
   (0x19, 192, (u64 r 192 != 0) == (mode == 3 || mode == 4)), (0x19, 200, if mode = 3 ∨ mode = 4 then p.cacheOk (u64 r 200) else u64 r 200 == 0)]

/-- Checks of operation record i; one that lies in no pass range fails 0x001D (R60).  A reserved value that Table 03-19 names under a check of
its own is reported there and not as 0x0001 (log 32). -/
def opChecks (b : Block) (p : Plan) (i : Nat) (r : Bytes) : List Chk :=
  let op := rOp r
  let own := ownReserved r
  commonReserved r ++ [(1, 1, decide (u8 r 1 < own.1)), (0x1D, 0, p.passes.any fun q => decide (u32 q 4 ≤ i ∧ i < u32 q 4 + u32 q 8))] ++ (own.2.map fun z => (1, z.1, zeros r z.1 z.2)) ++ commonChecks b p r ++
  (if op = opGemm ∨ op = opGrouped then gemmChecks p r else if op = opMerge then mergeChecks p r else if op = opKernel then kernelChecks p r
   else if op = opXfer then xferChecks r else if op = opTide then tideStepChecks p r else attnChecks p r)

/-- Checks of a record of an unlisted opcode (R98). -/
def unlistedChecks (r : Bytes) : List Chk := commonReserved r

/-- The finding of the operation records (R98 step 8). -/
def judgeOps (b : Block) (p : Plan) : Option Bytes :=
  judgeEach 3 p.ops fun i r => if (commonReserved r).any fun c => c.1 == 2 && !c.2.2 then unlistedChecks r else opChecks b p i r

/-- The finding of the cove budgets (R77, R98 step 9). -/
def judgeBudgets (p : Plan) : Option Bytes :=
  (List.range 512).findSome? fun c => p.ops.zipIdx.findSome? fun (r, i) =>
    if usesScratch r && (rCoves r).contains c && decide (scratchBudget < p.workingSet r c + p.residentScratch c) then
      some (findingBytes 7 c (0xE, (p.workingSet r c + p.residentScratch c) % 2 ^ 44 + i % 2 ^ 20 * 2 ^ 44)) else none

/-! ## Longshore programs (R98 step 10, Table 08-16) -/

/-- Bytes of a buffer as the image fills it. -/
def Plan.imageVa (p : Plan) (va len : Nat) : Bytes :=
  match p.bufAt va with
  | none => zeroBytes len
  | some x => (slice x.init (va - bufVaddr x.entry) len ++ zeroBytes len).take len

/-- The instructions of a program up to its first END, at most 4,096. -/
def Plan.programOf (p : Plan) (va : Nat) : Nat → List Bytes
  | 0 => []
  | fuel + 1 =>
    let x := p.imageVa va 16
    if u8 x 0 = 7 then [x] else x :: p.programOf (va + 16) fuel

/-- First instruction of the body of the LOOP at index i. -/
def loopStart (xs : List Bytes) (i : Nat) : Int := (i : Int) + s32 (xs.getD i []) 8

/-- Iterations of the body that holds an instruction; 1 outside every body. -/
def loopTimes (xs : List Bytes) (j : Nat) : Nat :=
  match (List.range xs.length).find? fun i => u8 (xs.getD i []) 0 == 3 && decide (loopStart xs i ≤ j ∧ j < i) with
  | some i => bits (u32 (xs.getD i []) 4) 23 0
  | none => 1

/-- Checks of instruction j of a program. -/
def instrChecks (b : Block) (p : Plan) (system : Bool) (prog : Nat) (xs : List Bytes) (j : Nat) (x : Bytes) : List Chk :=
  let o := 16 * j
  let op := u8 x 0
  let amount := u32 x 8
  let fs := u8 x 1
  let descs := [8, 12].map fun k => (k, (prog : Int) + 64 * s32 x k)
  let at' := fun (k : Nat) => p.imageVa (lsDesc prog x k) 64
  let moving : List Chk :=
    [(0x1A, o + 1, decide (fs < 16 ∧ fs % 4 ≤ 2 ∧ fs / 4 ≤ 2 ∧ fs ≠ 2) && (fs % 4 == 0 || streamLen (at' 8) % 2 ^ (fs / 4 + 1) == 0)), (0x1A, o + 6, zeros x 6 2)] ++
    (descs.map fun (k, a) => (0x1A, o + k, decide (0 ≤ a) && p.withinKind 7 a.toNat 64)) ++
    [(0x1A, o + 12, streamLen (at' 8) == streamLen (at' 12) && decide (streamLen (at' 8) ≤ 2 ^ 40))]
  match op with
  | 1 => moving ++ [(0x1A, o + 3, zeros x 3 3)]
  | 2 => moving ++ [(0x1A, o, system),
      (0x1A, o + 3, u8 x 3 != 0 && (List.range 8).all fun s => !bit (u8 x 3) s || b.jobSlot s), (0x1A, o + 4, inSemRange p.sem (u16 x 4))]
  | 3 => [(0x1A, o + 1, zeros x 1 3 && zeros x 12 4), (0x1A, o + 4, decide (1 ≤ u32 x 4 ∧ u32 x 4 < 2 ^ 24)),
      (0x1A, o + 8, decide (s32 x 8 ≤ -1 ∧ 0 ≤ loopStart xs j) && (List.range j).all fun i => u8 (xs.getD i []) 0 != 3 || decide ((i : Int) < loopStart xs j))]
  | 4 => [(0x1A, o + 1, zeros x 1 3 && zeros x 6 2), (0x1A, o + 4, inSemRange p.sem (u16 x 4)),
      (0x1A, o + 8, decide (1 ≤ amount ∧ amount < 2 ^ 31)), (0x1A, o + 12, decide (u32 x 12 < 2 ^ 31 ∧ amount + (loopTimes xs j - 1) * u32 x 12 < 2 ^ 31))]
  | 5 => [(0x1A, o + 1, decide (fs < 6)), (0x1A, o + 2, if fs / 2 = 1 then b.jobSlot (u8 x 2) else u8 x 2 == 0), (0x1A, o + 3, zeros x 3 1 && zeros x 12 4),
      (0x1A, o + 4, inSemRange p.sem (u16 x 4)), (0x1A, o + 6, if fs / 2 = 2 then decide (u16 x 6 < b.ctl.jobP) else u16 x 6 == 0),
      (0x1A, o + 8, if bit fs 0 then amount == 0 else decide (1 ≤ amount ∧ amount < 2 ^ 31))]
  | 6 | 7 => [(0x1A, o + 1, zeros x 1 15)]
  | _ => [(0x1A, o, false)]

/-- Lowest and highest address of a descriptor's stream over n iterations. -/
def streamBounds (d : Bytes) (n : Nat) : Int × Int :=
  let base : Int := (u64 d 0 : Int)
  let step := ((n - 1 : Nat) : Int) * (s32 d 12 * 64)
  let spans := step :: (List.range (u8 d 9 - 1)).map fun k => ((bits (u64 d (24 + 8 * k)) 23 0 - 1 : Nat) : Int) * signed 40 (bits (u64 d (24 + 8 * k)) 63 24)
  (spans.foldl (fun a s => a + min s 0) base, spans.foldl (fun a s => a + max s 0) base + (streamRun d : Int))

/-- Checks of a descriptor named by instruction x, as source or destination. -/
def descChecks (b : Block) (p : Plan) (system : Bool) (x d : Bytes) (dest : Bool) (times : Nat) : List Chk :=
  let kind := u8 d 8 % 16
  let dims := u8 d 9
  let mcast := u8 x 0 == 2
  let (lo, hi) := streamBounds d times
  [(0x1A, 8, decide (u8 d 8 < 16 ∧ kind ≤ 4 ∧ kind ≠ 2) && (kind != 3 || (!dest && system && b.fuses.shoal)) && (!(mcast && dest) || kind == 0)),
   (0x1A, 9, decide (1 ≤ dims ∧ dims ≤ 5)), (0x1A, 10, if kind = 1 then decide (u16 d 10 < b.ctl.jobP) else u16 d 10 == 0),
   (0x1A, 16, decide (u64 d 16 < 2 ^ 24 ∧ 1 ≤ u64 d 16)),
   (0x1A, 0, kind != 3 || u64 d 0 % 4096 == 0), (0x1A, 16, kind != 3 || streamRun d % 4096 == 0),
   (0x1A, 0, decide (2 ≤ kind) || (decide (0 ≤ lo) && p.within lo.toNat (hi - lo).toNat))] ++
  ((List.range 4).map fun k =>
    let w := u64 d (24 + 8 * k)
    (0x1A, 24 + 8 * k, if k + 1 < dims then bits w 23 0 != 0 && (kind != 3 || bits w 63 24 % 4096 == 0) else w == 0)) ++ [(0x1A, 56, zeros d 56 8)]

/-- The programs of a plan by address, in the order in which its XFER records first name them. -/
def Plan.programs (p : Plan) : List Nat := ((p.ops.filter fun r => rOp r == opXfer).map fun r => u64 r 112).eraseDups

/-- A program runs on system engines alone. -/
def Plan.onSystem (p : Plan) (prog : Nat) : Bool := p.ops.all fun r => rOp r != opXfer || u64 r 112 != prog || decide (32 ≤ u8 r 104)

/-- The descriptors that a program names, in instruction order: instruction, its index, destination, address. -/
def Plan.named (p : Plan) (prog : Nat) : List (Bytes × Nat × Bool × Nat) :=
  (p.programOf prog 4096).zipIdx.flatMap fun (x, j) =>
    if u8 x 0 = 1 ∨ u8 x 0 = 2 then [(x, j, false, lsDesc prog x 8), (x, j, true, lsDesc prog x 12)] else []

/-- The finding of one program and its descriptors; `descs` are the plan's descriptors, whose places are their INDEX (log 32). -/
def judgeProgram (b : Block) (p : Plan) (index prog : Nat) (descs : List Nat) : Option Bytes :=
  let xs := p.programOf prog 4096
  let system := p.onSystem prog
  let own : List Chk := (0x1A, 0, (List.range xs.length).all fun j => p.withinKind 7 (prog + 16 * j) 16) :: (0x1A, 0, match xs.getLast? with | some x => u8 x 0 == 7 | none => false) ::
    xs.zipIdx.flatMap fun (x, j) => instrChecks b p system prog xs j x
  match judgeObject 4 index own with
  | some f => some f
  | none => (p.named prog).findSome? fun (x, j, dest, a) =>
      judgeObject 5 (descs.idxOf a) (descChecks b p system x (p.imageVa a 64) dest (loopTimes xs j))

/-- The finding of the programs. -/
def judgePrograms (b : Block) (p : Plan) : Option Bytes :=
  let progs := p.programs
  let descs := (progs.flatMap fun a => (p.named a).map fun e => e.2.2.2).eraseDups
  progs.zipIdx.findSome? fun (a, i) => judgeProgram b p i a descs

/-- The first finding of an image (R98); none when the plan passes every check. -/
def Block.verify (b : Block) (img : Bytes) (p : Plan) : Option Bytes :=
  [fun () => judgeObject 0 0 (headerChecks img p), fun () => judgeEach 1 p.bufs (bufferChecks b img p), fun () => judgeObject 2 0 (semChecks p),
   fun () => judgeObject 8 0 (layoutChecks b p), fun () => judgeObject 9 0 (tideChecks b p), fun () => judgeEach 10 p.engines engineChecks,
   fun () => judgeEach 11 p.passes (passChecks p), fun () => judgeOps b p, fun () => judgeBudgets p,
   fun () => judgePrograms b p].findSome? fun f => f ()

end Sys2Proof.Machine
end

