-- ==== Sys2Proof/Machine/PlanLoad.lean ====
section
/-! DEFINITION. LOAD_PLAN, UNLOAD_PLAN and START_JOB: the signature trailer, placement, initial contents, page tables of the plan's
buffers, and the start of a job (R98, R102, R225, R229 to R231, R235, R236, R239, R287, R326, R357, R412, R413, R468, R469, R487). -/

namespace Sys2Proof.Machine

/-! ## The signature trailer (R468, R469) -/

/-- The image carries a signature trailer. -/
def hasTrailer (img : Bytes) : Bool :=
  let t := img.drop (img.length - 512)
  decide (512 ≤ img.length) && slice t 0 4 == [0x50, 0x53, 0x49, 0x47] && u64 t 8 == img.length - 512

/-- The bytes that the digest of a plan image covers. -/
def signedPart (img : Bytes) : Bytes := if hasTrailer img then img.take (img.length - 512) else img

/-- The plan image digest. -/
def planDigest (img : Bytes) : Bytes := sha512 (signedPart img)

/-- An owner slot that is VALID and not REVOKED holds the digest of a key. -/
def Fuses.ownerKey (f : Fuses) (pub : Bytes) : Bool := f.owners.any fun o => o.valid && !o.revoked && o.hash == sha512 pub

/-- The trailer's signature by an owner verifies. -/
def trailerOk (f : Fuses) (img : Bytes) : Bool :=
  let t := img.drop (img.length - 512)
  hasTrailer img && f.ownerKey (slice t 16 132) && ecdsaVerify (slice t 16 132) (signedPart img) (slice t 148 132)

/-- Some owner slot is VALID and not REVOKED. -/
def Fuses.owned (f : Fuses) : Bool := f.owners.any fun o => o.valid && !o.revoked

/-! ## Placement (R225, R229, R231; log 8) -/

/-- Bytes of HBM4 behind each die. -/
def hbmDie : Nat := 0x3E00000000

/-- The pieces of a run placed at an offset of a tier: HBM4 is the two dies one behind the other. -/
def placeRun (tier off : Nat) (r : BlockRun) : List Piece :=
  let n := r.hi - r.lo
  if tier = 1 then [{ vaddr := r.lo, paddr := ddrBase + off, bytes := n }]
  else if hbmDie ≤ off then [{ vaddr := r.lo, paddr := 0x4000000000 + (off - hbmDie), bytes := n }]
  else if off + n ≤ hbmDie then [{ vaddr := r.lo, paddr := off, bytes := n }]
  else [{ vaddr := r.lo, paddr := off, bytes := hbmDie - off }, { vaddr := r.lo + (hbmDie - off), paddr := 0x4000000000, bytes := n - (hbmDie - off) }]

/-- Runs one behind another from an offset: the end, and each run's buffer with its pieces. -/
def placeRuns (tier : Nat) : Nat → List (Nat × BlockRun) → Nat × List (Nat × Piece)
  | off, [] => (off, [])
  | off, (i, r) :: rest =>
    let (z, ps) := placeRuns tier (off + (r.hi - r.lo)) rest
    (z, (placeRun tier off r).map (fun p => (i, p)) ++ ps)

/-- The runs of a tier's buffers, largest blocks first, so that every block is aligned. -/
def tierRuns (bufs : List Buf) (tier : Nat) : List (Nat × BlockRun) :=
  blockShifts.flatMap fun sh => bufs.zipIdx.flatMap fun (x, i) =>
    if bufTier x.entry = tier && bufKind x.entry != 6 then
      ((blockRuns blockShifts (bufVaddr x.entry) (bufVaddr x.entry + bufBytes x.entry)).filter fun r => r.shift == sh).map fun r => (i, r)
    else []

/-- Pieces in ascending VADDR, neighbours joined. -/
def joinPieces (ps : List Piece) : List Piece :=
  (ps.mergeSort fun a c => decide (a.vaddr ≤ c.vaddr)).foldr (fun p rest =>
    match rest with
    | q :: tl => if p.vaddr + p.bytes = q.vaddr ∧ p.paddr + p.bytes = q.paddr then { p with bytes := p.bytes + q.bytes } :: tl else p :: rest
    | [] => [p]) []

/-- The plan with its buffers placed, and the bytes of HBM4 and DDR5 that they take. -/
def Plan.place (p : Plan) : Plan × Nat × Nat :=
  let (h, ps) := placeRuns 0 0 (tierRuns p.bufs 0)
  let (d, qs) := placeRuns 1 0 (tierRuns p.bufs 1)
  let put := fun (x : Buf) (i : Nat) =>
    let e := x.entry
    { x with pieces :=
        if bufKind e = 6 then []
        else if 2 ≤ bufTier e then [{ vaddr := bufVaddr e, paddr := bufVaddr e, bytes := bufBytes e }]
        else joinPieces (((ps ++ qs).filter fun y => y.1 == i).map Prod.snd) }
  ({ p with bufs := p.bufs.zipIdx.map fun (x, i) => put x i }, h, d)

/-- DDR5 that the firmware reserve, the partner mirror and the node map leave to a plan (Table 07-3). -/
def Block.ddrRoom (b : Block) (paired : Bool) : Nat := (b.fwReserve - ddrBase) - (if paired then 2 ^ 39 else 0) - b.ctl.shoal.mapBytes

/-- Two ranges of semaphores meet. -/
def semsMeet (a c : Nat × Nat) : Bool := decide (0 < a.2 ∧ 0 < c.2 ∧ a.1 < c.1 + c.2 ∧ c.1 < a.1 + a.2)

/-- The plan's semaphore ranges and their shifted images keep apart, and clear of firmware's (R413). -/
def shiftApart (sem : Bytes) : Bool :=
  let rs := [(u16 sem 0, u16 sem 2), (u16 sem 4, u16 sem 6)]
  let shifted := rs.map fun r => ((r.1 + 16384) % 32768, r.2)
  shifted.all fun s => (rs ++ [(16256, 128), (32640, 128)]).all fun r => !semsMeet s r

/-- The plan suits a bound module: a mirror region with 16 GiB of records, and semaphores that do not face each other (R413). -/
def Plan.pairFits (p : Plan) : Bool := decide (2 ^ 30 + p.contextBytes + 2 ^ 34 ≤ 2 ^ 39) && shiftApart p.sem

/-! ## Page tables of the plan's buffers (R231, R235, R236) -/

/-- The block sizes that map a peer alias: its own alignment and that of the buffer it names, which lies at the same alignment on every
module (R229, R231). -/
def Plan.aliasShifts (p : Plan) (x : Buf) : List Nat :=
  blockShifts.filter fun s => s == 13 || (match p.bufs[u16 x.entry 54]? with
    | some y => decide (bufTier y.entry < 2) && bufVaddr x.entry % 2 ^ s == bufVaddr y.entry % 2 ^ s | none => false)

/-- The runs of a peer alias, out to whole pages. -/
def Plan.aliasRuns (p : Plan) (x : Buf) : List BlockRun :=
  blockRuns (p.aliasShifts x) (bufVaddr x.entry / 8192 * 8192) (roundUp (bufVaddr x.entry + bufBytes x.entry) 8192)

/-- The runs that the plan's tables map: of HBM4 and DDR5 buffers, and of peer aliases. -/
def Plan.mappedRuns (p : Plan) : List BlockRun :=
  p.bufs.flatMap fun x =>
    if bufKind x.entry = 6 then p.aliasRuns x
    else if 2 ≤ bufTier x.entry then [] else blockRuns blockShifts (bufVaddr x.entry) (bufVaddr x.entry + bufBytes x.entry)

/-- The tables that the plan's own buffers need: level-2, level-3 and level-4 tables, and the shared table of absent entries. -/
def Plan.tableNeed (p : Plan) : Nat :=
  let rs := p.mappedRuns
  let units := fun (sh : Nat) (below : Nat) => ((rs.filter fun r => decide (r.shift < below)).flatMap fun r => unitsOf r.lo r.hi sh).eraseDups.length
  units 43 43 + units 33 33 + units 23 23 + (if p.hasSeqs then 1 else 0)

/-- The part of a run that a piece covers. -/
def cutRun (r : BlockRun) (q : Piece) : BlockRun := { r with lo := max r.lo q.vaddr, hi := min r.hi (q.vaddr + q.bytes) }

/-- A buffer is mapped with the largest blocks (R231). -/
def mapBuf (second : Bool) (x : Buf) : Act :=
  Act.each (blockRuns blockShifts (bufVaddr x.entry) (bufVaddr x.entry + bufBytes x.entry)) fun r => Act.each x.pieces fun q =>
    let c := cutRun r q
    Act.when (decide (c.lo < c.hi)) (mapRun second c (q.paddr + (c.lo - q.vaddr)) (bufTier x.entry) (bufReadonly x.entry))

/-- The tables of a peer alias, whose final entries START_JOB writes (R231). -/
def mapAlias (second : Bool) (x : Buf) : Act :=
  .look fun b => Act.each (b.ctl.plan.aliasRuns x) fun r => Act.each (unitsOf r.lo r.hi (max r.shift 23)) fun u =>
    ensurePath second (u * 2 ^ max r.shift 23) r.shift

/-- The shared table of absent entries of a rank context (R236). -/
def makeAbsent (second : Bool) : Act :=
  .look fun b => Act.opt (b.pickTableIn second) fun f =>
    Act.all [useTable second f, fillTable f absentEntry,
      .upd fun c => if second then { c with pair := { c.pair with absent2 := some f } }
        else { c with fw := { c.fw with alloc := { c.fw.alloc with absent := some f } } }]

/-- The page tables of a plan in the own rank context: an empty level-1 table, then every buffer. -/
def planTables : Act :=
  .look fun b => Act.all [
    .one (.mem (b.root false) (zeroBytes 256)),
    Act.each b.ctl.plan.bufs fun x =>
      if bufKind x.entry = 6 then mapAlias false x else Act.when (decide (bufTier x.entry < 2)) (mapBuf false x),
    Act.when b.ctl.plan.hasSeqs (makeAbsent false)]

/-- The whole translation hierarchy is flushed (R239). -/
def flushAll : Act := dropTlb 0 (2 ^ 64)

/-! ## LOAD_PLAN, UNLOAD_PLAN -/

/-- The loader writes a buffer's initial contents, and zeros behind them (R102). -/
def fillBuf (x : Buf) : Act :=
  let k := bufKind x.entry
  Act.when (k == 0 || k == 1 || k == 5 || k == 7) <|
    let bytes := (x.init ++ zeroBytes (bufBytes x.entry)).take (bufBytes x.entry)
    Act.each x.pieces fun q => .one (.mem q.paddr (slice bytes (q.vaddr - bufVaddr x.entry) q.bytes))

/-- Bytes of the union of ranges. -/
def unionBytes (rs : List (Nat × Nat)) : Nat :=
  let cuts := (rs.flatMap fun r => [r.1, r.1 + r.2]).eraseDups
  (cuts.map fun c =>
    match cuts.foldl (fun m d => if c < d then some (match m with | some k => min k d | none => d) else m) none with
    | some d => if rs.any fun r => decide (r.1 ≤ c ∧ c < r.1 + r.2) then d - c else 0
    | none => 0).sum

/-- The lagoon of a die that a plan claims (R227): its lagoon buffers, tide slots, global page caches and work counters among them, and the
stage regions of its records. -/
def Plan.claims (p : Plan) (die : Nat) : Nat :=
  unionBytes (((p.bufs.filter fun x => bufTier x.entry == 3 && bufKind x.entry != 6 &&
      decide (lagoonBase + die * lagoonSize ≤ bufVaddr x.entry ∧ bufVaddr x.entry < lagoonBase + (die + 1) * lagoonSize)).map fun x =>
      (bufVaddr x.entry, bufBytes x.entry)) ++ p.ops.filterMap fun r => stageOf r die)

/-- The caches under a new plan: what it leaves of the lagoon, written back and empty; no core holds an instruction (R227, R228). -/
def freshCaches (p : Plan) : Act :=
  .upd fun c => { c with engine := { c.engine with
    coves := Tab.mapVals Cove.empty (fun v => { v with icache := [] }) c.engine.coves
    caches := { c.engine.caches with lines := [], claimed := Tab.set 0 (Tab.set 0 [] 0 (p.claims 0)) 1 (p.claims 1) } } }

/-- The placed plan is installed: contents, tables, LOADED. -/
def installPlan (p : Plan) : Act :=
  Act.all [
    .upd fun c => { c with plan := p, fw := { PageFw.empty with nextId := c.fw.nextId, nextKey := c.fw.nextKey }, glb := { c.glb with state := .loaded } },
    Act.each p.bufs fillBuf, planTables, flushAll, freshCaches p]

/-- LOAD_PLAN (R98, R225, R235, R413, R469, R487). -/
def loadPlanAct (id : Nat) : Act :=
  startCmd id 0x02 (fun b _ => inStates [.ready] b && decide (b.ctl.sec.level < 2)) fun x => .look fun b =>
    let img := b.host.read (u64 x.bytes 32) (u64 x.bytes 40)
    let p := parsePlan img b.ctl.jobP
    if b.fuses.owned && !trailerOk b.fuses img then finish id .eAuth []
    else
      match b.verify img p with
      | some f => finish id .eVerify f
      | none =>
        let (q, h, d) := p.place
        let digest := planDigest img
        if 2 * hbmDie < h || b.ddrRoom b.ctl.bound < d || decide (rangeCount q.tableRanges < q.tableNeed) || (b.ctl.bound && !q.pairFits) then
          finish id .eCapacity []
        else (installPlan { q with digest := digest }).seq (finish id .ok (digest.take 8))

/-- UNLOAD_PLAN (R273): plan channels stop, and the plan is gone. -/
def unloadPlanAct (id : Nat) : Act :=
  startCmd id 0x03 (fun b _ => inStates [.loaded] b) fun _ =>
    Act.all [discardPass,
      .upd fun c => { c with plan := Plan.blank, job := Job.blank, glb := { c.glb with state := .ready },
                             fw := { PageFw.empty with nextId := c.fw.nextId, nextKey := c.fw.nextKey } },
      flushAll, finish id .ok []]

/-! ## START_JOB -/

/-- A configured bundle with too few up members: its rank, and the members (R326). -/
def Ctl.shortBundle (c : Ctl) : Option (Nat × Nat) :=
  let f := c.links.fabric
  f.bundles.findSome? fun e =>
    let n := (c.members (f.serialOf e.peer)).length
    if n < e.minLinks then some (e.peer, n) else none

/-- The host regions of START_JOB. -/
def Block.regionTable (b : Block) (cmd : Bytes) : List (Nat × Nat) :=
  (List.range (u8 cmd 56)).map fun i => (b.host.nat (u64 cmd 48 + 16 * i) 8, b.host.nat (u64 cmd 48 + 16 * i + 8) 8)

/-- This module's buffer map, as a board peer gets it for a rank that runs here (R231). -/
def Ctl.bufferMap (c : Ctl) : BufferMapMsg :=
  { slot := c.glb.slot, home := c.glb.slot, rank := c.rank,
    pieces := c.plan.bufs.zipIdx.flatMap fun (x, i) => x.pieces.map fun q => { index := i, vaddr := q.vaddr, paddr := q.paddr, bytes := q.bytes } }

/-- A message to every board peer of the job. -/
def toBoard (m : Msg) : Act :=
  .look fun b => Act.each ((List.range b.ctl.jobP).filter fun r => (b.ctl.servesRank r).isNone && b.ctl.onBoard r) fun r => send (.slot (b.ctl.slotOfRank r)) m

/-- Host command semaphores (R349). -/
def resetHostSems : Act := Act.each (upto 16256 16320) fun s => .one (.semReset s 0)

/-- START_JOB (R231, R239, R287, R326, R331, R357, R412, R414, R426): the job begins, and completes when the buffer maps are in and the START
pass has ended (log 55). -/
def startJobAct (id : Nat) (digest : Bytes) : Act :=
  startCmd id 0x04 (fun b _ => inStates [.loaded] b && decide (b.ctl.sec.level < 2) && b.ctl.jobP == b.ctl.plan.jobP &&
      (b.ctl.pair.role != .bound || digest == [] || digest == b.ctl.plan.digest)) fun x => .look fun b =>
    match b.ctl.shortBundle with
    | some (r, n) => finish id .eLink (leBytes r 2 ++ leBytes n 1)
    | none => if b.ctl.links.fabric.fabric != 0 && !b.ctl.links.fabric.ready then finish id .eLink [] else Act.all [
        discardPass, flushAll, resetSems false true, resetHostSems,
        Act.when b.ctl.plan.hasSeqs (fwWrite (b.ctl.plan.seqEntry 0) (zeroBytes 0x40000)),
        .upd fun c => { c with
          job := { Job.blank with swapAddr := u64 x.bytes 32, swapBytes := u64 x.bytes 40, regions := b.regionTable x.bytes, maps := c.job.maps,
                                  started := c.job.started, starting := some { cmd := id, passDone := false } },
          fw := { c.fw with seqs := [], journal := [] } },
        toBoard (.bufferMap b.ctl.bufferMap), mapAliases b.ctl.bufferMap, startCheck]

/-! ## Meanings -/

/-- LOAD_PLAN. -/
def execLoadPlan (id : Nat) (s : State) : Host.Outcome State Fault Refusal := s.perform (loadPlanAct id)
/-- UNLOAD_PLAN. -/
def execUnloadPlan (id : Nat) (s : State) : Host.Outcome State Fault Refusal := s.perform (unloadPlanAct id)
/-- START_JOB. -/
def execStartJob (id : Nat) (digest : Bytes) (s : State) : Host.Outcome State Fault Refusal := s.perform (startJobAct id digest)

end Sys2Proof.Machine
end

