-- ==== Sys2Proof/Machine/Regs.lean ====
section
/-! DEFINITION. BAR0: what each register reads, and the access rules (chapter 16, R473 to R475). -/

namespace Sys2Proof.Machine

/-! ## Values of the registers -/

/-- STATE code of GLB_STATE; STANDBY has none. -/
def ModState.code : ModState → Nat
  | .standby => 0 | .boot => 1 | .ready => 2 | .loaded => 3 | .running => 4 | .draining => 5 | .degraded => 6 | .resync => 7

/-- A bit as a number. -/
def boolNat (x : Bool) : Nat := if x then 1 else 0

/-- GLB_VERSION (Table 16-2). -/
def Block.regVersion (b : Block) : Nat :=
  0x0096 * 2 ^ 16 + b.fuses.stepLetter.toNat * 2 ^ 12 + b.fuses.stepDigit.toNat * 2 ^ 8 + 1

/-- GLB_CAPS (Table 16-2). -/
def Block.regCaps (b : Block) : Nat :=
  boolNat b.fuses.owned * 2 ^ 20 + verMaxOwn * 2 ^ 16 + b.ctl.glb.ddrRate % 256 * 2 ^ 8 + boolNat (b.ctl.glb.ddrGib == 256) * 8 +
  boolNat b.ctl.glb.ddrMrdimm * 4 + boolNat b.ctl.glb.dualPort * 2 + boolNat b.fuses.shoal

/-- GLB_STATE (Table 16-2). -/
def Block.regState (b : Block) : Nat :=
  boolNat b.ctl.job.inJob * 2 ^ 41 + boolNat b.ctl.bound * 2 ^ 40 + b.slot * 2 ^ 32 + b.ctl.glb.faultUnit % 65536 * 2 ^ 16 +
  b.ctl.glb.bootFault % 256 * 2 ^ 8 + b.ctl.glb.state.code

/-- RING_n_CTRL (Table 16-4). -/
def Ctl.regRingCtrl (c : Ctl) (n : Nat) : Nat :=
  ((c.ring n).ctrl &&& 0x3F1D).toNat + c.inflight n * 2 ^ 16 + boolNat (c.pairRing n) * 32 + boolNat (c.inflight n == 0) * 2

/-- The input power limit in force, in W (R437): the least of 2.9 kW, 54 A at the measured voltage, and CAP_W. -/
def Power.inputLimit (p : Power) : Nat :=
  let v := if p.inputMv = 0 then 2900 else min 2900 (54 * p.inputMv / 1000)
  if p.capW = 0 then v else min v p.capW

/-- PWR_STATE (Table 16-5). -/
def Power.regState (p : Power) : Nat :=
  p.inputLimit % 65536 * 2 ^ 16 + boolNat p.idleOk * 4 + (match p.state with | .idle => 1 | _ => 0)

/-- PWR_REQ: REMOVE reads 1 from the request until REMOVE_OK. -/
def Ctl.regRemove (c : Ctl) : Nat := boolNat (c.power.removal.isSome && !c.pins.removeOk)

/-- The larger of two signed readings. -/
def hotter (a c : BitVec 16) : BitVec 16 := if a.toInt < c.toInt then c else a

/-- A sensor of Table 14-4. -/
def Power.temp (p : Power) (k : Nat) : BitVec 16 := Tab.get 0 p.temps k

/-- MON_TEMP (Table 16-9). -/
def Power.regTemp (p : Power) : Nat :=
  let hbm := (List.range 7).foldl (fun t k => hotter t (p.temp (9 + k))) (p.temp 8)
  hbm.toNat * 2 ^ 32 + (hotter (p.temp 2) (p.temp 3)).toNat * 2 ^ 16 + (hotter (p.temp 0) (p.temp 1)).toNat

/-- MON_COOLANT (Table 16-9). -/
def Power.regCoolant (p : Power) : Nat := (p.temp 17).toNat * 2 ^ 16 + (p.temp 16).toNat

/-- MON_POWER (Table 16-9). -/
def Power.regPower (p : Power) : Nat :=
  p.inputLimit % 65536 * 2 ^ 48 + p.inputMv % 65536 * 2 ^ 32 + p.packageW % 65536 * 2 ^ 16 + p.inputW % 65536

/-- Four occurrence counters in one register (R478). -/
def Lighthouse.regCount (h : Lighthouse) (first : Nat) : Nat :=
  (List.range 4).foldl (fun s j => s + (Tab.get 0 h.counts (first + j)).toNat * 2 ^ (16 * j)) 0

/-- STATE code of a link (Table 10-13). -/
def LinkState.code : LinkState → Nat
  | .disabled => 0 | .down => 1 | .training => 2 | .up => 3 | .quarantined => 4 | .versionDown => 5 | .circuitDown => 6 | .pass => 7

/-- LNK_n_CTRL (Table 16-7). -/
def Link.regCtrl (l : Link) : Nat := boolNat l.retrain * 2 + boolNat l.disable

/-- LNK_n_STATUS (Table 16-7). -/
def Link.regStatus (l : Link) : Nat :=
  l.changes.toNat * 2 ^ 32 + boolNat l.changed * 2 ^ 24 + l.lastCause % 256 * 2 ^ 16 + boolNat l.spareUsed * 2 ^ 12 + l.version % 16 * 2 ^ 8 +
  l.lanes % 16 * 16 + l.state.code

/-- LNK_n_PEER (Table 16-7). -/
def Link.regPeer (l : Link) : Nat := match l.peer with | some r => r.serial | none => 0

/-- LNK_n_PEERINFO (Table 16-7). -/
def Link.regPeerInfo (l : Link) : Nat :=
  match l.peer with
  | some r => r.role % 256 * 2 ^ 32 + r.rank % 65536 * 2 ^ 16 + r.slot % 8 * 2 ^ 8 + r.port % 256
  | none => 0xFFFF * 2 ^ 16

/-- SEC_BOOT (Table 16-8). -/
def Block.regSecBoot (b : Block) : Nat :=
  b.ctl.sec.nextBank.toNat * 16 + boolNat b.fuses.secure * 8 + boolNat b.ctl.sec.idFault * 4 + boolNat b.ctl.sec.fallback * 2 + b.ctl.sec.bank % 2

/-- SEC_FWVER (Table 16-8). -/
def Security.regFwver (s : Security) : Nat := s.otherSvn % 256 * 2 ^ 40 + s.svn % 256 * 2 ^ 32 + s.version % 2 ^ 32

/-- DBG_STATUS (Table 16-10). -/
def Security.regDbgStatus (s : Security) : Nat :=
  s.result % 16 * 2 ^ 8 + boolNat (3 ≤ s.fails) * 2 ^ 6 + s.fails % 4 * 16 + s.pending % 4 * 4 + s.level % 4

/-- The 48 bytes of DBG_CHALLENGE (Table 16-10). -/
def Block.challenge (b : Block) : Bytes :=
  if b.ctl.sec.pending = 0 then zeroBytes 48
  else (b.ctl.sec.nonce ++ zeroBytes 32).take 32 ++ leBytes b.fuses.serial.toNat 8 ++ leBytes b.ctl.sec.pending 1 ++ zeroBytes 7

/-- HIF registers of a port (Table 16-3). -/
def Hif.reg (h : Hif) (o : Nat) : Nat :=
  match o with
  | 0x00 => h.ctrl.toNat | 0x10 => h.dbPoll.toNat | 0x18 => h.evtBase.toNat | 0x20 => h.evtSize.toNat | 0x28 => h.evtDbrec.toNat
  | 0x30 => h.evtMask.toNat | 0x38 => h.bar2Off.toNat | 0x40 => boolNat h.polling | _ => 0

/-- The 64-bit value at an 8-byte aligned offset of BAR0 through a port (Tables 16-1 to 16-10); unlisted offsets read 0 (R473). -/
def Block.reg (b : Block) (port : Bool) (o : Nat) : Nat :=
  let c := b.ctl
  if 0x1000 ≤ o ∧ c.glb.glbOnly = true then 0
  else if o < 0x1000 then
    (match o with | 0x00 => b.fuses.serial.toNat | 0x08 => b.regVersion | 0x10 => b.regCaps | 0x18 => b.regState | _ => 0)
  else if o < 0x2000 then (c.hif.hif port).reg (o - 0x1000)
  else if o < 0x3000 then
    let n := (o - 0x2000) / 64
    (match (o - 0x2000) % 64 with
      | 0x00 => (c.ring n).base.toNat | 0x08 => (c.ring n).cqBase.toNat | 0x10 => (c.ring n).dbrec.toNat | 0x18 => (c.ring n).size.toNat
      | 0x20 => c.regRingCtrl n | _ => 0)
  else if o = 0x4000 then c.power.regState
  else if o = 0x4008 then c.regRemove
  else if 0x5000 ≤ o ∧ o < 0x5040 then
    (match o - 0x5000 with
      | 0x00 => b.lhTime | 0x08 => c.lh.cmp0.toNat | 0x10 => c.lh.cmp1.toNat | 0x18 => c.lh.flags.toNat | 0x20 => c.lh.wakeEn.toNat
      | 0x28 => c.lh.tempLvl.toNat | 0x30 => c.lh.regCount 0 | _ => c.lh.regCount 4)
  else if 0x6000 ≤ o ∧ o < 0x7800 then
    let l := c.link ((o - 0x6000) / 64)
    (match (o - 0x6000) % 64 with | 0x00 => l.regCtrl | 0x08 => l.regStatus | 0x10 => l.regPeer | 0x18 => l.regPeerInfo | _ => 0)
  else if o = 0x8000 then b.regSecBoot
  else if o = 0x8008 then c.sec.regFwver
  else if o = 0x8010 then b.fuses.rollback
  else if o = 0x9000 then c.power.regTemp
  else if o = 0x9008 then c.power.regCoolant
  else if o = 0x9010 then c.power.regPower
  else if o = 0x9018 then c.power.monClass.toNat
  else if o = 0xA008 then c.sec.regDbgStatus
  else if 0xA100 ≤ o ∧ o < 0xA130 then u64 b.challenge (o - 0xA100)
  else 0

/-- An aligned access of 4 or 8 bytes (R473). -/
def barAligned (o size : Nat) : Bool := (size == 4 || size == 8) && o % size == 0

/-- A read of BAR0 (R473): any other size or alignment reads all ones. -/
def Block.barRead (b : Block) (port : Bool) (o size : Nat) : Nat :=
  if barAligned o size then b.reg port (o / 8 * 8) / 2 ^ (8 * (o % 8)) % 2 ^ (8 * size) else 2 ^ (8 * size) - 1

end Sys2Proof.Machine
end

