-- ==== Sys2Proof/Machine/Transfer.lean ====
section
/-! DEFINITION. The places that an operand of a command names: host memory, device virtual addresses and module-local addresses (R356). -/

namespace Sys2Proof.Machine

/-- All bytes of a module-local range lie in one backed piece of HBM4, DDR5, scratch or lagoon (Table 07-1). -/
def inOneRegion (twoTiB : Bool) (a n : Nat) : Bool :=
  n == 0 || match region twoTiB a, region twoTiB (a + n - 1) with
    | .hbm d, .hbm e => d == e
    | .ddr, .ddr | .scratch _, .scratch _ | .lagoon _, .lagoon _ => true
    | _, _ => false

/-- What forbids an operand of kind 0 host region, 1 device virtual or 2 module-local physical, if anything (R356). -/
def Block.reach (b : Block) (kind addr len : Nat) : Option Status :=
  match kind with
  | 0 => if !b.ctl.job.inJob || b.ctl.inHostRegion addr len then none else some .eFormat
  | 1 =>
    if !b.ctl.plan.loaded then some .eState
    else match b.ctl.plan.bufAt addr with
      | some x => if addr + len ≤ bufVaddr x.entry + bufBytes x.entry then none else some .eFormat
      | none => some .eFormat
  | _ => if inOneRegion b.fuses.twoTiB addr len then none else some .eFormat

/-- The status with the lowest code among those that apply (R362). -/
def worst (xs : List (Option Status)) : Option Status :=
  xs.foldl (fun best x => match best, x with
    | none, y => y
    | some a, none => some a
    | some a, some c => if c.code < a.code then some c else some a) none

/-- Bytes of a place. -/
def Block.readPlace (b : Block) (kind addr len : Nat) : Bytes :=
  match kind with
  | 0 => b.host.read addr len
  | 1 => b.readVa fwSpace addr len
  | _ => b.read addr len

/-- Bytes written into a place. -/
def writePlace (kind addr : Nat) (bytes : Bytes) : Act :=
  match kind with
  | 0 => .one (.host addr bytes)
  | 1 => fwWrite addr bytes
  | _ => .one (.mem addr bytes)

end Sys2Proof.Machine
end

