-- ==== Sys2Proof/Machine/Commands.lean ====
section
/-! DEFINITION. The commands that no other chapter owns: NOP, COPY, FILL and the bus errors of channels, QUERY_INFO, READ_COUNTERS and
SET_POWER (R270, R354 to R356, R437, R444, R483, R484). -/

namespace Sys2Proof.Machine

/-! ## NOP, COPY, FILL -/

/-- NOP (R354). -/
def nopAct (id : Nat) : Act := startCmd id 0x01 (fun b _ => inStates anyRingState b) fun _ => finish id .ok []

/-- COPY and FILL of these kinds are legal in the module state (R356, Table 11-11). -/
def copyLegal (b : Block) (x : Cmd) : Bool :=
  inStates [.ready, .loaded] b || (inStates [.running, .draining, .degraded] b && u8 x.bytes 32 % 16 != 2 && u8 x.bytes 32 / 16 != 2)

/-- What forbids one end of a copy, if anything; a device virtual range must translate throughout (R240, R356). -/
def Block.copyEnd (b : Block) (kind addr n : Nat) (write : Bool) : Option Status :=
  match b.reach kind addr n with
  | some st => some st
  | none => if kind = 1 ∧ (b.firstBad fwSpace [{ va := addr, len := n, write := write }]).isSome = true then some .eFormat else none

/-- Two ranges meet. -/
def rangesMeet (a n c m : Nat) : Bool := decide (a < c + m ∧ c < a + n ∧ 0 < n ∧ 0 < m)

/-- The bytes that a copy delivers; where its ends overlap in one place they are unspecified (R260, log 11). -/
def Block.copied (b : Block) (sk src dk dst n : Nat) : Bytes :=
  if sk = dk ∧ src ≠ dst ∧ rangesMeet src n dst n = true then (List.range n).map fun i => Config.unspecifiedByte b.fresh i
  else b.readPlace sk src n

/-- COPY (R356, R362); one of no bytes has nothing to do (Table 11-8, log 51) (log 37). -/
def copyAct (id : Nat) : Act :=
  startCmd id 0x40 copyLegal fun x => .look fun b =>
    let c := x.bytes
    let (sk, dk, n) := (u8 c 32 % 16, u8 c 32 / 16, u64 c 56)
    if n = 0 then finish id .okEmpty [] else
    match worst [b.copyEnd sk (u64 c 40) n false, b.copyEnd dk (u64 c 48) n true] with
    | some st => finish id st []
    | none => Act.all [takeFresh, countFw n, writePlace dk (u64 c 48) (b.copied sk (u64 c 40) dk (u64 c 48) n), finish id .ok (leBytes n 8)]

/-- The first n bytes that a FILL writes. -/
def fillBytes (c : Bytes) (n : Nat) : Bytes := (List.range n).map fun i => c.getD (64 + i % 8) 0

/-- FILL (R356, R362); one of no bytes has nothing to do (Table 11-8, log 51) (log 37). -/
def fillAct (id : Nat) : Act :=
  startCmd id 0x41 copyLegal fun x => .look fun b =>
    let c := x.bytes
    let (dk, n) := (u8 c 32 / 16, u64 c 56)
    if n = 0 then finish id .okEmpty [] else
    match b.copyEnd dk (u64 c 48) n true with
    | some st => finish id st []
    | none => Act.all [countFw n, writePlace dk (u64 c 48) (fillBytes c n), finish id .ok (leBytes n 8)]

/-! ## Bus errors (R270) -/

/-- What a COPY or FILL has written when the tile that holds an address fails: every tile before it. -/
def tilesBefore (c : Bytes) (addr : Nat) : Nat :=
  let n := u64 c 56
  let within := fun (a : Nat) => decide (a ≤ addr ∧ addr < a + n)
  (if within (u64 c 48) then addr - u64 c 48 else if cOp c = 0x40 ∧ within (u64 c 40) then addr - u64 c 40 else 0) / tileBytes * tileBytes

/-- A COPY or FILL whose transfer cannot go on: the tiles before the failed one stand, and RESULT gives their bytes (Tables 11-8, 11-9). -/
def transferFails (op addr id : Nat) : Act :=
  startCmd id op copyLegal fun x => .look fun b =>
    let c := x.bytes
    let (sk, dk, n) := (u8 c 32 % 16, u8 c 32 / 16, tilesBefore c addr)
    let ends := if op = 0x40 then [b.copyEnd sk (u64 c 40) (u64 c 56) false, b.copyEnd dk (u64 c 48) (u64 c 56) true]
      else [b.copyEnd dk (u64 c 48) (u64 c 56) true]
    if u64 c 56 = 0 then finish id .okEmpty []
    else match worst ends with
      | some st => finish id st []
      | none => Act.all [takeFresh, countFw n,
          writePlace dk (u64 c 48) ((if op = 0x40 then b.copied sk (u64 c 40) dk (u64 c 48) (u64 c 56) else fillBytes c n).take n),
          finish id .eTransfer (leBytes n 8)]

/-- A firmware transfer cannot reach its target (R270): the COPY or FILL that starts ends with E_TRANSFER; firmware's own transfers end in a
module fault. -/
def fwTransferFailed (addr : Nat) : Act :=
  .look fun b =>
    match b.ctl.hif.cmds.find? fun x => decide (cOp x.bytes = 0x40 ∨ cOp x.bytes = 0x41) && b.mayStart x with
    | some x => transferFails (cOp x.bytes) addr x.id
    | none =>
      Act.when (!b.ctl.fw.moves.isEmpty || (b.ctl.fw.seqs.any fun e => e.2.pre == .ebbing || e.2.resume.isSome) || b.ctl.pair.snapshot) (moduleFault addr)

/-- A bus error of a firmware channel (R270): retries, then the permanent error of the channel and a fresh count on the channel that
serves its number next (`iter` 1); when that runs out too, the target has failed. -/
def fwBusError (e ch addr : Nat) : Act :=
  .look fun b =>
    let c := b.ctl.chan e ch
    let charge := fun (retried : Bool) => chargeChannel e ch retried addr
    if c.retries < b.ctl.plan.retryOf e then
      Act.all [countLs e 2 1, updChan e ch fun k => { k with retries := k.retries + 1 }, charge true]
    else if c.iter = 0 then (updChan e ch fun k => { k with retries := 0, iter := 1 }).seq (charge false)
    else Act.all [updChan e ch fun _ => Channel.idle, fwTransferFailed addr]

/-- BUS_ERROR (R264, R270): the failed tile is issued again while retries are left; then HALTED_ERR.  A read-back that another module
answers differently is an error on the tile that wrote the line.  Each error counts against the channel that serves the number. -/
def busErrorAct (e ch : Nat) (kind : BusErr) (addr : Nat) : Act :=
  .look fun b =>
    let c := b.ctl.chan e ch
    if fwChannel e ch then Act.when b.ctl.awake (fwBusError e ch addr)
    else Act.when (c.state == .run && decide (ch < engineChans e)) <|
      match kind with
      | .readBack target => Act.opt (c.last.find? fun l => l.unit == target) (lineError e ch)
      | _ =>
        let retry := decide (c.retries < b.ctl.plan.retryOf e)
        Act.all [
          if retry then Act.all [countLs e 2 1, updChan e ch (fun k => { k with retries := k.retries + 1 }), reissueTile e ch]
          else haltErr e ch addr 1,
          chargeChannel e ch retry addr]

/-! ## QUERY_INFO (R355, R483) -/

/-- SELECT 0: identity and capabilities, and the last trained peer of each link. -/
def Block.infoIdentity (b : Block) : Bytes :=
  leBytes b.fuses.serial.toNat 8 ++ leBytes b.regVersion 8 ++ leBytes b.regCaps 8 ++ leBytes b.regState 8 ++ leBytes b.ctl.sec.regFwver 8 ++
  leBytes b.fuses.rollback 8 ++ leBytes b.ctl.power.monClass.toNat 8 ++ leBytes (b.ctl.pair.partner % 8 + boolNat b.ctl.bound * 256) 8 ++
  (List.range 96).flatMap fun n => leBytes (b.ctl.link n).lastPeer 8

/-- SELECT 1: the buffer map. -/
def Plan.infoBuffers (p : Plan) : Bytes :=
  p.bufs.zipIdx.flatMap fun (x, i) =>
    let ps := if x.pieces.isEmpty then [{ vaddr := bufVaddr x.entry, paddr := 0, bytes := bufBytes x.entry }] else x.pieces
    ps.flatMap fun q => leBytes i 4 ++ leBytes (bufKind x.entry) 1 ++ leBytes (bufTier x.entry) 1 ++ zeroBytes 2 ++ leBytes q.vaddr 8 ++
      leBytes q.paddr 8 ++ leBytes q.bytes 8

/-- One entry of SELECT 2. -/
def spareEntry (cls group logical : Nat) : Bytes := leBytes cls 1 ++ zeroBytes 3 ++ leBytes group 2 ++ leBytes logical 2

/-- SELECT 2: the spare map, class by class, in the numbering of Table 13-4. -/
def Spares.info (s : Spares) : Bytes :=
  let home := fun (p : Nat) => if p % 17 = 16 then 0xFFFF else p / 272 * 256 + p % 272 / 17 * 16 + p % 17
  (s.badCoves.flatMap fun p => spareEntry 0 (bayOf p) (home p)) ++ (s.rows.flatMap fun r => spareEntry 1 r.1 (r.2 % 65536)) ++
  (s.banks.flatMap fun k => spareEntry 2 k.1 k.2) ++ (s.badHbm.flatMap fun u => spareEntry 3 (u / 32) u) ++
  (s.ddr.flatMap fun u => spareEntry 4 u u) ++ (s.flash.flatMap fun u => spareEntry 5 0xFFFF u) ++
  (s.lanes.flatMap fun u => spareEntry 6 (u / 8) u) ++ (s.cores.flatMap fun u => spareEntry 7 (u / 4) u) ++
  (s.chans.flatMap fun u => spareEntry 8 (u / 32) u)

/-- SELECT 3: the error history. -/
def Health.info (h : Health) : Bytes :=
  h.history.flatMap fun r => leBytes r.time 8 ++ leBytes r.cls 1 ++ leBytes r.kind 1 ++ leBytes r.unit 2 ++ zeroBytes 4 ++ leBytes r.detail 8 ++ zeroBytes 8

/-- SELECT 4: the Shoal index summary. -/
def Shoal.info (s : Shoal) : Bytes :=
  if s.mounted then
    [1] ++ zeroBytes 7 ++ slice s.header 8 8 ++ leBytes s.epoch 8 ++ leBytes s.live 8 ++ leBytes s.batch.length 8 ++ slice s.header 32 8 ++
    slice s.header 16 2 ++ slice s.header 19 1 ++ zeroBytes 13
  else zeroBytes 64

/-- The data of a SELECT of QUERY_INFO. -/
def Block.info (b : Block) : Nat → Bytes
  | 0 => b.infoIdentity
  | 1 => b.ctl.plan.infoBuffers
  | 2 => b.ctl.health.spares.info
  | 3 => b.ctl.health.info
  | _ => b.ctl.shoal.info

/-- The header and the data go to OUT_ADDR, or the header alone where OUT_BYTES is too small (R355). -/
def writeInfo (id : Nat) (c data : Bytes) : Act :=
  let need := 16 + data.length
  let fits := decide (need ≤ u32 c 48)
  (Act.one (.host (u64 c 40) (leBytes need 8 ++ leBytes (if fits then need else 16) 8 ++ if fits then data else []))).seq
    (finish id (if fits then .ok else .okShort) (leBytes need 8))

/-- QUERY_INFO (R355, R483). -/
def queryInfoAct (id : Nat) : Act :=
  startCmd id 0x50 (fun b _ => inStates anyRingState b) fun x => .look fun b => writeInfo id x.bytes (b.info (u8 x.bytes 32))

/-! ## READ_COUNTERS (R484, Table 16-12) -/

/-- One counter: SOURCE, COUNTER, value. -/
structure CounterEntry where
  source  : Nat
  counter : Nat
  value   : Nat
  deriving DecidableEq, Repr

/-- Codes 0x00 to 0x0D of a cove: its kept counters, and COVE_IDLE as the time since the counters started that no other counter of Table 09-5 took. -/
def Block.coveCounter (b : Block) (cove code : Nat) : Nat :=
  let t := (b.ctl.cove cove).counters
  if code = 9 then
    let spent := ((List.range 9).map fun k => Tab.get 0 t k).sum
    (3 * (b.lhTime - b.ctl.glb.startedAt) + 2 ^ 48 - spent % 2 ^ 48) % 2 ^ 48
  else Tab.get 0 t code

/-- The counters of a SELECT, in ascending SOURCE and COUNTER. -/
def Block.counterList (b : Block) : Nat → List CounterEntry
  | 0 => (List.range 512).flatMap fun c => (List.range 14).map fun k => { source := src 1 c, counter := k, value := b.coveCounter c k }
  | 1 => (List.range 40).flatMap fun e => (List.range 4).map fun k =>
      { source := src 3 (e * 32), counter := 0x10 + k, value := Tab.get 0 b.ctl.engine.ls.counters (e * 4 + k) }
  | 2 => (List.range 96).flatMap fun n =>
      [{ source := src 2 n, counter := 0x20, value := (b.ctl.link n).trainFails }, { source := src 2 n, counter := 0x21, value := (b.ctl.link n).replays }]
  | 3 =>
    let corrected := fun (cls n : Nat) => (List.range n).map fun u =>
      ({ source := src cls u, counter := 0x31, value := Tab.get 0 b.ctl.health.counters (src cls u) } : CounterEntry)
    [{ source := 0, counter := 0x30, value := b.ctl.bar2Err }] ++ corrected 4 256 ++ corrected 5 64 ++
    (if b.fuses.shoal then [{ source := src 6 0xFFF, counter := 0x32, value := b.ctl.shoal.rebuilds }] else []) ++ corrected 12 32
  | _ => [0, 1].map fun d => { source := src 7 d, counter := 0x40, value := Tab.get 0 b.ctl.engine.movers.resends d }

/-- An entry put at its place by SOURCE and COUNTER. -/
def putCounter (x : CounterEntry) : List CounterEntry → List CounterEntry
  | [] => [x]
  | y :: ys => if x.source * 65536 + x.counter ≤ y.source * 65536 + y.counter then x :: y :: ys else y :: putCounter x ys

/-- The counters that a READ_COUNTERS writes; SELECT 5 takes them all in one order. -/
def Block.counters (b : Block) (select : Nat) : List CounterEntry :=
  if select = 5 then ([0, 1, 2, 3, 4].flatMap b.counterList).foldr putCounter [] else b.counterList select

/-- READ_COUNTERS (R355, R484). -/
def readCountersAct (id : Nat) : Act :=
  startCmd id 0x51 (fun b _ => inStates anyRingState b) fun x => .look fun b =>
    writeInfo id x.bytes ((b.counters (u8 x.bytes 32)).flatMap fun e =>
      leBytes e.source 2 ++ leBytes e.counter 2 ++ zeroBytes 4 ++ leBytes (e.value % 2 ^ 48) 8)

/-! ## SET_POWER (R437, R444) -/

/-- SET_POWER: the input cap, whether IDLE is permitted; TARGET 2 leads to STANDBY once the completion is written. -/
def setPowerAct (id : Nat) : Act :=
  startCmd id 0x52 (fun b x => if u8 x.bytes 32 = 2 then inStates [.ready] b else inStates anyRingState b) fun x => Act.all [
    .upd fun c => { c with power := { c.power with
      capW := u32 x.bytes 36,
      idleOk := match u8 x.bytes 32 with | 0 => false | 1 => true | _ => c.power.idleOk,
      state := if u8 x.bytes 32 = 0 ∧ c.power.state = .idle then .run else c.power.state } },
    finish id .ok [],
    Act.when (u8 x.bytes 32 == 1) enterIdle]

/-! ## Meanings -/

/-- NOP. -/
def execNop (id : Nat) (s : State) : Host.Outcome State Fault Refusal := s.perform (nopAct id)
/-- COPY. -/
def execCopy (id : Nat) (s : State) : Host.Outcome State Fault Refusal := s.perform (copyAct id)
/-- FILL. -/
def execFill (id : Nat) (s : State) : Host.Outcome State Fault Refusal := s.perform (fillAct id)
/-- BUS_ERROR. -/
def execBusError (engine : Fin 40) (ch : Fin 32) (kind : BusErr) (addr : Nat) (s : State) : Host.Outcome State Fault Refusal :=
  s.channel (busErrorAct engine.val ch.val kind addr)
/-- QUERY_INFO. -/
def execQueryInfo (id : Nat) (s : State) : Host.Outcome State Fault Refusal := s.perform (queryInfoAct id)
/-- READ_COUNTERS. -/
def execReadCounters (id : Nat) (s : State) : Host.Outcome State Fault Refusal := s.perform (readCountersAct id)
/-- SET_POWER. -/
def execSetPower (id : Nat) (s : State) : Host.Outcome State Fault Refusal := s.perform (setPowerAct id)

end Sys2Proof.Machine
end

