-- ==== Sys2Proof/Machine/Configure.lean ====
section
/-! DEFINITION. LINK_CONFIGURE: the layout and the rank table of a fabric configuration, its binding, the checks of every link and bundle,
and the report (R313 to R317, R327, R328, R330 to R332, Tables 10-11 and 10-12). -/

namespace Sys2Proof.Machine

/-! ## The configuration (Table 10-11) -/

/-- P, BUNDLES and PASSES. -/
def cfgP (c : Bytes) : Nat := u16 c 8
def cfgBundles (c : Bytes) : Nat := u16 c 14
def cfgPasses (c : Bytes) : Nat := u16 c 16

/-- Row i of the rank table, bundle entry i, pass-through entry i. -/
def cfgRank (c : Bytes) (i : Nat) : Bytes := slice c (32 + 16 * i) 16
def cfgBundle (c : Bytes) (i : Nat) : Bytes := slice c (32 + 16 * (cfgP c + i)) 16
def cfgPass (c : Bytes) (i : Nat) : Bytes := slice c (32 + 16 * (cfgP c + cfgBundles c + i)) 16

/-- The layout holds no reserved value (R331 step 1). -/
def cfgLayoutOk (c : Bytes) : Bool :=
  decide (32 ≤ c.length ∧ cfgP c ≤ 256 ∧ 1 ≤ u8 c 12 ∧ u8 c 12 ≤ 2 ∧ u8 c 13 < 4 ∧ cfgBundles c ≤ 95 ∧ cfgPasses c ≤ 48 ∧
    32 + 16 * (cfgP c + cfgBundles c + cfgPasses c) ≤ c.length) && zeros c 18 6 && (u64 c 0 != 0 || cfgP c == 0) &&
  ((List.range (cfgP c)).all fun i => zeros (cfgRank c i) 11 5) &&
  ((List.range (cfgBundles c)).all fun i => let e := cfgBundle c i; decide (1 ≤ u8 e 2 ∧ u8 e 2 ≤ 8 ∧ u8 e 3 < 32)) &&
  ((List.range (cfgPasses c)).all fun i => let e := cfgPass c i; decide (u8 e 0 < 96 ∧ u8 e 1 < 96) && zeros e 2 6)

/-- The fabric that a configuration describes. -/
def cfgFabric (c : Bytes) : Fabric :=
  { fabric := u64 c 0, myRank := u16 c 10, minVersion := u8 c 12, features := u8 c 13,
    ranks := (List.range (cfgP c)).map fun i => let e := cfgRank c i; { serial := u64 e 0, slot := u8 e 8, board := u16 e 9, home := u8 e 8 },
    bundles := (List.range (cfgBundles c)).map fun i => let e := cfgBundle c i; { peer := u16 e 0, minLinks := u8 e 2, use := u8 e 3, mask := fld e 4 12 },
    passes := (List.range (cfgPasses c)).map fun i => let e := cfgPass c i; { a := u8 e 0, b := u8 e 1, foreign := u64 e 8 },
    ready := false }

/-- A list has no element twice. -/
def noTwice (xs : List Nat) : Bool := xs.eraseDups.length == xs.length

/-- The rank table and the entries that name it are valid (R331 step 1). -/
def Fabric.valid (f : Fabric) (serial slot : Nat) : Bool :=
  decide (f.myRank < f.ranks.length) && (f.ranks.all fun e => e.serial != 0 && decide (e.slot ≤ 7)) && noTwice (f.ranks.map (·.serial)) &&
  noTwice (f.ranks.map fun e => e.board * 8 + e.slot) &&
  (match f.ranks[f.myRank]? with | some e => e.serial == serial && e.slot == slot | none => false) &&
  (f.bundles.all fun e => decide (e.peer < f.ranks.length) && e.peer != f.myRank) &&
  (f.passes.all fun e => e.a != e.b) && noTwice (f.passes.flatMap fun e => [e.a, e.b])

/-! ## Findings (Table 10-12) -/

/-- One finding. -/
structure Finding where
  cause    : Nat
  link     : Nat
  rank     : Nat
  expected : Nat
  found    : Nat
  up       : Nat
  version  : Nat
  deriving DecidableEq, Repr

/-- The bytes of a finding. -/
def Finding.bytes (x : Finding) : Bytes :=
  leBytes x.cause 1 ++ leBytes x.link 1 ++ leBytes x.rank 2 ++ zeroBytes 4 ++ leBytes x.expected 8 ++ leBytes x.found 8 ++ leBytes x.up 1 ++
  leBytes x.version 1 ++ zeroBytes 6

/-- The report: its header and its findings. -/
def reportBytes (xs : List Finding) : Bytes := leBytes xs.length 2 ++ zeroBytes 62 ++ xs.flatMap Finding.bytes

/-- A finding on link n. -/
def Block.linkFinding (b : Block) (cause n : Nat) : Finding :=
  let f := b.ctl.links.fabric
  let exp := f.expected b.slot n
  let peer := (b.ctl.link n).peer
  { cause := cause, link := n, rank := (if exp = 0 then none else f.rankOfSerial exp).getD 0xFFFF, expected := exp,
    found := match peer with | some r => r.serial | none => 0, up := 0,
    version := if cause = 3 then (match peer with | some r => commonVersion r | none => 0) else 0 }

/-- Links that two owners claim (R328). -/
def Fabric.twiceOwned (f : Fabric) : List Nat := (List.range 96).filter fun n => (f.passOf n).isSome && (f.maskOf n).isSome

/-- The link belongs to a bundle of the configuration. -/
def Ctl.jobLink (c : Ctl) (n : Nat) : Bool :=
  let f := c.links.fabric
  (f.maskOf n).isSome || (match (c.link n).peer with | some r => f.bundles.any fun e => f.serialOf e.peer == r.serial | none => false)

/-- Board slots that the multicasts of the loaded plan name (R275). -/
def Block.mcastSlots (b : Block) : List Nat :=
  ((b.ctl.plan.ops.filter fun r => rOp r == opXfer).flatMap fun r =>
    ((lsList b fwSpace (u64 r 112) 4096 0).filter fun x => u8 x 0 == 2).flatMap fun x => (List.range 8).filter fun s => bit (u8 x 3) s).eraseDups

/-- The link's version lies below the configuration's MIN_VERSION, lacks a feature that it lists (PASS or PORT_MCAST on a link of a bundle,
PORT_MCAST on any board link), or lacks what a multicast of the loaded plan needs of its board link (R315). -/
def Block.versionShort (b : Block) (n : Nat) : Bool :=
  let l := b.ctl.link n
  let f := b.ctl.links.fabric
  match l.peer with
  | some r =>
    let v := commonVersion r
    let on := l.state == .up
    ((on || l.state == .versionDown) && decide (v < f.minVersion)) || (b.ctl.jobLink n && l.state == .versionDown) ||
    (on && decide (v < 2) && ((b.ctl.jobLink n && f.features != 0) || (boardLink n && (bit f.features 1 || b.mcastSlots.contains r.slot))))
  | none => false

/-- The findings of steps 2 and 5 to 8 (R331), in that order (log 45). -/
def Block.findings (b : Block) : List Finding :=
  let f := b.ctl.links.fabric
  let short := f.bundles.filter fun e => decide ((b.ctl.members (f.serialOf e.peer)).length < e.minLinks)
  (f.twiceOwned.map fun n => b.linkFinding 4 n) ++
  (((List.range 96).filter b.versionShort).map fun n => b.linkFinding 3 n) ++
  (((List.range 96).filter fun n => (b.ctl.link n).state == .quarantined).map fun n => b.linkFinding 1 n) ++
  (short.map fun e => { cause := 2, link := 0xFF, rank := e.peer, expected := f.serialOf e.peer, found := 0,
                        up := (b.ctl.members (f.serialOf e.peer)).length, version := 0 }) ++
  ((f.passes.flatMap fun e => [e.a, e.b].filter fun n => (b.ctl.link n).state != .pass).map fun n => b.linkFinding 5 n)

/-! ## The command -/

/-- Identity records go out on every trained link, and every far end is judged again (R313, R316). -/
def recheckLinks : Act :=
  .look fun b =>
    let on := (List.range 96).filter fun n => (b.ctl.link n).state.carries || (b.ctl.link n).state == .versionDown
    (Act.each on fun n => send (.link n) (.identity (idBytes (b.ownId n)))).seq
      ((Act.each on fun n => Act.opt (b.ctl.link n).peer fun r => checkPeer n r).seq (Act.each (b.ctl.links.fabric.passes.map (·.a)) passRecord))

/-- A fabric is bound; one of the same FABRIC keeps its rank table (R332). -/
def bindFabric (f : Fabric) : Act :=
  .upd fun c =>
    let g := if c.links.fabric.fabric = f.fabric then { f with ranks := c.links.fabric.ranks } else f
    { c with links := { c.links with fabric := g } }

/-- The report goes to REPORT_ADDR, and the command completes. -/
def configureEnd (id addr : Nat) (xs : List Finding) : Act :=
  (Act.one (.host addr (reportBytes xs))).seq (finish id (if xs.isEmpty then .ok else .eLink) (leBytes xs.length 2))

/-- The configuration of a LINK_CONFIGURE. -/
def Block.config (b : Block) (x : Cmd) : Bytes := b.host.read (u64 x.bytes 32) (u32 x.bytes 40)

/-- LINK_CONFIGURE with this configuration is legal: another FABRIC, or a release, only with no job running (R332, Table 11-11). -/
def configureLegal (b : Block) (x : Cmd) : Bool :=
  let c := b.config x
  inStates [.ready, .loaded] b || (inStates [.running, .degraded, .resync] b && cfgP c != 0 && u64 c 0 == b.ctl.links.fabric.fabric)

/-- LINK_CONFIGURE (R330 to R332).  The wait of step 3 has ended (log 45). -/
def linkConfigureAct (id : Nat) : Act :=
  startCmd id 0x30 configureLegal fun x => .look fun b =>
    let c := b.config x
    let f := cfgFabric c
    if !cfgLayoutOk c then finish id .eFormat []
    else if cfgP c = 0 then
      Act.all [.upd fun c => { c with links := { c.links with fabric := Fabric.blank } }, recheckLinks, configureEnd id (u64 c 24) []]
    else if !f.valid b.fuses.serial.toNat b.slot then
      configureEnd id (u64 c 24) [{ cause := 6, link := 0xFF, rank := 0xFFFF, expected := 0, found := 0, up := 0, version := 0 }]
    else Act.all [bindFabric f, recheckLinks,
      .look fun t => Act.all [
        .upd fun c => { c with links := { c.links with fabric := { c.links.fabric with ready := t.findings.isEmpty } } },
        configureEnd id (u64 c 24) t.findings]]

/-- LINK_CONFIGURE. -/
def execLinkConfigure (id : Nat) (s : State) : Host.Outcome State Fault Refusal := s.perform (linkConfigureAct id)

end Sys2Proof.Machine
end

