-- ==== Sys2Proof/Machine/Power.lean ====
section
/-! DEFINITION. Power, temperature, removal requests, resets and the Lighthouse events (R437 to R440, R442 to R447, R450, R451). -/

namespace Sys2Proof.Machine

/-! ## Limits and warnings (R437, R438, R440) -/

/-- The dies are powered: step 3 of start-up has been reached, in RUN or IDLE. -/
def Ctl.powered (c : Ctl) : Bool := decide (3 ≤ c.glb.step) && (c.power.state == .run || c.power.state == .idle) && !c.glb.tripped && c.pins.v54

/-- One second. -/
def second : Nat := 1000000000

/-- A report is due: the last time its condition held lies 1 s or more back, or it never held (R438).  Times are kept plus 1. -/
def due (last now : Nat) : Bool := last == 0 || decide (last + second ≤ now + 1)

/-- The input limit that is least, and its cause (Table 14-4). -/
def Power.inputCause (p : Power) : Nat × Nat :=
  let v := if p.inputMv = 0 then 2900 else 54 * p.inputMv / 1000
  let (w, k) := if v < 2900 then (v, 2) else (2900, 1)
  if p.capW ≠ 0 ∧ p.capW < w then (p.capW, 3) else (w, k)

/-- Design power of the package in W. -/
def packageLimit : Nat := 2200

/-- The limits that a sample exceeds: cause, limit, measured. -/
def Power.exceeded (p : Power) : List (Nat × Nat × Nat) :=
  let (w, k) := p.inputCause
  (if w < p.inputW then [(k, w, p.inputW)] else []) ++ (if packageLimit < p.packageW then [(4, packageLimit, p.packageW)] else [])

/-- Thresholds of a sensor in 1/16 °C (Table 14-6): warn, limit, trip. -/
def thresholds (sensor : Nat) : Option (Int × Option Int × Option Int) :=
  if sensor < 4 then some (95 * 16, some (100 * 16), some (110 * 16))
  else if 8 ≤ sensor ∧ sensor < 16 then some (85 * 16, some (95 * 16), some (105 * 16))
  else if sensor = 16 then some (45 * 16, none, none)
  else if sensor = 17 then some (60 * 16, none, some (70 * 16))
  else none

/-- A reading takes a threshold of its sensor: it has reached it; the inlet's has to be passed (Table 14-6, log 38). -/
def takes (sensor : Nat) (level t : Int) : Bool := if sensor = 16 then decide (level < t) else decide (level ≤ t)

/-- A sensor is at its limit level. -/
def Power.overLimit (p : Power) (sensor : Nat) : Bool :=
  match thresholds sensor with | some (_, some l, _) => takes sensor l (p.temp sensor).toInt | _ => false

/-- The cove clocks are stepped down while a power limit is exceeded or a sensor is at its limit level (R437, R440). -/
def Power.limits (p : Power) : Bool := !p.exceeded.isEmpty || (List.range 18).any p.overLimit

/-- The clocks follow the present readings. -/
def stepClocks : Act := .upd fun c => { c with power := { c.power with clocksDown := c.power.limits } }

/-- POWER_SAMPLE (R437, R438): the readings are reported, the clocks follow, and a limit that takes effect raises POWER_LIMIT. -/
def powerSampleAct (r : PowerReading) : Act :=
  .look fun b => Act.when b.ctl.powered <| Act.all [
    .upd fun c => { c with power := { c.power with inputMv := r.inputMv, inputW := r.inputW, packageW := r.packageW } },
    stepClocks,
    .look fun t => Act.each t.ctl.power.exceeded fun (k, limit, measured) =>
      (Act.when (due (Tab.get 0 t.ctl.power.limitedAt k) t.lhTime)
        (raise 0x0601 (src 8 0) (limit % 65536 * 2 ^ 48 + measured % 65536 * 2 ^ 32 + k))).seq
        (.upd fun c => { c with power := { c.power with limitedAt := Tab.set 0 c.power.limitedAt k (t.lhTime + 1) } })]

/-- A trip (R440, Table 14-6): a module fault; PWR_FAULT, the converter off, the cause in the store.  The module stays off until 54 V
or aux is cycled. -/
def trip (cause : Nat) : Act :=
  .look fun b => Act.when (!b.ctl.glb.tripped) <|
    let early := b.ctl.glb.state == .boot && !b.ctl.glb.stopped
    Act.all [moduleFault cause,
      .upd fun c =>
        let g := { c.glb with tripped := true, step := 2, bootFault := if early then 0x0C else c.glb.bootFault }
        { c with pins := { c.pins with pwrFault := true, converterOn := false }, glb := g }]

/-- THERMAL_WARN of a sensor at a level, when it first holds (Table 14-4). -/
def thermalWarn (sensor level : Nat) (t : BitVec 16) (threshold : Int) : Act :=
  .look fun b =>
    let k := 2 * sensor + (level - 1)
    (Act.when (due (Tab.get 0 b.ctl.power.warnedAt k) b.lhTime)
      (raise 0x0600 (src 8 0) (t.toNat * 2 ^ 32 + (BitVec.ofInt 16 threshold).toNat * 2 ^ 16 + sensor * 2 ^ 8 + level))).seq
      (.upd fun c => { c with power := { c.power with warnedAt := Tab.set 0 c.power.warnedAt k (b.lhTime + 1) } })

/-- TEMPERATURE_SAMPLE (R219, R438, R440). -/
def temperatureSampleAct (sensor : Nat) (t : BitVec 16) : Act :=
  .look fun b => Act.when b.ctl.powered <| Act.opt (thresholds sensor) fun (warn, limit, tripAt) => Act.all [
    .upd fun c => { c with power := { c.power with
      temps := Tab.set 0 c.power.temps sensor t,
      refresh2x := if sensor < 8 ∨ 16 ≤ sensor then c.power.refresh2x
        else if warn < t.toInt then c.power.refresh2x ||| BitVec.ofNat 8 (2 ^ (sensor - 8))
        else c.power.refresh2x &&& ~~~(BitVec.ofNat 8 (2 ^ (sensor - 8))) } },
    Act.when (takes sensor warn t.toInt) (thermalWarn sensor 1 t warn),
    Act.opt limit fun l => Act.when (takes sensor l t.toInt) (thermalWarn sensor 2 t l),
    stepClocks,
    Act.opt tripAt fun x => Act.when (takes sensor x t.toInt) (trip (256 + sensor))]

/-- What the leak input does beside its flag: a trip (R440). -/
def leakTrip : Act := (Act.upd fun c => { c with pins := { c.pins with leak := true } }).seq (trip 512)

/-- LEAK (R440, R443): the flag, and a trip in every state that has aux. -/
def leakAct : Act :=
  .look fun b => Act.when (b.ctl.power.state != .off) <| (updLh fun h => h.occur flagLeak).seq leakTrip

/-! ## 54 V (R443, R451) -/

/-- What 54 V below 38 V does beside its flag (R451): while the dies are powered, clocks and cage feeds go off and nothing more leaves the
module. -/
def powerFail : Act :=
  .look fun b => Act.all [
    .upd fun c => { c with pins := { c.pins with v54 := false, prechargeOk := false, mainEn := false, converterOn := false } },
    Act.when (b.ctl.power.state != .standby) <| Act.all [
      .upd fun c =>
        let d := c.resetDies b.lhTime
        { d with glb := { d.glb with step := 1 }, pins := { d.pins with cageFeed := 0 } },
      .one .arbReset]]

/-- UNDERVOLTAGE (R443, R451). -/
def undervoltageAct : Act :=
  .look fun b => Act.when (b.ctl.power.state != .off) <| (updLh fun h => h.occur flagUnder).seq powerFail

/-- 54 V is there: a trip is cleared once it has been away (R440). -/
def v54Up : Act := .upd fun c =>
  let g := if c.pins.v54 then c.glb else { c.glb with tripped := false }
  { c with pins := { c.pins with v54 := true, pwrFault := c.pins.pwrFault && c.pins.v54, cageFeed := if c.pins.v54 then c.pins.cageFeed else 0xFFFFF }, glb := g }

/-- V54_ARRIVAL (R440, R443): the flag, which may wake the module. -/
def v54ArrivalAct : Act :=
  .look fun b => Act.when (b.ctl.power.state != .off) <| v54Up.seq (lighthouseFlag flagV54)

/-! ## Other Lighthouse events (R443, R444) -/

/-- LH_TIMER (R443, R478): LH_TIME has reached an armed comparator. -/
def lhTimerAct (which : Bool) : Act :=
  .look fun b =>
    let cmp := (if which then b.ctl.lh.cmp1 else b.ctl.lh.cmp0).toNat
    let fired := if which then b.ctl.lh.fired1 else b.ctl.lh.fired0
    Act.when (cmp != 0 && decide (cmp ≤ b.lhTime) && !fired) <|
      (updLh fun h => if which then { h with fired1 := true } else { h with fired0 := true }).seq (lighthouseFlag (if which then flagCmp1 else flagCmp0))

/-- DIE_TEMP_LEVEL (R443): a junction has passed its level. -/
def dieTempLevelAct : Act := lighthouseFlag flagTemp

/-- WAKE_IN (R443). -/
def wakeInAct : Act := lighthouseFlag flagWakeIn

/-- PERST_DEASSERT (R217, R444, R478): in STANDBY, PERST# deasserted after its assertion sets PCIE and wakes the module.  Behind it the host
sets the port up, and chooses 2^k GiB for BAR2 (log 66). -/
def perstDeassertAct (port : Bool) (k : Nat) : Act :=
  .look fun b =>
    let was := if port then b.ctl.pins.perst1 else b.ctl.pins.perst0
    Act.when (b.ctl.hasPort port) <| Act.all [
      Act.when was <|
        (Act.upd fun c => { c with pins := if port then { c.pins with perst1 := false } else { c.pins with perst0 := false } }).seq
          (Act.when (b.ctl.power.state == .standby) (lighthouseFlag flagPcie)),
      updHif port fun h => { h with bar2Size := 2 ^ (30 + k) }]

/-! ## Removal (R450, Table 14-12) -/

/-- A removal request: raised once, and served; one that comes while another is served raises nothing. -/
def requestRemoval (source : Nat) : Act :=
  .look fun b => Act.when (b.ctl.power.removal.isNone && b.ctl.power.state != .off) <| Act.all [
    .upd fun c => { c with power := { c.power with removal := some { source := source, since := b.lhTime, draining := false } } },
    Act.when (b.ctl.power.state != .standby) (raise 0x0900 (src 8 0) source), serveRemoval]

/-- FRONT_LATCH. -/
def frontLatchAct : Act := (Act.upd fun c => { c with pins := { c.pins with latchOpen := true } }).seq (requestRemoval 1)

/-- ATTN. -/
def attnAct : Act := (Act.upd fun c => { c with pins := { c.pins with attn := true } }).seq (requestRemoval 2)

/-- PWR_REQ_REMOVE. -/
def pwrReqRemoveAct (port : Bool) : Act := .look fun b => Act.when (b.ctl.mayWriteCommon port) (requestRemoval 3)

/-- DRAIN_TIMEOUT (Table 14-12 steps 5 to 7): ten seconds without a commit, or without the end of STOP_JOB on a bound module. -/
def drainTimeoutAct : Act :=
  .look fun b => Act.opt b.ctl.power.removal fun r =>
    Act.when (b.ctl.glb.state == .draining && !b.ctl.pins.removeOk && (r.draining || b.ctl.pair.role == .bound) && decide (r.since + 10 * second ≤ b.lhTime)) <|
      (Act.when b.ctl.bound (send .partner (.faultNotice none))).seq removeEnd

/-! ## Resets (R445, R446, Table 14-10) -/

/-- WARM_RESET (R445): PERST# of port 0 asserted, hot reset, FW_ACTIVATE, a self-fence, or a trip cleared. -/
def warmResetAct (cause : WarmCause) : Act :=
  .look fun b =>
    let perst := Act.when (cause == .perst0) (.upd fun c => { c with pins := { c.pins with perst0 := true } })
    Act.when (b.ctl.power.state != .off) <| perst.seq <|
      Act.when (b.ctl.power.state != .standby && !b.ctl.glb.tripped && b.ctl.pins.v54) warmReset

/-- A port after a function-level reset (R445, R446): its HIF and RING registers cleared; commands taken from its rings run on, but no
completion queue is left for them. -/
def Ctl.resetPort (c : Ctl) (port : Bool) : Ctl :=
  let size := (c.hif.hif port).bar2Size
  let fresh := { Hif.reset with bar2Size := size }
  let keep := fun (n : Nat) => c.portOf n != port || n == partnerRing || (n == 0 && c.bound)
  { c with hif := { c.hif with
      port0 := if port then c.hif.port0 else fresh, port1 := if port then fresh else c.hif.port1,
      rings := c.hif.rings.filter fun e => keep e.1,
      cmds := c.hif.cmds.map fun x => if keep x.ring then x else { x with ring := lostRing } } }

/-- FUNCTION_LEVEL_RESET (R445, R446): every ring of the port is disabled and its HIF and RING registers cleared, but ring 0 of a bound
module; the job and the other port are untouched. -/
def functionLevelResetAct (port : Bool) : Act :=
  .look fun b => Act.when (b.ctl.hasPort port && b.ctl.glb.pcieUp) (.upd fun c => c.resetPort port)

/-- PORT1_PERST (R445): in dual-host mode PERST# of port 1 resets that port. -/
def port1PerstAct : Act :=
  .look fun b => Act.when b.ctl.glb.dualPort <|
    (Act.upd fun c => { c with pins := { c.pins with perst1 := true } }).seq
      (Act.when b.ctl.glb.pcieUp (.upd fun c => c.resetPort true))

/-! ## Meanings -/

/-- POWER_SAMPLE. -/
def execPowerSample (r : PowerReading) (s : State) : Host.Outcome State Fault Refusal := s.perform (powerSampleAct r)
/-- TEMPERATURE_SAMPLE. -/
def execTemperatureSample (sensor : Fin 18) (t : BitVec 16) (s : State) : Host.Outcome State Fault Refusal :=
  s.perform (temperatureSampleAct sensor.val t)
/-- LEAK. -/
def execLeak (s : State) : Host.Outcome State Fault Refusal := s.perform leakAct
/-- UNDERVOLTAGE. -/
def execUndervoltage (s : State) : Host.Outcome State Fault Refusal := s.perform undervoltageAct
/-- V54_ARRIVAL. -/
def execV54Arrival (s : State) : Host.Outcome State Fault Refusal := s.perform v54ArrivalAct
/-- LH_TIMER. -/
def execLhTimer (which : Fin 2) (s : State) : Host.Outcome State Fault Refusal := s.perform (lhTimerAct (which == 1))
/-- DIE_TEMP_LEVEL. -/
def execDieTempLevel (_die : Fin 2) (s : State) : Host.Outcome State Fault Refusal := s.perform dieTempLevelAct
/-- WAKE_IN. -/
def execWakeIn (s : State) : Host.Outcome State Fault Refusal := s.perform wakeInAct
/-- PERST_DEASSERT. -/
def execPerstDeassert (up : PortSetUp) (s : State) : Host.Outcome State Fault Refusal :=
  s.perform (perstDeassertAct (up.port == 1) up.bar2.val)
/-- FRONT_LATCH. -/
def execFrontLatch (s : State) : Host.Outcome State Fault Refusal := s.perform frontLatchAct
/-- ATTN. -/
def execAttn (s : State) : Host.Outcome State Fault Refusal := s.perform attnAct
/-- PWR_REQ_REMOVE. -/
def execPwrReqRemove (port : Fin 2) (s : State) : Host.Outcome State Fault Refusal := s.perform (pwrReqRemoveAct (port == 1))
/-- DRAIN_TIMEOUT. -/
def execDrainTimeout (s : State) : Host.Outcome State Fault Refusal := s.perform drainTimeoutAct
/-- WARM_RESET. -/
def execWarmReset (cause : WarmCause) (s : State) : Host.Outcome State Fault Refusal := s.perform (warmResetAct cause)
/-- FUNCTION_LEVEL_RESET. -/
def execFunctionLevelReset (port : Fin 2) (s : State) : Host.Outcome State Fault Refusal := s.perform (functionLevelResetAct (port == 1))
/-- PORT1_PERST. -/
def execPort1Perst (s : State) : Host.Outcome State Fault Refusal := s.perform port1PerstAct

end Sys2Proof.Machine
end

