-- ==== Sys2Proof/Machine/Firmware.lean ====
section
/-! DEFINITION. Firmware banks, staging, activation, recovery and owner records (R453 to R463, R470). -/

namespace Sys2Proof.Machine

/-! ## Banks (Tables 15-3, 15-4, R456) -/

/-- Bytes of a firmware bank. -/
def bankBytes : Nat := 0x3000000

/-- Security version of a bank. -/
def bankSvn (h : Bytes) : Nat := u32 h 8

/-- Entry i of the image table. -/
def imageEntry (h : Bytes) (i : Nat) : Bytes := slice h (512 + 128 * i) 128

/-- The image lies inside the bank and has its digest; `read` reads the bank (log 40). -/
def imageOk (read : Nat → Nat → Bytes) (e : Bytes) : Bool :=
  decide (u32 e 4 + u32 e 8 ≤ bankBytes) && sha512 (read (u32 e 4) (u32 e 8)) == slice e 64 64

/-- TAG and FORMAT match, and the image table names exactly one image of each type from 1 to 5 (R455) (log 40). -/
def headerOk (h : Bytes) : Bool :=
  slice h 0 4 == [0x4E, 0x56, 0x46, 0x57] && u32 h 4 == 1 && u16 h 16 == 5 &&
  [1, 2, 3, 4, 5].all fun t => countIf (fun i => u8 (imageEntry h i) 0 == t) [0, 1, 2, 3, 4] == 1

/-- A bank passes its checks (R456). -/
def bankOk (f : Fuses) (read : Nat → Nat → Bytes) : Bool :=
  let h := read 0 4096
  headerOk h && sha512 (slice h 32 132) == f.rootHash && ecdsaVerify (slice h 32 132) (slice h 164 132) (slice h 296 132) &&
  ecdsaVerify (slice h 164 132) (h.take 3964) (slice h 3964 132) && decide (f.rollback ≤ bankSvn h ∧ bankSvn h ≤ 64) &&
  (List.range (u16 h 16)).all fun i => imageOk read (imageEntry h i)

/-- The NOR device of a bank. -/
def Block.nor (b : Block) (dev : Bool) : Memory := if dev then b.nor1 else b.nor0

/-- A bank of this module passes its checks. -/
def Block.bankOk (b : Block) (dev : Bool) : Bool := Machine.bankOk b.fuses fun a n => (b.nor dev).read a n

/-- The SVN of a bank, 0 when it fails its checks (R460). -/
def Block.svnOf (b : Block) (dev : Bool) : Nat := if b.bankOk dev then bankSvn ((b.nor dev).read 0 4096) else 0

/-- ROLLBACK rises to the lower SVN of the two banks (R460). -/
def raiseRollback : Act := .look fun b => .one (.rollback (min (b.svnOf false) (b.svnOf true)))

/-- A whole bank written, the header last (R458, R461). -/
def writeBank (dev : Bool) (img : Bytes) : Act :=
  Act.all [.one (.norErase dev), .one (.nor dev 4096 (img.drop 4096)), .one (.nor dev 0 (img.take 4096))]

/-- Reading a byte string as a bank. -/
def readImage (img : Bytes) (a n : Nat) : Bytes := (slice img a n ++ zeroBytes n).take n

/-! ## Owner records (R470) -/

/-- What forbids an owner record that came in READY with 512 bytes, if anything. -/
def Fuses.ownerTrouble (f : Fuses) (r : Bytes) : Option Status :=
  let act := u8 r 4
  let slot := u8 r 5
  let signer := slice r 148 132
  let o := f.owners.getD slot OwnerSlot.blank
  let live := countIf (fun (x : OwnerSlot) => x.valid && !x.revoked) f.owners
  let auth := if f.owners.any (·.valid) then f.ownerKey signer else act == 1 && signer == slice r 16 132
  worst [
    if act < 1 ∨ 3 < act ∨ 3 < slot ∨ zeros r 6 2 = false ∨ zeros r 412 100 = false ∨ (act ≠ 1 ∧ zeros r 16 132 = false) then some .eFormat else none,
    if u64 r 8 = f.serial.toNat ∧ ecdsaVerify signer (r.take 280) (slice r 280 132) = true ∧ auth = true then none else some .eAuth,
    if (act = 1 ∧ o.valid = true) ∨ (act = 2 ∧ o.valid = false) ∨ (act = 2 ∧ o.revoked = false ∧ live ≤ 1) then some .eState else none]

/-- An accepted record blows its fuses. -/
def blowOwner (r : Bytes) : Act :=
  match u8 r 4 with
  | 1 => .one (.enrol (u8 r 5) (sha512 (slice r 16 132)))
  | 2 => .one (.revoke (u8 r 5))
  | _ => .one .debugOwner

/-- An owner record as a FW_STAGE image. -/
def ownerRecord (id : Nat) (img : Bytes) : Act :=
  .look fun b =>
    if b.ctl.glb.state != .ready then finish id .eState []
    else if img.length ≠ 512 then finish id .eFormat []
    else match b.fuses.ownerTrouble img with
      | some st => finish id st []
      | none => (blowOwner img).seq (finish id .ok [])

/-! ## FW_STAGE and FW_ACTIVATE (R461, R463) -/

/-- The bank that is not running. -/
def Ctl.otherBank (c : Ctl) : Bool := c.sec.bank != 1

/-- Bytes of a piece of a NOR write (R462). -/
def norPiece : Nat := 0x40000

/-- A bank that passes its checks is staged: the other bank is erased, and the pieces follow (R461). -/
def stageBank (id : Nat) (img : Bytes) : Act :=
  .look fun b =>
    let dev := b.ctl.otherBank
    if bankBytes < img.length || !Machine.bankOk b.fuses (readImage img) then finish id .eAuth []
    else (Act.one (.norErase dev)).seq
      (.upd fun c => { c with sec := { c.sec with staging := some { cmd := id, dev := dev, img := img, done := 0 } } })

/-- The header goes last; the bank is read back, and the command completes (R460, R461, R480). -/
def stageHeader (g : BankStaging) : Act :=
  (Act.one (.nor g.dev 0 (g.img.take 4096))).seq <| .look fun b => Act.all [
    .upd fun c => { c with sec := { c.sec with staging := none, staged := some (boolNat g.dev), otherSvn := b.svnOf g.dev } },
    raiseRollback, finish g.cmd .ok []]

/-- The next piece of a staging: 256 KiB behind the header, and the header when all of it stands. While a snapshot is due on the device the piece
waits (R462). -/
def stagePiece (g : BankStaging) : Act :=
  .look fun b =>
    let body := g.img.drop 4096
    Act.when (!(b.storeDue && b.ctl.storeDev == g.dev)) <|
      if body.length ≤ g.done then stageHeader g
      else (Act.one (.nor g.dev (4096 + g.done) (slice body g.done norPiece))).seq
        (.upd fun c => { c with sec := { c.sec with staging := some { g with done := g.done + norPiece } } })

/-- FW_STAGE (R461, R462, R470): the command starts, and while its staging is in progress each further run writes the next piece (log 68). -/
def fwStageAct (id : Nat) : Act :=
  .look fun b =>
    match b.ctl.sec.staging with
    | some g => Act.when (g.cmd == id) (stagePiece g)
    | none =>
      startCmd id 0x60 (fun b _ => inStates [.ready, .loaded, .running, .draining, .degraded] b) fun x => .look fun b =>
        let img := b.host.read (u64 x.bytes 32) (u64 x.bytes 40)
        if img.take 4 = [0x4F, 0x57, 0x4E, 0x52] then ownerRecord id img else stageBank id img

/-- A boot selector record naming a bank goes into the area that does not hold the newest (R463). -/
def Security.select (s : Security) (bank : Nat) : Security :=
  match s.sel0, s.sel1 with
  | none, none => { s with sel0 := some (1, bank) }
  | some (n, _), none => { s with sel1 := some (n + 1, bank) }
  | none, some (m, _) => { s with sel0 := some (m + 1, bank) }
  | some (n, _), some (m, _) => if n < m then { s with sel0 := some (m + 1, bank) } else { s with sel1 := some (n + 1, bank) }

/-- FW_ACTIVATE (R463, R472): the reset follows the completion. -/
def fwActivateAct (id : Nat) : Act :=
  startCmd id 0x61 (fun b x => inStates [.ready] b && decide (b.ctl.sec.level < 2) && (u8 x.bytes 32 == 1 || b.ctl.sec.staged.isSome)) fun x => .look fun b =>
    let bank := if u8 x.bytes 32 = 1 then boolNat b.ctl.otherBank else b.ctl.sec.staged.getD 0
    if !b.bankOk (bank == 1) then finish id .eAuth []
    else (Act.upd fun c => { c with sec := c.sec.select bank }).seq (finish id .ok [])

/-- PLDM_COMPONENT (R458): with no valid bank, a component that passes the checks becomes bank A, and the module resets. -/
def pldmComponentAct (img : Bytes) : Act :=
  .look fun b => Act.when (b.ctl.glb.state == .boot && b.ctl.glb.bootFault == 3 && b.ctl.powered) <|
    if bankBytes < img.length || !Machine.bankOk b.fuses (readImage img) then send .sideband (.pldm false)
    else Act.all [writeBank false img, send .sideband (.pldm true), warmReset]

/-! ## Meanings -/

/-- FW_STAGE. -/
def execFwStage (id : Nat) (s : State) : Host.Outcome State Fault Refusal := s.perform (fwStageAct id)
/-- FW_ACTIVATE. -/
def execFwActivate (id : Nat) (s : State) : Host.Outcome State Fault Refusal := s.perform (fwActivateAct id)
/-- PLDM_COMPONENT. -/
def execPldmComponent (image : Bytes) (s : State) : Host.Outcome State Fault Refusal := s.perform (pldmComponentAct image)

end Sys2Proof.Machine
end

