-- ==== Sys2Proof/Machine/StartUp.lean ====
section
/-! DEFINITION. Insertion and start-up: aux, presence, pre-charge, MAIN_EN, the boot ROM, memory, self-test, and the 12 s limit (R4, R221,
R222, R430, R442, R444, R445, R448, R449, R457, R459, R460, R464; Tables 07-2, 14-9 and 14-11). -/

namespace Sys2Proof.Machine

/-- Change the module's own state. -/
def updGlb (f : Glb → Glb) : Act := .upd fun c => { c with glb := f c.glb }

/-! ## Steps 3 to 6 -/

/-- Step 3: 54 V stage and regulators; a regulator that fails stops start-up without PCIe. -/
def startPower (env : StartEnv) : Act :=
  if env.regulators then .upd fun c => { c with pins := { c.pins with converterOn := true }, glb := { c.glb with step := 3 } }
  else .upd fun c => { c with pins := { c.pins with pwrFault := true }, glb := { c.glb with step := 3, bootFault := 1, stopped := true } }

/-- The bank that the boot ROM tries first (R457, R459). -/
def Security.firstBank (s : Security) : Nat :=
  if s.nextBank = 1 then 0 else if s.nextBank = 2 then 1
  else match s.sel0, s.sel1 with
    | none, none => 0
    | some (_, k), none | none, some (_, k) => k
    | some (n, k), some (m, j) => if n < m then j else k

/-- The digest of the image of a type in a bank. -/
def imageDigest (nor : Memory) (t : Nat) : Bytes :=
  let h := nor.read 0 4096
  match (List.range 5).find? fun i => u8 (imageEntry h i) 0 == t with
  | some i => sha512 (nor.read (u32 (imageEntry h i) 4) (u32 (imageEntry h i) 8))
  | none => zeroBytes 64

/-- The running bank's identity as the boot chain leaves it (R457, R464, Table 15-5). -/
def Block.bootInto (b : Block) (bank : Bool) (fallback idOk : Bool) (s : Security) : Security :=
  let h := (b.nor bank).read 0 4096
  { s with
    bank := boolNat bank, fallback := fallback, nextBank := 0, idFault := !idOk, staged := none, staging := none, svn := bankSvn h, otherSvn := b.svnOf (!bank),
    version := u32 h 12, headerHash := sha512 h, images := [1, 2, 3, 4, 5].map (imageDigest (b.nor bank)) }

/-- Steps 4 and 5: the boot ROM boots the named bank, or the other; with neither, PCIe comes up with the GLB block alone (R457, R458). -/
def startRom (env : StartEnv) : Act :=
  .look fun b =>
    let first := b.ctl.sec.firstBank == 1
    if b.bankOk first then
      .upd fun c => { c with sec := b.bootInto first false env.identityOk c.sec, glb := { c.glb with step := 5 } }
    else if b.bankOk (!first) then
      .upd fun c => { c with sec := b.bootInto (!first) true env.identityOk c.sec, glb := { c.glb with step := 5 } }
    else .upd fun c => { c with sec := { c.sec with nextBank := 0 },
                                glb := { c.glb with step := 4, bootFault := 3, glbOnly := true, pcieUp := true, stopped := true } }

/-- The control state with what a snapshot holds: spare map, peers, history and set-up values (R430, Table 13-11). -/
def Ctl.restore (c : Ctl) (s : Snapshot) : Ctl :=
  { c with
    health := { c.health with spares := s.spares, history := s.errors, storeConf := s.conf },
    power := { c.power with monClass := s.conf.monClass },
    links := { c.links with links := s.links.foldl (fun t e =>
      let l := Tab.get Link.reset t e.1
      Tab.set Link.reset t e.1 { l with lastPeer := e.2 }) c.links.links } }

/-- A trained link's lanes follow the spare map (Table 16-7, R308). -/
def Ctl.applyLanes (c : Ctl) : Ctl :=
  c.health.spares.lanes.foldl (fun c u =>
    let n := u / 8
    let l := Tab.get Link.reset c.links.links n
    { c with links := { c.links with links := Tab.set Link.reset c.links.links n { l with retired := l.retired ||| BitVec.ofNat 5 (2 ^ (u % 8)), spareUsed := decide (n < 56) } } }) c

/-- Step 6: the newest valid store bank is taken; with none, a new spare map and BOOT_FAULT 0x0B. -/
def startStore : Act :=
  .upd fun c =>
    let d := match c.health.newest with
      | some s => (c.restore s.1).applyLanes
      | none => { c with glb := { c.glb with bootFault := 0x0B } }
    { d with glb := { d.glb with step := 6 } }

/-! ## Steps 7 and 8 -/

/-- The DIMM's type and grade are among those that R221 accepts; its size is judged apart (Table 07-2, BOOT_FAULT 0x07). -/
def dimmOk (d : Dimm) : Bool :=
  if d.mrdimm then [8800, 10400, 12800].contains d.mts else [6400, 7200, 8000, 8800].contains d.mts

/-- The finding of DDR5 training, if any: BOOT_FAULT and FAULT_UNIT (Table 07-2).  A size that all eight DIMMs share and the ordering code
does not name is reported for channel 0, since no channel differs from D0; of several findings an empty socket or a bad type comes
first, then a difference, then a channel that fails training (log 57). -/
def ddrFinding (twoTiB : Bool) (env : StartEnv) : Option (Nat × Nat) :=
  let ds := (List.range 8).map fun i => (env.dimms.getD i none)
  match (List.range 8).find? fun i => match ds.getD i none with | some d => !dimmOk d | none => true with
  | some i => some (0x08, i)
  | none =>
    match ds.getD 0 none with
    | none => some (0x08, 0)
    | some d0 =>
      match (List.range 8).find? fun i => ds.getD i none != some d0 with
      | some i => some (0x07, i)
      | none =>
        if d0.gib ≠ (if twoTiB then 256 else 128) then some (0x07, 0)
        else env.ddrFail.map fun ch => (0x09, ch)

/-- HBM4 channels of a stack that failed training and were in use. -/
def hbmBad (s : Spares) (env : StartEnv) (stack : Nat) : List Nat :=
  (((env.hbmFail.filter fun x => x.1 == stack).map fun x => stack * 32 + x.2 % 32).filter fun u => !s.badHbm.contains u).eraseDups

/-- The finding of HBM4 training, if any: a stack with more failures than its spare channel covers. -/
def hbmFinding (s : Spares) (env : StartEnv) : Option (Nat × Nat) :=
  ((List.range 8).find? fun k => decide (1 < (hbmBad s env k).length + countIf (fun u => u / 32 == k) s.badHbm) && !(hbmBad s env k).isEmpty).map fun k => (0x0A, k)

/-- An HBM4 channel that failed training is replaced by its stack's spare; nothing needs copying. -/
def spareHbm (u : Nat) : Act :=
  Act.all [updSpares fun s => { s with badHbm := u :: s.badHbm, hbm := if u % 32 = 31 then s.hbm else Tab.set 0 s.hbm (u / 32 * 31 + u % 32) 31 },
    unitRetired 3 u u (if u % 32 = 31 then 0xFFFF else u / 32 * 32 + 31) 3 (src 4 u), spareLow 3 (u / 32) 0 (src 4 u)]

/-- A finding that stops start-up: PCIe comes up and the module stays in BOOT (R222, R448). -/
def finding (code unit : Nat) : Act :=
  Act.all [updGlb (fun g => { g with bootFault := code, faultUnit := unit, stopped := true, pcieUp := true }),
    history fun t => { time := t, cls := 15, kind := 1, unit := unit, detail := code }, .upd fun c => { c with health := { c.health with wanted := true } }]

/-- Step 7: memory is checked, trained and initialised: every backed byte is blank, every semaphore 0.  A DDR5 finding is reported before
an HBM4 finding (log 57). -/
def startMemory (env : StartEnv) : Act :=
  .look fun b =>
    match ddrFinding b.fuses.twoTiB env, hbmFinding b.ctl.health.spares env with
    | some (k, u), _ | none, some (k, u) => finding k u
    | none, none =>
      let d := (env.dimms.getD 0 none).getD { mrdimm := false, gib := 0, mts := 0 }
      Act.all [
        updGlb fun g => { g with ddrRate := d.mts / 100, ddrGib := d.gib, ddrMrdimm := d.mrdimm, step := 7 },
        .one .memClear, Act.each b.sems (fun e => .one (.semReset e.1 0)),
        Act.each ((List.range 8).flatMap fun k => hbmBad b.ctl.health.spares env k) spareHbm]

/-- Retiring the unit would go beyond its group's spares, a module fault under R405. -/
def Spares.exhausted (s : Spares) (u : UnitRef) : Bool :=
  match u.cls with
  | 0 => !s.badCoves.contains u.number && s.badCoves.any fun q => bayOf q == bayOf u.number
  | 2 => !s.banks.contains (u.number, u.bank) && s.banks.any fun x => x.1 == u.number
  | 3 => !s.badHbm.contains u.number && s.badHbm.any fun x => x / 32 == u.number / 32
  | 4 => s.ddr.contains u.number
  | 7 => !s.cores.contains u.number && s.cores.any fun x => x / 4 == u.number / 4
  | 8 => !s.chans.contains u.number && decide (4 ≤ countIf (fun x => x / 32 == u.number / 32) s.chans)
  | _ => false

/-- Step 8: units that fail self-test are retired with reason 3; one beyond its group's spares stops start-up. -/
def selfTest : List UnitRef → Act
  | [] => updGlb fun g => { g with step := 8 }
  | u :: us => .look fun b =>
      if b.ctl.health.spares.exhausted u then finding 0x05 u.number
      else (if u.cls = 3 then Act.when (!b.ctl.health.spares.badHbm.contains u.number) (spareHbm u.number) else retireUnit u 3).seq (selfTest us)

/-! ## Steps 9 to 11 -/

/-- Step 11: READY; ROLLBACK follows (R349, R460, R448). -/
def becomeReady : Act :=
  Act.all [resetHostSems, updGlb (fun g => { g with step := 11, state := .ready }), raiseRollback, serveRemoval]

/-- One step of Table 14-9. -/
def startStep (env : StartEnv) (n : Nat) : Act :=
  match n with
  | 3 => startPower env
  | 4 => .done
  | 5 => startRom env
  | 6 => startStore
  | 7 => startMemory env
  | 8 => selfTest env.selfTest
  | 9 => updGlb fun g => { g with step := 9 }
  | 10 => .upd fun c => { c with pins := { c.pins with wake := false }, glb := { c.glb with step := 10, pcieUp := true } }
  | _ => becomeReady

/-- Start-up goes on while nothing has stopped it, as far as the surroundings let it (log 39). -/
def startFrom (env : StartEnv) : List Nat → Act
  | [] => .done
  | n :: ns => .look fun b =>
      if b.ctl.glb.stopped || decide (env.reached < n) then .done else (startStep env n).seq (startFrom env ns)

/-- The steps that are still to run; before step 4 has run the power is brought up (again). -/
def Glb.toRun (g : Glb) : List Nat :=
  let first := if g.step ≤ 3 then 3 else g.step + 1
  (List.range 12).filter fun n => decide (first ≤ n)

/-- Start-up may go on: in BOOT, with nothing that has stopped it (Table 14-11, R449, R450). -/
def Ctl.starting (c : Ctl) : Bool := c.glb.state == .boot && !c.glb.stopped && !c.glb.tripped

/-- MAIN_EN (R448): the baseboard asserts it after PRECHARGE_OK; start-up goes on from step 3, or from where it waited, to READY or to a
finding (log 39). -/
def mainEnAct (env : StartEnv) : Act :=
  .look fun b => Act.when (b.ctl.pins.aux && b.ctl.pins.v54 && b.ctl.pins.prechargeOk && b.ctl.power.state == .run) <| Act.all [
    .upd fun c => { c with pins := { c.pins with mainEn := true } },
    Act.when b.ctl.starting <| if env.trip then trip 768 else startFrom env b.ctl.glb.toRun]

/-! ## Insertion and loss of aux (R442, R444, R445, R448) -/

/-- PRESENCE (Table 14-9 step 1): both presence pins seen; the 12 s of start-up run from here. -/
def presenceAct : Act :=
  .look fun b => Act.when (b.ctl.power.state != .off && !b.ctl.pins.presence) <| .upd fun c =>
    { c with pins := { c.pins with presence := true }, glb := { c.glb with startedAt := b.lhTime, step := max 1 c.glb.step } }

/-- PRECHARGE_OK (Table 14-9 step 2): 48 V on the input capacitance. -/
def prechargeOkAct : Act :=
  .look fun b => Act.when (b.ctl.power.state != .off && b.ctl.pins.v54) <| .upd fun c =>
    { c with pins := { c.pins with prechargeOk := true }, glb := { c.glb with step := max 2 c.glb.step } }

/-- The control state of a power-on reset: only the straps, the store banks and the boot selectors, which are in NOR, are what they were. -/
def Ctl.powerOn (c : Ctl) : Ctl :=
  { Ctl.reset with
    glb := { Glb.reset with slot := c.glb.slot, dualPort := c.glb.dualPort },
    health := { Health.new with storeA := c.health.storeA, storeB := c.health.storeB },
    sec := { Security.reset with sel0 := c.sec.sel0, sel1 := c.sec.sel1 } }

/-- Everything that needs power is gone. -/
def loseAll : Act :=
  .look fun b => Act.all [.one .memClear, Act.each b.sems (fun e => .one (.semReset e.1 0)), .one .arbReset, .one .timeLost]

/-- AUX_ARRIVAL (R445): a power-on reset; LH_TIME starts at 0 and start-up begins at step 1. -/
def auxArrivalAct : Act :=
  .look fun b => Act.when (b.ctl.power.state == .off) <| loseAll.seq (.upd Ctl.powerOn)

/-- AUX_LOSS (R444): the module goes to OFF; only what is in NOR is kept. -/
def auxLossAct : Act :=
  .look fun b => Act.when (b.ctl.power.state != .off) <| loseAll.seq <| .upd fun c =>
    let d := c.powerOn
    { d with glb := { d.glb with step := 0 }, pins := { d.pins with aux := false, cageFeed := 0 }, power := { d.power with state := .off } }

/-- START_UP_TIMEOUT (R449): twelve seconds after step 1 a module that is not READY stays in BOOT. -/
def startUpTimeoutAct : Act :=
  .look fun b => Act.when (b.ctl.starting && b.ctl.power.state == .run && decide (b.ctl.glb.startedAt + 12 * second ≤ b.lhTime)) <|
    updGlb fun g => { g with stopped := true }

/-! ## Meanings -/

/-- MAIN_EN. -/
def execMainEn (env : StartEnv) (s : State) : Host.Outcome State Fault Refusal := s.perform (mainEnAct env)
/-- PRESENCE. -/
def execPresence (s : State) : Host.Outcome State Fault Refusal := s.perform presenceAct
/-- PRECHARGE_OK. -/
def execPrechargeOk (s : State) : Host.Outcome State Fault Refusal := s.perform prechargeOkAct
/-- AUX_ARRIVAL. -/
def execAuxArrival (s : State) : Host.Outcome State Fault Refusal := s.perform auxArrivalAct
/-- AUX_LOSS. -/
def execAuxLoss (s : State) : Host.Outcome State Fault Refusal := s.perform auxLossAct
/-- START_UP_TIMEOUT. -/
def execStartUpTimeout (s : State) : Host.Outcome State Fault Refusal := s.perform startUpTimeoutAct

end Sys2Proof.Machine
end

