-- ==== Sys2Proof/Machine/RegWrite.lean ====
section
/-! DEFINITION. Writes of the registers of BAR0 (chapter 16, R473 to R482) and the debug port (R471, R472). -/

namespace Sys2Proof.Machine

/-! ## Lighthouse timers and flags (R304, R443, R478) -/

/-- LH_CMP_WRITE (R478): the comparator is armed, disarmed by 0, or fires at once. -/
def lhCmpWriteAct (port which : Bool) (v : BitVec 64) : Act :=
  .look fun b => Act.when (b.ctl.mayWriteCommon port) <|
    let now := decide (v.toNat ≠ 0 ∧ v.toNat ≤ b.lhTime)
    updLh fun h =>
      let k := if which then { h with cmp1 := v, fired1 := now } else { h with cmp0 := v, fired0 := now }
      if now then k.occur (if which then flagCmp1 else flagCmp0) else k

/-- A comparator is armed, has not fired and LH_TIME has reached it. -/
def timerDue (cmp : BitVec 64) (fired : Bool) (now : Nat) : Bool := cmp != 0 && decide (cmp.toNat ≤ now) && !fired

/-- The conditions that can occur in the cycle of a write: not a timer that is not due, and not PCIE, which occurs in STANDBY alone (log 46). -/
def Block.landed (b : Block) (landing : BitVec 8) : BitVec 8 :=
  landing &&& ~~~(BitVec.ofNat 8 (2 ^ flagPcie)) &&&
    (if timerDue b.ctl.lh.cmp0 b.ctl.lh.fired0 b.lhTime then 0xFF else 0xFE) &&& (if timerDue b.ctl.lh.cmp1 b.ctl.lh.fired1 b.lhTime then 0xFF else 0xFD)

/-- A write of LH_STATUS: the flags written 1 clear but those that occur in the same cycle, whose other effects follow (R12, R304, R443). -/
def lhStatusWrite (v landing : BitVec 8) : Act :=
  .look fun b =>
    let l := b.landed landing
    Act.all [
      updLh fun h => { (h.clear v l) with fired0 := h.fired0 || l.getLsbD flagCmp0, fired1 := h.fired1 || l.getLsbD flagCmp1 },
      Act.when (l.getLsbD flagV54) v54Up, Act.when (l.getLsbD flagUnder) powerFail, Act.when (l.getLsbD flagLeak) leakTrip]

/-- A link's CHANGED after a write of LNK_n_STATUS, with an occurrence in the same cycle or without (R304). -/
def Link.clearChanged (l : Link) (written landing : Bool) : Link :=
  if landing then { l with changed := true, changes := l.changes + 1 } else if written then { l with changed := false } else l

/-- LNK_n_STATUS of link n lies at this offset of BAR0. -/
def statusOffset (n : Nat) : Nat := 0x6000 + 64 * n + 8

/-- STATUS_FLAG_CLEAR (R12, R304): a write of LH_STATUS, or of the LNK_n_STATUS at the offset (log 46). -/
def statusFlagClearAct (port : Bool) (offset : Nat) (v : BitVec 64) (landing : BitVec 8) : Act :=
  .look fun b => Act.when (b.ctl.mayWriteCommon port) <|
    if offset = 0x5018 then lhStatusWrite (v.truncate 8) landing
    else Act.when (decide (0x6000 ≤ offset ∧ offset < 0x7800 ∧ offset % 64 = 8)) <|
      updLink ((offset - 0x6000) / 64) fun l => l.clearChanged (v.getLsbD 24) (landing.getLsbD 0)

/-! ## SEC_BOOT and MON_CLASS (R480, R481) -/

/-- NEXT_BANK_WRITE (R459, R480): only in BOOT; 3 is reserved. -/
def nextBankWriteAct (port : Bool) (v : BitVec 2) : Act :=
  .look fun b => Act.when (b.ctl.mayWriteCommon port && b.ctl.glb.state == .boot && v != 3) <|
    .upd fun c => { c with sec := { c.sec with nextBank := v } }

/-- A byte field of MON_CLASS after a write: 0 is reserved and leaves it (R481). -/
def classField (old new : Nat) : Nat := if new % 256 = 0 then old % 256 else new % 256

/-- MON_CLASS after a write. -/
def monClassAfter (old v : BitVec 64) : BitVec 64 :=
  BitVec.ofNat 64 (classField (old.toNat / 256) (v.toNat / 256) * 256 + classField old.toNat v.toNat)

/-- MON_CLASS_WRITE (R481). -/
def monClassWriteAct (port : Bool) (v : BitVec 64) : Act :=
  .look fun b => Act.when (b.ctl.mayWriteCommon port) <|
    .upd fun c => { c with power := { c.power with monClass := monClassAfter c.power.monClass v } }

/-! ## The debug port (R471, R472, R482) -/

/-- Change the security block. -/
def updSec (f : Security → Security) : Act := .upd fun c => { c with sec := f c.sec }

/-- The n-th random nonce (log 12). -/
def nonceOf (n : Nat) : Bytes := (List.range 32).map (Config.nonceByte n)

/-- DBG_REQUEST (R471, R482): a fresh challenge for level 1 or 2, unless three submissions have failed. -/
def dbgRequestAct (port : Bool) (level : BitVec 2) : Act :=
  .look fun b => Act.when (b.ctl.mayWriteCommon port && (level == 1 || level == 2) && decide (b.ctl.sec.fails < 3)) <|
    (updSec fun s => { s with nonce := nonceOf b.fresh, pending := level.toNat, nonceAt := b.lhTime }).seq takeFresh

/-- The root public key that the running bank carries, if its digest is that of the fuses (R456). -/
def Block.rootKey (b : Block) : Option Bytes :=
  let k := (b.nor (b.ctl.sec.bank == 1)).read 32 132
  if sha512 k = b.fuses.rootHash then some k else none

/-- The response window holds keys and signatures that open the pending level (R471). -/
def Block.debugOk (b : Block) : Bool :=
  let r := b.ctl.sec.response
  let m := b.challenge
  (match b.rootKey with | some k => ecdsaVerify k (slice r 0 132) (slice r 132 132) | none => false) &&
  ecdsaVerify (slice r 0 132) m (slice r 264 132) &&
  (!b.fuses.debugOwner || (b.fuses.ownerKey (slice r 528 132) && ecdsaVerify (slice r 528 132) m (slice r 396 132)))

/-- RESULT of a submission (Table 16-10). -/
def Block.debugResult (b : Block) : Nat :=
  let s := b.ctl.sec
  if s.pending = 0 then 5
  else if s.nonceAt + 60 * second < b.lhTime then 3
  else if s.pending = 2 ∧ b.ctl.glb.state ≠ .boot ∧ b.ctl.glb.state ≠ .ready then 4
  else if b.debugOk then 1 else 2

/-- DBG_SUBMIT (R471, R482): the challenge is used up whatever the outcome; a failure counts unless no challenge was pending. -/
def dbgSubmitAct (port : Bool) : Act :=
  .look fun b => Act.when (b.ctl.mayWriteCommon port) <|
    let r := b.debugResult
    updSec fun s => { s with result := r, pending := 0, level := if r = 1 then s.pending else s.level,
                             fails := if r = 1 ∨ r = 5 then s.fails else s.fails + 1 }

/-- DBG_LOCK (R482). -/
def dbgLockAct (port : Bool) : Act :=
  .look fun b => Act.when (b.ctl.mayWriteCommon port) (updSec fun s => { s with level := 0, pending := 0 })

/-- A write into DBG_RESPONSE: only while a challenge is pending (R482). -/
def dbgResponseWrite (port : Bool) (at' : Nat) (bs : Bytes) : Act :=
  .look fun b => Act.when (b.ctl.mayWriteCommon port && b.ctl.sec.pending != 0) <|
    updSec fun s => let r := (s.response ++ zeroBytes 1024).take 1024; { s with response := r.take at' ++ bs ++ r.drop (at' + bs.length) }

/-- A write of DBG_CTRL: REQUEST, then SUBMIT, then LOCK. -/
def dbgCtrlWrite (port : Bool) (v : BitVec 64) : Act :=
  Act.all [dbgRequestAct port (v.truncate 2), Act.when (v.getLsbD 8) (dbgSubmitAct port), Act.when (v.getLsbD 9) (dbgLockAct port)]

/-! ## HIF and RING registers -/

/-- A power of two between two bounds. -/
def sizeOk (lo hi n : Nat) : Bool := decide (lo ≤ n ∧ n ≤ hi) && n == 2 ^ Nat.log2 n

/-- HIF_DB_POLL after a write; reserved values leave a field. -/
def dbPollAfter (old v : BitVec 64) : BitVec 64 :=
  let sleep := bits v.toNat 25 16
  let poll := bits v.toNat 6 0
  BitVec.ofNat 64 ((if sleep ≤ 1000 then sleep else bits old.toNat 25 16) * 65536 + (if 1 ≤ poll ∧ poll ≤ 100 then poll else bits old.toNat 6 0))

/-- HIF_CTRL written whole. -/
def hifCtrlWrite (port : Bool) (v : BitVec 64) : Act := if v.getLsbD 0 then hifEnableAct port v else hifDisableAct port v

/-- A write of a HIF register of a port (Table 16-3, R476). -/
def hifWrite (port : Bool) (o : Nat) (v : BitVec 64) : Act :=
  .look fun b => Act.when (b.ctl.barUp port) <|
    let off := !b.ctl.hifOn port
    match o with
    | 0x00 => hifCtrlWrite port v
    | 0x08 => hifWakeAct port
    | 0x10 => updHif port fun h => { h with dbPoll := dbPollAfter h.dbPoll v }
    | 0x18 => Act.when off (updHif port fun h => { h with evtBase := v &&& ~~~0xFFF })
    | 0x20 => Act.when (off && sizeOk 256 65536 (bits v.toNat 16 0)) (updHif port fun h => { h with evtSize := v &&& 0x1FFFF })
    | 0x28 => Act.when off (updHif port fun h => { h with evtDbrec := v &&& ~~~0x3F })
    | 0x30 => updHif port fun h => { h with evtMask := v }
    | 0x38 => updHif port fun h => { h with bar2Off := v &&& 0xFFFFC0000000 }
    | _ => .done

/-- A write of a register of a ring (Table 16-4, R477). -/
def ringWrite (port : Bool) (n o : Nat) (v : BitVec 64) : Act :=
  .look fun b =>
    let free := b.ctl.mayWriteRing port n && !(b.ctl.ring n).on && b.ctl.inflight n == 0
    match o with
    | 0x00 => Act.when free (updRing n fun r => { r with base := v &&& ~~~0xFFF })
    | 0x08 => Act.when free (updRing n fun r => { r with cqBase := v &&& ~~~0xFFF })
    | 0x10 => Act.when free (updRing n fun r => { r with dbrec := v &&& ~~~0x3F })
    | 0x18 => Act.when (free && sizeOk 16 65536 (bits v.toNat 16 0)) (updRing n fun r => { r with size := v &&& 0x1FFFF })
    | 0x20 => if v.getLsbD 0 then ringEnableAct port n v else ringDisableAct port n v
    | _ => .done

/-! ## The map -/

/-- A die level after a write: over 110 °C is reserved. -/
def levelField (old new : Nat) : Nat := if new % 128 ≤ 110 then new % 128 else old % 128

/-- LH_TEMP_LVL after a write. -/
def tempLvlAfter (old v : BitVec 64) : BitVec 64 :=
  BitVec.ofNat 64 (levelField (old.toNat / 256) (v.toNat / 256) * 256 + levelField old.toNat v.toNat)

/-- A write of LNK_n_CTRL (R479). -/
def linkCtrlWrite (port : Bool) (n : Nat) (v : BitVec 64) : Act :=
  if v.getLsbD 1 && !v.getLsbD 0 then lnkRetrainAct port n v else lnkDisableAct port n v

/-- A write of a register with its bits in place: `v` is the register with its unwritten half as it was (RW), `w` with 0 there (W1C, W1S,
WO); `low`: the low half is written (Tables 16-3 to 16-10).  Other offsets ignore writes. -/
def regWrite (port : Bool) (o : Nat) (low : Bool) (v w : BitVec 64) : Act :=
  if 0x1000 ≤ o ∧ o < 0x2000 then Act.when (low || (o != 0x1000 && o != 0x1010 && o != 0x1020)) (hifWrite port (o - 0x1000) v)
  else if 0x2000 ≤ o ∧ o < 0x3000 then Act.when (low || (o % 64 != 0x18 && o % 64 != 0x20)) (ringWrite port ((o - 0x2000) / 64) (o % 64) v)
  else if o = 0x5008 ∨ o = 0x5010 then lhCmpWriteAct port (o == 0x5010) v
  else if low = false then .done
  else if o = 0x4008 then Act.when (w.getLsbD 0) (pwrReqRemoveAct port)
  else if o = 0x5018 then statusFlagClearAct port o w 0
  else if o = 0x5020 then .look fun b => Act.when (b.ctl.mayWriteCommon port) (updLh fun h => { h with wakeEn := v &&& 0x3F })
  else if o = 0x5028 then .look fun b => Act.when (b.ctl.mayWriteCommon port) (updLh fun h => { h with tempLvl := tempLvlAfter h.tempLvl v })
  else if 0x6000 ≤ o ∧ o < 0x7800 ∧ o % 64 = 0 then linkCtrlWrite port ((o - 0x6000) / 64) v
  else if 0x6000 ≤ o ∧ o < 0x7800 ∧ o % 64 = 8 then statusFlagClearAct port o w 0
  else if o = 0x8000 then nextBankWriteAct port (BitVec.ofNat 2 (bits v.toNat 5 4))
  else if o = 0x9018 then monClassWriteAct port v
  else if o = 0xA000 then dbgCtrlWrite port w
  else .done

/-- The register with the written half in place and the other as it was. -/
def mergeHalf (old : Nat) (o size : Nat) (v : Nat) : Nat :=
  if size = 8 then v % 2 ^ 64
  else if o % 8 = 0 then old / 2 ^ 32 * 2 ^ 32 + v % 2 ^ 32
  else old % 2 ^ 32 + v % 2 ^ 32 * 2 ^ 32

/-- REGISTER_WRITE (R473, R474): an aligned access of 4 or 8 bytes; every other is discarded. -/
def registerWriteAct (port : Bool) (offset size : Nat) (value : BitVec 64) : Act :=
  .look fun b => Act.when (barAligned offset size && b.ctl.barUp port) <|
    if 0xA400 ≤ offset ∧ offset < 0xA800 then dbgResponseWrite port (offset - 0xA400) (leBytes value.toNat size)
    else
      let o := offset / 8 * 8
      regWrite port o (size == 8 || offset % 8 == 0) (BitVec.ofNat 64 (mergeHalf (b.reg port o) offset size value.toNat))
        (BitVec.ofNat 64 (mergeHalf 0 offset size value.toNat))

/-! ## Meanings -/

/-- LH_CMP_WRITE. -/
def execLhCmpWrite (port which : Fin 2) (v : BitVec 64) (s : State) : Host.Outcome State Fault Refusal :=
  s.perform (lhCmpWriteAct (port == 1) (which == 1) v)
/-- STATUS_FLAG_CLEAR. -/
def execStatusFlagClear (port : Fin 2) (offset : Nat) (v : BitVec 64) (landing : BitVec 8) (s : State) : Host.Outcome State Fault Refusal :=
  s.perform (statusFlagClearAct (port == 1) offset v landing)
/-- NEXT_BANK_WRITE. -/
def execNextBankWrite (port : Fin 2) (v : BitVec 2) (s : State) : Host.Outcome State Fault Refusal := s.perform (nextBankWriteAct (port == 1) v)
/-- MON_CLASS_WRITE. -/
def execMonClassWrite (port : Fin 2) (v : BitVec 64) (s : State) : Host.Outcome State Fault Refusal := s.perform (monClassWriteAct (port == 1) v)
/-- DBG_REQUEST. -/
def execDbgRequest (port : Fin 2) (level : BitVec 2) (s : State) : Host.Outcome State Fault Refusal := s.perform (dbgRequestAct (port == 1) level)
/-- DBG_SUBMIT. -/
def execDbgSubmit (port : Fin 2) (s : State) : Host.Outcome State Fault Refusal := s.perform (dbgSubmitAct (port == 1))
/-- DBG_LOCK. -/
def execDbgLock (port : Fin 2) (s : State) : Host.Outcome State Fault Refusal := s.perform (dbgLockAct (port == 1))
/-- REGISTER_WRITE. -/
def execRegisterWrite (port : Fin 2) (offset size : Nat) (v : BitVec 64) (s : State) : Host.Outcome State Fault Refusal :=
  s.perform (registerWriteAct (port == 1) offset size v)

end Sys2Proof.Machine
end

