-- ==== Sys2Proof/Machine/ShoalIndex.lean ====
section
/-! DEFINITION. The Shoal index: its layout on flash, node records, versions, distances and the traversal (R369, R372 to R382). -/

namespace Sys2Proof.Machine

/-! ## Layout (Tables 12-1, 12-2) -/

/-- Bytes of the flash logical space (R369). -/
def flashBytes : Nat := 55 * 2 ^ 40

/-- Flash channel of a logical unit (R369). -/
def flashChannel (u : Nat) : Nat :=
  let pos := u % 15
  if pos < u / 15 % 16 then pos else pos + 1

/-- DIM of an index header. -/
def hDim (h : Bytes) : Nat := u16 h 16
/-- DEGREE. -/
def hDegree (h : Bytes) : Nat := u8 h 18
/-- NORMALISED. -/
def hNormalised (h : Bytes) : Bool := bit (u8 h 19) 0
/-- RERANK. -/
def hRerank (h : Bytes) : Bool := bit (u8 h 19) 1
/-- ENTRY_COUNT. -/
def hEntries (h : Bytes) : Nat := u8 h 23
/-- ALPHA. -/
def hAlpha (h : Bytes) : BitVec 32 := BitVec.ofNat 32 (u32 h 24)
/-- CAPACITY. -/
def hCapacity (h : Bytes) : Nat := u64 h 32
/-- First flash address of the records region. -/
def hRecords (h : Bytes) : Nat := u64 h 56 + u64 h 64

/-- The identity that stands for none. -/
def noIdentity : Nat := 0xFFFFFFFFFF

/-- First flash address of the codebook. -/
def codebookBase : Nat := 0x1000

/-- First flash address of the map region. -/
def mapBase (dim : Nat) : Nat := codebookBase + roundUp (dim * 512) 4096

/-- RERANK_ROW (R373). -/
def rerankRow (dim : Nat) : Nat := if 2 * dim ≤ 128 then 128 else 2 ^ (Nat.log2 (2 * dim - 1) + 1)

/-- The header that MODE 1 lays out from a command's parameters (Tables 12-1, 12-2), but for CHECK. -/
def newHeader (c : Bytes) : Bytes :=
  let dim := u16 c 34
  let cap := u64 c 48
  let rerank := bit (u8 c 33) 1
  let afterMap := mapBase dim + roundUp (2 * 5 * cap) 4096
  let row := if rerank then rerankRow dim else 0
  leBytes 0x53484F4C 4 ++ leBytes 1 4 ++ slice c 72 8 ++ leBytes dim 2 ++ slice c 36 1 ++ slice c 33 1 ++ slice c 38 2 ++ slice c 40 1 ++ slice c 37 1 ++
  slice c 44 4 ++ zeroBytes 4 ++ leBytes cap 8 ++ leBytes (if rerank then afterMap else 0) 8 ++ leBytes row 4 ++ zeroBytes 4 ++
  leBytes (roundUp (afterMap + cap * row) 4096) 8 ++ slice c 64 8 ++ zeroBytes 56 ++ List.replicate 80 0xFF ++ zeroBytes 3884

/-- An object of 4,096 bytes whose CHECK covers the bytes before it. -/
def sealHeader (h : Bytes) : Bytes := h.take 4092 ++ leBytes (crc32c (h.take 4092)) 4

/-- The regions of a header fit the flash logical space, and the records region has its 1.25 × CAPACITY units (R373). -/
def headerFits (h : Bytes) : Bool := decide (hRecords h + ceilDiv (5 * hCapacity h) 4 * 4096 ≤ flashBytes)

/-- Units of the records region: the first, and how many. -/
def recordUnits (h : Bytes) : Nat × Nat := (hRecords h / 4096, (flashBytes - hRecords h) / 4096)

/-- Entry points in the header, those that are set. -/
def headerEntries (h : Bytes) : List Nat :=
  ((List.range (min 16 (hEntries h))).map fun i => fld h (128 + 5 * i) 5).filter fun e => e != noIdentity

/-- The header with its entry points replaced. -/
def setEntries (h : Bytes) (es : List Nat) : Bytes :=
  sealHeader (patch h 128 (((List.range 16).map fun i => es.getD i noIdentity).flatMap fun e => leBytes e 5))

/-- A valid header (Table 12-2). -/
def headerValid (h : Bytes) : Bool := u32 h 0 == 0x53484F4C && u32 h 4 == 1 && u64 h 8 != 0 && u32 h 4092 == crc32c (h.take 4092)

/-- Element (s, c, j) of the codebook, widened (Table 12-1). -/
def codebook (flash : Memory) (dim s c j : Nat) : Val :=
  (fmtOf 1).decode (flash.nat (codebookBase + ((s * 256 + c) * (dim / 64) + j) * 2) 2)

/-! ## Node records (Table 12-3) -/

/-- The record of a version without its CHECK. -/
def Node.plain (n : Node) : Bytes :=
  leBytes 0x4E4F4445 4 ++ leBytes n.id 5 ++ leBytes n.nbrs.length 1 ++ leBytes (if n.deleted then 1 else 0) 1 ++ [0] ++ zeroBytes 4 ++
  leBytes n.epoch 8 ++ leBytes n.prev 8 ++ leBytes n.payload 8 ++ leBytes n.tokens 4 ++ zeroBytes 76 ++ (n.attr ++ zeroBytes 48).take 48 ++
  (n.code ++ zeroBytes 64).take 64 ++ ((List.range 56).flatMap fun i => leBytes ((n.nbrs.map Prod.fst).getD i noIdentity) 5) ++
  ((List.range 56).flatMap fun i => (((n.nbrs.map Prod.snd).getD i []) ++ zeroBytes 64).take 64)

/-- The record of a version. -/
def Node.bytes (n : Node) : Bytes :=
  let p := n.plain
  p.take 12 ++ leBytes (crc32c (p.take 12 ++ p.drop 16)) 4 ++ p.drop 16

/-- The version that a record holds. -/
def nodeOf (r : Bytes) : Node :=
  { id := fld r 4 5, deleted := bit (u8 r 10) 0, epoch := u64 r 16, prev := u64 r 24, payload := u64 r 32, tokens := u32 r 40,
    attr := slice r 120 48, code := slice r 168 64,
    nbrs := (List.range (min 56 (u8 r 9))).map fun i => (fld r (232 + 5 * i) 5, slice r (512 + 64 * i) 64) }

/-- The map entry of a node as a search of an epoch sees it: a consolidated node's entry is 0 from its epoch on (R375, R392) (log 31). -/
def Shoal.mapAt (s : Shoal) (id e : Nat) : Nat :=
  match s.freed.find? fun f => f.id == id && decide (e < f.epoch) with
  | some f => f.unit
  | none => Tab.get 0 s.nodeMap id

/-- The versions of a chain down to the one an epoch sees, and the flash reads that takes (R376). -/
def readChain (flash : Memory) (e : Nat) : Nat → Nat → Option Node × Nat
  | 0, _ => (none, 0)
  | fuel + 1, unit =>
    let n := nodeOf (flash.read (unit * 4096) 4096)
    if n.epoch ≤ e then (some n, 1)
    else if n.prev = 0 then (none, 1)
    else
      let (r, k) := readChain flash e fuel (n.prev / 4096)
      (r, k + 1)

/-- read_node(n, e) (R376): the node, and the units read. -/
def Block.readNode (b : Block) (id e : Nat) : Option Node × Nat :=
  let u := b.ctl.shoal.mapAt id e
  if u = 0 then (none, 0) else readChain b.flash e (b.ctl.shoal.epoch + 1) u

/-! ## Distances (R380, R381) -/

/-- A sum of products in ascending order, one FP32 rounding per multiply-add. -/
def sumProducts (xs : List (Val × Val)) : Val := xs.foldl (fun acc p => (Val.addX false acc (Val.mul p.1 p.2)).f32) Val.zero

/-- A sum of squared differences under the same rounding. -/
def sumSquares (xs : List (Val × Val)) : Val := sumProducts (xs.map fun p => let d := Val.addX false p.1 p.2.neg; (d, d))

/-- round32(1 / sqrt(Σ q²)) (R380). -/
def normScale (q : List Val) : Val := (Val.div Val.one (sumProducts (q.map fun x => (x, x))).sqrt).f32

/-- A vector scaled to unit length, element by element in FP32. -/
def normalise (q : List (BitVec 32)) : List (BitVec 32) :=
  let k := normScale (q.map ofF32)
  q.map fun w => (Val.mul (ofF32 w) k).word32

/-- The FP16 value nearest to a value under R28. -/
def toF16 (v : Val) : Val := (fmtOf 2).decode ((fmtOf 2).convert v).1

/-- The part of a query in subspace s beside the centroid c. -/
def subPairs (flash : Memory) (dim : Nat) (q : List (BitVec 32)) (s c : Nat) : List (Val × Val) :=
  (List.range (dim / 64)).map fun j => (ofF32 (q.getD (s * (dim / 64) + j) 0), codebook flash dim s c j)

/-- Entry (s, c) of the distance table of a query (R380). -/
def distEntry (flash : Memory) (dim metric : Nat) (q : List (BitVec 32)) (s c : Nat) : Val :=
  toF16 (if metric = 0 then sumSquares (subPairs flash dim q s c) else (sumProducts (subPairs flash dim q s c)).neg)

/-- The sum of the 64 entries a code selects, exact, then rounded once to FP32 (R381). -/
def sumCode (entry : Nat → Nat → Val) (code : Bytes) : BitVec 32 :=
  ((code.take 64).zipIdx.foldl (fun acc x => Val.addX false acc (entry x.2 x.1.toNat)) Val.zero).word32

/-- Code distance of a code to a query. -/
def codeDistance (flash : Memory) (dim metric : Nat) (q : List (BitVec 32)) (code : Bytes) : BitVec 32 :=
  sumCode (distEntry flash dim metric q) code

/-- Code-to-code distance (R390). -/
def codeToCode (flash : Memory) (dim : Nat) (a c : Bytes) : BitVec 32 :=
  sumCode (fun s k => toF16 (sumSquares ((List.range (dim / 64)).map fun j => (codebook flash dim s k j, codebook flash dim s (c.getD s 0).toNat j)))) a

/-- The product code of a vector (R389): in each subspace the centroid with the least L2 sum, the lower on a tie. -/
def encodeVec (flash : Memory) (dim : Nat) (q : List (BitVec 32)) : Bytes :=
  (List.range 64).map fun s =>
    let d := fun c => sumSquares (subPairs flash dim q s c)
    BitVec.ofNat 8 ((List.range 256).foldl (fun best c => if Val.lt (d c) (d best) then c else best) 0)

/-- Order of FP32 distances: by value, the two zeros equal, NaN last (log 30). -/
def distKey (w : Nat) : Nat :=
  let m := w % 2 ^ 31
  if 0x7F800000 < m then 2 ^ 33 else if w / 2 ^ 31 = 1 then 2 ^ 32 - m else 2 ^ 32 + m

/-- (distance, identity) of one comes before the other's (log 30). -/
def nearer (d1 id1 d2 id2 : Nat) : Bool := decide (distKey d1 < distKey d2 ∨ (distKey d1 = distKey d2 ∧ id1 < id2))

/-! ## Traversal (R382) -/

/-- A candidate put at its place in an ordered list. -/
def putCand (x : Cand) : List Cand → List Cand
  | [] => [x]
  | y :: ys => if nearer x.dist x.id y.dist y.id then x :: y :: ys else y :: putCand x ys

/-- The candidate of an expanded node. -/
def candOf (dist : Bytes → BitVec 32) (n : Node) : Cand :=
  { dist := (dist n.code).toNat, id := n.id, expanded := true, deleted := n.deleted, attr := n.attr, payload := n.payload, tokens := n.tokens }

/-- The candidate of a neighbour that has not been read. -/
def candNew (dist : Bytes → BitVec 32) (j : Nat × Bytes) : Cand :=
  { dist := (dist j.2).toNat, id := j.1, expanded := false, deleted := false, attr := [], payload := 0, tokens := 0 }

/-- One read node enters a candidate list and a visited set. -/
def expandNode (dist : Bytes → BitVec 32) (st : List Cand × List Nat) (n : Node) : List Cand × List Nat :=
  n.nbrs.foldl (fun st j => if st.2.contains j.1 then st else (putCand (candNew dist j) st.1, j.1 :: st.2)) (putCand (candOf dist n) st.1, st.2)

/-- expand(recs): the list after a step whose reads have all returned. -/
def expandAll (dist : Bytes → BitVec 32) (lst : Nat) (ids : List Nat) (nodes : List Node) (cand : List Cand) (visited : List Nat) :
    List Cand × List Nat :=
  let st := nodes.foldl (expandNode dist) (cand.filter fun c => !ids.contains c.id, visited)
  (st.1.take lst, st.2)

/-- The first w entries not yet expanded. -/
def nextBatch (w : Nat) (cand : List Cand) : List Nat := ((cand.filter fun c => !c.expanded).take w).map Cand.id

/-- search(q, e, lst, w) run to its end over a view of the nodes, after its first step. -/
def searchLoop (view : Nat → Option Node) (dist : Bytes → BitVec 32) (lst w : Nat) : Nat → List Cand → List Nat → List Cand
  | 0, cand, _ => cand
  | fuel + 1, cand, visited =>
    match nextBatch w cand with
    | [] => cand
    | batch =>
      let st := expandAll dist lst batch (batch.filterMap view) cand visited
      searchLoop view dist lst w fuel st.1 st.2

/-- A whole search (R382) from the entry points.  Every step expands an identity that no step before it did, so CAPACITY steps are enough. -/
def searchAll (view : Nat → Option Node) (dist : Bytes → BitVec 32) (entries : List Nat) (lst w capacity : Nat) : List Cand :=
  let st := expandAll dist lst [] (entries.filterMap view) [] entries
  searchLoop view dist lst w (capacity + 1) st.1 st.2

end Sys2Proof.Machine
end

