-- ==== Sys2Proof/Machine/Takeover.lean ====
section
/-! DEFINITION. The Breakwater pair as a whole: binding, heartbeats, silence, takeover, resynchronisation and handback (R351, R352, R412,
R413, R418 to R427, Tables 13-7 to 13-9). -/

namespace Sys2Proof.Machine

/-! ## Watching (R418) -/

/-- A board link to a slot is up. -/
def Block.upTo (b : Block) (slot : Nat) : Bool :=
  b.ctl.links.links.any fun e => boardLink e.1 && groupSlot b.slot e.1 == slot && e.2.state == .up

/-- This module relays for the pair of slots 2k and 2k + 1: it is up to both, and fewer than two lower slots are (log 33). -/
def Block.relays (b : Block) (k : Nat) : Bool :=
  b.slot / 2 != k && b.upTo (2 * k) && b.upTo (2 * k + 1) &&
  decide (((List.range b.slot).filter fun s => s / 2 != k && b.upTo s).length < 2)

/-- Nanoseconds of silence after which a member is isolated, and after which it takes over. -/
def isolationNs : Nat := 100000
def partnerNs : Nat := 200000

/-- A relay's own heartbeats continue. -/
def Block.relayHeard (b : Block) : Bool := b.ctl.pair.relay.isSome && decide (b.lhTime < b.ctl.pair.heardR + isolationNs)

/-- The rank of the partner in this module's job. -/
def Ctl.partnerRank (c : Ctl) : Option Nat := if c.links.fabric.fabric = 0 then none else c.links.fabric.rankOfSerial c.pair.partnerSerial

/-- The pair is armed (R426): both members are bound, and in a job START_JOB has completed on both. -/
def Ctl.pairArmed (c : Ctl) : Bool :=
  c.pair.role == .bound && c.pair.armed && c.job.starting.isNone &&
  (!c.job.inJob || (match c.partnerRank with | some r => c.job.started.contains r | none => true))

/-- HEARTBEAT_SEND (R418): a member sends to its partner, and a relay sends its own heartbeat to both members of a pair. -/
def heartbeatSendAct : Act :=
  .look fun b => Act.when (b.ctl.awake && b.ctl.linksAlive) <|
    (Act.when (b.ctl.bound && b.ctl.pair.role != .survivor) <| (send .partner (.beat none)).seq <|
      Act.each ((List.range 8).filter fun s => s / 2 != b.slot / 2 && b.upTo s) fun s => send (.slot s) (.beat (some b.slot))).seq
    (Act.each [0, 1, 2, 3] fun k => Act.when (b.relays k) <| (send (.slot (2 * k)) (.beat none)).seq (send (.slot (2 * k + 1)) (.beat none)))

/-- HEARTBEAT (R418, R426): the silence timers restart; a bound partner's heartbeat outside a job arms the pair. -/
def heartbeatAct (f : BeatFrom) : Act :=
  .look fun b => Act.when b.ctl.awake <|
    match f with
    | .partner _ => Act.when (b.ctl.bound && b.ctl.pair.role != .survivor) <| .upd fun c =>
        { c with pair := { c.pair with heardP := b.lhTime, armed := c.pair.armed || (c.pair.role == .bound && !c.job.inJob) } }
    | .relay s => Act.when b.ctl.bound (.upd fun c => { c with pair := { c.pair with heardR := b.lhTime, relay := some s.val } })
    | .member s => Act.when (b.relays (s.val / 2)) (send (.slot (if s.val % 2 = 0 then s.val + 1 else s.val - 1)) (.beat (some s.val)))

/-- ISOLATION_TIMEOUT (R418): 100 µs without a heartbeat of either kind: the member fences itself (log 43). -/
def isolationTimeoutAct : Act :=
  .look fun b => Act.when (b.ctl.awake && b.ctl.bound && b.ctl.pair.role != .survivor &&
      decide (b.ctl.pair.heardP + isolationNs ≤ b.lhTime ∧ b.ctl.pair.heardR + isolationNs ≤ b.lhTime)) (fence 1)

/-! ## Loss of the job (R426) -/

/-- STOP_JOB MODE 1 as bytes of a command. -/
def abortCommand : Bytes := [0x05] ++ zeroBytes 31 ++ [1] ++ zeroBytes 95

/-- The job is lost: the leader, or its partner when the leader is the one that failed, acts as STOP_JOB MODE 1 on every remaining rank,
and running commands end with E_ABORTED; another rank tells the leader. -/
def jobLost (failed : Option Nat) : Act :=
  .look fun b => Act.when (b.ctl.job.inJob || b.ctl.job.starting.isSome) <|
    if b.ctl.leader || failed == some 0 then Act.all [
      toOthers fun _ => .fanout { cmd := abortCommand, key := noKey, vbase := 0, openTime := 0, list := [] },
      Act.each (b.ctl.hif.cmds.filter fun x => (isSeqOp (cOp x.bytes) || cOp x.bytes == 0x04 || cOp x.bytes == 0x05) && x.phase != .finished)
        fun x => finish x.id .eAborted [],
      stopPart noKey 1]
    else Act.opt failed fun r => send (.rank 0) (.faultNotice (some r))

/-- The member leaves the pair: BOUND reads 0. -/
def leavePair : Act := .upd fun c => { c with pair := Pair.blank, health := { c.health with wanted := true } }

/-- A failure of the partner before the pair is armed, or with no relay: the pair ends, and the job with it. -/
def pairEnds : Act := .look fun b => leavePair.seq (jobLost b.ctl.partnerRank)

/-- The replacement is lost: its copy is discarded and the survivor stays DEGRADED (R424). -/
def resyncEnds : Act :=
  .look fun b => Act.all [
    .upd fun c => { c with pair := { c.pair with role := .survivor, snapshot := false, handback := none } },
    Act.opt b.ctl.pair.handback fun id => finish id .eState []]

/-- The survivor is lost while this replacement resynchronises (R426). -/
def replacementEnds : Act :=
  leavePair.seq (.upd fun c => { c with job := Job.blank, glb := { c.glb with state := if c.plan.loaded then .loaded else .ready } })

/-- The partner has failed: a takeover is due, or the pair ends. -/
def partnerFailed (cause : Nat) : Act :=
  .look fun b =>
    match b.ctl.pair.role with
    | .bound => if b.ctl.pairArmed && b.relayHeard then .upd fun c => { c with pair := { c.pair with takeCause := some cause } } else pairEnds
    | .resyncing _ => resyncEnds
    | .replacement _ => replacementEnds
    | _ => .done

/-- PARTNER_TIMEOUT (R418, R424, R426): 200 µs without the partner while a relay is heard. -/
def partnerTimeoutAct : Act :=
  .look fun b => Act.when (b.ctl.awake && decide (b.ctl.pair.heardP + partnerNs ≤ b.lhTime) && b.relayHeard) (partnerFailed 1)

/-- FAULT_NOTICE (R418, R426): the partner's declared fault; or a rank's report that another has failed for good. -/
def faultNoticeAct : Option Nat → Act
  | none => .look fun b => Act.when b.ctl.awake (partnerFailed 2)
  | some r => .look fun b => Act.when (b.ctl.awake && b.ctl.leader) (jobLost (some r))

/-! ## The second rank context (R420) -/

/-- A buffer in the second rank context: its place in the context area, or the survivor's own frames of a buffer that is the same on
every rank. -/
def secondBuf (x : Buf) : Act :=
  .look fun b =>
    let e := x.entry
    if bufKind e = 6 then mapAlias true x
    else if 2 ≤ bufTier e then .done
    else if inContext x then
      Act.each (b.ctl.plan.contextPieces.filter fun p => decide (bufVaddr e ≤ p.2.vaddr ∧ p.2.vaddr < bufVaddr e + bufBytes e)) fun (off, q) =>
        mapRun true { shift := 13, lo := q.vaddr, hi := q.vaddr + q.bytes } (b.contextBase + off) 1 (bufReadonly e)
    else mapBuf true x

/-- The failed rank's buffer map as this module serves it (R420). -/
def Block.secondMap (b : Block) (failedSlot : Fin 8) (rank : Nat) : BufferMapMsg :=
  let cs := b.ctl.plan.contextPieces
  let place := fun (x : Buf) (q : Piece) =>
    if 2 ≤ bufTier x.entry then b.contextAddr q.paddr
    else match cs.find? fun p => p.2 == q with | some p => b.contextBase + p.1 | none => q.paddr
  { slot := b.ctl.glb.slot, home := failedSlot, rank := rank,
    pieces := b.ctl.plan.bufs.zipIdx.flatMap fun (x, i) => x.pieces.map fun q => { index := i, vaddr := q.vaddr, paddr := place x q, bytes := q.bytes } }

/-- A page of a sequence in the second rank context: the failed rank's in its mirror frame, another as the first context has it.  Of a
sequence that is `out` in host swap, an unpinned page of the failed share goes from the mirror copy to a free swap slot (R186; log 42). -/
def secondPage (out : Bool) (q rank layer page : Nat) : Act :=
  .look fun b =>
    let va := (b.seq q).pageAddr layer page
    let own := b.pageEntry false va
    if b.ctl.holder layer page = rank then
      match b.ctl.pair.frames.find? fun m => m.2 == pageKey q layer page with
      | some m =>
        let pin := (b.ctl.seqFw q).pinOf layer page
        let place := Act.all [addRef m.1 1, ownFrame m.1 q layer page, putEntry q layer page (mkEntry (m.1 * 8192) b.slot 1 false pin)]
        match (if out && !pin then b.ctl.slotsFree 1 else []).head? with
        | some slot => Act.all [place,
            ebbPage q { second := true, layer := layer, page := page, entry := mkEntry (m.1 * 8192) b.slot 1 false pin } slot, dropFrame m.1]
        | none => place
      | none => Act.when (own != absentEntry) (setPage false q va absentEntry)
    else Act.when (own != absentEntry) (setPage true q va own)

/-- The failed rank's pages of a sequence are to be out in host swap: its Ebb is over on this rank, and where its Flood has begun the failed
rank had not done its part (R186). -/
def Block.secondOut (b : Block) (rank q : Nat) : Bool :=
  let s := b.ctl.seqFw q
  let flooded := match s.resume with | some key => b.ctl.pair.journal.any fun j => j == (key, rank) | none => false
  (s.pre == .swapped || s.pre == .flooded) && !flooded

/-- A sequence in the second rank context: its tables, its table entry and its pages.  A Flood that is done here begins again for the pages
of the failed share (R186). -/
def secondSeq (rank q : Nat) : Act :=
  .look fun b =>
    let (lo, hi) := b.seqRange q
    let out := b.secondOut rank q
    let image := match b.ctl.pair.seqs.find? fun i => i.seq == q with | some i => i.entry | none => b.seqBytes false q
    Act.all [buildTables true lo hi, writeVa { fwSpace with second := true } (b.ctl.plan.seqEntry q) image,
      Act.each (List.range b.ctl.plan.layers) fun l => Act.each (List.range (b.seq q).capPages) fun n => secondPage out q rank l n,
      Act.when (out && (b.ctl.seqFw q).resume.isSome) (.upd fun c =>
        let d := c.setSeqFw q fun s => { s with pre := .swapped }
        { d with fw := { d.fw with invals := d.fw.invals.filter fun i => i.what != .flood q } })]

/-- Semaphores of the second rank context: at their initial values, and those that outlast a pass as the failed rank's last state record
gave them (R20, R287, R420; log 34). -/
def secondSems : Act :=
  .look fun b => (Act.each (b.semInits ++ (upto 16256 16320).map fun s => (s, 0)) fun (s, v) =>
    .one (.semReset (semIn true s) (v % 2 ^ 31))).seq (putSems true b.ctl.pair.sems)

/-- The second rank context opens (Table 13-7 step 5). -/
def openSecond (failedSlot : Fin 8) (rank : Nat) : Act :=
  .look fun b => Act.all [
    .one (.mem (b.root true) (zeroBytes 256)),
    .upd fun c => { c with pair := { c.pair with tables2 := [], absent2 := none } },
    Act.when b.ctl.plan.hasSeqs (makeAbsent true),
    Act.each b.ctl.plan.bufs secondBuf, Act.each b.ctl.job.maps mapAliases, mapAliases b.ctl.bufferMap, mapAliases (b.secondMap failedSlot rank),
    toBoard (.bufferMap (b.secondMap failedSlot rank)),
    Act.each b.ctl.openings (fun q => buildTables true (b.rangeOf q).1 (b.rangeOf q).2),
    Act.each b.openSeqs (secondSeq rank), secondSems]

/-- The failed rank's records begin to move from their mirror frames to HBM4 where they are placed there and it has free frames
(Table 13-7 step 6). -/
def moveSecond : Act :=
  .look fun b => Act.each b.openSeqs fun q => Act.each ((b.heldPages q true).filter fun x => (b.frameOf x.entry).isSome && (b.ctl.seqFw q).tierOf x.layer x.page == 0)
    fun x => startMove q 0 0 x.layer x.page

/-! ## Takeover (R352, R419 to R421) -/

/-- TAKEOVER_BEGIN (Table 13-9). -/
def takeoverBegin (serial rank slot cause : Nat) : Act :=
  raise 0x0300 (src 9 slot) (serial % 2 ^ 32 * 2 ^ 32 + rank % 65536 * 65536 + slot % 256 * 256 + cause % 256)

/-- The partner's ring 0 becomes ring 64 of this module, with its priority, vector and interrupt bits at their reset values (log 35): entries that
the host may not have are rewritten, and its record is polled for good. -/
def takeRing : Act :=
  .look fun b =>
    let r := b.ctl.pair.ring
    Act.all [
      updRing partnerRing fun _ =>
        { base := BitVec.ofNat 64 r.base, cqBase := BitVec.ofNat 64 r.cqBase, dbrec := BitVec.ofNat 64 r.dbrec, size := BitVec.ofNat 64 r.size,
          ctrl := BitVec.ofNat 64 (r.vector * 256 + 1), sqTail := r.sqHead, sqHead := r.sqHead, cqHead := r.cqHead, cqCount := r.cqCount },
      Act.each (r.entries.filter fun e => decide ((e.1 + 2 ^ 32 - r.cqHead) % 2 ^ 32 < 2 ^ 31)) fun e =>
        .one (.host (r.cqBase + e.1 % max r.size 1 * 32) e.2),
      .one (.host (r.dbrec + 12) [1])]

/-- How a command of the failed ring goes on (R352, R421): steps where the mirrored state leaves them, a non-step command of which this
rank has done or begun its part as running, any other from its start. -/
def Block.adopted (b : Block) (rank : Option Nat) (id i : Nat) (bytes : Bytes) : Cmd :=
  let x := Cmd.fresh id partnerRing i bytes
  let done := b.ctl.fw.journal.any fun j => j.1 == x.key
  let begun := (b.ctl.fw.tasks.any fun t => t.key == x.key) || b.ctl.fw.invals.any fun v => match v.what with | .close _ k _ => k == x.key | _ => false
  let all := List.range b.ctl.jobP
  match b.ctl.pair.progress.find? fun p => p.index == i with
  | some p => cmdOfProgress id partnerRing p
  | none =>
    if decide (0x10 ≤ cOp bytes ∧ cOp bytes ≤ 0x16) && (done || begun) then
      { x with phase := .running, waitMet := true, steps := 1, ranks := if done then all.filter fun r => r != b.ctl.rank && rank != some r else all }
    else x

/-- A share that the failed rank had not recorded is applied to its pages (R421). -/
def shareSecond (x : Cmd) : Act :=
  .look fun b => Act.when (cOp x.bytes == 0x16 && !(b.ctl.pair.journal.any fun j => j.1 == x.key && b.ctl.pair.rank2 == some j.2)) <|
    let l := b.editList x
    Act.each ((b.edits (cSeq x.bytes) l).filter fun e => e.kind == 4) fun e =>
      Act.each ((b.editPages (cSeq x.bytes) x.key e).filter fun p => p.second && p.entry == absentEntry) (sharePage (cSeq x.bytes) e)

/-- The failed rank's part of every command of which this rank has done its own is done; a running command of the failed ring goes out
to the other ranks again, and one with no part left ends (R421). -/
def continueCommands : Act :=
  .look fun b => Act.opt b.ctl.pair.rank2 fun r =>
    if b.ctl.leader then
      Act.each (b.ctl.hif.cmds.filter fun x => decide (0x10 ≤ cOp x.bytes ∧ cOp x.bytes ≤ 0x16) && x.phase == .running &&
          !decide (cOp x.bytes = 0x11 ∨ cOp x.bytes = 0x12)) fun x =>
        Act.all [shareSecond x,
          Act.when (x.ring == partnerRing) (fanCommand x (if cOp x.bytes = 0x16 then (if x.steps = checkStep then 1 else if hasShare (b.editList x) then 2 else 0)
              else (b.seqOrOpening (cSeq x.bytes)).vbase) (b.seqOrOpening (cSeq x.bytes)).openTime
            (if cOp x.bytes = 0x16 then b.editList x else [])),
          if x.ranks.isEmpty then endParts x x.status
          else if x.steps = checkStep then rankPart r (x.key + checkKey) (if b.editsOk (cSeq x.bytes) x.key (b.editList x) then 0 else Status.eFormat.code)
          else Act.opt (b.ctl.fw.journal.find? fun j => j.1 == x.key) fun j => rankPart r x.key j.2]
    else Act.each (b.ctl.fw.journal.filter fun j => j.1 != noKey) fun j => send (.rank 0) (.rankFinished r j.1 j.2)

/-- A commit notice that this module holds completes steps 5 and 6 on it as the new leader (R417). -/
def finishCommit (n : CommitNotice) : Act :=
  .look fun b =>
    let t := b.seq n.seq
    let x := b.ctl.hif.cmds.find? fun x => x.ring == partnerRing && cSeq x.bytes == n.seq && decide (cOp x.bytes = 0x11 ∨ cOp x.bytes = 0x12) && x.phase == .running
    Act.all [
      setSeq n.seq fun s => { s with length := n.e, committed := n.e, pending := n.pending },
      Act.opt x fun x =>
        let kind := if cOp x.bytes = 0x12 then 3 else 1
        Act.all [
          updCmd x.id fun y => { y with passes := y.passes + 1, steps := if kind = 3 then y.steps + 1 else y.steps,
                                        tokens := if kind = 3 then y.tokens else y.tokens + (n.e - t.committed) },
          Act.when (kind == 3) (putToken x n.pending), stepDone x kind n.pending],
      .upd fun c => { c with job := { c.job with pass := none } },
      commitHooks, boundaryWork n.seq]

/-- Uncommitted work of the job is abandoned on this rank (R214, R273): plan work stops, and LENGTH is COMMITTED. -/
def abandonWork : Act :=
  Act.all [discardPass, .upd fun c => { c with job := { c.job with pass := none } },
    .look fun b => Act.each (b.openSeqs.filter fun q => (b.seq q).length != (b.seq q).committed) fun q => setSeq q fun s => { s with length := s.committed }]

/-- A rank's place in the rank table changes. -/
def rebind (rank serial slot : Nat) : Act :=
  .upd fun c => { c with links := { c.links with fabric := { c.links.fabric with
    ranks := c.links.fabric.ranks.modify rank fun e => { e with serial := serial, slot := slot } } } }

/-- The failed rank's share moves to this module in a running job (Table 13-7 steps 2 to 7). -/
def takeShare (rank : Nat) (cause : Nat) : Act :=
  .look fun b =>
    let slot : Fin 8 := Fin.ofNat 8 b.ctl.pair.partner
    let replay := cause != 4 && b.ctl.pair.notice.isNone
    Act.all [
      .upd fun c => { c with
        glb := { c.glb with state := if c.glb.state = .running then .degraded else c.glb.state },
        job := { c.job with regions := c.job.regions ++ c.pair.regions.filter fun r => !c.job.regions.contains r },
        pair := { c.pair with rank2 := some rank } },
      rebind rank b.fuses.serial.toNat b.slot,
      toOthers fun _ => .abandon { failedRank := rank, failedSlot := slot.val, partnerSlot := b.slot, partnerSerial := b.fuses.serial.toNat, replay := replay },
      Act.when replay abandonWork,
      openSecond slot rank,
      Act.when replay abandonWork, moveSecond]

/-- TAKEOVER (R214, R352, R418 to R421, R425). -/
def takeoverAct : Act :=
  .look fun b => Act.when (b.ctl.awake && b.ctl.pair.role == .bound) <| Act.opt b.ctl.pair.takeCause fun cause =>
    if !b.ctl.pairArmed then pairEnds
    else
      let p := b.ctl.pair
      let rank := if b.ctl.job.inJob then b.ctl.partnerRank else none
      let n := p.ring.cmds.length
      Act.all [
        takeoverBegin p.partnerSerial (rank.getD 0xFFFF) p.partner cause,
        .upd fun c => { c with pair := { c.pair with role := .survivor, takeCause := none, armed := false, handover := false, failedSerial := p.partnerSerial } },
        takeRing, Act.opt rank fun r => takeShare r cause,
        .look fun b => adopt fun id => b.ctl.pair.ring.cmds.zipIdx.map fun (e, k) => b.adopted rank (id + k) e.1 e.2,
        .upd fun c => { c with pair := { c.pair with notice := none, ring := { c.pair.ring with cmds := [], entries := [] } } },
        continueCommands,
        Act.when (rank == some 0) (Act.opt p.notice finishCommit),
        Act.opt (rank.bind fun _ => b.ctl.job.pass) fun q => Act.when (cause == 4 && b.ctl.leader) <|
          Act.opt (rank.bind fun r => q.cmd.bind fun id => (b.ctl.cmd id).map fun x => b.noticeOf x q.notice.kind q.notice.l0 q.notice.e r) fun m =>
            updPass fun q => { q with notice2 := some m },
        choosePass,
        raise 0x0301 (src 9 p.partner) ((rank.getD 0xFFFF) % 65536 * 65536 + n % 65536)]

/-- ABANDON_NOTICE (R214, R425, Table 13-7 steps 3 and 4, Table 13-8 step 6): the rank moves to another module; uncommitted work is
abandoned; the leader starts again from the last commit, or where nothing is replayed sends the rank the notice of the pass in progress. -/
def abandonNoticeAct (m : AbandonMsg) : Act :=
  .look fun b => Act.when (b.ctl.awake && b.ctl.job.inJob && decide (m.failedRank < b.ctl.jobP)) <|
    Act.all [
      rebind m.failedRank m.partnerSerial m.partnerSlot,
      Act.when m.replay abandonWork,
      Act.when (!m.replay && b.ctl.onBoard m.failedRank) (send (.slot m.partnerSlot) (.bufferMap b.ctl.bufferMap)),
      Act.when (!m.replay && b.ctl.leader) (Act.opt b.ctl.job.pass fun p => Act.opt (p.cmd.bind b.ctl.cmd) fun x =>
        Act.when (!p.reports.any fun r => r.rank == m.failedRank)
          (send (.rank m.failedRank) (.passNotice (b.noticeOf x p.notice.kind p.notice.l0 p.notice.e m.failedRank)))),
      choosePass]

/-! ## Binding, resynchronisation, handback (R412, R413, R423, R424) -/

/-- End of the plan's DDR5. -/
def Plan.ddrEnd (p : Plan) : Nat :=
  (p.bufs.flatMap fun x => if bufTier x.entry = 1 ∧ bufKind x.entry ≠ 6 then x.pieces.map fun q => q.paddr + q.bytes else []).foldl max 0

/-- A loaded plan keeps clear of the mirror region and suits a pair (R413). -/
def Block.bindFits (b : Block) : Bool := !b.ctl.plan.loaded || (b.ctl.plan.pairFits && decide (b.ctl.plan.ddrEnd ≤ b.mirrorBase - b.ctl.shoal.mapBytes))

/-- SERIAL of the module in a board slot: the far end of a board link, or the rank table's entry. -/
def Block.serialAt (b : Block) (slot : Nat) : Nat :=
  match b.ctl.links.links.find? fun e => boardLink e.1 && groupSlot b.slot e.1 == slot && e.2.state == .up && e.2.peer.isSome with
  | some e => match e.2.peer with | some r => r.serial | none => 0
  | none =>
    match b.ctl.links.fabric.ranks.find? fun e => e.slot == slot && e.board == (match b.ctl.links.fabric.ranks[b.ctl.rank]? with | some m => m.board | none => 0) with
    | some e => e.serial
    | none => 0

/-- The partner's ring of a PAIR_BIND (Table 11-5). -/
def bindRing (c : Bytes) : PartnerRing := { PartnerRing.blank with base := u64 c 40, cqBase := u64 c 48, dbrec := u64 c 56, size := u32 c 64 }

/-- Ring 0 of a replacement is enabled as a watcher: its indices are the record's (Table 13-8 step 1). -/
def watchRing : Act :=
  .look fun b =>
    let d := (b.ctl.ring 0).dbrec.toNat
    updRing 0 fun r => { (r.start (b.host.nat (d + 8) 4) (b.host.nat (d + 4) 4) (b.host.nat d 4)) with ctrl := r.ctrl ||| 1 }

/-- The module is bound to a partner with a role. -/
def bindPair (role : PairRole) (slot : Nat) (ring : PartnerRing) : Act :=
  .look fun b => .upd fun c => { c with
    pair := { Pair.blank with role := role, partner := slot, partnerSerial := b.serialAt slot, ring := ring, heardP := b.lhTime, heardR := b.lhTime },
    health := { c.health with wanted := true } }

/-- The survivor takes up a replacement (Table 13-8 steps 1 and 2). -/
def takeReplacement (slot : Nat) : Act :=
  .look fun b => Act.all [
    .upd fun c => { c with pair := { c.pair with role := .resyncing false, partner := slot, partnerSerial := b.serialAt slot, snapshot := false,
                                                 heardP := b.lhTime, heardR := b.lhTime } },
    Act.opt b.ctl.pair.rank2 fun r => (rebind r (b.serialAt slot) b.slot).seq <|
      toOthers fun _ => .abandon { failedRank := r, failedSlot := b.slot, partnerSlot := b.slot, partnerSerial := b.serialAt slot, replay := false },
    Act.when b.ctl.job.pass.isNone snapshotPoint]

/-- PAIR_BIND is legal in these states by ROLE (Table 11-11). -/
def bindLegal (b : Block) (x : Cmd) : Bool :=
  decide (b.ctl.sec.level < 2) &&
  (match u8 x.bytes 33 with
   | 0 => inStates [.ready, .loaded] b
   | 1 => inStates [.degraded] b && b.ctl.pair.role == .survivor
   | _ => inStates [.loaded] b)

/-- PAIR_BIND (R412, R413, R423). -/
def pairBindAct (id : Nat) : Act :=
  startCmd id 0x31 bindLegal fun x => .look fun b =>
    let slot := u8 x.bytes 32
    if u8 x.bytes 33 = 1 then (takeReplacement slot).seq (finish id .ok [])
    else if !b.bindFits then finish id .eCapacity []
    else if u8 x.bytes 33 = 0 then (bindPair .bound slot (bindRing x.bytes)).seq (finish id .ok [])
    else Act.all [bindPair (.replacement false) slot (bindRing x.bytes), .upd fun c => { c with glb := { c.glb with state := .resync } }, watchRing, finish id .ok []]

/-- PAIR_HANDBACK (R423, Table 13-8 step 5): the share goes back at the next commit; between passes at once. -/
def pairHandbackAct (id : Nat) : Act :=
  startCmd id 0x32 (fun b _ => inStates [.degraded] b && b.ctl.pair.role == .resyncing true) fun x => .look fun b =>
    if u8 x.bytes 32 ≠ b.ctl.pair.partner then finish id .eFormat []
    else Act.all [.upd fun c => { c with pair := { c.pair with handback := some id } },
      Act.when b.ctl.job.pass.isNone <|
        (Act.each (b.ctl.hif.cmds.filter fun y => y.ring == partnerRing && y.phase == .finished) fun _ => completeRing partnerRing).seq handBack]

/-- RESYNC_DONE (Table 13-9). -/
def resyncDone (serial slot gib : Nat) : Act := raise 0x0302 (src 9 slot) (serial % 2 ^ 32 * 2 ^ 32 + gib % 2 ^ 32)

/-- RESYNC_COPY_DONE (Table 13-8 step 4): copy and later commits are acknowledged. -/
def resyncCopyDoneAct (gib : Nat) : Act :=
  .look fun b => Act.when b.ctl.awake <|
    let role := fun (r : PairRole) => Act.upd fun c => { c with pair := { c.pair with role := r, gib := gib } }
    if b.ctl.pair.role = .resyncing false ∧ b.ctl.pair.snapshot = true then (role (.resyncing true)).seq (resyncDone b.ctl.pair.partnerSerial b.ctl.pair.partner gib)
    else Act.when (b.ctl.pair.role == .replacement false) ((role (.replacement true)).seq (resyncDone b.fuses.serial.toNat b.ctl.pair.partner gib))

/-! ## Meanings -/

/-- PAIR_BIND. -/
def execPairBind (id : Nat) (s : State) : Host.Outcome State Fault Refusal := s.perform (pairBindAct id)
/-- PAIR_HANDBACK. -/
def execPairHandback (id : Nat) (s : State) : Host.Outcome State Fault Refusal := s.perform (pairHandbackAct id)
/-- HEARTBEAT_SEND. -/
def execHeartbeatSend (s : State) : Host.Outcome State Fault Refusal := s.perform heartbeatSendAct
/-- HEARTBEAT. -/
def execHeartbeat (b : BeatFrom) (s : State) : Host.Outcome State Fault Refusal := s.perform (heartbeatAct b)
/-- ISOLATION_TIMEOUT. -/
def execIsolationTimeout (s : State) : Host.Outcome State Fault Refusal := s.perform isolationTimeoutAct
/-- PARTNER_TIMEOUT. -/
def execPartnerTimeout (s : State) : Host.Outcome State Fault Refusal := s.perform partnerTimeoutAct
/-- FAULT_NOTICE. -/
def execFaultNotice (lost : Option Nat) (s : State) : Host.Outcome State Fault Refusal := s.perform (faultNoticeAct lost)
/-- TAKEOVER. -/
def execTakeover (s : State) : Host.Outcome State Fault Refusal := s.perform takeoverAct
/-- ABANDON_NOTICE. -/
def execAbandonNotice (m : AbandonMsg) (s : State) : Host.Outcome State Fault Refusal := s.perform (abandonNoticeAct m)
/-- RESYNC_COPY_DONE. -/
def execResyncCopyDone (gib : Nat) (s : State) : Host.Outcome State Fault Refusal := s.perform (resyncCopyDoneAct gib)

end Sys2Proof.Machine
end

