-- ==== Sys2Proof/Machine/Shoal.lean ====
section
/-! DEFINITION. Shoal: searches, the pending batch, insert waves, commits and mounts (R370, R371, R376 to R400). -/

namespace Sys2Proof.Machine

/-! ## Common conditions -/

/-- The module has Shoal, runs rings, and the command did not come on a pair ring (R3, R399, Table 11-11). -/
def shoalLegal (b : Block) (x : Cmd) : Bool :=
  b.fuses.shoal && inStates anyRingState b && !(b.ctl.bound && (x.ring == 0 || x.ring == partnerRing))

/-- The same, and an index is mounted. -/
def indexLegal (b : Block) (x : Cmd) : Bool := shoalLegal b x && b.ctl.shoal.mounted

/-- Change Shoal. -/
def updShoal (f : Shoal → Shoal) : Act := .upd fun c => { c with shoal := f c.shoal }

/-- A running search that is older than an epoch (R376, R394). -/
def Shoal.olderThan (s : Shoal) (e : Nat) : Bool := s.slots.any fun x => match x.2 with | some r => decide (r.epoch < e) | none => false

/-- Reading device virtual addresses takes a free value, for what board peers may deliver (log 7). -/
def touchPlace (kind : Nat) : Act := Act.when (kind == 1) takeFresh

/-! ## Filters (R378) -/

/-- Bytes of a filter block whose first word is `w`. -/
def filterBytes (w : Nat) : Nat := 8 + 16 * (w % 16)

/-- A filter block without reserved values. -/
def filterOk (f : Bytes) : Bool :=
  decide (1 ≤ u64 f 0 % 16 ∧ u64 f 0 % 16 ≤ 8) && (u64 f 0 / 16 % 16 == 0) && decide (u64 f 0 / 256 ≤ 1) &&
  ((List.range (u64 f 0 % 16)).all fun i =>
    let t := slice f (8 + 16 * i) 16
    let w := 2 ^ u8 t 1
    decide (u8 t 1 ≤ 3 ∧ u8 t 0 % w = 0 ∧ u8 t 0 + w ≤ 48 ∧ u8 t 2 ≤ 7) && zeros t 3 5 && zeros t (8 + w) (8 - w))

/-- A term on an attribute block. -/
def filterTerm (attr t : Bytes) : Bool :=
  let f := fld attr (u8 t 0) (2 ^ u8 t 1)
  let v := fld t 8 (2 ^ u8 t 1)
  match u8 t 2 with
  | 0 => f == v
  | 1 => f != v
  | 2 => decide (f < v)
  | 3 => decide (f ≤ v)
  | 4 => decide (v < f)
  | 5 => decide (v ≤ f)
  | 6 => (f &&& v) != 0
  | _ => (f &&& v) == v

/-- The filter passes an attribute block. -/
def filterPass (f attr : Bytes) : Bool :=
  let ts := (List.range (u64 f 0 % 16)).map fun i => slice f (8 + 16 * i) 16
  if bit (u64 f 0) 8 then ts.any (filterTerm attr) else ts.all (filterTerm attr)

/-! ## SEARCH -/

/-- Elements of a vector in a format, widened to FP32. -/
def widen (fmt : Nat) (bytes : Bytes) (n : Nat) : List (BitVec 32) := (unpack fmt false bytes n).map Val.word32

/-- What forbids a SEARCH when it starts (R378, R379, R356). -/
def Block.searchTrouble (b : Block) (c : Bytes) : Option Status :=
  let h := b.ctl.shoal.header
  let src := u8 c 32 % 16
  let dst := u8 c 32 / 16
  let fr := b.reach src (u64 c 64) 8
  let f := b.readPlace src (u64 c 64) (filterBytes (leNat (b.readPlace src (u64 c 64) 1)))
  worst [
    if u8 c 33 = 2 ∧ hNormalised h = false then some .eState else none,
    if bit (u8 c 35) 0 ∧ hRerank h = false then some .eState else none,
    b.reach src (u64 c 48) (rowBytes (u8 c 34) (hDim h)),
    b.reach dst (u64 c 56) (16 * u16 c 36),
    if bit (u8 c 35) 2 then b.reach 1 (u64 c 72) (4 * u32 c 80) else none,
    if bit (u8 c 35) 3 then (if fr.isNone then (if filterOk f then b.reach src (u64 c 64) f.length else some .eFormat) else fr) else none]

/-- A search as it starts: a fresh run of a given LIST. -/
def Search.fresh (cmd epoch : Nat) (query : List (BitVec 32)) (filter : Option Bytes) (list reads : Nat) : Search :=
  { cmd := cmd, epoch := epoch, query := query, filter := filter, list := list, visited := [], cand := [], started := false, reads := reads, waits := [] }

/-- Nodes that the search's present step reads: the entry points first, then the first entries not yet expanded (R382). -/
def Search.ids (r : Search) (b : Block) (c : Bytes) : List Nat :=
  if r.started then nextBatch (u8 c 40) r.cand else headerEntries b.ctl.shoal.header

/-- The search with the reads of its step issued together (R376, R382). -/
def Search.issue (r : Search) (b : Block) (c : Bytes) : Search :=
  { r with waits := ((r.ids b c).map fun i => b.ctl.shoal.mapAt i r.epoch).filter fun u => u != 0 }

/-- A read of the search has returned: a version that a later commit made sends it on to the one before (R376). -/
def Search.returned (r : Search) (b : Block) (unit : Nat) : Search :=
  let n := nodeOf (b.flash.read (unit * 4096) 4096)
  { r with waits := r.waits.erase unit ++ if r.epoch < n.epoch ∧ n.prev ≠ 0 then [n.prev / 4096] else [] }

/-- The lowest free search slot. -/
def Shoal.freeSlot (s : Shoal) : Option Nat := (List.range 32).find? fun i => (Tab.get none s.slots i).isNone

/-- SEARCH (R380, R382, R398): the current epoch is read, the query's table loaded into a slot, and the reads of the first step issued. -/
def searchAct (id : Nat) : Act :=
  startCmd id 0x20 indexLegal fun x => .look fun b =>
    match b.searchTrouble x.bytes with
    | some st => finish id st []
    | none =>
      let src := u8 x.bytes 32 % 16
      let dim := hDim b.ctl.shoal.header
      let q := widen (u8 x.bytes 34) (b.readPlace src (u64 x.bytes 48) (rowBytes (u8 x.bytes 34) dim)) dim
      let q' := if u8 x.bytes 33 = 2 then normalise q else q
      let f := if bit (u8 x.bytes 35) 3 then
          some (b.readPlace src (u64 x.bytes 64) (filterBytes (leNat (b.readPlace src (u64 x.bytes 64) 1)))) else none
      (touchPlace src).seq <| Act.opt b.ctl.shoal.freeSlot fun k =>
        updShoal fun s => { s with slots := Tab.set none s.slots k (some ((Search.fresh id s.epoch q' f (u16 x.bytes 38) 0).issue b x.bytes)) }

/-- The distance of a search's table. -/
def Search.dist (r : Search) (b : Block) (c : Bytes) : Bytes → BitVec 32 :=
  codeDistance b.flash (hDim b.ctl.shoal.header) (u8 c 33) r.query

/-- The search after a step: its list expanded by the nodes that the step read (R382). -/
def Search.step (r : Search) (b : Block) (c : Bytes) : Search :=
  let ids := r.ids b c
  let reads := ids.map fun i => b.readNode i r.epoch
  let st := expandAll (r.dist b c) r.list (if r.started then ids else []) (reads.filterMap Prod.fst) r.cand (if r.started then r.visited else ids)
  { r with cand := st.1, visited := st.2, started := true, reads := r.reads + (reads.map Prod.snd).sum }

/-- The survivors of a finished traversal (R384). -/
def Search.survivors (r : Search) : List Cand :=
  r.cand.filter fun x => !x.deleted && (match r.filter with | none => true | some f => filterPass f x.attr)

/-- RERANK_N of a SEARCH (Table 12-4). -/
def rerankCount (c : Bytes) : Nat := if u16 c 44 = 0 then min (u16 c 38) (2 * u16 c 36) else u16 c 44

/-- The re-ranked distance of a node (R384). -/
def Search.rowDistance (r : Search) (b : Block) (metric id : Nat) : BitVec 32 :=
  let h := b.ctl.shoal.header
  let row := unpack 1 false (b.flash.read (u64 h 40 + id * u32 h 48) (2 * hDim h)) (hDim h)
  let ps := (r.query.map ofF32).zip row
  if metric = 0 then (sumSquares ps).word32 else (sumProducts ps).neg.word32

/-- The results in order, and the rows read for them (R384). -/
def Search.results (r : Search) (b : Block) (c : Bytes) : List Cand × Nat :=
  let sv := r.survivors
  if bit (u8 c 35) 0 then
    let top := (sv.take (rerankCount c)).map fun x => { x with dist := (r.rowDistance b (u8 c 33) x.id).toNat }
    ((top.foldr putCand []).take (u16 c 36), top.length)
  else (sv.take (u16 c 36), 0)

/-- A result entry (R386). -/
def resultEntry (x : Cand) : Bytes := leBytes x.id 5 ++ zeroBytes 3 ++ leBytes x.dist 4 ++ leBytes x.tokens 4

/-- The entry that stands where there is no result (R386). -/
def noResult : Bytes := leBytes noIdentity 5 ++ zeroBytes 3 ++ leBytes 0x7F800000 4 ++ zeroBytes 4

/-- Payload tokens of results in order, at most `room`, and the units read for them (R387). -/
def payloadOf (flash : Memory) : Nat → List Cand → Bytes × Nat
  | _, [] => ([], 0)
  | room, x :: xs =>
    let n := min room x.tokens
    let (bs, k) := payloadOf flash (room - n) xs
    (flash.read x.payload (4 * n) ++ bs, ceilDiv (4 * n) 4096 + k)

/-- The search writes its results and ends (R386, R387, Table 12-5). -/
def finishSearch (slot : Nat) (r : Search) (c : Bytes) : Act :=
  .look fun b =>
    let (rs, rows) := r.results b c
    let k := u16 c 36
    let (toks, units) := if bit (u8 c 35) 2 then payloadOf b.flash (u32 c 80) rs else ([], 0)
    let pad := (List.replicate (u32 c 80 - toks.length / 4) (slice c 84 4)).flatten
    Act.all [
      writePlace (u8 c 32 / 16) (u64 c 56) (rs.flatMap resultEntry ++ (List.replicate (k - rs.length) noResult).flatten),
      Act.when (bit (u8 c 35) 2) (fwWrite (u64 c 72) (toks ++ pad)),
      updShoal fun s => { s with slots := Tab.set none s.slots slot none },
      finish r.cmd (if rs.length < k then .okShort else .ok)
        (leBytes rs.length 2 ++ leBytes r.list 2 ++ leBytes (r.reads + rows + units) 4 ++ leBytes r.epoch 8)]

/-- SEARCH_STEP (R382, R384 to R387): the reads of a search's step are back; the list is expanded and the next batch issued, or the
search widens, or writes its results. -/
def searchStepAct (slot : Nat) : Act :=
  .look fun b => Act.opt (Tab.get none b.ctl.shoal.slots slot) fun r => Act.opt (b.ctl.cmd r.cmd) fun x =>
    let c := x.bytes
    let t := r.step b c
    Act.when r.waits.isEmpty <|
    if !(nextBatch (u8 c 40) t.cand).isEmpty then updShoal fun s => { s with slots := Tab.set none s.slots slot (some (t.issue b c)) }
    else if bit (u8 c 35) 1 && decide (t.survivors.length < u16 c 36) && decide (t.list < u16 c 42) then
      let again := Search.fresh r.cmd r.epoch r.query r.filter (min (2 * t.list) (u16 c 42)) t.reads
      updShoal fun s => { s with slots := Tab.set none s.slots slot (some (again.issue b c)) }
    else finishSearch slot t c

/-! ## Flash reads (R370, R371) -/

/-- FLASH_READ (R370, R382, R402, R403): a node read that a search waits for returns at once, after retries, or by rebuild. -/
def flashReadAct (slot unit : Nat) (o : FlashOutcome) : Act :=
  .look fun b =>
    let ch := flashChannel unit
    let u : UnitRef := { cls := 5, number := ch, row := 0, bank := 0 }
    let rebuilt := updShoal fun s => { s with rebuilds := (s.rebuilds + 1) % 2 ^ 48 }
    Act.opt (Tab.get none b.ctl.shoal.slots slot) fun r => Act.when (b.ctl.awake && r.waits.contains unit) <|
      (updShoal fun s => { s with slots := Tab.set none s.slots slot (some (r.returned b unit)) }).seq <|
      if b.ctl.health.spares.flash.contains ch && b.ctl.health.rewriting.contains ch then rebuilt
      else match o with
        | .clean | .retried _ => .done
        | .failed => Act.all [rebuilt, correctedError u 0 (src 6 ch), chargeError u true unit .done]

/-! ## INDEX_INSERT and INDEX_DELETE -/

/-- Identity of a pending item. -/
def Pending.id : Pending → Nat
  | .insert id _ _ _ _ => id
  | .delete id => id

/-- The pending item is an insert. -/
def Pending.isInsert : Pending → Bool
  | .insert .. => true
  | .delete _ => false

/-- The identity is live at the current epoch. -/
def Shoal.isLive (s : Shoal) (id : Nat) : Bool := Tab.get 0 s.nodeMap id != 0 && s.dead.all fun d => d.1 != id

/-- The identity is free (R394). -/
def Shoal.isFree (s : Shoal) (id : Nat) : Bool :=
  Tab.get 0 s.nodeMap id == 0 && s.freed.all fun f => f.id != id || !s.olderThan f.epoch

/-- The items of a command, each from its address. -/
def itemList (bytes : Bytes) (size n : Nat) : List Bytes := (List.range n).map fun i => slice bytes (size * i) size

/-- The insert item is well formed and its sources are reachable (Table 12-6). -/
def Block.insertItemOk (b : Block) (kind fmt : Nat) (i : Bytes) : Bool :=
  let h := b.ctl.shoal.header
  decide (fld i 0 5 < hCapacity h ∧ u32 i 8 ≤ 65536) && zeros i 5 3 && zeros i 12 4 && zeros i 80 48 && u64 i 16 % 64 == 0 &&
  (if u32 i 8 = 0 then u64 i 24 == 0 else (b.reach kind (u64 i 24) (4 * u32 i 8)).isNone) &&
  (b.reach kind (u64 i 16) (rowBytes fmt (hDim h))).isNone

/-- What is wrong with items: the index of the first bad one, and the status that wins (R362, R388). -/
def firstTrouble (xs : List (Option Status)) : Option (Nat × Status) :=
  match worst xs, xs.findIdx? fun o => o.isSome with
  | some st, some i => some (i, st)
  | _, _ => none

/-- Largest pending batch (R388). -/
def batchMax : Nat := 4194304

/-- Bytes of a payload extent: whole units. -/
def extentBytes (tokens : Nat) : Nat := roundUp (4 * tokens) 4096

/-- Bytes that the payload extents of a batch take. -/
def batchExtents (ps : List Pending) : Nat :=
  (ps.map fun p => match p with | .insert _ _ _ _ payload => extentBytes (payload.length / 4) | .delete _ => 0).sum

/-- The payload log has room for the extents of a batch. -/
def Shoal.payloadFits (s : Shoal) (ps : List Pending) : Bool := decide (s.payNext + batchExtents ps ≤ hRecords s.header)

/-- The pending item of an insert item (R389). -/
def Block.pendingOf (b : Block) (kind fmt : Nat) (i : Bytes) : Pending :=
  let dim := hDim b.ctl.shoal.header
  let v := widen fmt (b.readPlace kind (u64 i 16) (rowBytes fmt dim)) dim
  let v' := if hNormalised b.ctl.shoal.header then normalise v else v
  .insert (fld i 0 5) v' (encodeVec b.flash dim v') (slice i 32 48) (b.readPlace kind (u64 i 24) (4 * u32 i 8))

/-- A command's items enter the batch, or nothing does (R388). -/
def addItems (id : Nat) (kind : Nat) (trouble : Option (Nat × Status)) (items : Block → List Pending) : Act :=
  .look fun b =>
    let ps := items b
    match trouble with
    | some (i, st) => finish id st (zeroBytes 4 ++ leBytes i 4)
    | none =>
      if batchMax < b.ctl.shoal.batch.length + ps.length || !b.ctl.shoal.payloadFits (b.ctl.shoal.batch ++ ps) then finish id .eCapacity []
      else Act.all [touchPlace kind, updShoal fun s => { s with batch := s.batch ++ ps }, finish id .ok (leBytes ps.length 4)]

/-- An identity that the batch or an earlier item of the command names already. -/
def Block.named (b : Block) (items : List Bytes) (k id : Nat) : Bool :=
  (b.ctl.shoal.batch.any fun p => p.id == id) || ((items.take k).any fun i => fld i 0 5 == id)

/-- The items of an INDEX_INSERT. -/
def Block.insertItems (b : Block) (c : Bytes) : List Bytes := itemList (b.readPlace (u8 c 32) (u64 c 40) (128 * u32 c 36)) 128 (u32 c 36)

/-- What is wrong with each of them (R388). -/
def Block.insertTrouble (b : Block) (c : Bytes) : List (Option Status) :=
  let items := b.insertItems c
  let s := b.ctl.shoal
  items.zipIdx.map fun (i, k) =>
    if fld i 0 5 < hCapacity s.header ∧ (!s.isFree (fld i 0 5) || b.named items k (fld i 0 5)) then some Status.eState
    else if b.insertItemOk (u8 c 32) (u8 c 33) i then none else some .eFormat

/-- The items of an INDEX_DELETE. -/
def Block.deleteItems (b : Block) (c : Bytes) : List Bytes := itemList (b.readPlace (u8 c 32) (u64 c 40) (8 * u32 c 36)) 8 (u32 c 36)

/-- What is wrong with each of them (R388). -/
def Block.deleteTrouble (b : Block) (c : Bytes) : List (Option Status) :=
  let items := b.deleteItems c
  let s := b.ctl.shoal
  items.zipIdx.map fun (i, k) =>
    if fld i 0 5 < hCapacity s.header ∧ (!s.isLive (fld i 0 5) || b.named items k (fld i 0 5)) then some Status.eState
    else if fld i 0 5 < hCapacity s.header ∧ zeros i 5 3 then none else some .eFormat

/-- INDEX_INSERT (R388, R389). -/
def indexInsertAct (id : Nat) : Act :=
  startCmd id 0x21 indexLegal fun x => .look fun b =>
    let c := x.bytes
    match b.reach (u8 c 32) (u64 c 40) (128 * u32 c 36) with
    | some st => finish id st []
    | none => addItems id (u8 c 32) (firstTrouble (b.insertTrouble c)) fun b => (b.insertItems c).map (b.pendingOf (u8 c 32) (u8 c 33))

/-- INDEX_DELETE (R388). -/
def indexDeleteAct (id : Nat) : Act :=
  startCmd id 0x22 indexLegal fun x => .look fun b =>
    let c := x.bytes
    match b.reach (u8 c 32) (u64 c 40) (8 * u32 c 36) with
    | some st => finish id st []
    | none => addItems id (u8 c 32) (firstTrouble (b.deleteTrouble c)) fun b => (b.deleteItems c).map fun i => .delete (fld i 0 5)

/-! ## Insert waves (R390) -/

/-- What linking sees: the flash, Shoal, and the pending versions as they grow. -/
structure Graph where
  flash    : Memory
  shoal    : Shoal
  versions : List Node
  deriving DecidableEq, Repr

/-- The newest version of a node, pending versions first. -/
def Graph.node (g : Graph) (id : Nat) : Option Node :=
  match g.versions.find? fun n => n.id == id with
  | some n => some n
  | none => if Tab.get 0 g.shoal.nodeMap id = 0 then none else some (nodeOf (g.flash.read (Tab.get 0 g.shoal.nodeMap id * 4096) 4096))

/-- A pending version: the one of this node if it has one in this batch, else a new one behind the committed version (R376). -/
def Graph.put (g : Graph) (n : Node) : Graph :=
  if g.versions.any fun v => v.id == n.id then { g with versions := g.versions.map fun v => if v.id = n.id then n else v }
  else { g with versions := g.versions ++ [{ n with epoch := g.shoal.epoch + 1, prev := Tab.get 0 g.shoal.nodeMap n.id * 4096 }] }

/-- d of R390 between two nodes, given by identity and code: of a pair that holds the node being inserted, the code distance of its
vector; else the code-to-code distance. -/
def Graph.dist (g : Graph) (new : Option (Nat × List (BitVec 32))) (a c : Nat × Bytes) : BitVec 32 :=
  let dim := hDim g.shoal.header
  match new with
  | some (p, q) =>
    if a.1 = p then codeDistance g.flash dim 0 q c.2
    else if c.1 = p then codeDistance g.flash dim 0 q a.2
    else codeToCode g.flash dim a.2 c.2
  | none => codeToCode g.flash dim a.2 c.2

/-- A neighbour put at its place by (d(x, c), identity); one that is there already is not put again. -/
def putNbr (d : Nat × Bytes → BitVec 32) (c : Nat × Bytes) : List (Nat × Bytes) → List (Nat × Bytes)
  | [] => [c]
  | y :: ys =>
    if y.1 = c.1 then y :: ys
    else if nearer (d c).toNat c.1 (d y).toNat y.1 then c :: y :: ys.filter fun z => z.1 != c.1
    else y :: putNbr d c ys

/-- prune(x, cs) (R390). -/
def Graph.prune (g : Graph) (new : Option (Nat × List (BitVec 32))) (x : Nat × Bytes) (cs : List (Nat × Bytes)) : List (Nat × Bytes) :=
  let d := g.dist new
  let ordered := cs.foldr (putNbr (d x)) []
  ordered.foldl (fun out c =>
    if hDegree g.shoal.header ≤ out.length then out
    else if out.all fun o => Val.lt (ofF32 (d x c)) (Val.mul (ofF32 (hAlpha g.shoal.header)) (ofF32 (d o c))) then out ++ [c] else out) []

/-- link(p, cand) (R390). -/
def Graph.link (g : Graph) (p : Node) (q : List (BitVec 32)) (cand : List Cand) : Graph :=
  let new := some (p.id, q)
  let me := (p.id, p.code)
  let cs := (cand.filter fun c => !c.deleted).filterMap fun c => (g.node c.id).map fun n => (n.id, n.code)
  let nbr := g.prune new me cs
  nbr.foldl (fun g c =>
    match g.node c.1 with
    | none => g
    | some n =>
      let l := if n.nbrs.length < hDegree g.shoal.header then n.nbrs ++ [me] else g.prune new c (n.nbrs ++ [me])
      g.put { n with nbrs := l }) (g.put { p with nbrs := nbr })

/-- The version of an inserted node before it is linked. -/
def newNode (id : Nat) (code attr : Bytes) (tokens : Nat) : Node :=
  { id := id, deleted := false, epoch := 0, prev := 0, payload := 0, tokens := tokens, attr := attr, code := code, nbrs := [] }

/-- One item of a wave takes effect, with the list its search found. -/
def Graph.item (g : Graph) (p : Pending) (cand : List Cand) : Graph :=
  match p with
  | .insert id q code attr payload => g.link (newNode id code attr (payload.length / 4)) q cand
  | .delete id => match g.node id with | none => g | some n => g.put { n with deleted := true }

/-- Identities that an insert wave starts its searches from: those of the header, then the first inserted (R395). -/
def Shoal.entriesNow (s : Shoal) (linked : Nat) : List Nat :=
  (headerEntries s.header ++ ((s.batch.take linked).filter Pending.isInsert).map Pending.id).take (hEntries s.header)

/-- The items of the next wave: up to its 24th insert. -/
def waveItems : Nat → List Pending → List Pending
  | _, [] => []
  | 0, _ => []
  | k + 1, .insert a v c d e :: ps => .insert a v c d e :: waveItems k ps
  | k + 1, .delete a :: ps => .delete a :: waveItems (k + 1) ps

/-- A wave (R390): every item searches the graph as the wave finds it; then the items take effect one at a time. -/
def Graph.wave (g : Graph) (linked : Nat) : Graph × Nat :=
  let s := g.shoal
  let items := waveItems 24 (s.batch.drop linked)
  let cands := items.map fun p =>
    match p with
    | .insert _ q _ _ _ =>
      searchAll g.node (codeDistance g.flash (hDim s.header) 0 q) (s.entriesNow linked) (u16 s.header 20) (u8 s.header 22) (hCapacity s.header)
    | .delete _ => []
  ((items.zip cands).foldl (fun g x => g.item x.1 x.2) g, linked + items.length)

/-- Waves until the batch is linked. -/
def Graph.waves : Nat → Graph → Nat → Graph
  | 0, g, _ => g
  | fuel + 1, g, linked => if g.shoal.batch.length ≤ linked then g else let (g', l) := g.wave linked; Graph.waves fuel g' l

/-- The graph of the pending batch. -/
def Block.graph (b : Block) : Graph := { flash := b.flash, shoal := b.ctl.shoal, versions := b.ctl.shoal.versions }

/-- INSERT_WAVE (R390): a whole wave of 24 inserts is linked. -/
def insertWaveAct : Act :=
  .look fun b =>
    let s := b.ctl.shoal
    Act.when (b.ctl.awake && s.mounted && decide (24 ≤ countIf Pending.isInsert (s.batch.drop s.linked))) <|
      let (g, l) := b.graph.wave s.linked
      updShoal fun s => { s with versions := g.versions, linked := l }

/-! ## INDEX_COMMIT (R392, R393) -/

/-- A number put into an ascending list. -/
def putNat (x : Nat) : List Nat → List Nat
  | [] => [x]
  | y :: ys => if x ≤ y then x :: y :: ys else y :: putNat x ys

/-- The dead nodes that a commit consolidates, ascending. -/
def Shoal.consolidable (s : Shoal) (entries : List Nat) (n : Nat) : List Nat :=
  ((((s.dead.filter fun d => decide (d.2 ≤ s.epoch)).map Prod.fst).filter fun i => !entries.contains i).foldr putNat []).take n

/-- Every identity that has a version, committed or pending. -/
def Graph.ids (g : Graph) : List Nat := (g.shoal.nodeMap.map Prod.fst) ++ (g.versions.map Node.id).filter fun i => Tab.get 0 g.shoal.nodeMap i == 0

/-- One node is consolidated (R392 step 2): each node that lists it gets a pending version whose list prune selects from both lists;
the node itself needs no version any more. -/
def Graph.consolidate (g : Graph) (x : Nat) : Graph :=
  match g.node x with
  | none => g
  | some dead =>
    let g' := g.ids.foldl (fun g i =>
      match g.node i with
      | none => g
      | some n =>
        if i != x && n.nbrs.any (fun c => c.1 == x) then
          let cs := (n.nbrs.filter fun c => c.1 != x) ++ dead.nbrs.filter fun c => c.1 != i && c.1 != x
          g.put { n with nbrs := g.prune none (n.id, n.code) cs }
        else g) g
    { g' with versions := g'.versions.filter fun v => v.id != x }

/-- The first unit not in use, looking cyclically from an offset in the records region. -/
def nextUnit (used : List Nat) (base n : Nat) : Nat → Nat → Option Nat
  | 0, _ => none
  | fuel + 1, at' => if used.contains (base + at' % n) then nextUnit used base n fuel (at' + 1) else some (base + at' % n)

/-- Units for `k` records, and where the log goes on. -/
def takeUnits (base n : Nat) : Nat → List Nat → Nat → Option (List Nat × Nat)
  | 0, _, at' => some ([], at')
  | k + 1, used, at' =>
    match nextUnit used base n (used.length + 1) at' with
    | none => none
    | some u => (takeUnits base n k (u :: used) (u - base + 1)).map fun r => (u :: r.1, r.2)

/-- Units of the records region that still hold a version someone may read (R376). -/
def Shoal.usedUnits (s : Shoal) : List Nat := s.nodeMap.map Prod.snd ++ ((s.old.filter fun o => s.olderThan o.epoch).map OldVersion.unit)

/-- The payload extents of the batch in order: identity, flash address, bytes. -/
def extentsOf : Nat → List Pending → List (Nat × Nat × Bytes)
  | _, [] => []
  | at', .insert id _ _ _ payload :: ps => (id, at', payload) :: extentsOf (at' + extentBytes (payload.length / 4)) ps
  | at', .delete _ :: ps => extentsOf at' ps

/-- A re-rank row (R373, R389). -/
def rerankBytes (row : Nat) (v : List (BitVec 32)) : Bytes :=
  let bs := packElems 1 (v.map fun w => ((fmtOf 1).convert (ofF32 w)).1)
  bs ++ zeroBytes (row - bs.length)

/-- The area of the map region that holds the checkpoint of an epoch: the two take turns. -/
def mapArea (h : Bytes) (epoch : Nat) : Nat := mapBase (hDim h) + epoch % 2 * (5 * hCapacity h)

/-- The checkpoint of the node map is written: 5 bytes an entry (R392 step 3). -/
def writeMap (h : Bytes) (epoch : Nat) (m : Tab Nat) : Act :=
  .look fun b =>
    let base := mapArea h epoch
    Act.all [
      Act.each (b.flash.filter fun c => decide (base ≤ c.1 ∧ c.1 < base + 5 * hCapacity h)) (fun c => .one (.flash c.1 [0])),
      Act.each m fun e => .one (.flash (base + 5 * e.1) (leBytes e.2 5))]

/-- What a commit makes of Shoal: the new header, node map, units and waiting versions. -/
def Shoal.committed (s : Shoal) (header : Bytes) (g : Graph) (units : List Nat) (next : Nat) (gone : List Nat) : Shoal :=
  let e := s.epoch + 1
  let moved := (g.versions.map Node.id).filter fun i => Tab.get 0 s.nodeMap i != 0
  let lastUnit := fun i => Tab.get 0 s.nodeMap i
  let map := ((g.versions.map Node.id).zip units).foldl (fun m x => Tab.set 0 m x.1 x.2) s.nodeMap
  { s with
    header := header, epoch := e, nodeMap := gone.foldl (fun m i => Tab.set 0 m i 0) map,
    live := s.live + countIf Pending.isInsert s.batch - countIf (fun p => !p.isInsert) s.batch,
    batch := [], linked := 0, versions := [],
    old := (s.old.filter fun o => !units.contains o.unit) ++ (moved ++ gone).map fun i => { unit := lastUnit i, epoch := e },
    dead := (s.dead.filter fun d => !gone.contains d.1) ++ ((s.batch.filter fun p => !p.isInsert).map fun p => (p.id, e)),
    freed := (s.freed.filter fun f => s.olderThan f.epoch) ++ gone.map (fun i => { id := i, epoch := e, unit := lastUnit i }),
    recNext := next, payNext := s.payNext + batchExtents s.batch,
    stored := some { indexId := u64 header 8, epoch := e, map := mapArea header e, check := u32 header 4092 } }

/-- What a commit writes: the header with its entry points, the graph of the linked and consolidated batch, and the nodes that go (R390, R392). -/
structure CommitPlan where
  header : Bytes
  graph  : Graph
  gone   : List Nat
  deriving DecidableEq, Repr

/-- The plan of an INDEX_COMMIT (R392). -/
def Block.commitPlan (b : Block) (c : Bytes) : CommitPlan :=
  let s := b.ctl.shoal
  let entries := s.entriesNow s.batch.length
  let g0 := Graph.waves (s.batch.length + 1) b.graph s.linked
  let gone := s.consolidable entries (if u32 c 36 = 0 then 65536 else u32 c 36)
  { header := if entries = headerEntries s.header then s.header else setEntries s.header entries, graph := gone.foldl Graph.consolidate g0, gone := gone }

/-- The units that a commit's versions take (R392). -/
def Block.commitUnits (b : Block) (p : CommitPlan) : Option (List Nat × Nat) :=
  let s := b.ctl.shoal
  let (base, n) := recordUnits s.header
  takeUnits base n p.graph.versions.length s.usedUnits s.recNext

/-- INDEX_COMMIT (R392, R393) (log 31). -/
def indexCommitAct (id : Nat) : Act :=
  startCmd id 0x23 indexLegal fun x => .look fun b =>
    let s := b.ctl.shoal
    let p := b.commitPlan x.bytes
    let (header, g, gone) := (p.header, p.graph, p.gone)
    match b.commitUnits p with
    | none => finish id .eCapacity []
    | some (units, next) =>
      let ext := extentsOf s.payNext s.batch
      let place := fun (v : Node) => match ext.find? fun t => t.1 == v.id with | some t => if t.2.2.isEmpty then v else { v with payload := t.2.1 } | none => v
      let s' := s.committed header g units next gone
      Act.all [
        Act.each (g.versions.zip units) (fun (v, u) => .one (.flash (u * 4096) (place v).bytes)),
        Act.each ext (fun t => .one (.flash t.2.1 t.2.2)),
        Act.when (hRerank s.header) (Act.each s.batch fun p => match p with
          | .insert i v _ _ _ => .one (.flash (u64 s.header 40 + i * u32 s.header 48) (rerankBytes (u32 s.header 48) v))
          | .delete _ => .done),
        Act.when (header != s.header) (.one (.flash 0 header)),
        writeMap header s'.epoch s'.nodeMap,
        updShoal fun s => { s with stored := s'.stored },
        storeNow,
        updShoal fun _ => s',
        raise 0x0800 (src 6 0xFFF) s'.epoch,
        finish id .ok (leBytes s'.epoch 8 ++ leBytes s.batch.length 4)]

/-- VERSION_RECLAIM (R376, R394): a superseded version that no search of an older epoch can read is freed. -/
def versionReclaimAct (unit : Nat) : Act :=
  .look fun b => Act.when (b.ctl.awake && b.ctl.shoal.mounted) <|
    updShoal fun s => { s with old := s.old.filter (fun o => o.unit != unit || s.olderThan o.epoch),
                               freed := s.freed.filter fun f => f.unit != unit || s.olderThan f.epoch }

/-! ## INDEX_MOUNT (R395, R396) -/

/-- Bytes of DDR5 that the node map of a capacity takes (Table 07-3). -/
def mapRegion (capacity : Nat) : Nat := roundUp (5 * capacity) (2 ^ 30)

/-- The node map's region fits between the plan and what is reserved above it (R225). -/
def Block.mapFits (b : Block) (capacity : Nat) : Bool :=
  decide (max ddrBase b.ctl.plan.ddrEnd + mapRegion capacity ≤ (if b.ctl.bound then b.mirrorBase else b.fwReserve))

/-- MODE 1 (R395): a new index. -/
def createIndex (id : Nat) (c : Bytes) : Act :=
  .look fun b =>
    let h := sealHeader (newHeader c)
    let n := hDim h * 512
    match b.reach (u8 c 41) (u64 c 56) n with
    | some st => finish id st []
    | none =>
      if !headerFits h || !b.mapFits (hCapacity h) then finish id .eCapacity []
      else
        let cb := b.readPlace (u8 c 41) (u64 c 56) n
        Act.all [touchPlace (u8 c 41), .one .flashErase, .one (.flash 0 h), .one (.flash codebookBase cb),
          updShoal fun s => let t := s.unmounted
            { t with mounted := true, header := h, mapBytes := mapRegion (hCapacity h), payNext := u64 h 56,
                     stored := some { indexId := 0, epoch := 0, map := 0, check := 0 } },
          .upd fun c => { c with health := { c.health with wanted := true } },
          finish id .ok (zeroBytes 16)]

/-- The entries of a checkpoint that are not 0. -/
def readMap (flash : Memory) (base capacity : Nat) : Tab Nat :=
  (flash.filter fun c => decide (base ≤ c.1 ∧ c.1 < base + 5 * capacity)).foldl (fun m c =>
    let i := (c.1 - base) / 5
    Tab.set 0 m i (flash.nat (base + 5 * i) 5)) []

/-- Shoal after a mount of the index that a header and an epoch record describe. -/
def Shoal.recovered (s : Shoal) (flash : Memory) (h : Bytes) (r : EpochRec) : Shoal :=
  let t := s.unmounted
  let m := readMap flash r.map (hCapacity h)
  let nodes := m.map fun e => nodeOf (flash.read (e.2 * 4096) 4096)
  let dead := (nodes.filter Node.deleted).map fun n => (n.id, n.epoch)
  { t with
    mounted := true, header := h, epoch := r.epoch, mapBytes := mapRegion (hCapacity h), nodeMap := m, dead := dead,
    live := m.length - dead.length,
    payNext := nodes.foldl (fun a n => max a (if n.tokens = 0 then 0 else n.payload + extentBytes n.tokens)) (u64 h 56) }

/-- MODE 0 (R393, R395): the index of the last committed epoch. -/
def mountIndex (id : Nat) (c : Bytes) : Act :=
  .look fun b =>
    let h := b.flash.read 0 4096
    match b.ctl.shoal.stored <|> (b.ctl.health.newest.bind fun n => n.1.shoal) with
    | none => finish id .eState []
    | some r =>
      if !headerValid h || r.indexId != u64 h 8 || r.check != u32 h 4092 || (u64 c 72 != 0 && u64 c 72 != u64 h 8) then finish id .eState []
      else if !b.mapFits (hCapacity h) then finish id .eCapacity []
      else
        let s := b.ctl.shoal.recovered b.flash h r
        (updShoal fun _ => s).seq (finish id .ok (leBytes s.epoch 8 ++ leBytes s.live 8))

/-- MODE 2 (R395): the pending batch is discarded and the index unmounted. -/
def unmountIndex (id : Nat) : Act :=
  .look fun b =>
    let s := b.ctl.shoal
    (updShoal Shoal.unmounted).seq (finish id .ok (leBytes s.epoch 8 ++ leBytes s.batch.length 8))

/-- The mode suits whether an index is mounted or lost (R371, R396). -/
def mountLegal (b : Block) (x : Cmd) : Bool :=
  shoalLegal b x && (if u8 x.bytes 32 = 2 then b.ctl.shoal.mounted else !b.ctl.shoal.mounted && (u8 x.bytes 32 == 1 || !b.ctl.shoal.lost))

/-- INDEX_MOUNT (R395, R396). -/
def indexMountAct (id : Nat) : Act :=
  startCmd id 0x24 mountLegal fun x =>
    match u8 x.bytes 32 with
    | 0 => mountIndex id x.bytes
    | 1 => createIndex id x.bytes
    | _ => unmountIndex id

/-! ## Meanings -/

/-- SEARCH. -/
def execSearch (id : Nat) (s : State) : Host.Outcome State Fault Refusal := s.perform (searchAct id)
/-- INDEX_INSERT. -/
def execIndexInsert (id : Nat) (s : State) : Host.Outcome State Fault Refusal := s.perform (indexInsertAct id)
/-- INDEX_DELETE. -/
def execIndexDelete (id : Nat) (s : State) : Host.Outcome State Fault Refusal := s.perform (indexDeleteAct id)
/-- INDEX_COMMIT. -/
def execIndexCommit (id : Nat) (s : State) : Host.Outcome State Fault Refusal := s.perform (indexCommitAct id)
/-- INDEX_MOUNT. -/
def execIndexMount (id : Nat) (s : State) : Host.Outcome State Fault Refusal := s.perform (indexMountAct id)
/-- SEARCH_STEP. -/
def execSearchStep (slot : Fin 32) (s : State) : Host.Outcome State Fault Refusal := s.perform (searchStepAct slot.val)
/-- FLASH_READ. -/
def execFlashRead (slot : Fin 32) (unit : Nat) (o : FlashOutcome) (s : State) : Host.Outcome State Fault Refusal :=
  s.perform (flashReadAct slot.val unit o)
/-- INSERT_WAVE. -/
def execInsertWave (s : State) : Host.Outcome State Fault Refusal := s.perform insertWaveAct
/-- VERSION_RECLAIM. -/
def execVersionReclaim (unit : Nat) (s : State) : Host.Outcome State Fault Refusal := s.perform (versionReclaimAct unit)

end Sys2Proof.Machine
end

