-- ==== Sys2Proof/Machine/Spdm.lean ====
section
/-! DEFINITION. The SPDM responder (R464 to R467).  The rules give what it answers; the codes and the byte layout of a message are those
of the SPDM standard in outline (log 12). -/

namespace Sys2Proof.Machine

/-! ## Connections -/

/-- Progress of a connection. -/
def Security.conn (s : Security) : SpdmConn → SpdmState
  | .pcie 0 => s.conn0
  | .pcie _ => s.conn1
  | .i3c => s.connI3c

/-- A connection moved on. -/
def Security.setConn (s : Security) (k : SpdmConn) (v : SpdmState) : Security :=
  match k with
  | .pcie 0 => { s with conn0 := v }
  | .pcie _ => { s with conn1 := v }
  | .i3c => { s with connI3c := v }

/-- The responder answers on a connection: from the end of step 5 of start-up, but not in STANDBY or OFF; over PCIe while the port's link is
up (R466). -/
def Ctl.spdmUp (c : Ctl) (k : SpdmConn) : Bool :=
  decide (5 ≤ c.glb.step) && (c.power.state == .run || c.power.state == .idle) && !c.glb.tripped &&
  (match k with | .pcie p => c.barUp (p == 1) | .i3c => true)

/-- A byte. -/
def octet (n : Nat) : Byte := BitVec.ofNat 8 n

/-- Where an answer goes. -/
def spdmDest : SpdmConn → Dest
  | .pcie p => .host p.val
  | .i3c => .sideband

/-- Response codes. -/
inductive SpdmCode where
  | version | capabilities | algorithms | digests | certificate | challengeAuth | measurements | error
  deriving DecidableEq, Repr

/-- Their numbers (PRESUMED: DSP0274, log 12). -/
def SpdmCode.num : SpdmCode → Nat
  | .digests => 0x01 | .certificate => 0x02 | .challengeAuth => 0x03 | .version => 0x04 | .measurements => 0x60 | .capabilities => 0x61
  | .algorithms => 0x63 | .error => 0x7F

/-- ERROR InvalidRequest. -/
def errInvalid : Nat := 1
/-- ERROR UnexpectedRequest. -/
def errUnexpected : Nat := 4
/-- ERROR Unspecified. -/
def errUnspecified : Nat := 5
/-- ERROR UnsupportedRequest. -/
def errUnsupported : Nat := 7

/-- An answer on a connection. -/
def answer (k : SpdmConn) (code : SpdmCode) (body : Bytes) : Act := send (spdmDest k) (.spdm code.num body)

/-- An ERROR on a connection. -/
def answerError (k : SpdmConn) (code : Nat) : Act := answer k .error [octet code]

/-- A request that the connection's state allows; another is out of order. -/
def spdmRequest (k : SpdmConn) (allowed : List SpdmState) (f : Block → Act) : Act :=
  .look fun b => Act.when (b.ctl.spdmUp k) <|
    if allowed.contains (b.ctl.sec.conn k) then f b else answerError k errUnexpected

/-- The connection moves on. -/
def moveConn (k : SpdmConn) (v : SpdmState) : Act := updSec fun s => s.setConn k v

/-! ## Measurements (Table 15-5, R467) -/

/-- Digest of the image of type t of the running bank. -/
def Security.image (s : Security) (t : Nat) : Bytes := s.images.getD (t - 1) (zeroBytes 64)

/-- Measurement 6: state of the fuses, of the bank and of the debug port. -/
def Block.measureState (b : Block) : Bytes :=
  let owner := fun (p : OwnerSlot → Bool) => (List.range 4).foldl (fun n i => n + if p (b.fuses.owners.getD i OwnerSlot.blank) then 2 ^ i else 0) 0
  [octet b.fuses.rollback, octet b.ctl.sec.svn, octet b.ctl.sec.bank, octet (boolNat b.ctl.sec.fallback), octet (owner (·.revoked) * 16 + owner (·.valid)),
    octet (boolNat b.fuses.debugOwner), octet b.ctl.sec.level] ++ zeroBytes 9

/-- The plan that is loaded, in the states that hold one. -/
def Block.measurePlan (b : Block) : Bytes :=
  match b.ctl.glb.state with
  | .standby | .boot | .ready => zeroBytes 64
  | _ => b.ctl.plan.digest

/-- Measurement i (Table 15-5), all of one instant. -/
def Block.measurement (b : Block) (i : Nat) : Bytes :=
  let s := b.ctl.sec
  match i with
  | 1 => (List.range 64).map (Config.bootRomByte b.fuses.stepLetter b.fuses.stepDigit)
  | 2 => s.headerHash
  | 3 => s.image 1
  | 4 => s.image 2
  | 5 => sha512 (s.image 3 ++ s.image 4 ++ s.image 5)
  | 6 => b.measureState
  | 7 => b.measurePlan
  | _ => sha512 (b.fuses.owners.flatMap fun o => o.hash)

/-- A measurement block: index, form (1 raw), length, content. -/
def Block.measureBlock (b : Block) (i : Nat) : Bytes :=
  [octet i, octet (boolNat (i == 6))] ++ leBytes (b.measurement i).length 2 ++ b.measurement i

/-- The blocks that an index asks for: 0 none but their number, 1 to 8 one, 0xFF all. -/
def measureSet (i : Nat) : Option (List Nat) :=
  if i = 0 then some [] else if i = 0xFF then some [1, 2, 3, 4, 5, 6, 7, 8] else if i ≤ 8 then some [i] else none

/-! ## Certificates (R464, R465) -/

/-- What the alias certificate depends on beside the module's identity: measurements 1 to 5. -/
def Block.aliasInput (b : Block) : Bytes := [1, 2, 3, 4, 5].flatMap b.measurement

/-- The chain of slot 0. -/
def Block.chain (b : Block) : Bytes :=
  let m := b.aliasInput
  (List.range (Config.certificateLength m)).map (Config.certificateByte m)

/-- The n-th signature by the alias key (log 12). -/
def signatureOf (n : Nat) : Bytes := (List.range 132).map (Config.signatureByte n)

/-! ## Requests -/

/-- GET_VERSION: versions 1.2 and 1.3; the connection starts again. -/
def getVersionAct (k : SpdmConn) : Act :=
  .look fun b => Act.when (b.ctl.spdmUp k) <| (moveConn k .version).seq (answer k .version [2, 0x00, 0x12, 0x00, 0x13])

/-- GET_CAPABILITIES: CERT_CAP, CHAL_CAP, signed MEAS_CAP, CHUNK_CAP. -/
def getCapabilitiesAct (k : SpdmConn) : Act :=
  spdmRequest k [.version] fun _ => (moveConn k .capabilities).seq (answer k .capabilities (leBytes 0x20016 4))

/-- NEGOTIATE_ALGORITHMS: ECDSA P-521 and SHA-512 alone are accepted. -/
def negotiateAlgorithmsAct (k : SpdmConn) (ecdsa sha : Bool) : Act :=
  spdmRequest k [.capabilities] fun _ =>
    if ecdsa && sha then (moveConn k .algorithms).seq (answer k .algorithms [1, 1]) else answerError k errInvalid

/-- GET_DIGESTS: slot 0 alone holds a chain. -/
def getDigestsAct (k : SpdmConn) : Act := spdmRequest k [.algorithms] fun b => answer k .digests ([1] ++ sha512 b.chain)

/-- GET_CERTIFICATE: a portion of the chain of slot 0; slots 1 to 7 are empty. -/
def getCertificateAct (k : SpdmConn) (slot offset len : Nat) : Act :=
  spdmRequest k [.algorithms] fun b =>
    if slot ≠ 0 ∨ b.chain.length ≤ offset then answerError k errInvalid
    else
      let p := slice b.chain offset len
      answer k .certificate ([octet slot] ++ leBytes p.length 2 ++ leBytes (b.chain.length - (offset + p.length)) 2 ++ p)

/-- CHALLENGE: signed by the alias key, which is not used after an identity fault. -/
def challengeAct (k : SpdmConn) (slot : Nat) (nonce : Bytes) : Act :=
  spdmRequest k [.algorithms] fun b =>
    if slot ≠ 0 then answerError k errInvalid
    else if b.ctl.sec.idFault then answerError k errUnspecified
    else (answer k .challengeAuth (sha512 b.chain ++ nonce ++ nonceOf b.fresh ++ signatureOf b.fresh)).seq takeFresh

/-- GET_MEASUREMENTS: blocks of one instant, signed on request. -/
def getMeasurementsAct (k : SpdmConn) (index : Nat) (signed : Bool) (nonce : Bytes) : Act :=
  spdmRequest k [.algorithms] fun b =>
    match measureSet index with
    | none => answerError k errInvalid
    | some is =>
      if signed && b.ctl.sec.idFault then answerError k errUnspecified
      else
        let body := [if index = 0 then 8 else octet is.length] ++ is.flatMap b.measureBlock
        if signed then (answer k .measurements (body ++ nonce ++ nonceOf b.fresh ++ signatureOf b.fresh)).seq takeFresh
        else answer k .measurements body

/-- Any other request (R466). -/
def unsupportedRequestAct (k : SpdmConn) : Act := .look fun b => Act.when (b.ctl.spdmUp k) (answerError k errUnsupported)

/-! ## Meanings -/

/-- GET_VERSION. -/
def execGetVersion (k : SpdmConn) (s : State) : Host.Outcome State Fault Refusal := s.perform (getVersionAct k)
/-- GET_CAPABILITIES. -/
def execGetCapabilities (k : SpdmConn) (s : State) : Host.Outcome State Fault Refusal := s.perform (getCapabilitiesAct k)
/-- NEGOTIATE_ALGORITHMS. -/
def execNegotiateAlgorithms (k : SpdmConn) (ecdsaP521 sha512 : Bool) (s : State) : Host.Outcome State Fault Refusal :=
  s.perform (negotiateAlgorithmsAct k ecdsaP521 sha512)
/-- GET_DIGESTS. -/
def execGetDigests (k : SpdmConn) (s : State) : Host.Outcome State Fault Refusal := s.perform (getDigestsAct k)
/-- GET_CERTIFICATE. -/
def execGetCertificate (k : SpdmConn) (slot : Fin 8) (offset length : Nat) (s : State) : Host.Outcome State Fault Refusal :=
  s.perform (getCertificateAct k slot.val offset length)
/-- CHALLENGE. -/
def execChallenge (k : SpdmConn) (slot : Fin 8) (nonce : Bytes) (s : State) : Host.Outcome State Fault Refusal :=
  s.perform (challengeAct k slot.val nonce)
/-- GET_MEASUREMENTS. -/
def execGetMeasurements (k : SpdmConn) (index : Nat) (signed : Bool) (nonce : Bytes) (s : State) : Host.Outcome State Fault Refusal :=
  s.perform (getMeasurementsAct k index signed nonce)
/-- UNSUPPORTED_REQUEST. -/
def execUnsupportedRequest (k : SpdmConn) (_code : Nat) (s : State) : Host.Outcome State Fault Refusal := s.perform (unsupportedRequestAct k)

end Sys2Proof.Machine
end

