-- ==== Sys2Proof/Machine/Dispatch.lean ====
section
/-! DEFINITION. One arm for each command: the call of its meaning, or its rejection by name. -/

namespace Sys2Proof.Machine

/-- The effect of a command on everything but the queue. -/
def exec (i : Instr) (s : State) : Host.Outcome State Fault Refusal :=
  match i with
  | .doorbellPoll port stores => Sys2Proof.Machine.execDoorbellPoll port stores s
  | .pollSleep port stores => Sys2Proof.Machine.execPollSleep port stores s
  | .hifWake port => Sys2Proof.Machine.execHifWake port s
  | .hifEnable port value => Sys2Proof.Machine.execHifEnable port value s
  | .hifDisable port value => Sys2Proof.Machine.execHifDisable port value s
  | .ringEnable port ring value => Sys2Proof.Machine.execRingEnable port ring value s
  | .ringDisable port ring value => Sys2Proof.Machine.execRingDisable port ring value s
  | .commandTake => Sys2Proof.Machine.execCommandTake s
  | .commandFanout m => Sys2Proof.Machine.execCommandFanout m s
  | .completionWrite ring => Sys2Proof.Machine.execCompletionWrite ring s
  | .eventAccept e => Sys2Proof.Machine.execEventAccept e s
  | .eventRecordWrite port => Sys2Proof.Machine.execEventRecordWrite port s
  | .nop id => Sys2Proof.Machine.execNop id s
  | .loadPlan id => Sys2Proof.Machine.execLoadPlan id s
  | .unloadPlan id => Sys2Proof.Machine.execUnloadPlan id s
  | .startJob id digest => Sys2Proof.Machine.execStartJob id digest s
  | .stopJob id => Sys2Proof.Machine.execStopJob id s
  | .seqOpen id => Sys2Proof.Machine.execSeqOpen id s
  | .seqAppend id => Sys2Proof.Machine.execSeqAppend id s
  | .seqStep id => Sys2Proof.Machine.execSeqStep id s
  | .seqPreempt id => Sys2Proof.Machine.execSeqPreempt id s
  | .seqResume id => Sys2Proof.Machine.execSeqResume id s
  | .seqClose id => Sys2Proof.Machine.execSeqClose id s
  | .seqEditPages id => Sys2Proof.Machine.execSeqEditPages id s
  | .search id => Sys2Proof.Machine.execSearch id s
  | .indexInsert id => Sys2Proof.Machine.execIndexInsert id s
  | .indexDelete id => Sys2Proof.Machine.execIndexDelete id s
  | .indexCommit id => Sys2Proof.Machine.execIndexCommit id s
  | .indexMount id => Sys2Proof.Machine.execIndexMount id s
  | .linkConfigure id => Sys2Proof.Machine.execLinkConfigure id s
  | .pairBind id => Sys2Proof.Machine.execPairBind id s
  | .pairHandback id => Sys2Proof.Machine.execPairHandback id s
  | .copy id => Sys2Proof.Machine.execCopy id s
  | .fill id => Sys2Proof.Machine.execFill id s
  | .queryInfo id => Sys2Proof.Machine.execQueryInfo id s
  | .readCounters id => Sys2Proof.Machine.execReadCounters id s
  | .setPower id => Sys2Proof.Machine.execSetPower id s
  | .fwStage id => Sys2Proof.Machine.execFwStage id s
  | .fwActivate id => Sys2Proof.Machine.execFwActivate id s
  | .passNotice n => Sys2Proof.Machine.execPassNotice n s
  | .passEnd => Sys2Proof.Machine.execPassEnd s
  | .passReport rank flags => Sys2Proof.Machine.execPassReport rank flags s
  | .commitReady rank crc => Sys2Proof.Machine.execCommitReady rank crc s
  | .commit m => Sys2Proof.Machine.execCommit m s
  | .stateRecord r => Sys2Proof.Machine.execStateRecord r s
  | .mirrorWrite m => Sys2Proof.Machine.execMirrorWrite m s
  | .operationTake cove second => Sys2Proof.Machine.execOperationTake cove second s
  | .gemm cove ctx => Sys2Proof.Machine.execGemm cove ctx s
  | .gemmGrouped cove ctx => Sys2Proof.Machine.execGemmGrouped cove ctx s
  | .attnPrefill cove ctx => Sys2Proof.Machine.execAttnPrefill cove ctx s
  | .attnDecode cove ctx => Sys2Proof.Machine.execAttnDecode cove ctx s
  | .earlyScoring cove ctx => Sys2Proof.Machine.execEarlyScoring cove ctx s
  | .attnMerge cove ctx => Sys2Proof.Machine.execAttnMerge cove ctx s
  | .attnRecompute cove ctx => Sys2Proof.Machine.execAttnRecompute cove ctx s
  | .kernel cove ctx => Sys2Proof.Machine.execKernel cove ctx s
  | .xfer cove ctx => Sys2Proof.Machine.execXfer cove ctx s
  | .tideRing cove ctx => Sys2Proof.Machine.execTideRing cove ctx s
  | .tideBcast cove ctx => Sys2Proof.Machine.execTideBcast cove ctx s
  | .tideGather cove ctx => Sys2Proof.Machine.execTideGather cove ctx s
  | .tideWindow cove ctx => Sys2Proof.Machine.execTideWindow cove ctx s
  | .tideGlobal cove ctx => Sys2Proof.Machine.execTideGlobal cove ctx s
  | .tideGrant g => Sys2Proof.Machine.execTideGrant g s
  | .tidePiece p => Sys2Proof.Machine.execTidePiece p s
  | .broadcastPayload p => Sys2Proof.Machine.execBroadcastPayload p s
  | .gatherPartial p => Sys2Proof.Machine.execGatherPartial p s
  | .windowRead r => Sys2Proof.Machine.execWindowRead r s
  | .globalPage p => Sys2Proof.Machine.execGlobalPage p s
  | .poisonNotice n => Sys2Proof.Machine.execPoisonNotice n s
  | .signal sem n => Sys2Proof.Machine.execSignal sem n s
  | .signalPoison sem => Sys2Proof.Machine.execSignalPoison sem s
  | .waitComplete w => Sys2Proof.Machine.execWaitComplete w s
  | .workCounterTake cove ctx => Sys2Proof.Machine.execWorkCounterTake cove ctx s
  | .coreInstruction cove thread => Sys2Proof.Machine.execCoreInstruction cove thread s
  | .ecall cove thread => Sys2Proof.Machine.execEcall cove thread s
  | .nvSig cove thread => Sys2Proof.Machine.execNvSig cove thread s
  | .nvSigp cove thread => Sys2Proof.Machine.execNvSigp cove thread s
  | .nvWait cove thread => Sys2Proof.Machine.execNvWait cove thread s
  | .nvSemrd cove thread => Sys2Proof.Machine.execNvSemrd cove thread s
  | .nvTake cove thread => Sys2Proof.Machine.execNvTake cove thread s
  | .nvId cove thread => Sys2Proof.Machine.execNvId cove thread s
  | .nvVcvtN cove thread => Sys2Proof.Machine.execNvVcvtN cove thread s
  | .nvVcvtW cove thread => Sys2Proof.Machine.execNvVcvtW cove thread s
  | .nvVmxs cove thread => Sys2Proof.Machine.execNvVmxs cove thread s
  | .nvVexp2 cove thread => Sys2Proof.Machine.execNvVexp2 cove thread s
  | .nvVsincos cove thread => Sys2Proof.Machine.execNvVsincos cove thread s
  | .move engine run => Sys2Proof.Machine.execMove engine run s
  | .mcast engine run => Sys2Proof.Machine.execMcast engine run s
  | .loop engine ch => Sys2Proof.Machine.execLoop engine ch s
  | .lsWait engine ch => Sys2Proof.Machine.execLsWait engine ch s
  | .lsSignal engine ch => Sys2Proof.Machine.execLsSignal engine ch s
  | .stoppt engine ch => Sys2Proof.Machine.execStoppt engine ch s
  | .endProgram engine ch => Sys2Proof.Machine.execEndProgram engine ch s
  | .busError engine ch kind addr => Sys2Proof.Machine.execBusError engine ch kind addr s
  | .channelStop engine ch => Sys2Proof.Machine.execChannelStop engine ch s
  | .mcastPatience engine ch slot => Sys2Proof.Machine.execMcastPatience engine ch slot s
  | .faultResolve fault => Sys2Proof.Machine.execFaultResolve fault s
  | .preemptEffect seq cause => Sys2Proof.Machine.execPreemptEffect seq cause s
  | .ebb seq => Sys2Proof.Machine.execEbb seq s
  | .flood seq => Sys2Proof.Machine.execFlood seq s
  | .pageMove move => Sys2Proof.Machine.execPageMove move s
  | .invalidateComplete inv => Sys2Proof.Machine.execInvalidateComplete inv s
  | .pageEntry m => Sys2Proof.Machine.execPageEntry m s
  | .bufferMap m => Sys2Proof.Machine.execBufferMap m s
  | .remoteRequest r => Sys2Proof.Machine.execRemoteRequest r s
  | .bar2Read port offset len => Sys2Proof.Machine.execBar2Read port offset len s
  | .bar2Write port offset bytes => Sys2Proof.Machine.execBar2Write port offset bytes s
  | .uncorrectableError l => Sys2Proof.Machine.execUncorrectableError l s
  | .patrolScrub line part corrected => Sys2Proof.Machine.execPatrolScrub line part corrected s
  | .coveError cove permanent => Sys2Proof.Machine.execCoveError cove permanent s
  | .plannedRetirement u => Sys2Proof.Machine.execPlannedRetirement u s
  | .hbmSpareCopy stack => Sys2Proof.Machine.execHbmSpareCopy stack s
  | .watchdogExpiry core => Sys2Proof.Machine.execWatchdogExpiry core s
  | .ageingSample below => Sys2Proof.Machine.execAgeingSample below s
  | .correctedSummary => Sys2Proof.Machine.execCorrectedSummary s
  | .heartbeatSend => Sys2Proof.Machine.execHeartbeatSend s
  | .heartbeat b => Sys2Proof.Machine.execHeartbeat b s
  | .isolationTimeout => Sys2Proof.Machine.execIsolationTimeout s
  | .partnerTimeout => Sys2Proof.Machine.execPartnerTimeout s
  | .faultNotice lost => Sys2Proof.Machine.execFaultNotice lost s
  | .takeover => Sys2Proof.Machine.execTakeover s
  | .abandonNotice m => Sys2Proof.Machine.execAbandonNotice m s
  | .resyncCopyDone gib => Sys2Proof.Machine.execResyncCopyDone gib s
  | .linkTrain link o => Sys2Proof.Machine.execLinkTrain link o s
  | .trainingRetry link => Sys2Proof.Machine.execTrainingRetry link s
  | .identityRecord link r => Sys2Proof.Machine.execIdentityRecord link r s
  | .flitReceive link flit fecOk => Sys2Proof.Machine.execFlitReceive link flit fecOk s
  | .ackTimer link => Sys2Proof.Machine.execAckTimer link s
  | .laneLoss link lane => Sys2Proof.Machine.execLaneLoss link lane s
  | .signalLoss link lanes => Sys2Proof.Machine.execSignalLoss link lanes s
  | .gapNotice m => Sys2Proof.Machine.execGapNotice m s
  | .cageInsert cage r => Sys2Proof.Machine.execCageInsert cage r s
  | .cmisPoll cage r => Sys2Proof.Machine.execCmisPoll cage r s
  | .lnkDisable port link value => Sys2Proof.Machine.execLnkDisable port link value s
  | .lnkRetrain port link value => Sys2Proof.Machine.execLnkRetrain port link value s
  | .searchStep slot => Sys2Proof.Machine.execSearchStep slot s
  | .flashRead slot unit o => Sys2Proof.Machine.execFlashRead slot unit o s
  | .insertWave => Sys2Proof.Machine.execInsertWave s
  | .versionReclaim unit => Sys2Proof.Machine.execVersionReclaim unit s
  | .snapshotWrite => Sys2Proof.Machine.execSnapshotWrite s
  | .powerSample r => Sys2Proof.Machine.execPowerSample r s
  | .temperatureSample sensor t => Sys2Proof.Machine.execTemperatureSample sensor t s
  | .leak => Sys2Proof.Machine.execLeak s
  | .undervoltage => Sys2Proof.Machine.execUndervoltage s
  | .auxArrival => Sys2Proof.Machine.execAuxArrival s
  | .presence => Sys2Proof.Machine.execPresence s
  | .mainEn env => Sys2Proof.Machine.execMainEn env s
  | .warmReset cause => Sys2Proof.Machine.execWarmReset cause s
  | .functionLevelReset port => Sys2Proof.Machine.execFunctionLevelReset port s
  | .port1Perst => Sys2Proof.Machine.execPort1Perst s
  | .frontLatch => Sys2Proof.Machine.execFrontLatch s
  | .attn => Sys2Proof.Machine.execAttn s
  | .pwrReqRemove port => Sys2Proof.Machine.execPwrReqRemove port s
  | .drainTimeout => Sys2Proof.Machine.execDrainTimeout s
  | .lhTimer which => Sys2Proof.Machine.execLhTimer which s
  | .dieTempLevel die => Sys2Proof.Machine.execDieTempLevel die s
  | .v54Arrival => Sys2Proof.Machine.execV54Arrival s
  | .wakeIn => Sys2Proof.Machine.execWakeIn s
  | .perstDeassert up => Sys2Proof.Machine.execPerstDeassert up s
  | .lhCmpWrite port which value => Sys2Proof.Machine.execLhCmpWrite port which value s
  | .statusFlagClear port offset value landing => Sys2Proof.Machine.execStatusFlagClear port offset value landing s
  | .nextBankWrite port value => Sys2Proof.Machine.execNextBankWrite port value s
  | .monClassWrite port value => Sys2Proof.Machine.execMonClassWrite port value s
  | .dbgRequest port level => Sys2Proof.Machine.execDbgRequest port level s
  | .dbgSubmit port => Sys2Proof.Machine.execDbgSubmit port s
  | .dbgLock port => Sys2Proof.Machine.execDbgLock port s
  | .registerWrite port offset size value => Sys2Proof.Machine.execRegisterWrite port offset size value s
  | .pldmComponent image => Sys2Proof.Machine.execPldmComponent image s
  | .getVersion conn => Sys2Proof.Machine.execGetVersion conn s
  | .getCapabilities conn => Sys2Proof.Machine.execGetCapabilities conn s
  | .negotiateAlgorithms conn ecdsaP521 sha512 => Sys2Proof.Machine.execNegotiateAlgorithms conn ecdsaP521 sha512 s
  | .getDigests conn => Sys2Proof.Machine.execGetDigests conn s
  | .getCertificate conn slot offset length => Sys2Proof.Machine.execGetCertificate conn slot offset length s
  | .challenge conn slot nonce => Sys2Proof.Machine.execChallenge conn slot nonce s
  | .getMeasurements conn index signed nonce => Sys2Proof.Machine.execGetMeasurements conn index signed nonce s
  | .unsupportedRequest conn code => Sys2Proof.Machine.execUnsupportedRequest conn code s
  | .auxLoss => Sys2Proof.Machine.execAuxLoss s
  | .prechargeOk => Sys2Proof.Machine.execPrechargeOk s
  | .startUpTimeout => Sys2Proof.Machine.execStartUpTimeout s
  | .jobStartTimeout id => Sys2Proof.Machine.execJobStartTimeout id s
  | .commitNotice n => Sys2Proof.Machine.execCommitNotice n s
  | .victimRequest rank ask => Sys2Proof.Machine.execVictimRequest rank ask s
  | .entryRequest slot vaddr => Sys2Proof.Machine.execEntryRequest slot vaddr s
  | .rankFinished rank key status => Sys2Proof.Machine.execRankFinished rank key status s
  | .resendRequest r => Sys2Proof.Machine.execResendRequest r s
  | .stripeRewrite ch => Sys2Proof.Machine.execStripeRewrite ch s

end Sys2Proof.Machine
end

