-- ==== Sys2Proof/WellFormed.lean ====
section
/-! DEFINITION. Which commands a sender can form: operands within the widths and lengths that the spec gives them.  The meanings do not
depend on it: they are total on every command. -/

namespace Sys2Proof

/-- Host stores lie in the 64-bit bus address space (R338). -/
def storesWf (ss : List HostStore) : Bool := ss.all fun s => decide (s.addr + s.bytes.length ≤ 2 ^ 64)

/-- CODE and SOURCE have 16 bits, DETAIL 64 (Table 09-7). -/
def rawEventWf (e : RawEvent) : Bool := decide (e.code < 2 ^ 16 ∧ e.source < 2 ^ 16 ∧ e.detail < 2 ^ 64)

/-- A segment carries at most 4 KiB and a 32-bit CRC (R208). -/
def segmentsWf (ss : List Segment) : Bool := ss.all fun s => decide (s.bytes.length ≤ 4096 ∧ s.crc < 2 ^ 32)

/-- A line is 64 bytes, aligned (R241). -/
def badLineWf (l : BadLine) : Bool := l.addr % 64 == 0 && (match l.good with | none => true | some g => g.length == 64)

/-- A unit's class is one of Table 13-1. -/
def unitWf (u : UnitRef) : Bool := decide (u.cls ≤ 8)

/-- Eight sockets, stacks 0 to 7, channels 0 to 31, and steps up to 11 (Table 14-9). -/
def startEnvWf (e : StartEnv) : Bool :=
  e.dimms.length == 8 && decide (e.reached ≤ 11) && (e.hbmFail.all fun x => decide (x.1 < 8 ∧ x.2 < 32)) && e.selfTest.all unitWf

/-- The command's operands are within their ranges (log 49). -/
def Instr.wf : Instr → Bool
  | .doorbellPoll _ stores => storesWf stores
  | .pollSleep _ stores => storesWf stores
  | .hifWake _ => true
  | .hifEnable _ _ => true
  | .hifDisable _ _ => true
  | .ringEnable _ _ _ => true
  | .ringDisable _ _ _ => true
  | .commandTake => true
  | .commandFanout m => m.cmd.length == 128
  | .completionWrite _ => true
  | .eventAccept e => rawEventWf e
  | .eventRecordWrite _ => true
  | .nop _ => true
  | .loadPlan _ => true
  | .unloadPlan _ => true
  | .startJob _ digest => digest.isEmpty || digest.length == 64
  | .stopJob _ => true
  | .seqOpen _ => true
  | .seqAppend _ => true
  | .seqStep _ => true
  | .seqPreempt _ => true
  | .seqResume _ => true
  | .seqClose _ => true
  | .seqEditPages _ => true
  | .search _ => true
  | .indexInsert _ => true
  | .indexDelete _ => true
  | .indexCommit _ => true
  | .indexMount _ => true
  | .linkConfigure _ => true
  | .pairBind _ => true
  | .pairHandback _ => true
  | .copy _ => true
  | .fill _ => true
  | .queryInfo _ => true
  | .readCounters _ => true
  | .setPower _ => true
  | .fwStage _ => true
  | .fwActivate _ => true
  | .passNotice n => decide (n.seq < 4096 ∧ n.kind < 4)
  | .passEnd => true
  | .passReport _ _ => true
  | .commitReady _ _ => true
  | .commit _ => true
  | .stateRecord _ => true
  | .mirrorWrite _ => true
  | .operationTake _ _ => true
  | .gemm _ _ => true
  | .gemmGrouped _ _ => true
  | .attnPrefill _ _ => true
  | .attnDecode _ _ => true
  | .earlyScoring _ _ => true
  | .attnMerge _ _ => true
  | .attnRecompute _ _ => true
  | .kernel _ _ => true
  | .xfer _ _ => true
  | .tideRing _ _ => true
  | .tideBcast _ _ => true
  | .tideGather _ _ => true
  | .tideWindow _ _ => true
  | .tideGlobal _ _ => true
  | .tideGrant _ => true
  | .tidePiece _ => true
  | .broadcastPayload p => segmentsWf p.data
  | .gatherPartial p => segmentsWf p.data && (p.child == 1 || p.child == 2)
  | .windowRead _ => true
  | .globalPage (.cache _ _ _ _ data) => segmentsWf data
  | .globalPage (.page ..) => true
  | .poisonNotice _ => true
  | .signal _ _ => true
  | .signalPoison _ => true
  | .waitComplete _ => true
  | .workCounterTake _ _ => true
  | .coreInstruction _ _ => true
  | .ecall _ _ => true
  | .nvSig _ _ => true
  | .nvSigp _ _ => true
  | .nvWait _ _ => true
  | .nvSemrd _ _ => true
  | .nvTake _ _ => true
  | .nvId _ _ => true
  | .nvVcvtN _ _ => true
  | .nvVcvtW _ _ => true
  | .nvVmxs _ _ => true
  | .nvVexp2 _ _ => true
  | .nvVsincos _ _ => true
  | .move _ _ => true
  | .mcast _ _ => true
  | .loop _ _ => true
  | .lsWait _ _ => true
  | .lsSignal _ _ => true
  | .stoppt _ _ => true
  | .endProgram _ _ => true
  | .busError _ _ _ _ => true
  | .channelStop _ _ => true
  | .mcastPatience _ _ _ => true
  | .faultResolve _ => true
  | .preemptEffect _ _ => true
  | .ebb _ => true
  | .flood _ => true
  | .pageMove _ => true
  | .invalidateComplete _ => true
  | .pageEntry _ => true
  | .bufferMap _ => true
  | .remoteRequest _ => true
  | .bar2Read _ _ len => decide (0 < len)
  | .bar2Write _ _ bytes => !bytes.isEmpty
  | .uncorrectableError l => badLineWf l
  | .patrolScrub _ _ _ => true
  | .coveError _ _ => true
  | .plannedRetirement u => unitWf u
  | .hbmSpareCopy _ => true
  | .watchdogExpiry _ => true
  | .ageingSample below => below.all unitWf
  | .correctedSummary => true
  | .heartbeatSend => true
  | .heartbeat _ => true
  | .isolationTimeout => true
  | .partnerTimeout => true
  | .faultNotice _ => true
  | .takeover => true
  | .abandonNotice _ => true
  | .resyncCopyDone _ => true
  | .linkTrain _ _ => true
  | .trainingRetry _ => true
  | .identityRecord _ _ => true
  | .flitReceive _ flit _ => flit.length == 256
  | .ackTimer _ => true
  | .laneLoss _ _ => true
  | .signalLoss _ _ => true
  | .gapNotice _ => true
  | .cageInsert _ _ => true
  | .cmisPoll _ _ => true
  | .lnkDisable _ _ _ => true
  | .lnkRetrain _ _ _ => true
  | .searchStep _ => true
  | .flashRead _ _ _ => true
  | .insertWave => true
  | .versionReclaim _ => true
  | .snapshotWrite => true
  | .powerSample r => decide (r.inputMv < 65536 ∧ r.inputW < 65536 ∧ r.packageW < 65536)
  | .temperatureSample _ _ => true
  | .leak => true
  | .undervoltage => true
  | .auxArrival => true
  | .presence => true
  | .mainEn env => startEnvWf env
  | .warmReset _ => true
  | .functionLevelReset _ => true
  | .port1Perst => true
  | .frontLatch => true
  | .attn => true
  | .pwrReqRemove _ => true
  | .drainTimeout => true
  | .lhTimer _ => true
  | .dieTempLevel _ => true
  | .v54Arrival => true
  | .wakeIn => true
  | .perstDeassert _ => true
  | .lhCmpWrite _ _ _ => true
  | .statusFlagClear _ offset _ _ => offset == 0x5018 || decide (0x6000 ≤ offset ∧ offset < 0x7800 ∧ offset % 64 = 8)
  | .nextBankWrite _ _ => true
  | .monClassWrite _ _ => true
  | .dbgRequest _ _ => true
  | .dbgSubmit _ => true
  | .dbgLock _ => true
  | .registerWrite _ offset _ _ => decide (offset < 0x10000)
  | .pldmComponent _ => true
  | .getVersion _ => true
  | .getCapabilities _ => true
  | .negotiateAlgorithms _ _ _ => true
  | .getDigests _ => true
  | .getCertificate _ _ _ _ => true
  | .challenge _ _ nonce => nonce.length == 32
  | .getMeasurements _ index _ nonce => decide (index < 256) && nonce.length == 32
  | .unsupportedRequest _ _ => true
  | .auxLoss => true
  | .prechargeOk => true
  | .startUpTimeout => true
  | .jobStartTimeout _ => true
  | .commitNotice _ => true
  | .victimRequest _ _ => true
  | .entryRequest _ _ => true
  | .rankFinished _ _ _ => true
  | .resendRequest _ => true
  | .stripeRewrite _ => true

end Sys2Proof
end

