-- ==== Sys2Proof/Safety.lean ====
section
/-! DEFINITION. What claims about the block are stated in: a command that completes, what a command leaves alone, and the states that the
effects of commands keep. -/

namespace Sys2Proof.Machine

/-- The command answers a next state with the queue untouched and the block `b`. -/
def Runs (i : Instr) (s : State) (b : Block) : Prop := exec i s = .next { s with block := b }

/-- The command answers a next state with the queue untouched and a block of which `P` holds. -/
def Yields (i : Instr) (s : State) (P : Block → Prop) : Prop := ∃ b, Runs i s b ∧ P b

/-- The parts of the block that no control register holds are the same: every memory, the semaphores, the arbiter, LH_TIME, the fuses, the
reservations of LR, the messages sent and the free values taken. -/
def Block.SameOutside (b t : Block) : Prop :=
  t.mem = b.mem ∧ t.host = b.host ∧ t.flash = b.flash ∧ t.nor0 = b.nor0 ∧ t.nor1 = b.nor1 ∧ t.sems = b.sems ∧ t.arb = b.arb ∧
  t.lhTime = b.lhTime ∧ t.fuses = b.fuses ∧ t.lrs = b.lrs ∧ t.out = b.out ∧ t.fresh = b.fresh

/-- The block with bytes written into its own memory, which breaks the reservations of LR that they touch (R50). -/
def Block.wrote (b : Block) (addr : Nat) (bytes : Bytes) : Block :=
  { b with mem := b.mem.write addr bytes, lrs := b.lrs.filter fun r => !r.hit addr bytes.length }

/-- The block is this one, but for what the memory-side and translation caches hold (R228: no value that a program sees). -/
def Block.UpToCaches (b t : Block) : Prop := t = { b with ctl := { b.ctl with engine := { b.ctl.engine with caches := t.ctl.engine.caches } } }

/-- Every byte of the module-local space outside a range is what it was. -/
def Block.MemOutside (b t : Block) (addr len : Nat) : Prop := ∀ a, (a < addr ∨ addr + len ≤ a) → t.mem.byte a = b.mem.byte a

/-- Every byte of host memory outside a range is what it was. -/
def Block.HostOutside (b t : Block) (addr len : Nat) : Prop := ∀ a, (a < addr ∨ addr + len ≤ a) → t.host.byte a = b.host.byte a

/-- Held records rise in SEQNO and lie below the arbiter's next number; the open run of drops comes after them (R300, R302). -/
def EventQueue.Ordered (q : EventQueue) (next : Nat) : Prop :=
  q.held.Pairwise (fun r u => r.seqno < u.seqno) ∧ (∀ r ∈ q.held, r.seqno < next) ∧
  (q.dropped ≠ 0 → q.dropSeq < next ∧ ∀ r ∈ q.held, r.seqno < q.dropSeq)

/-- What every reachable block satisfies: the sparse memories in their one canonical form, hold queues in order and within their room,
ROLLBACK within its 64 fuses, four owner slots, one reservation of LR a thread. -/
structure Block.Good (b : Block) : Prop where
  mem     : b.mem.wf = true
  host    : b.host.wf = true
  flash   : b.flash.wf = true
  nor0    : b.nor0.wf = true
  nor1    : b.nor1.wf = true
  sems    : Tab.wf 0 b.sems = true
  room0   : b.arb.q0.count ≤ eventRoom
  room1   : b.arb.q1.count ≤ eventRoom
  order0  : b.arb.q0.Ordered b.arb.next
  order1  : b.arb.q1.Ordered b.arb.next
  fuses   : b.fuses.rollback ≤ 64
  owners  : b.fuses.owners.length = 4
  lrs     : b.lrs.Pairwise fun r u => ¬ (r.cove = u.cove ∧ r.thread = u.thread)

/-- What one step may do to what is written once: fuses are only blown, messages sent stay sent, free values are not taken back
(R460, R470). -/
structure Block.Onward (b t : Block) : Prop where
  rollback   : b.fuses.rollback ≤ t.fuses.rollback
  debugOwner : b.fuses.debugOwner = true → t.fuses.debugOwner = true
  fixed      : t.fuses.serial = b.fuses.serial ∧ t.fuses.rootHash = b.fuses.rootHash ∧ t.fuses.secure = b.fuses.secure ∧
               t.fuses.shoal = b.fuses.shoal ∧ t.fuses.twoTiB = b.fuses.twoTiB ∧ t.fuses.stepLetter = b.fuses.stepLetter ∧
               t.fuses.stepDigit = b.fuses.stepDigit
  slots      : ∀ k, ((b.fuses.owners.getD k OwnerSlot.blank).valid = true → (t.fuses.owners.getD k OwnerSlot.blank).valid = true) ∧
               ((b.fuses.owners.getD k OwnerSlot.blank).revoked = true → (t.fuses.owners.getD k OwnerSlot.blank).revoked = true)
  sent       : ∃ new, t.out = new ++ b.out
  fresh      : b.fresh ≤ t.fresh

/-! ## The host interface -/

/-- Host memory with stores of the host landed. -/
def landed (m : Memory) (stores : List HostStore) : Memory := stores.foldl (fun m s => m.write s.addr s.bytes) m

/-- Host memory with POLLING written into the doorbell record of every ring that a port polls. -/
def pollingWritten (b : Block) (port : Bool) (v : Byte) : Memory :=
  (b.ctl.ownRings port).foldl (fun m n => m.write ((b.ctl.ring n).dbrec.toNat + 12) [v]) b.host

/-- A ring's indices are those of its doorbell record. -/
def ReadsRecord (t : Block) (n : Nat) : Prop :=
  (t.ctl.ring n).sqTail = t.host.nat (t.ctl.ring n).dbrec.toNat 4 ∧ (t.ctl.ring n).cqHead = t.host.nat ((t.ctl.ring n).dbrec.toNat + 4) 4

/-! ## Commands of the rings -/

/-- The block with a taken command started. -/
def Block.started (b : Block) (id : Nat) : Block :=
  (Act.upd fun c => { c with hif := { c.hif with
    nextStart := c.hif.nextStart + 1,
    cmds := c.hif.cmds.map fun y => if y.id = id then { y with phase := .running, startNo := c.hif.nextStart } else y } }).run b

/-- The taken command `x` has this number and opcode, and the ordering conditions and the module state let it start. -/
def Block.MayRun (b : Block) (id op : Nat) (x : Cmd) : Prop :=
  b.ctl.cmd id = some x ∧ cOp x.bytes = op ∧ b.mayStart x = true ∧ b.ctl.glb.state.ringState = true ∧
  commandTrouble b x.bytes = none

/-- The command has finished with a status and a result; its completion is still to be written. -/
def Block.Ended (t : Block) (id : Nat) (st : Status) (r : Bytes) : Prop :=
  ∃ y, t.ctl.cmd id = some y ∧ y.phase = .finished ∧ y.status = st.code ∧ y.result = result16 r

/-- The command has started and not finished. -/
def Block.Goes (t : Block) (id : Nat) : Prop := ∃ y, t.ctl.cmd id = some y ∧ y.phase = .running

/-- Every other taken command, every ring and both ports are as they were. -/
def Block.OthersKept (b t : Block) (id : Nat) : Prop :=
  (∀ y ∈ b.ctl.hif.cmds, y.id ≠ id → y ∈ t.ctl.hif.cmds) ∧ t.ctl.hif.rings = b.ctl.hif.rings ∧ t.ctl.hif.port0 = b.ctl.hif.port0 ∧
  t.ctl.hif.port1 = b.ctl.hif.port1

/-! ## Sequences -/

/-- Firmware reads and writes the table entry of a sequence at the module-local address `a`, whatever stands there, and in one rank context
alone. -/
def Block.EntryAt (b : Block) (q a : Nat) : Prop :=
  b.ctl.pair.rank2 = none ∧ parts (b.ctl.plan.seqEntry q) 64 = [(b.ctl.plan.seqEntry q, 64)] ∧
  ∀ (m : Memory) (write : Bool), (∀ k, (k < a ∨ a + 64 ≤ k) → m.byte k = b.mem.byte k) →
    ({ b with mem := m }).xlate fwSpace (b.ctl.plan.seqEntry q) write = .ok b.slot a

/-- The module is the only rank of its job, and no pair. -/
def Ctl.Alone (c : Ctl) : Prop := c.jobP = 1 ∧ c.rank = 0 ∧ c.pair.rank2 = none ∧ c.pair.role = .unbound

/-- Nothing of the module waits for a commit: no retirement, no planned fault, no handover, no handback. -/
def Ctl.NoHooks (c : Ctl) : Prop :=
  c.health.planned = [] ∧ c.health.plannedFault = false ∧ c.pair.handover = false ∧ c.pair.handback = none ∧
  c.pair.role ≠ .resyncing false ∧ c.pair.role ≠ .resyncing true

/-! ## Messages -/

/-- The block with one message sent. -/
def Block.sending (b : Block) (d : Dest) (m : Msg) : Block := { b with out := { dest := d, msg := m } :: b.out }

/-- The block with the pass in progress changed. -/
def Block.withPass (b : Block) (p : Option Pass) : Block := { b with ctl := { b.ctl with job := { b.ctl.job with pass := p } } }

/-- The block with the pair changed. -/
def Block.withPair (b : Block) (p : Pair) : Block := { b with ctl := { b.ctl with pair := p } }

/-- The block with one cove changed. -/
def Block.withCove (b : Block) (cove : Nat) (f : Cove → Cove) : Block := { b with ctl := b.ctl.setCove cove f }

/-- The block with firmware's page work changed. -/
def Block.withFw (b : Block) (f : PageFw) : Block := { b with ctl := { b.ctl with fw := f } }

/-- The arbiter took just this event (R300, R302). -/
def Block.Raised (b t : Block) (code source detail : Nat) : Prop := t.arb = (b.accept code source detail).arb

/-! ## Coves and channels -/

/-- One cove is `v`, but for the translations and instructions that its own caches hold; every other cove and all other control state but the
caches of the bays and dies is as it was (R47, R227, R237: what a cache holds is no value that a program sees). -/
def Block.OneCove (b t : Block) (cove : Nat) (v : Cove) : Prop :=
  t.ctl.cove cove = { v with tlb := (t.ctl.cove cove).tlb, icache := (t.ctl.cove cove).icache } ∧ (∀ c, c ≠ cove → t.ctl.cove c = b.ctl.cove c) ∧
  t.ctl = { b.ctl with engine := { b.ctl.engine with coves := t.ctl.engine.coves, caches := t.ctl.engine.caches } }

/-- Every memory, the arbiter, the clock, the fuses and the messages sent are as they were. -/
def Block.Untouched (b t : Block) : Prop := { b with sems := t.sems, fresh := t.fresh }.SameOutside t

/-- The instance in a context of a cove has its waits met, no fault, has not begun, is the oldest that may run, and its shape is within its
maxima and not empty. -/
def Block.Runnable (b : Block) (cove n op : Nat) (x : Ctx) : Prop :=
  (b.ctl.cove cove).ctx n = some x ∧ rOp x.record = op ∧ waitsMet x.record x.met = true ∧ x.fault = none ∧ x.begun = false ∧
  b.ctl.oldest cove x = true ∧ overMax x = (false, false, false) ∧ x.m ≠ 0 ∧ x.n ≠ 0 ∧ x.k ≠ 0

/-- The block after a record's used signals, poisoned or not. -/
def Block.signalled (b : Block) (second : Bool) (r : Bytes) (poison : Bool) : Block := (Act.each (recSignals r) (signalEntry second poison)).run b

/-- The block after the accesses of a unit have gone through the cove's translation caches and the memory-side caches. -/
def Block.touched (b : Block) (cove : Nat) (second : Bool) (as : List Access) : Block := (touch cove second as).run b

/-- The same for the accesses of an operand or key stream. -/
def Block.streamed (b : Block) (cove : Nat) (second : Bool) (as : List Access) : Block := (touchAs true cove second as).run b

/-- All but control state, semaphores and free values is as it was, and board peers alone have been sent something: requests for the bytes
of the accesses that lie there (R216). -/
def Block.Asked (b t : Block) (cove : Nat) (second : Bool) (as : List Access) : Prop :=
  { b with out := (b.touched cove second as).out }.Untouched t

/-- The block after units of an instance's work in order, each of whose accesses translates when its turn comes; none where one does not
(R163, R211). -/
def unitsDone (cove n : Nat) (second : Bool) : List (List Access × Act) → Block → Option Block
  | [], b => some b
  | (as, a) :: us, b =>
    if (b.firstBad (b.ctl.space cove second) as).isNone then
      unitsDone cove n second us
        ((Act.all [touchAs (b.streams cove n) cove second as, a, updCtx cove n fun x => { x with pos := x.pos + 1 }]).run b)
    else none

/-- The block after a rank has passed a broadcast payload on to its children (R200). -/
def Block.passedOn (b : Block) (cove n me : Nat) (p : BcastPayload) : Block :=
  ((Act.each (treeChildren b.ctl.jobP me p.root) fun (_, k) => send (.rank k) (.payload { p with toRank := k })).seq (txDone cove n)).run b

/-- The block with one more operation's waits all met (R268). -/
def Block.countedMet (b : Block) : Block :=
  { b with ctl := { b.ctl with engine := { b.ctl.engine with nextMet := b.ctl.engine.nextMet + 1 } } }

/-- A running thread of a kernel stands at the 4-byte instruction word `w`, which translates.  The word is read after the fetch has gone
through the caches: one that lies on a board peer is a free value. -/
def Block.Fetches (b : Block) (cove th : Nat) (t : Thread) (x : Ctx) (w : Nat) : Prop :=
  (b.ctl.cove cove).thread th = t ∧ t.state = .running ∧ (b.ctl.cove cove).ctx t.ctx = some x ∧
  b.firstBad (b.ctl.space cove x.second) [rd t.pc.toNat 2] = none ∧ b.firstBad (b.ctl.space cove x.second) [rd t.pc.toNat 4] = none ∧
  b.natVa (b.ctl.space cove x.second) t.pc.toNat 2 % 4 = 3 ∧
  (b.touched cove x.second [rd t.pc.toNat 4]).natVa (b.ctl.space cove x.second) t.pc.toNat 4 = w

/-- A running channel that no other number which shares it holds stands at the instruction `i`, which translates. -/
def Block.Stands (b : Block) (e ch op : Nat) (c : Channel) (i : Bytes) : Prop :=
  b.ctl.chan e ch = c ∧ c.state = .run ∧ b.served (chKey e ch) = true ∧ b.firstBad c.space [{ va := c.prog + 16 * c.instr, len := 16, write := false }] = none ∧
  b.lsInstr c.space c.prog c.instr = i ∧ u8 i 0 = op

/-- The end of one channel's program is not the last thing that a STOP_JOB waits for (R273). -/
def Block.StaysInJob (b : Block) (e ch : Nat) : Prop :=
  b.ctl.job.stopping = none ∨ b.openSeqs ≠ [] ∨
  ∃ k, k ≠ chKey e ch ∧ (Tab.get Channel.idle b.ctl.engine.ls.chans k).state ≠ .idle ∧ fwChannel (k / 32) (k % 32) = false

/-- The block after a tile of a channel's stream has been issued (R258 to R261). -/
def Block.issued (b : Block) (e ch : Nat) (c : Channel) (i src dst : Bytes) (off len : Nat) : Block :=
  (issueTile e ch c i src dst off len .done).run b

/-- One channel is `c`; every other channel and all other control state, but for the engines' counters, is as it was. -/
def Block.OneChan (b t : Block) (e ch : Nat) (c : Channel) : Prop :=
  t.ctl.chan e ch = c ∧ (∀ k, k ≠ chKey e ch → Tab.get Channel.idle t.ctl.engine.ls.chans k = Tab.get Channel.idle b.ctl.engine.ls.chans k) ∧
  t.ctl = { b.ctl with engine := { b.ctl.engine with ls := { b.ctl.engine.ls with
    chans := t.ctl.engine.ls.chans, counters := t.ctl.engine.ls.counters } } }

/-! ## One part of the control state changed -/

/-- The block with its errors, spares and store changed. -/
def Block.withHealth (b : Block) (f : Health → Health) : Block := { b with ctl := { b.ctl with health := f b.ctl.health } }

/-- The block with one link changed. -/
def Block.withLink (b : Block) (n : Nat) (f : Link → Link) : Block :=
  { b with ctl := { b.ctl with links := { b.ctl.links with links := Tab.set Link.reset b.ctl.links.links n (f (b.ctl.link n)) } } }

/-- The block with its Lighthouse registers changed. -/
def Block.withLh (b : Block) (f : Lighthouse → Lighthouse) : Block := { b with ctl := { b.ctl with lh := f b.ctl.lh } }

/-- The block with its pins changed. -/
def Block.withPins (b : Block) (f : Pins → Pins) : Block := { b with ctl := { b.ctl with pins := f b.ctl.pins } }

/-- The block with its power state changed. -/
def Block.withPower (b : Block) (f : Power → Power) : Block := { b with ctl := { b.ctl with power := f b.ctl.power } }

/-- The block with the module's own state changed. -/
def Block.withGlb (b : Block) (f : Glb → Glb) : Block := { b with ctl := { b.ctl with glb := f b.ctl.glb } }

/-- The block with its security block changed. -/
def Block.withSec (b : Block) (f : Security → Security) : Block := { b with ctl := { b.ctl with sec := f b.ctl.sec } }

/-- The block with Shoal changed. -/
def Block.withShoal (b : Block) (f : Shoal → Shoal) : Block := { b with ctl := { b.ctl with shoal := f b.ctl.shoal } }

/-- Memories, semaphores, clock, fuses, reservations and free values are as they were; events and messages may have been added. -/
def Block.SameData (b t : Block) : Prop :=
  t.mem = b.mem ∧ t.host = b.host ∧ t.flash = b.flash ∧ t.nor0 = b.nor0 ∧ t.nor1 = b.nor1 ∧ t.sems = b.sems ∧ t.lhTime = b.lhTime ∧
  t.fuses = b.fuses ∧ t.lrs = b.lrs ∧ t.fresh = b.fresh

/-! ## Errors, links and power -/

/-- A record added to the error history (Table 13-11). -/
def Health.noted (h : Health) (r : ErrRec) : Health := { h with history := addHistory h.history r }

/-- Times of the transient errors of a unit within the classification window, with the present one (R402). -/
def Block.chargeTimes (b : Block) (u : UnitRef) : List Nat := inWindow b.ctl.window b.lhTime (Tab.get [] b.ctl.health.transient (unitKey u))

/-- Times of the corrected errors of a unit, or of one DRAM device of a DDR5 rank, within the window, with the present one (R403). -/
def Block.trendTimes (b : Block) (u : UnitRef) (device : Nat) : List Nat :=
  inWindow b.ctl.window b.lhTime (Tab.get [] b.ctl.health.corrected (trendKey u device))

/-- The health after a transient error of a unit has been charged (R402). -/
def Health.charged (h : Health) (now : Nat) (u : UnitRef) (ts : List Nat) (detail : Nat) : Health :=
  ({ h with transient := Tab.set [] h.transient (unitKey u) ts }).noted { time := now, cls := u.cls, kind := 0, unit := u.number, detail := detail }

/-- The health after a correction in a memory unit has been counted (R403, R411). -/
def Health.counted (h : Health) (now : Nat) (u : UnitRef) (device source : Nat) (ts : List Nat) : Health :=
  let k := unitKey u
  { h with corrected := Tab.set [] h.corrected (trendKey u device) ts, counters := addCount h.counters source 1,
           hour := Tab.set 0 h.hour k (Tab.get 0 h.hour k + 1), hourAt := if h.hour.isEmpty then now / hourNs * hourNs else h.hourAt }

/-- DETAIL of the summary of the hour's corrections (Table 13-4): how many in all, and the unit with the most. -/
def Health.summary (h : Health) : Nat :=
  let most := h.hour.foldl (fun (m : Nat × Nat) e => if m.2 < e.2 then e else m) (0, 0)
  min (2 ^ 32 - 1) (h.hour.map Prod.snd).sum * 2 ^ 32 + most.1 / 65536 % 65536 * 65536 + most.1 / 2 ^ 32 % 16

/-- A command counts a correction in a memory unit; how the trend stands decides what else happens: a summary at half its limit, a planned
retirement at the limit (R403, R411). -/
def Counts (i : Instr) (s : State) (u : UnitRef) (device : Nat) : Prop :=
  let ts := s.block.trendTimes u device
  let t := s.block.withHealth fun h => h.counted s.block.lhTime u device (memSource u) ts
  ∀ n, trendLimit u.cls = some n →
    (ts.length ≠ n / 2 + 1 → ts.length ≠ n → Runs i s t) ∧
    (ts.length = n / 2 + 1 → Runs i s (t.accept 0x0202 0 t.ctl.health.summary)) ∧
    (ts.length = n → (∀ p ∈ s.block.ctl.health.planned, p.1 ≠ u) → Runs i s (t.withHealth fun h => { h with planned := h.planned ++ [(u, 2)] }))

/-- Every link but one is as it was. -/
def Block.OtherLinks (b t : Block) (n : Nat) : Prop := ∀ m, m ≠ n → t.ctl.link m = b.ctl.link m

/-- The loss of a link of this state cannot cost a running job or a pair its bundle. -/
def Ctl.SafeToLose (c : Ctl) (n : Nat) : Prop := (c.link n).state ≠ .up ∨ (c.job.inJob = false ∧ c.pair.role = .unbound)

/-- The module has been through a trip: off, in BOOT, PWR_FAULT driven (R440). -/
def Block.Tripped (t : Block) : Prop :=
  t.ctl.glb.tripped = true ∧ t.ctl.glb.state = .boot ∧ t.ctl.pins.pwrFault = true ∧ t.ctl.pins.converterOn = false ∧ t.arb = Arbiter.reset

/-- The module has left STANDBY into BOOT at step 3; STANDBY_WAKE with the cause is event 1 and the only one (R444, R447). -/
def Block.Woken (b t : Block) (k : Nat) : Prop :=
  t.ctl.power.state = .run ∧ t.ctl.glb.state = .boot ∧ t.ctl.glb.step = 3 ∧ b.SameData t ∧ t.out = b.out ∧ t.ctl.lh = b.ctl.lh.occur k ∧
  t.ctl.pins.wake = (k != flagPcie) ∧
  t.arb = ({ b with arb := Arbiter.reset }.accept 0x0901 (src 8 0) (wakeDetail (b.lhTime - b.ctl.power.standbyAt) k)).arb

/-- The module is not off, and this flag does not wake it. -/
def Ctl.StaysPut (c : Ctl) (k : Nat) : Prop := c.power.state ≠ .off ∧ ¬ (c.power.state = .standby ∧ k < 6 ∧ c.lh.wakeEn.getLsbD k = true)

/-- The module is in STANDBY and this flag wakes it. -/
def Ctl.WakesOn (c : Ctl) (k : Nat) : Prop := c.power.state = .standby ∧ k < 6 ∧ c.lh.wakeEn.getLsbD k = true

/-- The block with a Lighthouse flag set and counted. -/
def Block.flagged (b : Block) (k : Nat) : Block := b.withLh fun h => h.occur k

/-- A removal request of a source is served at once: the event, and REMOVE_OK (R450). -/
def Block.RemovalServed (b t : Block) (source : Nat) : Prop :=
  t.ctl.power.removal = some { source := source, since := b.lhTime, draining := false } ∧ b.Raised t 0x0900 (src 8 0) source ∧
  t.ctl.pins.removeOk = true ∧ t.ctl.glb = b.ctl.glb ∧ t.ctl.job = b.ctl.job ∧ t.ctl.hif = b.ctl.hif ∧ b.SameData t ∧ t.out = b.out

/-- Nothing has asked for removal, and no job holds the module: a request is served at once. -/
def Ctl.MayRemove (c : Ctl) : Prop :=
  c.power.removal = none ∧ c.pins.removeOk = false ∧ (c.glb.state = .ready ∨ c.glb.state = .loaded) ∧ (c.power.state = .run ∨ c.power.state = .idle)

/-- The dies have been through a reset that keeps LH_TIME and the Lighthouse registers: BOOT, SEQNO 1, no plan, no rings, no commands; the
store banks, boot selectors and straps stand (R445, Table 14-10). -/
def Block.DiesReset (b t : Block) : Prop :=
  t.ctl.glb.state = .boot ∧ t.arb = Arbiter.reset ∧ t.ctl.hif = HostIf.reset ∧ t.ctl.plan = Plan.blank ∧ t.ctl.job = Job.blank ∧
  t.ctl.engine = Engine.empty ∧ t.ctl.links = Links.reset ∧ t.ctl.pair = Pair.blank ∧ t.ctl.shoal = Shoal.blank ∧
  t.ctl.health.storeA = b.ctl.health.storeA ∧ t.ctl.health.storeB = b.ctl.health.storeB ∧ t.ctl.sec.sel0 = b.ctl.sec.sel0 ∧
  t.ctl.sec.sel1 = b.ctl.sec.sel1 ∧ t.ctl.glb.slot = b.ctl.glb.slot ∧ t.ctl.glb.dualPort = b.ctl.glb.dualPort

/-- Nothing of the module's own keeps power: memory and semaphores blank, LH_TIME 0, events restarted; what is in NOR and flash stands. -/
def Block.PowerLost (b t : Block) : Prop :=
  t.mem = [] ∧ (∀ k, t.sem k = 0) ∧ t.arb = Arbiter.reset ∧ t.lhTime = 0 ∧ t.nor0 = b.nor0 ∧ t.nor1 = b.nor1 ∧ t.flash = b.flash ∧
  t.host = b.host ∧ t.fuses = b.fuses ∧ t.out = b.out ∧ t.fresh = b.fresh

/-- A NOR device with its firmware bank erased; what lies behind the bank stands. -/
def Memory.bankErased (m : Memory) : Memory := m.filter fun c => decide (bankBytes ≤ c.1)

/-- A NOR device with a firmware bank written into it: the bank's bytes up to 48 MiB are the image, what lies behind them stands (R461). -/
def Memory.withBank (m : Memory) (img : Bytes) : Memory :=
  let erased := m.bankErased
  (erased.write 4096 (img.drop 4096)).write 0 (img.take 4096)

/-- An SPDM answer has been sent on a connection. -/
def Block.answering (b : Block) (k : SpdmConn) (code : SpdmCode) (body : Bytes) : Block := b.sending (spdmDest k) (.spdm code.num body)


end Sys2Proof.Machine
end

