-- ==== Sys2Proof/Certificates/Slice0/Obligations.lean ====
section
/-! DEFINITION. The statements for the provers. -/

open Sys2Proof Sys2Proof.Machine


/-! ## The whole block -/

/-- The command at the front of the queue runs on the block with the rest of the queue. -/
def Obligations.StepRunsFrontCommand : Prop :=
  ∀ (c : Instr) (s : State), step { s with pending := c :: s.pending } = exec c s

/-- The model's choice (log 3): on an empty queue a step is a tick of the clock of R442, which advances LH_TIME by the period of the
power state, charges the coves' time and lets the links go on with what waits on them; it touches no memory, semaphore, event or fuse, and sends
nothing but flits. -/
def Obligations.EmptyQueueTicks : Prop :=
  ∀ s : State, s.pending = [] →
    ∃ t : State, step s = .next t ∧ t.pending = [] ∧
      t.block.lhTime = s.block.lhTime + (tickLength s.block.ctl.power.state s.block.ctl.lh.frac).1 ∧
      t.block.ctl.lh = { s.block.ctl.lh with frac := (tickLength s.block.ctl.power.state s.block.ctl.lh.frac).2 } ∧
      t.block.ctl = { s.block.ctl with lh := t.block.ctl.lh, engine := t.block.ctl.engine, links := t.block.ctl.links } ∧
      (s.block.ctl.linksAlive = false → t.block.ctl.links = s.block.ctl.links ∧ t.block.out = s.block.out) ∧
      (∃ new : List Sent, t.block.out = new ++ s.block.out ∧ ∀ x ∈ new, ∃ n f, x = { dest := .link n, msg := .flit f }) ∧
      s.block.SameOutside { t.block with lhTime := s.block.lhTime, out := s.block.out, fresh := s.block.fresh }

/-- Every command completes: the block ends in no fault and refuses nothing, and a command leaves the queue alone. -/
def Obligations.EveryCommandCompletes : Prop := ∀ (i : Instr) (s : State), ∃ b, Runs i s b

/-- An invariant: canonical memories, hold queues in order and within their room, ROLLBACK within its fuses, four owner slots, at most one
reservation of LR for each thread. -/
def Obligations.StepKeepsGood : Prop := ∀ s t : State, s.block.Good → step s = .next t → t.block.Good

/-- The invariant holds right after reset. -/
def Obligations.ResetIsGood : Prop := State.reset.block.Good

/-- No step takes back what is written once: blown fuses, sent messages, drawn free values. -/
def Obligations.StepIsOnward : Prop := ∀ s t : State, step s = .next t → s.block.Onward t.block

/-- The registers after a power-on reset read as chapter 16's tables give, where they give a value. -/
def Obligations.ResetRegisters : Prop :=
  let b := State.reset.block
  b.ctl.glb.state = .boot ∧ State.reset.pending = [] ∧ b.lhTime = 0 ∧ b.arb.next = 1 ∧
  b.regState % 16 = 1 ∧ b.regState / 2 ^ 40 = 0 ∧ b.regVersion % 256 = 1 ∧ b.regVersion / 2 ^ 16 = 0x96 ∧
  (∀ port, (∀ o ∈ [0x1000, 0x1008, 0x1018, 0x1028, 0x1030, 0x1038, 0x1040], b.reg port o = 0) ∧ b.reg port 0x1010 = 0x000A000A ∧ b.reg port 0x1020 = 256) ∧
  (∀ n < 64, (∀ o ∈ [0x00, 0x08, 0x10], b.reg false (0x2000 + 64 * n + o) = 0) ∧ b.reg false (0x2000 + 64 * n + 0x18) = 16 ∧
    b.reg false (0x2000 + 64 * n + 0x20) = 2) ∧
  b.reg false 0x4000 = 2900 * 2 ^ 16 + 4 ∧ b.reg false 0x4008 = 0 ∧
  (∀ o ∈ [0x5000, 0x5008, 0x5010, 0x5018, 0x5030, 0x5038], b.reg false o = 0) ∧ b.reg false 0x5020 = 0x3F ∧ b.reg false 0x5028 = 0x6464 ∧
  (∀ l < 96, b.reg false (0x6000 + 64 * l) = 0 ∧ b.reg false (0x6000 + 64 * l + 8) = 1 ∧ b.reg false (0x6000 + 64 * l + 16) = 0 ∧
    b.reg false (0x6000 + 64 * l + 24) = 0xFFFF0000) ∧
  b.reg false 0x9010 = 2900 * 2 ^ 48 ∧ b.reg false 0x9018 = 0x1804 ∧ b.reg false 0xA008 = 0 ∧ ∀ k < 6, b.reg false (0xA100 + 8 * k) = 0

/-! ## Host interface -/

/-- Polling, waking and falling asleep: after host stores land, every polled ring's indices are those of its doorbell record; HIF_WAKE
writes POLLING 1 first; a port that has had nothing to do, and whose records show no new command, stops. -/
def Obligations.PollingReadsDoorbells : Prop :=
  (∀ (s : State) (port : Fin 2) (stores : List HostStore), s.block.ctl.polls (port == 1) = true →
    Yields (.doorbellPoll port stores) s fun t =>
      t.host = landed s.block.host stores ∧ (∀ n ∈ s.block.ctl.polled (port == 1), ReadsRecord t n) ∧
      { s.block with host := t.host }.SameOutside t ∧ t.ctl.hif.cmds = s.block.ctl.hif.cmds) ∧
  (∀ (s : State) (port : Fin 2), s.block.ctl.barUp (port == 1) = true → s.block.ctl.hifOn (port == 1) = true →
    Yields (.hifWake port) s fun t =>
      t.host = pollingWritten s.block (port == 1) 1 ∧ (∀ n ∈ s.block.ctl.ownRings (port == 1), ReadsRecord t n) ∧
      (t.ctl.hif.hif (port == 1)).polling = true ∧ t.ctl.power.state ≠ .idle ∧
      { s.block with host := t.host }.SameOutside t ∧ t.ctl.hif.cmds = s.block.ctl.hif.cmds) ∧
  (∀ (s : State) (port : Fin 2) (stores : List HostStore),
    (s.block.ctl.hif.hif (port == 1)).polling = true → s.block.ctl.hifOn (port == 1) = true → s.block.nothingToDo (port == 1) = true →
    (∀ n ∈ s.block.ctl.ownRings (port == 1),
      (landed (pollingWritten s.block (port == 1) 0) stores).nat (s.block.ctl.ring n).dbrec.toNat 4 = (s.block.ctl.ring n).sqTail) →
    Yields (.pollSleep port stores) s fun t =>
      t.host = landed (pollingWritten s.block (port == 1) 0) stores ∧ (t.ctl.hif.hif (port == 1)).polling = false ∧
      { s.block with host := t.host }.SameOutside t ∧ t.ctl.hif.cmds = s.block.ctl.hif.cmds)

/-- Enabling and disabling a port or a ring (R367, R476, R477). -/
def Obligations.PortAndRingSwitches : Prop :=
  (∀ (s : State) (port : Fin 2) (v : BitVec 64), s.block.ctl.barUp (port == 1) = true → v.getLsbD 0 = true →
    Yields (.hifEnable port v) s fun t =>
      t.ctl.hifOn (port == 1) = true ∧ (t.ctl.hif.hif (port == 1)).ctrl = v &&& 0x3F01 ∧ (t.ctl.hif.hif (port == 1)).polling = true ∧
      { s.block with host := t.host }.SameOutside t ∧ t.ctl.hif.cmds = s.block.ctl.hif.cmds) ∧
  (∀ (s : State) (port : Fin 2) (v : BitVec 64), s.block.ctl.barUp (port == 1) = true → v.getLsbD 0 = false →
    Yields (.hifDisable port v) s fun t =>
      t.ctl.hifOn (port == 1) = false ∧ (t.ctl.hif.hif (port == 1)).polling = false ∧ s.block.SameOutside t ∧
      t.ctl.hif.cmds = s.block.ctl.hif.cmds ∧ t.ctl.hif.rings = s.block.ctl.hif.rings) ∧
  (∀ (s : State) (port : Fin 2) (n : Fin 64) (v : BitVec 64), s.block.ctl.mayWriteRing (port == 1) n.val = true → v.getLsbD 0 = true →
    (s.block.ctl.ring n.val).on = false → s.block.ctl.inflight n.val = 0 →
    Yields (.ringEnable port n v) s fun t =>
      (t.ctl.ring n.val).ctrl = v &&& 0x3F1D ∧ (t.ctl.ring n.val).on = true ∧ (t.ctl.ring n.val).base = (s.block.ctl.ring n.val).base ∧
      { s.block with host := t.host }.SameOutside t ∧ ∀ m, m ≠ n.val → t.ctl.ring m = s.block.ctl.ring m) ∧
  (∀ (s : State) (port : Fin 2) (n : Fin 64) (v : BitVec 64), s.block.ctl.mayWriteRing (port == 1) n.val = true → v.getLsbD 0 = false →
    (s.block.ctl.ring n.val).on = true → s.block.ctl.pairRing n.val = false →
    Yields (.ringDisable port n v) s fun t =>
      (t.ctl.ring n.val).on = false ∧ t.ctl.hif.cmds = s.block.ctl.hif.cmds ∧ s.block.SameOutside t ∧
      ∀ m, m ≠ n.val → t.ctl.ring m = s.block.ctl.ring m) ∧
  (∀ (s : State) (port : Fin 2) (v : BitVec 64), s.block.ctl.pairRing 0 = true →
    Runs (.ringDisable port 0 v) s s.block)

/-- A command is taken from the ring that R346 picks, its number moves SQ_HEAD on in the doorbell record; a malformed one, and one
that names a semaphore no command may name (R349, log 52), is finished with E_FORMAT at once. -/
def Obligations.TakeFollowsRing : Prop :=
  ∀ (s : State) (n : Nat), s.block.ctl.glb.state.ringState = true → s.block.ctl.pickRing = some n → n ≠ 0 →
    let r := s.block.ctl.ring n
    let bytes := s.block.host.read (r.base.toNat + r.sqHead % r.slots * 128) 128
    Yields .commandTake s fun t =>
      (t.ctl.ring n).sqHead = (r.sqHead + 1) % 2 ^ 32 ∧
      t.host = s.block.host.write (r.dbrec.toNat + 8) (leBytes ((r.sqHead + 1) % 2 ^ 32) 4) ∧
      (∃ x ∈ t.ctl.hif.cmds, x.id = s.block.ctl.hif.nextId ∧ x.ring = n ∧ x.index = r.sqHead ∧ x.bytes = bytes ∧
        (let bad := formatOk s.block.slot bytes = false ∨ (cWait bytes = true ∧ semNever (u16 bytes 16) = true) ∨
          (cSignal bytes = true ∧ semNever (u16 bytes 18) = true)
         (bad → x.phase = .finished ∧ x.status = 0x11) ∧ (¬bad → x.phase = .waiting))) ∧
      (∀ y ∈ s.block.ctl.hif.cmds, y.id ≠ s.block.ctl.hif.nextId → y ∈ t.ctl.hif.cmds) ∧
      { s.block with host := t.host }.SameOutside t ∧ ∀ m, m ≠ n → t.ctl.ring m = s.block.ctl.ring m

/-- A finished command's completion goes to its ring's next slot once CQ_HEAD shows one free: the entry, the command's signal, the interrupt
it asked for, and the command is no longer taken (R339, R340).  Every field of a completion entry stands where Table 11-3 puts it; PHASE is 1 while c / size is even. -/
def Obligations.CompletionIsWritten : Prop :=
  (∀ (s : State) (n : Fin 64) (x : Cmd), n ≠ 0 → s.block.ctl.glb.state.ringState = true → s.block.ctl.ringLive n.val = true →
      (∀ y ∈ s.block.ctl.hif.cmds, y.ring ≠ lostRing) → s.block.ctl.nextDone n.val = some x → x.leaves = false →
      let r := s.block.ctl.ring n.val
      let port := s.block.ctl.portOf n.val
      (r.cqCount + 2 ^ 32 - r.cqHead) % 2 ^ 32 < r.slots → (∀ e ∈ (s.block.arb.queue port).held, x.evtNo ≤ e.seqno) →
      Yields (.completionWrite n) s fun t =>
        t.host = s.block.host.write (r.cqBase.toNat + r.cqCount % r.slots * 32) (completionEntry x r) ∧
        t.sems = ((commandSignal s.block x).run s.block).sems ∧
        t.out = (if cIrq x.bytes || r.irqAll then [{ dest := .host (if port then 1 else 0), msg := .msix r.vector }] else []) ++ s.block.out ∧
        (t.ctl.ring n.val).cqCount = (r.cqCount + 1) % 2 ^ 32 ∧ t.ctl.hif.cmds = s.block.ctl.hif.cmds.filter (fun y => y.id != x.id) ∧
        t.mem = s.block.mem ∧ t.flash = s.block.flash ∧ t.nor0 = s.block.nor0 ∧ t.nor1 = s.block.nor1 ∧ t.fuses = s.block.fuses ∧
        t.lhTime = s.block.lhTime ∧ ∀ m, m ≠ n.val → t.ctl.ring m = s.block.ctl.ring m) ∧
  (∀ (x : Cmd) (r : Ring), x.bytes.length = 128 → x.ring < 64 → r.sqHead < 2 ^ 32 → x.status < 256 →
      let e := completionEntry x r
      e.length = 32 ∧ slice e 0 8 = slice x.bytes 8 8 ∧ u32 e 8 = r.sqHead ∧ u16 e 12 = x.ring ∧ u8 e 14 = x.status ∧
      u8 e 15 = (if r.cqCount / r.slots % 2 = 0 then 1 else 0) ∧ slice e 16 16 = result16 x.result)

/-- The arbiter gives an event the next SEQNO and the time, and every port's queue holds it, or counts it as dropped while the queue is full
(R300, R302).  The oldest held record goes to slot e mod size of the port's event ring while fewer than its size are unconsumed, leaves the queue, and
raises the vector when the mask has its class (R341, R342). -/
def Obligations.EventsAreHeldAndWritten : Prop :=
  (∀ (s : State) (e : RawEvent), e.code ∈ eventCodes → rawEventWf e = true →
      let r : EventRec := { seqno := s.block.arb.next, time := s.block.lhTime, code := e.code, source := e.source, detail := e.detail }
      Yields (.eventAccept e) s fun t =>
        t.arb.next = s.block.arb.next + 1 ∧
        (s.block.arb.q0.count < 1024 → s.block.arb.q0.dropped = 0 → t.arb.q0.held = s.block.arb.q0.held ++ [r]) ∧
        (s.block.arb.q0.count < 1024 → s.block.arb.q0.dropped ≠ 0 →
          ∃ l, t.arb.q0.held = s.block.arb.q0.held ++ [l, r] ∧ l.code = 1 ∧ l.seqno = s.block.arb.q0.dropSeq ∧ t.arb.q0.dropped = 0) ∧
        (1024 ≤ s.block.arb.q0.count → t.arb.q0.held = s.block.arb.q0.held ∧ t.arb.q0.dropped = s.block.arb.q0.dropped + 1 ∧
          t.arb.q0.dropSeq = s.block.arb.next) ∧
        (s.block.ctl.glb.dualPort = false → t.arb.q1 = s.block.arb.q1) ∧ t.ctl.power.state ≠ .idle ∧
        t.mem = s.block.mem ∧ t.host = s.block.host ∧ t.sems = s.block.sems ∧ t.fuses = s.block.fuses ∧ t.out = s.block.out ∧
        t.ctl = { s.block.ctl with power := t.ctl.power }) ∧
  (∀ (s : State) (port : Fin 2) (r : EventRec),
      let p := port == 1
      let h := s.block.ctl.hif.hif p
      s.block.ctl.hasPort p = true → s.block.ctl.hifOn p = true → s.block.ctl.glb.state.ringState = true →
      (s.block.arb.queue p).held.head? = some r →
      (h.evtCount + 2 ^ 32 - s.block.host.nat h.evtDbrec.toNat 4) % 2 ^ 32 < h.evtSlots →
      Yields (.eventRecordWrite port) s fun t =>
        t.host = s.block.host.write (h.evtBase.toNat + h.evtCount % h.evtSlots * 32) r.bytes ∧
        (t.arb.queue p).held = (s.block.arb.queue p).held.tail ∧ (t.ctl.hif.hif p).evtCount = (h.evtCount + 1) % 2 ^ 32 ∧
        t.out = (if h.evtMask.getLsbD (r.code / 256) then [{ dest := .host (if p then 1 else 0), msg := .msix (bits h.ctrl.toNat 13 8) }] else []) ++
          s.block.out ∧
        t.mem = s.block.mem ∧ t.sems = s.block.sems ∧ t.fuses = s.block.fuses ∧ t.arb.next = s.block.arb.next ∧ t.lhTime = s.block.lhTime ∧
        t.ctl.hif.rings = s.block.ctl.hif.rings ∧ t.ctl.hif.cmds = s.block.ctl.hif.cmds)

/-! ## Commands of the rings -/

/-- NOP and SET_POWER complete OK: NOP with no other effect, SET_POWER with the cap in force from then on and IDLE forbidden or permitted
(R354, R437, R444).  QUERY_INFO and READ_COUNTERS write a header of bytes needed and written, then the data when it fits (R355). -/
def Obligations.NopPowerAndInfo : Prop :=
  ((∀ (s : State) (id : Nat) (x : Cmd), s.block.MayRun id 0x01 x →
      Yields (.nop id) s fun t => t.Ended id .ok [] ∧ s.block.OthersKept t id ∧ s.block.SameOutside t ∧
        t.ctl = { s.block.ctl with hif := t.ctl.hif }) ∧
    (∀ (s : State) (id : Nat) (x : Cmd), s.block.MayRun id 0x52 x → (u8 x.bytes 32 = 2 → s.block.ctl.glb.state = .ready) →
      Yields (.setPower id) s fun t => t.Ended id .ok [] ∧ s.block.OthersKept t id ∧ s.block.SameOutside t ∧
        t.ctl.power.capW = u32 x.bytes 36 ∧
        (u8 x.bytes 32 = 0 → t.ctl.power.idleOk = false ∧ t.ctl.power.state ≠ .idle) ∧ (u8 x.bytes 32 = 1 → t.ctl.power.idleOk = true) ∧
        (u8 x.bytes 32 = 2 → t.ctl.power.idleOk = s.block.ctl.power.idleOk ∧ t.ctl.power.state = s.block.ctl.power.state))) ∧
  (∀ (s : State) (id : Nat) (x : Cmd) (counters : Bool), s.block.MayRun id (if counters then 0x51 else 0x50) x →
      let b := s.block.started id
      let data := if counters then (b.counters (u8 x.bytes 32)).flatMap fun e =>
          leBytes e.source 2 ++ leBytes e.counter 2 ++ zeroBytes 4 ++ leBytes (e.value % 2 ^ 48) 8
        else b.info (u8 x.bytes 32)
      let need := 16 + data.length
      let out := u64 x.bytes 40
      Yields (if counters then .readCounters id else .queryInfo id) s fun t =>
        s.block.OthersKept t id ∧
        (need ≤ u32 x.bytes 48 → t.Ended id .ok (leBytes need 8) ∧ t.host = s.block.host.write out (leBytes need 8 ++ leBytes need 8 ++ data)) ∧
        (u32 x.bytes 48 < need → t.Ended id .okShort (leBytes need 8) ∧ t.host = s.block.host.write out (leBytes need 8 ++ leBytes 16 8)) ∧
        { s.block with host := t.host }.SameOutside t ∧ t.ctl = { s.block.ctl with hif := t.ctl.hif })

/-- COPY and FILL write their destination and nothing else, and report the bytes (R356).  A COPY or FILL of kind 2 while the module runs a job, and any of them in RESYNC, completes with E_STATE and no effect (R356).  One of no
bytes has nothing to do: OK_EMPTY (Table 11-8; that this comes before the address checks is the model's reading, log 51). -/
def Obligations.CopyAndFill : Prop :=
  ((∀ (s : State) (id : Nat) (x : Cmd), s.block.MayRun id 0x40 x → copyLegal s.block x = true →
      let b := s.block.started id
      let sk := u8 x.bytes 32 % 16
      let dk := u8 x.bytes 32 / 16
      let n := u64 x.bytes 56
      let dst := u64 x.bytes 48
      n ≠ 0 → b.copyEnd sk (u64 x.bytes 40) n false = none → b.copyEnd dk dst n true = none →
      Yields (.copy id) s fun t => t.Ended id .ok (leBytes n 8) ∧ s.block.OthersKept t id ∧
        (dk = 0 → t.mem = s.block.mem ∧ t.host = s.block.host.write dst (b.copied sk (u64 x.bytes 40) dk dst n) ∧ s.block.HostOutside t dst n) ∧
        (dk = 2 → t.host = s.block.host ∧ t.mem = s.block.mem.write dst (b.copied sk (u64 x.bytes 40) dk dst n) ∧ s.block.MemOutside t dst n) ∧
        t.flash = s.block.flash ∧ t.nor0 = s.block.nor0 ∧ t.nor1 = s.block.nor1 ∧ t.sems = s.block.sems ∧ t.arb = s.block.arb ∧
        t.fuses = s.block.fuses ∧ t.out = s.block.out) ∧
    (∀ (s : State) (id : Nat) (x : Cmd), s.block.MayRun id 0x41 x → copyLegal s.block x = true →
      let b := s.block.started id
      let dk := u8 x.bytes 32 / 16
      let n := u64 x.bytes 56
      let dst := u64 x.bytes 48
      n ≠ 0 → b.copyEnd dk dst n true = none →
      Yields (.fill id) s fun t => t.Ended id .ok (leBytes n 8) ∧ s.block.OthersKept t id ∧
        (dk = 0 → t.mem = s.block.mem ∧ s.block.HostOutside t dst n ∧ (∀ i < n, t.host.byte (dst + i) = x.bytes.getD (64 + i % 8) 0)) ∧
        (dk = 2 → t.host = s.block.host ∧ s.block.MemOutside t dst n ∧ (∀ i < n, t.mem.byte (dst + i) = x.bytes.getD (64 + i % 8) 0)) ∧
        t.flash = s.block.flash ∧ t.nor0 = s.block.nor0 ∧ t.nor1 = s.block.nor1 ∧ t.sems = s.block.sems ∧ t.arb = s.block.arb ∧
        t.fuses = s.block.fuses ∧ t.out = s.block.out)) ∧
  ((∀ (s : State) (id : Nat) (x : Cmd), (s.block.MayRun id 0x40 x ∨ s.block.MayRun id 0x41 x) → copyLegal s.block x = true →
      u64 x.bytes 56 = 0 →
      Yields (if cOp x.bytes = 0x40 then .copy id else .fill id) s fun t =>
        t.Ended id .okEmpty [] ∧ s.block.OthersKept t id ∧ s.block.SameOutside t ∧ t.ctl = { s.block.ctl with hif := t.ctl.hif }) ∧
    ∀ (s : State) (id : Nat) (x : Cmd), (s.block.MayRun id 0x40 x ∨ s.block.MayRun id 0x41 x) →
      (s.block.ctl.glb.state = .resync ∨
        ((s.block.ctl.glb.state = .running ∨ s.block.ctl.glb.state = .draining ∨ s.block.ctl.glb.state = .degraded) ∧
          (u8 x.bytes 32 % 16 = 2 ∨ u8 x.bytes 32 / 16 = 2))) →
      Yields (if cOp x.bytes = 0x40 then .copy id else .fill id) s fun t =>
        t.Ended id .eState [] ∧ s.block.OthersKept t id ∧ s.block.SameOutside t ∧ t.ctl = { s.block.ctl with hif := t.ctl.hif })

/-- A command whose opcode and order allow it to start, but which the module state forbids, completes with E_STATE and no effect: one of
each of the commands that need READY or LOADED (R350, Table 11-11). -/
def Obligations.StateRefusals : Prop :=
  ∀ (s : State) (id : Nat) (x : Cmd) (i : Instr) (op : Nat), s.block.MayRun id op x →
    ((i = .loadPlan id ∧ op = 0x02 ∧ s.block.ctl.glb.state ≠ .ready) ∨ (i = .unloadPlan id ∧ op = 0x03 ∧ s.block.ctl.glb.state ≠ .loaded) ∨
     (i = .startJob id [] ∧ op = 0x04 ∧ s.block.ctl.glb.state ≠ .loaded) ∨
     (i = .setPower id ∧ op = 0x52 ∧ u8 x.bytes 32 = 2 ∧ s.block.ctl.glb.state ≠ .ready) ∨
     (i = .fwActivate id ∧ op = 0x61 ∧ s.block.ctl.glb.state ≠ .ready)) →
    Yields i s fun t => t.Ended id .eState [] ∧ s.block.OthersKept t id ∧ s.block.SameOutside t ∧ t.ctl = { s.block.ctl with hif := t.ctl.hif }

/-- LOAD_PLAN of an image that passes its signature check, the verifier and the placement: the plan is loaded with the image's digest, the
module LOADED, and the result is the digest's first 8 bytes (R98, R225, R469).  UNLOAD_PLAN takes the plan away again. -/
def Obligations.PlanLoadsAndUnloads : Prop :=
  (∀ (s : State) (id : Nat) (x : Cmd), s.block.MayRun id 0x02 x → s.block.ctl.glb.state = .ready → s.block.ctl.sec.level < 2 →
    let b := s.block.started id
    let img := b.host.read (u64 x.bytes 32) (u64 x.bytes 40)
    let p := parsePlan img b.ctl.jobP
    (b.fuses.owned = true → trailerOk b.fuses img = true) → b.verify img p = none →
    p.place.2.1 ≤ 2 * hbmDie → p.place.2.2 ≤ b.ddrRoom b.ctl.bound → p.place.1.tableNeed ≤ rangeCount p.place.1.tableRanges →
    (b.ctl.bound = true → p.place.1.pairFits = true) →
    Yields (.loadPlan id) s fun t =>
      t.Ended id .ok ((planDigest img).take 8) ∧ t.ctl.glb = { s.block.ctl.glb with state := .loaded } ∧
      t.ctl.plan = { p.place.1 with digest := planDigest img } ∧ t.host = s.block.host ∧ t.flash = s.block.flash ∧ t.sems = s.block.sems ∧
      t.arb = s.block.arb ∧ t.out = s.block.out ∧ t.fuses = s.block.fuses ∧ s.block.OthersKept t id) ∧
  (∀ (s : State) (id : Nat) (x : Cmd), s.block.MayRun id 0x02 x → s.block.ctl.glb.state = .ready → s.block.ctl.sec.level < 2 →
    s.block.fuses.owned = true → trailerOk s.block.fuses (s.block.host.read (u64 x.bytes 32) (u64 x.bytes 40)) = false →
    Yields (.loadPlan id) s fun t => t.Ended id .eAuth [] ∧ s.block.SameOutside t ∧ t.ctl = { s.block.ctl with hif := t.ctl.hif }) ∧
  (∀ (s : State) (id : Nat) (x : Cmd), s.block.MayRun id 0x03 x → s.block.ctl.glb.state = .loaded →
    Yields (.unloadPlan id) s fun t =>
      t.Ended id .ok [] ∧ t.ctl.glb = { s.block.ctl.glb with state := .ready } ∧ t.ctl.plan = Plan.blank ∧ s.block.SameOutside t ∧
      s.block.OthersKept t id)

/-- LINK_CONFIGURE with a valid configuration and no finding binds the fabric and completes OK with an empty report; an invalid rank table is
reported with cause 6 and binds nothing; a FABRIC of P 0 is released (R331, R332). -/
def Obligations.LinkConfiguration : Prop :=
  (∀ (s : State) (id : Nat) (x : Cmd), s.block.MayRun id 0x30 x → configureLegal s.block x = true →
    let b := s.block.started id
    let c := b.config x
    let f := cfgFabric c
    cfgLayoutOk c = true → cfgP c ≠ 0 → f.valid b.fuses.serial.toNat b.slot = true →
    s.block.ctl.job.inJob = false → s.block.ctl.bound = false → ((Act.all [bindFabric f, recheckLinks]).run b).findings = [] →
    Yields (.linkConfigure id) s fun t =>
      t.Ended id .ok (leBytes 0 2) ∧ t.ctl.links.fabric.ready = true ∧ t.ctl.links.fabric.fabric = f.fabric ∧ t.ctl.links.fabric.bundles = f.bundles ∧
      t.host = s.block.host.write (u64 c 24) (zeroBytes 64) ∧ t.mem = s.block.mem ∧ t.fuses = s.block.fuses) ∧
  (∀ (s : State) (id : Nat) (x : Cmd), s.block.MayRun id 0x30 x → configureLegal s.block x = true →
    let b := s.block.started id
    let c := b.config x
    cfgLayoutOk c = true → cfgP c ≠ 0 → (cfgFabric c).valid b.fuses.serial.toNat b.slot = false →
    Yields (.linkConfigure id) s fun t =>
      t.Ended id .eLink (leBytes 1 2) ∧ t.ctl.links = s.block.ctl.links ∧ t.out = s.block.out ∧ t.mem = s.block.mem ∧
      ∃ rep, t.host = s.block.host.write (u64 c 24) rep ∧ rep.length = 96 ∧ u16 rep 0 = 1 ∧ u8 rep 64 = 6 ∧ u8 rep 65 = 0xFF ∧ u16 rep 66 = 0xFFFF)

/-! ## Jobs and sequences -/

/-- START_JOB on a LOADED module whose bundles are up: the plan's and the host's semaphores are reset, the swap area and host regions are
those of the command; with every peer's buffer map in and no START pass, the module is RUNNING in the job and the command ends OK; with one,
the leader opens it (R287, R357, R364).  STOP_JOB on a leader alone in its job with no sequence open or being opened and no plan channel running: the module leaves the job and
is LOADED again, and the command ends OK (R366). -/
def Obligations.JobStartsAndStops : Prop :=
  (∀ (s : State) (id : Nat) (digest : Bytes) (x : Cmd), s.block.MayRun id 0x04 x → s.block.ctl.glb.state = .loaded → s.block.ctl.sec.level < 2 →
      s.block.ctl.jobP = s.block.ctl.plan.jobP → s.block.ctl.bound = false → s.block.ctl.shortBundle = none →
      (s.block.ctl.links.fabric.fabric ≠ 0 → s.block.ctl.links.fabric.ready = true) → s.block.ctl.mapsIn = true →
      Yields (.startJob id digest) s fun t =>
        t.ctl.job.swapAddr = u64 x.bytes 32 ∧ t.ctl.job.swapBytes = u64 x.bytes 40 ∧ t.ctl.job.regions = s.block.regionTable x.bytes ∧
        ((s.block.ctl.plan.passEntry 0).isNone = true → t.Ended id .ok [] ∧ t.ctl.glb.state = .running ∧ t.ctl.job.inJob = true) ∧
        ((s.block.ctl.plan.passEntry 0).isSome = true → t.Goes id ∧ t.ctl.glb.state = .loaded ∧
          (s.block.ctl.leader = true → ∃ p, t.ctl.job.pass = some p ∧ p.notice = startNotice s.block.ctl.rank)) ∧
        (∀ k, 16256 ≤ k → k < 16320 → t.sem k = 0) ∧ t.host = s.block.host ∧ t.flash = s.block.flash ∧ t.fuses = s.block.fuses) ∧
  (∀ (s : State) (id : Nat) (x : Cmd), s.block.MayRun id 0x05 x → s.block.ctl.leader = true → s.block.ctl.job.inJob = true →
      s.block.ctl.glb.state = .running → s.block.ctl.jobP = 1 → s.block.ctl.rank = 0 → s.block.ctl.bound = false → s.block.ctl.pair.rank2 = none →
      s.block.ctl.plan.loaded = true → s.block.ctl.job.pass = none → s.block.openSeqs = [] →
      s.block.ctl.openings = [] → s.block.ctl.chansQuiet = true →
      s.block.ctl.power.removal = none → s.block.ctl.hif.cmds = [x] → x.key < noKey → x.steps = 0 → u8 x.bytes 32 = 0 →
      Yields (.stopJob id) s fun t =>
        t.Ended id .ok [] ∧ t.ctl.glb.state = .loaded ∧ t.ctl.job.inJob = false ∧ t.ctl.job.pass = none ∧ t.ctl.plan = s.block.ctl.plan ∧
        t.mem = s.block.mem ∧ t.host = s.block.host ∧ t.sems = s.block.sems ∧ t.fuses = s.block.fuses)

/-- SEQ_OPEN on a rank that is alone in its job: the lowest free range, its tables, and the OPEN entry with the command's capacity, priority,
seed and the present time; the result is the range and the capacity (R155, R235). -/
def Obligations.SequenceOpens : Prop :=
  ∀ (s : State) (id a v : Nat) (x : Cmd), s.block.MayRun id 0x10 x → s.block.ctl.Alone → s.block.ctl.hif.cmds = [x] → x.key < noKey →
    seqLegal [seqClosed] s.block x = true →
    let b := s.block.started id
    let q := cSeq x.bytes
    let size := b.ctl.plan.openSpan x.bytes
    let cap := capPagesOf (u32 x.bytes 36)
    b.freeRange size = some v → b.tablesFit v size = true → v < 2 ^ 64 → cap < 2 ^ 32 →
    let built := (buildTables false v (v + size)).run b
    let entry : SeqEnt := { length := 0, committed := 0, vbase := v, capPages := cap, state := seqOpenSt, priority := u8 x.bytes 34,
                            openTime := s.block.lhTime, seed := u64 x.bytes 40, swapped := 0, pending := noToken }
    built.EntryAt q a →
    Yields (.seqOpen id) s fun t =>
      t.Ended id .ok (leBytes v 8 ++ leBytes cap 4) ∧ t.mem = built.mem.write a entry.bytes ∧
      t.host = s.block.host ∧ t.sems = s.block.sems ∧ t.arb = s.block.arb ∧ t.fuses = s.block.fuses ∧ t.out = s.block.out

/-- SEQ_APPEND and SEQ_STEP make their sequence ACTIVE, and the leader opens the pass that R357 gives the chosen command: its notice goes to
every other rank.  An append or step of no tokens completes with OK_EMPTY and no effect (R361). -/
def Obligations.StepsOpenPasses : Prop :=
  ((∀ (s : State) (id : Nat) (x y : Cmd), s.block.MayRun id 0x11 x → seqLegal [seqOpenSt] s.block x = true →
      let b := s.block.started id
      let q := cSeq x.bytes
      let took := (b.seq q).pending != noToken
      let total := u32 x.bytes 36 + if took then 1 else 0
      u32 x.bytes 36 ≠ 0 → (b.seq q).length + total ≤ 16 * (b.seq q).capPages →
      ((b.seq q).length < b.ctl.plan.prefixEnd b.ctl.jobP → (b.ctl.plan.passEntry 1).isSome = true) →
      (b.ctl.plan.prefixEnd b.ctl.jobP < (b.seq q).length + total → (b.ctl.plan.passEntry 2).isSome = true) →
      b.operandOk (u8 x.bytes 34) (u64 x.bytes 40) (4 * u32 x.bytes 36) = true →
      let b1 := (Act.all [updCmd id fun z => { z with tookPend := took }, setSeq q fun e => { e with state := seqActive }, announce q]).run b
      s.block.ctl.job.inJob = true → s.block.ctl.job.pass = none → b1.ctl.firstOf b1.candidates = some y → (b1.nextPass y).1 ≠ 3 →
      Yields (.seqAppend id) s fun t =>
        t.mem = b1.mem ∧ t.host = s.block.host ∧ t.sems = s.block.sems ∧ t.arb = s.block.arb ∧ t.Goes id ∧
        (∃ p, t.ctl.job.pass = some p ∧ p.cmd = some y.id ∧ p.started = false ∧
          p.notice = b1.noticeOf y (b1.nextPass y).1 (b1.seq (cSeq y.bytes)).length (b1.nextPass y).2 s.block.ctl.rank) ∧
        ∀ r < s.block.ctl.jobP, s.block.ctl.servesRank r = none →
          ∃ m ∈ t.out, m.dest = .rank r ∧
            m.msg = .passNotice (b1.noticeOf y (b1.nextPass y).1 (b1.seq (cSeq y.bytes)).length (b1.nextPass y).2 r)) ∧
    (∀ (s : State) (id : Nat) (x y : Cmd), s.block.MayRun id 0x12 x → seqLegal [seqOpenSt] s.block x = true →
      let b := s.block.started id
      let q := cSeq x.bytes
      u32 x.bytes 36 ≠ 0 → (b.ctl.plan.passEntry 3).isSome = true →
      b.operandOk (u8 x.bytes 34) (u64 x.bytes 40) (4 * u32 x.bytes 36) = true →
      let b1 := (Act.all [setSeq q fun e => { e with state := seqActive }, announce q]).run b
      let e := b1.seq (cSeq y.bytes)
      s.block.ctl.job.inJob = true → s.block.ctl.job.pass = none → b1.ctl.firstOf b1.candidates = some y → cOp y.bytes = 0x12 →
      (e.pending = noToken ∨ e.length < 16 * e.capPages) →
      Yields (.seqStep id) s fun t =>
        t.mem = b1.mem ∧ t.host = s.block.host ∧ t.sems = s.block.sems ∧ t.arb = s.block.arb ∧ t.Goes id ∧
        ∃ p, t.ctl.job.pass = some p ∧ p.cmd = some y.id ∧ p.started = false ∧ p.notice.kind = 3 ∧ p.notice.l0 = e.length ∧
          p.notice.e = e.length + (if e.pending = noToken then 0 else 1) ∧ p.notice.pending = e.pending ∧
          p.notice.tokens = if e.pending = noToken then [] else [e.pending])) ∧
  (∀ (s : State) (id : Nat) (x : Cmd) (step : Bool), s.block.MayRun id (if step then 0x12 else 0x11) x → seqLegal [seqOpenSt] s.block x = true →
      u32 x.bytes 36 = 0 →
      Yields (if step then .seqStep id else .seqAppend id) s fun t =>
        t.Ended id .okEmpty (seqResult (s.block.started id) x false) ∧ s.block.OthersKept t id ∧ s.block.SameOutside t ∧
        t.ctl = { s.block.ctl with hif := t.ctl.hif })

/-- SEQ_PREEMPT between passes of a rank alone: LENGTH falls back to COMMITTED, the entry reads PREEMPTED, SEQ_PREEMPTED is raised and Ebb
begins; SEQ_RESUME is queued behind Ebb; SEQ_CLOSE of a sequence without steps begins the invalidate of its range (R158, R176, R178, R182). -/
def Obligations.PreemptResumeClose : Prop :=
  (∀ (s : State) (id a : Nat) (x : Cmd), s.block.MayRun id 0x13 x → s.block.ctl.Alone → s.block.ctl.hif.cmds = [x] →
    seqLegal [seqOpenSt, seqActive] s.block x = true →
    let q := cSeq x.bytes
    let e := s.block.seq q
    s.block.EntryAt q a → (s.block.ctl.seqFw q).pre = .none → s.block.ctl.passOn q = false →
    Yields (.seqPreempt id) s fun t =>
      t.Goes id ∧ (t.ctl.seqFw q).pre = .ebbing ∧ t.mem = s.block.mem.write a (SeqEnt.bytes { e with length := e.committed, state := seqPreempted }) ∧
      t.arb.next = s.block.arb.next + 1 ∧ t.host = s.block.host ∧ t.sems = s.block.sems ∧ t.fuses = s.block.fuses ∧
      ∃ k ∈ t.ctl.fw.tasks, k.key = x.key ∧ k.opcode = 0x13 ∧ k.seq = q) ∧
  (∀ (s : State) (id : Nat) (x : Cmd), s.block.MayRun id 0x14 x → s.block.ctl.Alone → seqLegal [seqPreempted] s.block x = true →
    (s.block.ctl.seqFw (cSeq x.bytes)).resume = none →
    Yields (.seqResume id) s fun t =>
      t.Goes id ∧ (t.ctl.seqFw (cSeq x.bytes)).resume = some x.key ∧ s.block.SameOutside t ∧ s.block.OthersKept t id) ∧
  (∀ (s : State) (id : Nat) (x : Cmd), s.block.MayRun id 0x15 x → s.block.ctl.Alone → s.block.ctl.hif.cmds = [x] →
    seqLegal [seqOpenSt, seqActive, seqPreempted] s.block x = true → x.steps = 0 → s.block.ctl.job.pass = none →
    s.block.ctl.fw.moves = [] → s.block.ctl.fw.invals = [] →
    let q := cSeq x.bytes
    Yields (.seqClose id) s fun t =>
      t.Goes id ∧ (t.ctl.seqFw q).closing = true ∧ s.block.SameOutside t ∧
      t.ctl.fw.invals = [{ id := s.block.ctl.fw.nextId, lo := (s.block.seqRange q).1, hi := (s.block.seqRange q).2, more := [], what := .close q x.key [] }])

/-- SEQ_EDIT_PAGES on a rank alone: a well-formed list starts its invalidate, and the command waits for it; the rule of a single PIN joins the
sequence's rules; a list that breaks Table 05-7 completes with E_FORMAT and no effect (R166, R167). -/
def Obligations.EditsPages : Prop :=
  (∀ (s : State) (id : Nat) (x : Cmd), s.block.MayRun id 0x16 x → s.block.ctl.Alone → s.block.ctl.hif.cmds = [x] →
    seqLegal [seqOpenSt, seqActive] s.block x = true →
    let b := s.block.started id
    let q := cSeq x.bytes
    let l := b.host.read (u64 x.bytes 40) (u32 x.bytes 48)
    let e := editOf (b.seq q).capPages (editBytes l 0)
    b.editsOk q x.key l = true → editCount l = 1 → e.kind = 2 →
    Yields (.seqEditPages id) s fun t =>
      t.Goes id ∧ (t.ctl.seqFw q).rules = (s.block.ctl.seqFw q).rules ++
        [{ layer := e.layer, layers := e.layers, page := e.page, pages := e.pages, tier := none, pin := true }] ∧
      (∃ i ∈ t.ctl.fw.invals, i.what = .edit x.key) ∧ (∃ k ∈ t.ctl.fw.tasks, k.key = x.key ∧ k.opcode = 0x16) ∧
      t.host = s.block.host ∧ t.sems = s.block.sems ∧ t.arb = s.block.arb) ∧
  (∀ (s : State) (id : Nat) (x : Cmd), s.block.MayRun id 0x16 x → s.block.ctl.Alone → s.block.ctl.hif.cmds = [x] →
    seqLegal [seqOpenSt, seqActive] s.block x = true →
    let b := s.block.started id
    let l := b.host.read (u64 x.bytes 40) (u32 x.bytes 48)
    hasShare l = false → b.editsOk (cSeq x.bytes) x.key l = false → x.key < noKey →
    Yields (.seqEditPages id) s fun t => t.Ended id .eFormat [] ∧ s.block.SameOutside t ∧ t.ctl.fw.seqs = s.block.ctl.fw.seqs)

/-- On another rank than the leader: a fanned-out SEQ_RESUME is queued behind Ebb, one that has been done is reported again, and a SEQ_CLOSE of
a sequence that is closed here is reported done.  At the leader: a rank's report ends a command when it is the last, START_JOB's are noted; a
sequence command that waited for them too long ends with E_LINK (R166, R353, Table 11-13). -/
def Obligations.RanksDoTheirParts : Prop :=
  (∀ (s : State) (m : Fanout), s.block.ctl.awake = true → s.block.ctl.job.inJob = true → s.block.ctl.leader = false →
    s.block.ctl.pair.rank2 = none → s.block.ctl.pair.role = .unbound →
    (∀ j ∈ s.block.ctl.fw.journal, j.1 ≠ m.key) → (∀ k ∈ s.block.ctl.fw.tasks, k.key ≠ m.key) →
    (cOp m.cmd = 0x14 → (s.block.ctl.seqFw (cSeq m.cmd % 4096)).pre ≠ .none →
      Yields (.commandFanout m) s fun t => (t.ctl.seqFw (cSeq m.cmd % 4096)).resume = some m.key ∧ s.block.SameOutside t) ∧
    (cOp m.cmd = 0x15 → (s.block.seq (cSeq m.cmd % 4096)).state = seqClosed → (s.block.ctl.seqFw (cSeq m.cmd % 4096)).opening = none →
      Yields (.commandFanout m) s fun t =>
        t.out = { dest := .rank 0, msg := .rankFinished s.block.ctl.rank m.key 0 } :: s.block.out ∧ (m.key, 0) ∈ t.ctl.fw.journal ∧ t.mem = s.block.mem)) ∧
  (∀ (s : State) (m : Fanout) (st : Nat), s.block.ctl.awake = true → s.block.ctl.job.inJob = true → s.block.ctl.leader = false →
    s.block.ctl.pair.rank2 = none → m.key ≠ noKey → s.block.ctl.fw.journal = [(m.key, st)] →
    let key := if cOp m.cmd = 0x16 ∧ m.vbase = 1 then m.key + checkKey else m.key
    Runs (.commandFanout m) s { s.block with out := { dest := .rank 0, msg := .rankFinished s.block.ctl.rank key st } :: s.block.out }) ∧
  (∀ (s : State) (r : Nat), s.block.ctl.awake = true → r ∉ s.block.ctl.job.started →
    Runs (.rankFinished r 0 0) s { s.block with ctl := { s.block.ctl with job := { s.block.ctl.job with started := s.block.ctl.job.started ++ [r] } } }) ∧
  (∀ (s : State) (r key : Nat) (x : Cmd), s.block.ctl.awake = true → s.block.ctl.leader = true → key ≠ 0 → key < noKey → s.block.ctl.hif.cmds = [x] → x.key = key →
    x.phase = .running → cOp x.bytes = 0x15 → x.ranks = [r] → x.status = 0 →
    Yields (.rankFinished r key 0) s fun t => t.Ended x.id .ok [] ∧ s.block.SameOutside t) ∧
  (∀ (s : State) (r key k : Nat) (x : Cmd), s.block.ctl.awake = true → s.block.ctl.leader = true → key ≠ 0 → key < noKey → s.block.ctl.hif.cmds = [x] →
    x.key = key → x.phase = .running → x.ranks = [r, k] → r ≠ k → (cOp x.bytes = 0x16 → x.steps ≠ checkStep) →
    Yields (.rankFinished r key 0) s fun t => t.ctl.hif.cmds = [{ x with ranks := [k], status := worse x.status 0 }] ∧ s.block.SameOutside t) ∧
  (∀ (s : State) (r k : Nat) (x : Cmd), s.block.ctl.awake = true → s.block.ctl.leader = true → x.key < noKey → s.block.ctl.hif.cmds = [x] →
    x.phase = .running → x.ranks = [r, k] → r ≠ k → cOp x.bytes = 0x16 → x.steps = checkStep →
    Yields (.rankFinished r (x.key + checkKey) 0) s fun t =>
      t.ctl.hif.cmds = [{ x with ranks := [k], status := worse x.status 0 }] ∧ s.block.SameOutside t) ∧
  (∀ (s : State) (id : Nat) (x : Cmd), s.block.ctl.cmd id = some x → x.phase = .waiting → isSeqOp (cOp x.bytes) = true →
    s.block.ctl.leader = true → s.block.ctl.job.inJob = true → (∃ r < s.block.ctl.jobP, r ∉ s.block.ctl.job.started) →
    Yields (.jobStartTimeout id) s fun t => t.Ended id .eLink [] ∧ s.block.OthersKept t id ∧ s.block.SameOutside t)

/-! ## Passes and commits -/

/-- A rank whose engines are at rest takes up a notice: the pass is the one announced, every record of its pass-table entry joins the queues of
its coves, bound to the pass, and an on-chip pass block holds Table 03-24's words (R60, R359, Table 11-7).  A pass of a sequence that is
PREEMPTED or CLOSED here does not start (R157, R184). -/
def Obligations.PassesStart : Prop :=
  (∀ (s : State) (n : PassNotice) (second : Bool) (e : Bytes),
    s.block.ctl.servesRank n.rank = some second → s.block.ctl.awake = true → s.block.ctl.plan.loaded = true → s.block.ctl.job.inJob = true →
    s.block.ctl.contextQuiet second = true → s.block.ctl.plan.passEntry n.kind = some e → s.block.ctl.noticeFits second n = true →
    (n.kind = 0 ∨ (s.block.seq n.seq).state = seqOpenSt ∨ (s.block.seq n.seq).state = seqActive) →
    let p := s.block.ctl.plan
    let w := runWords p s.block.ctl.jobP n
    Yields (.passNotice n) s fun t =>
      t.ctl.job.pass = some ((s.block.ctl.job.pass.getD (Pass.heard { n with rank := s.block.ctl.rank })).start second n) ∧
      (∀ i r v, u32 e 4 ≤ i → i < u32 e 4 + u32 e 8 → p.ops[i]? = some r → v ∈ rCoves r →
        ({ op := i, record := bindRecord (p.seqEntry n.seq) n.seq w r, met := 0 } : QEntry) ∈ (t.ctl.cove v).q second) ∧
      (second = false → n.tokens = [] → lagoonBase ≤ p.passBlock → p.passBlock + 256 ≤ lagoonBase + lagoonSize → p.passBlock % 8192 ≤ 7936 →
        n.kind = 0 → t.mem.read p.passBlock 72 = passBlockHead n w 0 ∧ t.mem.read (p.passBlock + 76) 180 = zeroBytes 180) ∧
      (n.kind = 0 → t.sems = s.block.sems) ∧
      t.host = s.block.host ∧ t.flash = s.block.flash ∧ t.arb = s.block.arb ∧ t.fuses = s.block.fuses ∧ t.lhTime = s.block.lhTime ∧
      t.ctl.hif = s.block.ctl.hif ∧ t.ctl.plan = p) ∧
  ∀ (s : State) (n : PassNotice), n.kind ≠ 0 → (s.block.seq n.seq).state ≠ seqOpenSt → (s.block.seq n.seq).state ≠ seqActive →
    Runs (.passNotice n) s s.block

/-- Steps 3 and 4 of Table 13-6 without a partner: a rank's end of step goes to the leader as commit-ready; the leader notes each rank, and
with the last one may commit (R417, R422).  A rank other than the leader reports the end of its pass, clean when every used END is met, poisoned (and its plan work discarded) when one
is; the leader notes a rank's report while others are missing; a clean report of the leader ends the START pass on a rank (R103, R357, R360). -/
def Obligations.PassesEnd : Prop :=
  ((∀ (s : State) (p : Pass) (crc : Nat), s.block.ctl.awake = true → s.block.ctl.leader = false → s.block.ctl.mirrors = false →
      s.block.ctl.job.pass = some p → p.notice.kind ≠ 0 → p.reported = true →
      Runs (.commitReady s.block.ctl.rank crc) s (s.block.sending (.rank 0) (.commitReady s.block.ctl.rank))) ∧
    (∀ (s : State) (p : Pass) (r k crc : Nat), s.block.ctl.awake = true → s.block.ctl.leader = true → s.block.ctl.servesRank r = none →
      s.block.ctl.job.pass = some p → p.notice.kind ≠ 0 → r ∉ p.ready → k ∉ p.ready → k ≠ r → k < s.block.ctl.jobP →
      Runs (.commitReady r crc) s (s.block.withPass (some { p with ready := p.ready ++ [r] }))) ∧
    (∀ (s : State) (p : Pass) (r crc : Nat), s.block.ctl.awake = true → s.block.ctl.leader = true → s.block.ctl.servesRank r = none →
      s.block.ctl.mirrors = false → s.block.ctl.job.pass = some p → p.notice.kind ≠ 0 → r ∉ p.ready → p.noticed = false →
      (∀ k < s.block.ctl.jobP, k ≠ r → k ∈ p.ready) →
      Runs (.commitReady r crc) s (s.block.withPass (some { p with ready := p.ready ++ [r], noticed := true })))) ∧
  ((∀ (s : State) (p : Pass) (bad : Bool), s.block.ctl.awake = true → s.block.ctl.leader = false → s.block.ctl.pair.rank2 = none →
      s.block.ctl.mirrors = false → s.block.ctl.job.pass = some p → p.started = true → p.reported = false →
      s.block.passOutcome false p.notice.kind = some bad →
      let c := if bad then s.block.ctl.discardWork else s.block.ctl
      let flags : PassFlags := if bad then { p.flags with poisoned := true } else PassFlags.clean
      Runs .passEnd s
        (({ s.block with ctl := c }.withPass (some { p with reported := true })).sending (.rank 0) (.passReport p.notice.rank flags))) ∧
    (∀ (s : State) (p : Pass) (r k : Nat) (f : PassFlags), s.block.ctl.awake = true → s.block.ctl.leader = true → s.block.ctl.job.pass = some p →
      (∀ x ∈ p.reports, x.rank ≠ r ∧ x.rank ≠ k) → k ≠ r → k < s.block.ctl.jobP →
      Runs (.passReport r f) s (s.block.withPass (some { p with reports := p.reports ++ [{ rank := r, flags := f }] }))) ∧
    (∀ (s : State) (p : Pass) (st : Starting) (f : PassFlags) (x : Cmd), s.block.ctl.awake = true → s.block.ctl.leader = false →
      s.block.ctl.pair.role = .unbound → s.block.ctl.job.pass = some p → p.notice.kind = 0 → f.poisoned = false → s.block.ctl.job.starting = some st →
      s.block.ctl.cmd st.cmd = some x →
      Yields (.passReport 0 f) s fun t =>
        t.Ended st.cmd .ok [] ∧ t.ctl.job.inJob = true ∧ t.ctl.job.starting = none ∧ t.ctl.job.pass = none ∧ t.ctl.glb.state = .running ∧
        t.out = { dest := .rank 0, msg := .rankFinished s.block.ctl.rank 0 0 } :: s.block.out ∧ t.mem = s.block.mem ∧ t.host = s.block.host ∧
        t.sems = s.block.sems))

/-- COMMIT at a leader alone ends a SEQ_STEP with its last step, or at the stop token: LENGTH and COMMITTED are E, the token is pending and
stands at OUT_ADDR + 4i in host memory, and the command ends OK, or OK_SHORT at the stop token.  On another rank the leader's message sets the
table entry and ends the pass (R365, R416, R488). -/
def Obligations.CommitsTakeEffect : Prop :=
  (∀ (s : State) (a : Nat) (p : Pass) (x : Cmd), s.block.ctl.awake = true → s.block.ctl.Alone → s.block.ctl.NoHooks →
    s.block.ctl.job.pass = some p → p.noticed = true → p.notice.kind = 3 → p.notice.e < 2 ^ 31 → s.block.ctl.hif.cmds = [x] → p.cmd = some x.id →
    cOp x.bytes = 0x12 → cSeq x.bytes = p.notice.seq → x.phase = .running → x.stopping = false → u8 x.bytes 34 = 0 →
    (s.block.ctl.seqFw p.notice.seq).deferred = [] → (s.block.ctl.seqFw p.notice.seq).pre = .none → s.block.EntryAt p.notice.seq a →
    let token := s.block.tokenOut
    let stop := bit (u8 x.bytes 35) 0 && token == u32 x.bytes 48
    let e := s.block.seq p.notice.seq
    (x.steps + 1 = u32 x.bytes 36 ∨ stop = true) → e.state = seqActive →
    Yields (.commit none) s fun t =>
      t.mem.read a 64 = SeqEnt.bytes { e with length := p.notice.e, committed := p.notice.e, pending := token, state := seqOpenSt } ∧
      s.block.MemOutside t a 64 ∧ t.host = s.block.host.write (u64 x.bytes 40 + 4 * x.steps) (leBytes token 4) ∧
      t.Ended x.id (if stop then .okShort else .ok) (leBytes p.notice.e 8 ++ leBytes (x.steps + 1) 4 ++ leBytes (if stop then 1 else 0) 1) ∧
      t.ctl.job.pass = none ∧ t.sems = s.block.sems ∧ t.arb = s.block.arb ∧ t.fuses = s.block.fuses ∧ t.out = s.block.out) ∧
  (∀ (s : State) (a : Nat) (m : CommitMsg), s.block.ctl.awake = true → s.block.ctl.job.inJob = true → s.block.ctl.leader = false →
    s.block.ctl.NoHooks → m.seq < 4096 → s.block.EntryAt m.seq a → (s.block.seq m.seq).state ≠ seqClosed →
    (s.block.ctl.seqFw m.seq).opening = none → (s.block.ctl.seqFw m.seq).pre ≠ .flooded →
    let entry : SeqEnt := { s.block.seq m.seq with length := m.length, committed := m.e, pending := m.pending, state := m.state }
    (∀ p, s.block.ctl.job.pass = some p → p.notice.kind ≠ 0 → p.notice.seq = m.seq → p.reported = true →
      Yields (.commit (some m)) s fun t =>
        t.mem = s.block.mem.write a entry.bytes ∧ t.ctl.job.pass = none ∧ t.host = s.block.host ∧ t.sems = s.block.sems ∧ t.out = s.block.out ∧
        t.ctl.engine = s.block.ctl.engine) ∧
    (s.block.ctl.passOn m.seq = false → Runs (.commit (some m)) s (s.block.wrote a entry.bytes)))

/-! ## The Breakwater pair -/

/-- What a bound member keeps for its partner: records in their mirror frame, context bytes, commands and completions of its ring, journal
entries, the commit notice; a state record replaces what was kept and is answered with the CRC of the lines last written (R351, R414, R417). -/
def Obligations.MirrorIsKept : Prop :=
  ∀ s : State, s.block.ctl.awake = true → s.block.ctl.pair.role = .bound →
    let p := s.block.ctl.pair
    (∀ q l n slot bytes f, p.frames.find? (fun m => m.2 == pageKey q l n) = some f →
      Runs (.mirrorWrite (.record q l n slot bytes)) s
        ((s.block.wrote (f.1 * 8192 + 512 * slot) bytes).withPair
          { p with lineRec := f.1 * 8192 + 512 * slot + bytes.length - 64 })) ∧
    (∀ off bytes, Runs (.mirrorWrite (.context off bytes)) s
      ((s.block.wrote (s.block.contextBase + off) bytes).withPair
        { p with lineCtx := s.block.contextBase + off + bytes.length - 64 })) ∧
    (∀ i bytes, Runs (.mirrorWrite (.command i bytes)) s
      (s.block.withPair { p with ring := { p.ring with cmds := p.ring.cmds ++ [(i, bytes)], sqHead := (i + 1) % 2 ^ 32 } })) ∧
    (∀ i c bytes, Yields (.mirrorWrite (.completion i c bytes)) s fun t =>
      t.ctl.pair.ring.cqCount = (i + 1) % 2 ^ 32 ∧ (i, bytes) ∈ t.ctl.pair.ring.entries ∧ (∀ y ∈ t.ctl.pair.ring.cmds, y.1 ≠ c) ∧
      t = s.block.withPair { p with ring := t.ctl.pair.ring }) ∧
    (∀ key r, Runs (.mirrorWrite (.journal key r)) s (s.block.withPair { p with journal := p.journal ++ [(key, r)] })) ∧
    (∀ n, Runs (.commitNotice n) s (s.block.withPair { p with notice := some n })) ∧
    (∀ r : StateRec, r.hand = 0 →
      let crc := lineCrc (lastStateLine r.seqs) (s.block.lineAt p.lineCtx) (s.block.lineAt p.lineRec)
      Yields (.stateRecord r) s fun t =>
        t.ctl.pair.seqs = r.seqs ∧ t.ctl.pair.progress = r.progress ∧ t.ctl.pair.notice = none ∧ t.ctl.pair.swapAddr = r.swapAddr ∧
        t.ctl.pair.swapBytes = r.swapBytes ∧ t.ctl.pair.regions = r.regions ∧ t.ctl.pair.sems = r.sems ∧ t.ctl.pair.ring.sqHead = r.sqHead ∧
        t.ctl.pair.ring.cqCount = r.cqCount ∧ t.ctl.pair.takeCause = p.takeCause ∧
        t = (s.block.withPair t.ctl.pair).sending .partner (.mirrorAck crc))

/-- PAIR_BIND of ROLE 0 binds the pair on a module whose plan keeps clear of the mirror region, of ROLE 2 makes it a replacement in RESYNC;
PAIR_HANDBACK of a finished resynchronisation waits for the next commit; the copy's acknowledgement raises RESYNC_DONE (R412, R413, R423). -/
def Obligations.PairBindings : Prop :=
  (∀ (s : State) (id : Nat) (x : Cmd), s.block.MayRun id 0x31 x → bindLegal s.block x = true → u8 x.bytes 33 = 0 → s.block.bindFits = true →
    Yields (.pairBind id) s fun t =>
      t.Ended id .ok [] ∧ t.ctl.pair.role = .bound ∧ t.ctl.pair.partner = u8 x.bytes 32 ∧
      t.ctl.pair.partnerSerial = s.block.serialAt (u8 x.bytes 32) ∧ t.ctl.pair.armed = false ∧ t.ctl.pair.ring = bindRing x.bytes ∧
      t.ctl.pair.heardP = s.block.lhTime ∧ t.ctl.health.wanted = true ∧ t.ctl.glb = s.block.ctl.glb ∧ s.block.SameOutside t ∧
      s.block.OthersKept t id) ∧
  (∀ (s : State) (id : Nat) (x : Cmd), s.block.MayRun id 0x31 x → bindLegal s.block x = true → u8 x.bytes 33 = 2 → s.block.bindFits = true →
    Yields (.pairBind id) s fun t =>
      t.Ended id .ok [] ∧ t.ctl.pair.role = .replacement false ∧ t.ctl.glb.state = .resync ∧ (t.ctl.ring 0).on = true ∧ s.block.SameOutside t) ∧
  (∀ (s : State) (id : Nat) (x : Cmd), s.block.MayRun id 0x31 x → bindLegal s.block x = true → u8 x.bytes 33 ≠ 1 → s.block.bindFits = false →
    Yields (.pairBind id) s fun t => t.Ended id .eCapacity [] ∧ t.ctl.pair = s.block.ctl.pair ∧ s.block.SameOutside t) ∧
  (∀ (s : State) (id : Nat) (x : Cmd), s.block.MayRun id 0x32 x → s.block.ctl.glb.state = .degraded → s.block.ctl.pair.role = .resyncing true →
    s.block.ctl.job.pass ≠ none → u8 x.bytes 32 = s.block.ctl.pair.partner →
    Yields (.pairHandback id) s fun t =>
      t.Goes id ∧ t.ctl.pair = { s.block.ctl.pair with handback := some id } ∧ s.block.SameOutside t ∧ s.block.OthersKept t id) ∧
  (∀ (s : State) (gib : Nat), s.block.ctl.awake = true → s.block.ctl.pair.role = .replacement false →
    Yields (.resyncCopyDone gib) s fun t =>
      t.ctl.pair = { s.block.ctl.pair with role := .replacement true, gib := gib } ∧ t.arb.next = s.block.arb.next + 1 ∧
      (s.block.arb.q0.count < eventRoom → ∃ r ∈ t.arb.q0.held, r.code = 0x0302 ∧ r.seqno = s.block.arb.next ∧
        r.detail = s.block.fuses.serial.toNat % 2 ^ 32 * 2 ^ 32 + gib % 2 ^ 32) ∧
      t.mem = s.block.mem ∧ t.host = s.block.host ∧ t.sems = s.block.sems ∧ t.out = s.block.out ∧ t.fuses = s.block.fuses)

/-- Heartbeats: a bound member sends one to its partner; one that arrives restarts the silence timer, and outside a job arms the pair; after
100 µs without one of either kind the member fences, after 200 µs without the partner while a relay is heard an armed pair decides a
takeover, as a declared fault does at once (R418, R426).  TAKEOVER outside a job: the survivor raises TAKEOVER_BEGIN and TAKEOVER_DONE, serves the partner's ring as its ring 64 with the commands taken
there, and stays in its state.  ABANDON_NOTICE on a rank other than the leader moves the failed rank and drops uncommitted
work; a plan channel that runs is asked to stop at its next descriptor boundary (R214, R273, R352). -/
def Obligations.HeartbeatsAndTakeovers : Prop :=
  ((∀ s : State, s.block.ctl.awake = true → s.block.ctl.linksAlive = true → s.block.ctl.pair.role = .bound →
      Yields .heartbeatSend s fun t =>
        { dest := .partner, msg := .beat none } ∈ t.out ∧
        (∀ k < 8, k / 2 ≠ s.block.slot / 2 → s.block.upTo k = true → ({ dest := .slot k, msg := .beat (some s.block.slot) } : Sent) ∈ t.out) ∧
        t = { s.block with out := t.out }) ∧
    (∀ (s : State) (old : Fin 8), s.block.ctl.awake = true → s.block.ctl.pair.role = .bound → s.block.ctl.job.inJob = false → ∀ f : BeatFrom,
      (f = .relay old → Runs (.heartbeat f) s (s.block.withPair { s.block.ctl.pair with heardR := s.block.lhTime, relay := some old.val })) ∧
      ((∃ x, f = .partner x) → Runs (.heartbeat f) s (s.block.withPair { s.block.ctl.pair with heardP := s.block.lhTime, armed := true }))) ∧
    (∀ s : State, s.block.ctl.awake = true → s.block.ctl.pair.role = .bound → s.block.ctl.pair.heardP + 100000 ≤ s.block.lhTime →
      s.block.ctl.pair.heardR + 100000 ≤ s.block.lhTime →
      Yields .isolationTimeout s fun t =>
        t.ctl.glb.state = .boot ∧ t.ctl.job.inJob = false ∧ t.ctl.plan.loaded = false ∧ t.arb = Arbiter.reset ∧ t.lhTime = s.block.lhTime ∧
        t.host = s.block.host ∧ t.fuses = s.block.fuses ∧ t.out = s.block.out) ∧
    (∀ s : State, s.block.ctl.awake = true → s.block.ctl.pair.role = .bound → s.block.ctl.pairArmed = true → s.block.relayHeard = true →
      (s.block.ctl.pair.heardP + 200000 ≤ s.block.lhTime →
        Runs .partnerTimeout s (s.block.withPair { s.block.ctl.pair with takeCause := some 1 })) ∧
      Runs (.faultNotice none) s (s.block.withPair { s.block.ctl.pair with takeCause := some 2 }))) ∧
  ((∀ (s : State) (cause : Nat), s.block.ctl.awake = true → s.block.ctl.pair.role = .bound → s.block.ctl.pair.takeCause = some cause →
      s.block.ctl.pairArmed = true → s.block.ctl.job.inJob = false → s.block.ctl.pair.rank2 = none →
      Yields .takeover s fun t =>
        t.ctl.pair.role = .survivor ∧ t.ctl.pair.takeCause = none ∧ t.ctl.pair.failedSerial = s.block.ctl.pair.partnerSerial ∧
        t.ctl.glb = s.block.ctl.glb ∧ (t.ctl.ring partnerRing).sqHead = s.block.ctl.pair.ring.sqHead ∧
        (t.ctl.ring partnerRing).cqCount = s.block.ctl.pair.ring.cqCount ∧
        (∀ i b, (i, b) ∈ s.block.ctl.pair.ring.cmds → ∃ y ∈ t.ctl.hif.cmds, y.ring = partnerRing ∧ y.index = i) ∧
        (∀ y ∈ s.block.ctl.hif.cmds, y ∈ t.ctl.hif.cmds) ∧ t.arb.next = s.block.arb.next + 2 ∧ t.mem = s.block.mem ∧ t.sems = s.block.sems ∧
        t.fuses = s.block.fuses) ∧
    (∀ (s : State) (m : AbandonMsg), s.block.ctl.awake = true → s.block.ctl.job.inJob = true → m.failedRank < s.block.ctl.jobP →
      s.block.ctl.leader = false → m.replay = true → s.block.openSeqs = [] →
      Yields (.abandonNotice m) s fun t =>
        (∀ e, s.block.ctl.links.fabric.ranks[m.failedRank]? = some e →
          t.ctl.links.fabric.ranks[m.failedRank]? = some { e with serial := m.partnerSerial, slot := m.partnerSlot }) ∧
        (∀ k, k ≠ m.failedRank → t.ctl.links.fabric.ranks[k]? = s.block.ctl.links.fabric.ranks[k]?) ∧
        t.ctl.job.pass = none ∧ (∀ f ∈ t.ctl.fw.faults, (∃ e ch, f.who = .channel e ch) ∨ ∃ k, f.who = .remote k) ∧
        (∀ v, (t.ctl.cove v).queue = [] ∧ ∀ x ∈ (t.ctl.cove v).ctxs, rOp x.2.record = opXfer ∧ x.2.begun = true) ∧
        (∀ e ch, ch < 32 → fwChannel e ch = false → (s.block.ctl.chan e ch).state ≠ .idle → (t.ctl.chan e ch).stop = true) ∧ s.block.SameOutside t))

/-! ## Pages -/

/-- FAULT_RESOLVE: an agent whose address translates by now goes on, and another rank's load that waited here is answered; a page that its
holder finds absent gets a frame of its tier; an entry that breaks R233 is a module fault, which fences and resets the module (R163, R173, R234,
R269, R405). -/
def Obligations.FaultsResolve : Prop :=
  ∀ (s : State) (f : XFault), s.block.ctl.awake = true → s.block.ctl.fw.faults.find? (fun g => g.id == f.id) = some f → s.block.ctl.halted f = true →
    f.line = none →
    let x := s.block.xlate (s.block.ctl.faultSpace f) f.vaddr f.write
    ((∃ k a, x = .ok k a) → s.block.pageBusy f.vaddr f.write = false → (∀ id, f.who ≠ .remote id) →
      Yields (.faultResolve f.id) s fun t =>
        t.ctl.fw.faults = s.block.ctl.fw.faults.filter (fun g => g.id != f.id) ∧ s.block.SameOutside t ∧
        (∀ v n, f.who = .context v n → ∀ c, (s.block.ctl.cove v).ctx n = some c → n < 4 → (t.ctl.cove v).ctx n = some { c with fault := none }) ∧
        (∀ v n, f.who = .thread v n → n < 4 → ((t.ctl.cove v).thread n).state = .running) ∧
        (∀ e c, f.who = .channel e c → (t.ctl.chan e c).state = .run ∧ (t.ctl.chan e c).fault = none)) ∧
    (∀ id toRank source va len second, (∃ k a, x = .ok k a) → s.block.pageBusy f.vaddr f.write = false → f.who = .remote id →
      s.block.ctl.fw.remote.find? (fun r => r.1 == id) = some (id, .rankLoad toRank source va len) → s.block.ctl.servesRank toRank = some second →
      let sp : Space := { second := second, cove := none, tlb := [] }
      s.block.firstBad sp [{ va := va, len := len, write := false }] = none →
      Runs (.faultResolve f.id) s
        ((s.block.withFw { s.block.ctl.fw with faults := s.block.ctl.fw.faults.filter (fun g => g.id != f.id),
                                               remote := s.block.ctl.fw.remote.filter (fun r => r.1 != id) }).sending
          (.rank source) (.response (s.block.readVa sp va len)))) ∧
    (∀ q l n tier g, x = .absent → (∀ id, f.who ≠ .remote id) → s.block.pageOf f.vaddr = some (q, l, n) → s.block.ctl.Alone → f.second = false →
      s.block.ctl.holder l n = 0 → s.block.pageEntry false ((s.block.seq q).pageAddr l n) = absentEntry →
      s.block.ctl.pickFrame ((s.block.ctl.seqFw q).tierOf l n) = some (tier, g) →
      Yields (.faultResolve f.id) s fun t =>
        Tab.get 0 t.ctl.fw.alloc.refs g = Tab.get 0 s.block.ctl.fw.alloc.refs g + 1 ∧
        Tab.get 0 t.ctl.fw.alloc.owner g = pageKey q l n + 1 ∧
        t.ctl.fw.faults = s.block.ctl.fw.faults.filter (fun g => g.id != f.id) ∧ t.host = s.block.host ∧ t.sems = s.block.sems ∧
        t.flash = s.block.flash ∧ t.fuses = s.block.fuses ∧ t.out = s.block.out) ∧
    (x = .deviceFault → Yields (.faultResolve f.id) s fun t =>
      t.ctl.glb.state = .boot ∧ t.ctl.glb.step = 3 ∧ t.ctl.job.inJob = false ∧ t.arb = Arbiter.reset ∧ t.host = s.block.host ∧
      t.fuses = s.block.fuses)

/-- On a rank that another leads: a pre-emption takes effect between passes and LENGTH is COMMITTED; Ebb copies the one unpinned page into
the lowest free swap slot and waits for the invalidate of the range; Flood takes a frame for the one swapped page, or asks the leader for a
victim where no frame is left, and ends its part of SEQ_RESUME with E_CAPACITY when the leader answers that there is none (R176, R178, R181
to R183; the messages are the model's, log 28).  A page move between its invalidates copies the page, whoever shares it, and starts the second invalidate, of the page in every sequence that
shares it; a complete invalidate drops every translation of its ranges and lets what waited go on: the next step of a move, the frames of an
Ebb, a rank's part of a Flood (R166, R169, R181, R182, R238). -/
def Obligations.PreemptionAndMoves : Prop :=
  (∀ (s : State) (q : Fin 4096), s.block.ctl.awake = true → s.block.ctl.leader = false → s.block.ctl.pair.role = .unbound →
      s.block.ctl.pair.rank2 = none →
      (∀ (a : Nat) (cause : Fin 3), s.block.ctl.job.inJob = true → (s.block.ctl.seqFw q).pre = .none → (s.block.seq q).state ≠ seqClosed →
        s.block.ctl.passOn q = false → s.block.ctl.checking q = false → s.block.EntryAt q a →
        Yields (.preemptEffect q cause) s fun t =>
          t.mem = s.block.mem.write a (SeqEnt.bytes { s.block.seq q with length := (s.block.seq q).committed, state := seqPreempted }) ∧
          (t.ctl.seqFw q).pre = .ebbing ∧
          s.block.Raised t 0x0400 (src 10 q) ((s.block.unpinned q).length % 2 ^ 32 * 65536 + cause.val * 4096 + q.val) ∧
          t.host = s.block.host ∧ t.sems = s.block.sems ∧ t.out = s.block.out ∧ t.fuses = s.block.fuses) ∧
      (∀ x slot f, (s.block.ctl.seqFw q).pre = .ebbing → (s.block.ctl.seqFw q).back = [] → s.block.ctl.fw.invals = [] → s.block.unpinned q = [x] →
        s.block.ctl.slotsFree 1 = [slot] → s.block.frameOf x.entry = some f →
        Yields (.ebb q) s fun t =>
          t.host = s.block.host.write (s.block.ctl.job.swapAddr + 8192 * slot) (s.block.read (entFrame x.entry) 8192) ∧
          t.ctl.fw.alloc.swap = slot :: s.block.ctl.fw.alloc.swap ∧
          t.ctl.fw.invals = [{ id := s.block.ctl.fw.nextId, lo := (s.block.seqRange q).1, hi := (s.block.seqRange q).2, more := [],
                               what := .ebb q [f] }] ∧
          t.sems = s.block.sems ∧ t.arb = s.block.arb ∧ t.fuses = s.block.fuses) ∧
      (∀ key x tier f, (s.block.ctl.seqFw q).pre = .swapped → s.block.ctl.fw.invals = [] → (s.block.ctl.seqFw q).resume = some key →
        s.block.swappedPages q = [x] → s.block.ctl.pickFrame ((s.block.ctl.seqFw q).tierOf x.layer x.page) = some (tier, f) →
        Yields (.flood q) s fun t =>
          Tab.get 0 t.ctl.fw.alloc.refs f = Tab.get 0 s.block.ctl.fw.alloc.refs f + 1 ∧
          (t.ctl.seqFw q).back = (s.block.ctl.seqFw q).back ++ [{ second := x.second, layer := x.layer, page := x.page, slot := entFrame x.entry / 8192 }] ∧
          t.ctl.fw.invals = [{ id := s.block.ctl.fw.nextId, lo := (s.block.seqRange q).1, hi := (s.block.seqRange q).2, more := [],
                               what := .flood q }] ∧
          t.host = s.block.host ∧ t.sems = s.block.sems ∧ t.fuses = s.block.fuses) ∧
      (∀ key, (s.block.ctl.seqFw q).pre = .swapped → s.block.ctl.fw.invals = [] → (s.block.ctl.seqFw q).resume = some key →
        assignFrames q s.block.ctl (s.block.swappedPages q) = none → s.block.ctl.preempting = false →
        Runs (.flood q) s (s.block.sending (.rank 0) (.victim s.block.ctl.rank q .flood)) ∧
        (s.block.ctl.job.inJob = true → Yields (.victimRequest 0 ⟨q, .noFlood⟩) s fun t =>
          t.out = { dest := .rank 0, msg := .rankFinished s.block.ctl.rank key 0x16 } :: s.block.out ∧ (t.ctl.seqFw q).resume = none ∧
          (t.ctl.seqFw q).pre = .swapped ∧ t.mem = s.block.mem ∧ t.host = s.block.host))) ∧
  ((∀ (s : State) (m : PageMv), s.block.ctl.awake = true → s.block.ctl.fw.moves.find? (fun k => k.id == m.id && k.step == 2) = some m →
      let va := (s.block.seq m.seq).pageAddr m.layer m.page
      let qs := s.block.sharers m.layer m.page m.old
      Yields (.pageMove m.id) s fun t =>
        (qs = [] → t.mem = s.block.mem.write (m.new * 8192) (s.block.read (m.old * 8192) 8192)) ∧
        (∀ k ∈ t.ctl.fw.moves, k.id = m.id → k.step = 3) ∧
        t.ctl.fw.invals = s.block.ctl.fw.invals ++ [{ id := s.block.ctl.fw.nextId, lo := va, hi := va + 8192,
                                                      more := s.block.pageRanges m.layer m.page qs, what := .move m.id }] ∧
        (qs ≠ [] → m.new ≠ m.old → Tab.get 0 s.block.ctl.fw.alloc.refs m.new ≠ 0 →
          Tab.get 0 t.ctl.fw.alloc.owner m.new = pageKey m.seq m.layer m.page + 1 ∧
          Tab.get 0 t.ctl.fw.alloc.refs m.new = Tab.get 0 s.block.ctl.fw.alloc.refs m.new + qs.length - 1 ∧
          Tab.get 0 t.ctl.fw.alloc.refs m.old = Tab.get 0 s.block.ctl.fw.alloc.refs m.old + 1 - qs.length) ∧ t.host = s.block.host ∧ t.sems = s.block.sems ∧
        t.arb = s.block.arb ∧ t.fuses = s.block.fuses) ∧
    (∀ (s : State) (i : Inval), s.block.ctl.awake = true → s.block.ctl.leader = false → s.block.ctl.fw.invals.find? (fun k => k.id == i.id) = some i →
      (i.what = .nothing → Yields (.invalidateComplete i.id) s fun t =>
        (∀ v, ∀ e ∈ (t.ctl.cove v).tlb, ∀ r ∈ (i.lo, i.hi) :: i.more, ¬(e.base < r.2 ∧ r.1 < e.base + e.size)) ∧
        t.ctl.fw = { s.block.ctl.fw with invals := s.block.ctl.fw.invals.filter fun k => k.id != i.id } ∧ s.block.SameOutside t) ∧
      (∀ m k, i.what = .move m → s.block.ctl.fw.moves.find? (fun k => k.id == m) = some k → k.step = 1 →
        Yields (.invalidateComplete i.id) s fun t =>
          (∀ k ∈ t.ctl.fw.moves, k.id = m → k.step = 2) ∧ t.ctl.fw.invals = s.block.ctl.fw.invals.filter (fun k => k.id != i.id) ∧
          s.block.SameOutside t) ∧
      (∀ q fs, i.what = .ebb q fs → Yields (.invalidateComplete i.id) s fun t =>
        (t.ctl.seqFw q).pre = .swapped ∧ (∀ f ∈ fs, fs.count f = 1 → Tab.get 0 s.block.ctl.fw.alloc.refs f = 1 → f ∉ t.ctl.fw.alloc.used) ∧
        t.host = s.block.host ∧ t.sems = s.block.sems ∧ t.fuses = s.block.fuses) ∧
      (∀ q key, i.what = .flood q → (s.block.ctl.seqFw q).resume = some key → s.block.ctl.pair.rank2 = none → s.block.ctl.pair.role = .unbound →
        Yields (.invalidateComplete i.id) s fun t =>
          (t.ctl.seqFw q).pre = .flooded ∧ (t.ctl.seqFw q).back = (s.block.ctl.seqFw q).back ∧ t.ctl.fw.alloc = s.block.ctl.fw.alloc ∧
          ({ s.block with out := t.out }).SameOutside t ∧
          t.out = { dest := .rank 0, msg := .rankFinished s.block.ctl.rank key 0 } :: s.block.out)))

/-- Board peers: an entry is mapped in the page's own leaf table; an entry request for a writable page is answered with its entry; the
leader chooses a victim for a rank, at the step boundary when a pass of it runs, or answers that none qualifies; a buffer map is kept (R160,
R176, R177, R183, R231; the messages are the model's, log 28).  A board peer's accesses are local ones: a load is answered with the bytes, a store lands, a signal reaches the semaphore of the rank that
runs here, and an address without backing gets no answer; a KIND 1 load of a rank goes through this module's translation and waits where that
does not translate; BAR2 does the same for the host, with all ones and a count where nothing backs the address (R216, R217, R247, R269). -/
def Obligations.PeersAndWindows : Prop :=
  ((∀ (s : State) (m : PageEntryMsg) (leaf l3 : Nat), s.block.ctl.awake = true → s.block.ctl.pair.rank2 = none →
      (s.block.seq m.seq).state ≠ seqClosed → m.page < (s.block.seq m.seq).capPages → m.entry ≠ 0 →
      let va := (s.block.seq m.seq).pageAddr m.layer m.page
      leafTable s.block.mem va [43, 33, 23] (s.block.root false) = some leaf → leafTable s.block.mem va [43, 33] (s.block.root false) = some l3 →
      s.block.ctl.fw.alloc.absent ≠ some (leaf / 8192) →
      Yields (.pageEntry m) s fun t =>
        (∀ v, ∀ e ∈ (t.ctl.cove v).tlb, ¬(e.base < va + 8192 ∧ va < e.base + e.size)) ∧ t.ctl.fw = s.block.ctl.fw ∧
        (s.block.wrote (entryAddr leaf va 13) (leBytes m.entry.toNat 8)).SameOutside t) ∧
    (∀ (s : State) (slot : Fin 8) (va q l n f : Nat), s.block.ctl.awake = true → s.block.pageOf va = some (q, l, n) →
      s.block.ctl.servesRank (s.block.ctl.holder l n) = some false →
      let e := s.block.pageEntry false ((s.block.seq q).pageAddr l n)
      s.block.frameOf e = some f → entReadonly e = false →
      Runs (.entryRequest slot va) s
        ((s.block.withFw { s.block.ctl.fw with wanting := s.block.ctl.fw.wanting.filter fun w => w != (slot.val, va) }).sending (.slot slot.val) (.pageEntry { seq := q, layer := l, page := n, entry := BitVec.ofNat 64 e }))) ∧
    (∀ (s : State) (r q v : Nat), s.block.ctl.awake = true → s.block.ctl.leader = true → s.block.ctl.job.inJob = true →
      s.block.ctl.preempting = false →
      (∀ why cause below, (why = .pool ∧ cause = 0 ∧ below = none) ∨ (why = .flood ∧ cause = 2 ∧ below = some (s.block.seq q).priority) →
        (s.block.victim q below = some v → s.block.ctl.passOn v = true →
          Yields (.victimRequest r ⟨q, why⟩) s fun t =>
            (t.ctl.seqFw v).pre = .pending cause ∧ (∀ k < s.block.ctl.jobP, s.block.ctl.servesRank k = none →
              ({ dest := .rank k, msg := .preempt v cause } : Sent) ∈ t.out) ∧ { s.block with out := t.out }.SameOutside t) ∧
        (s.block.victim q below = none →
          Runs (.victimRequest r ⟨q, why⟩) s (s.block.sending (.rank r) (.victim r q (if why = .flood then .noFlood else .noPool)))))) ∧
    (∀ (s : State) (m : BufferMapMsg), s.block.ctl.awake = true → s.block.ctl.plan.loaded = true → s.block.ctl.job.starting = none →
      Yields (.bufferMap m) s fun t =>
        t.ctl = { s.block.ctl with
          job := { s.block.ctl.job with maps := s.block.ctl.job.maps.filter (fun k => k.rank != m.rank) ++ [m] },
          fw := { s.block.ctl.fw with alloc := { s.block.ctl.fw.alloc with tables := t.ctl.fw.alloc.tables } },
          pair := { s.block.ctl.pair with tables2 := t.ctl.pair.tables2 } } ∧
        { s.block with mem := t.mem, lrs := t.lrs }.SameOutside t ∧
        ((∀ x ∈ s.block.ctl.plan.bufs, bufKind x.entry ≠ 6) → s.block.SameOutside t ∧ t.ctl.fw = s.block.ctl.fw))) ∧
  ((∀ (s : State) (slot : Fin 8) (a n : Nat) (bytes : Bytes), s.block.ctl.awake = true →
      Yields (.remoteRequest (.load slot a n)) s (fun t =>
        (s.block.sending (.slot slot.val) (if s.block.backedRange a n then .response (s.block.read a n) else .noAnswer)).UpToCaches t) ∧
      (s.block.backedRange a bytes.length = true → (∀ u ∈ unitsOf a (a + bytes.length) 9, Tab.get 0 s.block.ctl.fw.alloc.owner (u / 16) = 0) →
        Yields (.remoteRequest (.store slot a bytes)) s (s.block.wrote a bytes).UpToCaches) ∧
      (s.block.backedRange a bytes.length = false →
        Runs (.remoteRequest (.store slot a bytes)) s (s.block.sending (.slot slot.val) .noAnswer))) ∧
    (∀ (s : State) (r : Nat) (second : Bool) (sem : Fin 32768) (n : BitVec 31), s.block.ctl.awake = true → s.block.ctl.servesRank r = some second →
      let k := semIn second sem.val
      (semCount (s.block.sem k) + n.toNat ≤ semMax →
        Runs (.remoteRequest (.signal r sem n)) s { s.block with sems := Tab.set 0 s.block.sems k (semSignal (s.block.sem k) n.toNat) }) ∧
      Runs (.remoteRequest (.signalPoison r sem)) s
        { s.block with sems := Tab.set 0 s.block.sems k (semWord (semCount (s.block.sem k)) true) }) ∧
    (∀ (s : State) (toRank source va len : Nat) (second : Bool), s.block.ctl.awake = true → s.block.ctl.servesRank toRank = some second →
      let r : RemoteReq := .rankLoad toRank source va len
      let sp : Space := { second := second, cove := none, tlb := [] }
      let bad := s.block.firstBad sp [{ va := va, len := len, write := false }]
      let id := s.block.ctl.fw.nextId
      (bad = none → Runs (.remoteRequest r) s (s.block.sending (.rank source) (.response (s.block.readVa sp va len)))) ∧
      (∀ a w, bad = some (a, w, .accessError) → Runs (.remoteRequest r) s (s.block.sending (.rank source) .noAnswer)) ∧
      (∀ a w, bad = some (a, w, .absent) ∨ bad = some (a, w, .swapped) → Runs (.remoteRequest r) s (s.block.withFw { s.block.ctl.fw with
        nextId := id + 1, remote := s.block.ctl.fw.remote ++ [(id, r)],
        faults := s.block.ctl.fw.faults ++ [{ id := id, who := .remote id, vaddr := a, write := w, second := second, line := none }] }))) ∧
    (∀ (s : State) (port : Fin 2) (off n : Nat) (bytes : Bytes),
      let a := s.block.ctl.bar2Addr (port == 1) off
      let err := { s.block.ctl with bar2Err := (s.block.ctl.bar2Err + 1) % 2 ^ 48 }
      (s.block.ctl.inBar2 (port == 1) off n = true →
        Yields (.bar2Read port off n) s
          (if s.block.backedRange a n then s.block.sending (.host port.val) (.bar2Data (s.block.read a n))
           else { s.block with ctl := err }.sending (.host port.val) (.bar2Data (List.replicate n 0xFF))).UpToCaches) ∧
      (s.block.ctl.inBar2 (port == 1) off bytes.length = true →
        Yields (.bar2Write port off bytes) s
          (if s.block.backedRange a bytes.length then s.block.wrote a bytes else { s.block with ctl := err }).UpToCaches)))

/-! ## Semaphores -/

/-- SIGNAL adds to COUNT; where the sum passes 2^31 - 1, COUNT stays there, POISON is set, and POISON_RAISED is raised if it was not set before;
SIGNAL_POISON sets POISON and leaves COUNT (R281, R284). -/
def Obligations.Signals : Prop :=
  ∀ (s : State) (sem : Fin 32768) (n : BitVec 31), s.block.ctl.awake = true →
    let w := s.block.sem sem.val
    (n ≠ 0 → semCount w + n.toNat < 2 ^ 31 →
      Yields (.signal sem n) s fun t =>
        semCount (t.sem sem.val) = semCount w + n.toNat ∧ semPoisoned (t.sem sem.val) = semPoisoned w ∧ (∀ k, k ≠ sem.val → t.sem k = s.block.sem k) ∧
        t = { s.block with sems := t.sems }) ∧
    (n ≠ 0 → 2 ^ 31 ≤ semCount w + n.toNat →
      Yields (.signal sem n) s fun t =>
        semCount (t.sem sem.val) = 2 ^ 31 - 1 ∧ semPoisoned (t.sem sem.val) = true ∧ (∀ k, k ≠ sem.val → t.sem k = s.block.sem k) ∧
        t.mem = s.block.mem ∧ t.host = s.block.host ∧ t.out = s.block.out ∧
        (semPoisoned w = true → t.arb = s.block.arb) ∧
        (semPoisoned w = false → s.block.Raised t 0x0701 0 (poisonDetail sem.val 0xFD 0 0x3FF))) ∧
    Yields (.signalPoison sem) s fun t =>
      semCount (t.sem sem.val) = semCount w ∧ semPoisoned (t.sem sem.val) = true ∧ (∀ k, k ≠ sem.val → t.sem k = s.block.sem k) ∧
      t = { s.block with sems := t.sems }

/-- A WAIT that its semaphore's COUNT meets completes; one whose semaphore is poisoned completes poisoned: a command with E_POISON, an operation
at a queue head leaves skipped with every one of its own local signals as poison (R66, R282, R289, R346). -/
def Obligations.WaitsComplete : Prop :=
  (∀ (s : State) (id : Nat) (x : Cmd), s.block.ctl.cmd id = some x → x.phase = .waiting → cWait x.bytes = true → x.waitMet = false →
    waitTrouble s.block x.bytes = none →
    let w := s.block.sem (semIn (x.ring == partnerRing) (u16 x.bytes 16))
    (semPoisoned w = false → u32 x.bytes 20 ≤ semCount w →
      Yields (.waitComplete (.command id)) s fun t =>
        t.ctl.cmd id = some { x with waitMet := true } ∧ s.block.OthersKept t id ∧ s.block.SameOutside t) ∧
    (semPoisoned w = true → Yields (.waitComplete (.command id)) s fun t => t.Ended id .ePoison [] ∧ s.block.OthersKept t id ∧ s.block.SameOutside t)) ∧
  (∀ (s : State) (cove : Fin 512) (n : Fin 4) (i : Fin 4) (x : Ctx), (s.block.ctl.cove cove).ctx n = some x → i.val < u8 x.record 6 →
    x.met.getLsbD i = false → x.begun = false → s.block.waitOf x.second x.record i = some false →
    let b := s.block.withCove cove fun v => v.setCtx n (some { x with met := setMet x.met i, metNo := s.block.ctl.engine.nextMet })
    Runs (.waitComplete (.context cove n i)) s b.countedMet) ∧
  (∀ (s : State) (cove : Fin 512) (second : Bool) (i : Fin 4) (e : QEntry) (rest : List QEntry), (s.block.ctl.cove cove).q second = e :: rest →
    i.val < u8 e.record 6 → e.met.getLsbD i = false → heldAtHead e.record = true →
    (s.block.waitOf second e.record i = some false →
      Runs (.waitComplete (.head cove second i)) s
        (s.block.withCove cove fun v => v.setQ second ({ e with met := setMet e.met i } :: rest))) ∧
    (s.block.waitOf second e.record i = some true → rOp e.record ≠ opXfer → rOp e.record ≠ opTide →
      (∀ g ∈ recSignals e.record, bit g 19 = false) →
      Yields (.waitComplete (.head cove second i)) s fun t =>
        (t.ctl.cove cove).q second = rest ∧ (∀ g ∈ recSignals e.record, semPoisoned (t.sem (semIn second (entrySem g))) = true) ∧
        (∀ k, semCount (t.sem k) = semCount (s.block.sem k)) ∧ t.mem = s.block.mem ∧ t.host = s.block.host ∧ t.out = s.block.out ∧
        t.arb = s.block.arb))

/-! ## Coves -/

/-- OPERATION_TAKE puts the queue's head into the lowest free context with what it reads at the take, and WORK_COUNTER_TAKE serves the next
tile of a tail, here at its last visit, or ends the instance when none is left; a counter above its capacity poisons the instance (R48, R66,
R85, R297). -/
def Obligations.OperationsAreTaken : Prop :=
  (∀ (s : State) (cove : Fin 512) (second : Bool) (e : QEntry) (rest : List QEntry) (n : Nat), (s.block.ctl.cove cove).q second = e :: rest →
    [0, 1, 2, 3].find? (fun n => ((s.block.ctl.cove cove).ctx n).isNone) = some n → takeReady e.record e.met = true → s.block.passRuns = true →
    (usesScratch e.record = true → s.block.ctl.heldScratch cove + s.block.ctl.plan.workingSet e.record cove +
      s.block.ctl.plan.residentScratch cove ≤ scratchBudget) →
    s.block.firstBad (s.block.ctl.space cove second) (s.block.takeAccesses cove second e.record) = none →
    Yields (.operationTake cove second) s fun t =>
      s.block.countedMet.OneCove t cove { (((s.block.ctl.cove cove).setQ second rest).setCtx n (some (s.block.takeCtx cove second e))) with
        nextTake := (s.block.ctl.cove cove).nextTake + 1 } ∧ t.sems = s.block.sems ∧
      s.block.Asked t cove second (s.block.takeAccesses cove second e.record)) ∧
  (∀ (s : State) (cove : Fin 512) (n : Fin 4) (x : Ctx), (s.block.ctl.cove cove).ctx n = some x → gTail x.record = true →
    (rOp x.record = opGemm ∨ rOp x.record = opGrouped) → x.begun = true → x.fault = none → x.second = false →
    s.block.ctl.oldest cove x = true →
    let ctr := rCtr x.record
    let got := s.block.takeTile ctr (s.block.ctl.plan.counterCap ctr) cove x.tailSeq
    (∀ v w, got = (some v, w) → tailRows x * tileCols x ≤ v →
      Yields (.workCounterTake cove n) s fun t =>
        (t.ctl.cove cove).ctx n = none ∧ t.sems = (s.block.signalled false x.record false).sems ∧ t.mem = (w.run s.block).mem ∧
        t.ctl.engine.taken = servedList s.block.ctl.engine.taken ctr cove x.tailSeq ∧ t.host = s.block.host) ∧
    (∀ v w tile vis, got = (some v, w) → v < tailRows x * tileCols x → tailTile x v = some tile → (tileVisits x tile).drop x.pos = [vis] →
      s.block.ctl.demand cove x vis = .own →
      let b := (w.seq (served ctr cove x.tailSeq)).run s.block
      let as := b.visitAccesses cove 0 x vis
      b.firstBad (b.ctl.space cove false) as = none →
      Yields (.workCounterTake cove n) s fun t =>
        (∃ accs, (t.ctl.cove cove).ctx n = some { x with tailSeq := x.tailSeq + 1, pos := 0, accs := accs }) ∧
        t.mem = ((visitAct cove n 0 vis).run (b.streamed cove false as)).mem ∧ t.sems = s.block.sems ∧ t.host = s.block.host ∧
        t.ctl.engine.taken = servedList s.block.ctl.engine.taken ctr cove x.tailSeq) ∧
    (∀ w, got = (none, w) → Yields (.workCounterTake cove n) s fun t =>
      (t.ctl.cove cove).ctx n = none ∧ t.sems = (s.block.signalled false x.record true).sems ∧ t.mem = s.block.mem ∧ t.host = s.block.host ∧
      s.block.Raised t 0x0701 (src 1 cove) (poisonDetail (bits ctr 37 6) 0xFB 0 cove)))

/-- The host-visible ends of an instance before any work: a zero dimension ends it with its normal signals and counts in EMPTY_OPS; a shape above
a maximum refuses it with SHAPE_EXCEEDED and poisoned signals; memory stays as it is (R69, R70). -/
def Obligations.InstancesRefusedOrEmpty : Prop :=
  ∀ (s : State) (cove : Fin 512) (n : Fin 4) (x : Ctx) (op : Nat) (i : Instr),
    ((op = opGemm ∧ i = .gemm cove n) ∨ (op = opGrouped ∧ i = .gemmGrouped cove n) ∨ (op = opPrefill ∧ i = .attnPrefill cove n) ∨
     (op = opDecode ∧ i = .attnDecode cove n) ∨ (op = opMerge ∧ i = .attnMerge cove n) ∨ (op = opRecompute ∧ i = .attnRecompute cove n) ∨
     (op = opKernel ∧ i = .kernel cove n)) →
    (s.block.ctl.cove cove).ctx n = some x → rOp x.record = op → waitsMet x.record x.met = true → x.fault = none → x.begun = false →
    s.block.ctl.oldest cove x = true → aEarly x.record = false → (op = opGemm ∨ op = opGrouped → gemmExtra s.block x = (false, false, false)) →
    (op = opPrefill ∨ op = opDecode ∨ op = opRecompute → attnExtra s.block x = (false, false, false)) →
    (overMax x = (false, false, false) → x.m = 0 ∨ x.n = 0 ∨ x.k = 0 →
      Yields i s fun t =>
        (t.ctl.cove cove).ctx n = none ∧ t.sems = (s.block.signalled x.second x.record false).sems ∧
        Tab.get 0 (t.ctl.cove cove).counters 0x0C = (Tab.get 0 (s.block.ctl.cove cove).counters 0x0C + 1) % 2 ^ 48 ∧ t.mem = s.block.mem ∧
        t.host = s.block.host ∧ t.fuses = s.block.fuses) ∧
    (∀ k nn m, overMax x = (k, nn, m) → (k || nn || m) = true →
      Yields i s fun t =>
        (t.ctl.cove cove).ctx n = none ∧ t.sems = (s.block.signalled x.second x.record true).sems ∧
        s.block.Raised t 0x0700 (src 1 cove) (x.op % 2 ^ 32 * 2 ^ 32 + (if k then 2 ^ 26 else 0) + (if nn then 2 ^ 25 else 0) +
          (if m then 2 ^ 24 else 0) + op * 2 ^ 16 + cove.val) ∧ t.mem = s.block.mem ∧ t.host = s.block.host ∧ t.fuses = s.block.fuses)

/-- The last visit of a product that runs no tail: its register tile takes the k-tile's products, from its own memory or from a stage slot, and
the instance ends with its signals.  A visit of one row that ends its k range, with plain operands and output in scratch or lagoon, leaves
exactly the converted dot products there.  A visit whose slabs are in no slot pins one that is free or least recently used; with all pinned
it waits (R33 to R36, R78, R79, R85; what one command does to a slot: log 59). -/
def Obligations.ProductTiles : Prop :=
  ∀ (s : State) (cove : Fin 512) (n : Fin 4) (x y : Ctx) (op : Nat) (v : Visit), (op = opGemm ∨ op = opGrouped) → s.block.Runnable cove n op x →
    gemmExtra s.block x = (false, false, false) → (op = opGrouped → u16 x.table1 0 ≠ 0) → s.block.ctl.stageFree cove x = true →
    gTail x.record = false → (bandVisits x cove).drop x.pos = [v] →
    let i : Instr := if op = opGemm then .gemm cove n else .gemmGrouped cove n
    let b := (startStage cove n x).run s.block
    let die := dieOf cove
    (b.ctl.cove cove).ctx n = some y →
    (∀ (slot : Nat) (c : Block) (z : Ctx),
      ((b.ctl.demand cove y v = .own ∧ slot = 0 ∧ c = b) ∨
       (b.ctl.demand cove y v = .held slot ∧ c = ((useSlot { slabsOf die slot y v with filled := true }).seq (setStaging cove n .none)).run b) ∨
       (b.ctl.demand cove y v = .fill slot ∧ b.firstBad (b.ctl.streamSpace cove x.second) (b.ctl.fillReads cove slot y v) = none ∧
        c = ((fillSlot cove slot y v).seq (setStaging cove n .none)).run b)) →
      (c.ctl.cove cove).ctx n = some z →
      let as := c.visitAccesses cove slot z v
      c.firstBad (c.ctl.space cove x.second) as = none →
      Yields i s fun t =>
        (t.ctl.cove cove).ctx n = none ∧ t.mem = ((visitAct cove n slot v).run (c.streamed cove x.second as)).mem ∧
        t.sems = (s.block.signalled x.second x.record false).sems ∧ t.host = s.block.host ∧ t.flash = s.block.flash ∧ t.fuses = s.block.fuses ∧
        (v.last x = true → v.rows = 1 → x.second = false → rMode x.record 4 = 0 → gAppend x.record = false →
          (∀ a ∈ as, scratchBase ≤ a.va ∧ a.va + a.len ≤ semBase) →
          let bytes := (outRow (u8 x.record 4) none (c.visitRow cove slot z v 0)).bytes
          let at' := c.outAddr x v.row + colByte x.record v.col
          bytes.length = rowBytes (rFmt x.record 4) v.cols →
          (∀ i < bytes.length, t.mem.byte (at' + i) = bytes.getD i 0) ∧ c.MemOutside t at' bytes.length)) ∧
    (∀ slot, b.ctl.demand cove y v = .claim slot ∨ b.ctl.demand cove y v = .join slot →
      Yields i s fun t => (t.ctl.cove cove).ctx n = some { x with started := true, staging := .filling slot } ∧ s.block.SameOutside t ∧
        (b.ctl.demand cove y v = .claim slot → t.ctl.engine.stages.head? = some (slabsOf die slot x v))) ∧
    (b.ctl.demand cove y v = .full →
      Yields i s fun t => (t.ctl.cove cove).ctx n = some { x with started := true, staging := .waiting } ∧ s.block.SameOutside t)

/-- The last unit of an attention operation: its rows are written and the instance ends with its signals.  An EARLY decode streams pages, which
it keeps, before its last wait; at that wait the length is read again, and one that has fallen refuses it (R119, R130 to R139). -/
def Obligations.AttentionUnits : Prop :=
  (∀ (s : State) (cove : Fin 512) (n : Fin 4) (x : Ctx) (op : Nat) (tile : QTile), (op = opPrefill ∨ op = opDecode) → s.block.Runnable cove n op x →
    aEarly x.record = false → attnExtra s.block x = (false, false, false) → (instanceTiles x.record x.m cove).drop x.pos = [tile] →
    let as := s.block.attnAccesses cove x tile
    s.block.firstBad (s.block.ctl.space cove x.second) as = none →
    Yields (if op = opPrefill then .attnPrefill cove n else .attnDecode cove n) s fun t =>
      (t.ctl.cove cove).ctx n = none ∧ t.mem = ((attnTile cove x tile).run (s.block.streamed cove x.second as)).mem ∧
      t.sems = (s.block.signalled x.second x.record false).sems ∧ t.host = s.block.host ∧ t.fuses = s.block.fuses) ∧
  (∀ (s : State) (cove : Fin 512) (n : Fin 4) (x : Ctx), s.block.Runnable cove n opDecode x → aEarly x.record = true → x.len1 = none →
    let sp := s.block.ctl.space cove x.second
    let l1 := if lenAddr x.record = 0 then 0 else s.block.natVa sp (lenAddr x.record) 8
    (lenAddr x.record ≠ 0 → s.block.firstBad sp [rd (lenAddr x.record) 8] = none) →
    (x.len ≤ l1 → attnExtra s.block { x with len1 := some l1 } = (false, false, false) → (instanceTiles x.record x.m cove).drop x.pos = [] →
      Yields (.earlyScoring cove n) s fun t =>
        (t.ctl.cove cove).ctx n = none ∧ t.sems = (s.block.signalled x.second x.record false).sems ∧ t.mem = s.block.mem ∧ t.host = s.block.host) ∧
    (l1 < x.len →
      Yields (.earlyScoring cove n) s fun t =>
        (t.ctl.cove cove).ctx n = none ∧ t.sems = (s.block.signalled x.second x.record true).sems ∧ t.mem = s.block.mem ∧ t.host = s.block.host)) ∧
  (∀ (s : State) (cove : Fin 512) (n : Fin 4) (x : Ctx), (s.block.ctl.cove cove).ctx n = some x → rOp x.record = opDecode →
    aEarly x.record = true → x.len1 = none → waitsMet x.record x.met = false → x.fault = none → overMax x = (false, false, false) →
    attnExtra s.block x = (false, false, false) → x.m ≠ 0 → x.n ≠ 0 → x.k ≠ 0 →
    s.block.firstBad (s.block.ctl.space cove x.second) (s.block.earlyAccesses cove x) = none →
    Yields (.attnDecode cove n) s fun t =>
      s.block.OneCove t cove ((s.block.ctl.cove cove).setCtx n (some { x with early := s.block.earlyPages cove x })) ∧ t.sems = s.block.sems ∧
      s.block.Asked t cove x.second (s.block.earlyAccesses cove x)) ∧
  (∀ (s : State) (cove : Fin 512) (n : Fin 4) (x : Ctx) (u : Nat), s.block.Runnable cove n opMerge x →
    (let (lo, hi) := band (x.m * ceilDiv x.n 16) 0 (rInstance x.record cove) (rCount x.record); (upto lo hi).drop x.pos) = [u] →
    let unit := mergeUnit cove x u s.block
    s.block.firstBad (s.block.ctl.space cove x.second) unit.1 = none →
    Yields (.attnMerge cove n) s fun t =>
      (t.ctl.cove cove).ctx n = none ∧ t.mem = (unit.2.run (s.block.touched cove x.second unit.1)).mem ∧
      t.sems = (s.block.signalled x.second x.record false).sems ∧ t.host = s.block.host ∧ t.fuses = s.block.fuses) ∧
  (∀ (s : State) (cove : Fin 512) (n : Fin 4) (x : Ctx) (tile : QTile), s.block.Runnable cove n opRecompute x →
    attnExtra s.block x = (false, false, false) → u8 x.record 229 = 0 → (instanceTiles x.record x.m cove).drop x.pos = [tile] →
    let r := x.record
    let sp := s.block.ctl.space cove x.second
    let as := (tileRowsOf x tile).flatMap (fun (i, _, _) =>
        backReads r (tile.index + i) ++ [wr (u64 r 128 + (tile.index + i) * u32 r 136) (rowBytes (rFmt r 4) 128)]) ++
      [rd (u64 r 160) 256] ++ s.block.pageAccesses r (keyBlocks (s.block.keyPages sp x)).flatten
    s.block.firstBad sp as = none →
    Yields (.attnRecompute cove n) s fun t =>
      (t.ctl.cove cove).ctx n = none ∧ t.mem = ((backQ cove x tile).run (s.block.streamed cove x.second as)).mem ∧
      t.sems = (s.block.signalled x.second r false).sems ∧ t.host = s.block.host ∧ t.fuses = s.block.fuses)

/-- KERNEL starts its threads on a free core with their arguments; ECALL ends a thread, and with the last one the instance with its signals,
or, where a thread ended with a0 not 0, with poison and POISON_RAISED, whose detail holds 0xFF and the pc of the first such ECALL (R95, R96). -/
def Obligations.KernelsStartAndEnd : Prop :=
  (∀ (s : State) (cove : Fin 512) (n : Fin 4) (x : Ctx), s.block.Runnable cove n opKernel x → (s.block.ctl.cove cove).coreFree = true →
    u8 x.record 112 ≤ 4 →
    let r := x.record
    let v := (List.range (u8 r 112)).foldl (fun v t => v.setThread t (startThread x n t (v.thread t).mcsr)) (s.block.ctl.cove cove)
    Yields (.kernel cove n) s fun t =>
      s.block.OneCove t cove (v.setCtx n (some { x with begun := true })) ∧ t.sems = s.block.sems ∧
      { s.block with lrs := s.block.lrs.filter fun g => !(g.cove == cove.val && decide (g.thread < 4)) }.Untouched t ∧
      ∀ k < u8 r 112, let u := (t.ctl.cove cove).thread k
        u.state = .running ∧ u.ctx = n.val ∧ u.pc.toNat = u64 r 104 ∧ (∀ i < 6, (u.rx (10 + i)).toNat = u64 r (128 + 8 * i)) ∧
        u.rx 16 = BitVec.ofNat 64 (x.m + x.n * 2 ^ 20 + x.k * 2 ^ 40) ∧ u.rx 17 = BitVec.ofNat 64 x.op ∧
        u.rx 2 = BitVec.ofNat 64 (u64 r 120 + (k + 1) * u32 r 116) ∧ (∀ i < 32, i ≠ 2 → (i < 10 ∨ 17 < i) → u.rx i = 0) ∧
        (∀ i < 32, u.rf i = 0 ∧ Tab.get 0 u.v i = 0) ∧ u.rc csrVtype = 2 ^ 63) ∧
  (∀ (s : State) (cove : Fin 512) (th : Fin 4) (u : Thread) (x : Ctx), s.block.Fetches cove th u x 0x73 → u.ctx < 4 →
    let e : Thread := { u.enterMachine causeEcall with state := .ended }
    let v := (s.block.ctl.cove cove).setThread th e
    let y : Ctx := if u.rx 10 = 0 ∨ x.poisoned = true then x else { x with poisoned := true, pos := th.val }
    ((∃ k < 4, k ≠ th.val ∧ ((s.block.ctl.cove cove).thread k).state ≠ .idle ∧ ((s.block.ctl.cove cove).thread k).state ≠ .ended) →
      Yields (.ecall cove th) s fun t => s.block.OneCove t cove (v.setCtx u.ctx (some y)) ∧ t.sems = s.block.sems ∧
        s.block.Asked t cove x.second [rd u.pc.toNat 4]) ∧
    ((∀ k < 4, k ≠ th.val → ((s.block.ctl.cove cove).thread k).state = .idle ∨ ((s.block.ctl.cove cove).thread k).state = .ended) →
      rOp x.record = opKernel →
      Yields (.ecall cove th) s fun t =>
        (t.ctl.cove cove).ctx u.ctx = none ∧ (t.ctl.cove cove).thread th = { Thread.idle with mcsr := e.mcsr } ∧
        t.sems = (s.block.signalled x.second x.record y.poisoned).sems ∧ t.mem = s.block.mem ∧ t.host = s.block.host ∧ t.fuses = s.block.fuses ∧
        (y.poisoned = true → s.block.Raised t 0x0701 (src 1 cove) (poisonDetail (v.thread y.pos).pc.toNat 0xFF y.pos cove))))

/-- Standard instructions at a thread's pc (the RISC-V manual, log 13): ADDI, ADD, SUB, BEQ and JAL write their register, x0 discarding what
is written, and move the pc; a store of 8 bytes into scratch or lagoon writes them there; LR reserves 8 bytes there, and SC stores where its
thread's reservation holds and only there; an encoding that is none traps and ends the kernel poisoned with cause 2 (R50, R54; what breaks a
reservation: log 61). -/
def Obligations.CoreInstructions : Prop :=
  ∀ (s : State) (cove : Fin 512) (th : Fin 4) (u : Thread) (x : Ctx) (w : Nat), s.block.Fetches cove th u x w →
    let rs1 := u.rx (bits w 19 15)
    let rs2 := u.rx (bits w 24 20)
    let rd' := bits w 11 7
    let f3 := bits w 14 12
    let steps := fun (u' : Thread) => Yields (.coreInstruction cove th) s fun t =>
      s.block.OneCove t cove ((s.block.ctl.cove cove).setThread th u') ∧ t.sems = s.block.sems ∧ s.block.Asked t cove x.second [rd u.pc.toNat 4]
    let out := (s.block.touched cove x.second [rd u.pc.toNat 4]).out
    let a := rs1.toNat
    let mine : Reserve := { cove := cove.val, thread := th.val, addr := a, len := 8 }
    let others := fun (g : Reserve) => !(g.cove == cove.val && g.thread == th.val)
    let inLagoon := x.second = false ∧ a % 8 = 0 ∧ lagoonBase ≤ a ∧ a + 8 ≤ lagoonBase + 2 * lagoonSize
    (bits w 6 0 = 0x13 → f3 = 0 → steps { (u.wx rd' (rs1 + sext 12 (bits w 31 20))) with pc := u.pc + 4 }) ∧
    (bits w 6 0 = 0x33 → f3 = 0 → bits w 31 25 = 0 → steps { (u.wx rd' (rs1 + rs2)) with pc := u.pc + 4 }) ∧
    (bits w 6 0 = 0x33 → f3 = 0 → bits w 31 25 = 0x20 → steps { (u.wx rd' (rs1 - rs2)) with pc := u.pc + 4 }) ∧
    (bits w 6 0 = 0x63 → f3 = 0 → steps { u with pc := u.pc + (if rs1 = rs2 then immB w else 4) }) ∧
    (bits w 6 0 = 0x6F → steps { (u.wx rd' (u.pc + 4)) with pc := u.pc + immJ w }) ∧
    (bits w 6 0 = 0x23 → f3 = 3 → x.second = false → (rs1 + immS w).toNat % 8 = 0 → lagoonBase ≤ (rs1 + immS w).toNat →
      (rs1 + immS w).toNat + 8 ≤ lagoonBase + 2 * lagoonSize →
      Yields (.coreInstruction cove th) s fun t =>
        s.block.OneCove t cove ((s.block.ctl.cove cove).setThread th { u with pc := u.pc + 4 }) ∧
        t.sems = s.block.sems ∧ { s.block.wrote (rs1 + immS w).toNat (leBytes rs2.toNat 8) with out := out }.Untouched t) ∧
    (bits w 6 0 = 0x2F → f3 = 3 → bits w 31 27 = 2 → bits w 24 20 = 0 → inLagoon →
      Yields (.coreInstruction cove th) s fun t =>
        s.block.OneCove t cove ((s.block.ctl.cove cove).setThread th { (u.wx rd' (sext 64 (s.block.mem.nat a 8))) with pc := u.pc + 4 }) ∧
        t.sems = s.block.sems ∧ { s.block with out := out, lrs := mine :: s.block.lrs.filter others }.Untouched t) ∧
    (bits w 6 0 = 0x2F → f3 = 3 → bits w 31 27 = 3 → inLagoon →
      Yields (.coreInstruction cove th) s fun t =>
        let held := s.block.lrs.contains mine
        let c := if held then s.block.wrote a (leBytes rs2.toNat 8) else s.block
        s.block.OneCove t cove ((s.block.ctl.cove cove).setThread th { (u.wx rd' (if held then 0 else 1)) with pc := u.pc + 4 }) ∧
        t.sems = s.block.sems ∧ { c with out := out, lrs := c.lrs.filter others }.Untouched t) ∧
    (w = 0xFFFFFFFF → rOp x.record = opKernel →
      Yields (.coreInstruction cove th) s fun t =>
        (t.ctl.cove cove).ctx u.ctx = none ∧ t.sems = (s.block.signalled x.second x.record true).sems ∧ t.mem = s.block.mem ∧
        s.block.Raised t 0x0701 (src 1 cove) (poisonDetail u.pc.toNat 2 th cove))

/-- The custom scalar instructions of Table 02-9: signals, waits, semaphore reads, identities and work-counter takes (R52, R281, R282, R297).  A custom vector instruction that its operands permit writes its vector register and moves on; one that they do not permit, such as with SEW
other than 32, is an illegal instruction and ends the kernel poisoned with cause 2 (R52, R54). -/
def Obligations.CustomInstructions : Prop :=
  (∀ (s : State) (cove : Fin 512) (th : Fin 4) (u : Thread) (x : Ctx) (w : Nat), s.block.Fetches cove th u x w →
      let sem := semIn x.second ((u.rx (bits w 19 15)).toNat % 32768)
      let amount := (u.rx (bits w 24 20)).toNat % 2 ^ 31
      let word := s.block.sem sem
      let after := fun (f : Thread → Thread) (t : Block) =>
        s.block.OneCove t cove ((s.block.ctl.cove cove).setThread th { (f u) with pc := u.pc + 4 }) ∧ s.block.Asked t cove x.second [rd u.pc.toNat 4]
      (nvOfWord w = some .sig → semCount word + amount ≤ semMax →
        Yields (.nvSig cove th) s fun t => after id t ∧ t.sems = Tab.set 0 s.block.sems sem (semSignal word amount)) ∧
      (nvOfWord w = some .sigp →
        Yields (.nvSigp cove th) s fun t => after id t ∧ t.sems = Tab.set 0 s.block.sems sem (semWord (semCount word) true)) ∧
      (nvOfWord w = some .wait → (semPoisoned word = true ∨ amount ≤ semCount word) →
        Yields (.nvWait cove th) s fun t => after (·.wx (bits w 11 7) (if semPoisoned word then 1 else 0)) t ∧ t.sems = s.block.sems) ∧
      (nvOfWord w = some .wait → semPoisoned word = false → semCount word < amount →
        Yields (.nvWait cove th) s fun t =>
          s.block.OneCove t cove ((s.block.ctl.cove cove).setThread th { u with state := .waiting }) ∧ t.sems = s.block.sems ∧
          s.block.Asked t cove x.second [rd u.pc.toNat 4]) ∧
      (nvOfWord w = some .semrd →
        Yields (.nvSemrd cove th) s fun t => after (·.wx (bits w 11 7) (BitVec.ofNat 64 word.toNat)) t ∧ t.sems = s.block.sems) ∧
      (∀ sel, nvOfWord w = some (.id sel) →
        let v := match sel with
          | 0 => cove.val
          | 1 => s.block.ctl.rankOf x.second
          | 2 => s.block.ctl.jobP
          | 3 => th.val
          | _ => cove.val / 256
        Yields (.nvId cove th) s fun t => after (·.wx (bits w 11 7) (BitVec.ofNat 64 v)) t ∧ t.sems = s.block.sems) ∧
      (nvOfWord w = some .take → x.second = false →
        let ctr := (u.rx (bits w 19 15)).toNat
        ∀ v a, s.block.takeTile ctr (s.block.ctl.plan.counterCap ctr) cove (u.rx (bits w 24 20)).toNat = (some v, a) →
        Yields (.nvTake cove th) s fun t =>
          (t.ctl.cove cove).thread th = { (u.wx (bits w 11 7) (BitVec.ofNat 64 v)) with pc := u.pc + 4 } ∧ t.mem = (a.run s.block).mem ∧
          t.ctl.engine.taken = servedList s.block.ctl.engine.taken ctr cove (u.rx (bits w 24 20)).toNat ∧ t.sems = s.block.sems ∧
          t.host = s.block.host ∧ t.arb = s.block.arb)) ∧
  (∀ (s : State) (cove : Fin 512) (th : Fin 4) (u : Thread) (x : Ctx) (w : Nat) (v : Nv), s.block.Fetches cove th u x w → nvOfWord w = some v →
      ∀ (i : Instr) (f : Env → Option Thread),
      ((∃ m k, v = .vcvtN m k ∧ i = .nvVcvtN cove th ∧ ∀ e, f e = vcvtN e u w v) ∨ (∃ k, v = .vcvtW k ∧ i = .nvVcvtW cove th ∧ ∀ e, f e = vcvtW e u w v) ∨
       (∃ k, v = .vmxs k ∧ i = .nvVmxs cove th ∧ ∀ e, f e = vmxs u w v) ∨ (v = .vexp2 ∧ i = .nvVexp2 cove th ∧ ∀ e, f e = vexp2 e u w v) ∨
       (∃ k, v = .vsincos k ∧ i = .nvVsincos cove th ∧ ∀ e, f e = vsincos e u w v)) →
      (u.vt.map (·.sew) = some 32 → u.vt.map (·.ta) = some false → (∃ u', ∀ e, f e = some u') →
        Yields i s fun t => ∃ u', (∀ e, f e = some u') ∧
          s.block.OneCove t cove ((s.block.ctl.cove cove).setThread th { u' with pc := u'.pc + 4 }) ∧ t.sems = s.block.sems ∧
          s.block.Asked t cove x.second [rd u.pc.toNat 4]) ∧
      (u.vt.map (·.sew) ≠ some 32 → rOp x.record = opKernel →
        Yields i s fun t =>
          (t.ctl.cove cove).ctx u.ctx = none ∧ t.sems = (s.block.signalled x.second x.record true).sems ∧ t.mem = s.block.mem ∧
          s.block.Raised t 0x0701 (src 1 cove) (poisonDetail u.pc.toNat 2 th cove)))

/-! ## Tide movers -/

/-- A ring step grants its predecessor and waits; a grant sends the step's block to the successor and signals SENT; a piece whose CHECK holds goes
into RX_SLOT and signals FULL, one whose CHECK fails is asked for again up to three times; after that the sender is told of the loss where it
is the higher-ranked end (R194, R208, R213; how it is told: log 64). -/
def Obligations.RingSteps : Prop :=
  (∀ (s : State) (cove : Fin 512) (n : Fin 4) (x : Ctx) (p k : Nat), s.block.Runnable cove n opTide x → tMode x.record = 0 →
    tGather x.record = false → tNoRx x.record = false → tidePrev s.block.ctl.plan s.block.ctl.jobP (s.block.ctl.rankOf x.second) (tDir x.record) = some p →
    tideNext s.block.ctl.plan s.block.ctl.jobP (s.block.ctl.rankOf x.second) (tDir x.record) = some k → s.block.ctl.engine.movers.inbox = [] →
    let g : TideGrant := { toRank := p, die := Fin.ofNat 2 (dieOf cove), step := tStep x.record, dir := tDir x.record, layer := tLayer x.record,
                           seq := tSeq x.record }
    Yields (.tideRing cove n) s fun t =>
      t.out = { dest := .rank p, msg := .grant g } :: s.block.out ∧ t.sems = s.block.sems ∧
      s.block.OneCove t cove ((s.block.ctl.cove cove).setCtx n
        (some { x with begun := true, rxDone := false, txDone := tNoTx x.record })) ∧ { s.block with out := t.out }.Untouched t) ∧
  (∀ (s : State) (g : TideGrant) (c n k : Nat) (x : Ctx),
    s.block.tideStep g.toRank 0 (fun c x => !x.txDone && isGrant g.toRank (dieOf c) x.record (.grant g)) = some (c, n, x) → n < 4 →
    (s.block.ctl.cove c).ctx n = some x → x.rxDone = false → s.block.ctl.plan.fold = false →
    tideNext s.block.ctl.plan s.block.ctl.jobP (s.block.ctl.rankOf x.second) (tDir x.record) = some k →
    let sp := s.block.tideSpace c x
    let va := s.block.ctl.plan.slotAddr (u8 x.record 132)
    let h := s.block.readVa sp va 8192
    let piece : TidePiece := { toRank := k, die := Fin.ofNat 2 (dieOf c), step := tStep x.record, dir := tDir x.record, header := h,
                               pages := s.block.readVa sp (va + 8192) (headerPages h * 8192) }
    Yields (.tideGrant g) s fun t =>
      t.out = { dest := .rank k, msg := .piece piece } :: s.block.out ∧
      t.sems = ((tideSignal x 136 (u8 x.record 132) false).run s.block).sems ∧ (t.ctl.cove c).ctx n = some { x with txDone := true } ∧
      t.mem = s.block.mem ∧ t.host = s.block.host ∧ t.fuses = s.block.fuses) ∧
  (∀ (s : State) (p : TidePiece) (c n : Nat) (x : Ctx),
    s.block.tideStep p.toRank 0 (fun c x => !x.rxDone && dieOf c == p.die.val && tStep x.record == p.step && tDir x.record == p.dir) = some (c, n, x) → n < 4 →
    (s.block.ctl.cove c).ctx n = some x → x.txDone = false → p.header.length = 8192 → p.pages.length = headerPages p.header * 8192 →
    let sp := s.block.tideSpace c x
    let slot := s.block.ctl.plan.slotAddr (u8 x.record 133)
    let use : Byte := if s.block.useOfBlock sp p.toRank p.step p.dir p.header then 1 else 0
    let key := missKey 0 p.toRank p.step p.dir p.die.val
    (slotCheck p.header p.pages = u32 p.header 12 →
      s.block.firstBad sp [{ va := slot, len := 8192 + p.pages.length, write := true }] = none →
      Yields (.tidePiece p) s fun t =>
        (t.ctl.cove c).ctx n = some { x with rxDone := true } ∧
        t.mem = ((writeVa sp slot (patch p.header 8 [use] ++ p.pages)).run s.block).mem ∧ t.sems = ((tideSignal x 134 (u8 x.record 133) false).run s.block).sems ∧
        t.host = s.block.host ∧ t.fuses = s.block.fuses) ∧
    (∀ k, slotCheck p.header p.pages ≠ u32 p.header 12 → tidePrev s.block.ctl.plan s.block.ctl.jobP p.toRank p.dir = some k →
      (3 ≤ Tab.get 0 s.block.ctl.engine.movers.misses key → p.toRank < k →
        Runs (.tidePiece p) s (s.block.sending (.rank k) (.resend (.lost p.toRank)))) ∧
      (Tab.get 0 s.block.ctl.engine.movers.misses key < 3 → Yields (.tidePiece p) s fun t =>
        t.out = { dest := .rank k, msg := .resend (.piece p.toRank p.die p.step p.dir) } :: s.block.out ∧ (t.ctl.cove c).ctx n = some x ∧
        t.mem = s.block.mem ∧ t.sems = s.block.sems ∧ t.host = s.block.host ∧
        Tab.get 0 t.ctl.engine.movers.resends p.die.val = (Tab.get 0 s.block.ctl.engine.movers.resends p.die.val + 1) % 2 ^ 48)))

/-- A root of a broadcast makes its payload and treats it as every rank does: it passes the payload on to its children, writes query rows, the
records it holds and LENGTH, signals ARRIVE and ends; another rank waits for the payload; one with a bad CRC is asked for again (R200, R208).  A gather step waits for its children's partials; each partial is placed and signals ARRIVE; once they are in, the merged partial goes to the
parent and the step ends (R201). -/
def Obligations.BroadcastsAndGathers : Prop :=
  ((∀ (s : State) (cove : Fin 512) (n : Fin 4) (x : Ctx), s.block.Runnable cove n opTide x → tMode x.record = 1 →
      s.block.ctl.engine.movers.inbox = [] → x.poisoned = false → tNoTx x.record = false →
      let r := x.record
      let me := s.block.ctl.rankOf x.second
      let p := s.block.payload cove x
      let as := rd (u64 r 144) (u32 r 152) :: (if u32 r 156 = 0 then [] else [rd (u64 r 160) (576 * u32 r 156)])
      let b := (Act.all [touch cove x.second as, updCtx cove n fun y => { y with begun := true, txDone := false, rxDone := false },
        keepMsg (.payload p)]).run s.block
      (∀ d, me = tRoot r → s.block.firstBad (s.block.tideSpace cove x) as = none →
        unitsDone cove n x.second ((b.payloadUnits cove x p).drop x.pos) (b.passedOn cove n me p) = some d →
        Yields (.tideBcast cove n) s fun t =>
          (t.ctl.cove cove).ctx n = none ∧ t.mem = d.mem ∧
          (∀ c ∈ treeChildren s.block.ctl.jobP me (tRoot r), ({ dest := .rank c.2, msg := .payload { p with toRank := c.2 } } : Sent) ∈ t.out) ∧
          t.sems = (((tideSignal x 180 0 false).run s.block).signalled x.second r false).sems ∧ t.host = s.block.host ∧ t.fuses = s.block.fuses) ∧
      (me ≠ tRoot r → tNoRx r = false →
        Yields (.tideBcast cove n) s fun t =>
          s.block.OneCove t cove ((s.block.ctl.cove cove).setCtx n (some { x with begun := true, txDone := false, rxDone := false })) ∧
          t.sems = s.block.sems ∧ s.block.Untouched t)) ∧
    (∀ (s : State) (p : BcastPayload), segmentsOk p.data = true → s.block.ctl.engine.movers.inbox = [] →
      ∀ (c n : Nat) (x : Ctx), s.block.tideStep p.toRank 1 (fun _ x => !x.rxDone && isPayload p.toRank x.record (.payload p)) = some (c, n, x) → n < 4 →
      (s.block.ctl.cove c).ctx n = some x → x.fault = none → x.txDone = false → x.rxDone = false → x.poisoned = false →
      let b := ((arrived (missKey 1 p.toRank p.layer p.root p.seq)).seq (keepMsg (.payload p))).run s.block
      ∀ d, unitsDone c n x.second ((b.payloadUnits c x p).drop x.pos) (b.passedOn c n p.toRank p) = some d →
      Yields (.broadcastPayload p) s fun t =>
        (t.ctl.cove c).ctx n = none ∧ t.mem = d.mem ∧ t.ctl.engine.movers.inbox = [] ∧
        (∀ k ∈ treeChildren s.block.ctl.jobP p.toRank p.root, ({ dest := .rank k.2, msg := .payload { p with toRank := k.2 } } : Sent) ∈ t.out) ∧
        t.sems = (((tideSignal x 180 0 false).run s.block).signalled x.second x.record false).sems ∧ t.host = s.block.host) ∧
    (∀ (s : State) (p : BcastPayload) (k i : Nat), segmentsOk p.data = false → treeParent s.block.ctl.jobP p.toRank p.root = some (k, i) →
      Tab.get 0 s.block.ctl.engine.movers.misses (missKey 1 p.toRank p.layer p.root p.seq) < 3 →
      Yields (.broadcastPayload p) s fun t =>
        t.out = { dest := .rank k, msg := .resend (.payload p.toRank p.seq p.layer p.root) } :: s.block.out ∧ t.sems = s.block.sems ∧
        t.mem = s.block.mem ∧ t.host = s.block.host)) ∧
  ((∀ (s : State) (cove : Fin 512) (n : Fin 4) (x : Ctx), s.block.Runnable cove n opTide x → tMode x.record = 2 → tNoRx x.record = true →
      tNoTx x.record = false →
      Yields (.tideGather cove n) s fun t =>
        s.block.OneCove t cove ((s.block.ctl.cove cove).setCtx n (some { x with begun := true, pos := 0, txDone := false, rxDone := true })) ∧
        t.sems = s.block.sems ∧ s.block.Untouched t) ∧
    (∀ (s : State) (cove : Fin 512) (n : Fin 4) (x : Ctx) (k i : Nat), (s.block.ctl.cove cove).ctx n = some x →
      rOp x.record = opTide → tMode x.record = 2 → waitsMet x.record x.met = true → x.fault = none → x.begun = true → x.rxDone = true → x.txDone = false → x.poisoned = false →
      treeParent s.block.ctl.jobP (s.block.ctl.rankOf x.second) (tRoot x.record) = some (k, i) →
      let r := x.record
      let sp := s.block.tideSpace cove x
      s.block.firstBad sp [{ va := u64 r 144, len := u32 r 152, write := false }] = none →
      let g : GatherMsg := { toRank := k, seq := tSeq r, layer := tLayer r, root := tRoot r, child := i, data := cut (s.block.readVa sp (u64 r 144) (u32 r 152)) }
      Yields (.tideGather cove n) s fun t =>
        { dest := .rank k, msg := .partialOf g } ∈ t.out ∧ (t.ctl.cove cove).ctx n = none ∧
        t.sems = (s.block.signalled x.second r false).sems ∧ t.mem = s.block.mem ∧ t.host = s.block.host) ∧
    (∀ (s : State) (g : GatherMsg) (c n : Nat) (x : Ctx), segmentsOk g.data = true →
      s.block.tideStep g.toRank 2 (fun _ x => !x.rxDone && isPartial g.toRank x.record (.partialOf g)) = some (c, n, x) → n < 4 →
      (s.block.ctl.cove c).ctx n = some x → x.txDone = false →
      let sp := s.block.tideSpace c x
      let va := u64 x.record 168 + g.child * u32 x.record 176
      s.block.firstBad sp [{ va := va, len := (joined g.data).length, write := true }] = none →
      let all := decide ((treeChildren s.block.ctl.jobP (s.block.ctl.rankOf x.second) (tRoot x.record)).length ≤ x.pos + 1)
      Yields (.gatherPartial g) s fun t =>
        (t.ctl.cove c).ctx n = some { x with pos := x.pos + 1, rxDone := all } ∧ t.mem = ((writeVa sp va (joined g.data)).run s.block).mem ∧
        t.sems = ((tideSignal x 180 0 false).run s.block).sems ∧ t.host = s.block.host))

/-- A window gathers its pages, asks other boards for theirs, and ends; another rank's window read is answered with the pages; a rank other than
the root puts its global pages into the root's cache; the root's cache is passed on and ends the step (R203, R204).  A poison notice for the piece of a running step poisons FULL and ends its receiving half; one for a grant that comes before its step waits for
it; a request to send again sends the same transfer again (R208, R290; log 23). -/
def Obligations.WindowsGlobalsAndNotices : Prop :=
  ((∀ (s : State) (cove : Fin 512) (n : Fin 4) (x : Ctx), s.block.Runnable cove n opTide x → tMode x.record = 3 →
      let r := x.record
      let sp := s.block.tideSpace cove x
      let pages := runPages (s.block.windowRuns sp (u32 r 184))
      let me := s.block.ctl.rankOf x.second
      let far := fun (g : Nat) => s.block.ctl.holder (tLayer r) g != me && !s.block.ctl.onBoard (s.block.ctl.holder (tLayer r) g)
      let ask := fun (g : Nat) => ({ toRank := s.block.ctl.holder (tLayer r) g, rank := me, seq := tSeq r, layer := tLayer r, page := g, pages := 1 } : WindowReq)
      s.block.firstBad sp (((pages.filter fun g => !far g).map fun g =>
          ({ va := (s.block.seq (tSeq r)).pageAddr (tLayer r) g, len := 8192, write := false } : Access)) ++
        [{ va := u64 r 120, len := 8192 + 8192 * pages.length, write := true }]) = none →
      Yields (.tideWindow cove n) s fun t =>
        (t.ctl.cove cove).ctx n = none ∧
        (∀ g ∈ pages, far g = true → ({ dest := .rank (s.block.ctl.holder (tLayer r) g), msg := .window (ask g) } : Sent) ∈ t.out) ∧
        t.sems = (s.block.signalled x.second r false).sems ∧ t.host = s.block.host ∧ t.flash = s.block.flash ∧
        t.fuses = s.block.fuses) ∧
    (∀ (s : State) (q : WindowReq) (second : Bool), s.block.ctl.servesRank q.toRank = some second →
      let sp : Space := { second := second, cove := none, tlb := [] }
      let as := (upto q.page (q.page + q.pages)).map fun g =>
        ({ va := (s.block.seq q.seq).pageAddr q.layer g, len := 8192, write := false } : Access)
      s.block.firstBad sp as = none →
      Runs (.windowRead q) s (s.block.sending (.rank q.rank) (.windowData (as.flatMap fun a => s.block.readVa sp a.va 8192)))) ∧
    (∀ (s : State) (cove : Fin 512) (n : Fin 4) (x : Ctx), s.block.Runnable cove n opTide x → tMode x.record = 4 →
      s.block.ctl.engine.movers.inbox = [] →
      let r := x.record
      let sp := s.block.tideSpace cove x
      let me := s.block.ctl.rankOf x.second
      let pages := globalPages (s.block.tableOf sp r)
      let va := fun (i : Nat) => (s.block.seq (tSeq r)).pageAddr (tLayer r) (pages.getD i 0)
      let mine := (List.range pages.length).filter fun i => s.block.ctl.holder (tLayer r) (pages.getD i 0) == me
      me ≠ tRoot r → s.block.firstBad sp ({ va := u64 r 192, len := 8 + 8 * (s.block.natVa sp (u64 r 192) 8 % 65536), write := false } ::
        mine.map fun i => { va := va i, len := 8192, write := false }) = none →
      Yields (.tideGlobal cove n) s fun t =>
        s.block.OneCove t cove ((s.block.ctl.cove cove).setCtx n (some { x with begun := true })) ∧ t.sems = s.block.sems ∧ t.mem = s.block.mem ∧
        t.host = s.block.host ∧ ∀ i ∈ mine, ∃ bs, ({ dest := .rank (tRoot r), msg := .global (.page (tRoot r) (tSeq r) (tLayer r) i bs) } : Sent) ∈ t.out) ∧
    (∀ (s : State) (toRank q l root : Nat) (bs : List Segment) (c n : Nat) (x : Ctx), segmentsOk bs = true →
      s.block.tideStep toRank 4 (fun _ x => isGlobal toRank x.record (.global (.cache toRank q l root bs))) = some (c, n, x) → n < 4 →
      (s.block.ctl.cove c).ctx n = some x → s.block.ctl.engine.movers.inbox = [] →
      let sp := s.block.tideSpace c x
      s.block.firstBad sp [{ va := u64 x.record 200, len := (joined bs).length, write := true }] = none →
      Yields (.globalPage (.cache toRank q l root bs)) s fun t =>
        (t.ctl.cove c).ctx n = none ∧ t.mem = ((writeVa sp (u64 x.record 200) (joined bs)).run s.block).mem ∧ t.ctl.engine.movers.inbox = [] ∧
        (∀ k ∈ treeChildren s.block.ctl.jobP toRank root, ({ dest := .rank k.2, msg := .global (.cache k.2 q l root bs) } : Sent) ∈ t.out) ∧
        t.sems = (((tideSignal x 180 0 false).run s.block).signalled x.second x.record false).sems ∧ t.host = s.block.host)) ∧
  ((∀ (s : State) (toRank step dir : Nat) (die : Fin 2) (c n : Nat) (x : Ctx),
      s.block.tideStep toRank 0 (fun c x => !x.rxDone && dieOf c == die.val && tStep x.record == step && tDir x.record == dir) = some (c, n, x) → n < 4 →
      (s.block.ctl.cove c).ctx n = some x → x.txDone = false →
      Yields (.poisonNotice (.piece toRank die step dir)) s fun t =>
        (t.ctl.cove c).ctx n = some { x with rxDone := true } ∧ t.sems = ((tideSignal x 134 (u8 x.record 133) true).run s.block).sems ∧
        t.mem = s.block.mem ∧ t.host = s.block.host ∧ t.out = s.block.out ∧ t.arb = s.block.arb) ∧
    (∀ (s : State) (toRank step dir : Nat) (die : Fin 2),
      s.block.tideStep toRank 0 (fun c x => !x.txDone && isGrant toRank (dieOf c) x.record (.poison (.grant toRank die step dir))) = none →
      Yields (.poisonNotice (.grant toRank die step dir)) s fun t =>
        t.ctl.engine.movers.inbox = s.block.ctl.engine.movers.inbox ++ [.poison (.grant toRank die step dir)] ∧
        t.ctl.engine.coves = s.block.ctl.engine.coves ∧ s.block.SameOutside t) ∧
    (∀ (s : State) (q : ResendOf) (m : Sent), s.block.out.find? (isResent q) = some m → Runs (.resendRequest q) s (s.block.sending m.dest m.msg)))

/-! ## Longshore -/

/-- LOOP, WAIT, SIGNAL and STOPPT of a channel program (R254, R255, R264, R265, R273, R282).  XFER starts its program on an idle channel of its engine when no XFER whose waits were met before it is ahead; while a stop of the plan
channels is in effect it ends at once, poisoned; END makes the channel idle, once the last lines read back as they were written, and the
XFER signals (R97, R264, R266, R268, R273). -/
def Obligations.TransfersAndChannels : Prop :=
  ((∀ (s : State) (e : Fin 40) (ch : Fin 32) (c : Channel) (i : Bytes), s.block.Stands e ch 3 c i →
      Yields (.loop e ch) s fun t => s.block.SameOutside t ∧ s.block.OneChan t e ch
        (if c.iter + 1 < bits (u32 i 4) 23 0 then
          { c with iter := c.iter + 1, instr := ((c.instr : Int) + s32 i 8).toNat, done := 0, retries := 0, bound := false }
         else { c with iter := 0, instr := c.instr + 1, done := 0, retries := 0, bound := false })) ∧
    (∀ (s : State) (e : Fin 40) (ch : Fin 32) (c : Channel) (i : Bytes), s.block.Stands e ch 4 c i → c.stop = false → fwChannel e ch = false →
      let w := s.block.sem (semIn c.second (bits (u16 i 4) 14 0))
      let next : Channel := { c with instr := c.instr + 1, done := 0, retries := 0, bound := false }
      (semPoisoned w = false →
        Yields (.lsWait e ch) s fun t => s.block.SameOutside t ∧ s.block.OneChan t e ch (if lsThresh i c.iter ≤ semCount w then next else c)) ∧
      (∀ x, semPoisoned w = true → c.ctx < 4 → (s.block.ctl.cove c.cove).ctx c.ctx = some x → s.block.StaysInJob e ch →
        Yields (.lsWait e ch) s fun t =>
          t.ctl.chan e ch = Channel.idle ∧ (t.ctl.cove c.cove).ctx c.ctx = none ∧ t.arb = s.block.arb ∧ t.mem = s.block.mem)) ∧
    (∀ (s : State) (e : Fin 40) (ch : Fin 32) (c : Channel) (i : Bytes), s.block.Stands e ch 5 c i → bits (u8 i 1) 2 1 = 0 →
      fwChannel e ch = false → c.last.find? (fun l => !s.block.lineHolds l) = none →
      let sem := semIn c.second (bits (u16 i 4) 14 0)
      let n := bits (u32 i 8) 30 0
      Yields (.lsSignal e ch) s fun t =>
        (∀ k, k ≠ sem → t.sem k = s.block.sem k) ∧ t.mem = s.block.mem ∧ t.host = s.block.host ∧
        t.out = ((placeLoads (c.last.map fun l => { at' := l.unit, addr := l.addr / 64 * 64, len := 64 })).run s.block).out ∧
        t.ctl.chan e ch = { c with last := [], instr := c.instr + 1, done := 0, retries := 0, bound := false } ∧
        t.sem sem = if bit (u8 i 1) 0 then semWord (semCount (s.block.sem sem)) true else semSignal (s.block.sem sem) n) ∧
    (∀ (s : State) (e : Fin 40) (ch : Fin 32) (c : Channel) (i : Bytes), s.block.Stands e ch 6 c i → fwChannel e ch = false →
      (c.stop = false → Yields (.stoppt e ch) s fun t => s.block.SameOutside t ∧
        s.block.OneChan t e ch { c with instr := c.instr + 1, done := 0, retries := 0, bound := true }) ∧
      (∀ x, c.stop = true → c.ctx < 4 → (s.block.ctl.cove c.cove).ctx c.ctx = some x → s.block.StaysInJob e ch →
        Yields (.stoppt e ch) s fun t =>
          t.ctl.chan e ch = Channel.idle ∧ (t.ctl.cove c.cove).ctx c.ctx = none ∧ t.mem = s.block.mem ∧ t.host = s.block.host))) ∧
  ((∀ (s : State) (cove : Fin 512) (n : Fin 4) (x : Ctx), s.block.Runnable cove n opXfer x →
      let e := u8 x.record 104
      let ch := u8 x.record 105
      (s.block.ctl.job.stopChans = false → (s.block.ctl.chan e ch).state = .idle → s.block.ctl.xferAhead x = false →
        Yields (.xfer cove n) s fun t =>
          t.ctl.chan e ch = { Channel.idle with state := .run, cove := cove.val, ctx := n.val, second := x.second, prog := u64 x.record 112,
                                                  bound := true } ∧
          (t.ctl.cove cove).ctx n = some { x with begun := true } ∧ (∀ k, (k / 32, k % 32) ≠ (e, ch) → ch < 32 →
            Tab.get Channel.idle t.ctl.engine.ls.chans k = Tab.get Channel.idle s.block.ctl.engine.ls.chans k) ∧ s.block.SameOutside t) ∧
      (s.block.ctl.job.stopChans = true →
        Yields (.xfer cove n) s fun t =>
          (t.ctl.cove cove).ctx n = none ∧ (∀ g ∈ recSignals x.record, bit g 19 = false → semPoisoned (t.sem (semIn x.second (entrySem g))) = true) ∧
          t.mem = s.block.mem ∧ t.host = s.block.host ∧ t.fuses = s.block.fuses)) ∧
    (∀ (s : State) (e : Fin 40) (ch : Fin 32) (c : Channel) (i : Bytes) (x : Ctx), s.block.Stands e ch 7 c i → c.ctx < 4 →
      (s.block.ctl.cove c.cove).ctx c.ctx = some x → s.block.StaysInJob e ch → c.last.find? (fun l => !s.block.lineHolds l) = none →
      Yields (.endProgram e ch) s fun t =>
        t.ctl.chan e ch = Channel.idle ∧ (t.ctl.cove c.cove).ctx c.ctx = none ∧ t.sems = (s.block.signalled x.second x.record false).sems ∧
        t.mem = s.block.mem ∧ t.host = s.block.host ∧ t.fuses = s.block.fuses))

/-- A MOVE of one tile without SWAP between two places that do not overlap writes the source's bytes there and goes on; an MCAST of one tile to one
receiver on another module sends it the tile, reads back its last line and signals it (R257 to R261, R264, R275, R276).  A bus error with retries left is counted in LS_RETRY and recorded against the channel that serves the number, and the tile goes again,
its source read again; a read-back that does not match is one on the tile that wrote the line; a requested stop takes effect on a halted
channel, at a WAIT and at a descriptor boundary; a receiver that outlasts PATIENCE is ejected with its event and poison (R263, R264, R270,
R273, R277, R402; where a bus error stands among the tiles: log 65). -/
def Obligations.ChannelMovesAndErrors : Prop :=
  ((∀ (s : State) (e : Fin 40) (ch : Fin 32) (tiles : Option Nat) (c : Channel) (i : Bytes) (p d : LsPlace), s.block.Stands e ch 1 c i →
      tiles ≠ some 0 → c.stop = false → c.done = 0 → fwChannel e ch = false →
      let sa := lsDesc c.prog i 8
      let da := lsDesc c.prog i 12
      s.block.firstBad c.space [{ va := sa, len := 64, write := false }, { va := da, len := 64, write := false }] = none →
      let src := s.block.readVa c.space sa 64
      let dst := s.block.readVa c.space da 64
      let len := streamLen dst
      0 < len → len ≤ tileBytes → bits (u8 i 1) 1 0 = 0 → s.block.tileBad e ch c i src dst 0 len = none →
      (descRanges src c.iter 0 len).flatMap (s.block.places c.second src false) = [p] → s.block.receiverPlaces c dst 0 len (.here c.second) = [d] →
      p.len = len → d.len = len → (p.at' ≠ d.at' ∨ p.addr + len ≤ d.addr ∨ d.addr + len ≤ p.addr) →
      Yields (.move e ⟨ch, tiles⟩) s fun t =>
        (d.at' = s.block.slot → t.mem = s.block.mem.write d.addr (s.block.placeBytes p) ∧ t.host = s.block.host ∧ t.flash = s.block.flash) ∧
        (d.at' = placeHost → t.host = s.block.host.write d.addr (s.block.placeBytes p) ∧ t.mem = s.block.mem ∧ t.flash = s.block.flash) ∧
        (d.at' = placeFlash → t.flash = s.block.flash.write d.addr (s.block.placeBytes p) ∧ t.mem = s.block.mem ∧ t.host = s.block.host) ∧
        (t.ctl.chan e ch).instr = c.instr + 1 ∧ (t.ctl.chan e ch).done = 0 ∧ (t.ctl.chan e ch).state = .run ∧ (t.ctl.chan e ch).bound = true ∧
        Tab.get 0 t.ctl.engine.ls.counters (e.val * 4) = (Tab.get 0 s.block.ctl.engine.ls.counters (e.val * 4) + len) % 2 ^ 48 ∧
        t.sems = s.block.sems ∧ t.arb = s.block.arb ∧ t.fuses = s.block.fuses) ∧
    (∀ (s : State) (e : Fin 40) (ch : Fin 32) (tiles : Option Nat) (c : Channel) (i : Bytes) (k a : Nat), s.block.Stands e ch 2 c i → 32 ≤ e.val →
      tiles ≠ some 0 → c.stop = false → c.done = 0 → c.last = [] → fwChannel e ch = false → mcastSlots c i = [k] → k ≠ s.block.slot →
      s.block.ctl.pair.rank2 = none →
      let sa := lsDesc c.prog i 8
      let da := lsDesc c.prog i 12
      s.block.firstBad c.space [{ va := sa, len := 64, write := false }, { va := da, len := 64, write := false }] = none →
      let src := s.block.readVa c.space sa 64
      let dst := s.block.readVa c.space da 64
      let len := streamLen dst
      0 < len → len ≤ tileBytes → bits (u8 i 1) 1 0 = 0 → s.block.tileBad e ch c i src dst 0 len = none → descRanges dst c.iter 0 len = [(a, len)] →
      let sources := (descRanges src c.iter 0 len).flatMap (s.block.places c.second src false)
      let bytes := sources.flatMap s.block.placeBytes
      bytes.length = len → (∀ p ∈ sources, p.at' = s.block.slot ∨ p.at' = placeFlash ∨ p.at' = placeHost) →
      let r := s.block.ctl.rankOnSlot k
      Yields (.mcast e ⟨ch, tiles⟩) s fun t =>
        t.out =
          { dest := .slot (if r < s.block.ctl.jobP then s.block.ctl.slotOfRank r else k),
            msg := .request (remoteSignal r (bits (u16 i 4) 14 0) 1 false) } ::
          { dest := .rank r, msg := .request (.rankLoad r s.block.ctl.rank ((a + len - 1) / 64 * 64) 64) } ::
          { dest := .rank r, msg := .request (.rankStore r s.block.ctl.rank a bytes) } :: s.block.out ∧
        (t.ctl.chan e ch).instr = c.instr + 1 ∧ (t.ctl.chan e ch).last = [] ∧ t.mem = s.block.mem ∧ t.host = s.block.host ∧ t.sems = s.block.sems ∧
        t.arb = s.block.arb)) ∧
  ((∀ (s : State) (e : Fin 40) (ch : Fin 32) (kind : BusErr) (addr : Nat) (c : Channel), s.block.ctl.chan e ch = c → c.state = .run →
      ch.val < engineChans e → fwChannel e ch = false → s.block.ctl.job.stopping = none →
      let u : UnitRef := { cls := 8, number := s.block.ctl.engine.ls.server (chKey e ch), row := 0, bank := 0 }
      (inWindow s.block.ctl.window s.block.lhTime (Tab.get [] s.block.ctl.health.transient (unitKey u))).length < s.block.ctl.thresh →
      countIf (fun x => x.kind != 2) s.block.ctl.health.history < 1024 →
      let i := s.block.lsInstr c.space c.prog c.instr
      let record := fun (at' : Nat) => ({ time := s.block.lhTime, cls := 8, kind := 0, unit := u.number, detail := at' } : ErrRec)
      let counted := fun (t : Block) (at' : Nat) =>
        Tab.get 0 t.ctl.engine.ls.counters (e.val * 4 + 2) = (Tab.get 0 s.block.ctl.engine.ls.counters (e.val * 4 + 2) + 1) % 2 ^ 48 ∧
        t.ctl.health.history = s.block.ctl.health.history ++ [record at'] ∧ t.ctl.health.spares = s.block.ctl.health.spares
      ((∀ target, kind ≠ .readBack target) → c.retries < s.block.ctl.plan.retryOf e →
        (u8 i 0 ≠ 1 → u8 i 0 ≠ 2 → Yields (.busError e ch kind addr) s fun t =>
          t.ctl.chan e ch = { c with retries := c.retries + 1 } ∧ counted t addr ∧ s.block.SameOutside t) ∧
        (∀ off len, u8 i 0 = 1 ∨ u8 i 0 = 2 →
          s.block.firstBad c.space [{ va := lsDesc c.prog i 8, len := 64, write := false }, { va := lsDesc c.prog i 12, len := 64, write := false }] = none →
          let src := s.block.readVa c.space (lsDesc c.prog i 8) 64
          let dst := s.block.readVa c.space (lsDesc c.prog i 12) 64
          (tilesLeft c dst).head? = some (off, len) → s.block.tileBad e ch c i src dst off len = none →
          let b := s.block.issued e ch c i src dst off len
          Yields (.busError e ch kind addr) s fun t =>
            (t.ctl.chan e ch).retries = c.retries + 1 ∧ (t.ctl.chan e ch).done = c.done ∧ (t.ctl.chan e ch).instr = c.instr ∧ counted t addr ∧
            t.mem = b.mem ∧ t.host = b.host ∧ t.flash = b.flash ∧ t.out = b.out ∧ t.sems = s.block.sems ∧ t.arb = s.block.arb)) ∧
      (∀ target l, kind = .readBack target → c.last.find? (fun x => x.unit == target) = some l → l.retries < s.block.ctl.plan.retryOf e →
        let j := s.block.lsInstr c.space c.prog l.instr
        s.block.firstBad c.space [{ va := lsDesc c.prog j 8, len := 64, write := false }, { va := lsDesc c.prog j 12, len := 64, write := false }] = none →
        let src := s.block.readVa c.space (lsDesc c.prog j 8) 64
        let dst := s.block.readVa c.space (lsDesc c.prog j 12) 64
        let len := min tileBytes (streamLen dst - l.off)
        let at' : Channel := { c with instr := l.instr, iter := l.iter }
        s.block.tileBad e ch at' j src dst l.off len = none →
        let b := s.block.issued e ch at' j src dst l.off len
        Yields (.busError e ch kind addr) s fun t =>
          (t.ctl.chan e ch).retries = c.retries ∧ (t.ctl.chan e ch).done = c.done ∧ (t.ctl.chan e ch).instr = c.instr ∧ counted t l.addr ∧
          t.mem = b.mem ∧ t.host = b.host ∧ t.flash = b.flash ∧ t.out = b.out ∧ t.sems = s.block.sems ∧ t.arb = s.block.arb)) ∧
    (∀ (s : State) (e : Fin 40) (ch : Fin 32) (c : Channel) (x : Ctx), s.block.ctl.chan e ch = c → c.stop = true →
      (c.state = .haltedFault ∨ (c.state = .run ∧ (c.bound = true ∨ u8 (s.block.lsInstr c.space c.prog c.instr) 0 = 4))) → c.ctx < 4 →
      (s.block.ctl.cove c.cove).ctx c.ctx = some x → s.block.StaysInJob e ch →
      Yields (.channelStop e ch) s fun t =>
        t.ctl.chan e ch = Channel.idle ∧ (t.ctl.cove c.cove).ctx c.ctx = none ∧ (∀ f ∈ t.ctl.fw.faults, f.who ≠ .channel e ch) ∧
        (∀ g ∈ recSignals x.record, bit g 19 = false → semPoisoned (t.sem (semIn x.second (entrySem g))) = true) ∧
        t.mem = s.block.mem ∧ t.host = s.block.host ∧ t.arb = s.block.arb) ∧
    (∀ (s : State) (e : Fin 40) (ch : Fin 32) (slot : Fin 8) (c : Channel) (i : Bytes), s.block.Stands e ch 2 c i → 32 ≤ e.val →
      slot.val ∈ mcastSlots c i →
      Yields (.mcastPatience e ch slot) s fun t =>
        t.ctl.chan e ch = { c with ejected := c.ejected ||| BitVec.ofNat 8 (2 ^ slot.val), fault := none } ∧
        s.block.Raised t 0x0500 (src 3 (chKey e ch)) (min (ceilDiv c.done tileBytes) (2 ^ 32 - 1) * 2 ^ 32 + bits (u16 i 4) 14 0 * 2 ^ 16 +
          slot.val * 2 ^ 13 + ch.val * 2 ^ 8 + e.val) ∧
        Tab.get 0 t.ctl.engine.ls.counters (e.val * 4 + 3) = (Tab.get 0 s.block.ctl.engine.ls.counters (e.val * 4 + 3) + 1) % 2 ^ 48 ∧
        t.mem = s.block.mem ∧ t.host = s.block.host))

/-! ## Errors and retirement -/

/-- Errors of memory: a line that ECC corrects, on a read or at patrol, is counted in its unit; a lagoon line whose second read is good is charged
alone; one that fails twice halts its reader, is written from a good copy and charged to its unit, and the reader goes on; units below their
ageing mark are planned; the hour's corrections are reported once (R220, R224, R226, R241, R242, R402, R403, R410, R411). -/
def Obligations.MemoryErrors : Prop :=
  (∀ (s : State) (l : BadLine) (u : UnitRef) (bs : Bytes), s.block.ctl.awake = true → l.outcome = .lost →
    (∀ who, l.reader = some who → s.block.ctl.reads who = false) →
    let a := l.addr / 64 * 64
    backed s.block.fuses.twoTiB a = true → s.block.lineUnit a l.row l.bank = some u →
    (s.block.backingLine a = some bs ∨ (s.block.backingLine a = none ∧ l.good = some bs)) →
    (s.block.chargeTimes u).length < s.block.ctl.thresh →
    Runs (.uncorrectableError l) s ((s.block.wrote a ((bs ++ zeroBytes 64).take 64)).withHealth fun h =>
      h.charged s.block.lhTime u (s.block.chargeTimes u) a)) ∧
  (∀ (s : State) (l : BadLine) (who : Faulter), s.block.ctl.awake = true → l.outcome = .lost → l.reader = some who → s.block.ctl.reads who = true →
    backed s.block.fuses.twoTiB (l.addr / 64 * 64) = true →
    let f : XFault := { id := s.block.ctl.fw.nextId, who := who, vaddr := 0, write := false, second := s.block.ctl.secondOf who, line := some l }
    Yields (.uncorrectableError l) s fun t =>
      t.ctl.fw = { s.block.ctl.fw with nextId := s.block.ctl.fw.nextId + 1, faults := s.block.ctl.fw.faults ++ [f] } ∧ t.ctl.halted f = true ∧
      t.ctl = { s.block.ctl with fw := t.ctl.fw, engine := t.ctl.engine } ∧ s.block.SameOutside t) ∧
  (∀ (s : State) (f : XFault) (l : BadLine) (u : UnitRef) (bs : Bytes), s.block.ctl.awake = true →
    s.block.ctl.fw.faults.find? (fun x => x.id == f.id) = some f → f.line = some l → s.block.ctl.halted f = true → (∀ k, f.who ≠ .remote k) →
    let a := l.addr / 64 * 64
    s.block.lineUnit a l.row l.bank = some u → (s.block.backingLine a = some bs ∨ (s.block.backingLine a = none ∧ l.good = some bs)) →
    (s.block.chargeTimes u).length < s.block.ctl.thresh →
    Yields (.faultResolve f.id) s fun t =>
      t.ctl.health = s.block.ctl.health.charged s.block.lhTime u (s.block.chargeTimes u) a ∧ t.ctl.reads f.who = true ∧
      t.ctl.fw = { s.block.ctl.fw with faults := s.block.ctl.fw.faults.filter fun x => x.id != f.id } ∧
      t.ctl = { s.block.ctl with fw := t.ctl.fw, engine := t.ctl.engine, health := t.ctl.health } ∧
      (s.block.wrote a ((bs ++ zeroBytes 64).take 64)).SameOutside t) ∧
  (∀ (s : State) (l : BadLine) (u : UnitRef), s.block.ctl.awake = true → l.outcome = .reread →
    let a := l.addr / 64 * 64
    backed s.block.fuses.twoTiB a = true → s.block.lineUnit a l.row l.bank = some u → u.cls = 1 →
    (s.block.chargeTimes u).length < s.block.ctl.thresh →
    Runs (.uncorrectableError l) s (s.block.withHealth fun h => h.charged s.block.lhTime u (s.block.chargeTimes u) a)) ∧
  (∀ (s : State) (l : BadLine) (u : UnitRef), s.block.ctl.awake = true → l.outcome = .corrected →
    backed s.block.fuses.twoTiB (l.addr / 64 * 64) = true → s.block.lineUnit (l.addr / 64 * 64) l.row l.bank = some u →
    Counts (.uncorrectableError l) s u l.device) ∧
  (∀ (s : State) (line rank device : Nat) (u : UnitRef), s.block.ctl.awake = true →
    ((∃ die, region s.block.fuses.twoTiB (line * 64) = .hbm die) ∨ region s.block.fuses.twoTiB (line * 64) = .ddr) →
    s.block.lineUnit (line * 64) rank 0 = some u → Counts (.patrolScrub line ⟨rank, device⟩ true) s u device) ∧
  (∀ (s : State) (below : List UnitRef), s.block.ctl.awake = true →
    Yields (.ageingSample below) s fun t =>
      (∀ u ∈ below, ∃ p ∈ t.ctl.health.planned, p.1 = u) ∧ (∀ p ∈ s.block.ctl.health.planned, p ∈ t.ctl.health.planned) ∧
      (∀ p ∈ t.ctl.health.planned, p ∈ s.block.ctl.health.planned ∨ (p.1 ∈ below ∧ p.2 = 2)) ∧
      t = s.block.withHealth fun h => { h with planned := t.ctl.health.planned }) ∧
  ∀ s : State, s.block.ctl.health.hour ≠ [] → s.block.ctl.health.hourAt + hourNs ≤ s.block.lhTime →
    Runs .correctedSummary s ((s.block.accept 0x0202 0 s.block.ctl.health.summary).withHealth fun h =>
      { h with hour := [], hourAt := s.block.lhTime })

/-- Retirement: a cove's transient error runs its work again, a permanent one puts the spare in its place; a planned unit goes when no step
runs; an HBM4 copy ends in one switch; a core that expires is replaced; the store takes a whole snapshot; a rewritten flash channel is done
(R57, R401, R404, R407 to R409, R431). -/
def Obligations.Retirements : Prop :=
  (∀ (s : State) (cove : Fin 544) (c : Nat),
    let u : UnitRef := { cls := 0, number := cove.val, row := 0, bank := 0 }
    s.block.ctl.awake = true → s.block.ctl.health.spares.badCoves.contains cove.val = false →
    s.block.ctl.health.spares.logicalOf cove.val = some c → (s.block.chargeTimes u).length < s.block.ctl.thresh →
    Yields (.coveError cove false) s fun t =>
      t.ctl.health = s.block.ctl.health.charged s.block.lhTime u (s.block.chargeTimes u) 0 ∧ s.block.SameOutside t ∧
      (∀ k x, (s.block.ctl.cove c).ctx k = some x → (t.ctl.cove c).ctx k = some
        (if rOp x.record = opTide then { x with fault := none }
         else { x with pos := 0, accs := [], started := false, staging := .none, tailSeq := 0, begun := false, poisoned := false, fault := none })) ∧
      (∀ k, (t.ctl.cove c).thread k = Thread.idle) ∧
      (∀ k, let ch := Tab.get Channel.idle t.ctl.engine.ls.chans k; ch.state = .idle ∨ ch.cove ≠ c) ∧
      (∀ d, d ≠ c → t.ctl.cove d = s.block.ctl.cove d) ∧ t.ctl.hif = s.block.ctl.hif ∧ t.ctl.job = s.block.ctl.job) ∧
  (∀ (s : State) (cove : Fin 544) (c : Nat), s.block.ctl.awake = true → s.block.ctl.health.spares.badCoves.contains cove.val = false →
    (∀ q ∈ s.block.ctl.health.spares.badCoves, bayOf q ≠ bayOf cove.val) → s.block.ctl.health.spares.logicalOf cove.val = some c →
    Yields (.coveError cove true) s fun t =>
      (let m := s.block.ctl.health.spares
       t.ctl.health.spares = { m with badCoves := cove.val :: m.badCoves, coves := Tab.set 0 m.coves c 17 }) ∧
      t.ctl.health.wanted = true ∧ s.block.arb.next < t.arb.next ∧
      (∃ r ∈ t.ctl.health.history, r.cls = 0 ∧ r.kind = 2 ∧ r.unit = cove.val ∧ r.time = s.block.lhTime) ∧
      t.host = s.block.host ∧ t.flash = s.block.flash ∧ t.sems = s.block.sems ∧ t.fuses = s.block.fuses ∧ t.ctl.hif = s.block.ctl.hif) ∧
  (∀ (s : State) (u : UnitRef) (reason : Nat), s.block.ctl.job.pass = none →
    s.block.ctl.health.planned.find? (fun p => p.1 == u) = some (u, reason) → u.cls = 4 →
    s.block.ctl.health.spares.ddr.contains u.number = false →
    Yields (.plannedRetirement u) s fun t =>
      t.ctl.health.planned = s.block.ctl.health.planned.filter (fun q => q.1 != u) ∧
      t.ctl.health.spares = { s.block.ctl.health.spares with ddr := u.number :: s.block.ctl.health.spares.ddr } ∧
      t.ctl.health.wanted = true ∧ s.block.arb.next < t.arb.next ∧ s.block.SameData t ∧ t.out = s.block.out) ∧
  (∀ (s : State) (stack : Fin 8) (u reason : Nat),
    s.block.ctl.health.copying.find? (fun x => x.1 / 32 == stack.val) = some (u, reason) →
    Yields (.hbmSpareCopy stack) s fun t =>
      t.ctl.health.copying = s.block.ctl.health.copying.filter (fun x => x.1 != u) ∧
      (let m := s.block.ctl.health.spares
       t.ctl.health.spares = { m with badHbm := u :: m.badHbm, hbm := Tab.set 0 m.hbm (stack.val * 31 + u % 32) 31 }) ∧
      t.ctl.health.wanted = true ∧ s.block.arb.next < t.arb.next ∧ s.block.SameData t ∧ t.out = s.block.out) ∧
  (∀ (s : State) (core : Fin 8), s.block.ctl.awake = true → (∀ x ∈ s.block.ctl.health.spares.cores, x / 4 ≠ core.val / 4) →
    Yields (.watchdogExpiry core) s fun t =>
      t.ctl.health.spares = { s.block.ctl.health.spares with cores := core.val :: s.block.ctl.health.spares.cores } ∧
      t.ctl.health.wanted = true ∧ s.block.arb.next < t.arb.next ∧ s.block.SameData t ∧ t.out = s.block.out) ∧
  (∀ s : State, s.block.ctl.awake = true → s.block.ctl.storeTaken = true → s.block.ctl.health.wanted = true →
    Runs .snapshotWrite s { s.block with ctl := s.block.ctl.store s.block.lhTime } ∧
    (s.block.ctl.store s.block.lhTime).health.wanted = false ∧
    ∃ n dev, (s.block.ctl.store s.block.lhTime).health.newest = some (n, dev) ∧ n.spares = s.block.ctl.health.spares ∧
      n.errors = s.block.ctl.health.history ∧ n.conf.monClass = s.block.ctl.power.monClass) ∧
  ∀ (s : State) (ch : Fin 16),
    Runs (.stripeRewrite ch) s (s.block.withHealth fun h => { h with rewriting := h.rewriting.filter fun x => x != ch.val })

/-! ## Links -/

/-- Training and identities: a failed step waits 100 ms; a trained link holds its peer and is judged; a retry starts again; a later record
lifts a quarantine; LNK_CTRL disables, releases and retrains (R312 to R317, R479). -/
def Obligations.LinksTrain : Prop :=
  (∀ (s : State) (n : Fin 96) (k : Fin 10), s.block.mayTrain n.val = true →
    let cause := if k.val = 2 then 4 else 3
    Runs (.linkTrain n (.failed k)) s ((((s.block.withLink n.val fun l => { (l.enter .training) with retrain := false }).withLink n.val fun l =>
      { (l.cleared.enter .down) with retryAt := s.block.lhTime + 100000000, lastCause := cause })).accept 0x0101 (linkSource n.val)
        ((if k.val = 2 then 0 else k.val) * 65536 + cause))) ∧
  (∀ (s : State) (n : Fin 96) (r : IdRec), s.block.mayTrain n.val = true →
    Yields (.linkTrain n (.trained r)) s fun t =>
      let l := t.ctl.link n.val
      l.peer = some r ∧ l.lastPeer = r.serial ∧ l.retryAt = 0 ∧ l.retrain = false ∧ s.block.OtherLinks t n.val ∧ s.block.SameData t ∧
      (s.block.judge n.val r ≠ .pass → t.out = { dest := .link n.val, msg := .identity (idBytes (s.block.ownId n.val)) } :: s.block.out) ∧
      ({ dest := .link n.val, msg := .identity (idBytes (s.block.ownId n.val)) } : Sent) ∈ t.out ∧
      (s.block.judge n.val r = .up → l.state = .up ∧ l.lanes = lanesOf n.val (s.block.ctl.link n.val).retired ∧ l.version = commonVersion r) ∧
      (s.block.judge n.val r = .pass → l.state = .pass ∧ l.version = commonVersion r ∧
        ∀ p m, s.block.ctl.links.fabric.passOf n.val = some (p, m) → m ≠ n.val → (s.block.ctl.link m).state = .pass →
          ({ dest := .link m, msg := .identity (idBytes { r with role := 2, transit := s.block.fuses.serial.toNat }) } : Sent) ∈ t.out) ∧
      (s.block.judge n.val r = .quarantine → l.state = .quarantined ∧
        s.block.Raised t 0x0102 (linkSource n.val) (r.serial % 2 ^ 32 * 2 ^ 32 + s.block.ctl.links.fabric.expected s.block.slot n.val % 2 ^ 32)) ∧
      (s.block.judge n.val r = .version → l.state = .versionDown ∧ s.block.arb.next < t.arb.next)) ∧
  (∀ (s : State) (n : Fin 96), let l := s.block.ctl.link n.val
    s.block.ctl.linksAlive = true → l.disable = false → l.state = .down → l.retryAt ≠ 0 → l.retryAt ≤ s.block.lhTime →
    Runs (.trainingRetry n) s (s.block.withLink n.val fun l =>
      { (l.enter .training) with retryAt := 0, trainFails := (l.trainFails + 1) % 2 ^ 48 })) ∧
  (∀ (s : State) (n : Fin 96) (r : IdRec), (s.block.ctl.link n.val).state = .quarantined → s.block.judge n.val r = .up →
    s.block.ctl.links.fabric.passOf n.val = none →
    Yields (.identityRecord n r) s fun t =>
      (t.ctl.link n.val).state = .up ∧ (t.ctl.link n.val).peer = some r ∧ s.block.arb.next < t.arb.next ∧ s.block.OtherLinks t n.val ∧
      s.block.SameData t ∧ t.out = s.block.out) ∧
  (∀ (s : State) (n : Fin 96) (r : IdRec) (p : PassEntry) (m : Nat), (s.block.ctl.link n.val).state = .pass → s.block.judge n.val r = .pass →
    s.block.ctl.links.fabric.passOf n.val = some (p, m) → (s.block.ctl.link m).state = .pass →
    Runs (.identityRecord n r) s ((s.block.withLink n.val fun l => { l with peer := some r, lastPeer := r.serial }).sending (.link m)
      (.identity (idBytes { r with role := 2, transit := s.block.fuses.serial.toNat })))) ∧
  (∀ (s : State) (n : Fin 96) (v : BitVec 64), s.block.ctl.mayWriteCommon false = true → v.getLsbD 0 = true → s.block.ctl.SafeToLose n.val →
    Yields (.lnkDisable 0 n v) s fun t =>
      (t.ctl.link n.val).state = .disabled ∧ (t.ctl.link n.val).disable = true ∧ (t.ctl.link n.val).lanes = 0 ∧ s.block.OtherLinks t n.val ∧
      s.block.SameData t ∧
      ((s.block.ctl.link n.val).state.carries = true →
        s.block.Raised t 0x0101 (linkSource n.val) ((s.block.ctl.link n.val).lanes % 256 * 256 + 7) ∧ (t.ctl.link n.val).lastCause = 7)) ∧
  (∀ (s : State) (n : Fin 96) (v : BitVec 64), s.block.ctl.mayWriteCommon false = true → v.getLsbD 0 = false → v.getLsbD 1 = false →
    (s.block.ctl.link n.val).state = .disabled →
    Runs (.lnkDisable 0 n v) s (s.block.withLink n.val fun l => { (l.enter .down) with disable := false })) ∧
  ∀ (s : State) (n : Fin 96) (v : BitVec 64), s.block.ctl.mayWriteCommon false = true → v.getLsbD 0 = false → v.getLsbD 1 = true →
    s.block.ctl.SafeToLose n.val →
    Yields (.lnkRetrain 0 n v) s fun t =>
      (t.ctl.link n.val).state = .training ∧ (t.ctl.link n.val).disable = false ∧ (t.ctl.link n.val).retrain = true ∧
      (t.ctl.link n.val).retryAt = 0 ∧ s.block.OtherLinks t n.val ∧ s.block.SameData t ∧
      ((s.block.ctl.link n.val).state.carries = true →
        s.block.Raised t 0x0101 (linkSource n.val) ((s.block.ctl.link n.val).lanes % 256 * 256 + 7) ∧ (t.ctl.link n.val).lastCause = 7)

/-- Flits, lanes, signal and cages: a bad flit is answered with NAK and taken by nobody; a good one in order is counted and held, and with the
last of a packet its places are free, its credits owed and the packet delivered; an ACK goes out after a flit; a gap notice skips numbers; a lost
lane narrows the link, keeps its flits and sends them again; lost signal takes it down; a reading of a cage is kept, and an overdrawing module
loses its feed (R308, R309, R318, R319, R321, R322, R325, R326, R329; log 63). -/
def Obligations.FlitsLanesAndCages : Prop :=
  (∀ (s : State) (n : Fin 96) (f : Bytes) (fecOk : Bool), s.block.ctl.linksAlive = true → (s.block.ctl.link n.val).state.carries = true →
    flitOk f fecOk = false →
    Runs (.flitReceive n f fecOk) s ((s.block.withLink n.val fun l => (l.control true).2).sending (.link n.val)
      (.flit ((s.block.ctl.link n.val).control true).1))) ∧
  (∀ (s : State) (n : Fin 96) (f : Bytes) (peer : IdRec), let l := s.block.ctl.link n.val
    let h := flitHead f
    s.block.ctl.linksAlive = true → l.state = .up → l.peer = some peer → flitOk f true = true → h.vc ≠ 7 → h.nak = false → l.waiting = [] →
    h.seq = (l.rxSeq + 1).toNat → l.unacked + 1 < 32 → s.block.ctl.power.state ≠ .idle → s.block.ctl.delivers n.val h.vc = true →
    let k := if h.cvc < 6 then l.credit h.cvc h.cnt else l
    let m : Link := { k with replayBuf := l.replayBuf.filter (fun x => !covered x.seq h.ack), rxSeq := l.rxSeq + 1, unacked := l.unacked + 1,
                             held := l.held.set h.vc (l.held.getD h.vc 0 + 1) }
    let key := bundleKey peer.serial h.vc
    (h.last = false → Runs (.flitReceive n f true) s (s.block.withLink n.val fun _ => m)) ∧
    (h.last = true → Yields (.flitReceive n f true) s fun t =>
      t.ctl.link n.val = m.release h.vc (m.held.getD h.vc 0) ∧
      Tab.get 0 t.ctl.links.bundles.next key = Tab.get 0 s.block.ctl.links.bundles.next key + 1 ∧
      (∀ j, j ≠ key → Tab.get 0 t.ctl.links.bundles.next j = Tab.get 0 s.block.ctl.links.bundles.next j) ∧
      s.block.OtherLinks t n.val ∧ s.block.SameOutside t)) ∧
  (∀ (s : State) (n : Fin 96), s.block.ctl.linksAlive = true → (s.block.ctl.link n.val).state.carries = true →
    0 < (s.block.ctl.link n.val).unacked →
    Runs (.ackTimer n) s ((s.block.withLink n.val fun l => (l.control false).2).sending (.link n.val)
      (.flit ((s.block.ctl.link n.val).control false).1)) ∧ ((s.block.ctl.link n.val).control false).2.unacked = 0) ∧
  (∀ (s : State) (m : GapNotice), m.lost ≠ [] →
    Yields (.gapNotice m) s fun t =>
      (∀ x ∈ m.lost, x < Tab.get 0 t.ctl.links.bundles.next (bundleKey m.peer m.vc.val)) ∧
      (∀ k, k ≠ bundleKey m.peer m.vc.val → Tab.get 0 t.ctl.links.bundles.next k = Tab.get 0 s.block.ctl.links.bundles.next k) ∧
      Tab.get 0 t.ctl.links.bundles.skipped (bundleKey m.peer m.vc.val) =
        Tab.get 0 s.block.ctl.links.bundles.skipped (bundleKey m.peer m.vc.val) + m.lost.length ∧
      t = { s.block with ctl := { s.block.ctl with links := { s.block.ctl.links with bundles := t.ctl.links.bundles } } }) ∧
  (∀ (s : State) (n : Fin 96) (lane : Fin 5), let l := s.block.ctl.link n.val
    let r := l.retired ||| BitVec.ofNat 5 (2 ^ lane.val)
    s.block.ctl.linksAlive = true → l.state.carries = true → l.retired.getLsbD lane.val = false → (n.val < 56 ∨ lane.val < 4) →
    lanesOf n.val r ≠ 0 → (∀ x ∈ l.replayBuf, x.replays + 1 < 8) →
    Yields (.laneLoss n lane) s fun t =>
      let k := t.ctl.link n.val
      k.retired = r ∧ k.lanes = lanesOf n.val r ∧ k.state = l.state ∧ k.txSeq = l.txSeq ∧ k.rxSeq = l.rxSeq ∧
      k.replayBuf = l.replayBuf.map (fun x => { x with replays := x.replays + 1 }) ∧ k.replays = (l.replays + l.replayBuf.length) % 2 ^ 48 ∧
      (∃ new : List Sent, t.out = new ++ s.block.out ∧ new.length = l.replayBuf.length ∧ ∀ x ∈ new, x.dest = .link n.val) ∧
      k.credits = l.credits ∧ k.peer = l.peer ∧ t.ctl.health.spares.lanes = s.block.ctl.health.spares.lanes ++ [n.val * 8 + lane.val] ∧
      s.block.arb.next + 2 ≤ t.arb.next ∧ s.block.OtherLinks t n.val ∧ s.block.SameData { t with fresh := s.block.fresh }) ∧
  (∀ (s : State) (n : Fin 96) (lanes : List (Fin 5)), let l := s.block.ctl.link n.val
    s.block.ctl.linksAlive = true → l.state.carries = true → s.block.ctl.SafeToLose n.val →
    (∃ i : Fin 5, l.retired.getLsbD i.val = false ∧ (n.val < 56 ∨ i.val < 4)) →
    (∀ i : Fin 5, l.retired.getLsbD i.val = false → (n.val < 56 ∨ i.val < 4) → i ∈ lanes) →
    Yields (.signalLoss n lanes) s fun t =>
      (56 ≤ n.val → (t.ctl.link n.val).state = .circuitDown ∧
        (s.block.ctl.inJobLink n.val = false → s.block.Raised t 0x0105 (linkSource n.val) 0) ∧
        (s.block.ctl.inJobLink n.val = true → s.block.arb.next < t.arb.next ∧
          ∃ r ∈ t.ctl.health.history, r.cls = 6 ∧ r.unit / 8 = n.val ∧ r.time = s.block.lhTime)) ∧
      (n.val < 56 → (t.ctl.link n.val).state = .down ∧ (t.ctl.link n.val).lastCause = 5 ∧ s.block.Raised t 0x0101 (linkSource n.val) 5) ∧
      (t.ctl.link n.val).lanes = 0 ∧ s.block.OtherLinks t n.val ∧ s.block.SameData t) ∧
  (∀ (s : State) (cage : Fin 20) (r : CageReading), s.block.ctl.linksAlive = true → r.present = true → r.drawW ≤ 16 →
    (r.passiveCu = true ∨ (r.declaredW ≤ 16 ∧ r.suitable = true ∧ r.alarm = false)) →
    let b : Block := { s.block with ctl := { s.block.ctl with links :=
      { s.block.ctl.links with cages := Tab.set none s.block.ctl.links.cages cage.val (some r) } } }
    Runs (.cageInsert cage r) s b ∧
    ((Tab.get (none : Option CageReading) s.block.ctl.links.cages cage.val).isSome = true → Runs (.cmisPoll cage r) s b)) ∧
  ∀ (s : State) (cage : Fin 20) (r : CageReading), s.block.ctl.linksAlive = true → r.present = true → 16 < r.drawW → r.passiveCu = true →
    s.block.ctl.pins.cageFeed.getLsbD cage.val = true → (s.block.ctl.link (56 + 2 * cage.val)).state = .down →
    (s.block.ctl.link (57 + 2 * cage.val)).state = .down →
    Yields (.cageInsert cage r) s fun t =>
      t.ctl.pins.cageFeed.getLsbD cage.val = false ∧ (∀ k, k < 20 → k ≠ cage.val → t.ctl.pins.cageFeed.getLsbD k = s.block.ctl.pins.cageFeed.getLsbD k) ∧
      s.block.SameOutside t ∧ t.ctl.links.links = s.block.ctl.links.links

/-! ## Power, resets and start-up -/

/-- Readings and trips: a power sample is reported and steps the clocks; a limit that takes effect is reported; a temperature is kept, warns
from its level and trips from its last (at the level itself, but for the inlet: the model's reading, log 38); a leak trips; undervoltage takes
the dies down; removal is served at once where no job runs, and after ten seconds of draining by force (R437 to R440, R443, R450, R451). -/
def Obligations.PowerAndRemoval : Prop :=
  (∀ (s : State) (r : PowerReading), s.block.ctl.powered = true →
    let p : Power := { s.block.ctl.power with inputMv := r.inputMv, inputW := r.inputW, packageW := r.packageW }
    (p.exceeded = [] → Runs (.powerSample r) s (s.block.withPower fun _ => { p with clocksDown := p.limits })) ∧
    (∀ k limit measured, p.exceeded = [(k, limit, measured)] → due (Tab.get 0 p.limitedAt k) s.block.lhTime = true →
      Yields (.powerSample r) s fun t =>
        s.block.Raised t 0x0601 (src 8 0) (limit % 65536 * 2 ^ 48 + measured % 65536 * 2 ^ 32 + k) ∧ t.ctl.power.clocksDown = true ∧
        t.ctl.power.inputW = r.inputW ∧ t.ctl.power.packageW = r.packageW ∧ t.ctl.power.inputMv = r.inputMv ∧
        Tab.get 0 t.ctl.power.limitedAt k = s.block.lhTime + 1 ∧ s.block.SameData t ∧ t.ctl.job = s.block.ctl.job ∧ t.ctl.hif = s.block.ctl.hif)) ∧
  (∀ (s : State) (sensor : Fin 18) (v : BitVec 16) (warn : Int) (limit trip : Option Int), s.block.ctl.powered = true →
    thresholds sensor.val = some (warn, limit, trip) →
    (v.toInt < warn ∨ (sensor.val = 16 ∧ v.toInt = warn) → Yields (.temperatureSample sensor v) s fun t =>
      t.ctl.power.temp sensor.val = v ∧ t.ctl.power.clocksDown = t.ctl.power.limits ∧ s.block.SameOutside t ∧ t.ctl.glb = s.block.ctl.glb ∧
      (8 ≤ sensor.val → sensor.val < 16 → t.ctl.power.refresh2x.getLsbD (sensor.val - 8) = false)) ∧
    (warn < v.toInt ∨ (sensor.val ≠ 16 ∧ v.toInt = warn) → (∀ l, limit = some l → v.toInt < l) → (∀ x, trip = some x → v.toInt < x) →
      due (Tab.get 0 s.block.ctl.power.warnedAt (2 * sensor.val)) s.block.lhTime = true →
      Yields (.temperatureSample sensor v) s fun t =>
        t.ctl.power.temp sensor.val = v ∧
        s.block.Raised t 0x0600 (src 8 0) (v.toNat * 2 ^ 32 + (BitVec.ofInt 16 warn).toNat * 2 ^ 16 + sensor.val * 2 ^ 8 + 1) ∧
        s.block.SameData t ∧ t.ctl.glb = s.block.ctl.glb ∧
        (8 ≤ sensor.val → sensor.val < 16 → t.ctl.power.refresh2x.getLsbD (sensor.val - 8) = decide (warn < v.toInt))) ∧
    (∀ x, trip = some x → x ≤ v.toInt → Yields (.temperatureSample sensor v) s fun t => t.Tripped ∧ s.block.SameData t)) ∧
  (∀ s : State, s.block.ctl.power.state ≠ .off → s.block.ctl.glb.tripped = false →
    Yields .leak s fun t => t.Tripped ∧ t.ctl.pins.leak = true ∧ t.ctl.lh = s.block.ctl.lh.occur flagLeak ∧ s.block.SameData t) ∧
  (∀ s : State, (s.block.ctl.power.state = .run ∨ s.block.ctl.power.state = .idle) →
    Yields .undervoltage s fun t =>
      s.block.DiesReset t ∧ t.ctl.pins.v54 = false ∧ t.ctl.pins.cageFeed = 0 ∧ t.ctl.glb.step = 1 ∧
      t.ctl.lh = s.block.ctl.lh.occur flagUnder ∧ s.block.SameData t ∧ t.out = s.block.out) ∧
  (∀ s : State, s.block.ctl.MayRemove →
    Yields .frontLatch s (fun t => s.block.RemovalServed t 1 ∧ t.ctl.pins.latchOpen = true) ∧
    Yields .attn s (fun t => s.block.RemovalServed t 2 ∧ t.ctl.pins.attn = true) ∧
    (s.block.ctl.mayWriteCommon false = true → Yields (.pwrReqRemove 0) s fun t => s.block.RemovalServed t 3)) ∧
  (∀ (s : State) (r : Removal), s.block.ctl.power.removal = some r →
    Runs .frontLatch s (s.block.withPins fun p => { p with latchOpen := true }) ∧ Runs .attn s (s.block.withPins fun p => { p with attn := true }) ∧
    ∀ port, Runs (.pwrReqRemove port) s s.block) ∧
  ∀ (s : State) (r : Removal), s.block.ctl.power.removal = some r → s.block.ctl.glb.state = .draining → s.block.ctl.pins.removeOk = false →
    (r.draining = true ∨ s.block.ctl.pair.role = .bound) → r.since + 10000000000 ≤ s.block.lhTime →
    Yields .drainTimeout s fun t =>
      t.ctl.pins.removeOk = true ∧ t.ctl.glb.stopped = true ∧ t.ctl.glb.state = .boot ∧ t.ctl.plan = Plan.blank ∧ t.arb = Arbiter.reset ∧
      s.block.SameData t ∧
      t.out = (if s.block.ctl.bound then [{ dest := .partner, msg := .faultNotice none }] else []) ++ s.block.out

/-- The Lighthouse domain: a condition sets and counts its flag, and in STANDBY wakes the module where enabled; a comparator is armed or
fires at once; PERST# lets go and the host sets the port up, with its choice of BAR2's size (log 66); LH_STATUS and LNK_STATUS clear what is
written 1 but what occurs in the same cycle (R12, R217, R304, R443, R444, R478). -/
def Obligations.LighthouseFlags : Prop :=
  (∀ s : State, s.block.ctl.StaysPut flagWakeIn → Runs .wakeIn s (s.block.flagged flagWakeIn)) ∧
  (∀ (s : State) (die : Fin 2), s.block.ctl.StaysPut flagTemp → Runs (.dieTempLevel die) s (s.block.flagged flagTemp)) ∧
  (∀ s : State, s.block.ctl.StaysPut flagV54 → s.block.ctl.pins.v54 = false →
    Runs .v54Arrival s (((s.block.withPins fun p => { p with v54 := true, pwrFault := false, cageFeed := 0xFFFFF }).withGlb fun g =>
      { g with tripped := false }).flagged flagV54)) ∧
  (∀ s : State, s.block.ctl.WakesOn flagWakeIn → Yields .wakeIn s (s.block.Woken · flagWakeIn)) ∧
  (∀ (s : State) (die : Fin 2), s.block.ctl.WakesOn flagTemp → Yields (.dieTempLevel die) s (s.block.Woken · flagTemp)) ∧
  (∀ s : State, s.block.ctl.WakesOn flagV54 → Yields .v54Arrival s (s.block.Woken · flagV54)) ∧
  (∀ (s : State) (port : Fin 2) (bar2 : Fin 10), s.block.ctl.WakesOn flagPcie → s.block.ctl.hasPort (port == 1) = true →
    (if port = 1 then s.block.ctl.pins.perst1 else s.block.ctl.pins.perst0) = true →
    Yields (.perstDeassert ⟨port, bar2⟩) s fun t => s.block.Woken t flagPcie ∧ (if port = 1 then t.ctl.pins.perst1 else t.ctl.pins.perst0) = false ∧
      (t.ctl.hif.hif (port == 1)).bar2Size = 2 ^ (30 + bar2.val)) ∧
  (∀ (s : State) (port : Fin 2) (bar2 : Fin 10), s.block.ctl.power.state ≠ .standby → s.block.ctl.hasPort (port == 1) = true →
    Yields (.perstDeassert ⟨port, bar2⟩) s fun t =>
      (if port = 1 then t.ctl.pins.perst1 else t.ctl.pins.perst0) = false ∧
      t.ctl.hif.hif (port == 1) = { s.block.ctl.hif.hif (port == 1) with bar2Size := 2 ^ (30 + bar2.val) } ∧
      t.ctl = { s.block.ctl with pins := t.ctl.pins, hif := t.ctl.hif } ∧ s.block.SameOutside t) ∧
  (∀ (s : State) (which : Fin 2), let cmp := if which = 1 then s.block.ctl.lh.cmp1 else s.block.ctl.lh.cmp0
    cmp ≠ 0 → cmp.toNat ≤ s.block.lhTime → (if which = 1 then s.block.ctl.lh.fired1 else s.block.ctl.lh.fired0) = false →
    s.block.ctl.StaysPut which.val →
    Runs (.lhTimer which) s ((s.block.withLh fun h => if which = 1 then { h with fired1 := true } else { h with fired0 := true }).flagged which.val)) ∧
  (∀ (s : State) (which : Fin 2) (v : BitVec 64), s.block.ctl.mayWriteCommon false = true → (v = 0 ∨ s.block.lhTime < v.toNat) →
    Runs (.lhCmpWrite 0 which v) s (s.block.withLh fun h =>
      if which = 1 then { h with cmp1 := v, fired1 := false } else { h with cmp0 := v, fired0 := false })) ∧
  (∀ (s : State) (which : Fin 2) (v : BitVec 64), s.block.ctl.mayWriteCommon false = true → v ≠ 0 → v.toNat ≤ s.block.lhTime →
    Runs (.lhCmpWrite 0 which v) s (s.block.withLh fun h =>
      (if which = 1 then { h with cmp1 := v, fired1 := true } else { h with cmp0 := v, fired0 := true }).occur which.val)) ∧
  (∀ (s : State) (v : BitVec 64), s.block.ctl.mayWriteCommon false = true →
    Runs (.statusFlagClear 0 0x5018 v 0) s (s.block.withLh fun h => { h with flags := h.flags &&& ~~~(v.truncate 8) })) ∧
  (∀ (s : State) (v : BitVec 64), s.block.ctl.mayWriteCommon false = true →
    Runs (.statusFlagClear 0 0x5018 v 0x10) s (s.block.withLh fun h =>
      { h with flags := (h.flags &&& ~~~(v.truncate 8)) ||| 0x10, counts := Tab.set 0 h.counts 4 (Tab.get 0 h.counts 4 + 1) })) ∧
  ∀ (s : State) (n : Fin 96) (v : BitVec 64) (landing : BitVec 8), s.block.ctl.mayWriteCommon false = true →
    Runs (.statusFlagClear 0 (statusOffset n.val) v landing) s (s.block.withLink n.val fun l =>
      { l with changed := landing.getLsbD 0 || (l.changed && !v.getLsbD 24), changes := if landing.getLsbD 0 then l.changes + 1 else l.changes })

/-- Resets: a warm reset keeps LH_TIME, the Lighthouse registers and the store; a function-level reset and PERST# of port 1 clear that
port's registers and rings and leave the job and the other port; loss and arrival of aux are power-on resets (R442, R444 to R446). -/
def Obligations.Resets : Prop :=
  (∀ (s : State) (cause : WarmCause), (s.block.ctl.power.state = .run ∨ s.block.ctl.power.state = .idle) → s.block.ctl.glb.tripped = false →
    s.block.ctl.pins.v54 = true →
    Yields (.warmReset cause) s fun t =>
      s.block.DiesReset t ∧ t.ctl.lh = s.block.ctl.lh ∧ s.block.SameData t ∧ t.out = s.block.out ∧ t.ctl.glb.step = 3 ∧
      t.ctl.glb.startedAt = s.block.lhTime ∧ t.ctl.sec.nextBank = s.block.ctl.sec.nextBank) ∧
  (∀ (s : State) (port : Fin 2), s.block.ctl.hasPort (port == 1) = true → s.block.ctl.glb.pcieUp = true →
    Yields (.functionLevelReset port) s fun t =>
      (t.ctl.hif.hif (port == 1)) = { Hif.reset with bar2Size := (s.block.ctl.hif.hif (port == 1)).bar2Size } ∧
      t.ctl.hif.hif (port != 1) = s.block.ctl.hif.hif (port != 1) ∧
      (∀ n, t.ctl.ring n = if s.block.ctl.portOf n != (port == 1) || n == partnerRing || (n == 0 && s.block.ctl.bound) then s.block.ctl.ring n
        else Ring.reset) ∧
      t.ctl.hif.cmds.map Cmd.id = s.block.ctl.hif.cmds.map Cmd.id ∧
      t = { s.block with ctl := { s.block.ctl with hif := t.ctl.hif } }) ∧
  (∀ s : State, s.block.ctl.glb.dualPort = true → s.block.ctl.glb.pcieUp = true →
    Yields .port1Perst s fun t =>
      t.ctl.pins.perst1 = true ∧ t.ctl.hif.port1 = { Hif.reset with bar2Size := s.block.ctl.hif.port1.bar2Size } ∧
      t.ctl.hif.port0 = s.block.ctl.hif.port0 ∧ t.ctl.job = s.block.ctl.job ∧ t.ctl.glb = s.block.ctl.glb ∧ s.block.SameOutside t) ∧
  (∀ s : State, s.block.ctl.power.state = .off →
    Yields .auxArrival s fun t => s.block.PowerLost t ∧ t.ctl = s.block.ctl.powerOn ∧ t.ctl.glb.state = .boot ∧ t.ctl.glb.step = 1 ∧ t.ctl.pins.aux = true) ∧
  (∀ s : State, s.block.ctl.power.state ≠ .off →
    Yields .auxLoss s fun t => s.block.PowerLost t ∧ t.ctl.power.state = .off ∧ t.ctl.pins.aux = false ∧ t.ctl.glb.step = 0 ∧
      t.ctl.health.storeA = s.block.ctl.health.storeA ∧ t.ctl.health.storeB = s.block.ctl.health.storeB ∧
      t.ctl.sec.sel0 = s.block.ctl.sec.sel0 ∧ t.ctl.sec.sel1 = s.block.ctl.sec.sel1)

/-- Start-up (Table 14-9): presence is step 1, pre-charge step 2; a regulator that fails, no bootable bank, and a DDR5 finding stop it in BOOT
with their code; memory comes up blank; the last steps lead to READY with ROLLBACK raised to the lower SVN; twelve seconds stop it
(R4, R221, R222, R448, R449, R457, R458, R460). -/
def Obligations.StartsUp : Prop :=
  (∀ s : State, s.block.ctl.power.state ≠ .off → s.block.ctl.pins.presence = false →
    Runs .presence s ((s.block.withPins fun p => { p with presence := true }).withGlb fun g =>
      { g with startedAt := s.block.lhTime, step := max 1 g.step })) ∧
  (∀ s : State, s.block.ctl.power.state ≠ .off → s.block.ctl.pins.v54 = true →
    Runs .prechargeOk s ((s.block.withPins fun p => { p with prechargeOk := true }).withGlb fun g => { g with step := max 2 g.step })) ∧
  (∀ (s : State) (env : StartEnv), s.block.ctl.pins.aux = true → s.block.ctl.pins.v54 = true → s.block.ctl.pins.prechargeOk = true →
    s.block.ctl.power.state = .run → s.block.ctl.starting = true → env.trip = false →
    let b := s.block.withPins fun p => { p with mainEn := true }
    (s.block.ctl.glb.step ≤ 3 → 3 ≤ env.reached → env.regulators = false →
      Runs (.mainEn env) s ((b.withPins fun p => { p with pwrFault := true }).withGlb fun g => { g with step := 3, bootFault := 1, stopped := true })) ∧
    (s.block.ctl.glb.step ≤ 3 → 5 ≤ env.reached → env.regulators = true → s.block.bankOk false = false → s.block.bankOk true = false →
      Yields (.mainEn env) s fun t =>
        t.ctl.glb.bootFault = 3 ∧ t.ctl.glb.glbOnly = true ∧ t.ctl.glb.pcieUp = true ∧ t.ctl.glb.stopped = true ∧ t.ctl.glb.state = .boot ∧
        t.ctl.pins.mainEn = true ∧ t.ctl.pins.converterOn = true ∧ t.ctl.sec.nextBank = 0 ∧ s.block.SameOutside t) ∧
    (∀ k u, s.block.ctl.glb.step = 6 → 7 ≤ env.reached → ddrFinding s.block.fuses.twoTiB env = some (k, u) →
      Yields (.mainEn env) s fun t =>
        t.ctl.glb = { s.block.ctl.glb with bootFault := k, faultUnit := u, stopped := true, pcieUp := true } ∧ t.ctl.health.wanted = true ∧
        s.block.SameOutside t) ∧
    (∀ d, s.block.ctl.glb.step = 6 → env.reached = 7 → ddrFinding s.block.fuses.twoTiB env = none → env.hbmFail = [] →
      env.dimms.getD 0 none = some d →
      Yields (.mainEn env) s fun t =>
        t.mem = [] ∧ (∀ k, t.sem k = 0) ∧
        t.ctl.glb = { s.block.ctl.glb with ddrRate := d.mts / 100, ddrGib := d.gib, ddrMrdimm := d.mrdimm, step := 7 } ∧
        t.ctl.health = s.block.ctl.health ∧ t.host = s.block.host ∧ t.arb = s.block.arb ∧ t.fuses = s.block.fuses) ∧
    (8 ≤ s.block.ctl.glb.step → s.block.ctl.glb.step ≤ 10 → 11 ≤ env.reached → s.block.ctl.power.removal = none →
      Yields (.mainEn env) s fun t =>
        t.ctl.glb.state = .ready ∧ t.ctl.glb.step = 11 ∧ (s.block.ctl.glb.step ≤ 9 → t.ctl.glb.pcieUp = true) ∧
        t.fuses = { s.block.fuses with rollback := max s.block.fuses.rollback (min (min (s.block.svnOf false) (s.block.svnOf true)) 64) } ∧
        (∀ k, 16256 ≤ k → k < 16320 → t.sem k = 0) ∧ t.mem = s.block.mem ∧ t.host = s.block.host ∧ t.arb = s.block.arb)) ∧
  ∀ s : State, s.block.ctl.starting = true → s.block.ctl.power.state = .run → s.block.ctl.glb.startedAt + 12000000000 ≤ s.block.lhTime →
    Runs .startUpTimeout s (s.block.withGlb fun g => { g with stopped := true })

/-! ## Registers, security and firmware -/

/-- Registers of port 0 that the block alone reads: NEXT_BANK only in BOOT, MON_CLASS with its reserved zeros, a fresh challenge, the result of a
submission, a lock; and a write of BAR0 does what the row for its register does (R471 to R474, R480 to R482). -/
def Obligations.RegistersAndDebug : Prop :=
  (∀ (s : State) (v : BitVec 2), s.block.ctl.mayWriteCommon false = true →
    (s.block.ctl.glb.state = .boot → v ≠ 3 → Runs (.nextBankWrite 0 v) s (s.block.withSec fun c => { c with nextBank := v })) ∧
    ((s.block.ctl.glb.state ≠ .boot ∨ v = 3) → Runs (.nextBankWrite 0 v) s s.block)) ∧
  (∀ (s : State) (v : BitVec 64), s.block.ctl.mayWriteCommon false = true →
    Yields (.monClassWrite 0 v) s fun t =>
      let old := s.block.ctl.power.monClass.toNat
      let new := t.ctl.power.monClass.toNat
      bits new 7 0 = (if bits v.toNat 7 0 = 0 then bits old 7 0 else bits v.toNat 7 0) ∧
      bits new 15 8 = (if bits v.toNat 15 8 = 0 then bits old 15 8 else bits v.toNat 15 8) ∧ new < 2 ^ 16 ∧
      t = s.block.withPower fun p => { p with monClass := t.ctl.power.monClass }) ∧
  (∀ (s : State) (level : BitVec 2), s.block.ctl.mayWriteCommon false = true → (level = 1 ∨ level = 2) → s.block.ctl.sec.fails < 3 →
    Runs (.dbgRequest 0 level) s ({ s.block with fresh := s.block.fresh + 1 }.withSec fun c =>
      { c with nonce := nonceOf s.block.fresh, pending := level.toNat, nonceAt := s.block.lhTime })) ∧
  (∀ s : State, s.block.ctl.mayWriteCommon false = true →
    let c := s.block.ctl.sec
    let failed := fun r => s.block.withSec fun c => { c with result := r, pending := 0, fails := c.fails + 1 }
    (c.pending = 0 → Runs (.dbgSubmit 0) s (s.block.withSec fun c => { c with result := 5, pending := 0 })) ∧
    (c.pending ≠ 0 → c.nonceAt + 60000000000 < s.block.lhTime → Runs (.dbgSubmit 0) s (failed 3)) ∧
    (c.pending = 2 → s.block.lhTime ≤ c.nonceAt + 60000000000 → s.block.ctl.glb.state = .running → Runs (.dbgSubmit 0) s (failed 4)) ∧
    (c.pending ≠ 0 → s.block.lhTime ≤ c.nonceAt + 60000000000 → (s.block.ctl.glb.state = .boot ∨ s.block.ctl.glb.state = .ready) →
      Runs (.dbgSubmit 0) s (if s.block.debugOk then s.block.withSec fun c => { c with result := 1, pending := 0, level := c.pending }
        else failed 2))) ∧
  (∀ s : State, s.block.ctl.mayWriteCommon false = true → Runs (.dbgLock 0) s (s.block.withSec fun c => { c with level := 0, pending := 0 })) ∧
  (∀ (s : State) (o size : Nat) (v : BitVec 64), s.block.ctl.mayWriteCommon false = true → barAligned o size = true → 0xA400 ≤ o → o < 0xA800 →
    (s.block.ctl.sec.pending = 0 → Runs (.registerWrite 0 o size v) s s.block) ∧
    (s.block.ctl.sec.pending ≠ 0 → Runs (.registerWrite 0 o size v) s (s.block.withSec fun c =>
      { c with response := patch ((c.response ++ zeroBytes 1024).take 1024) (o - 0xA400) (leBytes v.toNat size) }))) ∧
  (∀ (s : State) (port : Fin 2) (o size : Nat) (v : BitVec 64), barAligned o size = false → Runs (.registerWrite port o size v) s s.block) ∧
  (∀ (s : State) (v : BitVec 64), s.block.ctl.mayWriteCommon false = true →
    Runs (.registerWrite 0 0x5020 8 v) s (s.block.withLh fun h => { h with wakeEn := v &&& 0x3F })) ∧
  (∀ (s : State) (port : Fin 2) (n : Fin 64) (v : BitVec 64), s.block.ctl.mayWriteRing (port == 1) n.val = true →
    s.block.ctl.barUp (port == 1) = true → (s.block.ctl.ring n.val).on = false → s.block.ctl.inflight n.val = 0 →
    Yields (.registerWrite port (0x2000 + 64 * n.val) 8 v) s fun t =>
      t.ctl.ring n.val = { s.block.ctl.ring n.val with base := v &&& ~~~0xFFF } ∧ (∀ m, m ≠ n.val → t.ctl.ring m = s.block.ctl.ring m) ∧
      s.block.SameOutside t ∧ t.ctl.hif.cmds = s.block.ctl.hif.cmds) ∧
  ∀ (s : State) (port : Fin 2) (v : BitVec 64), s.block.ctl.barUp (port == 1) = true →
    exec (.registerWrite port 0x5008 8 v) s = exec (.lhCmpWrite port 0 v) s ∧
    exec (.registerWrite port 0x5010 8 v) s = exec (.lhCmpWrite port 1 v) s ∧
    exec (.registerWrite port 0x9018 8 v) s = exec (.monClassWrite port v) s ∧
    exec (.registerWrite port 0x5018 8 v) s = exec (.statusFlagClear port 0x5018 v 0) s ∧
    (v.getLsbD 0 = true → exec (.registerWrite port 0x1000 8 v) s = exec (.hifEnable port v) s) ∧
    (v.getLsbD 0 = false → exec (.registerWrite port 0x1000 8 v) s = exec (.hifDisable port v) s) ∧
    exec (.registerWrite port 0x1008 8 v) s = exec (.hifWake port) s ∧
    (v.getLsbD 0 = true → exec (.registerWrite port 0x4008 8 v) s = exec (.pwrReqRemove port) s) ∧
    (∀ n : Fin 64, v.getLsbD 0 = true → exec (.registerWrite port (0x2020 + 64 * n.val) 8 v) s = exec (.ringEnable port n v) s) ∧
    (∀ n : Fin 64, v.getLsbD 0 = false → exec (.registerWrite port (0x2020 + 64 * n.val) 8 v) s = exec (.ringDisable port n v) s) ∧
    ∀ n : Fin 96, exec (.registerWrite port (0x6000 + 64 * n.val) 8 v) s =
      if v.getLsbD 1 && !v.getLsbD 0 then exec (.lnkRetrain port n v) s else exec (.lnkDisable port n v) s

/-- The SPDM responder: a connection goes from version over capabilities to algorithms, and answers digests, certificate portions, challenges
and measurements from there; what is out of order, empty, not accepted or unsupported gets an ERROR (R464 to R467; the codes are the model's,
log 12). -/
def Obligations.SpdmAnswers : Prop :=
  ∀ (s : State) (k : SpdmConn), s.block.ctl.spdmUp k = true →
    let b := s.block
    let at' := b.ctl.sec.conn k
    let moved := fun v => b.withSec fun c => c.setConn k v
    let err := fun n => b.answering k .error [octet n]
    let next : Block := { b with fresh := b.fresh + 1 }
    Runs (.getVersion k) s ((moved .version).answering k .version [2, 0x00, 0x12, 0x00, 0x13]) ∧
    (∀ code, Runs (.unsupportedRequest k code) s (err errUnsupported)) ∧
    (at' = .version → Runs (.getCapabilities k) s ((moved .capabilities).answering k .capabilities (leBytes 0x20016 4))) ∧
    (at' ≠ .version → Runs (.getCapabilities k) s (err errUnexpected)) ∧
    (at' = .capabilities → Runs (.negotiateAlgorithms k true true) s ((moved .algorithms).answering k .algorithms [1, 1]) ∧
      ∀ e h, (e = false ∨ h = false) → Runs (.negotiateAlgorithms k e h) s (err errInvalid)) ∧
    (at' ≠ .capabilities → ∀ e h, Runs (.negotiateAlgorithms k e h) s (err errUnexpected)) ∧
    (at' = .algorithms →
      Runs (.getDigests k) s (b.answering k .digests ([1] ++ sha512 b.chain)) ∧
      (∀ (slot : Fin 8) (offset len : Nat), Runs (.getCertificate k slot offset len) s
        (if slot ≠ 0 ∨ b.chain.length ≤ offset then err errInvalid
         else
          let p := slice b.chain offset len
          b.answering k .certificate ([0] ++ leBytes p.length 2 ++ leBytes (b.chain.length - (offset + p.length)) 2 ++ p))) ∧
      (∀ (slot : Fin 8) (nonce : Bytes), slot ≠ 0 → Runs (.challenge k slot nonce) s (err errInvalid)) ∧
      (∀ nonce, b.ctl.sec.idFault = true → Runs (.challenge k 0 nonce) s (err errUnspecified)) ∧
      (∀ nonce, b.ctl.sec.idFault = false → Runs (.challenge k 0 nonce) s
        (next.answering k .challengeAuth (sha512 b.chain ++ nonce ++ nonceOf b.fresh ++ signatureOf b.fresh))) ∧
      (∀ (i : Nat) (nonce : Bytes), 1 ≤ i → i ≤ 8 →
        Runs (.getMeasurements k i false nonce) s (b.answering k .measurements ([1] ++ b.measureBlock i)) ∧
        (b.ctl.sec.idFault = true → Runs (.getMeasurements k i true nonce) s (err errUnspecified)) ∧
        (b.ctl.sec.idFault = false → Runs (.getMeasurements k i true nonce) s
          (next.answering k .measurements ([1] ++ b.measureBlock i ++ nonce ++ nonceOf b.fresh ++ signatureOf b.fresh)))) ∧
      (∀ nonce, Runs (.getMeasurements k 0 false nonce) s (b.answering k .measurements [8])) ∧
      ∀ (i : Nat) (signed : Bool) (nonce : Bytes), 8 < i → i ≠ 0xFF → Runs (.getMeasurements k i signed nonce) s (err errInvalid)) ∧
    (at' ≠ .algorithms →
      Runs (.getDigests k) s (err errUnexpected) ∧ (∀ slot offset len, Runs (.getCertificate k slot offset len) s (err errUnexpected)) ∧
      (∀ slot nonce, Runs (.challenge k slot nonce) s (err errUnexpected)) ∧
      ∀ i signed nonce, Runs (.getMeasurements k i signed nonce) s (err errUnexpected))

/-- Firmware: a bank that passes its checks erases the device that does not run and goes into it piece by piece, the header last, while a snapshot
due on that device goes ahead, and another is E_AUTH; an owner record that nothing forbids blows its fuses; FW_ACTIVATE writes a boot selector for
a bank that passes; recovery writes bank A (R456, R458, R460 to R463, R470; log 68). -/
def Obligations.FirmwareStages : Prop :=
  (∀ (s : State) (id : Nat) (x : Cmd), s.block.MayRun id 0x60 x → s.block.ctl.sec.staging = none →
    s.block.ctl.glb.state ∈ [ModState.ready, .loaded, .running, .draining, .degraded] →
    let img := s.block.host.read (u64 x.bytes 32) (u64 x.bytes 40)
    let o := s.block.ctl.otherBank
    img.take 4 ≠ [0x4F, 0x57, 0x4E, 0x52] →
    Yields (.fwStage id) s fun t =>
      (if bankBytes < img.length || !Machine.bankOk s.block.fuses (readImage img) then
        t.Ended id .eAuth [] ∧ (∀ d, t.nor d = s.block.nor d) ∧ t.ctl.sec = s.block.ctl.sec
       else
        t.Goes id ∧ t.ctl.sec = { s.block.ctl.sec with staging := some { cmd := id, dev := o, img := img, done := 0 } } ∧
        t.nor (!o) = s.block.nor (!o) ∧ t.nor o = (s.block.nor o).bankErased) ∧
      s.block.OthersKept t id ∧ { s.block with nor0 := t.nor0, nor1 := t.nor1 }.SameOutside t) ∧
  (∀ (s : State) (id : Nat) (x : Cmd) (g : BankStaging), s.block.ctl.cmd id = some x → s.block.ctl.sec.staging = some g → g.cmd = id →
    let body := g.img.drop 4096
    let due := (s.block.storeDue && s.block.ctl.storeDev == g.dev) = true
    (due → Runs (.fwStage id) s s.block) ∧
    (¬ due → g.done < body.length → Yields (.fwStage id) s fun t =>
      t.nor g.dev = (s.block.nor g.dev).write (4096 + g.done) (slice body g.done norPiece) ∧ t.nor (!g.dev) = s.block.nor (!g.dev) ∧
      t.ctl = { s.block.ctl with sec := { s.block.ctl.sec with staging := some { g with done := g.done + norPiece } } } ∧
      { s.block with nor0 := t.nor0, nor1 := t.nor1 }.SameOutside t) ∧
    (¬ due → body.length ≤ g.done → Yields (.fwStage id) s fun t =>
      t.Ended id .ok [] ∧ t.ctl.sec.staging = none ∧ t.ctl.sec.staged = some (boolNat g.dev) ∧
      t.nor g.dev = (s.block.nor g.dev).write 0 (g.img.take 4096) ∧ t.nor (!g.dev) = s.block.nor (!g.dev) ∧
      (let u := { s.block with nor0 := t.nor0, nor1 := t.nor1 }
       t.fuses = { s.block.fuses with rollback := max s.block.fuses.rollback (min (min (u.svnOf false) (u.svnOf true)) 64) }) ∧
      s.block.OthersKept t id ∧ { s.block with nor0 := t.nor0, nor1 := t.nor1, fuses := t.fuses }.SameOutside t)) ∧
  (∀ (s : State) (id : Nat) (x : Cmd), s.block.MayRun id 0x60 x → s.block.ctl.sec.staging = none →
    s.block.ctl.glb.state ∈ [ModState.ready, .loaded, .running, .draining, .degraded] →
    let img := s.block.host.read (u64 x.bytes 32) (u64 x.bytes 40)
    img.take 4 = [0x4F, 0x57, 0x4E, 0x52] →
    Yields (.fwStage id) s fun t =>
      (s.block.ctl.glb.state ≠ .ready → t.Ended id .eState [] ∧ t.fuses = s.block.fuses) ∧
      (s.block.ctl.glb.state = .ready → img.length ≠ 512 → t.Ended id .eFormat [] ∧ t.fuses = s.block.fuses) ∧
      (s.block.ctl.glb.state = .ready → img.length = 512 →
        (∀ st, s.block.fuses.ownerTrouble img = some st → t.Ended id st [] ∧ t.fuses = s.block.fuses) ∧
        (s.block.fuses.ownerTrouble img = none → t.Ended id .ok [] ∧
          (let f := s.block.fuses
           let enrolled := ownersSet (fun o => { o with valid := true, hash := sha512 (slice img 16 132) }) (u8 img 5) f.owners
           let revoked := ownersSet (fun o => { o with revoked := true }) (u8 img 5) f.owners
           (u8 img 4 = 1 → t.fuses = { f with owners := enrolled }) ∧ (u8 img 4 = 2 → t.fuses = { f with owners := revoked }) ∧
           (u8 img 4 = 3 → t.fuses = { f with debugOwner := true })))) ∧
      s.block.OthersKept t id ∧ t.ctl.sec = s.block.ctl.sec ∧ (∀ d, t.nor d = s.block.nor d) ∧ t.mem = s.block.mem ∧ t.host = s.block.host) ∧
  (∀ (s : State) (id : Nat) (x : Cmd), s.block.MayRun id 0x61 x →
    let legal := s.block.ctl.glb.state = .ready ∧ s.block.ctl.sec.level < 2 ∧ (u8 x.bytes 32 = 1 ∨ s.block.ctl.sec.staged.isSome = true)
    let bank := if u8 x.bytes 32 = 1 then boolNat s.block.ctl.otherBank else s.block.ctl.sec.staged.getD 0
    Yields (.fwActivate id) s fun t =>
      (¬ legal → t.Ended id .eState [] ∧ t.ctl.sec = s.block.ctl.sec) ∧
      (legal → s.block.bankOk (bank == 1) = false → t.Ended id .eAuth [] ∧ t.ctl.sec = s.block.ctl.sec) ∧
      (legal → s.block.bankOk (bank == 1) = true → t.Ended id .ok [] ∧ t.ctl.sec = s.block.ctl.sec.select bank) ∧
      s.block.SameOutside t ∧ s.block.OthersKept t id) ∧
  ∀ (s : State) (img : Bytes), s.block.ctl.glb.state = .boot → s.block.ctl.glb.bootFault = 3 → s.block.ctl.powered = true →
    Yields (.pldmComponent img) s fun t =>
      if bankBytes < img.length || !Machine.bankOk s.block.fuses (readImage img) then t = s.block.sending .sideband (.pldm false)
      else
        t.nor0 = s.block.nor0.withBank img ∧
        t.nor1 = s.block.nor1 ∧ t.out = { dest := .sideband, msg := .pldm true } :: s.block.out ∧ s.block.DiesReset t ∧ t.mem = s.block.mem ∧
        t.fuses = s.block.fuses ∧ t.lhTime = s.block.lhTime

/-! ## Shoal -/

/-- A search takes a slot with the epoch of its start and issues the reads of its first step; once they are back a step expands its list and
issues the next batch, ends, widens, or writes its results in order with their count, LIST and reads; a read that returns is no longer waited
for, and one that fails is rebuilt and charged (R370, R371, R376, R382, R384 to R387, R398). -/
def Obligations.Searches : Prop :=
  (∀ (s : State) (id : Nat) (x : Cmd), s.block.MayRun id 0x20 x → indexLegal s.block x = true →
    let b := s.block.started id
    let place := u8 x.bytes 32 % 16
    let dim := hDim b.ctl.shoal.header
    let q := widen (u8 x.bytes 34) (b.readPlace place (u64 x.bytes 48) (rowBytes (u8 x.bytes 34) dim)) dim
    let f := b.readPlace place (u64 x.bytes 64) (filterBytes (leNat (b.readPlace place (u64 x.bytes 64) 1)))
    (∀ st, b.searchTrouble x.bytes = some st → Yields (.search id) s fun t =>
      t.Ended id st [] ∧ t.ctl.shoal = s.block.ctl.shoal ∧ s.block.SameOutside t ∧ s.block.OthersKept t id) ∧
    (∀ k, b.searchTrouble x.bytes = none → b.ctl.shoal.freeSlot = some k → place ≠ 1 → Yields (.search id) s fun t =>
      t.Goes id ∧ s.block.SameOutside t ∧ s.block.OthersKept t id ∧
      (let m := s.block.ctl.shoal
       let r := Search.fresh id m.epoch (if u8 x.bytes 33 = 2 then normalise q else q) (if bit (u8 x.bytes 35) 3 then some f else none)
        (u16 x.bytes 38) 0
       t.ctl.shoal = { m with slots := Tab.set none m.slots k (some (r.issue b x.bytes)) }))) ∧
  (∀ (s : State) (id : Nat) (x : Cmd), s.block.MayRun id 0x20 x → indexLegal s.block x = false →
    Yields (.search id) s fun t => t.Ended id .eState [] ∧ t.ctl.shoal = s.block.ctl.shoal ∧ s.block.SameOutside t) ∧
  (∀ (s : State) (slot : Fin 32) (r : Search) (x : Cmd), Tab.get none s.block.ctl.shoal.slots slot.val = some r →
    s.block.ctl.cmd r.cmd = some x → r.waits = [] →
    let c := x.bytes
    let u := r.step s.block c
    let put := fun (v : Option Search) => s.block.withShoal fun m => { m with slots := Tab.set none m.slots slot.val v }
    let widens := bit (u8 c 35) 1 = true ∧ u.survivors.length < u16 c 36 ∧ u.list < u16 c 42
    let rs := (u.results s.block c).1
    (nextBatch (u8 c 40) u.cand ≠ [] → Runs (.searchStep slot) s (put (some (u.issue s.block c)))) ∧
    (nextBatch (u8 c 40) u.cand = [] → widens →
      Runs (.searchStep slot) s (put (some ((Search.fresh r.cmd r.epoch r.query r.filter (min (2 * u.list) (u16 c 42)) u.reads).issue s.block c)))) ∧
    (nextBatch (u8 c 40) u.cand = [] → ¬ widens → u8 c 32 / 16 = 0 → bit (u8 c 35) 2 = false →
      Yields (.searchStep slot) s fun t =>
        t.host = s.block.host.write (u64 c 56) (rs.flatMap resultEntry ++ (List.replicate (u16 c 36 - rs.length) noResult).flatten) ∧
        (∃ st, t.Ended r.cmd st (leBytes rs.length 2 ++ leBytes u.list 2 ++ leBytes (u.reads + (u.results s.block c).2) 4 ++ leBytes u.epoch 8) ∧
          (rs.length < u16 c 36 → st = .okShort) ∧ (u16 c 36 ≤ rs.length → st = .ok)) ∧
        (let m := s.block.ctl.shoal
         t.ctl.shoal = { m with slots := Tab.set none m.slots slot.val none }) ∧
        { s.block with host := t.host }.SameOutside t ∧ s.block.OthersKept t r.cmd)) ∧
  ∀ (s : State) (slot : Fin 32) (unit : Nat) (r : Search), s.block.ctl.awake = true → Tab.get none s.block.ctl.shoal.slots slot.val = some r →
    unit ∈ r.waits →
    let back := s.block.withShoal fun m => { m with slots := Tab.set none m.slots slot.val (some (r.returned s.block unit)) }
    let ch := flashChannel unit
    let u : UnitRef := { cls := 5, number := ch, row := 0, bank := 0 }
    let rebuilt := fun (b : Block) => b.withShoal fun m => { m with rebuilds := (m.rebuilds + 1) % 2 ^ 48 }
    (s.block.ctl.health.spares.flash.contains ch = true → s.block.ctl.health.rewriting.contains ch = true →
      ∀ o, Runs (.flashRead slot unit o) s (rebuilt back)) ∧
    (s.block.ctl.health.spares.flash.contains ch = false →
      Runs (.flashRead slot unit .clean) s back ∧ (∀ n, Runs (.flashRead slot unit (.retried n)) s back) ∧
      ((s.block.trendTimes u 0).length < 33 → (s.block.chargeTimes u).length < s.block.ctl.thresh →
        Runs (.flashRead slot unit .failed) s ((rebuilt back).withHealth fun h =>
          (h.counted s.block.lhTime u 0 (src 6 ch) (s.block.trendTimes u 0)).charged s.block.lhTime u (s.block.chargeTimes u) unit)))

/-- The index: a batch takes all of a command's items or none; a wave of 24 inserts is linked; a version that no older search reads is freed;
a commit writes one more epoch and its record; modes 0, 1 and 2 mount, create and unmount (R376, R388, R390, R392 to R396). -/
def Obligations.IndexUpdates : Prop :=
  (∀ (s : State) (id : Nat) (x : Cmd), s.block.MayRun id 0x21 x → indexLegal s.block x = true →
    let b := s.block.started id
    let c := x.bytes
    let items := (b.insertItems c).map (b.pendingOf (u8 c 32) (u8 c 33))
    b.reach (u8 c 32) (u64 c 40) (128 * u32 c 36) = none →
    (∀ i st, firstTrouble (b.insertTrouble c) = some (i, st) → Yields (.indexInsert id) s fun t =>
      t.Ended id st (zeroBytes 4 ++ leBytes i 4) ∧ t.ctl.shoal = s.block.ctl.shoal ∧ s.block.SameOutside t ∧ s.block.OthersKept t id) ∧
    (firstTrouble (b.insertTrouble c) = none → s.block.ctl.shoal.batch.length + items.length ≤ 4194304 →
      s.block.ctl.shoal.payloadFits (s.block.ctl.shoal.batch ++ items) = true → Yields (.indexInsert id) s fun t =>
        t.Ended id .ok (leBytes items.length 4) ∧ t.ctl.shoal = { s.block.ctl.shoal with batch := s.block.ctl.shoal.batch ++ items } ∧
        (u8 c 32 ≠ 1 → s.block.SameOutside t) ∧ t.mem = s.block.mem ∧ t.flash = s.block.flash ∧ s.block.OthersKept t id)) ∧
  (∀ (s : State) (id : Nat) (x : Cmd), s.block.MayRun id 0x22 x → indexLegal s.block x = true →
    let b := s.block.started id
    let c := x.bytes
    let items := (b.deleteItems c).map fun i => Pending.delete (fld i 0 5)
    b.reach (u8 c 32) (u64 c 40) (8 * u32 c 36) = none →
    (∀ i st, firstTrouble (b.deleteTrouble c) = some (i, st) → Yields (.indexDelete id) s fun t =>
      t.Ended id st (zeroBytes 4 ++ leBytes i 4) ∧ t.ctl.shoal = s.block.ctl.shoal ∧ s.block.SameOutside t ∧ s.block.OthersKept t id) ∧
    (firstTrouble (b.deleteTrouble c) = none → s.block.ctl.shoal.batch.length + items.length ≤ 4194304 →
      s.block.ctl.shoal.payloadFits (s.block.ctl.shoal.batch ++ items) = true → Yields (.indexDelete id) s fun t =>
        t.Ended id .ok (leBytes items.length 4) ∧ t.ctl.shoal = { s.block.ctl.shoal with batch := s.block.ctl.shoal.batch ++ items } ∧
        (u8 c 32 ≠ 1 → s.block.SameOutside t) ∧ t.mem = s.block.mem ∧ t.flash = s.block.flash ∧ s.block.OthersKept t id)) ∧
  (∀ s : State, let m := s.block.ctl.shoal
    let w := s.block.graph.wave m.linked
    s.block.ctl.awake = true → m.mounted = true →
    (24 ≤ countIf Pending.isInsert (m.batch.drop m.linked) →
      Runs .insertWave s (s.block.withShoal fun m => { m with versions := w.1.versions, linked := w.2 })) ∧
    (countIf Pending.isInsert (m.batch.drop m.linked) < 24 → Runs .insertWave s s.block)) ∧
  (∀ (s : State) (unit : Nat), s.block.ctl.awake = true → s.block.ctl.shoal.mounted = true →
    Yields (.versionReclaim unit) s fun t =>
      (∀ o, o ∈ t.ctl.shoal.old ↔ o ∈ s.block.ctl.shoal.old ∧ (o.unit ≠ unit ∨ s.block.ctl.shoal.olderThan o.epoch = true)) ∧
      (∀ o, o ∈ t.ctl.shoal.freed ↔ o ∈ s.block.ctl.shoal.freed ∧ (o.unit ≠ unit ∨ s.block.ctl.shoal.olderThan o.epoch = true)) ∧
      t = s.block.withShoal fun m => { m with old := t.ctl.shoal.old, freed := t.ctl.shoal.freed }) ∧
  (∀ (s : State) (id : Nat) (x : Cmd), s.block.MayRun id 0x23 x → indexLegal s.block x = true →
    let b := s.block.started id
    let p := b.commitPlan x.bytes
    let m := s.block.ctl.shoal
    (b.commitUnits p = none → Yields (.indexCommit id) s fun t =>
      t.Ended id .eCapacity [] ∧ t.ctl.shoal = m ∧ s.block.SameOutside t ∧ s.block.OthersKept t id) ∧
    (∀ units next, b.commitUnits p = some (units, next) → Yields (.indexCommit id) s fun t =>
      t.Ended id .ok (leBytes (m.epoch + 1) 8 ++ leBytes m.batch.length 4) ∧ t.ctl.shoal = m.committed p.header p.graph units next p.gone ∧
      t.ctl.shoal.epoch = m.epoch + 1 ∧ t.ctl.shoal.batch = [] ∧ t.ctl.shoal.versions = [] ∧
      s.block.Raised t 0x0800 (src 6 0xFFF) (m.epoch + 1) ∧ (∃ n dev, t.ctl.health.newest = some (n, dev) ∧ n.shoal = t.ctl.shoal.stored) ∧
      t.mem = s.block.mem ∧ t.host = s.block.host ∧ t.sems = s.block.sems ∧ t.fuses = s.block.fuses ∧ t.out = s.block.out ∧
      s.block.OthersKept t id)) ∧
  ∀ (s : State) (id : Nat) (x : Cmd), s.block.MayRun id 0x24 x → mountLegal s.block x = true →
    let b := s.block.started id
    let c := x.bytes
    let m := s.block.ctl.shoal
    let h := sealHeader (newHeader c)
    (u8 c 32 = 2 → Yields (.indexMount id) s fun t =>
      t.Ended id .ok (leBytes m.epoch 8 ++ leBytes m.batch.length 8) ∧ t.ctl.shoal = m.unmounted ∧ s.block.SameOutside t ∧
      s.block.OthersKept t id) ∧
    (u8 c 32 = 1 → u8 c 41 ≠ 1 → b.reach (u8 c 41) (u64 c 56) (hDim h * 512) = none → headerFits h = true → b.mapFits (hCapacity h) = true →
      Yields (.indexMount id) s fun t =>
        t.Ended id .ok (zeroBytes 16) ∧ t.ctl.shoal.mounted = true ∧ t.ctl.shoal.epoch = 0 ∧ t.ctl.shoal.header = h ∧
        t.ctl.shoal.nodeMap = [] ∧ t.ctl.shoal.batch = [] ∧ t.ctl.shoal.payNext = u64 h 56 ∧ t.ctl.health.wanted = true ∧
        t.flash = (Memory.write [] 0 h).write 0x1000 (s.block.readPlace (u8 c 41) (u64 c 56) (hDim h * 512)) ∧
        t.mem = s.block.mem ∧ t.host = s.block.host ∧ t.arb = s.block.arb ∧ s.block.OthersKept t id) ∧
    (u8 c 32 = 0 → Yields (.indexMount id) s fun t =>
      let stored := m.stored <|> (s.block.ctl.health.newest.bind fun n => n.1.shoal)
      let g := s.block.flash.read 0 4096
      (stored = none → t.Ended id .eState [] ∧ t.ctl.shoal = m) ∧
      (∀ r, stored = some r →
        if headerValid g = false ∨ r.indexId ≠ u64 g 8 ∨ r.check ≠ u32 g 4092 ∨ (u64 c 72 ≠ 0 ∧ u64 c 72 ≠ u64 g 8) then
          t.Ended id .eState [] ∧ t.ctl.shoal = m
        else if b.mapFits (hCapacity g) = false then t.Ended id .eCapacity [] ∧ t.ctl.shoal = m
        else t.ctl.shoal = m.recovered s.block.flash g r ∧
          t.Ended id .ok (leBytes t.ctl.shoal.epoch 8 ++ leBytes t.ctl.shoal.live 8)) ∧
      s.block.SameOutside t ∧ s.block.OthersKept t id)
end

