-- ==== Sys2Proof/Laws/State.lean ====
section
/-! SUPPORT. What each effect does to each part of the block, one lemma for each part. -/

namespace Sys2Proof.Machine

variable (b : Block)

@[simp] theorem apply_mem_mem (a : Nat) (bs : Bytes) : (Eff.apply b (.mem a bs)).mem = Memory.write b.mem a bs := rfl
@[simp] theorem apply_mem_host (a : Nat) (bs : Bytes) : (Eff.apply b (.mem a bs)).host = b.host := rfl
@[simp] theorem apply_mem_flash (a : Nat) (bs : Bytes) : (Eff.apply b (.mem a bs)).flash = b.flash := rfl
@[simp] theorem apply_mem_nor0 (a : Nat) (bs : Bytes) : (Eff.apply b (.mem a bs)).nor0 = b.nor0 := rfl
@[simp] theorem apply_mem_nor1 (a : Nat) (bs : Bytes) : (Eff.apply b (.mem a bs)).nor1 = b.nor1 := rfl
@[simp] theorem apply_mem_sems (a : Nat) (bs : Bytes) : (Eff.apply b (.mem a bs)).sems = b.sems := rfl
@[simp] theorem apply_mem_arb (a : Nat) (bs : Bytes) : (Eff.apply b (.mem a bs)).arb = b.arb := rfl
@[simp] theorem apply_mem_lhTime (a : Nat) (bs : Bytes) : (Eff.apply b (.mem a bs)).lhTime = b.lhTime := rfl
@[simp] theorem apply_mem_fuses (a : Nat) (bs : Bytes) : (Eff.apply b (.mem a bs)).fuses = b.fuses := rfl
@[simp] theorem apply_mem_out (a : Nat) (bs : Bytes) : (Eff.apply b (.mem a bs)).out = b.out := rfl
@[simp] theorem apply_mem_fresh (a : Nat) (bs : Bytes) : (Eff.apply b (.mem a bs)).fresh = b.fresh := rfl
@[simp] theorem apply_mem_lrs (a : Nat) (bs : Bytes) : (Eff.apply b (.mem a bs)).lrs = b.lrs.filter fun r => !r.hit a bs.length := rfl
@[simp] theorem apply_mem_ctl (a : Nat) (bs : Bytes) : (Eff.apply b (.mem a bs)).ctl = b.ctl := rfl

@[simp] theorem apply_memClear_mem : (Eff.apply b (.memClear)).mem = [] := rfl
@[simp] theorem apply_memClear_host : (Eff.apply b (.memClear)).host = b.host := rfl
@[simp] theorem apply_memClear_flash : (Eff.apply b (.memClear)).flash = b.flash := rfl
@[simp] theorem apply_memClear_nor0 : (Eff.apply b (.memClear)).nor0 = b.nor0 := rfl
@[simp] theorem apply_memClear_nor1 : (Eff.apply b (.memClear)).nor1 = b.nor1 := rfl
@[simp] theorem apply_memClear_sems : (Eff.apply b (.memClear)).sems = b.sems := rfl
@[simp] theorem apply_memClear_arb : (Eff.apply b (.memClear)).arb = b.arb := rfl
@[simp] theorem apply_memClear_lhTime : (Eff.apply b (.memClear)).lhTime = b.lhTime := rfl
@[simp] theorem apply_memClear_fuses : (Eff.apply b (.memClear)).fuses = b.fuses := rfl
@[simp] theorem apply_memClear_out : (Eff.apply b (.memClear)).out = b.out := rfl
@[simp] theorem apply_memClear_fresh : (Eff.apply b (.memClear)).fresh = b.fresh := rfl
@[simp] theorem apply_memClear_lrs : (Eff.apply b (.memClear)).lrs = [] := rfl
@[simp] theorem apply_memClear_ctl : (Eff.apply b (.memClear)).ctl = b.ctl := rfl

@[simp] theorem apply_host_mem (a : Nat) (bs : Bytes) : (Eff.apply b (.host a bs)).mem = b.mem := rfl
@[simp] theorem apply_host_host (a : Nat) (bs : Bytes) : (Eff.apply b (.host a bs)).host = Memory.write b.host a bs := rfl
@[simp] theorem apply_host_flash (a : Nat) (bs : Bytes) : (Eff.apply b (.host a bs)).flash = b.flash := rfl
@[simp] theorem apply_host_nor0 (a : Nat) (bs : Bytes) : (Eff.apply b (.host a bs)).nor0 = b.nor0 := rfl
@[simp] theorem apply_host_nor1 (a : Nat) (bs : Bytes) : (Eff.apply b (.host a bs)).nor1 = b.nor1 := rfl
@[simp] theorem apply_host_sems (a : Nat) (bs : Bytes) : (Eff.apply b (.host a bs)).sems = b.sems := rfl
@[simp] theorem apply_host_arb (a : Nat) (bs : Bytes) : (Eff.apply b (.host a bs)).arb = b.arb := rfl
@[simp] theorem apply_host_lhTime (a : Nat) (bs : Bytes) : (Eff.apply b (.host a bs)).lhTime = b.lhTime := rfl
@[simp] theorem apply_host_fuses (a : Nat) (bs : Bytes) : (Eff.apply b (.host a bs)).fuses = b.fuses := rfl
@[simp] theorem apply_host_out (a : Nat) (bs : Bytes) : (Eff.apply b (.host a bs)).out = b.out := rfl
@[simp] theorem apply_host_fresh (a : Nat) (bs : Bytes) : (Eff.apply b (.host a bs)).fresh = b.fresh := rfl
@[simp] theorem apply_host_lrs (a : Nat) (bs : Bytes) : (Eff.apply b (.host a bs)).lrs = b.lrs := rfl
@[simp] theorem apply_host_ctl (a : Nat) (bs : Bytes) : (Eff.apply b (.host a bs)).ctl = b.ctl := rfl

@[simp] theorem apply_flash_mem (a : Nat) (bs : Bytes) : (Eff.apply b (.flash a bs)).mem = b.mem := rfl
@[simp] theorem apply_flash_host (a : Nat) (bs : Bytes) : (Eff.apply b (.flash a bs)).host = b.host := rfl
@[simp] theorem apply_flash_flash (a : Nat) (bs : Bytes) : (Eff.apply b (.flash a bs)).flash = Memory.write b.flash a bs := rfl
@[simp] theorem apply_flash_nor0 (a : Nat) (bs : Bytes) : (Eff.apply b (.flash a bs)).nor0 = b.nor0 := rfl
@[simp] theorem apply_flash_nor1 (a : Nat) (bs : Bytes) : (Eff.apply b (.flash a bs)).nor1 = b.nor1 := rfl
@[simp] theorem apply_flash_sems (a : Nat) (bs : Bytes) : (Eff.apply b (.flash a bs)).sems = b.sems := rfl
@[simp] theorem apply_flash_arb (a : Nat) (bs : Bytes) : (Eff.apply b (.flash a bs)).arb = b.arb := rfl
@[simp] theorem apply_flash_lhTime (a : Nat) (bs : Bytes) : (Eff.apply b (.flash a bs)).lhTime = b.lhTime := rfl
@[simp] theorem apply_flash_fuses (a : Nat) (bs : Bytes) : (Eff.apply b (.flash a bs)).fuses = b.fuses := rfl
@[simp] theorem apply_flash_out (a : Nat) (bs : Bytes) : (Eff.apply b (.flash a bs)).out = b.out := rfl
@[simp] theorem apply_flash_fresh (a : Nat) (bs : Bytes) : (Eff.apply b (.flash a bs)).fresh = b.fresh := rfl
@[simp] theorem apply_flash_lrs (a : Nat) (bs : Bytes) : (Eff.apply b (.flash a bs)).lrs = b.lrs := rfl
@[simp] theorem apply_flash_ctl (a : Nat) (bs : Bytes) : (Eff.apply b (.flash a bs)).ctl = b.ctl := rfl

@[simp] theorem apply_flashErase_mem : (Eff.apply b (.flashErase)).mem = b.mem := rfl
@[simp] theorem apply_flashErase_host : (Eff.apply b (.flashErase)).host = b.host := rfl
@[simp] theorem apply_flashErase_flash : (Eff.apply b (.flashErase)).flash = [] := rfl
@[simp] theorem apply_flashErase_nor0 : (Eff.apply b (.flashErase)).nor0 = b.nor0 := rfl
@[simp] theorem apply_flashErase_nor1 : (Eff.apply b (.flashErase)).nor1 = b.nor1 := rfl
@[simp] theorem apply_flashErase_sems : (Eff.apply b (.flashErase)).sems = b.sems := rfl
@[simp] theorem apply_flashErase_arb : (Eff.apply b (.flashErase)).arb = b.arb := rfl
@[simp] theorem apply_flashErase_lhTime : (Eff.apply b (.flashErase)).lhTime = b.lhTime := rfl
@[simp] theorem apply_flashErase_fuses : (Eff.apply b (.flashErase)).fuses = b.fuses := rfl
@[simp] theorem apply_flashErase_out : (Eff.apply b (.flashErase)).out = b.out := rfl
@[simp] theorem apply_flashErase_fresh : (Eff.apply b (.flashErase)).fresh = b.fresh := rfl
@[simp] theorem apply_flashErase_lrs : (Eff.apply b (.flashErase)).lrs = b.lrs := rfl
@[simp] theorem apply_flashErase_ctl : (Eff.apply b (.flashErase)).ctl = b.ctl := rfl

@[simp] theorem apply_nor0_mem (a : Nat) (bs : Bytes) : (Eff.apply b (.nor false a bs)).mem = b.mem := rfl
@[simp] theorem apply_nor0_host (a : Nat) (bs : Bytes) : (Eff.apply b (.nor false a bs)).host = b.host := rfl
@[simp] theorem apply_nor0_flash (a : Nat) (bs : Bytes) : (Eff.apply b (.nor false a bs)).flash = b.flash := rfl
@[simp] theorem apply_nor0_nor0 (a : Nat) (bs : Bytes) : (Eff.apply b (.nor false a bs)).nor0 = Memory.write b.nor0 a bs := rfl
@[simp] theorem apply_nor0_nor1 (a : Nat) (bs : Bytes) : (Eff.apply b (.nor false a bs)).nor1 = b.nor1 := rfl
@[simp] theorem apply_nor0_sems (a : Nat) (bs : Bytes) : (Eff.apply b (.nor false a bs)).sems = b.sems := rfl
@[simp] theorem apply_nor0_arb (a : Nat) (bs : Bytes) : (Eff.apply b (.nor false a bs)).arb = b.arb := rfl
@[simp] theorem apply_nor0_lhTime (a : Nat) (bs : Bytes) : (Eff.apply b (.nor false a bs)).lhTime = b.lhTime := rfl
@[simp] theorem apply_nor0_fuses (a : Nat) (bs : Bytes) : (Eff.apply b (.nor false a bs)).fuses = b.fuses := rfl
@[simp] theorem apply_nor0_out (a : Nat) (bs : Bytes) : (Eff.apply b (.nor false a bs)).out = b.out := rfl
@[simp] theorem apply_nor0_fresh (a : Nat) (bs : Bytes) : (Eff.apply b (.nor false a bs)).fresh = b.fresh := rfl
@[simp] theorem apply_nor0_lrs (a : Nat) (bs : Bytes) : (Eff.apply b (.nor false a bs)).lrs = b.lrs := rfl
@[simp] theorem apply_nor0_ctl (a : Nat) (bs : Bytes) : (Eff.apply b (.nor false a bs)).ctl = b.ctl := rfl

@[simp] theorem apply_nor1_mem (a : Nat) (bs : Bytes) : (Eff.apply b (.nor true a bs)).mem = b.mem := rfl
@[simp] theorem apply_nor1_host (a : Nat) (bs : Bytes) : (Eff.apply b (.nor true a bs)).host = b.host := rfl
@[simp] theorem apply_nor1_flash (a : Nat) (bs : Bytes) : (Eff.apply b (.nor true a bs)).flash = b.flash := rfl
@[simp] theorem apply_nor1_nor0 (a : Nat) (bs : Bytes) : (Eff.apply b (.nor true a bs)).nor0 = b.nor0 := rfl
@[simp] theorem apply_nor1_nor1 (a : Nat) (bs : Bytes) : (Eff.apply b (.nor true a bs)).nor1 = Memory.write b.nor1 a bs := rfl
@[simp] theorem apply_nor1_sems (a : Nat) (bs : Bytes) : (Eff.apply b (.nor true a bs)).sems = b.sems := rfl
@[simp] theorem apply_nor1_arb (a : Nat) (bs : Bytes) : (Eff.apply b (.nor true a bs)).arb = b.arb := rfl
@[simp] theorem apply_nor1_lhTime (a : Nat) (bs : Bytes) : (Eff.apply b (.nor true a bs)).lhTime = b.lhTime := rfl
@[simp] theorem apply_nor1_fuses (a : Nat) (bs : Bytes) : (Eff.apply b (.nor true a bs)).fuses = b.fuses := rfl
@[simp] theorem apply_nor1_out (a : Nat) (bs : Bytes) : (Eff.apply b (.nor true a bs)).out = b.out := rfl
@[simp] theorem apply_nor1_fresh (a : Nat) (bs : Bytes) : (Eff.apply b (.nor true a bs)).fresh = b.fresh := rfl
@[simp] theorem apply_nor1_lrs (a : Nat) (bs : Bytes) : (Eff.apply b (.nor true a bs)).lrs = b.lrs := rfl
@[simp] theorem apply_nor1_ctl (a : Nat) (bs : Bytes) : (Eff.apply b (.nor true a bs)).ctl = b.ctl := rfl

@[simp] theorem apply_norErase0_mem : (Eff.apply b (.norErase false)).mem = b.mem := rfl
@[simp] theorem apply_norErase0_host : (Eff.apply b (.norErase false)).host = b.host := rfl
@[simp] theorem apply_norErase0_flash : (Eff.apply b (.norErase false)).flash = b.flash := rfl
@[simp] theorem apply_norErase0_nor1 : (Eff.apply b (.norErase false)).nor1 = b.nor1 := rfl
@[simp] theorem apply_norErase0_sems : (Eff.apply b (.norErase false)).sems = b.sems := rfl
@[simp] theorem apply_norErase0_arb : (Eff.apply b (.norErase false)).arb = b.arb := rfl
@[simp] theorem apply_norErase0_lhTime : (Eff.apply b (.norErase false)).lhTime = b.lhTime := rfl
@[simp] theorem apply_norErase0_fuses : (Eff.apply b (.norErase false)).fuses = b.fuses := rfl
@[simp] theorem apply_norErase0_out : (Eff.apply b (.norErase false)).out = b.out := rfl
@[simp] theorem apply_norErase0_fresh : (Eff.apply b (.norErase false)).fresh = b.fresh := rfl
@[simp] theorem apply_norErase0_lrs : (Eff.apply b (.norErase false)).lrs = b.lrs := rfl
@[simp] theorem apply_norErase0_ctl : (Eff.apply b (.norErase false)).ctl = b.ctl := rfl

@[simp] theorem apply_norErase1_mem : (Eff.apply b (.norErase true)).mem = b.mem := rfl
@[simp] theorem apply_norErase1_host : (Eff.apply b (.norErase true)).host = b.host := rfl
@[simp] theorem apply_norErase1_flash : (Eff.apply b (.norErase true)).flash = b.flash := rfl
@[simp] theorem apply_norErase1_nor0 : (Eff.apply b (.norErase true)).nor0 = b.nor0 := rfl
@[simp] theorem apply_norErase1_sems : (Eff.apply b (.norErase true)).sems = b.sems := rfl
@[simp] theorem apply_norErase1_arb : (Eff.apply b (.norErase true)).arb = b.arb := rfl
@[simp] theorem apply_norErase1_lhTime : (Eff.apply b (.norErase true)).lhTime = b.lhTime := rfl
@[simp] theorem apply_norErase1_fuses : (Eff.apply b (.norErase true)).fuses = b.fuses := rfl
@[simp] theorem apply_norErase1_out : (Eff.apply b (.norErase true)).out = b.out := rfl
@[simp] theorem apply_norErase1_fresh : (Eff.apply b (.norErase true)).fresh = b.fresh := rfl
@[simp] theorem apply_norErase1_lrs : (Eff.apply b (.norErase true)).lrs = b.lrs := rfl
@[simp] theorem apply_norErase1_ctl : (Eff.apply b (.norErase true)).ctl = b.ctl := rfl

@[simp] theorem apply_poison_mem (k : Nat) : (Eff.apply b (.poison k)).mem = b.mem := rfl
@[simp] theorem apply_poison_host (k : Nat) : (Eff.apply b (.poison k)).host = b.host := rfl
@[simp] theorem apply_poison_flash (k : Nat) : (Eff.apply b (.poison k)).flash = b.flash := rfl
@[simp] theorem apply_poison_nor0 (k : Nat) : (Eff.apply b (.poison k)).nor0 = b.nor0 := rfl
@[simp] theorem apply_poison_nor1 (k : Nat) : (Eff.apply b (.poison k)).nor1 = b.nor1 := rfl
@[simp] theorem apply_poison_sems (k : Nat) : (Eff.apply b (.poison k)).sems = Tab.set 0 b.sems k (semWord (semCount (b.sem k)) true) := rfl
@[simp] theorem apply_poison_arb (k : Nat) : (Eff.apply b (.poison k)).arb = b.arb := rfl
@[simp] theorem apply_poison_lhTime (k : Nat) : (Eff.apply b (.poison k)).lhTime = b.lhTime := rfl
@[simp] theorem apply_poison_fuses (k : Nat) : (Eff.apply b (.poison k)).fuses = b.fuses := rfl
@[simp] theorem apply_poison_out (k : Nat) : (Eff.apply b (.poison k)).out = b.out := rfl
@[simp] theorem apply_poison_fresh (k : Nat) : (Eff.apply b (.poison k)).fresh = b.fresh := rfl
@[simp] theorem apply_poison_lrs (k : Nat) : (Eff.apply b (.poison k)).lrs = b.lrs := rfl
@[simp] theorem apply_poison_ctl (k : Nat) : (Eff.apply b (.poison k)).ctl = b.ctl := rfl

@[simp] theorem apply_semReset_mem (k v : Nat) : (Eff.apply b (.semReset k v)).mem = b.mem := rfl
@[simp] theorem apply_semReset_host (k v : Nat) : (Eff.apply b (.semReset k v)).host = b.host := rfl
@[simp] theorem apply_semReset_flash (k v : Nat) : (Eff.apply b (.semReset k v)).flash = b.flash := rfl
@[simp] theorem apply_semReset_nor0 (k v : Nat) : (Eff.apply b (.semReset k v)).nor0 = b.nor0 := rfl
@[simp] theorem apply_semReset_nor1 (k v : Nat) : (Eff.apply b (.semReset k v)).nor1 = b.nor1 := rfl
@[simp] theorem apply_semReset_sems (k v : Nat) : (Eff.apply b (.semReset k v)).sems = Tab.set 0 b.sems k (semWord v false) := rfl
@[simp] theorem apply_semReset_arb (k v : Nat) : (Eff.apply b (.semReset k v)).arb = b.arb := rfl
@[simp] theorem apply_semReset_lhTime (k v : Nat) : (Eff.apply b (.semReset k v)).lhTime = b.lhTime := rfl
@[simp] theorem apply_semReset_fuses (k v : Nat) : (Eff.apply b (.semReset k v)).fuses = b.fuses := rfl
@[simp] theorem apply_semReset_out (k v : Nat) : (Eff.apply b (.semReset k v)).out = b.out := rfl
@[simp] theorem apply_semReset_fresh (k v : Nat) : (Eff.apply b (.semReset k v)).fresh = b.fresh := rfl
@[simp] theorem apply_semReset_lrs (k v : Nat) : (Eff.apply b (.semReset k v)).lrs = b.lrs := rfl
@[simp] theorem apply_semReset_ctl (k v : Nat) : (Eff.apply b (.semReset k v)).ctl = b.ctl := rfl

@[simp] theorem apply_dequeue_mem (p : Bool) : (Eff.apply b (.dequeue p)).mem = b.mem := rfl
@[simp] theorem apply_dequeue_host (p : Bool) : (Eff.apply b (.dequeue p)).host = b.host := rfl
@[simp] theorem apply_dequeue_flash (p : Bool) : (Eff.apply b (.dequeue p)).flash = b.flash := rfl
@[simp] theorem apply_dequeue_nor0 (p : Bool) : (Eff.apply b (.dequeue p)).nor0 = b.nor0 := rfl
@[simp] theorem apply_dequeue_nor1 (p : Bool) : (Eff.apply b (.dequeue p)).nor1 = b.nor1 := rfl
@[simp] theorem apply_dequeue_sems (p : Bool) : (Eff.apply b (.dequeue p)).sems = b.sems := rfl
@[simp] theorem apply_dequeue_arb (p : Bool) : (Eff.apply b (.dequeue p)).arb = b.arb.dequeue p := rfl
@[simp] theorem apply_dequeue_lhTime (p : Bool) : (Eff.apply b (.dequeue p)).lhTime = b.lhTime := rfl
@[simp] theorem apply_dequeue_fuses (p : Bool) : (Eff.apply b (.dequeue p)).fuses = b.fuses := rfl
@[simp] theorem apply_dequeue_out (p : Bool) : (Eff.apply b (.dequeue p)).out = b.out := rfl
@[simp] theorem apply_dequeue_fresh (p : Bool) : (Eff.apply b (.dequeue p)).fresh = b.fresh := rfl
@[simp] theorem apply_dequeue_lrs (p : Bool) : (Eff.apply b (.dequeue p)).lrs = b.lrs := rfl
@[simp] theorem apply_dequeue_ctl (p : Bool) : (Eff.apply b (.dequeue p)).ctl = b.ctl := rfl

@[simp] theorem apply_arbReset_mem : (Eff.apply b (.arbReset)).mem = b.mem := rfl
@[simp] theorem apply_arbReset_host : (Eff.apply b (.arbReset)).host = b.host := rfl
@[simp] theorem apply_arbReset_flash : (Eff.apply b (.arbReset)).flash = b.flash := rfl
@[simp] theorem apply_arbReset_nor0 : (Eff.apply b (.arbReset)).nor0 = b.nor0 := rfl
@[simp] theorem apply_arbReset_nor1 : (Eff.apply b (.arbReset)).nor1 = b.nor1 := rfl
@[simp] theorem apply_arbReset_sems : (Eff.apply b (.arbReset)).sems = b.sems := rfl
@[simp] theorem apply_arbReset_arb : (Eff.apply b (.arbReset)).arb = Arbiter.reset := rfl
@[simp] theorem apply_arbReset_lhTime : (Eff.apply b (.arbReset)).lhTime = b.lhTime := rfl
@[simp] theorem apply_arbReset_fuses : (Eff.apply b (.arbReset)).fuses = b.fuses := rfl
@[simp] theorem apply_arbReset_out : (Eff.apply b (.arbReset)).out = b.out := rfl
@[simp] theorem apply_arbReset_fresh : (Eff.apply b (.arbReset)).fresh = b.fresh := rfl
@[simp] theorem apply_arbReset_lrs : (Eff.apply b (.arbReset)).lrs = b.lrs := rfl
@[simp] theorem apply_arbReset_ctl : (Eff.apply b (.arbReset)).ctl = b.ctl := rfl

@[simp] theorem apply_tick_mem (n : Nat) : (Eff.apply b (.tick n)).mem = b.mem := rfl
@[simp] theorem apply_tick_host (n : Nat) : (Eff.apply b (.tick n)).host = b.host := rfl
@[simp] theorem apply_tick_flash (n : Nat) : (Eff.apply b (.tick n)).flash = b.flash := rfl
@[simp] theorem apply_tick_nor0 (n : Nat) : (Eff.apply b (.tick n)).nor0 = b.nor0 := rfl
@[simp] theorem apply_tick_nor1 (n : Nat) : (Eff.apply b (.tick n)).nor1 = b.nor1 := rfl
@[simp] theorem apply_tick_sems (n : Nat) : (Eff.apply b (.tick n)).sems = b.sems := rfl
@[simp] theorem apply_tick_arb (n : Nat) : (Eff.apply b (.tick n)).arb = b.arb := rfl
@[simp] theorem apply_tick_lhTime (n : Nat) : (Eff.apply b (.tick n)).lhTime = b.lhTime + n := rfl
@[simp] theorem apply_tick_fuses (n : Nat) : (Eff.apply b (.tick n)).fuses = b.fuses := rfl
@[simp] theorem apply_tick_out (n : Nat) : (Eff.apply b (.tick n)).out = b.out := rfl
@[simp] theorem apply_tick_fresh (n : Nat) : (Eff.apply b (.tick n)).fresh = b.fresh := rfl
@[simp] theorem apply_tick_lrs (n : Nat) : (Eff.apply b (.tick n)).lrs = b.lrs := rfl
@[simp] theorem apply_tick_ctl (n : Nat) : (Eff.apply b (.tick n)).ctl = b.ctl := rfl

@[simp] theorem apply_timeLost_mem : (Eff.apply b (.timeLost)).mem = b.mem := rfl
@[simp] theorem apply_timeLost_host : (Eff.apply b (.timeLost)).host = b.host := rfl
@[simp] theorem apply_timeLost_flash : (Eff.apply b (.timeLost)).flash = b.flash := rfl
@[simp] theorem apply_timeLost_nor0 : (Eff.apply b (.timeLost)).nor0 = b.nor0 := rfl
@[simp] theorem apply_timeLost_nor1 : (Eff.apply b (.timeLost)).nor1 = b.nor1 := rfl
@[simp] theorem apply_timeLost_sems : (Eff.apply b (.timeLost)).sems = b.sems := rfl
@[simp] theorem apply_timeLost_arb : (Eff.apply b (.timeLost)).arb = b.arb := rfl
@[simp] theorem apply_timeLost_lhTime : (Eff.apply b (.timeLost)).lhTime = 0 := rfl
@[simp] theorem apply_timeLost_fuses : (Eff.apply b (.timeLost)).fuses = b.fuses := rfl
@[simp] theorem apply_timeLost_out : (Eff.apply b (.timeLost)).out = b.out := rfl
@[simp] theorem apply_timeLost_fresh : (Eff.apply b (.timeLost)).fresh = b.fresh := rfl
@[simp] theorem apply_timeLost_lrs : (Eff.apply b (.timeLost)).lrs = b.lrs := rfl
@[simp] theorem apply_timeLost_ctl : (Eff.apply b (.timeLost)).ctl = b.ctl := rfl

@[simp] theorem apply_rollback_mem (n : Nat) : (Eff.apply b (.rollback n)).mem = b.mem := rfl
@[simp] theorem apply_rollback_host (n : Nat) : (Eff.apply b (.rollback n)).host = b.host := rfl
@[simp] theorem apply_rollback_flash (n : Nat) : (Eff.apply b (.rollback n)).flash = b.flash := rfl
@[simp] theorem apply_rollback_nor0 (n : Nat) : (Eff.apply b (.rollback n)).nor0 = b.nor0 := rfl
@[simp] theorem apply_rollback_nor1 (n : Nat) : (Eff.apply b (.rollback n)).nor1 = b.nor1 := rfl
@[simp] theorem apply_rollback_sems (n : Nat) : (Eff.apply b (.rollback n)).sems = b.sems := rfl
@[simp] theorem apply_rollback_arb (n : Nat) : (Eff.apply b (.rollback n)).arb = b.arb := rfl
@[simp] theorem apply_rollback_lhTime (n : Nat) : (Eff.apply b (.rollback n)).lhTime = b.lhTime := rfl
@[simp] theorem apply_rollback_fuses (n : Nat) : (Eff.apply b (.rollback n)).fuses = { b.fuses with rollback := max b.fuses.rollback (min n 64) } := rfl
@[simp] theorem apply_rollback_out (n : Nat) : (Eff.apply b (.rollback n)).out = b.out := rfl
@[simp] theorem apply_rollback_fresh (n : Nat) : (Eff.apply b (.rollback n)).fresh = b.fresh := rfl
@[simp] theorem apply_rollback_lrs (n : Nat) : (Eff.apply b (.rollback n)).lrs = b.lrs := rfl
@[simp] theorem apply_rollback_ctl (n : Nat) : (Eff.apply b (.rollback n)).ctl = b.ctl := rfl

@[simp] theorem apply_enrol_mem (k : Nat) (h : Bytes) : (Eff.apply b (.enrol k h)).mem = b.mem := rfl
@[simp] theorem apply_enrol_host (k : Nat) (h : Bytes) : (Eff.apply b (.enrol k h)).host = b.host := rfl
@[simp] theorem apply_enrol_flash (k : Nat) (h : Bytes) : (Eff.apply b (.enrol k h)).flash = b.flash := rfl
@[simp] theorem apply_enrol_nor0 (k : Nat) (h : Bytes) : (Eff.apply b (.enrol k h)).nor0 = b.nor0 := rfl
@[simp] theorem apply_enrol_nor1 (k : Nat) (h : Bytes) : (Eff.apply b (.enrol k h)).nor1 = b.nor1 := rfl
@[simp] theorem apply_enrol_sems (k : Nat) (h : Bytes) : (Eff.apply b (.enrol k h)).sems = b.sems := rfl
@[simp] theorem apply_enrol_arb (k : Nat) (h : Bytes) : (Eff.apply b (.enrol k h)).arb = b.arb := rfl
@[simp] theorem apply_enrol_lhTime (k : Nat) (h : Bytes) : (Eff.apply b (.enrol k h)).lhTime = b.lhTime := rfl
@[simp] theorem apply_enrol_out (k : Nat) (h : Bytes) : (Eff.apply b (.enrol k h)).out = b.out := rfl
@[simp] theorem apply_enrol_fresh (k : Nat) (h : Bytes) : (Eff.apply b (.enrol k h)).fresh = b.fresh := rfl
@[simp] theorem apply_enrol_lrs (k : Nat) (h : Bytes) : (Eff.apply b (.enrol k h)).lrs = b.lrs := rfl
@[simp] theorem apply_enrol_ctl (k : Nat) (h : Bytes) : (Eff.apply b (.enrol k h)).ctl = b.ctl := rfl

@[simp] theorem apply_revoke_mem (k : Nat) : (Eff.apply b (.revoke k)).mem = b.mem := rfl
@[simp] theorem apply_revoke_host (k : Nat) : (Eff.apply b (.revoke k)).host = b.host := rfl
@[simp] theorem apply_revoke_flash (k : Nat) : (Eff.apply b (.revoke k)).flash = b.flash := rfl
@[simp] theorem apply_revoke_nor0 (k : Nat) : (Eff.apply b (.revoke k)).nor0 = b.nor0 := rfl
@[simp] theorem apply_revoke_nor1 (k : Nat) : (Eff.apply b (.revoke k)).nor1 = b.nor1 := rfl
@[simp] theorem apply_revoke_sems (k : Nat) : (Eff.apply b (.revoke k)).sems = b.sems := rfl
@[simp] theorem apply_revoke_arb (k : Nat) : (Eff.apply b (.revoke k)).arb = b.arb := rfl
@[simp] theorem apply_revoke_lhTime (k : Nat) : (Eff.apply b (.revoke k)).lhTime = b.lhTime := rfl
@[simp] theorem apply_revoke_out (k : Nat) : (Eff.apply b (.revoke k)).out = b.out := rfl
@[simp] theorem apply_revoke_fresh (k : Nat) : (Eff.apply b (.revoke k)).fresh = b.fresh := rfl
@[simp] theorem apply_revoke_lrs (k : Nat) : (Eff.apply b (.revoke k)).lrs = b.lrs := rfl
@[simp] theorem apply_revoke_ctl (k : Nat) : (Eff.apply b (.revoke k)).ctl = b.ctl := rfl

@[simp] theorem apply_debugOwner_mem : (Eff.apply b (.debugOwner)).mem = b.mem := rfl
@[simp] theorem apply_debugOwner_host : (Eff.apply b (.debugOwner)).host = b.host := rfl
@[simp] theorem apply_debugOwner_flash : (Eff.apply b (.debugOwner)).flash = b.flash := rfl
@[simp] theorem apply_debugOwner_nor0 : (Eff.apply b (.debugOwner)).nor0 = b.nor0 := rfl
@[simp] theorem apply_debugOwner_nor1 : (Eff.apply b (.debugOwner)).nor1 = b.nor1 := rfl
@[simp] theorem apply_debugOwner_sems : (Eff.apply b (.debugOwner)).sems = b.sems := rfl
@[simp] theorem apply_debugOwner_arb : (Eff.apply b (.debugOwner)).arb = b.arb := rfl
@[simp] theorem apply_debugOwner_lhTime : (Eff.apply b (.debugOwner)).lhTime = b.lhTime := rfl
@[simp] theorem apply_debugOwner_fuses : (Eff.apply b (.debugOwner)).fuses = { b.fuses with debugOwner := true } := rfl
@[simp] theorem apply_debugOwner_out : (Eff.apply b (.debugOwner)).out = b.out := rfl
@[simp] theorem apply_debugOwner_fresh : (Eff.apply b (.debugOwner)).fresh = b.fresh := rfl
@[simp] theorem apply_debugOwner_lrs : (Eff.apply b (.debugOwner)).lrs = b.lrs := rfl
@[simp] theorem apply_debugOwner_ctl : (Eff.apply b (.debugOwner)).ctl = b.ctl := rfl

@[simp] theorem apply_send_mem (d : Dest) (m : Msg) : (Eff.apply b (.send d m)).mem = b.mem := rfl
@[simp] theorem apply_send_host (d : Dest) (m : Msg) : (Eff.apply b (.send d m)).host = b.host := rfl
@[simp] theorem apply_send_flash (d : Dest) (m : Msg) : (Eff.apply b (.send d m)).flash = b.flash := rfl
@[simp] theorem apply_send_nor0 (d : Dest) (m : Msg) : (Eff.apply b (.send d m)).nor0 = b.nor0 := rfl
@[simp] theorem apply_send_nor1 (d : Dest) (m : Msg) : (Eff.apply b (.send d m)).nor1 = b.nor1 := rfl
@[simp] theorem apply_send_sems (d : Dest) (m : Msg) : (Eff.apply b (.send d m)).sems = b.sems := rfl
@[simp] theorem apply_send_arb (d : Dest) (m : Msg) : (Eff.apply b (.send d m)).arb = b.arb := rfl
@[simp] theorem apply_send_lhTime (d : Dest) (m : Msg) : (Eff.apply b (.send d m)).lhTime = b.lhTime := rfl
@[simp] theorem apply_send_fuses (d : Dest) (m : Msg) : (Eff.apply b (.send d m)).fuses = b.fuses := rfl
@[simp] theorem apply_send_out (d : Dest) (m : Msg) : (Eff.apply b (.send d m)).out = { dest := d, msg := m } :: b.out := rfl
@[simp] theorem apply_send_fresh (d : Dest) (m : Msg) : (Eff.apply b (.send d m)).fresh = b.fresh := rfl
@[simp] theorem apply_send_lrs (d : Dest) (m : Msg) : (Eff.apply b (.send d m)).lrs = b.lrs := rfl
@[simp] theorem apply_send_ctl (d : Dest) (m : Msg) : (Eff.apply b (.send d m)).ctl = b.ctl := rfl

@[simp] theorem apply_fresh_mem : (Eff.apply b (.fresh)).mem = b.mem := rfl
@[simp] theorem apply_fresh_host : (Eff.apply b (.fresh)).host = b.host := rfl
@[simp] theorem apply_fresh_flash : (Eff.apply b (.fresh)).flash = b.flash := rfl
@[simp] theorem apply_fresh_nor0 : (Eff.apply b (.fresh)).nor0 = b.nor0 := rfl
@[simp] theorem apply_fresh_nor1 : (Eff.apply b (.fresh)).nor1 = b.nor1 := rfl
@[simp] theorem apply_fresh_sems : (Eff.apply b (.fresh)).sems = b.sems := rfl
@[simp] theorem apply_fresh_arb : (Eff.apply b (.fresh)).arb = b.arb := rfl
@[simp] theorem apply_fresh_lhTime : (Eff.apply b (.fresh)).lhTime = b.lhTime := rfl
@[simp] theorem apply_fresh_fuses : (Eff.apply b (.fresh)).fuses = b.fuses := rfl
@[simp] theorem apply_fresh_out : (Eff.apply b (.fresh)).out = b.out := rfl
@[simp] theorem apply_fresh_fresh : (Eff.apply b (.fresh)).fresh = b.fresh + 1 := rfl
@[simp] theorem apply_fresh_lrs : (Eff.apply b (.fresh)).lrs = b.lrs := rfl
@[simp] theorem apply_fresh_ctl : (Eff.apply b (.fresh)).ctl = b.ctl := rfl

@[simp] theorem apply_reserve_mem (c t : Nat) (r : Option (Nat × Nat)) : (Eff.apply b (.reserve c t r)).mem = b.mem := rfl
@[simp] theorem apply_reserve_host (c t : Nat) (r : Option (Nat × Nat)) : (Eff.apply b (.reserve c t r)).host = b.host := rfl
@[simp] theorem apply_reserve_flash (c t : Nat) (r : Option (Nat × Nat)) : (Eff.apply b (.reserve c t r)).flash = b.flash := rfl
@[simp] theorem apply_reserve_nor0 (c t : Nat) (r : Option (Nat × Nat)) : (Eff.apply b (.reserve c t r)).nor0 = b.nor0 := rfl
@[simp] theorem apply_reserve_nor1 (c t : Nat) (r : Option (Nat × Nat)) : (Eff.apply b (.reserve c t r)).nor1 = b.nor1 := rfl
@[simp] theorem apply_reserve_sems (c t : Nat) (r : Option (Nat × Nat)) : (Eff.apply b (.reserve c t r)).sems = b.sems := rfl
@[simp] theorem apply_reserve_arb (c t : Nat) (r : Option (Nat × Nat)) : (Eff.apply b (.reserve c t r)).arb = b.arb := rfl
@[simp] theorem apply_reserve_lhTime (c t : Nat) (r : Option (Nat × Nat)) : (Eff.apply b (.reserve c t r)).lhTime = b.lhTime := rfl
@[simp] theorem apply_reserve_fuses (c t : Nat) (r : Option (Nat × Nat)) : (Eff.apply b (.reserve c t r)).fuses = b.fuses := rfl
@[simp] theorem apply_reserve_out (c t : Nat) (r : Option (Nat × Nat)) : (Eff.apply b (.reserve c t r)).out = b.out := rfl
@[simp] theorem apply_reserve_fresh (c t : Nat) (r : Option (Nat × Nat)) : (Eff.apply b (.reserve c t r)).fresh = b.fresh := rfl
@[simp] theorem apply_reserve_ctl (c t : Nat) (r : Option (Nat × Nat)) : (Eff.apply b (.reserve c t r)).ctl = b.ctl := rfl
@[simp] theorem apply_reserve_lrs (c t : Nat) (r : Option (Nat × Nat)) : (Eff.apply b (.reserve c t r)).lrs = reserveOf b.lrs c t r := rfl

@[simp] theorem apply_upd_mem (f : Ctl → Ctl) : (Eff.apply b (.upd f)).mem = b.mem := rfl
@[simp] theorem apply_upd_host (f : Ctl → Ctl) : (Eff.apply b (.upd f)).host = b.host := rfl
@[simp] theorem apply_upd_flash (f : Ctl → Ctl) : (Eff.apply b (.upd f)).flash = b.flash := rfl
@[simp] theorem apply_upd_nor0 (f : Ctl → Ctl) : (Eff.apply b (.upd f)).nor0 = b.nor0 := rfl
@[simp] theorem apply_upd_nor1 (f : Ctl → Ctl) : (Eff.apply b (.upd f)).nor1 = b.nor1 := rfl
@[simp] theorem apply_upd_sems (f : Ctl → Ctl) : (Eff.apply b (.upd f)).sems = b.sems := rfl
@[simp] theorem apply_upd_arb (f : Ctl → Ctl) : (Eff.apply b (.upd f)).arb = b.arb := rfl
@[simp] theorem apply_upd_lhTime (f : Ctl → Ctl) : (Eff.apply b (.upd f)).lhTime = b.lhTime := rfl
@[simp] theorem apply_upd_fuses (f : Ctl → Ctl) : (Eff.apply b (.upd f)).fuses = b.fuses := rfl
@[simp] theorem apply_upd_out (f : Ctl → Ctl) : (Eff.apply b (.upd f)).out = b.out := rfl
@[simp] theorem apply_upd_fresh (f : Ctl → Ctl) : (Eff.apply b (.upd f)).fresh = b.fresh := rfl
@[simp] theorem apply_upd_lrs (f : Ctl → Ctl) : (Eff.apply b (.upd f)).lrs = b.lrs := rfl
@[simp] theorem apply_upd_ctl (f : Ctl → Ctl) : (Eff.apply b (.upd f)).ctl = f b.ctl := rfl

/-! ## Events -/

@[simp] theorem accept_mem (c s d : Nat) : (b.accept c s d).mem = b.mem := rfl
@[simp] theorem apply_raise_mem (c s d : Nat) : (Eff.apply b (.raise c s d)).mem = b.mem := rfl
@[simp] theorem accept_host (c s d : Nat) : (b.accept c s d).host = b.host := rfl
@[simp] theorem apply_raise_host (c s d : Nat) : (Eff.apply b (.raise c s d)).host = b.host := rfl
@[simp] theorem accept_flash (c s d : Nat) : (b.accept c s d).flash = b.flash := rfl
@[simp] theorem apply_raise_flash (c s d : Nat) : (Eff.apply b (.raise c s d)).flash = b.flash := rfl
@[simp] theorem accept_nor0 (c s d : Nat) : (b.accept c s d).nor0 = b.nor0 := rfl
@[simp] theorem apply_raise_nor0 (c s d : Nat) : (Eff.apply b (.raise c s d)).nor0 = b.nor0 := rfl
@[simp] theorem accept_nor1 (c s d : Nat) : (b.accept c s d).nor1 = b.nor1 := rfl
@[simp] theorem apply_raise_nor1 (c s d : Nat) : (Eff.apply b (.raise c s d)).nor1 = b.nor1 := rfl
@[simp] theorem accept_sems (c s d : Nat) : (b.accept c s d).sems = b.sems := rfl
@[simp] theorem apply_raise_sems (c s d : Nat) : (Eff.apply b (.raise c s d)).sems = b.sems := rfl
@[simp] theorem accept_lhTime (c s d : Nat) : (b.accept c s d).lhTime = b.lhTime := rfl
@[simp] theorem apply_raise_lhTime (c s d : Nat) : (Eff.apply b (.raise c s d)).lhTime = b.lhTime := rfl
@[simp] theorem accept_fuses (c s d : Nat) : (b.accept c s d).fuses = b.fuses := rfl
@[simp] theorem apply_raise_fuses (c s d : Nat) : (Eff.apply b (.raise c s d)).fuses = b.fuses := rfl
@[simp] theorem accept_out (c s d : Nat) : (b.accept c s d).out = b.out := rfl
@[simp] theorem apply_raise_out (c s d : Nat) : (Eff.apply b (.raise c s d)).out = b.out := rfl
@[simp] theorem accept_fresh (c s d : Nat) : (b.accept c s d).fresh = b.fresh := rfl
@[simp] theorem apply_raise_fresh (c s d : Nat) : (Eff.apply b (.raise c s d)).fresh = b.fresh := rfl
@[simp] theorem accept_lrs (c s d : Nat) : (b.accept c s d).lrs = b.lrs := rfl
@[simp] theorem apply_raise_lrs (c s d : Nat) : (Eff.apply b (.raise c s d)).lrs = b.lrs := rfl
@[simp] theorem accept_ctl (c s d : Nat) : (b.accept c s d).ctl = b.ctl.roused := rfl
@[simp] theorem apply_raise_ctl (c s d : Nat) : (Eff.apply b (.raise c s d)).ctl = b.ctl.roused := rfl
@[simp] theorem apply_raise_next (c s d : Nat) : (Eff.apply b (.raise c s d)).arb.next = b.arb.next + 1 := rfl

/-! ## Signals: the semaphore, and an event when it saturates (R284) -/

/-- A signal that does not saturate the semaphore changes nothing but it. -/
theorem apply_signal_plain (k n : Nat) (h : semOverflows (b.sem k) n = false) :
    Eff.apply b (.signal k n) = { b with sems := Tab.set 0 b.sems k (semSignal (b.sem k) n) } := by
  simp [Eff.apply, h]

@[simp] theorem apply_signal_mem (k n : Nat) : (Eff.apply b (.signal k n)).mem = b.mem := by
  simp only [Eff.apply]; split <;> rfl
@[simp] theorem apply_signal_host (k n : Nat) : (Eff.apply b (.signal k n)).host = b.host := by
  simp only [Eff.apply]; split <;> rfl
@[simp] theorem apply_signal_flash (k n : Nat) : (Eff.apply b (.signal k n)).flash = b.flash := by
  simp only [Eff.apply]; split <;> rfl
@[simp] theorem apply_signal_nor0 (k n : Nat) : (Eff.apply b (.signal k n)).nor0 = b.nor0 := by
  simp only [Eff.apply]; split <;> rfl
@[simp] theorem apply_signal_nor1 (k n : Nat) : (Eff.apply b (.signal k n)).nor1 = b.nor1 := by
  simp only [Eff.apply]; split <;> rfl
@[simp] theorem apply_signal_lhTime (k n : Nat) : (Eff.apply b (.signal k n)).lhTime = b.lhTime := by
  simp only [Eff.apply]; split <;> rfl
@[simp] theorem apply_signal_fuses (k n : Nat) : (Eff.apply b (.signal k n)).fuses = b.fuses := by
  simp only [Eff.apply]; split <;> rfl
@[simp] theorem apply_signal_out (k n : Nat) : (Eff.apply b (.signal k n)).out = b.out := by
  simp only [Eff.apply]; split <;> rfl
@[simp] theorem apply_signal_fresh (k n : Nat) : (Eff.apply b (.signal k n)).fresh = b.fresh := by
  simp only [Eff.apply]; split <;> rfl
@[simp] theorem apply_signal_lrs (k n : Nat) : (Eff.apply b (.signal k n)).lrs = b.lrs := by
  simp only [Eff.apply]; split <;> rfl
@[simp] theorem apply_signal_sems (k n : Nat) : (Eff.apply b (.signal k n)).sems = Tab.set 0 b.sems k (semSignal (b.sem k) n) := by
  simp only [Eff.apply]; split <;> rfl

/-! ## Rousing touches the power state alone -/

@[simp] theorem roused_glb (c : Ctl) : c.roused.glb = c.glb := rfl
@[simp] theorem roused_pins (c : Ctl) : c.roused.pins = c.pins := rfl
@[simp] theorem roused_hif (c : Ctl) : c.roused.hif = c.hif := rfl
@[simp] theorem roused_lh (c : Ctl) : c.roused.lh = c.lh := rfl
@[simp] theorem roused_plan (c : Ctl) : c.roused.plan = c.plan := rfl
@[simp] theorem roused_job (c : Ctl) : c.roused.job = c.job := rfl
@[simp] theorem roused_fw (c : Ctl) : c.roused.fw = c.fw := rfl
@[simp] theorem roused_engine (c : Ctl) : c.roused.engine = c.engine := rfl
@[simp] theorem roused_links (c : Ctl) : c.roused.links = c.links := rfl
@[simp] theorem roused_pair (c : Ctl) : c.roused.pair = c.pair := rfl
@[simp] theorem roused_health (c : Ctl) : c.roused.health = c.health := rfl
@[simp] theorem roused_shoal (c : Ctl) : c.roused.shoal = c.shoal := rfl
@[simp] theorem roused_sec (c : Ctl) : c.roused.sec = c.sec := rfl
@[simp] theorem roused_bar2Err (c : Ctl) : c.roused.bar2Err = c.bar2Err := rfl

end Sys2Proof.Machine
end

