-- ==== Sys2Proof/Laws/Act.lean ====
section
/-! SUPPORT. Trees of effects: how they run, and what every effect keeps, their trees keep. -/

namespace Sys2Proof.Machine

variable (b : Block)

@[simp] theorem run_done : Act.done.run b = b := rfl
@[simp] theorem run_eff (e : Eff) (k : Act) : (Act.eff e k).run b = k.run (e.apply b) := rfl
@[simp] theorem run_look (f : Block → Act) : (Act.look f).run b = (f b).run b := rfl

/-- One tree after another. -/
@[simp] theorem run_seq (a t : Act) : (a.seq t).run b = t.run (a.run b) := by
  induction a generalizing b with
  | done => rfl
  | eff e k ih => exact ih (e.apply b)
  | look f ih => exact ih b b

@[simp] theorem run_one (e : Eff) : (Act.one e).run b = e.apply b := rfl
@[simp] theorem run_upd (f : Ctl → Ctl) : (Act.upd f).run b = { b with ctl := f b.ctl } := rfl
@[simp] theorem run_all_nil : (Act.all []).run b = b := rfl
@[simp] theorem run_all_cons (a : Act) (as : List Act) : (Act.all (a :: as)).run b = (Act.all as).run (a.run b) := run_seq b a _
@[simp] theorem run_each_nil {α : Type} (f : α → Act) : (Act.each [] f).run b = b := rfl
@[simp] theorem run_each_cons {α : Type} (x : α) (xs : List α) (f : α → Act) :
    (Act.each (x :: xs) f).run b = (Act.each xs f).run ((f x).run b) := run_seq b (f x) _
@[simp] theorem run_when_true (a : Act) : (Act.when true a).run b = a.run b := rfl
@[simp] theorem run_when_false (a : Act) : (Act.when false a).run b = b := rfl
@[simp] theorem run_opt_none {α : Type} (f : α → Act) : (Act.opt none f).run b = b := rfl
@[simp] theorem run_opt_some {α : Type} (x : α) (f : α → Act) : (Act.opt (some x) f).run b = (f x).run b := rfl

/-- A tree under a condition. -/
theorem run_when (c : Bool) (a : Act) : (Act.when c a).run b = if c then a.run b else b := by cases c <;> rfl

/-- A list of trees runs in order. -/
theorem run_all_append (as ts : List Act) : (Act.all (as ++ ts)).run b = (Act.all ts).run ((Act.all as).run b) := by
  induction as generalizing b with
  | nil => rfl
  | cons a as ih => simp [ih]

/-- What every effect keeps, every tree keeps. -/
theorem run_keeps (P : Block → Prop) (h : ∀ b e, P b → P (Eff.apply b e)) (a : Act) (hb : P b) : P (a.run b) := by
  induction a generalizing b with
  | done => exact hb
  | eff e k ih => exact ih _ (h b e hb)
  | look f ih => exact ih b b hb

/-- A reflexive, transitive relation that every effect satisfies relates a block to what a tree makes of it. -/
theorem run_relates (R : Block → Block → Prop) (hr : ∀ b, R b b) (ht : ∀ b c d, R b c → R c d → R b d) (h : ∀ b e, R b (Eff.apply b e)) (a : Act) :
    R b (a.run b) := by
  induction a generalizing b with
  | done => exact hr b
  | eff e k ih => exact ht _ _ _ (h b e) (ih _)
  | look f ih => exact ih b b

/-! ## Trees that hold only effects of a kind -/

/-- Every effect of the tree, whatever the block looks like, satisfies `P`. -/
def Act.Only (P : Eff → Prop) : Act → Prop
  | .done => True
  | .eff e k => P e ∧ k.Only P
  | .look f => ∀ b, (f b).Only P

section Only
variable (P : Eff → Prop)

@[simp] theorem only_done : Act.done.Only P := trivial
@[simp] theorem only_eff (e : Eff) (k : Act) : (Act.eff e k).Only P ↔ P e ∧ k.Only P := Iff.rfl
@[simp] theorem only_look (f : Block → Act) : (Act.look f).Only P ↔ ∀ b, (f b).Only P := Iff.rfl
@[simp] theorem only_one (e : Eff) : (Act.one e).Only P ↔ P e := ⟨fun h => h.1, fun h => ⟨h, trivial⟩⟩
@[simp] theorem only_upd (f : Ctl → Ctl) : (Act.upd f).Only P ↔ P (.upd f) := only_one P _

/-- Both parts of a sequence. -/
theorem only_seq (a t : Act) (ha : a.Only P) (ht : t.Only P) : (a.seq t).Only P := by
  induction a with
  | done => exact ht
  | eff e k ih => exact ⟨ha.1, ih ha.2⟩
  | look f ih => exact fun b => ih b (ha b)

/-- Every tree of a list. -/
theorem only_all (as : List Act) (h : ∀ a ∈ as, a.Only P) : (Act.all as).Only P := by
  induction as with
  | nil => trivial
  | cons a as ih => exact only_seq P _ _ (h a (by simp)) (ih fun x hx => h x (by simp [hx]))

/-- Every tree of a family. -/
theorem only_each {α : Type} (xs : List α) (f : α → Act) (h : ∀ x, (f x).Only P) : (Act.each xs f).Only P :=
  only_all P _ fun a ha => by
    obtain ⟨x, -, rfl⟩ := List.mem_map.1 ha
    exact h x

/-- A tree under a condition. -/
theorem only_when (c : Bool) (a : Act) (h : c = true → a.Only P) : (Act.when c a).Only P := by
  cases c
  · trivial
  · exact h rfl

/-- A tree that depends on an optional value. -/
theorem only_opt {α : Type} (o : Option α) (f : α → Act) (h : ∀ x, (f x).Only P) : (Act.opt o f).Only P := by
  cases o with
  | none => trivial
  | some x => exact h x

/-- What the effects of a kind keep, a tree of them keeps. -/
theorem Act.Only.keeps (Q : Block → Prop) (h : ∀ b e, P e → Q b → Q (Eff.apply b e)) (a : Act) (ha : a.Only P) (hb : Q b) : Q (a.run b) := by
  induction a generalizing b with
  | done => exact hb
  | eff e k ih => exact ih _ ha.2 (h b e ha.1 hb)
  | look f ih => exact ih b b (ha b) hb

end Only

end Sys2Proof.Machine
end

