-- ==== Sys2Proof/Laws/Memory.lean ====
section
/-! SUPPORT. Sparse tables and memories: what a read after a write gives, and that every write keeps the one canonical form. -/

namespace Sys2Proof.Machine

section Table
variable {α : Type} [DecidableEq α] (d : α)

/-- An entry below every listed number reads as the default. -/
theorem Tab.get_below (t : Tab α) (i : Nat) (lo : Nat) (h : Tab.wfFrom d (some lo) t = true) (hi : i ≤ lo) : Tab.get d t i = d := by
  induction t generalizing lo with
  | nil => rfl
  | cons e t ih =>
    simp only [Tab.wfFrom, Bool.and_eq_true, decide_eq_true_eq] at h
    have hne : ¬ i = e.1 := by omega
    simp only [Tab.get, hne, if_false]
    exact ih e.1 h.2 (by omega)

/-- The canonical form from a lower bound implies the form from any lower one. -/
theorem Tab.wfFrom_lower (t : Tab α) (lo m : Nat) (h : Tab.wfFrom d (some lo) t = true) (hm : m ≤ lo) : Tab.wfFrom d (some m) t = true := by
  cases t with
  | nil => rfl
  | cons e t =>
    simp only [Tab.wfFrom, Bool.and_eq_true, decide_eq_true_eq] at h ⊢
    exact ⟨⟨by omega, h.1.2⟩, h.2⟩

/-- The canonical form from a bound is canonical. -/
theorem Tab.wf_of_wfFrom (t : Tab α) (lo : Nat) (h : Tab.wfFrom d (some lo) t = true) : Tab.wf d t = true := by
  cases t with
  | nil => rfl
  | cons e t =>
    simp only [Tab.wf, Tab.wfFrom, Bool.and_eq_true, decide_eq_true_eq] at h ⊢
    exact ⟨⟨trivial, h.1.2⟩, h.2⟩

/-- Erasing keeps the canonical form from a bound. -/
theorem Tab.wfFrom_erase (t : Tab α) (lo i : Nat) (h : Tab.wfFrom d (some lo) t = true) : Tab.wfFrom d (some lo) (Tab.erase t i) = true := by
  induction t generalizing lo with
  | nil => rfl
  | cons e t ih =>
    obtain ⟨j, a⟩ := e
    simp only [Tab.wfFrom, Bool.and_eq_true, decide_eq_true_eq] at h
    simp only [Tab.erase]
    split
    · exact Tab.wfFrom_lower d _ j lo (ih j h.2) (by omega)
    · simp only [Tab.wfFrom, Bool.and_eq_true, decide_eq_true_eq]
      exact ⟨h.1, ih j h.2⟩

/-- Putting an entry that is not the default keeps the canonical form from a bound below it. -/
theorem Tab.wfFrom_put (t : Tab α) (lo i : Nat) (v : α) (h : Tab.wfFrom d (some lo) t = true) (hi : lo < i) (hv : v ≠ d) :
    Tab.wfFrom d (some lo) (Tab.put t i v) = true := by
  induction t generalizing lo with
  | nil => simp [Tab.put, Tab.wfFrom, hi, hv]
  | cons e t ih =>
    obtain ⟨j, a⟩ := e
    simp only [Tab.wfFrom, Bool.and_eq_true, decide_eq_true_eq] at h
    obtain ⟨⟨hj, ha⟩, ht⟩ := h
    simp only [Tab.put]
    split_ifs with h1 h2
    · simp [Tab.wfFrom, hi, hv, h1, ha, ht]
    · simp only [Tab.wfFrom, Bool.and_eq_true, decide_eq_true_eq]
      exact ⟨⟨by omega, hv⟩, h2 ▸ ht⟩
    · simp only [Tab.wfFrom, Bool.and_eq_true, decide_eq_true_eq]
      exact ⟨⟨hj, ha⟩, ih j ht (by omega)⟩

/-- A write keeps the canonical form. -/
theorem Tab.wf_set (t : Tab α) (i : Nat) (v : α) (h : Tab.wf d t = true) : Tab.wf d (Tab.set d t i v) = true := by
  unfold Tab.set
  split_ifs with hv
  · induction t with
    | nil => rfl
    | cons e t ih =>
      obtain ⟨j, a⟩ := e
      simp only [Tab.wf, Tab.wfFrom, Bool.and_eq_true, decide_eq_true_eq] at h
      simp only [Tab.erase]
      split
      · exact ih (Tab.wf_of_wfFrom d t j h.2)
      · simp only [Tab.wf, Tab.wfFrom, Bool.and_eq_true, decide_eq_true_eq]
        exact ⟨h.1, Tab.wfFrom_erase d t j i h.2⟩
  · cases t with
    | nil => simp [Tab.put, Tab.wf, Tab.wfFrom, hv]
    | cons e t =>
      obtain ⟨j, a⟩ := e
      simp only [Tab.wf, Tab.wfFrom, Bool.and_eq_true, decide_eq_true_eq] at h
      obtain ⟨⟨-, ha⟩, ht⟩ := h
      simp only [Tab.put]
      split_ifs with h1 h2
      · simp [Tab.wf, Tab.wfFrom, hv, h1, ha, ht]
      · simp only [Tab.wf, Tab.wfFrom, Bool.and_eq_true, decide_eq_true_eq]
        exact ⟨⟨trivial, hv⟩, h2 ▸ ht⟩
      · simp only [Tab.wf, Tab.wfFrom, Bool.and_eq_true, decide_eq_true_eq]
        exact ⟨⟨trivial, ha⟩, Tab.wfFrom_put d t j i v ht (by omega) hv⟩

omit [DecidableEq α] in
/-- An erased entry reads as the default, every other as before. -/
theorem Tab.get_erase (t : Tab α) (i k : Nat) : Tab.get d (Tab.erase t i) k = if k = i then d else Tab.get d t k := by
  induction t with
  | nil => simp [Tab.erase, Tab.get]
  | cons e t ih =>
    obtain ⟨j, a⟩ := e
    simp only [Tab.erase, Tab.get]
    split_ifs <;> simp_all [Tab.get]

omit [DecidableEq α] in
/-- An entry that was put reads as it was put, every other as before. -/
theorem Tab.get_put (t : Tab α) (i k : Nat) (v : α) : Tab.get d (Tab.put t i v) k = if k = i then v else Tab.get d t k := by
  induction t with
  | nil => simp [Tab.put, Tab.get]
  | cons e t ih =>
    obtain ⟨j, a⟩ := e
    simp only [Tab.put, Tab.get]
    split_ifs <;> simp_all [Tab.get]

/-- What a table gives after a write, whatever its form. -/
theorem Tab.get_set (t : Tab α) (i k : Nat) (v : α) : Tab.get d (Tab.set d t i v) k = if k = i then v else Tab.get d t k := by
  unfold Tab.set
  split_ifs with hv hk hk
  · rw [Tab.get_erase]; simp [hk, hv]
  · rw [Tab.get_erase]; simp [hk]
  · rw [Tab.get_put]; simp [hk]
  · rw [Tab.get_put]; simp [hk]

/-- A read of the entry just written gives the value written. -/
@[simp] theorem Tab.get_set_self (t : Tab α) (i : Nat) (v : α) : Tab.get d (Tab.set d t i v) i = v := by simp [Tab.get_set]

/-- A write leaves every other entry alone. -/
theorem Tab.get_set_other (t : Tab α) (i k : Nat) (v : α) (h : k ≠ i) : Tab.get d (Tab.set d t i v) k = Tab.get d t k := by
  simp [Tab.get_set, h]

end Table

/-- A table filtered by number keeps the canonical form from a bound. -/
theorem Tab.wfFrom_filter {α : Type} [DecidableEq α] (d : α) (t : Tab α) (p : Nat × α → Bool) (lo : Nat)
    (h : Tab.wfFrom d (some lo) t = true) : Tab.wfFrom d (some lo) (t.filter p) = true := by
  induction t generalizing lo with
  | nil => rfl
  | cons e t ih =>
    simp only [Tab.wfFrom, Bool.and_eq_true, decide_eq_true_eq] at h
    simp only [List.filter]
    split
    · simp only [Tab.wfFrom, Bool.and_eq_true, decide_eq_true_eq]
      exact ⟨h.1, ih e.1 h.2⟩
    · exact Tab.wfFrom_lower d _ e.1 lo (ih e.1 h.2) (by omega)

/-- A table filtered by number keeps the canonical form. -/
theorem Tab.wf_filter {α : Type} [DecidableEq α] (d : α) (t : Tab α) (p : Nat × α → Bool) (h : Tab.wf d t = true) :
    Tab.wf d (t.filter p) = true := by
  induction t with
  | nil => rfl
  | cons e t ih =>
    simp only [Tab.wf, Tab.wfFrom, Bool.and_eq_true, decide_eq_true_eq] at h
    simp only [List.filter]
    split
    · simp only [Tab.wf, Tab.wfFrom, Bool.and_eq_true, decide_eq_true_eq]
      exact ⟨⟨trivial, h.1.2⟩, Tab.wfFrom_filter d t p e.1 h.2⟩
    · exact ih (Tab.wf_of_wfFrom d t e.1 h.2)

/-! ## Memories -/

/-- A write of bytes keeps the canonical form of a memory. -/
theorem Memory.wf_write (m : Memory) (a : Nat) (bs : Bytes) (h : m.wf = true) : (Memory.write m a bs).wf = true := by
  induction bs generalizing m a with
  | nil => exact h
  | cons b bs ih => exact ih _ _ (Tab.wf_set blankByte m a b h)

/-- A write leaves every byte outside its range alone. -/
theorem Memory.byte_write_outside (m : Memory) (a : Nat) (bs : Bytes) (k : Nat) (h : k < a ∨ a + bs.length ≤ k) :
    (Memory.write m a bs).byte k = m.byte k := by
  induction bs generalizing m a with
  | nil => rfl
  | cons b bs ih =>
    simp only [List.length_cons] at h
    simp only [Memory.write]
    rw [ih _ _ (by omega)]
    exact Tab.get_set_other blankByte m a k b (by omega)

/-- A byte in the range of a write reads as the byte written there. -/
theorem Memory.byte_write_inside (m : Memory) (a : Nat) (bs : Bytes) (i : Nat) (hi : i < bs.length) :
    (Memory.write m a bs).byte (a + i) = bs[i] := by
  induction bs generalizing m a i with
  | nil => simp at hi
  | cons b bs ih =>
    simp only [Memory.write]
    cases i with
    | zero =>
      rw [Memory.byte_write_outside _ _ _ _ (by omega)]
      exact Tab.get_set_self blankByte m a b
    | succ i =>
      have := ih (Tab.set blankByte m a b) (a + 1) i (by simpa using hi)
      simpa [Nat.add_assoc, Nat.add_comm 1 i] using this

/-- What was written reads back. -/
theorem Memory.read_write_self (m : Memory) (a : Nat) (bs : Bytes) : (Memory.write m a bs).read a bs.length = bs := by
  induction bs generalizing m a with
  | nil => rfl
  | cons b bs ih =>
    simp only [List.length_cons, Memory.read, Memory.write, List.cons.injEq]
    exact ⟨by rw [Memory.byte_write_outside _ _ _ _ (by omega)]; exact Tab.get_set_self blankByte m a b,
      ih _ _⟩

/-- A range apart from a write reads as before. -/
theorem Memory.read_write_apart (m : Memory) (a : Nat) (bs : Bytes) (k n : Nat) (h : k + n ≤ a ∨ a + bs.length ≤ k) :
    (Memory.write m a bs).read k n = m.read k n := by
  induction n generalizing k with
  | zero => rfl
  | succ n ih =>
    simp only [Memory.read, List.cons.injEq]
    exact ⟨Memory.byte_write_outside _ _ _ _ (by omega), ih _ (by omega)⟩

/-- A read has the length asked for. -/
@[simp] theorem Memory.length_read (m : Memory) (a n : Nat) : (m.read a n).length = n := by
  induction n generalizing a with
  | zero => rfl
  | succ n ih => simp [Memory.read, ih]

/-! ## Byte strings -/

/-- A little-endian string has the length asked for. -/
@[simp] theorem leBytes_length (n len : Nat) : (leBytes n len).length = len := by
  induction len generalizing n with
  | zero => rfl
  | succ l ih => simp [leBytes, ih]

/-- Reading back a little-endian string gives the number, within its width. -/
theorem leNat_leBytes (n len : Nat) : leNat (leBytes n len) = n % 256 ^ len := by
  induction len generalizing n with
  | zero => simp [leBytes, leNat, Nat.mod_one]
  | succ l ih =>
    simp only [leBytes, leNat, ih, BitVec.toNat_ofNat]
    rw [show 256 ^ (l + 1) = 256 * 256 ^ l from Nat.pow_succ', Nat.mod_mul]

/-- Zero bytes. -/
@[simp] theorem zeroBytes_length (n : Nat) : (zeroBytes n).length = n := by simp [zeroBytes]

end Sys2Proof.Machine
end

