-- ==== Sys2Proof/Laws/Links.lean ====
section
/-! SUPPORT. A flit that a link makes is one that a link takes, but for its reserved fields. -/

namespace Sys2Proof.Machine

/-- What a header is found to be when it comes in: the reserved fields and the virtual channel are all that can be wrong with it (R320). -/
theorem flitOk_mkFlit (h : FlitHead) (p : Bytes) :
    flitOk (mkFlit h p) true = (bits (u64 h.bytes 0) 63 56 == 0 && bits (u64 h.bytes 0) 11 5 == 0 && bits (u64 h.bytes 0) 2 0 != 6) := by
  have hh : h.bytes.length = 8 := leBytes_length _ _
  have hb : (h.bytes ++ (p ++ zeroBytes 240).take 240).length = 248 := by
    rw [List.length_append, List.length_take, List.length_append, hh, zeroBytes, List.length_replicate]; omega
  have hc : crc64 (h.bytes ++ (p ++ zeroBytes 240).take 240) < 256 ^ 8 := Nat.lt_of_lt_of_eq (BitVec.isLt _) (by decide)
  have h8 : h.bytes.take 8 = h.bytes := List.take_of_length_le (Nat.le_of_eq hh)
  have hu : u64 (mkFlit h p) 0 = u64 h.bytes 0 := by simp [u64, fld, slice, mkFlit, hh, List.take_append, h8]
  rw [flitOk, hu]
  simp only [mkFlit]
  generalize h.bytes ++ (p ++ zeroBytes 240).take 240 = body at hb hc
  have hl : (leBytes (crc64 body) 8).length = 8 := leBytes_length _ _
  have e1 : (body ++ leBytes (crc64 body) 8).take 248 = body := by rw [← hb]; simp
  have e2 : slice (body ++ leBytes (crc64 body) 8) 248 8 = leBytes (crc64 body) 8 := by
    rw [slice, ← hb, List.drop_left]
    exact List.take_of_length_le (Nat.le_of_eq hl)
  rw [e1, e2, leNat_leBytes, Nat.mod_eq_of_lt hc]
  simp [hb]

end Sys2Proof.Machine
end

