-- ==== Sys2Proof/Tests/Slice0.lean ====
section
/-! SUPPORT. Tests of the model: each ill-formed command is refused by the check of its operands, every hypothesis of a statement is met
somewhere, and small steps give what the spec gives. -/

set_option Elab.async false
set_option linter.unusedVariables false

namespace Sys2Proof.Tests

open Sys2Proof Sys2Proof.Machine

/-! ## Small states -/

/-- Bytes with fields put at their offsets: offset, value, length. -/
def fieldsOf (size : Nat) (fs : List (Nat × Nat × Nat)) : Bytes := fs.foldl (fun r f => patch r f.1 (leBytes f.2.1 f.2.2)) (zeroBytes size)

/-- A command of 128 bytes: its opcode and fields. -/
def cmdOf (op : Nat) (fs : List (Nat × Nat × Nat)) : Cmd := Cmd.fresh 0 1 0 (fieldsOf 128 ((0, op, 1) :: fs))

/-- A module that start-up has brought up, in a state. -/
def up (m : ModState) : Block :=
  (Block.reset.withGlb fun g => { g with state := m, step := 11, pcieUp := true }).withPins fun p => { p with v54 := true, presence := true, prechargeOk := true }

/-- A state without waiting commands. -/
def at' (b : Block) : State := { block := b, pending := [] }

/-- A state with one taken command. -/
def on (b : Block) (x : Cmd) : State :=
  at' { b with ctl := { b.ctl with hif := { b.ctl.hif with cmds := [x], nextId := 1 } } }

/-- Port 0 enabled and polling. -/
def hifUp (b : Block) : Block :=
  { b with ctl := { b.ctl with hif := { b.ctl.hif with port0 := { b.ctl.hif.port0 with ctrl := 1, polling := true } } } }

/-- Ring 1 enabled, with a base and its records in host memory. -/
def ringUp (b : Block) (tail : Nat) : Block :=
  let r := { Ring.reset with base := 0x10000, cqBase := 0x20000, dbrec := 0x3000, ctrl := 1, sqTail := tail }
  { hifUp b with ctl := { (hifUp b).ctl with hif := { (hifUp b).ctl.hif with rings := [(1, r)] } } }

/-- A finished NOP of ring 1 that asked for a signal and an interrupt. -/
def doneNop : Cmd := { cmdOf 0x01 [(1, 6, 1), (8, 77, 8), (18, 16256, 2), (24, 3, 4)] with phase := .finished, finNo := 1, evtNo := 1 }

/-- An event record. -/
def oneEvent : EventRec := { seqno := 1, time := 5, code := 0x0200, source := 3, detail := 9 }

/-- The module with one event held for port 0. -/
def holding (b : Block) : Block := { b with arb := { next := 2, q0 := { EventQueue.empty with held := [oneEvent] }, q1 := EventQueue.empty } }

/-- A plan image in host memory at 1 MiB, 1,856 bytes: a code buffer and a table pool in HBM4, a pass block in lagoon 0, semaphore 100, one
KERNEL and the START pass that waits for its signal. -/
def planHost : Memory :=
  [(0x100000, 78), (0x100001, 86), (0x100002, 80), (0x100003, 76), (0x100004, 1), (0x100008, 64), (0x100009, 7), (0x100011, 1), (0x100018, 3),
   (0x10001C, 1), (0x100021, 6), (0x100028, 192), (0x100029, 1), (0x100031, 2), (0x100038, 64), (0x100039, 2), (0x100040, 128), (0x100041, 2),
   (0x100049, 5), (0x100050, 1), (0x10005B, 64), (0x10005D, 15), (0x100103, 16), (0x100109, 32), (0x100110, 1), (0x100112, 1), (0x100119, 7),
   (0x100120, 64), (0x100143, 64), (0x100145, 15), (0x100149, 1), (0x100151, 3), (0x100183, 32), (0x10018A, 1), (0x100190, 3), (0x1001C0, 100),
   (0x1001C2, 1), (0x1001CB, 16), (0x100501, 1), (0x100508, 1), (0x100510, 100), (0x100514, 1), (0x100600, 32), (0x100607, 1), (0x100608, 1),
   (0x10060A, 16), (0x10060D, 1), (0x100610, 1), (0x100612, 16), (0x100615, 1), (0x100640, 100), (0x100644, 1), (0x10066B, 16), (0x100670, 1),
   (0x100708, 115)]

/-- LOAD_PLAN of that image. -/
def loadCmd : Cmd := cmdOf 0x02 [(32, 0x100000, 8), (40, 1856, 8)]

/-- The module that has loaded it. -/
def planned : Block := (loadPlanAct 0).run (on { up .ready with host := planHost } loadCmd).block

/-- A memory that holds these bytes. -/
def memOf (l : List (Nat × Bytes)) : Memory := l.foldl (fun (m : Memory) e => m.write e.1 e.2) []

/-- A buffer-table entry and one piece of memory behind it. -/
def bufOf (kind tier vaddr bytes paddr : Nat) : Buf :=
  { entry := fieldsOf 64 [(0, vaddr, 8), (8, bytes, 8), (16, kind, 1), (17, tier, 1)], pieces := [{ vaddr := vaddr, paddr := paddr, bytes := bytes }], init := [] }

/-- A plan with one record layer: the sequence table in scratch of cove 0, the sequence region from 8 GiB up, table frames 8 to 23, key-value
frames 128 to 159, a pass of each kind, the pass block and the token buffer in lagoon 0. -/
def seqPlan : Plan :=
  { Plan.blank with
    loaded := true
    layout := fieldsOf 64 [(0, 1, 1), (2, 1, 2), (4, 1, 2), (8, 0x0F0000000000, 8), (16, 2 ^ 33, 8), (24, 2 ^ 33, 8), (32, 1, 4), (36, 1, 4)]
    bufs := [bufOf 3 0 0x100000000 0x20000 0x10000, bufOf 2 0 0x110000000 0x40000 0x100000]
    passes := [fieldsOf 64 [(0, 1, 1), (1, 1, 1), (12, 64, 4), (16, 100 + 2 ^ 32, 8)], fieldsOf 64 [(0, 2, 1), (1, 1, 1), (12, 64, 4), (16, 101 + 2 ^ 32, 8)],
               fieldsOf 64 [(0, 3, 1), (1, 1, 1), (12, 64, 4), (16, 102 + 2 ^ 32, 8)]]
    passBlock := 0x0F0040001000
    tokenBuf := 0x0F0040002000 }

/-- A sequence table entry: OPEN at the start of the sequence region. -/
def openEnt : SeqEnt :=
  { length := 0, committed := 0, vbase := 2 ^ 33, capPages := 1024, state := 1, priority := 0, openTime := 0, seed := 0, swapped := 0, pending := noToken }

/-- Page tables of the sequence region, with the entries of pages 0, 1 and 2 of layer 0. -/
def tablesOf (e0 e1 e2 : Nat) : List (Nat × Bytes) :=
  [(0x10008, leBytes 0x12003 8), (0x12000, leBytes 0x14003 8), (0x14000, leBytes e0 8), (0x14008, leBytes e1 8), (0x14010, leBytes e2 8),
   (Block.reset.fwReserve, leBytes 0x10003 8)]

/-- Page 0 in frame 128, page 1 absent, page 2 in swap slot 3. -/
def tables : List (Nat × Bytes) := tablesOf 0x100001 13 0x6009

/-- Sequence 0 with an entry. -/
def entry0 (e : SeqEnt) : List (Nat × Bytes) := [(0x0F0000000000, e.bytes)]

/-- A module in a state with the plan, in its job, with sequence 0. -/
def job (m : ModState) (e : SeqEnt) : Block :=
  let b := up m
  { b with
    mem := memOf (tables ++ entry0 e)
    ctl := { b.ctl with
      plan := seqPlan, job := { b.ctl.job with inJob := true, started := [0] }
      fw := { b.ctl.fw with
        alloc := { b.ctl.fw.alloc with refs := [(128, 1)], tables := [8, 9, 10], owner := [(128, 1)] }, seqs := [(0, { SeqFw.closed with reserve := 1 })] } } }

/-- A module of two on one board, with rank 1. -/
def member (b : Block) : Block :=
  { b with ctl := { b.ctl with links := { b.ctl.links with
    fabric := { Fabric.blank with fabric := 7, myRank := 1, ranks := [{ serial := 9, slot := 1, board := 0, home := 1 }, { serial := 1, slot := 0, board := 0, home := 0 }], ready := true } } } }

/-- Its leader, with rank 0. -/
def leader (b : Block) : Block :=
  { b with ctl := { b.ctl with links := { b.ctl.links with
    fabric := { Fabric.blank with fabric := 7, myRank := 0, ranks := [{ serial := 1, slot := 0, board := 0, home := 0 }, { serial := 9, slot := 1, board := 0, home := 1 }], ready := true } } } }

/-- A pass of a kind on sequence 0. -/
def passOf (kind l0 e : Nat) : Pass := Pass.heard { rank := 0, kind := kind, seq := 0, step := 0, l0 := l0, e := e, pending := 0, sampleArg := 0, tokens := [] }

/-- The block with a taken command. -/
def taken (b : Block) (x : Cmd) : Block := { b with ctl := { b.ctl with hif := { b.ctl.hif with cmds := [x], nextId := 1 } } }

/-- The block with firmware's record of sequence 0. -/
def fw0 (b : Block) (s : SeqFw) : Block := b.withFw { b.ctl.fw with seqs := [(0, s)] }

/-- A sequence table at the start of scratch holds the entries of sequences 0 and 1 there, whatever memory holds. -/
theorem entryAt_scratch (b : Block) (q a : Nat) (h2 : b.ctl.pair.rank2 = none) (hq : b.ctl.plan.seqEntry q = a)
    (ha : a = 0x0F0000000000 ∨ a = 0x0F0000000040) : b.EntryAt q a := by
  refine ⟨h2, ?_, fun m w _ => ?_⟩
  · rcases ha with rfl | rfl <;> rw [hq] <;> decide
  · have hr : region b.fuses.twoTiB a = .scratch 0 := by
      rcases ha with rfl | rfl <;> cases b.fuses.twoTiB <;> decide
    have hx : ({ b with mem := m } : Block).onChip fwSpace a w = .ok b.slot a := by
      simp [Block.onChip, hr, fwSpace, Block.slot]
    rw [hq]
    rcases ha with rfl | rfl <;> simpa [Block.xlate, windowBase, scratchBase] using hx

/-- An entry of three pages. -/
def ent3 : SeqEnt := { openEnt with capPages := 3 }

/-- Rank 1 of two that share pages by a ring of chunks of one page: it holds pages 1 and 2. -/
def ringMember (b : Block) (e : SeqEnt) (e1 e2 : Nat) : Block :=
  let m := member b
  { m with
    mem := memOf (tablesOf 13 e1 e2 ++ entry0 e)
    ctl := { m.ctl with plan := { m.ctl.plan with tide := fieldsOf 64 [(0, 1, 1), (4, 1, 4)] }, job := { m.ctl.job with swapAddr := 0x800000, swapBytes := 8192 } } }

/-- A GEMM in context 0 of cove 0 that halts on fault 5. -/
def haltedCtx : Ctx :=
  { op := 0, record := fieldsOf 256 [(0, 1, 1), (104, 0, 1)], met := 15, metNo := 1, second := false, taken := 0, m := 1, n := 1, k := 1, len := 0, len1 := none,
    early := [], table1 := [], table2 := [], pos := 0, accs := [], started := true, staging := .none, tailSeq := 0, tailEnd := false, begun := true,
    rxDone := false, txDone := false, poisoned := false, fault := some 5 }

/-- A block with a fault, context 0 of cove 0 halted on fault 5. -/
def faultedBy (f : XFault) (b : Block) : Block :=
  (b.withFw { b.ctl.fw with faults := [f] }).withCove 0 fun v => { v with ctx0 := some haltedCtx }

/-- A block with a fault of context 0 of cove 0 at an address. -/
def faulted (b : Block) (va : Nat) : Block := faultedBy { id := 5, who := .context 0 0, vaddr := va, write := true, second := false, line := none } b

/-- A bound member. -/
def bound (b : Block) : Block := b.withPair { Pair.blank with role := .bound, partner := 1, partnerSerial := 9, armed := true }

/-! ## Coves -/

/-- An address of lagoon 0. -/
def lg (o : Nat) : Nat := 0x0F0040000000 + o

/-- An operation record for cove 0 with these fields, its shape and planned maxima at most 1 × 1 × 128. -/
def recOf (op : Nat) (fs : List (Nat × Nat × Nat)) : Bytes := fieldsOf 256 ([(0, op, 1), (8, 4 + 4 * 2 ^ 20 + 128 * 2 ^ 40, 8), (16, 1 + 2 ^ 20 + 2 ^ 40, 8)] ++ fs)

/-- A context with a record and a shape, its waits met. -/
def ctxOf (r : Bytes) (m n k : Nat) : Ctx := { haltedCtx with record := r, m := m, n := n, k := k, begun := false, fault := none }

/-- A module with a work counter of capacity 16 in lagoon 0, of which tile 0 of 4 has been taken, and an operation in context 0 of cove 0. -/
def coveAt (x : Option Ctx) : Block :=
  let b := job .running openEnt
  { b with
    mem := memOf (tables ++ entry0 openEnt ++ [(lg 0x8000, leBytes 1 4 ++ leBytes 4 4), (lg 0x8040, leBytes (9 * 1024 + 5) 4)])
    ctl := ({ b.ctl with plan := { b.ctl.plan with bufs := [{ entry := fieldsOf 64 [(0, lg 0x8000, 8), (8, 256, 8), (16, 5, 1), (17, 3, 1), (48, 16, 4)], pieces := [], init := [] }] } }).setCove 0 fun v =>
      { v with ctx0 := x } }

/-- A module whose cove 3 runs thread 0 of the KERNEL in context 0 at an instruction word in lagoon 0. -/
def coreAt (w : Nat) (x : Ctx) (u : Thread) : Block :=
  let b := coveAt none
  { b with mem := memOf [(lg 0, leBytes w 4), (lg 0x8000, leBytes 1 4 ++ leBytes 4 4), (lg 0x8040, leBytes (9 * 1024 + 5) 4)],
           ctl := b.ctl.setCove 3 fun v => { v with ctx0 := some x, thread0 := u } }

/-- A KERNEL context. -/
def kern : Ctx := { ctxOf (recOf opKernel [(112, 1, 1)]) 1 1 1 with begun := true }

/-- A thread at the start of lagoon 0: x10 is 77, x11 is 3, SEW 32, vl 2. -/
def thr : Thread :=
  { Thread.idle with state := .running, pc := BitVec.ofNat 64 (lg 0), x := [(10, 77), (11, 3)], csr := [(csrVl, 2), (csrVtype, 0x10)], user := true }

/-- An instruction word of the fields opcode, rd, funct3, rs1, rs2 and funct7. -/
def word (op rd f3 rs1 rs2 f7 : Nat) : Nat := op + rd * 2 ^ 7 + f3 * 2 ^ 12 + rs1 * 2 ^ 15 + rs2 * 2 ^ 20 + f7 * 2 ^ 25

/-- A pair of which the first is known. -/
theorem pair_of_fst {α β : Type} {p : α × β} {a : α} (h : p.1 = a) : p = (a, p.2) := by rw [← h]

/-- Rank 1 of two in a ring of chunks of one page whose slots lie in lagoon 0, with a TIDE_STEP in context 0 of cove 0. -/
def tideAt (x : Ctx) : Block :=
  let b := member (coveAt (some x))
  { b with ctl := { b.ctl with plan := { b.ctl.plan with tide := fieldsOf 64 [(0, 1, 1), (4, 1, 4), (8, 1, 4), (16, lg 0x100000, 8)] } } }

/-- A TIDE_STEP of a mode. -/
def tideCtx (mode : Nat) (begun : Bool) (fs : List (Nat × Nat × Nat)) : Ctx :=
  { ctxOf (recOf opTide ([(104, mode, 1), (106, 2, 2), (132, 0, 1), (133, 1, 1), (134, 200, 2), (136, 210, 2), (144, lg 0x40000, 8), (152, 64, 4),
      (168, lg 0x50000, 8), (176, 256, 4), (180, 220, 2), (192, lg 0x60000, 8), (200, lg 0x70000, 8)] ++ fs)) 1 1 1 with begun := begun }

/-- The module as rank 0 of two on one board. -/
def leading (b : Block) : Block := { b with ctl := { b.ctl with links := { b.ctl.links with fabric := (leader (up .ready)).ctl.links.fabric } } }

/-- The mover of die 0 has found three mismatches of piece 2 of the forward ring. -/
def missed3 (b : Block) : Block :=
  { b with ctl := { b.ctl with engine := { b.ctl.engine with movers := { b.ctl.engine.movers with misses := [(missKey 0 0 2 0 0, 3)] } } } }

/-- A stream descriptor over one run of 64 bytes at an address. -/
def desc64 (kind va : Nat) : Bytes := fieldsOf 64 [(0, va, 8), (8, kind, 1), (9, 1, 1), (16, 64, 8)]

/-- A channel that runs at the first instruction of the program in lagoon 0. -/
def chan0 : Channel := { Channel.idle with state := .run, prog := lg 0x6000 }

/-- A module whose channel of an engine stands at an instruction; its program's descriptors read a line of lagoon 0 and write another. -/
def lsAt (e ch : Nat) (c : Channel) (i : Bytes) : Block :=
  let b := coveAt (some { ctxOf (recOf opXfer []) 1 1 1 with begun := true })
  { b with
    mem := memOf [(lg 0x6000, i), (lg 0x6040, desc64 0 (lg 0x10000)), (lg 0x6080, desc64 0 (lg 0x20000)), (lg 0x10000, [1, 2, 3])],
    ctl := { b.ctl with engine := { b.ctl.engine with ls := { b.ctl.engine.ls with chans := [(chKey e ch, c)] } } } }

/-- The block with stage slots in use. -/
def staged (b : Block) (l : List StageSlot) : Block := { b with ctl := { b.ctl with engine := { b.ctl.engine with stages := l } } }

/-- Another instance of the operation waits on cove 1 for the fill of slot 0. -/
def fillingToo (b : Block) : Block :=
  b.withCove 1 fun v => { v with ctx0 := ((b.ctl.cove 0).ctx 0).map fun x => { x with staging := .filling 0 } }

/-- The block with a reservation of 8 bytes. -/
def reservedBy (cove thread a : Nat) (b : Block) : Block := { b with lrs := [{ cove := cove, thread := thread, addr := a, len := 8 }] }

/-! ## Shoal -/

/-- INDEX_MOUNT that creates an index of vectors of 64 elements. -/
def createCmd : Cmd := cmdOf 0x24 [(32, 1, 1), (34, 64, 2), (36, 16, 1), (37, 4, 1), (38, 32, 2), (44, 0x3F99999A, 4), (48, 1000, 8), (56, 0x8000, 8), (64, 0x100000, 8), (72, 7, 8)]

/-- The module with that index mounted. -/
def indexed (b : Block) : Block :=
  b.withShoal fun m => { m with mounted := true, header := newHeader createCmd.bytes, epoch := 3, payNext := u64 (newHeader createCmd.bytes) 56 }

/-- A search in slot 0 of command 0. -/
def run0 : Search := Search.fresh 0 3 [] none 16 0

/-- A candidate that has not been expanded. -/
def cand (id : Nat) : Cand := { dist := id, id := id, expanded := false, deleted := false, attr := zeroBytes 48, payload := 0, tokens := 0 }

/-- The block with a search in slot 0. -/
def searching (b : Block) (r : Search) : Block := b.withShoal fun m => { m with slots := [(0, some r)] }

/-! ## The hypotheses of every statement are met together somewhere: one state and operands for each clause -/

/-! ### EmptyQueueTicks -/

theorem meets_EmptyQueueTicks_0 :
  ∃ s : State,
  (s.pending = []) :=
  ⟨State.reset, by decide +kernel⟩

/-! ### StepKeepsGood -/

theorem meets_StepKeepsGood_0 :
  ∃ s t : State,
  (s.block.Good) ∧
  (step s = .next t) :=
  ⟨State.reset, _, by constructor <;> (try simp only [EventQueue.Ordered]) <;> decide, rfl⟩

/-! ### StepIsOnward -/

theorem meets_StepIsOnward_0 :
  ∃ s t : State,
  (step s = .next t) :=
  ⟨State.reset, _, rfl⟩

/-! ### PollingReadsDoorbells -/

theorem meets_PollingReadsDoorbells_0 :
  ∃ (s : State) (port : Fin 2) (stores : List HostStore),
  (s.block.ctl.polls (port == 1) = true) :=
  ⟨at' (ringUp (up .ready) 0), 0, [{ addr := 0x3000, bytes := [5, 0, 0, 0, 2, 0, 0, 0] }], by decide +kernel⟩

theorem meets_PollingReadsDoorbells_1 :
  ∃ (s : State) (port : Fin 2),
  (s.block.ctl.barUp (port == 1) = true) ∧
  (s.block.ctl.hifOn (port == 1) = true) :=
  ⟨at' (ringUp (up .ready) 0), 0, by decide +kernel⟩

theorem meets_PollingReadsDoorbells_2 :
  ∃ (s : State) (port : Fin 2) (stores : List HostStore),
  ((s.block.ctl.hif.hif (port == 1)).polling = true) ∧
  (s.block.ctl.hifOn (port == 1) = true) ∧
  (s.block.nothingToDo (port == 1) = true) ∧
  ((∀ n ∈ s.block.ctl.ownRings (port == 1),
        (landed (pollingWritten s.block (port == 1) 0) stores).nat (s.block.ctl.ring n).dbrec.toNat 4 = (s.block.ctl.ring n).sqTail)) :=
  ⟨at' { ringUp (up .ready) 0 with lhTime := 100000 }, 0, [], by decide +kernel⟩

/-! ### PortAndRingSwitches -/

theorem meets_PortAndRingSwitches_0 :
  ∃ (s : State) (port : Fin 2) (v : BitVec 64),
  (s.block.ctl.barUp (port == 1) = true) ∧
  (v.getLsbD 0 = true) :=
  ⟨at' (up .ready), 0, 0x0101, by decide +kernel⟩

theorem meets_PortAndRingSwitches_1 :
  ∃ (s : State) (port : Fin 2) (v : BitVec 64),
  (s.block.ctl.barUp (port == 1) = true) ∧
  (v.getLsbD 0 = false) :=
  ⟨at' (hifUp (up .ready)), 0, 0, by decide +kernel⟩

theorem meets_PortAndRingSwitches_2 :
  ∃ (s : State) (port : Fin 2) (n : Fin 64) (v : BitVec 64),
  (s.block.ctl.mayWriteRing (port == 1) n.val = true) ∧
  (v.getLsbD 0 = true) ∧
  ((s.block.ctl.ring n.val).on = false) ∧
  (s.block.ctl.inflight n.val = 0) :=
  ⟨at' (hifUp (up .ready)), 0, 63, 0x3F1D, by decide +kernel⟩

theorem meets_PortAndRingSwitches_3 :
  ∃ (s : State) (port : Fin 2) (n : Fin 64) (v : BitVec 64),
  (s.block.ctl.mayWriteRing (port == 1) n.val = true) ∧
  (v.getLsbD 0 = false) ∧
  ((s.block.ctl.ring n.val).on = true) ∧
  (s.block.ctl.pairRing n.val = false) :=
  ⟨at' (ringUp (up .ready) 0), 0, 1, 0, by decide +kernel⟩

theorem meets_PortAndRingSwitches_4 :
  ∃ (s : State) (port : Fin 2) (v : BitVec 64),
  (s.block.ctl.pairRing 0 = true) :=
  ⟨at' ((up .ready).withPair { Pair.blank with role := .bound }), 0, 0, by decide +kernel⟩

/-! ### TakeFollowsRing -/

theorem meets_TakeFollowsRing_0 :
  ∃ (s : State) (n : Nat),
  (s.block.ctl.glb.state.ringState = true) ∧
  (s.block.ctl.pickRing = some n) ∧
  (n ≠ 0) :=
  ⟨at' { ringUp (up .ready) 3 with host := [(0x10000, 1), (0x10008, 7)] }, 1, by decide +kernel⟩

/-! ### CompletionIsWritten -/

theorem meets_CompletionIsWritten_0 :
  ∃ (s : State) (n : Fin 64) (x : Cmd),
  ((n ≠ 0) ∧
  (s.block.ctl.glb.state.ringState = true) ∧
  (s.block.ctl.ringLive n.val = true) ∧
  ((∀ y ∈ s.block.ctl.hif.cmds, y.ring ≠ lostRing)) ∧
  (s.block.ctl.nextDone n.val = some x) ∧
  (x.leaves = false)) ∧
  (let r := s.block.ctl.ring n.val
  let port := s.block.ctl.portOf n.val
  ((r.cqCount + 2 ^ 32 - r.cqHead) % 2 ^ 32 < r.slots) ∧
  ((∀ e ∈ (s.block.arb.queue port).held, x.evtNo ≤ e.seqno))) :=
  ⟨on (ringUp (up .ready) 1) doneNop, 1, doneNop, by decide +kernel⟩

theorem meets_CompletionIsWritten_1 :
  ∃ (x : Cmd) (r : Ring),
  (x.bytes.length = 128) ∧
  (x.ring < 64) ∧
  (r.sqHead < 2 ^ 32) ∧
  (x.status < 256) :=
  ⟨doneNop, Ring.reset, by decide +kernel⟩

/-! ### EventsAreHeldAndWritten -/

theorem meets_EventsAreHeldAndWritten_0 :
  ∃ (s : State) (e : RawEvent),
  (e.code ∈ eventCodes) ∧
  (rawEventWf e = true) :=
  ⟨at' (up .ready), { code := 0x0200, source := 3, detail := 9 }, by decide +kernel⟩

theorem meets_EventsAreHeldAndWritten_1 :
  ∃ (s : State) (port : Fin 2) (r : EventRec),
  let p := port == 1
  let h := s.block.ctl.hif.hif p
  (s.block.ctl.hasPort p = true) ∧
  (s.block.ctl.hifOn p = true) ∧
  (s.block.ctl.glb.state.ringState = true) ∧
  ((s.block.arb.queue p).held.head? = some r) ∧
  ((h.evtCount + 2 ^ 32 - s.block.host.nat h.evtDbrec.toNat 4) % 2 ^ 32 < h.evtSlots) :=
  ⟨at' (holding (hifUp (up .ready))), 0, oneEvent, by decide +kernel⟩

/-! ### NopPowerAndInfo -/

theorem meets_NopPowerAndInfo_0 :
  ∃ (s : State) (id : Nat) (x : Cmd),
  (s.block.MayRun id 0x01 x) :=
  ⟨on (up .ready) (cmdOf 0x01 []), 0, cmdOf 0x01 [], by simp only [Block.MayRun]; decide +kernel⟩

theorem meets_NopPowerAndInfo_1 :
  ∃ (s : State) (id : Nat) (x : Cmd),
  (s.block.MayRun id 0x52 x) ∧
  ((u8 x.bytes 32 = 2 → s.block.ctl.glb.state = .ready)) :=
  ⟨on (up .ready) (cmdOf 0x52 [(32, 2, 1)]), 0, cmdOf 0x52 [(32, 2, 1)], by simp only [Block.MayRun]; decide +kernel⟩

theorem meets_NopPowerAndInfo_2 :
  ∃ (s : State) (id : Nat) (x : Cmd) (counters : Bool),
  (s.block.MayRun id (if counters then 0x51 else 0x50) x) :=
  ⟨on (up .ready) (cmdOf 0x50 [(32, 0, 1), (40, 0x5000, 8), (48, 4096, 4)]), 0, cmdOf 0x50 [(32, 0, 1), (40, 0x5000, 8), (48, 4096, 4)], false, by simp only [Block.MayRun]; decide +kernel⟩

/-! ### CopyAndFill -/

theorem meets_CopyAndFill_0 :
  ∃ (s : State) (id : Nat) (x : Cmd),
  ((s.block.MayRun id 0x40 x) ∧
  (copyLegal s.block x = true)) ∧
  (let b := s.block.started id
  let sk := u8 x.bytes 32 % 16
  let dk := u8 x.bytes 32 / 16
  let n := u64 x.bytes 56
  let dst := u64 x.bytes 48
  (n ≠ 0) ∧
  (b.copyEnd sk (u64 x.bytes 40) n false = none) ∧
  (b.copyEnd dk dst n true = none)) :=
  ⟨on { up .ready with host := [(0x1000, 7)] } (cmdOf 0x40 [(32, 0, 1), (40, 0x1000, 8), (48, 0x2000, 8), (56, 4, 8)]), 0, cmdOf 0x40 [(32, 0, 1), (40, 0x1000, 8), (48, 0x2000, 8), (56, 4, 8)], by simp only [Block.MayRun]; decide +kernel⟩

theorem meets_CopyAndFill_1 :
  ∃ (s : State) (id : Nat) (x : Cmd),
  ((s.block.MayRun id 0x41 x) ∧
  (copyLegal s.block x = true)) ∧
  (let b := s.block.started id
  let dk := u8 x.bytes 32 / 16
  let n := u64 x.bytes 56
  let dst := u64 x.bytes 48
  (n ≠ 0) ∧
  (b.copyEnd dk dst n true = none)) :=
  ⟨on (up .ready) (cmdOf 0x41 [(32, 0x20, 1), (48, 0x2000, 8), (56, 4, 8), (64, 0x11223344, 4)]), 0, cmdOf 0x41 [(32, 0x20, 1), (48, 0x2000, 8), (56, 4, 8), (64, 0x11223344, 4)], by simp only [Block.MayRun]; decide +kernel⟩

theorem meets_CopyAndFill_2 :
  ∃ (s : State) (id : Nat) (x : Cmd),
  ((s.block.MayRun id 0x40 x ∨ s.block.MayRun id 0x41 x)) ∧
  (copyLegal s.block x = true) ∧
  (u64 x.bytes 56 = 0) :=
  ⟨on (up .ready) (cmdOf 0x40 [(40, 0x1000, 8), (48, 0x2000, 8)]), 0, cmdOf 0x40 [(40, 0x1000, 8), (48, 0x2000, 8)], by simp only [Block.MayRun]; decide +kernel⟩

theorem meets_CopyAndFill_3 :
  ∃ (s : State) (id : Nat) (x : Cmd),
  ((s.block.MayRun id 0x40 x ∨ s.block.MayRun id 0x41 x)) ∧
  ((s.block.ctl.glb.state = .resync ∨
          ((s.block.ctl.glb.state = .running ∨ s.block.ctl.glb.state = .draining ∨ s.block.ctl.glb.state = .degraded) ∧
            (u8 x.bytes 32 % 16 = 2 ∨ u8 x.bytes 32 / 16 = 2)))) :=
  ⟨on (up .running) (cmdOf 0x40 [(32, 0x02, 1)]), 0, cmdOf 0x40 [(32, 0x02, 1)], by simp only [Block.MayRun]; decide +kernel⟩

/-! ### StateRefusals -/

theorem meets_StateRefusals_0 :
  ∃ (s : State) (id : Nat) (x : Cmd) (i : Instr) (op : Nat),
  (s.block.MayRun id op x) ∧
  (((i = .loadPlan id ∧ op = 0x02 ∧ s.block.ctl.glb.state ≠ .ready) ∨ (i = .unloadPlan id ∧ op = 0x03 ∧ s.block.ctl.glb.state ≠ .loaded) ∨
       (i = .startJob id [] ∧ op = 0x04 ∧ s.block.ctl.glb.state ≠ .loaded) ∨
       (i = .setPower id ∧ op = 0x52 ∧ u8 x.bytes 32 = 2 ∧ s.block.ctl.glb.state ≠ .ready) ∨
       (i = .fwActivate id ∧ op = 0x61 ∧ s.block.ctl.glb.state ≠ .ready))) :=
  ⟨on (up .loaded) (cmdOf 0x02 []), 0, cmdOf 0x02 [], .loadPlan 0, 0x02, by simp only [Block.MayRun]; decide +kernel⟩

/-! ### PlanLoadsAndUnloads -/

theorem meets_PlanLoadsAndUnloads_0 :
  ∃ (s : State) (id : Nat) (x : Cmd),
  ((s.block.MayRun id 0x02 x) ∧
  (s.block.ctl.glb.state = .ready) ∧
  (s.block.ctl.sec.level < 2)) ∧
  (let b := s.block.started id
  let img := b.host.read (u64 x.bytes 32) (u64 x.bytes 40)
  let p := parsePlan img b.ctl.jobP
  ((b.fuses.owned = true → trailerOk b.fuses img = true)) ∧
  (b.verify img p = none) ∧
  (p.place.2.1 ≤ 2 * hbmDie) ∧
  (p.place.2.2 ≤ b.ddrRoom b.ctl.bound) ∧
  (p.place.1.tableNeed ≤ rangeCount p.place.1.tableRanges) ∧
  ((b.ctl.bound = true → p.place.1.pairFits = true))) :=
  ⟨on { up .ready with host := planHost } loadCmd, 0, loadCmd, by simp only [Block.MayRun]; decide +kernel⟩

theorem meets_PlanLoadsAndUnloads_1 :
  ∃ (s : State) (id : Nat) (x : Cmd),
  (s.block.MayRun id 0x02 x) ∧
  (s.block.ctl.glb.state = .ready) ∧
  (s.block.ctl.sec.level < 2) ∧
  (s.block.fuses.owned = true) ∧
  (trailerOk s.block.fuses (s.block.host.read (u64 x.bytes 32) (u64 x.bytes 40)) = false) :=
  ⟨on { up .ready with fuses := { Fuses.reset with owners := [{ valid := true, revoked := false, hash := [] }] } } (cmdOf 0x02 [(40, 64, 8)]), 0, cmdOf 0x02 [(40, 64, 8)], by simp only [Block.MayRun]; decide +kernel⟩

theorem meets_PlanLoadsAndUnloads_2 :
  ∃ (s : State) (id : Nat) (x : Cmd),
  (s.block.MayRun id 0x03 x) ∧
  (s.block.ctl.glb.state = .loaded) :=
  ⟨on (up .loaded) (cmdOf 0x03 []), 0, cmdOf 0x03 [], by simp only [Block.MayRun]; decide +kernel⟩

/-! ### LinkConfiguration -/

/-- A fabric of one module. -/
def oneModule : List (Nat × Bytes) := [(0x4000, fieldsOf 48 [(0, 7, 8), (8, 1, 2), (12, 1, 1), (32, 1, 8)])]

theorem meets_LinkConfiguration_0 :
  ∃ (s : State) (id : Nat) (x : Cmd),
  ((s.block.MayRun id 0x30 x) ∧
  (configureLegal s.block x = true)) ∧
  (let b := s.block.started id
  let c := b.config x
  let f := cfgFabric c
  (cfgLayoutOk c = true) ∧
  (cfgP c ≠ 0) ∧
  (f.valid b.fuses.serial.toNat b.slot = true) ∧
  (s.block.ctl.job.inJob = false) ∧
  (s.block.ctl.bound = false) ∧
  (((Act.all [bindFabric f, recheckLinks]).run b).findings = [])) :=
  ⟨on ({ up .ready with host := memOf oneModule }) (cmdOf 0x30 [(32, 0x4000, 8), (40, 48, 4)]), 0, cmdOf 0x30 [(32, 0x4000, 8), (40, 48, 4)], by simp only [Block.MayRun]; decide +kernel⟩

theorem meets_LinkConfiguration_1 :
  ∃ (s : State) (id : Nat) (x : Cmd),
  ((s.block.MayRun id 0x30 x) ∧
  (configureLegal s.block x = true)) ∧
  (let b := s.block.started id
  let c := b.config x
  (cfgLayoutOk c = true) ∧
  (cfgP c ≠ 0) ∧
  ((cfgFabric c).valid b.fuses.serial.toNat b.slot = false)) :=
  ⟨on ({ up .ready with host := memOf [(0x4000, fieldsOf 48 [(0, 7, 8), (8, 1, 2), (12, 1, 1), (32, 5, 8)])] }) (cmdOf 0x30 [(32, 0x4000, 8), (40, 48, 4)]), 0, cmdOf 0x30 [(32, 0x4000, 8), (40, 48, 4)], by simp only [Block.MayRun]; decide +kernel⟩

/-! ### JobStartsAndStops -/

theorem meets_JobStartsAndStops_0 :
  ∃ (s : State) (id : Nat) (digest : Bytes) (x : Cmd),
  (s.block.MayRun id 0x04 x) ∧
  (s.block.ctl.glb.state = .loaded) ∧
  (s.block.ctl.sec.level < 2) ∧
  (s.block.ctl.jobP = s.block.ctl.plan.jobP) ∧
  (s.block.ctl.bound = false) ∧
  (s.block.ctl.shortBundle = none) ∧
  ((s.block.ctl.links.fabric.fabric ≠ 0 → s.block.ctl.links.fabric.ready = true)) ∧
  (s.block.ctl.mapsIn = true) :=
  ⟨on ({ up .loaded with ctl := { (up .loaded).ctl with plan := seqPlan } }) (cmdOf 0x04 [(32, 0x8000, 8)]), 0, [], cmdOf 0x04 [(32, 0x8000, 8)], by simp only [Block.MayRun]; decide +kernel⟩

theorem meets_JobStartsAndStops_1 :
  ∃ (s : State) (id : Nat) (x : Cmd),
  (s.block.MayRun id 0x05 x) ∧
  (s.block.ctl.leader = true) ∧
  (s.block.ctl.job.inJob = true) ∧
  (s.block.ctl.glb.state = .running) ∧
  (s.block.ctl.jobP = 1) ∧
  (s.block.ctl.rank = 0) ∧
  (s.block.ctl.bound = false) ∧
  (s.block.ctl.pair.rank2 = none) ∧
  (s.block.ctl.plan.loaded = true) ∧
  (s.block.ctl.job.pass = none) ∧
  (s.block.openSeqs = []) ∧
  (s.block.ctl.openings = []) ∧
  (s.block.ctl.chansQuiet = true) ∧
  (s.block.ctl.power.removal = none) ∧
  (s.block.ctl.hif.cmds = [x]) ∧
  (x.key < noKey) ∧
  (x.steps = 0) ∧
  (u8 x.bytes 32 = 0) :=
  ⟨on (fw0 (job .running { openEnt with state := 0 }) SeqFw.closed) (cmdOf 0x05 []), 0, cmdOf 0x05 [], by simp only [Block.MayRun]; decide +kernel⟩

/-! ### SequenceOpens -/

theorem meets_SequenceOpens_0 :
  ∃ (s : State) (id a v : Nat) (x : Cmd),
  ((s.block.MayRun id 0x10 x) ∧
  (s.block.ctl.Alone) ∧
  (s.block.ctl.hif.cmds = [x]) ∧
  (x.key < noKey) ∧
  (seqLegal [seqClosed] s.block x = true)) ∧
  (let b := s.block.started id
  let q := cSeq x.bytes
  let size := b.ctl.plan.openSpan x.bytes
  let cap := capPagesOf (u32 x.bytes 36)
  ((b.freeRange size = some v) ∧
  (b.tablesFit v size = true) ∧
  (v < 2 ^ 64) ∧
  (cap < 2 ^ 32)) ∧
  (let built := (buildTables false v (v + size)).run b
  let entry : SeqEnt := { length := 0, committed := 0, vbase := v, capPages := cap, state := seqOpenSt, priority := u8 x.bytes 34,
                              openTime := s.block.lhTime, seed := u64 x.bytes 40, swapped := 0, pending := noToken }
  (built.EntryAt q a))) :=
  ⟨on (job .running openEnt) (cmdOf 0x10 [(32, 1, 2), (36, 16384, 4)]), 0, 0x0F0000000040, 2^33+2^23, cmdOf 0x10 [(32, 1, 2), (36, 16384, 4)], by simp only [Block.MayRun, Ctl.Alone]; decide +kernel, by decide +kernel, entryAt_scratch _ _ _ (by decide +kernel) (by decide +kernel) (by decide)⟩

/-! ### StepsOpenPasses -/

theorem meets_StepsOpenPasses_0 :
  ∃ (s : State) (id : Nat) (x y : Cmd),
  ((s.block.MayRun id 0x11 x) ∧
  (seqLegal [seqOpenSt] s.block x = true)) ∧
  (let b := s.block.started id
  let q := cSeq x.bytes
  let took := (b.seq q).pending != noToken
  let total := u32 x.bytes 36 + if took then 1 else 0
  ((u32 x.bytes 36 ≠ 0) ∧
  ((b.seq q).length + total ≤ 16 * (b.seq q).capPages) ∧
  (((b.seq q).length < b.ctl.plan.prefixEnd b.ctl.jobP → (b.ctl.plan.passEntry 1).isSome = true)) ∧
  ((b.ctl.plan.prefixEnd b.ctl.jobP < (b.seq q).length + total → (b.ctl.plan.passEntry 2).isSome = true)) ∧
  (b.operandOk (u8 x.bytes 34) (u64 x.bytes 40) (4 * u32 x.bytes 36) = true)) ∧
  (let b1 := (Act.all [updCmd id fun z => { z with tookPend := took }, setSeq q fun e => { e with state := seqActive }, announce q]).run b
  (s.block.ctl.job.inJob = true) ∧
  (s.block.ctl.job.pass = none) ∧
  (b1.ctl.firstOf b1.candidates = some y) ∧
  ((b1.nextPass y).1 ≠ 3))) :=
  ⟨on ((fun b : Block => ({ b with ctl := { b.ctl with job := { b.ctl.job with regions := [(0x5000, 4096)] } } } : Block)) (job .running openEnt)) (cmdOf 0x11 [(36, 40, 4), (40, 0x5000, 8)]), 0, cmdOf 0x11 [(36, 40, 4), (40, 0x5000, 8)], { cmdOf 0x11 [(36, 40, 4), (40, 0x5000, 8)] with phase := .running, startNo := 0, tookPend := false }, by simp only [Block.MayRun]; decide +kernel⟩

theorem meets_StepsOpenPasses_1 :
  ∃ (s : State) (id : Nat) (x y : Cmd),
  ((s.block.MayRun id 0x12 x) ∧
  (seqLegal [seqOpenSt] s.block x = true)) ∧
  (let b := s.block.started id
  let q := cSeq x.bytes
  ((u32 x.bytes 36 ≠ 0) ∧
  ((b.ctl.plan.passEntry 3).isSome = true) ∧
  (b.operandOk (u8 x.bytes 34) (u64 x.bytes 40) (4 * u32 x.bytes 36) = true)) ∧
  (let b1 := (Act.all [setSeq q fun e => { e with state := seqActive }, announce q]).run b
  let e := b1.seq (cSeq y.bytes)
  (s.block.ctl.job.inJob = true) ∧
  (s.block.ctl.job.pass = none) ∧
  (b1.ctl.firstOf b1.candidates = some y) ∧
  (cOp y.bytes = 0x12) ∧
  ((e.pending = noToken ∨ e.length < 16 * e.capPages)))) :=
  ⟨on ((fun b : Block => ({ b with ctl := { b.ctl with job := { b.ctl.job with regions := [(0x5000, 4096)] } } } : Block)) (job .running openEnt)) (cmdOf 0x12 [(36, 4, 4), (40, 0x5000, 8)]), 0, cmdOf 0x12 [(36, 4, 4), (40, 0x5000, 8)], { cmdOf 0x12 [(36, 4, 4), (40, 0x5000, 8)] with phase := .running, startNo := 0 }, by simp only [Block.MayRun]; decide +kernel⟩

theorem meets_StepsOpenPasses_2 :
  ∃ (s : State) (id : Nat) (x : Cmd) (step : Bool),
  (s.block.MayRun id (if step then 0x12 else 0x11) x) ∧
  (seqLegal [seqOpenSt] s.block x = true) ∧
  (u32 x.bytes 36 = 0) :=
  ⟨on (job .running openEnt) (cmdOf 0x12 []), 0, cmdOf 0x12 [], true, by simp only [Block.MayRun]; decide +kernel⟩

/-! ### PreemptResumeClose -/

theorem meets_PreemptResumeClose_0 :
  ∃ (s : State) (id a : Nat) (x : Cmd),
  ((s.block.MayRun id 0x13 x) ∧
  (s.block.ctl.Alone) ∧
  (s.block.ctl.hif.cmds = [x]) ∧
  (seqLegal [seqOpenSt, seqActive] s.block x = true)) ∧
  (let q := cSeq x.bytes
  let e := s.block.seq q
  (s.block.EntryAt q a) ∧
  ((s.block.ctl.seqFw q).pre = .none) ∧
  (s.block.ctl.passOn q = false)) :=
  ⟨on (job .running openEnt) (cmdOf 0x13 []), 0, 0x0F0000000000, cmdOf 0x13 [], by simp only [Block.MayRun, Ctl.Alone]; decide +kernel, entryAt_scratch _ _ _ (by decide +kernel) (by decide +kernel) (by decide), by decide +kernel⟩

theorem meets_PreemptResumeClose_1 :
  ∃ (s : State) (id : Nat) (x : Cmd),
  (s.block.MayRun id 0x14 x) ∧
  (s.block.ctl.Alone) ∧
  (seqLegal [seqPreempted] s.block x = true) ∧
  ((s.block.ctl.seqFw (cSeq x.bytes)).resume = none) :=
  ⟨on (fw0 (job .running { openEnt with state := 3 }) { SeqFw.closed with pre := .swapped }) (cmdOf 0x14 []), 0, cmdOf 0x14 [], by simp only [Block.MayRun, Ctl.Alone]; decide +kernel⟩

theorem meets_PreemptResumeClose_2 :
  ∃ (s : State) (id : Nat) (x : Cmd),
  (s.block.MayRun id 0x15 x) ∧
  (s.block.ctl.Alone) ∧
  (s.block.ctl.hif.cmds = [x]) ∧
  (seqLegal [seqOpenSt, seqActive, seqPreempted] s.block x = true) ∧
  (x.steps = 0) ∧
  (s.block.ctl.job.pass = none) ∧
  (s.block.ctl.fw.moves = []) ∧
  (s.block.ctl.fw.invals = []) :=
  ⟨on (job .running openEnt) (cmdOf 0x15 []), 0, cmdOf 0x15 [], by simp only [Block.MayRun, Ctl.Alone]; decide +kernel⟩

/-! ### EditsPages -/

theorem meets_EditsPages_0 :
  ∃ (s : State) (id : Nat) (x : Cmd),
  ((s.block.MayRun id 0x16 x) ∧
  (s.block.ctl.Alone) ∧
  (s.block.ctl.hif.cmds = [x]) ∧
  (seqLegal [seqOpenSt, seqActive] s.block x = true)) ∧
  (let b := s.block.started id
  let q := cSeq x.bytes
  let l := b.host.read (u64 x.bytes 40) (u32 x.bytes 48)
  let e := editOf (b.seq q).capPages (editBytes l 0)
  (b.editsOk q x.key l = true) ∧
  (editCount l = 1) ∧
  (e.kind = 2)) :=
  ⟨on ({ job .running openEnt with host := memOf [(0x6000, fieldsOf 40 [(0, 1, 8), (8, 2, 1), (14, 1, 2)])] }) (cmdOf 0x16 [(40, 0x6000, 8), (48, 40, 4)]), 0, cmdOf 0x16 [(40, 0x6000, 8), (48, 40, 4)], by simp only [Block.MayRun, Ctl.Alone]; decide +kernel⟩

theorem meets_EditsPages_1 :
  ∃ (s : State) (id : Nat) (x : Cmd),
  ((s.block.MayRun id 0x16 x) ∧
  (s.block.ctl.Alone) ∧
  (s.block.ctl.hif.cmds = [x]) ∧
  (seqLegal [seqOpenSt, seqActive] s.block x = true)) ∧
  (let b := s.block.started id
  let l := b.host.read (u64 x.bytes 40) (u32 x.bytes 48)
  (hasShare l = false) ∧
  (b.editsOk (cSeq x.bytes) x.key l = false) ∧
  (x.key < noKey)) :=
  ⟨on ({ job .running openEnt with host := memOf [(0x6000, fieldsOf 40 [(0, 1, 8), (8, 9, 1), (14, 1, 2)])] }) (cmdOf 0x16 [(40, 0x6000, 8), (48, 40, 4)]), 0, cmdOf 0x16 [(40, 0x6000, 8), (48, 40, 4)], by simp only [Block.MayRun, Ctl.Alone]; decide +kernel⟩

/-! ### RanksDoTheirParts -/

theorem meets_RanksDoTheirParts_0 :
  ∃ (s : State) (m : Fanout),
  (s.block.ctl.awake = true) ∧
  (s.block.ctl.job.inJob = true) ∧
  (s.block.ctl.leader = false) ∧
  (s.block.ctl.pair.rank2 = none) ∧
  (s.block.ctl.pair.role = .unbound) ∧
  ((∀ j ∈ s.block.ctl.fw.journal, j.1 ≠ m.key)) ∧
  ((∀ k ∈ s.block.ctl.fw.tasks, k.key ≠ m.key)) ∧
  (cOp m.cmd = 0x14) ∧
  ((s.block.ctl.seqFw (cSeq m.cmd % 4096)).pre ≠ .none) :=
  ⟨at' (fw0 (member (job .running { openEnt with state := 3 })) { SeqFw.closed with pre := .ebbing }), { cmd := fieldsOf 128 [(0, 0x14, 1)], key := 7, vbase := 0, openTime := 0, list := [] }, by decide +kernel⟩

theorem meets_RanksDoTheirParts_1 :
  ∃ (s : State) (m : Fanout),
  (s.block.ctl.awake = true) ∧
  (s.block.ctl.job.inJob = true) ∧
  (s.block.ctl.leader = false) ∧
  (s.block.ctl.pair.rank2 = none) ∧
  (s.block.ctl.pair.role = .unbound) ∧
  ((∀ j ∈ s.block.ctl.fw.journal, j.1 ≠ m.key)) ∧
  ((∀ k ∈ s.block.ctl.fw.tasks, k.key ≠ m.key)) ∧
  (cOp m.cmd = 0x15) ∧
  ((s.block.seq (cSeq m.cmd % 4096)).state = seqClosed) ∧
  ((s.block.ctl.seqFw (cSeq m.cmd % 4096)).opening = none) :=
  ⟨at' (member (job .running { openEnt with state := 0 })), { cmd := fieldsOf 128 [(0, 0x15, 1)], key := 7, vbase := 0, openTime := 0, list := [] }, by decide +kernel⟩

theorem meets_RanksDoTheirParts_2 :
  ∃ (s : State) (m : Fanout) (st : Nat),
  (s.block.ctl.awake = true) ∧
  (s.block.ctl.job.inJob = true) ∧
  (s.block.ctl.leader = false) ∧
  (s.block.ctl.pair.rank2 = none) ∧
  (m.key ≠ noKey) ∧
  (s.block.ctl.fw.journal = [(m.key, st)]) :=
  ⟨at' ((member (job .running openEnt)).withFw { PageFw.empty with journal := [(7, 0)] }), { cmd := fieldsOf 128 [(0, 0x15, 1)], key := 7, vbase := 0, openTime := 0, list := [] }, 0, by decide +kernel⟩

theorem meets_RanksDoTheirParts_3 :
  ∃ (s : State) (r : Nat),
  (s.block.ctl.awake = true) ∧
  (r ∉ s.block.ctl.job.started) :=
  ⟨at' (leader (job .running openEnt)), 1, by decide +kernel⟩

theorem meets_RanksDoTheirParts_4 :
  ∃ (s : State) (r key : Nat) (x : Cmd),
  (s.block.ctl.awake = true) ∧
  (s.block.ctl.leader = true) ∧
  (key ≠ 0) ∧
  (key < noKey) ∧
  (s.block.ctl.hif.cmds = [x]) ∧
  (x.key = key) ∧
  (x.phase = .running) ∧
  (cOp x.bytes = 0x15) ∧
  (x.ranks = [r]) ∧
  (x.status = 0) :=
  ⟨on (leader (job .running openEnt)) ({ cmdOf 0x15 [] with index := 6, phase := .running, steps := 1, ranks := [1] }), 1, 8589934599, { cmdOf 0x15 [] with index := 6, phase := .running, steps := 1, ranks := [1] }, by decide +kernel⟩

theorem meets_RanksDoTheirParts_5 :
  ∃ (s : State) (r key k : Nat) (x : Cmd),
  (s.block.ctl.awake = true) ∧
  (s.block.ctl.leader = true) ∧
  (key ≠ 0) ∧
  (key < noKey) ∧
  (s.block.ctl.hif.cmds = [x]) ∧
  (x.key = key) ∧
  (x.phase = .running) ∧
  (x.ranks = [r, k]) ∧
  (r ≠ k) ∧
  ((cOp x.bytes = 0x16 → x.steps ≠ checkStep)) :=
  ⟨on (leader (job .running openEnt)) ({ cmdOf 0x15 [] with index := 6, phase := .running, steps := 1, ranks := [0, 1] }), 0, 8589934599, 1, { cmdOf 0x15 [] with index := 6, phase := .running, steps := 1, ranks := [0, 1] }, by decide +kernel⟩

theorem meets_RanksDoTheirParts_6 :
  ∃ (s : State) (r k : Nat) (x : Cmd),
  (s.block.ctl.awake = true) ∧
  (s.block.ctl.leader = true) ∧
  (x.key < noKey) ∧
  (s.block.ctl.hif.cmds = [x]) ∧
  (x.phase = .running) ∧
  (x.ranks = [r, k]) ∧
  (r ≠ k) ∧
  (cOp x.bytes = 0x16) ∧
  (x.steps = checkStep) :=
  ⟨on (leader (job .running openEnt)) ({ cmdOf 0x16 [] with index := 6, phase := .running, steps := checkStep, ranks := [0, 1] }), 0, 1, { cmdOf 0x16 [] with index := 6, phase := .running, steps := checkStep, ranks := [0, 1] }, by decide +kernel⟩

theorem meets_RanksDoTheirParts_7 :
  ∃ (s : State) (id : Nat) (x : Cmd),
  (s.block.ctl.cmd id = some x) ∧
  (x.phase = .waiting) ∧
  (isSeqOp (cOp x.bytes) = true) ∧
  (s.block.ctl.leader = true) ∧
  (s.block.ctl.job.inJob = true) ∧
  ((∃ r < s.block.ctl.jobP, r ∉ s.block.ctl.job.started)) :=
  ⟨on (leader (job .running openEnt)) (cmdOf 0x10 []), 0, cmdOf 0x10 [], by decide +kernel⟩

/-! ### PassesStart -/

theorem meets_PassesStart_0 :
  ∃ (s : State) (n : PassNotice) (second : Bool) (e : Bytes),
  (s.block.ctl.servesRank n.rank = some second) ∧
  (s.block.ctl.awake = true) ∧
  (s.block.ctl.plan.loaded = true) ∧
  (s.block.ctl.job.inJob = true) ∧
  (s.block.ctl.contextQuiet second = true) ∧
  (s.block.ctl.plan.passEntry n.kind = some e) ∧
  (s.block.ctl.noticeFits second n = true) ∧
  ((n.kind = 0 ∨ (s.block.seq n.seq).state = seqOpenSt ∨ (s.block.seq n.seq).state = seqActive)) :=
  ⟨at' (member (job .running openEnt)), { rank := 1, kind := 2, seq := 0, step := 0, l0 := 0, e := 20, pending := 0, sampleArg := 0, tokens := [4, 5] }, false, (seqPlan.passEntry 2).getD [], by decide +kernel⟩

theorem meets_PassesStart_1 :
  ∃ (s : State) (n : PassNotice),
  (n.kind ≠ 0) ∧
  ((s.block.seq n.seq).state ≠ seqOpenSt) ∧
  ((s.block.seq n.seq).state ≠ seqActive) :=
  ⟨at' (member (job .running { openEnt with state := 0 })), { rank := 1, kind := 3, seq := 0, step := 0, l0 := 0, e := 20, pending := 0, sampleArg := 0, tokens := [] }, by decide +kernel⟩

/-! ### PassesEnd -/

theorem meets_PassesEnd_0 :
  ∃ (s : State) (p : Pass) (crc : Nat),
  (s.block.ctl.awake = true) ∧
  (s.block.ctl.leader = false) ∧
  (s.block.ctl.mirrors = false) ∧
  (s.block.ctl.job.pass = some p) ∧
  (p.notice.kind ≠ 0) ∧
  (p.reported = true) :=
  ⟨at' ((member (job .running openEnt)).withPass (some { passOf 2 0 20 with started := true, reported := true })), { passOf 2 0 20 with started := true, reported := true }, 0, by decide +kernel⟩

theorem meets_PassesEnd_1 :
  ∃ (s : State) (p : Pass) (r k crc : Nat),
  (s.block.ctl.awake = true) ∧
  (s.block.ctl.leader = true) ∧
  (s.block.ctl.servesRank r = none) ∧
  (s.block.ctl.job.pass = some p) ∧
  (p.notice.kind ≠ 0) ∧
  (r ∉ p.ready) ∧
  (k ∉ p.ready) ∧
  (k ≠ r) ∧
  (k < s.block.ctl.jobP) :=
  ⟨at' ((leader (job .running openEnt)).withPass (some { passOf 2 0 20 with started := true, reported := true })), { passOf 2 0 20 with started := true, reported := true }, 1, 0, 0, by decide +kernel⟩

theorem meets_PassesEnd_2 :
  ∃ (s : State) (p : Pass) (r crc : Nat),
  (s.block.ctl.awake = true) ∧
  (s.block.ctl.leader = true) ∧
  (s.block.ctl.servesRank r = none) ∧
  (s.block.ctl.mirrors = false) ∧
  (s.block.ctl.job.pass = some p) ∧
  (p.notice.kind ≠ 0) ∧
  (r ∉ p.ready) ∧
  (p.noticed = false) ∧
  ((∀ k < s.block.ctl.jobP, k ≠ r → k ∈ p.ready)) :=
  ⟨at' ((leader (job .running openEnt)).withPass (some { passOf 2 0 20 with started := true, reported := true, ready := [0] })), { passOf 2 0 20 with started := true, reported := true, ready := [0] }, 1, 0, by decide +kernel⟩

theorem meets_PassesEnd_3 :
  ∃ (s : State) (p : Pass) (bad : Bool),
  (s.block.ctl.awake = true) ∧
  (s.block.ctl.leader = false) ∧
  (s.block.ctl.pair.rank2 = none) ∧
  (s.block.ctl.mirrors = false) ∧
  (s.block.ctl.job.pass = some p) ∧
  (p.started = true) ∧
  (p.reported = false) ∧
  (s.block.passOutcome false p.notice.kind = some bad) :=
  ⟨at' ({ member (job .running openEnt) with sems := [(101, 1)] }.withPass (some { passOf 2 0 20 with started := true })), { passOf 2 0 20 with started := true }, false, by decide +kernel⟩

theorem meets_PassesEnd_4 :
  ∃ (s : State) (p : Pass) (r k : Nat) (f : PassFlags),
  (s.block.ctl.awake = true) ∧
  (s.block.ctl.leader = true) ∧
  (s.block.ctl.job.pass = some p) ∧
  ((∀ x ∈ p.reports, x.rank ≠ r ∧ x.rank ≠ k)) ∧
  (k ≠ r) ∧
  (k < s.block.ctl.jobP) :=
  ⟨at' ((leader (job .running openEnt)).withPass (some { passOf 2 0 20 with started := true, reported := true })), { passOf 2 0 20 with started := true, reported := true }, 1, 0, PassFlags.clean, by decide +kernel⟩

/-- A rank whose START_JOB runs. -/
def startingJob : Block := ((fun b : Block => { b with ctl := { b.ctl with job := { b.ctl.job with inJob := false, starting := some { cmd := 0, passDone := true } } } }) (member (job .loaded openEnt))).withPass (some { passOf 0 0 0 with started := true, reported := true })

theorem meets_PassesEnd_5 :
  ∃ (s : State) (p : Pass) (st : Starting) (f : PassFlags) (x : Cmd),
  (s.block.ctl.awake = true) ∧
  (s.block.ctl.leader = false) ∧
  (s.block.ctl.pair.role = .unbound) ∧
  (s.block.ctl.job.pass = some p) ∧
  (p.notice.kind = 0) ∧
  (f.poisoned = false) ∧
  (s.block.ctl.job.starting = some st) ∧
  (s.block.ctl.cmd st.cmd = some x) :=
  ⟨on (startingJob) ({ cmdOf 0x04 [] with phase := .running }), { passOf 0 0 0 with started := true, reported := true }, { cmd := 0, passDone := true }, PassFlags.clean, { cmdOf 0x04 [] with phase := .running }, by decide +kernel⟩

/-! ### CommitsTakeEffect -/

theorem meets_CommitsTakeEffect_0 :
  ∃ (s : State) (a : Nat) (p : Pass) (x : Cmd),
  ((s.block.ctl.awake = true) ∧
  (s.block.ctl.Alone) ∧
  (s.block.ctl.NoHooks) ∧
  (s.block.ctl.job.pass = some p) ∧
  (p.noticed = true) ∧
  (p.notice.kind = 3) ∧
  (p.notice.e < 2 ^ 31) ∧
  (s.block.ctl.hif.cmds = [x]) ∧
  (p.cmd = some x.id) ∧
  (cOp x.bytes = 0x12) ∧
  (cSeq x.bytes = p.notice.seq) ∧
  (x.phase = .running) ∧
  (x.stopping = false) ∧
  (u8 x.bytes 34 = 0) ∧
  ((s.block.ctl.seqFw p.notice.seq).deferred = []) ∧
  ((s.block.ctl.seqFw p.notice.seq).pre = .none)) ∧
  (s.block.EntryAt p.notice.seq a) ∧
  (let token := s.block.tokenOut
  let stop := bit (u8 x.bytes 35) 0 && token == u32 x.bytes 48
  let e := s.block.seq p.notice.seq
  ((x.steps + 1 = u32 x.bytes 36 ∨ stop = true)) ∧
  (e.state = seqActive)) :=
  ⟨on ((job .running { openEnt with state := 2, length := 16, committed := 16 }).withPass (some { passOf 3 16 17 with started := true, reported := true, noticed := true, cmd := some 0 })) ({ cmdOf 0x12 [(36, 1, 4), (40, 0x5000, 8)] with phase := .running }), 0x0F0000000000, { passOf 3 16 17 with started := true, reported := true, noticed := true, cmd := some 0 }, { cmdOf 0x12 [(36, 1, 4), (40, 0x5000, 8)] with phase := .running }, by simp only [Ctl.Alone, Ctl.NoHooks]; decide +kernel, entryAt_scratch _ _ _ (by decide +kernel) (by decide +kernel) (by decide), by decide +kernel⟩

theorem meets_CommitsTakeEffect_1 :
  ∃ (s : State) (a : Nat) (m : CommitMsg),
  ((s.block.ctl.awake = true) ∧
  (s.block.ctl.job.inJob = true) ∧
  (s.block.ctl.leader = false) ∧
  (s.block.ctl.NoHooks) ∧
  (m.seq < 4096)) ∧
  (s.block.EntryAt m.seq a) ∧
  (((s.block.seq m.seq).state ≠ seqClosed) ∧
  ((s.block.ctl.seqFw m.seq).opening = none) ∧
  ((s.block.ctl.seqFw m.seq).pre ≠ .flooded)) ∧
  (let entry : SeqEnt := { s.block.seq m.seq with length := m.length, committed := m.e, pending := m.pending, state := m.state }
  ∃ p,
  (s.block.ctl.job.pass = some p) ∧
  (p.notice.kind ≠ 0) ∧
  (p.notice.seq = m.seq) ∧
  (p.reported = true)) :=
  ⟨at' ((member (job .running openEnt)).withPass (some { passOf 2 0 20 with started := true, reported := true })), 0x0F0000000000, { seq := 0, length := 20, e := 20, pending := 0xFFFFFFFF, state := 2 }, by simp only [Ctl.NoHooks]; decide +kernel, entryAt_scratch _ _ _ (by decide +kernel) (by decide +kernel) (by decide), by decide +kernel, { passOf 2 0 20 with started := true, reported := true }, by decide +kernel⟩

theorem meets_CommitsTakeEffect_2 :
  ∃ (s : State) (a : Nat) (m : CommitMsg),
  ((s.block.ctl.awake = true) ∧
  (s.block.ctl.job.inJob = true) ∧
  (s.block.ctl.leader = false) ∧
  (s.block.ctl.NoHooks) ∧
  (m.seq < 4096)) ∧
  (s.block.EntryAt m.seq a) ∧
  (((s.block.seq m.seq).state ≠ seqClosed) ∧
  ((s.block.ctl.seqFw m.seq).opening = none) ∧
  ((s.block.ctl.seqFw m.seq).pre ≠ .flooded)) ∧
  (let entry : SeqEnt := { s.block.seq m.seq with length := m.length, committed := m.e, pending := m.pending, state := m.state }
  (s.block.ctl.passOn m.seq = false)) :=
  ⟨at' (member (job .running openEnt)), 0x0F0000000000, { seq := 0, length := 20, e := 20, pending := 0xFFFFFFFF, state := 2 }, by simp only [Ctl.NoHooks]; decide +kernel, entryAt_scratch _ _ _ (by decide +kernel) (by decide +kernel) (by decide), by decide +kernel, by decide +kernel⟩

/-! ### MirrorIsKept -/

theorem meets_MirrorIsKept_0 :
  ∃ s : State,
  ((s.block.ctl.awake = true) ∧
  (s.block.ctl.pair.role = .bound)) ∧
  (let p := s.block.ctl.pair
  ∃ (q l n slot : Nat) (bytes : Bytes) (f : Nat × Nat),
  (p.frames.find? (fun m => m.2 == pageKey q l n) = some f)) :=
  ⟨at' ((up .ready).withPair { Pair.blank with role := .bound, frames := [(2 ^ 27, pageKey 3 0 5)] }), by decide +kernel, 3, 0, 5, 1, [1, 2, 3], (2 ^ 27, pageKey 3 0 5), by decide +kernel⟩

theorem meets_MirrorIsKept_1 :
  ∃ s : State,
  (s.block.ctl.awake = true) ∧
  (s.block.ctl.pair.role = .bound) :=
  ⟨at' (bound (up .ready)), by decide +kernel⟩

theorem meets_MirrorIsKept_2 :
  ∃ s : State,
  (s.block.ctl.awake = true) ∧
  (s.block.ctl.pair.role = .bound) :=
  ⟨at' (bound (up .ready)), by decide +kernel⟩

theorem meets_MirrorIsKept_3 :
  ∃ s : State,
  (s.block.ctl.awake = true) ∧
  (s.block.ctl.pair.role = .bound) :=
  ⟨at' (bound (up .ready)), by decide +kernel⟩

theorem meets_MirrorIsKept_4 :
  ∃ s : State,
  (s.block.ctl.awake = true) ∧
  (s.block.ctl.pair.role = .bound) :=
  ⟨at' (bound (up .ready)), by decide +kernel⟩

theorem meets_MirrorIsKept_5 :
  ∃ s : State,
  (s.block.ctl.awake = true) ∧
  (s.block.ctl.pair.role = .bound) :=
  ⟨at' (bound (up .ready)), by decide +kernel⟩

theorem meets_MirrorIsKept_6 :
  ∃ s : State,
  ((s.block.ctl.awake = true) ∧
  (s.block.ctl.pair.role = .bound)) ∧
  (let p := s.block.ctl.pair
  ∃ r : StateRec,
  (r.hand = 0)) :=
  ⟨at' (bound (up .ready)), by decide +kernel, { seqs := [], progress := [], sqHead := 1, cqCount := 1, crc := 0, hand := 0, swapAddr := 0, swapBytes := 0, regions := [], sems := [] }, by decide +kernel⟩

/-! ### PairBindings -/

theorem meets_PairBindings_0 :
  ∃ (s : State) (id : Nat) (x : Cmd),
  (s.block.MayRun id 0x31 x) ∧
  (bindLegal s.block x = true) ∧
  (u8 x.bytes 33 = 0) ∧
  (s.block.bindFits = true) :=
  ⟨on (up .ready) (cmdOf 0x31 [(32, 1, 1)]), 0, cmdOf 0x31 [(32, 1, 1)], by simp only [Block.MayRun]; decide +kernel⟩

theorem meets_PairBindings_1 :
  ∃ (s : State) (id : Nat) (x : Cmd),
  (s.block.MayRun id 0x31 x) ∧
  (bindLegal s.block x = true) ∧
  (u8 x.bytes 33 = 2) ∧
  (s.block.bindFits = true) :=
  ⟨on (up .loaded) (cmdOf 0x31 [(32, 1, 1), (33, 2, 1)]), 0, cmdOf 0x31 [(32, 1, 1), (33, 2, 1)], by simp only [Block.MayRun]; decide +kernel⟩

theorem meets_PairBindings_2 :
  ∃ (s : State) (id : Nat) (x : Cmd),
  (s.block.MayRun id 0x31 x) ∧
  (bindLegal s.block x = true) ∧
  (u8 x.bytes 33 ≠ 1) ∧
  (s.block.bindFits = false) :=
  ⟨on ((fun b : Block => ({ b with ctl := { b.ctl with plan := { Plan.blank with loaded := true, bufs := [bufOf 0 1 0 (2 ^ 40) 0] } } } : Block)) (up .ready)) (cmdOf 0x31 [(32, 1, 1)]), 0, cmdOf 0x31 [(32, 1, 1)], by simp only [Block.MayRun]; decide +kernel⟩

theorem meets_PairBindings_3 :
  ∃ (s : State) (id : Nat) (x : Cmd),
  (s.block.MayRun id 0x32 x) ∧
  (s.block.ctl.glb.state = .degraded) ∧
  (s.block.ctl.pair.role = .resyncing true) ∧
  (s.block.ctl.job.pass ≠ none) ∧
  (u8 x.bytes 32 = s.block.ctl.pair.partner) :=
  ⟨on (((job .degraded openEnt).withPass (some (passOf 2 0 20))).withPair { Pair.blank with role := .resyncing true, partner := 1 }) (cmdOf 0x32 [(32, 1, 1)]), 0, cmdOf 0x32 [(32, 1, 1)], by simp only [Block.MayRun]; decide +kernel⟩

theorem meets_PairBindings_4 :
  ∃ (s : State) (gib : Nat),
  (s.block.ctl.awake = true) ∧
  (s.block.ctl.pair.role = .replacement false) :=
  ⟨at' ((up .resync).withPair { Pair.blank with role := .replacement false }), 5, by decide +kernel⟩

/-! ### HeartbeatsAndTakeovers -/

theorem meets_HeartbeatsAndTakeovers_0 :
  ∃ s : State,
  (s.block.ctl.awake = true) ∧
  (s.block.ctl.linksAlive = true) ∧
  (s.block.ctl.pair.role = .bound) :=
  ⟨at' (bound (up .ready)), by decide +kernel⟩

theorem meets_HeartbeatsAndTakeovers_1 :
  ∃ (s : State) (old : Fin 8),
  ((s.block.ctl.awake = true) ∧
  (s.block.ctl.pair.role = .bound) ∧
  (s.block.ctl.job.inJob = false)) ∧
  (∃ f : BeatFrom,
  (f = .relay old)) :=
  ⟨at' (bound (up .ready)), 3, by decide +kernel, .relay 3, by decide +kernel⟩

theorem meets_HeartbeatsAndTakeovers_2 :
  ∃ (s : State) (old : Fin 8),
  ((s.block.ctl.awake = true) ∧
  (s.block.ctl.pair.role = .bound) ∧
  (s.block.ctl.job.inJob = false)) ∧
  (∃ f : BeatFrom,
  ((∃ x, f = .partner x))) :=
  ⟨at' (bound (up .ready)), 0, by decide +kernel, .partner false, by decide +kernel⟩

theorem meets_HeartbeatsAndTakeovers_3 :
  ∃ s : State,
  (s.block.ctl.awake = true) ∧
  (s.block.ctl.pair.role = .bound) ∧
  (s.block.ctl.pair.heardP + 100000 ≤ s.block.lhTime) ∧
  (s.block.ctl.pair.heardR + 100000 ≤ s.block.lhTime) :=
  ⟨at' { bound (up .ready) with lhTime := 200000 }, by decide +kernel⟩

theorem meets_HeartbeatsAndTakeovers_4 :
  ∃ s : State,
  (s.block.ctl.awake = true) ∧
  (s.block.ctl.pair.role = .bound) ∧
  (s.block.ctl.pairArmed = true) ∧
  (s.block.relayHeard = true) ∧
  (s.block.ctl.pair.heardP + 200000 ≤ s.block.lhTime) :=
  ⟨at' ((fun b : Block => ({ b with lhTime := 300000, ctl := { b.ctl with pair := { b.ctl.pair with relay := some 3, heardR := 250000 } } } : Block)) (bound (up .ready))), by decide +kernel⟩

theorem meets_HeartbeatsAndTakeovers_5 :
  ∃ s : State,
  (s.block.ctl.awake = true) ∧
  (s.block.ctl.pair.role = .bound) ∧
  (s.block.ctl.pairArmed = true) ∧
  (s.block.relayHeard = true) :=
  ⟨at' ((fun b : Block => ({ b with lhTime := 300000, ctl := { b.ctl with pair := { b.ctl.pair with relay := some 3, heardR := 250000 } } } : Block)) (bound (up .ready))), by decide +kernel⟩

theorem meets_HeartbeatsAndTakeovers_6 :
  ∃ (s : State) (cause : Nat),
  (s.block.ctl.awake = true) ∧
  (s.block.ctl.pair.role = .bound) ∧
  (s.block.ctl.pair.takeCause = some cause) ∧
  (s.block.ctl.pairArmed = true) ∧
  (s.block.ctl.job.inJob = false) ∧
  (s.block.ctl.pair.rank2 = none) :=
  ⟨at' ((fun b : Block => ({ b with ctl := { b.ctl with pair := { b.ctl.pair with takeCause := some 1 } } } : Block)) (bound (up .ready))), 1, by decide +kernel⟩

theorem meets_HeartbeatsAndTakeovers_7 :
  ∃ (s : State) (m : AbandonMsg),
  (s.block.ctl.awake = true) ∧
  (s.block.ctl.job.inJob = true) ∧
  (m.failedRank < s.block.ctl.jobP) ∧
  (s.block.ctl.leader = false) ∧
  (m.replay = true) ∧
  (s.block.openSeqs = []) :=
  ⟨at' (member (job .running { openEnt with state := 0 })), { failedRank := 0, failedSlot := 1, partnerSlot := 2, partnerSerial := 4, replay := true }, by decide +kernel⟩

/-! ### FaultsResolve -/

theorem meets_FaultsResolve_0 :
  ∃ (s : State) (f : XFault),
  ((s.block.ctl.awake = true) ∧
  (s.block.ctl.fw.faults.find? (fun g => g.id == f.id) = some f) ∧
  (s.block.ctl.halted f = true) ∧
  (f.line = none)) ∧
  (let x := s.block.xlate (s.block.ctl.faultSpace f) f.vaddr f.write
  ((∃ k a, x = .ok k a)) ∧
  (s.block.pageBusy f.vaddr f.write = false) ∧
  ((∀ id, f.who ≠ .remote id))) :=
  ⟨at' (faulted (job .running ent3) (2 ^ 33)), { id := 5, who := .context 0 0, vaddr := 2 ^ 33, write := true, second := false, line := none }, by decide +kernel, ⟨0, 0x100000, by decide +kernel⟩, by decide +kernel, fun _ h => Faulter.noConfusion h⟩

theorem meets_FaultsResolve_1 :
  ∃ (s : State) (f : XFault),
  ((s.block.ctl.awake = true) ∧
  (s.block.ctl.fw.faults.find? (fun g => g.id == f.id) = some f) ∧
  (s.block.ctl.halted f = true) ∧
  (f.line = none)) ∧
  (let x := s.block.xlate (s.block.ctl.faultSpace f) f.vaddr f.write
  ∃ (id toRank source va len : Nat) (second : Bool),
  ((∃ k a, x = .ok k a)) ∧
  ((s.block.pageBusy f.vaddr f.write = false) ∧
  (f.who = .remote id) ∧
  (s.block.ctl.fw.remote.find? (fun r => r.1 == id) = some (id, .rankLoad toRank source va len)) ∧
  (s.block.ctl.servesRank toRank = some second)) ∧
  (let sp : Space := { second := second, cove := none, tlb := [] }
  (s.block.firstBad sp [{ va := va, len := len, write := false }] = none))) :=
  ⟨at' (faultedBy { id := 5, who := .remote 8, vaddr := 2 ^ 33, write := false, second := false, line := none } ((leader (job .running ent3)).withFw { (leader (job .running ent3)).ctl.fw with remote := [(8, .rankLoad 0 1 (2 ^ 33) 8)] })), { id := 5, who := .remote 8, vaddr := 2 ^ 33, write := false, second := false, line := none }, by decide +kernel, 8, 0, 1, 2 ^ 33, 8, false, ⟨0, 0x100000, by decide +kernel⟩, by decide +kernel, by decide +kernel⟩

theorem meets_FaultsResolve_2 :
  ∃ (s : State) (f : XFault),
  ((s.block.ctl.awake = true) ∧
  (s.block.ctl.fw.faults.find? (fun g => g.id == f.id) = some f) ∧
  (s.block.ctl.halted f = true) ∧
  (f.line = none)) ∧
  (let x := s.block.xlate (s.block.ctl.faultSpace f) f.vaddr f.write
  ∃ (q l n tier g : Nat),
  (x = .absent) ∧
  ((∀ id, f.who ≠ .remote id)) ∧
  (s.block.pageOf f.vaddr = some (q, l, n)) ∧
  (s.block.ctl.Alone) ∧
  (f.second = false) ∧
  (s.block.ctl.holder l n = 0) ∧
  (s.block.pageEntry false ((s.block.seq q).pageAddr l n) = absentEntry) ∧
  (s.block.ctl.pickFrame ((s.block.ctl.seqFw q).tierOf l n) = some (tier, g))) :=
  ⟨at' (faulted (job .running ent3) (2 ^ 33 + 8192)), { id := 5, who := .context 0 0, vaddr := 2 ^ 33 + 8192, write := true, second := false, line := none }, by decide +kernel, 0, 0, 1, 0, 129, by decide +kernel, fun _ h => Faulter.noConfusion h, by simp only [Ctl.Alone]; decide +kernel⟩

theorem meets_FaultsResolve_3 :
  ∃ (s : State) (f : XFault),
  ((s.block.ctl.awake = true) ∧
  (s.block.ctl.fw.faults.find? (fun g => g.id == f.id) = some f) ∧
  (s.block.ctl.halted f = true) ∧
  (f.line = none)) ∧
  (let x := s.block.xlate (s.block.ctl.faultSpace f) f.vaddr f.write
  (x = .deviceFault)) :=
  ⟨at' (faulted (job .running ent3) (2 ^ 33 + 24576)), { id := 5, who := .context 0 0, vaddr := 2 ^ 33 + 24576, write := true, second := false, line := none }, by decide +kernel⟩

/-! ### PreemptionAndMoves -/

theorem meets_PreemptionAndMoves_0 :
  ∃ (s : State) (q : Fin 4096),
  ((s.block.ctl.awake = true) ∧
  (s.block.ctl.leader = false) ∧
  (s.block.ctl.pair.role = .unbound) ∧
  (s.block.ctl.pair.rank2 = none)) ∧
  (∃ (a : Nat) (cause : Fin 3),
  ((s.block.ctl.job.inJob = true) ∧
  ((s.block.ctl.seqFw q).pre = .none) ∧
  ((s.block.seq q).state ≠ seqClosed) ∧
  (s.block.ctl.passOn q = false) ∧
  (s.block.ctl.checking q = false)) ∧
  (s.block.EntryAt q a)) :=
  ⟨at' (member (job .running ent3)), 0, by decide +kernel, 0x0F0000000000, 1, by decide +kernel, entryAt_scratch _ _ _ (by decide +kernel) (by decide +kernel) (by decide)⟩

theorem meets_PreemptionAndMoves_1 :
  ∃ (s : State) (q : Fin 4096),
  ((s.block.ctl.awake = true) ∧
  (s.block.ctl.leader = false) ∧
  (s.block.ctl.pair.role = .unbound) ∧
  (s.block.ctl.pair.rank2 = none)) ∧
  (∃ (x : PageAt) (slot f : Nat),
  ((s.block.ctl.seqFw q).pre = .ebbing) ∧
  ((s.block.ctl.seqFw q).back = []) ∧
  (s.block.ctl.fw.invals = []) ∧
  (s.block.unpinned q = [x]) ∧
  (s.block.ctl.slotsFree 1 = [slot]) ∧
  (s.block.frameOf x.entry = some f)) :=
  ⟨at' (fw0 (ringMember (job .running ent3) { ent3 with state := 3 } 0x100001 13) { SeqFw.closed with pre := .ebbing }), 0, by decide +kernel, { second := false, layer := 0, page := 1, entry := 0x100001 }, 0, 128, by decide +kernel⟩

theorem meets_PreemptionAndMoves_2 :
  ∃ (s : State) (q : Fin 4096),
  ((s.block.ctl.awake = true) ∧
  (s.block.ctl.leader = false) ∧
  (s.block.ctl.pair.role = .unbound) ∧
  (s.block.ctl.pair.rank2 = none)) ∧
  (∃ (key : Nat) (x : PageAt) (tier f : Nat),
  ((s.block.ctl.seqFw q).pre = .swapped) ∧
  (s.block.ctl.fw.invals = []) ∧
  ((s.block.ctl.seqFw q).resume = some key) ∧
  (s.block.swappedPages q = [x]) ∧
  (s.block.ctl.pickFrame ((s.block.ctl.seqFw q).tierOf x.layer x.page) = some (tier, f))) :=
  ⟨at' (fw0 (ringMember (job .running ent3) { ent3 with state := 3 } 13 0x9) { SeqFw.closed with pre := .swapped, resume := some 7 }), 0, by decide +kernel, 7, { second := false, layer := 0, page := 2, entry := 9 }, 0, 129, by decide +kernel⟩

theorem meets_PreemptionAndMoves_3 :
  ∃ (s : State) (q : Fin 4096),
  ((s.block.ctl.awake = true) ∧
  (s.block.ctl.leader = false) ∧
  (s.block.ctl.pair.role = .unbound) ∧
  (s.block.ctl.pair.rank2 = none)) ∧
  (∃ (key : Nat),
  ((s.block.ctl.seqFw q).pre = .swapped) ∧
  (s.block.ctl.fw.invals = []) ∧
  ((s.block.ctl.seqFw q).resume = some key) ∧
  (assignFrames q s.block.ctl (s.block.swappedPages q) = none) ∧
  (s.block.ctl.preempting = false) ∧
  (s.block.ctl.job.inJob = true)) :=
  ⟨at' ((fun b : Block => ({ b with ctl := { b.ctl with plan := { b.ctl.plan with bufs := [] } } } : Block)) (fw0 (ringMember (job .running ent3) { ent3 with state := 3 } 13 0x9) { SeqFw.closed with pre := .swapped, resume := some 7 })), 0, by decide +kernel, 7, by decide +kernel⟩

theorem meets_PreemptionAndMoves_4 :
  ∃ (s : State) (q : Fin 4096),
  ((s.block.ctl.awake = true) ∧
  (s.block.ctl.leader = false) ∧
  (s.block.ctl.pair.role = .unbound) ∧
  (s.block.ctl.pair.rank2 = none)) ∧
  (∃ (key : Nat),
  ((s.block.ctl.seqFw q).pre = .swapped) ∧
  (s.block.ctl.fw.invals = []) ∧
  ((s.block.ctl.seqFw q).resume = some key) ∧
  (assignFrames q s.block.ctl (s.block.swappedPages q) = none) ∧
  (s.block.ctl.preempting = false)) :=
  ⟨at' ((fun b : Block => ({ b with ctl := { b.ctl with plan := { b.ctl.plan with bufs := [] } } } : Block)) (fw0 (ringMember (job .running ent3) { ent3 with state := 3 } 13 0x9) { SeqFw.closed with pre := .swapped, resume := some 7 })), 0, by decide +kernel, 7, by decide +kernel⟩

theorem meets_PreemptionAndMoves_5 :
  ∃ (s : State) (m : PageMv),
  (s.block.ctl.awake = true) ∧
  (s.block.ctl.fw.moves.find? (fun k => k.id == m.id && k.step == 2) = some m) :=
  ⟨at' ((fun b : Block => b.withFw { b.ctl.fw with moves := [{ id := 4, seq := 0, layer := 0, page := 0, old := 128, new := 130, tier := 0, step := 2, key := 0, next := [] }] }) (job .running ent3)), { id := 4, seq := 0, layer := 0, page := 0, old := 128, new := 130, tier := 0, step := 2, key := 0, next := [] }, by decide +kernel⟩

theorem meets_PreemptionAndMoves_6 :
  ∃ (s : State) (i : Inval),
  (s.block.ctl.awake = true) ∧
  (s.block.ctl.leader = false) ∧
  (s.block.ctl.fw.invals.find? (fun k => k.id == i.id) = some i) ∧
  (i.what = .nothing) :=
  ⟨at' ((fun b : Block => b.withFw { b.ctl.fw with invals := [{ id := 6, lo := 2 ^ 33, hi := 2 ^ 33 + 8192, more := [], what := .nothing }] }) (member (job .running ent3))), { id := 6, lo := 2 ^ 33, hi := 2 ^ 33 + 8192, more := [], what := .nothing }, by decide +kernel⟩

theorem meets_PreemptionAndMoves_7 :
  ∃ (s : State) (i : Inval),
  ((s.block.ctl.awake = true) ∧
  (s.block.ctl.leader = false) ∧
  (s.block.ctl.fw.invals.find? (fun k => k.id == i.id) = some i)) ∧
  (∃ (m : Nat) (k : PageMv),
  (i.what = .move m) ∧
  (s.block.ctl.fw.moves.find? (fun k => k.id == m) = some k) ∧
  (k.step = 1)) :=
  ⟨at' ((fun b : Block => b.withFw { b.ctl.fw with moves := [{ id := 4, seq := 0, layer := 0, page := 0, old := 128, new := 130, tier := 0, step := 1, key := 0, next := [] }], invals := [{ id := 6, lo := 2 ^ 33, hi := 2 ^ 33 + 8192, more := [], what := .move 4 }] }) (member (job .running ent3))), { id := 6, lo := 2 ^ 33, hi := 2 ^ 33 + 8192, more := [], what := .move 4 }, by decide +kernel, 4, { id := 4, seq := 0, layer := 0, page := 0, old := 128, new := 130, tier := 0, step := 1, key := 0, next := [] }, by decide +kernel⟩

theorem meets_PreemptionAndMoves_8 :
  ∃ (s : State) (i : Inval),
  ((s.block.ctl.awake = true) ∧
  (s.block.ctl.leader = false) ∧
  (s.block.ctl.fw.invals.find? (fun k => k.id == i.id) = some i)) ∧
  (∃ (q : Nat) (fs : List Nat),
  (i.what = .ebb q fs)) :=
  ⟨at' ((fun b : Block => b.withFw { b.ctl.fw with invals := [{ id := 6, lo := 2 ^ 33, hi := 2 ^ 33 + 8192, more := [], what := .ebb 0 [128] }] }) (member (job .running ent3))), { id := 6, lo := 2 ^ 33, hi := 2 ^ 33 + 8192, more := [], what := .ebb 0 [128] }, by decide +kernel, 0, [128], by decide +kernel⟩

theorem meets_PreemptionAndMoves_9 :
  ∃ (s : State) (i : Inval),
  ((s.block.ctl.awake = true) ∧
  (s.block.ctl.leader = false) ∧
  (s.block.ctl.fw.invals.find? (fun k => k.id == i.id) = some i)) ∧
  (∃ (q key : Nat),
  (i.what = .flood q) ∧
  ((s.block.ctl.seqFw q).resume = some key) ∧
  (s.block.ctl.pair.rank2 = none) ∧
  (s.block.ctl.pair.role = .unbound)) :=
  ⟨at' ((fun b : Block => b.withFw { b.ctl.fw with invals := [{ id := 6, lo := 2 ^ 33, hi := 2 ^ 33 + 8192, more := [], what := .flood 0 }], seqs := [(0, { SeqFw.closed with pre := .swapped, resume := some 7 })] }) (member (job .running ent3))), { id := 6, lo := 2 ^ 33, hi := 2 ^ 33 + 8192, more := [], what := .flood 0 }, by decide +kernel, 0, 7, by decide +kernel⟩

/-! ### PeersAndWindows -/

theorem meets_PeersAndWindows_0 :
  ∃ (s : State) (m : PageEntryMsg) (leaf l3 : Nat),
  ((s.block.ctl.awake = true) ∧
  (s.block.ctl.pair.rank2 = none) ∧
  ((s.block.seq m.seq).state ≠ seqClosed) ∧
  (m.page < (s.block.seq m.seq).capPages) ∧
  (m.entry ≠ 0)) ∧
  (let va := (s.block.seq m.seq).pageAddr m.layer m.page
  (leafTable s.block.mem va [43, 33, 23] (s.block.root false) = some leaf) ∧
  (leafTable s.block.mem va [43, 33] (s.block.root false) = some l3) ∧
  (s.block.ctl.fw.alloc.absent ≠ some (leaf / 8192))) :=
  ⟨at' (member (job .running ent3)), { seq := 0, layer := 0, page := 1, entry := 0x0001000000200001 }, 0x14000, 0x12000, by decide +kernel⟩

theorem meets_PeersAndWindows_1 :
  ∃ (s : State) (slot : Fin 8) (va q l n f : Nat),
  ((s.block.ctl.awake = true) ∧
  (s.block.pageOf va = some (q, l, n)) ∧
  (s.block.ctl.servesRank (s.block.ctl.holder l n) = some false)) ∧
  (let e := s.block.pageEntry false ((s.block.seq q).pageAddr l n)
  (s.block.frameOf e = some f) ∧
  (entReadonly e = false)) :=
  ⟨at' (leader (job .running ent3)), 1, 2 ^ 33, 0, 0, 0, 128, by decide +kernel⟩

theorem meets_PeersAndWindows_2 :
  ∃ (s : State) (r q v : Nat),
  ((s.block.ctl.awake = true) ∧
  (s.block.ctl.leader = true) ∧
  (s.block.ctl.job.inJob = true) ∧
  (s.block.ctl.preempting = false)) ∧
  (∃ (why : VictimWhy) (cause : Nat) (below : Option Nat),
  ((why = .pool ∧ cause = 0 ∧ below = none) ∨ (why = .flood ∧ cause = 2 ∧ below = some (s.block.seq q).priority)) ∧
  (s.block.victim q below = some v) ∧
  (s.block.ctl.passOn v = true)) :=
  ⟨at' ((fun b : Block => ({ b with ctl := { b.ctl with job := { b.ctl.job with swapBytes := 2 ^ 20 } } } : Block)) ((leader (job .running ent3)).withPass (some (passOf 2 0 20)))), 1, 5, 0, by decide +kernel, .pool, 0, none, by decide +kernel⟩

theorem meets_PeersAndWindows_3 :
  ∃ (s : State) (r q v : Nat),
  ((s.block.ctl.awake = true) ∧
  (s.block.ctl.leader = true) ∧
  (s.block.ctl.job.inJob = true) ∧
  (s.block.ctl.preempting = false)) ∧
  (∃ (why : VictimWhy) (cause : Nat) (below : Option Nat),
  ((why = .pool ∧ cause = 0 ∧ below = none) ∨ (why = .flood ∧ cause = 2 ∧ below = some (s.block.seq q).priority)) ∧
  (s.block.victim q below = none)) :=
  ⟨at' (leader (job .running ent3)), 1, 5, 0, by decide +kernel, .flood, 2, some 0, by decide +kernel⟩

theorem meets_PeersAndWindows_4 :
  ∃ (s : State) (m : BufferMapMsg),
  (s.block.ctl.awake = true) ∧
  (s.block.ctl.plan.loaded = true) ∧
  (s.block.ctl.job.starting = none) :=
  ⟨at' (member (job .loaded ent3)), { slot := 1, home := 1, rank := 0, pieces := [] }, by decide +kernel⟩

theorem meets_PeersAndWindows_5 :
  ∃ (s : State) (slot : Fin 8) (a n : Nat) (bytes : Bytes),
  (s.block.ctl.awake = true) ∧
  (s.block.backedRange a bytes.length = true) ∧
  ((∀ u ∈ unitsOf a (a + bytes.length) 9, Tab.get 0 s.block.ctl.fw.alloc.owner (u / 16) = 0)) :=
  ⟨at' (up .ready), 1, 0x1000, 0, [1, 2], by decide +kernel⟩

theorem meets_PeersAndWindows_6 :
  ∃ (s : State) (slot : Fin 8) (a n : Nat) (bytes : Bytes),
  (s.block.ctl.awake = true) ∧
  (s.block.backedRange a bytes.length = false) :=
  ⟨at' (up .ready), 1, 0x3F00000000, 0, [1, 2], by decide +kernel⟩

theorem meets_PeersAndWindows_7 :
  ∃ (s : State) (slot : Fin 8) (a n : Nat) (bytes : Bytes),
  (s.block.ctl.awake = true) :=
  ⟨at' (up .ready), 1, 0x1000, 16, [], by decide +kernel⟩

theorem meets_PeersAndWindows_8 :
  ∃ (s : State) (r : Nat) (second : Bool) (sem : Fin 32768) (n : BitVec 31),
  ((s.block.ctl.awake = true) ∧
  (s.block.ctl.servesRank r = some second)) ∧
  (let k := semIn second sem.val
  (semCount (s.block.sem k) + n.toNat ≤ semMax)) :=
  ⟨at' (up .ready), 0, false, 77, 3, by decide +kernel⟩

theorem meets_PeersAndWindows_9 :
  ∃ (s : State) (r : Nat) (second : Bool) (sem : Fin 32768) (n : BitVec 31),
  (s.block.ctl.awake = true) ∧
  (s.block.ctl.servesRank r = some second) :=
  ⟨at' (up .ready), 0, false, 77, 3, by decide +kernel⟩

theorem meets_PeersAndWindows_10 :
  ∃ (s : State) (toRank source va len : Nat) (second : Bool),
  ((s.block.ctl.awake = true) ∧
  (s.block.ctl.servesRank toRank = some second)) ∧
  (let r : RemoteReq := .rankLoad toRank source va len
  let sp : Space := { second := second, cove := none, tlb := [] }
  let bad := s.block.firstBad sp [{ va := va, len := len, write := false }]
  let id := s.block.ctl.fw.nextId
  (bad = none)) :=
  ⟨at' (leader (job .running ent3)), 0, 1, 2 ^ 33, 8, false, by decide +kernel⟩

theorem meets_PeersAndWindows_11 :
  ∃ (s : State) (toRank source va len : Nat) (second : Bool),
  ((s.block.ctl.awake = true) ∧
  (s.block.ctl.servesRank toRank = some second)) ∧
  (let r : RemoteReq := .rankLoad toRank source va len
  let sp : Space := { second := second, cove := none, tlb := [] }
  let bad := s.block.firstBad sp [{ va := va, len := len, write := false }]
  let id := s.block.ctl.fw.nextId
  ∃ (a : Nat) (w : Bool),
  (bad = some (a, w, .accessError))) :=
  ⟨at' (leader (job .running ent3)), 0, 1, 2 ^ 45, 8, false, by decide +kernel, 2 ^ 45, false, by decide +kernel⟩

theorem meets_PeersAndWindows_12 :
  ∃ (s : State) (toRank source va len : Nat) (second : Bool),
  ((s.block.ctl.awake = true) ∧
  (s.block.ctl.servesRank toRank = some second)) ∧
  (let r : RemoteReq := .rankLoad toRank source va len
  let sp : Space := { second := second, cove := none, tlb := [] }
  let bad := s.block.firstBad sp [{ va := va, len := len, write := false }]
  let id := s.block.ctl.fw.nextId
  ∃ (a : Nat) (w : Bool),
  (bad = some (a, w, .absent) ∨ bad = some (a, w, .swapped))) :=
  ⟨at' (leader (job .running ent3)), 0, 1, 2 ^ 33 + 8192, 8, false, by decide +kernel, 2 ^ 33 + 8192, false, by decide +kernel⟩

theorem meets_PeersAndWindows_13 :
  ∃ (s : State) (port : Fin 2) (off n : Nat) (bytes : Bytes),
  let a := s.block.ctl.bar2Addr (port == 1) off
  let err := { s.block.ctl with bar2Err := (s.block.ctl.bar2Err + 1) % 2 ^ 48 }
  (s.block.ctl.inBar2 (port == 1) off n = true) :=
  ⟨at' (hifUp (up .ready)), 0, 0x1000, 8, [], by decide +kernel⟩

theorem meets_PeersAndWindows_14 :
  ∃ (s : State) (port : Fin 2) (off n : Nat) (bytes : Bytes),
  let a := s.block.ctl.bar2Addr (port == 1) off
  let err := { s.block.ctl with bar2Err := (s.block.ctl.bar2Err + 1) % 2 ^ 48 }
  (s.block.ctl.inBar2 (port == 1) off bytes.length = true) :=
  ⟨at' (hifUp (up .ready)), 0, 0x1000, 8, [1, 2], by decide +kernel⟩

/-! ### Signals -/

theorem meets_Signals_0 :
  ∃ (s : State) (sem : Fin 32768) (n : BitVec 31),
  (s.block.ctl.awake = true) ∧
  (let w := s.block.sem sem.val
  (n ≠ 0) ∧
  (semCount w + n.toNat < 2 ^ 31)) :=
  ⟨at' (up .ready), 5, 7, by decide +kernel⟩

theorem meets_Signals_1 :
  ∃ (s : State) (sem : Fin 32768) (n : BitVec 31),
  (s.block.ctl.awake = true) ∧
  (let w := s.block.sem sem.val
  (n ≠ 0) ∧
  (2 ^ 31 ≤ semCount w + n.toNat)) :=
  ⟨at' { up .ready with sems := [(5, 0x7FFFFFFF)] }, 5, 7, by decide +kernel⟩

theorem meets_Signals_2 :
  ∃ (s : State) (sem : Fin 32768) (n : BitVec 31),
  (s.block.ctl.awake = true) :=
  ⟨at' (up .ready), 5, 7, by decide +kernel⟩

/-! ### WaitsComplete -/

theorem meets_WaitsComplete_0 :
  ∃ (s : State) (id : Nat) (x : Cmd),
  ((s.block.ctl.cmd id = some x) ∧
  (x.phase = .waiting) ∧
  (cWait x.bytes = true) ∧
  (x.waitMet = false) ∧
  (waitTrouble s.block x.bytes = none)) ∧
  (let w := s.block.sem (semIn (x.ring == partnerRing) (u16 x.bytes 16))
  (semPoisoned w = false) ∧
  (u32 x.bytes 20 ≤ semCount w)) :=
  ⟨on { up .ready with sems := [(16256, 5)] } (cmdOf 0x01 [(1, 1, 1), (16, 16256, 2), (20, 3, 4)]), 0, cmdOf 0x01 [(1, 1, 1), (16, 16256, 2), (20, 3, 4)], by decide +kernel⟩

theorem meets_WaitsComplete_1 :
  ∃ (s : State) (id : Nat) (x : Cmd),
  ((s.block.ctl.cmd id = some x) ∧
  (x.phase = .waiting) ∧
  (cWait x.bytes = true) ∧
  (x.waitMet = false) ∧
  (waitTrouble s.block x.bytes = none)) ∧
  (let w := s.block.sem (semIn (x.ring == partnerRing) (u16 x.bytes 16))
  (semPoisoned w = true)) :=
  ⟨on { up .ready with sems := [(16256, 0x80000000)] } (cmdOf 0x01 [(1, 1, 1), (16, 16256, 2), (20, 3, 4)]), 0, cmdOf 0x01 [(1, 1, 1), (16, 16256, 2), (20, 3, 4)], by decide +kernel⟩

theorem meets_WaitsComplete_2 :
  ∃ (s : State) (cove : Fin 512) (n : Fin 4) (i : Fin 4) (x : Ctx),
  ((s.block.ctl.cove cove).ctx n = some x) ∧
  (i.val < u8 x.record 6) ∧
  (x.met.getLsbD i = false) ∧
  (x.begun = false) ∧
  (s.block.waitOf x.second x.record i = some false) :=
  ⟨at' { coveAt (some { ctxOf (recOf 1 [(6, 1, 1), (32, 77 + 3 * 2 ^ 32, 8)]) 1 1 1 with met := 0 }) with sems := [(77, 5)] }, 0, 0, 0, { ctxOf (recOf 1 [(6, 1, 1), (32, 77 + 3 * 2 ^ 32, 8)]) 1 1 1 with met := 0 }, by decide +kernel⟩

theorem meets_WaitsComplete_3 :
  ∃ (s : State) (cove : Fin 512) (second : Bool) (i : Fin 4) (e : QEntry) (rest : List QEntry),
  ((s.block.ctl.cove cove).q second = e :: rest) ∧
  (i.val < u8 e.record 6) ∧
  (e.met.getLsbD i = false) ∧
  (heldAtHead e.record = true) ∧
  (s.block.waitOf second e.record i = some false) :=
  ⟨at' { (coveAt none).withCove 0 (fun v => { v with queue := [{ op := 0, record := recOf 0x10 [(6, 1, 1), (32, 77 + 3 * 2 ^ 32, 8)], met := 0 }] }) with sems := [(77, 5)] }, 0, false, 0, { op := 0, record := recOf 0x10 [(6, 1, 1), (32, 77 + 3 * 2 ^ 32, 8)], met := 0 }, [], by decide +kernel⟩

theorem meets_WaitsComplete_4 :
  ∃ (s : State) (cove : Fin 512) (second : Bool) (i : Fin 4) (e : QEntry) (rest : List QEntry),
  ((s.block.ctl.cove cove).q second = e :: rest) ∧
  (i.val < u8 e.record 6) ∧
  (e.met.getLsbD i = false) ∧
  (heldAtHead e.record = true) ∧
  (s.block.waitOf second e.record i = some true) ∧
  (rOp e.record ≠ opXfer) ∧
  (rOp e.record ≠ opTide) ∧
  ((∀ g ∈ recSignals e.record, bit g 19 = false)) :=
  ⟨at' { (coveAt none).withCove 0 (fun v => { v with queue := [{ op := 0, record := recOf 0x10 [(6, 1, 1), (32, 77 + 3 * 2 ^ 32, 8)], met := 0 }] }) with sems := [(77, 0x80000000)] }, 0, false, 0, { op := 0, record := recOf 0x10 [(6, 1, 1), (32, 77 + 3 * 2 ^ 32, 8)], met := 0 }, [], by decide +kernel⟩

/-! ### OperationsAreTaken -/

theorem meets_OperationsAreTaken_0 :
  ∃ (s : State) (cove : Fin 512) (second : Bool) (e : QEntry) (rest : List QEntry) (n : Nat),
  ((s.block.ctl.cove cove).q second = e :: rest) ∧
  ([0, 1, 2, 3].find? (fun n => ((s.block.ctl.cove cove).ctx n).isNone) = some n) ∧
  (takeReady e.record e.met = true) ∧
  (s.block.passRuns = true) ∧
  ((usesScratch e.record = true → s.block.ctl.heldScratch cove + s.block.ctl.plan.workingSet e.record cove +
        s.block.ctl.plan.residentScratch cove ≤ scratchBudget)) ∧
  (s.block.firstBad (s.block.ctl.space cove second) (s.block.takeAccesses cove second e.record) = none) :=
  ⟨at' ((coveAt none).withCove 0 fun v => { v with queue := [{ op := 0, record := recOf 1 [(104, lg 0x1000, 8), (112, lg 0x2000, 8), (120, lg 0x3000, 8)], met := 0 }] }), 0, false, { op := 0, record := recOf 1 [(104, lg 0x1000, 8), (112, lg 0x2000, 8), (120, lg 0x3000, 8)], met := 0 }, [], 0, by decide +kernel⟩

theorem meets_OperationsAreTaken_1 :
  ∃ (s : State) (cove : Fin 512) (n : Fin 4) (x : Ctx),
  (((s.block.ctl.cove cove).ctx n = some x) ∧
  (gTail x.record = true) ∧
  ((rOp x.record = opGemm ∨ rOp x.record = opGrouped)) ∧
  (x.begun = true) ∧
  (x.fault = none) ∧
  (x.second = false) ∧
  (s.block.ctl.oldest cove x = true)) ∧
  (let ctr := rCtr x.record
  let got := s.block.takeTile ctr (s.block.ctl.plan.counterCap ctr) cove x.tailSeq
  ∃ (v : Nat) (w : Act),
  (got = (some v, w)) ∧
  (tailRows x * tileCols x ≤ v)) :=
  ⟨at' (coveAt (some { ctxOf (recOf 1 [(1, 2, 1), (24, lg 0x8000, 8), (104, lg 0x1000, 8), (112, lg 0x2000, 8), (120, lg 0x3000, 8), (172, 1, 2)]) 1 1 1 with begun := true, tailSeq := 6 })), 0, 0, { ctxOf (recOf 1 [(1, 2, 1), (24, lg 0x8000, 8), (104, lg 0x1000, 8), (112, lg 0x2000, 8), (120, lg 0x3000, 8), (172, 1, 2)]) 1 1 1 with begun := true, tailSeq := 6 }, by decide +kernel, 1, _, pair_of_fst (by decide +kernel), by decide +kernel⟩

theorem meets_OperationsAreTaken_2 :
  ∃ (s : State) (cove : Fin 512) (n : Fin 4) (x : Ctx),
  (((s.block.ctl.cove cove).ctx n = some x) ∧
  (gTail x.record = true) ∧
  ((rOp x.record = opGemm ∨ rOp x.record = opGrouped)) ∧
  (x.begun = true) ∧
  (x.fault = none) ∧
  (x.second = false) ∧
  (s.block.ctl.oldest cove x = true)) ∧
  (let ctr := rCtr x.record
  let got := s.block.takeTile ctr (s.block.ctl.plan.counterCap ctr) cove x.tailSeq
  ∃ (v : Nat) (w : Act) (tile : Tile) (vis : Visit),
  (got = (some v, w)) ∧
  ((v < tailRows x * tileCols x) ∧
  (tailTile x v = some tile) ∧
  ((tileVisits x tile).drop x.pos = [vis]) ∧
  (s.block.ctl.demand cove x vis = .own)) ∧
  (let b := (w.seq (served ctr cove x.tailSeq)).run s.block
  let as := b.visitAccesses cove 0 x vis
  (b.firstBad (b.ctl.space cove false) as = none))) :=
  ⟨at' (coveAt (some { ctxOf (recOf 1 [(1, 2, 1), (24, lg 0x8000, 8), (104, lg 0x1000, 8), (112, lg 0x2000, 8), (120, lg 0x3000, 8), (172, 2, 2)]) 300 1 1 with begun := true, tailSeq := 6 })), 0, 0, { ctxOf (recOf 1 [(1, 2, 1), (24, lg 0x8000, 8), (104, lg 0x1000, 8), (112, lg 0x2000, 8), (120, lg 0x3000, 8), (172, 2, 2)]) 300 1 1 with begun := true, tailSeq := 6 }, by decide +kernel, 1, _, { row := 256, rows := 44, col := 0, cols := 1, expert := 0, lrow := 0, lrows := 300, lcol := 0, lcols := 1 }, { tile := { row := 256, rows := 44, col := 0, cols := 1, expert := 0, lrow := 0, lrows := 300, lcol := 0, lcols := 1 }, row := 256, rows := 44, col := 0, cols := 1, kt := 0 }, pair_of_fst (by decide +kernel), by decide +kernel, by decide +kernel⟩

theorem meets_OperationsAreTaken_3 :
  ∃ (s : State) (cove : Fin 512) (n : Fin 4) (x : Ctx),
  (((s.block.ctl.cove cove).ctx n = some x) ∧
  (gTail x.record = true) ∧
  ((rOp x.record = opGemm ∨ rOp x.record = opGrouped)) ∧
  (x.begun = true) ∧
  (x.fault = none) ∧
  (x.second = false) ∧
  (s.block.ctl.oldest cove x = true)) ∧
  (let ctr := rCtr x.record
  let got := s.block.takeTile ctr (s.block.ctl.plan.counterCap ctr) cove x.tailSeq
  ∃ (w : Act),
  (got = (none, w))) :=
  ⟨at' (coveAt (some { ctxOf (recOf 1 [(1, 2, 1), (24, lg 0x9000, 8)]) 1 1 1 with begun := true, tailSeq := 2 ^ 22 })), 0, 0, { ctxOf (recOf 1 [(1, 2, 1), (24, lg 0x9000, 8)]) 1 1 1 with begun := true, tailSeq := 2 ^ 22 }, by decide +kernel, _, pair_of_fst (by decide +kernel)⟩

/-! ### InstancesRefusedOrEmpty -/

theorem meets_InstancesRefusedOrEmpty_0 :
  ∃ (s : State) (cove : Fin 512) (n : Fin 4) (x : Ctx) (op : Nat) (i : Instr),
  (((op = opGemm ∧ i = .gemm cove n) ∨ (op = opGrouped ∧ i = .gemmGrouped cove n) ∨ (op = opPrefill ∧ i = .attnPrefill cove n) ∨
       (op = opDecode ∧ i = .attnDecode cove n) ∨ (op = opMerge ∧ i = .attnMerge cove n) ∨ (op = opRecompute ∧ i = .attnRecompute cove n) ∨
       (op = opKernel ∧ i = .kernel cove n))) ∧
  ((s.block.ctl.cove cove).ctx n = some x) ∧
  (rOp x.record = op) ∧
  (waitsMet x.record x.met = true) ∧
  (x.fault = none) ∧
  (x.begun = false) ∧
  (s.block.ctl.oldest cove x = true) ∧
  (aEarly x.record = false) ∧
  ((op = opGemm ∨ op = opGrouped → gemmExtra s.block x = (false, false, false))) ∧
  ((op = opPrefill ∨ op = opDecode ∨ op = opRecompute → attnExtra s.block x = (false, false, false))) ∧
  (overMax x = (false, false, false)) ∧
  (x.m = 0 ∨ x.n = 0 ∨ x.k = 0) :=
  ⟨at' (coveAt (some (ctxOf (recOf 1 []) 0 1 1))), 0, 0, ctxOf (recOf 1 []) 0 1 1, 1, .gemm 0 0, by decide +kernel⟩

theorem meets_InstancesRefusedOrEmpty_1 :
  ∃ (s : State) (cove : Fin 512) (n : Fin 4) (x : Ctx) (op : Nat) (i : Instr),
  ((((op = opGemm ∧ i = .gemm cove n) ∨ (op = opGrouped ∧ i = .gemmGrouped cove n) ∨ (op = opPrefill ∧ i = .attnPrefill cove n) ∨
       (op = opDecode ∧ i = .attnDecode cove n) ∨ (op = opMerge ∧ i = .attnMerge cove n) ∨ (op = opRecompute ∧ i = .attnRecompute cove n) ∨
       (op = opKernel ∧ i = .kernel cove n))) ∧
  ((s.block.ctl.cove cove).ctx n = some x) ∧
  (rOp x.record = op) ∧
  (waitsMet x.record x.met = true) ∧
  (x.fault = none) ∧
  (x.begun = false) ∧
  (s.block.ctl.oldest cove x = true) ∧
  (aEarly x.record = false) ∧
  ((op = opGemm ∨ op = opGrouped → gemmExtra s.block x = (false, false, false))) ∧
  ((op = opPrefill ∨ op = opDecode ∨ op = opRecompute → attnExtra s.block x = (false, false, false)))) ∧
  (∃ (k nn m : Bool),
  (overMax x = (k, nn, m)) ∧
  ((k || nn || m) = true)) :=
  ⟨at' (coveAt (some (ctxOf (recOf 1 []) 5 1 1))), 0, 0, ctxOf (recOf 1 []) 5 1 1, 1, .gemm 0 0, by decide +kernel, false, false, true, by decide +kernel⟩

/-! ### ProductTiles -/

theorem meets_ProductTiles_0 :
  ∃ (s : State) (cove : Fin 512) (n : Fin 4) (x y : Ctx) (op : Nat) (v : Visit),
  (((op = opGemm ∨ op = opGrouped)) ∧
  (s.block.Runnable cove n op x) ∧
  (gemmExtra s.block x = (false, false, false)) ∧
  ((op = opGrouped → u16 x.table1 0 ≠ 0)) ∧
  (s.block.ctl.stageFree cove x = true) ∧
  (gTail x.record = false) ∧
  ((bandVisits x cove).drop x.pos = [v])) ∧
  (let i : Instr := if op = opGemm then .gemm cove n else .gemmGrouped cove n
  let b := (startStage cove n x).run s.block
  let die := dieOf cove
  ((b.ctl.cove cove).ctx n = some y) ∧
  (∃ (slot : Nat) (c : Block) (z : Ctx),
  (((b.ctl.demand cove y v = .own ∧ slot = 0 ∧ c = b) ∨
         (b.ctl.demand cove y v = .held slot ∧ c = ((useSlot { slabsOf die slot y v with filled := true }).seq (setStaging cove n .none)).run b) ∨
         (b.ctl.demand cove y v = .fill slot ∧ b.firstBad (b.ctl.streamSpace cove x.second) (b.ctl.fillReads cove slot y v) = none ∧
          c = ((fillSlot cove slot y v).seq (setStaging cove n .none)).run b))) ∧
  ((c.ctl.cove cove).ctx n = some z) ∧
  (let as := c.visitAccesses cove slot z v
  (c.firstBad (c.ctl.space cove x.second) as = none)))) :=
  ⟨at' (coveAt (some (ctxOf (recOf 1 [(2, 1, 1), (3, 1, 1), (4, 1, 1), (104, lg 0x1000, 8), (112, lg 0x2000, 8), (120, lg 0x3000, 8), (128, 16, 4), (132, 16, 4), (136, 16, 4)]) 1 1 1))), 0, 0, ctxOf (recOf 1 [(2, 1, 1), (3, 1, 1), (4, 1, 1), (104, lg 0x1000, 8), (112, lg 0x2000, 8), (120, lg 0x3000, 8), (128, 16, 4), (132, 16, 4), (136, 16, 4)]) 1 1 1, ctxOf (recOf 1 [(2, 1, 1), (3, 1, 1), (4, 1, 1), (104, lg 0x1000, 8), (112, lg 0x2000, 8), (120, lg 0x3000, 8), (128, 16, 4), (132, 16, 4), (136, 16, 4)]) 1 1 1, opGemm, { tile := { row := 0, rows := 1, col := 0, cols := 1, expert := 0, lrow := 0, lrows := 1, lcol := 0, lcols := 1 }, row := 0, rows := 1, col := 0, cols := 1, kt := 0 }, by simp only [Block.Runnable]; decide +kernel, by decide +kernel, 0, (startStage 0 0 (ctxOf (recOf 1 [(2, 1, 1), (3, 1, 1), (4, 1, 1), (104, lg 0x1000, 8), (112, lg 0x2000, 8), (120, lg 0x3000, 8), (128, 16, 4), (132, 16, 4), (136, 16, 4)]) 1 1 1)).run (coveAt (some (ctxOf (recOf 1 [(2, 1, 1), (3, 1, 1), (4, 1, 1), (104, lg 0x1000, 8), (112, lg 0x2000, 8), (120, lg 0x3000, 8), (128, 16, 4), (132, 16, 4), (136, 16, 4)]) 1 1 1))), ctxOf (recOf 1 [(2, 1, 1), (3, 1, 1), (4, 1, 1), (104, lg 0x1000, 8), (112, lg 0x2000, 8), (120, lg 0x3000, 8), (128, 16, 4), (132, 16, 4), (136, 16, 4)]) 1 1 1, .inl ⟨by decide +kernel, rfl, rfl⟩, by decide +kernel, by decide +kernel⟩

theorem meets_ProductTiles_0_held :
  ∃ (s : State) (cove : Fin 512) (n : Fin 4) (x y : Ctx) (op : Nat) (v : Visit),
  (((op = opGemm ∨ op = opGrouped)) ∧
  (s.block.Runnable cove n op x) ∧
  (gemmExtra s.block x = (false, false, false)) ∧
  ((op = opGrouped → u16 x.table1 0 ≠ 0)) ∧
  (s.block.ctl.stageFree cove x = true) ∧
  (gTail x.record = false) ∧
  ((bandVisits x cove).drop x.pos = [v])) ∧
  (let i : Instr := if op = opGemm then .gemm cove n else .gemmGrouped cove n
  let b := (startStage cove n x).run s.block
  let die := dieOf cove
  ((b.ctl.cove cove).ctx n = some y) ∧
  (∃ (slot : Nat) (c : Block) (z : Ctx),
  (((b.ctl.demand cove y v = .own ∧ slot = 0 ∧ c = b) ∨
         (b.ctl.demand cove y v = .held slot ∧ c = ((useSlot { slabsOf die slot y v with filled := true }).seq (setStaging cove n .none)).run b) ∨
         (b.ctl.demand cove y v = .fill slot ∧ b.firstBad (b.ctl.streamSpace cove x.second) (b.ctl.fillReads cove slot y v) = none ∧
          c = ((fillSlot cove slot y v).seq (setStaging cove n .none)).run b))) ∧
  ((c.ctl.cove cove).ctx n = some z) ∧
  (let as := c.visitAccesses cove slot z v
  (c.firstBad (c.ctl.space cove x.second) as = none)))) :=
  ⟨at' (staged (coveAt (some { ctxOf (recOf 1 [(2, 1, 1), (3, 1, 1), (4, 1, 1), (104, lg 0x1000, 8), (112, lg 0x2000, 8), (120, lg 0x3000, 8), (128, 16, 4), (132, 16, 4), (136, 16, 4), (174, 1, 1), (176, lg 0x200000, 8), (192, 64, 4)]) 1 1 1 with started := true, staging := .none })) [{ die := 0, second := false, op := 0, slot := 0, row := 0, col := 0, expert := 0, kt := 0, filled := true }]), 0, 0, { ctxOf (recOf 1 [(2, 1, 1), (3, 1, 1), (4, 1, 1), (104, lg 0x1000, 8), (112, lg 0x2000, 8), (120, lg 0x3000, 8), (128, 16, 4), (132, 16, 4), (136, 16, 4), (174, 1, 1), (176, lg 0x200000, 8), (192, 64, 4)]) 1 1 1 with started := true, staging := .none }, { ctxOf (recOf 1 [(2, 1, 1), (3, 1, 1), (4, 1, 1), (104, lg 0x1000, 8), (112, lg 0x2000, 8), (120, lg 0x3000, 8), (128, 16, 4), (132, 16, 4), (136, 16, 4), (174, 1, 1), (176, lg 0x200000, 8), (192, 64, 4)]) 1 1 1 with started := true, staging := .none }, opGemm, { tile := { row := 0, rows := 1, col := 0, cols := 1, expert := 0, lrow := 0, lrows := 1, lcol := 0, lcols := 1 }, row := 0, rows := 1, col := 0, cols := 1, kt := 0 }, by simp only [Block.Runnable]; decide +kernel, by decide +kernel, 0, ((useSlot { slabsOf 0 0 ({ ctxOf (recOf 1 [(2, 1, 1), (3, 1, 1), (4, 1, 1), (104, lg 0x1000, 8), (112, lg 0x2000, 8), (120, lg 0x3000, 8), (128, 16, 4), (132, 16, 4), (136, 16, 4), (174, 1, 1), (176, lg 0x200000, 8), (192, 64, 4)]) 1 1 1 with started := true, staging := .none }) { tile := { row := 0, rows := 1, col := 0, cols := 1, expert := 0, lrow := 0, lrows := 1, lcol := 0, lcols := 1 }, row := 0, rows := 1, col := 0, cols := 1, kt := 0 } with filled := true }).seq (setStaging 0 0 .none)).run (staged (coveAt (some { ctxOf (recOf 1 [(2, 1, 1), (3, 1, 1), (4, 1, 1), (104, lg 0x1000, 8), (112, lg 0x2000, 8), (120, lg 0x3000, 8), (128, 16, 4), (132, 16, 4), (136, 16, 4), (174, 1, 1), (176, lg 0x200000, 8), (192, 64, 4)]) 1 1 1 with started := true, staging := .none })) [{ die := 0, second := false, op := 0, slot := 0, row := 0, col := 0, expert := 0, kt := 0, filled := true }]), { ctxOf (recOf 1 [(2, 1, 1), (3, 1, 1), (4, 1, 1), (104, lg 0x1000, 8), (112, lg 0x2000, 8), (120, lg 0x3000, 8), (128, 16, 4), (132, 16, 4), (136, 16, 4), (174, 1, 1), (176, lg 0x200000, 8), (192, 64, 4)]) 1 1 1 with started := true, staging := .none }, .inr (.inl ⟨by decide +kernel, rfl⟩), by decide +kernel, by decide +kernel⟩

theorem meets_ProductTiles_0_fill :
  ∃ (s : State) (cove : Fin 512) (n : Fin 4) (x y : Ctx) (op : Nat) (v : Visit),
  (((op = opGemm ∨ op = opGrouped)) ∧
  (s.block.Runnable cove n op x) ∧
  (gemmExtra s.block x = (false, false, false)) ∧
  ((op = opGrouped → u16 x.table1 0 ≠ 0)) ∧
  (s.block.ctl.stageFree cove x = true) ∧
  (gTail x.record = false) ∧
  ((bandVisits x cove).drop x.pos = [v])) ∧
  (let i : Instr := if op = opGemm then .gemm cove n else .gemmGrouped cove n
  let b := (startStage cove n x).run s.block
  let die := dieOf cove
  ((b.ctl.cove cove).ctx n = some y) ∧
  (∃ (slot : Nat) (c : Block) (z : Ctx),
  (((b.ctl.demand cove y v = .own ∧ slot = 0 ∧ c = b) ∨
         (b.ctl.demand cove y v = .held slot ∧ c = ((useSlot { slabsOf die slot y v with filled := true }).seq (setStaging cove n .none)).run b) ∨
         (b.ctl.demand cove y v = .fill slot ∧ b.firstBad (b.ctl.streamSpace cove x.second) (b.ctl.fillReads cove slot y v) = none ∧
          c = ((fillSlot cove slot y v).seq (setStaging cove n .none)).run b))) ∧
  ((c.ctl.cove cove).ctx n = some z) ∧
  (let as := c.visitAccesses cove slot z v
  (c.firstBad (c.ctl.space cove x.second) as = none)))) :=
  ⟨at' (staged (coveAt (some { ctxOf (recOf 1 [(2, 1, 1), (3, 1, 1), (4, 1, 1), (104, lg 0x1000, 8), (112, lg 0x2000, 8), (120, lg 0x3000, 8), (128, 16, 4), (132, 16, 4), (136, 16, 4), (174, 1, 1), (176, lg 0x200000, 8), (192, 64, 4)]) 1 1 1 with started := true, staging := .filling 0 })) [{ die := 0, second := false, op := 0, slot := 0, row := 0, col := 0, expert := 0, kt := 0, filled := false }]), 0, 0, { ctxOf (recOf 1 [(2, 1, 1), (3, 1, 1), (4, 1, 1), (104, lg 0x1000, 8), (112, lg 0x2000, 8), (120, lg 0x3000, 8), (128, 16, 4), (132, 16, 4), (136, 16, 4), (174, 1, 1), (176, lg 0x200000, 8), (192, 64, 4)]) 1 1 1 with started := true, staging := .filling 0 }, { ctxOf (recOf 1 [(2, 1, 1), (3, 1, 1), (4, 1, 1), (104, lg 0x1000, 8), (112, lg 0x2000, 8), (120, lg 0x3000, 8), (128, 16, 4), (132, 16, 4), (136, 16, 4), (174, 1, 1), (176, lg 0x200000, 8), (192, 64, 4)]) 1 1 1 with started := true, staging := .filling 0 }, opGemm, { tile := { row := 0, rows := 1, col := 0, cols := 1, expert := 0, lrow := 0, lrows := 1, lcol := 0, lcols := 1 }, row := 0, rows := 1, col := 0, cols := 1, kt := 0 }, by simp only [Block.Runnable]; decide +kernel, by decide +kernel, 0, ((fillSlot 0 0 ({ ctxOf (recOf 1 [(2, 1, 1), (3, 1, 1), (4, 1, 1), (104, lg 0x1000, 8), (112, lg 0x2000, 8), (120, lg 0x3000, 8), (128, 16, 4), (132, 16, 4), (136, 16, 4), (174, 1, 1), (176, lg 0x200000, 8), (192, 64, 4)]) 1 1 1 with started := true, staging := .filling 0 }) { tile := { row := 0, rows := 1, col := 0, cols := 1, expert := 0, lrow := 0, lrows := 1, lcol := 0, lcols := 1 }, row := 0, rows := 1, col := 0, cols := 1, kt := 0 }).seq (setStaging 0 0 .none)).run (staged (coveAt (some { ctxOf (recOf 1 [(2, 1, 1), (3, 1, 1), (4, 1, 1), (104, lg 0x1000, 8), (112, lg 0x2000, 8), (120, lg 0x3000, 8), (128, 16, 4), (132, 16, 4), (136, 16, 4), (174, 1, 1), (176, lg 0x200000, 8), (192, 64, 4)]) 1 1 1 with started := true, staging := .filling 0 })) [{ die := 0, second := false, op := 0, slot := 0, row := 0, col := 0, expert := 0, kt := 0, filled := false }]), { ctxOf (recOf 1 [(2, 1, 1), (3, 1, 1), (4, 1, 1), (104, lg 0x1000, 8), (112, lg 0x2000, 8), (120, lg 0x3000, 8), (128, 16, 4), (132, 16, 4), (136, 16, 4), (174, 1, 1), (176, lg 0x200000, 8), (192, 64, 4)]) 1 1 1 with started := true, staging := .none }, .inr (.inr ⟨by decide +kernel, by decide +kernel, rfl⟩), by decide +kernel, by decide +kernel⟩

theorem meets_ProductTiles_1 :
  ∃ (s : State) (cove : Fin 512) (n : Fin 4) (x y : Ctx) (op : Nat) (v : Visit),
  (((op = opGemm ∨ op = opGrouped)) ∧
  (s.block.Runnable cove n op x) ∧
  (gemmExtra s.block x = (false, false, false)) ∧
  ((op = opGrouped → u16 x.table1 0 ≠ 0)) ∧
  (s.block.ctl.stageFree cove x = true) ∧
  (gTail x.record = false) ∧
  ((bandVisits x cove).drop x.pos = [v])) ∧
  (let i : Instr := if op = opGemm then .gemm cove n else .gemmGrouped cove n
  let b := (startStage cove n x).run s.block
  let die := dieOf cove
  ((b.ctl.cove cove).ctx n = some y) ∧
  (∃ (slot : Nat),
  (b.ctl.demand cove y v = .claim slot ∨ b.ctl.demand cove y v = .join slot))) :=
  ⟨at' (staged (coveAt (some { ctxOf (recOf 1 [(2, 1, 1), (3, 1, 1), (4, 1, 1), (104, lg 0x1000, 8), (112, lg 0x2000, 8), (120, lg 0x3000, 8), (128, 16, 4), (132, 16, 4), (136, 16, 4), (174, 1, 1), (176, lg 0x200000, 8), (192, 64, 4)]) 1 1 1 with started := true, staging := .none })) []), 0, 0, { ctxOf (recOf 1 [(2, 1, 1), (3, 1, 1), (4, 1, 1), (104, lg 0x1000, 8), (112, lg 0x2000, 8), (120, lg 0x3000, 8), (128, 16, 4), (132, 16, 4), (136, 16, 4), (174, 1, 1), (176, lg 0x200000, 8), (192, 64, 4)]) 1 1 1 with started := true, staging := .none }, { ctxOf (recOf 1 [(2, 1, 1), (3, 1, 1), (4, 1, 1), (104, lg 0x1000, 8), (112, lg 0x2000, 8), (120, lg 0x3000, 8), (128, 16, 4), (132, 16, 4), (136, 16, 4), (174, 1, 1), (176, lg 0x200000, 8), (192, 64, 4)]) 1 1 1 with started := true, staging := .none }, opGemm, { tile := { row := 0, rows := 1, col := 0, cols := 1, expert := 0, lrow := 0, lrows := 1, lcol := 0, lcols := 1 }, row := 0, rows := 1, col := 0, cols := 1, kt := 0 }, by simp only [Block.Runnable]; decide +kernel, by decide +kernel, 0, by decide +kernel⟩

theorem meets_ProductTiles_2 :
  ∃ (s : State) (cove : Fin 512) (n : Fin 4) (x y : Ctx) (op : Nat) (v : Visit),
  (((op = opGemm ∨ op = opGrouped)) ∧
  (s.block.Runnable cove n op x) ∧
  (gemmExtra s.block x = (false, false, false)) ∧
  ((op = opGrouped → u16 x.table1 0 ≠ 0)) ∧
  (s.block.ctl.stageFree cove x = true) ∧
  (gTail x.record = false) ∧
  ((bandVisits x cove).drop x.pos = [v])) ∧
  (let i : Instr := if op = opGemm then .gemm cove n else .gemmGrouped cove n
  let b := (startStage cove n x).run s.block
  let die := dieOf cove
  ((b.ctl.cove cove).ctx n = some y) ∧
  (b.ctl.demand cove y v = .full)) :=
  ⟨at' (fillingToo (staged (coveAt (some { ctxOf (recOf 1 [(2, 1, 1), (3, 1, 1), (4, 1, 1), (104, lg 0x1000, 8), (112, lg 0x2000, 8), (120, lg 0x3000, 8), (128, 16, 4), (132, 16, 4), (136, 16, 4), (174, 1, 1), (176, lg 0x200000, 8), (192, 64, 4)]) 1 1 1 with started := true, staging := .none })) [{ die := 0, second := false, op := 0, slot := 0, row := 5, col := 0, expert := 0, kt := 0, filled := false }])), 0, 0, { ctxOf (recOf 1 [(2, 1, 1), (3, 1, 1), (4, 1, 1), (104, lg 0x1000, 8), (112, lg 0x2000, 8), (120, lg 0x3000, 8), (128, 16, 4), (132, 16, 4), (136, 16, 4), (174, 1, 1), (176, lg 0x200000, 8), (192, 64, 4)]) 1 1 1 with started := true, staging := .none }, { ctxOf (recOf 1 [(2, 1, 1), (3, 1, 1), (4, 1, 1), (104, lg 0x1000, 8), (112, lg 0x2000, 8), (120, lg 0x3000, 8), (128, 16, 4), (132, 16, 4), (136, 16, 4), (174, 1, 1), (176, lg 0x200000, 8), (192, 64, 4)]) 1 1 1 with started := true, staging := .none }, opGemm, { tile := { row := 0, rows := 1, col := 0, cols := 1, expert := 0, lrow := 0, lrows := 1, lcol := 0, lcols := 1 }, row := 0, rows := 1, col := 0, cols := 1, kt := 0 }, by simp only [Block.Runnable]; decide +kernel⟩

/-! ### AttentionUnits -/

theorem meets_AttentionUnits_0 :
  ∃ (s : State) (cove : Fin 512) (n : Fin 4) (x : Ctx) (op : Nat) (tile : QTile),
  (((op = opPrefill ∨ op = opDecode)) ∧
  (s.block.Runnable cove n op x) ∧
  (aEarly x.record = false) ∧
  (attnExtra s.block x = (false, false, false)) ∧
  ((instanceTiles x.record x.m cove).drop x.pos = [tile])) ∧
  (let as := s.block.attnAccesses cove x tile
  (s.block.firstBad (s.block.ctl.space cove x.second) as = none)) :=
  ⟨at' (coveAt (some (ctxOf (recOf 0x10 [(2, 1, 1), (3, 1, 1), (4, 1, 1), (104, lg 0x1000, 8), (112, 256, 4), (120, lg 0x7000, 8), (128, lg 0x3000, 8), (136, 256, 4), (160, lg 0x4000, 8), (168, 2, 1), (170, 1, 2), (172, 1, 1), (175, 1, 1)]) 1 1 128))), 0, 0, ctxOf (recOf 0x10 [(2, 1, 1), (3, 1, 1), (4, 1, 1), (104, lg 0x1000, 8), (112, 256, 4), (120, lg 0x7000, 8), (128, lg 0x3000, 8), (136, 256, 4), (160, lg 0x4000, 8), (168, 2, 1), (170, 1, 2), (172, 1, 1), (175, 1, 1)]) 1 1 128, 0x10, { group := 0, first := 0, rows := 1, index := 0 }, by simp only [Block.Runnable]; decide +kernel⟩

theorem meets_AttentionUnits_1 :
  ∃ (s : State) (cove : Fin 512) (n : Fin 4) (x : Ctx),
  ((s.block.Runnable cove n opDecode x) ∧
  (aEarly x.record = true) ∧
  (x.len1 = none)) ∧
  (let sp := s.block.ctl.space cove x.second
  let l1 := if lenAddr x.record = 0 then 0 else s.block.natVa sp (lenAddr x.record) 8
  ((lenAddr x.record ≠ 0 → s.block.firstBad sp [rd (lenAddr x.record) 8] = none)) ∧
  (x.len ≤ l1) ∧
  (attnExtra s.block { x with len1 := some l1 } = (false, false, false)) ∧
  ((instanceTiles x.record x.m cove).drop x.pos = [])) :=
  ⟨at' (coveAt (some (ctxOf (recOf 0x11 [(2, 1, 1), (3, 1, 1), (4, 1, 1), (104, lg 0x1000, 8), (112, 256, 4), (120, lg 0x7000, 8), (128, lg 0x3000, 8), (136, 256, 4), (160, lg 0x4000, 8), (168, 2, 1), (170, 1, 2), (172, 1, 1), (175, 1, 1), (1, 32, 1), (96, 2 ^ 10, 8)]) 1 1 128))), 0, 0, ctxOf (recOf 0x11 [(2, 1, 1), (3, 1, 1), (4, 1, 1), (104, lg 0x1000, 8), (112, 256, 4), (120, lg 0x7000, 8), (128, lg 0x3000, 8), (136, 256, 4), (160, lg 0x4000, 8), (168, 2, 1), (170, 1, 2), (172, 1, 1), (175, 1, 1), (1, 32, 1), (96, 2 ^ 10, 8)]) 1 1 128, by simp only [Block.Runnable]; decide +kernel⟩

theorem meets_AttentionUnits_2 :
  ∃ (s : State) (cove : Fin 512) (n : Fin 4) (x : Ctx),
  ((s.block.Runnable cove n opDecode x) ∧
  (aEarly x.record = true) ∧
  (x.len1 = none)) ∧
  (let sp := s.block.ctl.space cove x.second
  let l1 := if lenAddr x.record = 0 then 0 else s.block.natVa sp (lenAddr x.record) 8
  ((lenAddr x.record ≠ 0 → s.block.firstBad sp [rd (lenAddr x.record) 8] = none)) ∧
  (l1 < x.len)) :=
  ⟨at' (coveAt (some ({ ctxOf (recOf 0x11 [(2, 1, 1), (3, 1, 1), (4, 1, 1), (104, lg 0x1000, 8), (112, 256, 4), (120, lg 0x7000, 8), (128, lg 0x3000, 8), (136, 256, 4), (160, lg 0x4000, 8), (168, 2, 1), (170, 1, 2), (172, 1, 1), (175, 1, 1), (1, 32, 1)]) 1 1 128 with len := 5 }))), 0, 0, { ctxOf (recOf 0x11 [(2, 1, 1), (3, 1, 1), (4, 1, 1), (104, lg 0x1000, 8), (112, 256, 4), (120, lg 0x7000, 8), (128, lg 0x3000, 8), (136, 256, 4), (160, lg 0x4000, 8), (168, 2, 1), (170, 1, 2), (172, 1, 1), (175, 1, 1), (1, 32, 1)]) 1 1 128 with len := 5 }, by simp only [Block.Runnable]; decide +kernel⟩

theorem meets_AttentionUnits_3 :
  ∃ (s : State) (cove : Fin 512) (n : Fin 4) (x : Ctx),
  ((s.block.ctl.cove cove).ctx n = some x) ∧
  (rOp x.record = opDecode) ∧
  (aEarly x.record = true) ∧
  (x.len1 = none) ∧
  (waitsMet x.record x.met = false) ∧
  (x.fault = none) ∧
  (overMax x = (false, false, false)) ∧
  (attnExtra s.block x = (false, false, false)) ∧
  (x.m ≠ 0) ∧
  (x.n ≠ 0) ∧
  (x.k ≠ 0) ∧
  (s.block.firstBad (s.block.ctl.space cove x.second) (s.block.earlyAccesses cove x) = none) :=
  ⟨at' (coveAt (some ({ ctxOf (recOf 0x11 [(2, 1, 1), (3, 1, 1), (4, 1, 1), (104, lg 0x1000, 8), (112, 256, 4), (120, lg 0x7000, 8), (128, lg 0x3000, 8), (136, 256, 4), (160, lg 0x4000, 8), (168, 2, 1), (170, 1, 2), (172, 1, 1), (175, 1, 1), (1, 32, 1), (6, 1, 1)]) 1 1 128 with met := 0 }))), 0, 0, { ctxOf (recOf 0x11 [(2, 1, 1), (3, 1, 1), (4, 1, 1), (104, lg 0x1000, 8), (112, 256, 4), (120, lg 0x7000, 8), (128, lg 0x3000, 8), (136, 256, 4), (160, lg 0x4000, 8), (168, 2, 1), (170, 1, 2), (172, 1, 1), (175, 1, 1), (1, 32, 1), (6, 1, 1)]) 1 1 128 with met := 0 }, by decide +kernel⟩

theorem meets_AttentionUnits_4 :
  ∃ (s : State) (cove : Fin 512) (n : Fin 4) (x : Ctx) (u : Nat),
  ((s.block.Runnable cove n opMerge x) ∧
  ((let (lo, hi) := band (x.m * ceilDiv x.n 16) 0 (rInstance x.record cove) (rCount x.record); (upto lo hi).drop x.pos) = [u])) ∧
  (let unit := mergeUnit cove x u s.block
  (s.block.firstBad (s.block.ctl.space cove x.second) unit.1 = none)) :=
  ⟨at' (coveAt (some (ctxOf (recOf 0x12 [(4, 1, 1), (104, lg 0x1000, 8), (112, 4096, 4), (120, lg 0x3000, 8), (128, 64, 4)]) 1 4 2))), 0, 0, ctxOf (recOf 0x12 [(4, 1, 1), (104, lg 0x1000, 8), (112, 4096, 4), (120, lg 0x3000, 8), (128, 64, 4)]) 1 4 2, 0, by simp only [Block.Runnable]; decide +kernel⟩

theorem meets_AttentionUnits_5 :
  ∃ (s : State) (cove : Fin 512) (n : Fin 4) (x : Ctx) (tile : QTile),
  ((s.block.Runnable cove n opRecompute x) ∧
  (attnExtra s.block x = (false, false, false)) ∧
  (u8 x.record 229 = 0) ∧
  ((instanceTiles x.record x.m cove).drop x.pos = [tile])) ∧
  (let r := x.record
  let sp := s.block.ctl.space cove x.second
  let as := (tileRowsOf x tile).flatMap (fun (i, _, _) =>
          backReads r (tile.index + i) ++ [wr (u64 r 128 + (tile.index + i) * u32 r 136) (rowBytes (rFmt r 4) 128)]) ++
        [rd (u64 r 160) 256] ++ s.block.pageAccesses r (keyBlocks (s.block.keyPages sp x)).flatten
  (s.block.firstBad sp as = none)) :=
  ⟨at' (coveAt (some (ctxOf (recOf 0x13 [(2, 1, 1), (3, 1, 1), (4, 1, 1), (104, lg 0x1000, 8), (112, 256, 4), (120, lg 0x7000, 8), (128, lg 0x3000, 8), (136, 256, 4), (160, lg 0x4000, 8), (168, 2, 1), (170, 1, 2), (172, 1, 1), (175, 1, 1), (144, lg 0x5000, 8), (232, lg 0x5100, 8), (248, lg 0x5200, 8)]) 1 1 128))), 0, 0, ctxOf (recOf 0x13 [(2, 1, 1), (3, 1, 1), (4, 1, 1), (104, lg 0x1000, 8), (112, 256, 4), (120, lg 0x7000, 8), (128, lg 0x3000, 8), (136, 256, 4), (160, lg 0x4000, 8), (168, 2, 1), (170, 1, 2), (172, 1, 1), (175, 1, 1), (144, lg 0x5000, 8), (232, lg 0x5100, 8), (248, lg 0x5200, 8)]) 1 1 128, { group := 0, first := 0, rows := 1, index := 0 }, by simp only [Block.Runnable]; decide +kernel⟩

/-! ### KernelsStartAndEnd -/

theorem meets_KernelsStartAndEnd_0 :
  ∃ (s : State) (cove : Fin 512) (n : Fin 4) (x : Ctx),
  (s.block.Runnable cove n opKernel x) ∧
  ((s.block.ctl.cove cove).coreFree = true) ∧
  (u8 x.record 112 ≤ 4) :=
  ⟨at' (coveAt (some { kern with begun := false })), 0, 0, { kern with begun := false }, by simp only [Block.Runnable]; decide +kernel⟩

theorem meets_KernelsStartAndEnd_1 :
  ∃ (s : State) (cove : Fin 512) (th : Fin 4) (u : Thread) (x : Ctx),
  ((s.block.Fetches cove th u x 0x73) ∧
  (u.ctx < 4)) ∧
  (let e : Thread := { u.enterMachine causeEcall with state := .ended }
  let v := (s.block.ctl.cove cove).setThread th e
  let y : Ctx := if u.rx 10 = 0 ∨ x.poisoned = true then x else { x with poisoned := true, pos := th.val }
  ((∃ k < 4, k ≠ th.val ∧ ((s.block.ctl.cove cove).thread k).state ≠ .idle ∧ ((s.block.ctl.cove cove).thread k).state ≠ .ended))) :=
  ⟨at' ((coreAt 0x73 kern { thr with x := [(10, 77)] }).withCove 3 fun v => { v with thread1 := thr }), 3, 0, { thr with x := [(10, 77)] }, kern, by simp only [Block.Fetches]; decide +kernel⟩

theorem meets_KernelsStartAndEnd_2 :
  ∃ (s : State) (cove : Fin 512) (th : Fin 4) (u : Thread) (x : Ctx),
  ((s.block.Fetches cove th u x 0x73) ∧
  (u.ctx < 4)) ∧
  (let e : Thread := { u.enterMachine causeEcall with state := .ended }
  let v := (s.block.ctl.cove cove).setThread th e
  let y : Ctx := if u.rx 10 = 0 ∨ x.poisoned = true then x else { x with poisoned := true, pos := th.val }
  ((∀ k < 4, k ≠ th.val → ((s.block.ctl.cove cove).thread k).state = .idle ∨ ((s.block.ctl.cove cove).thread k).state = .ended)) ∧
  (rOp x.record = opKernel)) :=
  ⟨at' (coreAt 0x73 kern { thr with x := [(10, 77)] }), 3, 0, { thr with x := [(10, 77)] }, kern, by simp only [Block.Fetches]; decide +kernel⟩

/-! ### CoreInstructions -/

theorem meets_CoreInstructions_0 :
  ∃ (s : State) (cove : Fin 512) (th : Fin 4) (u : Thread) (x : Ctx) (w : Nat),
  (s.block.Fetches cove th u x w) ∧
  (let rs1 := u.rx (bits w 19 15)
  let rs2 := u.rx (bits w 24 20)
  let rd' := bits w 11 7
  let f3 := bits w 14 12
  let steps := fun (u' : Thread) => Yields (.coreInstruction cove th) s fun t =>
        s.block.OneCove t cove ((s.block.ctl.cove cove).setThread th u') ∧ t.sems = s.block.sems ∧ s.block.Asked t cove x.second [rd u.pc.toNat 4]
  let out := (s.block.touched cove x.second [rd u.pc.toNat 4]).out
  let a := rs1.toNat
  let mine : Reserve := { cove := cove.val, thread := th.val, addr := a, len := 8 }
  let others := fun (g : Reserve) => !(g.cove == cove.val && g.thread == th.val)
  let inLagoon := x.second = false ∧ a % 8 = 0 ∧ lagoonBase ≤ a ∧ a + 8 ≤ lagoonBase + 2 * lagoonSize
  (bits w 6 0 = 0x13) ∧
  (f3 = 0)) :=
  ⟨at' (coreAt (word 0x13 5 0 10 9 0) kern (thr)), 3, 0, thr, kern, word 0x13 5 0 10 9 0, by simp only [Block.Fetches]; decide +kernel⟩

theorem meets_CoreInstructions_1 :
  ∃ (s : State) (cove : Fin 512) (th : Fin 4) (u : Thread) (x : Ctx) (w : Nat),
  (s.block.Fetches cove th u x w) ∧
  (let rs1 := u.rx (bits w 19 15)
  let rs2 := u.rx (bits w 24 20)
  let rd' := bits w 11 7
  let f3 := bits w 14 12
  let steps := fun (u' : Thread) => Yields (.coreInstruction cove th) s fun t =>
        s.block.OneCove t cove ((s.block.ctl.cove cove).setThread th u') ∧ t.sems = s.block.sems ∧ s.block.Asked t cove x.second [rd u.pc.toNat 4]
  let out := (s.block.touched cove x.second [rd u.pc.toNat 4]).out
  let a := rs1.toNat
  let mine : Reserve := { cove := cove.val, thread := th.val, addr := a, len := 8 }
  let others := fun (g : Reserve) => !(g.cove == cove.val && g.thread == th.val)
  let inLagoon := x.second = false ∧ a % 8 = 0 ∧ lagoonBase ≤ a ∧ a + 8 ≤ lagoonBase + 2 * lagoonSize
  (bits w 6 0 = 0x33) ∧
  (f3 = 0) ∧
  (bits w 31 25 = 0)) :=
  ⟨at' (coreAt (word 0x33 5 0 10 11 0) kern (thr)), 3, 0, thr, kern, word 0x33 5 0 10 11 0, by simp only [Block.Fetches]; decide +kernel⟩

theorem meets_CoreInstructions_2 :
  ∃ (s : State) (cove : Fin 512) (th : Fin 4) (u : Thread) (x : Ctx) (w : Nat),
  (s.block.Fetches cove th u x w) ∧
  (let rs1 := u.rx (bits w 19 15)
  let rs2 := u.rx (bits w 24 20)
  let rd' := bits w 11 7
  let f3 := bits w 14 12
  let steps := fun (u' : Thread) => Yields (.coreInstruction cove th) s fun t =>
        s.block.OneCove t cove ((s.block.ctl.cove cove).setThread th u') ∧ t.sems = s.block.sems ∧ s.block.Asked t cove x.second [rd u.pc.toNat 4]
  let out := (s.block.touched cove x.second [rd u.pc.toNat 4]).out
  let a := rs1.toNat
  let mine : Reserve := { cove := cove.val, thread := th.val, addr := a, len := 8 }
  let others := fun (g : Reserve) => !(g.cove == cove.val && g.thread == th.val)
  let inLagoon := x.second = false ∧ a % 8 = 0 ∧ lagoonBase ≤ a ∧ a + 8 ≤ lagoonBase + 2 * lagoonSize
  (bits w 6 0 = 0x33) ∧
  (f3 = 0) ∧
  (bits w 31 25 = 0x20)) :=
  ⟨at' (coreAt (word 0x33 5 0 10 11 0x20) kern (thr)), 3, 0, thr, kern, word 0x33 5 0 10 11 0x20, by simp only [Block.Fetches]; decide +kernel⟩

theorem meets_CoreInstructions_3 :
  ∃ (s : State) (cove : Fin 512) (th : Fin 4) (u : Thread) (x : Ctx) (w : Nat),
  (s.block.Fetches cove th u x w) ∧
  (let rs1 := u.rx (bits w 19 15)
  let rs2 := u.rx (bits w 24 20)
  let rd' := bits w 11 7
  let f3 := bits w 14 12
  let steps := fun (u' : Thread) => Yields (.coreInstruction cove th) s fun t =>
        s.block.OneCove t cove ((s.block.ctl.cove cove).setThread th u') ∧ t.sems = s.block.sems ∧ s.block.Asked t cove x.second [rd u.pc.toNat 4]
  let out := (s.block.touched cove x.second [rd u.pc.toNat 4]).out
  let a := rs1.toNat
  let mine : Reserve := { cove := cove.val, thread := th.val, addr := a, len := 8 }
  let others := fun (g : Reserve) => !(g.cove == cove.val && g.thread == th.val)
  let inLagoon := x.second = false ∧ a % 8 = 0 ∧ lagoonBase ≤ a ∧ a + 8 ≤ lagoonBase + 2 * lagoonSize
  (bits w 6 0 = 0x63) ∧
  (f3 = 0)) :=
  ⟨at' (coreAt (word 0x63 8 0 10 10 0) kern (thr)), 3, 0, thr, kern, word 0x63 8 0 10 10 0, by simp only [Block.Fetches]; decide +kernel⟩

theorem meets_CoreInstructions_4 :
  ∃ (s : State) (cove : Fin 512) (th : Fin 4) (u : Thread) (x : Ctx) (w : Nat),
  (s.block.Fetches cove th u x w) ∧
  (let rs1 := u.rx (bits w 19 15)
  let rs2 := u.rx (bits w 24 20)
  let rd' := bits w 11 7
  let f3 := bits w 14 12
  let steps := fun (u' : Thread) => Yields (.coreInstruction cove th) s fun t =>
        s.block.OneCove t cove ((s.block.ctl.cove cove).setThread th u') ∧ t.sems = s.block.sems ∧ s.block.Asked t cove x.second [rd u.pc.toNat 4]
  let out := (s.block.touched cove x.second [rd u.pc.toNat 4]).out
  let a := rs1.toNat
  let mine : Reserve := { cove := cove.val, thread := th.val, addr := a, len := 8 }
  let others := fun (g : Reserve) => !(g.cove == cove.val && g.thread == th.val)
  let inLagoon := x.second = false ∧ a % 8 = 0 ∧ lagoonBase ≤ a ∧ a + 8 ≤ lagoonBase + 2 * lagoonSize
  (bits w 6 0 = 0x6F)) :=
  ⟨at' (coreAt (word 0x6F 1 0 0 8 0) kern (thr)), 3, 0, thr, kern, word 0x6F 1 0 0 8 0, by simp only [Block.Fetches]; decide +kernel⟩

theorem meets_CoreInstructions_5 :
  ∃ (s : State) (cove : Fin 512) (th : Fin 4) (u : Thread) (x : Ctx) (w : Nat),
  (s.block.Fetches cove th u x w) ∧
  (let rs1 := u.rx (bits w 19 15)
  let rs2 := u.rx (bits w 24 20)
  let rd' := bits w 11 7
  let f3 := bits w 14 12
  let steps := fun (u' : Thread) => Yields (.coreInstruction cove th) s fun t =>
        s.block.OneCove t cove ((s.block.ctl.cove cove).setThread th u') ∧ t.sems = s.block.sems ∧ s.block.Asked t cove x.second [rd u.pc.toNat 4]
  let out := (s.block.touched cove x.second [rd u.pc.toNat 4]).out
  let a := rs1.toNat
  let mine : Reserve := { cove := cove.val, thread := th.val, addr := a, len := 8 }
  let others := fun (g : Reserve) => !(g.cove == cove.val && g.thread == th.val)
  let inLagoon := x.second = false ∧ a % 8 = 0 ∧ lagoonBase ≤ a ∧ a + 8 ≤ lagoonBase + 2 * lagoonSize
  (bits w 6 0 = 0x23) ∧
  (f3 = 3) ∧
  (x.second = false) ∧
  ((rs1 + immS w).toNat % 8 = 0) ∧
  (lagoonBase ≤ (rs1 + immS w).toNat) ∧
  ((rs1 + immS w).toNat + 8 ≤ lagoonBase + 2 * lagoonSize)) :=
  ⟨at' (coreAt (word 0x23 0 3 10 11 0) kern ({ thr with x := [(10, BitVec.ofNat 64 (lg 0x1000)), (11, 3)] })), 3, 0, { thr with x := [(10, BitVec.ofNat 64 (lg 0x1000)), (11, 3)] }, kern, word 0x23 0 3 10 11 0, by simp only [Block.Fetches]; decide +kernel⟩

theorem meets_CoreInstructions_6 :
  ∃ (s : State) (cove : Fin 512) (th : Fin 4) (u : Thread) (x : Ctx) (w : Nat),
  (s.block.Fetches cove th u x w) ∧
  (let rs1 := u.rx (bits w 19 15)
  let rs2 := u.rx (bits w 24 20)
  let rd' := bits w 11 7
  let f3 := bits w 14 12
  let steps := fun (u' : Thread) => Yields (.coreInstruction cove th) s fun t =>
        s.block.OneCove t cove ((s.block.ctl.cove cove).setThread th u') ∧ t.sems = s.block.sems ∧ s.block.Asked t cove x.second [rd u.pc.toNat 4]
  let out := (s.block.touched cove x.second [rd u.pc.toNat 4]).out
  let a := rs1.toNat
  let mine : Reserve := { cove := cove.val, thread := th.val, addr := a, len := 8 }
  let others := fun (g : Reserve) => !(g.cove == cove.val && g.thread == th.val)
  let inLagoon := x.second = false ∧ a % 8 = 0 ∧ lagoonBase ≤ a ∧ a + 8 ≤ lagoonBase + 2 * lagoonSize
  (bits w 6 0 = 0x2F) ∧
  (f3 = 3) ∧
  (bits w 31 27 = 2) ∧
  (bits w 24 20 = 0) ∧
  (inLagoon)) :=
  ⟨at' (coreAt (word 0x2F 5 3 10 0 8) kern ({ thr with x := [(10, BitVec.ofNat 64 (lg 0x1000)), (11, 3)] })), 3, 0, { thr with x := [(10, BitVec.ofNat 64 (lg 0x1000)), (11, 3)] }, kern, word 0x2F 5 3 10 0 8, by simp only [Block.Fetches]; decide +kernel⟩

theorem meets_CoreInstructions_7 :
  ∃ (s : State) (cove : Fin 512) (th : Fin 4) (u : Thread) (x : Ctx) (w : Nat),
  (s.block.Fetches cove th u x w) ∧
  (let rs1 := u.rx (bits w 19 15)
  let rs2 := u.rx (bits w 24 20)
  let rd' := bits w 11 7
  let f3 := bits w 14 12
  let steps := fun (u' : Thread) => Yields (.coreInstruction cove th) s fun t =>
        s.block.OneCove t cove ((s.block.ctl.cove cove).setThread th u') ∧ t.sems = s.block.sems ∧ s.block.Asked t cove x.second [rd u.pc.toNat 4]
  let out := (s.block.touched cove x.second [rd u.pc.toNat 4]).out
  let a := rs1.toNat
  let mine : Reserve := { cove := cove.val, thread := th.val, addr := a, len := 8 }
  let others := fun (g : Reserve) => !(g.cove == cove.val && g.thread == th.val)
  let inLagoon := x.second = false ∧ a % 8 = 0 ∧ lagoonBase ≤ a ∧ a + 8 ≤ lagoonBase + 2 * lagoonSize
  (bits w 6 0 = 0x2F) ∧
  (f3 = 3) ∧
  (bits w 31 27 = 3) ∧
  (inLagoon)) :=
  ⟨at' (coreAt (word 0x2F 5 3 10 11 12) kern ({ thr with x := [(10, BitVec.ofNat 64 (lg 0x1000)), (11, 3)] })), 3, 0, { thr with x := [(10, BitVec.ofNat 64 (lg 0x1000)), (11, 3)] }, kern, word 0x2F 5 3 10 11 12, by simp only [Block.Fetches]; decide +kernel⟩

theorem meets_CoreInstructions_7_held :
  ∃ (s : State) (cove : Fin 512) (th : Fin 4) (u : Thread) (x : Ctx) (w : Nat),
  (s.block.Fetches cove th u x w) ∧
  (let rs1 := u.rx (bits w 19 15)
  let rs2 := u.rx (bits w 24 20)
  let rd' := bits w 11 7
  let f3 := bits w 14 12
  let steps := fun (u' : Thread) => Yields (.coreInstruction cove th) s fun t =>
        s.block.OneCove t cove ((s.block.ctl.cove cove).setThread th u') ∧ t.sems = s.block.sems ∧ s.block.Asked t cove x.second [rd u.pc.toNat 4]
  let out := (s.block.touched cove x.second [rd u.pc.toNat 4]).out
  let a := rs1.toNat
  let mine : Reserve := { cove := cove.val, thread := th.val, addr := a, len := 8 }
  let others := fun (g : Reserve) => !(g.cove == cove.val && g.thread == th.val)
  let inLagoon := x.second = false ∧ a % 8 = 0 ∧ lagoonBase ≤ a ∧ a + 8 ≤ lagoonBase + 2 * lagoonSize
  (bits w 6 0 = 0x2F) ∧
  (f3 = 3) ∧
  (bits w 31 27 = 3) ∧
  (inLagoon)) :=
  ⟨at' (reservedBy 3 0 (lg 0x1000) (coreAt (word 0x2F 5 3 10 11 12) kern ({ thr with x := [(10, BitVec.ofNat 64 (lg 0x1000)), (11, 3)] }))), 3, 0, { thr with x := [(10, BitVec.ofNat 64 (lg 0x1000)), (11, 3)] }, kern, word 0x2F 5 3 10 11 12, by simp only [Block.Fetches]; decide +kernel⟩

theorem meets_CoreInstructions_8 :
  ∃ (s : State) (cove : Fin 512) (th : Fin 4) (u : Thread) (x : Ctx) (w : Nat),
  (s.block.Fetches cove th u x w) ∧
  (let rs1 := u.rx (bits w 19 15)
  let rs2 := u.rx (bits w 24 20)
  let rd' := bits w 11 7
  let f3 := bits w 14 12
  let steps := fun (u' : Thread) => Yields (.coreInstruction cove th) s fun t =>
        s.block.OneCove t cove ((s.block.ctl.cove cove).setThread th u') ∧ t.sems = s.block.sems ∧ s.block.Asked t cove x.second [rd u.pc.toNat 4]
  let out := (s.block.touched cove x.second [rd u.pc.toNat 4]).out
  let a := rs1.toNat
  let mine : Reserve := { cove := cove.val, thread := th.val, addr := a, len := 8 }
  let others := fun (g : Reserve) => !(g.cove == cove.val && g.thread == th.val)
  let inLagoon := x.second = false ∧ a % 8 = 0 ∧ lagoonBase ≤ a ∧ a + 8 ≤ lagoonBase + 2 * lagoonSize
  (w = 0xFFFFFFFF) ∧
  (rOp x.record = opKernel)) :=
  ⟨at' (coreAt (0xFFFFFFFF) kern (thr)), 3, 0, thr, kern, 0xFFFFFFFF, by simp only [Block.Fetches]; decide +kernel⟩

/-! ### CustomInstructions -/

theorem meets_CustomInstructions_0 :
  ∃ (s : State) (cove : Fin 512) (th : Fin 4) (u : Thread) (x : Ctx) (w : Nat),
  (s.block.Fetches cove th u x w) ∧
  (let sem := semIn x.second ((u.rx (bits w 19 15)).toNat % 32768)
  let amount := (u.rx (bits w 24 20)).toNat % 2 ^ 31
  let word := s.block.sem sem
  let after := fun (f : Thread → Thread) (t : Block) =>
          s.block.OneCove t cove ((s.block.ctl.cove cove).setThread th { (f u) with pc := u.pc + 4 }) ∧ s.block.Asked t cove x.second [rd u.pc.toNat 4]
  (nvOfWord w = some .sig) ∧
  (semCount word + amount ≤ semMax)) :=
  ⟨at' { (coreAt (word 0x0B 0 0 10 11 0) kern (thr)) with sems := [(77, 5)] }, 3, 0, thr, kern, word 0x0B 0 0 10 11 0, by simp only [Block.Fetches]; decide +kernel⟩

theorem meets_CustomInstructions_1 :
  ∃ (s : State) (cove : Fin 512) (th : Fin 4) (u : Thread) (x : Ctx) (w : Nat),
  (s.block.Fetches cove th u x w) ∧
  (let sem := semIn x.second ((u.rx (bits w 19 15)).toNat % 32768)
  let amount := (u.rx (bits w 24 20)).toNat % 2 ^ 31
  let word := s.block.sem sem
  let after := fun (f : Thread → Thread) (t : Block) =>
          s.block.OneCove t cove ((s.block.ctl.cove cove).setThread th { (f u) with pc := u.pc + 4 }) ∧ s.block.Asked t cove x.second [rd u.pc.toNat 4]
  (nvOfWord w = some .sigp)) :=
  ⟨at' { (coreAt (word 0x0B 0 0 10 11 1) kern (thr)) with sems := [(77, 5)] }, 3, 0, thr, kern, word 0x0B 0 0 10 11 1, by simp only [Block.Fetches]; decide +kernel⟩

theorem meets_CustomInstructions_2 :
  ∃ (s : State) (cove : Fin 512) (th : Fin 4) (u : Thread) (x : Ctx) (w : Nat),
  (s.block.Fetches cove th u x w) ∧
  (let sem := semIn x.second ((u.rx (bits w 19 15)).toNat % 32768)
  let amount := (u.rx (bits w 24 20)).toNat % 2 ^ 31
  let word := s.block.sem sem
  let after := fun (f : Thread → Thread) (t : Block) =>
          s.block.OneCove t cove ((s.block.ctl.cove cove).setThread th { (f u) with pc := u.pc + 4 }) ∧ s.block.Asked t cove x.second [rd u.pc.toNat 4]
  (nvOfWord w = some .wait) ∧
  ((semPoisoned word = true ∨ amount ≤ semCount word))) :=
  ⟨at' { (coreAt (word 0x0B 5 1 10 11 0) kern (thr)) with sems := [(77, 5)] }, 3, 0, thr, kern, word 0x0B 5 1 10 11 0, by simp only [Block.Fetches]; decide +kernel⟩

theorem meets_CustomInstructions_3 :
  ∃ (s : State) (cove : Fin 512) (th : Fin 4) (u : Thread) (x : Ctx) (w : Nat),
  (s.block.Fetches cove th u x w) ∧
  (let sem := semIn x.second ((u.rx (bits w 19 15)).toNat % 32768)
  let amount := (u.rx (bits w 24 20)).toNat % 2 ^ 31
  let word := s.block.sem sem
  let after := fun (f : Thread → Thread) (t : Block) =>
          s.block.OneCove t cove ((s.block.ctl.cove cove).setThread th { (f u) with pc := u.pc + 4 }) ∧ s.block.Asked t cove x.second [rd u.pc.toNat 4]
  (nvOfWord w = some .wait) ∧
  (semPoisoned word = false) ∧
  (semCount word < amount)) :=
  ⟨at' { (coreAt (word 0x0B 5 1 10 11 0) kern (thr)) with sems := [(77, 2)] }, 3, 0, thr, kern, word 0x0B 5 1 10 11 0, by simp only [Block.Fetches]; decide +kernel⟩

theorem meets_CustomInstructions_4 :
  ∃ (s : State) (cove : Fin 512) (th : Fin 4) (u : Thread) (x : Ctx) (w : Nat),
  (s.block.Fetches cove th u x w) ∧
  (let sem := semIn x.second ((u.rx (bits w 19 15)).toNat % 32768)
  let amount := (u.rx (bits w 24 20)).toNat % 2 ^ 31
  let word := s.block.sem sem
  let after := fun (f : Thread → Thread) (t : Block) =>
          s.block.OneCove t cove ((s.block.ctl.cove cove).setThread th { (f u) with pc := u.pc + 4 }) ∧ s.block.Asked t cove x.second [rd u.pc.toNat 4]
  (nvOfWord w = some .semrd)) :=
  ⟨at' { (coreAt (word 0x0B 5 1 10 11 1) kern (thr)) with sems := [(77, 5)] }, 3, 0, thr, kern, word 0x0B 5 1 10 11 1, by simp only [Block.Fetches]; decide +kernel⟩

theorem meets_CustomInstructions_5 :
  ∃ (s : State) (cove : Fin 512) (th : Fin 4) (u : Thread) (x : Ctx) (w : Nat),
  (s.block.Fetches cove th u x w) ∧
  (let sem := semIn x.second ((u.rx (bits w 19 15)).toNat % 32768)
  let amount := (u.rx (bits w 24 20)).toNat % 2 ^ 31
  let word := s.block.sem sem
  let after := fun (f : Thread → Thread) (t : Block) =>
          s.block.OneCove t cove ((s.block.ctl.cove cove).setThread th { (f u) with pc := u.pc + 4 }) ∧ s.block.Asked t cove x.second [rd u.pc.toNat 4]
  ∃ (sel : Nat),
  (nvOfWord w = some (.id sel))) :=
  ⟨at' { (coreAt (word 0x0B 5 3 0 2 0) kern (thr)) with sems := [(77, 5)] }, 3, 0, thr, kern, word 0x0B 5 3 0 2 0, by simp only [Block.Fetches]; decide +kernel, 2, by decide +kernel⟩

theorem meets_CustomInstructions_6 :
  ∃ (s : State) (cove : Fin 512) (th : Fin 4) (u : Thread) (x : Ctx) (w : Nat),
  (s.block.Fetches cove th u x w) ∧
  (let sem := semIn x.second ((u.rx (bits w 19 15)).toNat % 32768)
  let amount := (u.rx (bits w 24 20)).toNat % 2 ^ 31
  let word := s.block.sem sem
  let after := fun (f : Thread → Thread) (t : Block) =>
          s.block.OneCove t cove ((s.block.ctl.cove cove).setThread th { (f u) with pc := u.pc + 4 }) ∧ s.block.Asked t cove x.second [rd u.pc.toNat 4]
  ((nvOfWord w = some .take) ∧
  (x.second = false)) ∧
  (let ctr := (u.rx (bits w 19 15)).toNat
  ∃ (v : Nat) (a : Act),
  (s.block.takeTile ctr (s.block.ctl.plan.counterCap ctr) cove (u.rx (bits w 24 20)).toNat = (some v, a)))) :=
  ⟨at' { (coreAt (word 0x0B 5 2 10 11 0) kern ({ thr with x := [(10, BitVec.ofNat 64 (lg 0x8000)), (11, 6)] })) with sems := [(77, 5)] }, 3, 0, { thr with x := [(10, BitVec.ofNat 64 (lg 0x8000)), (11, 6)] }, kern, word 0x0B 5 2 10 11 0, by simp only [Block.Fetches]; decide +kernel, by decide +kernel, 1, ({ (coreAt (word 0x0B 5 2 10 11 0) kern ({ thr with x := [(10, BitVec.ofNat 64 (lg 0x8000)), (11, 6)] })) with sems := [(77, 5)] }.takeTile (({ thr with x := [(10, BitVec.ofNat 64 (lg 0x8000)), (11, 6)] }).rx (bits (word 0x0B 5 2 10 11 0) 19 15)).toNat ((coreAt (word 0x0B 5 2 10 11 0) kern ({ thr with x := [(10, BitVec.ofNat 64 (lg 0x8000)), (11, 6)] })).ctl.plan.counterCap (({ thr with x := [(10, BitVec.ofNat 64 (lg 0x8000)), (11, 6)] }).rx (bits (word 0x0B 5 2 10 11 0) 19 15)).toNat) 3 (({ thr with x := [(10, BitVec.ofNat 64 (lg 0x8000)), (11, 6)] }).rx (bits (word 0x0B 5 2 10 11 0) 24 20)).toNat).2, pair_of_fst (by decide +kernel)⟩

theorem meets_CustomInstructions_7 :
  ∃ (s : State) (cove : Fin 512) (th : Fin 4) (u : Thread) (x : Ctx) (w : Nat) (v : Nv),
  ((s.block.Fetches cove th u x w) ∧
  (nvOfWord w = some v)) ∧
  (∃ (i : Instr) (f : Env → Option Thread),
  (((∃ m k, v = .vcvtN m k ∧ i = .nvVcvtN cove th ∧ ∀ e, f e = vcvtN e u w v) ∨ (∃ k, v = .vcvtW k ∧ i = .nvVcvtW cove th ∧ ∀ e, f e = vcvtW e u w v) ∨
         (∃ k, v = .vmxs k ∧ i = .nvVmxs cove th ∧ ∀ e, f e = vmxs u w v) ∨ (v = .vexp2 ∧ i = .nvVexp2 cove th ∧ ∀ e, f e = vexp2 e u w v) ∨
         (∃ k, v = .vsincos k ∧ i = .nvVsincos cove th ∧ ∀ e, f e = vsincos e u w v))) ∧
  ((u.vt.map (·.sew) = some 32) ∧
  (u.vt.map (·.ta) = some false)) ∧
  ((∃ u', ∀ e, f e = some u'))) :=
  ⟨at' { (coreAt (word 0x2B 6 2 0 2 3) kern (thr)) with sems := [(77, 5)] }, 3, 0, thr, kern, word 0x2B 6 2 0 2 3, .vmxs 3, by simp only [Block.Fetches]; decide +kernel, .nvVmxs 3 0, (fun _ => vmxs thr (word 0x2B 6 2 0 2 3) (.vmxs 3)), .inr (.inr (.inl ⟨3, rfl, rfl, fun _ => rfl⟩)), by decide +kernel, ⟨(vmxs thr (word 0x2B 6 2 0 2 3) (.vmxs 3)).getD thr, fun _ => by show vmxs _ _ _ = some _; decide +kernel⟩⟩

theorem meets_CustomInstructions_8 :
  ∃ (s : State) (cove : Fin 512) (th : Fin 4) (u : Thread) (x : Ctx) (w : Nat) (v : Nv),
  ((s.block.Fetches cove th u x w) ∧
  (nvOfWord w = some v)) ∧
  (∃ (i : Instr) (f : Env → Option Thread),
  (((∃ m k, v = .vcvtN m k ∧ i = .nvVcvtN cove th ∧ ∀ e, f e = vcvtN e u w v) ∨ (∃ k, v = .vcvtW k ∧ i = .nvVcvtW cove th ∧ ∀ e, f e = vcvtW e u w v) ∨
         (∃ k, v = .vmxs k ∧ i = .nvVmxs cove th ∧ ∀ e, f e = vmxs u w v) ∨ (v = .vexp2 ∧ i = .nvVexp2 cove th ∧ ∀ e, f e = vexp2 e u w v) ∨
         (∃ k, v = .vsincos k ∧ i = .nvVsincos cove th ∧ ∀ e, f e = vsincos e u w v))) ∧
  (u.vt.map (·.sew) ≠ some 32) ∧
  (rOp x.record = opKernel)) :=
  ⟨at' { (coreAt (word 0x2B 6 2 0 2 3) kern ({ thr with csr := [] })) with sems := [(77, 5)] }, 3, 0, { thr with csr := [] }, kern, word 0x2B 6 2 0 2 3, .vmxs 3, by simp only [Block.Fetches]; decide +kernel, .nvVmxs 3 0, (fun _ => vmxs { thr with csr := [] } (word 0x2B 6 2 0 2 3) (.vmxs 3)), .inr (.inr (.inl ⟨3, rfl, rfl, fun _ => rfl⟩)), by decide +kernel⟩

/-! ### RingSteps -/

theorem meets_RingSteps_0 :
  ∃ (s : State) (cove : Fin 512) (n : Fin 4) (x : Ctx) (p k : Nat),
  (s.block.Runnable cove n opTide x) ∧
  (tMode x.record = 0) ∧
  (tGather x.record = false) ∧
  (tNoRx x.record = false) ∧
  (tidePrev s.block.ctl.plan s.block.ctl.jobP (s.block.ctl.rankOf x.second) (tDir x.record) = some p) ∧
  (tideNext s.block.ctl.plan s.block.ctl.jobP (s.block.ctl.rankOf x.second) (tDir x.record) = some k) ∧
  (s.block.ctl.engine.movers.inbox = []) :=
  ⟨at' (tideAt (tideCtx 0 false [])), 0, 0, tideCtx 0 false [], 0, 0, by simp only [Block.Runnable]; decide +kernel⟩

theorem meets_RingSteps_1 :
  ∃ (s : State) (g : TideGrant) (c n k : Nat) (x : Ctx),
  (s.block.tideStep g.toRank 0 (fun c x => !x.txDone && isGrant g.toRank (dieOf c) x.record (.grant g)) = some (c, n, x)) ∧
  (n < 4) ∧
  ((s.block.ctl.cove c).ctx n = some x) ∧
  (x.rxDone = false) ∧
  (s.block.ctl.plan.fold = false) ∧
  (tideNext s.block.ctl.plan s.block.ctl.jobP (s.block.ctl.rankOf x.second) (tDir x.record) = some k) :=
  ⟨at' (tideAt (tideCtx 0 true [])), { toRank := 1, die := 0, step := 2, dir := 0, layer := 0, seq := 0 }, 0, 0, 0, tideCtx 0 true [], by decide +kernel⟩

theorem meets_RingSteps_2 :
  ∃ (s : State) (p : TidePiece) (c n : Nat) (x : Ctx),
  ((s.block.tideStep p.toRank 0 (fun c x => !x.rxDone && dieOf c == p.die.val && tStep x.record == p.step && tDir x.record == p.dir) = some (c, n, x)) ∧
  (n < 4) ∧
  ((s.block.ctl.cove c).ctx n = some x) ∧
  (x.txDone = false) ∧
  (p.header.length = 8192) ∧
  (p.pages.length = headerPages p.header * 8192)) ∧
  (let sp := s.block.tideSpace c x
  let slot := s.block.ctl.plan.slotAddr (u8 x.record 133)
  let use : Byte := if s.block.useOfBlock sp p.toRank p.step p.dir p.header then 1 else 0
  let key := missKey 0 p.toRank p.step p.dir p.die.val
  (slotCheck p.header p.pages = u32 p.header 12) ∧
  (s.block.firstBad sp [{ va := slot, len := 8192 + p.pages.length, write := true }] = none)) :=
  ⟨at' (tideAt (tideCtx 0 true [])), { toRank := 1, die := 0, step := 2, dir := 0, header := slotHeader 0 0 0 0 true [] [], pages := [] }, 0, 0, tideCtx 0 true [], by decide +kernel⟩

theorem meets_RingSteps_3 :
  ∃ (s : State) (p : TidePiece) (c n : Nat) (x : Ctx),
  ((s.block.tideStep p.toRank 0 (fun c x => !x.rxDone && dieOf c == p.die.val && tStep x.record == p.step && tDir x.record == p.dir) = some (c, n, x)) ∧
  (n < 4) ∧
  ((s.block.ctl.cove c).ctx n = some x) ∧
  (x.txDone = false) ∧
  (p.header.length = 8192) ∧
  (p.pages.length = headerPages p.header * 8192)) ∧
  (let sp := s.block.tideSpace c x
  let slot := s.block.ctl.plan.slotAddr (u8 x.record 133)
  let use : Byte := if s.block.useOfBlock sp p.toRank p.step p.dir p.header then 1 else 0
  let key := missKey 0 p.toRank p.step p.dir p.die.val
  ∃ (k : Nat),
  (slotCheck p.header p.pages ≠ u32 p.header 12) ∧
  (tidePrev s.block.ctl.plan s.block.ctl.jobP p.toRank p.dir = some k) ∧
  (3 ≤ Tab.get 0 s.block.ctl.engine.movers.misses key) ∧
  (p.toRank < k)) :=
  ⟨at' (missed3 (leading (tideAt (tideCtx 0 true [])))), { toRank := 0, die := 0, step := 2, dir := 0, header := patch (slotHeader 0 0 0 0 true [] []) 0 [9], pages := [] }, 0, 0, tideCtx 0 true [], by decide +kernel, 1, by decide +kernel⟩

theorem meets_RingSteps_4 :
  ∃ (s : State) (p : TidePiece) (c n : Nat) (x : Ctx),
  ((s.block.tideStep p.toRank 0 (fun c x => !x.rxDone && dieOf c == p.die.val && tStep x.record == p.step && tDir x.record == p.dir) = some (c, n, x)) ∧
  (n < 4) ∧
  ((s.block.ctl.cove c).ctx n = some x) ∧
  (x.txDone = false) ∧
  (p.header.length = 8192) ∧
  (p.pages.length = headerPages p.header * 8192)) ∧
  (let sp := s.block.tideSpace c x
  let slot := s.block.ctl.plan.slotAddr (u8 x.record 133)
  let use : Byte := if s.block.useOfBlock sp p.toRank p.step p.dir p.header then 1 else 0
  let key := missKey 0 p.toRank p.step p.dir p.die.val
  ∃ (k : Nat),
  (slotCheck p.header p.pages ≠ u32 p.header 12) ∧
  (tidePrev s.block.ctl.plan s.block.ctl.jobP p.toRank p.dir = some k) ∧
  (Tab.get 0 s.block.ctl.engine.movers.misses key < 3)) :=
  ⟨at' (tideAt (tideCtx 0 true [])), { toRank := 1, die := 0, step := 2, dir := 0, header := patch (slotHeader 0 0 0 0 true [] []) 0 [9], pages := [] }, 0, 0, tideCtx 0 true [], by decide +kernel, 0, by decide +kernel⟩

/-! ### BroadcastsAndGathers -/

theorem meets_BroadcastsAndGathers_0 :
  ∃ (s : State) (cove : Fin 512) (n : Fin 4) (x : Ctx),
  ((s.block.Runnable cove n opTide x) ∧
  (tMode x.record = 1) ∧
  (s.block.ctl.engine.movers.inbox = []) ∧
  (x.poisoned = false) ∧
  (tNoTx x.record = false)) ∧
  (let r := x.record
  let me := s.block.ctl.rankOf x.second
  let p := s.block.payload cove x
  let as := rd (u64 r 144) (u32 r 152) :: (if u32 r 156 = 0 then [] else [rd (u64 r 160) (576 * u32 r 156)])
  let b := (Act.all [touch cove x.second as, updCtx cove n fun y => { y with begun := true, txDone := false, rxDone := false },
          keepMsg (.payload p)]).run s.block
  ∃ (d : Block),
  ((me = tRoot r) ∧
  (s.block.firstBad (s.block.tideSpace cove x) as = none)) ∧
  (unitsDone cove n x.second ((b.payloadUnits cove x p).drop x.pos) (b.passedOn cove n me p) = some d)) :=
  ⟨at' (tideAt (tideCtx 1 false [(138, 1, 2), (112, lg 0x90000, 8)])), 0, 0, tideCtx 1 false [(138, 1, 2), (112, lg 0x90000, 8)], by simp only [Block.Runnable]; decide +kernel, _, by decide +kernel, (Option.some_get (by decide +kernel)).symm⟩

theorem meets_BroadcastsAndGathers_1 :
  ∃ (s : State) (cove : Fin 512) (n : Fin 4) (x : Ctx),
  ((s.block.Runnable cove n opTide x) ∧
  (tMode x.record = 1) ∧
  (s.block.ctl.engine.movers.inbox = []) ∧
  (x.poisoned = false) ∧
  (tNoTx x.record = false)) ∧
  (let r := x.record
  let me := s.block.ctl.rankOf x.second
  let p := s.block.payload cove x
  let as := rd (u64 r 144) (u32 r 152) :: (if u32 r 156 = 0 then [] else [rd (u64 r 160) (576 * u32 r 156)])
  let b := (Act.all [touch cove x.second as, updCtx cove n fun y => { y with begun := true, txDone := false, rxDone := false },
          keepMsg (.payload p)]).run s.block
  (me ≠ tRoot r) ∧
  (tNoRx r = false)) :=
  ⟨at' (tideAt (tideCtx 1 false [])), 0, 0, tideCtx 1 false [], by simp only [Block.Runnable]; decide +kernel⟩

theorem meets_BroadcastsAndGathers_2 :
  ∃ (s : State) (p : BcastPayload),
  ((segmentsOk p.data = true) ∧
  (s.block.ctl.engine.movers.inbox = [])) ∧
  (∃ (c n : Nat) (x : Ctx),
  ((s.block.tideStep p.toRank 1 (fun _ x => !x.rxDone && isPayload p.toRank x.record (.payload p)) = some (c, n, x)) ∧
  (n < 4) ∧
  ((s.block.ctl.cove c).ctx n = some x) ∧
  (x.fault = none) ∧
  (x.txDone = false) ∧
  (x.rxDone = false) ∧
  (x.poisoned = false)) ∧
  (let b := ((arrived (missKey 1 p.toRank p.layer p.root p.seq)).seq (keepMsg (.payload p))).run s.block
  ∃ (d : Block),
  (unitsDone c n x.second ((b.payloadUnits c x p).drop x.pos) (b.passedOn c n p.toRank p) = some d))) :=
  ⟨at' (tideAt (tideCtx 1 true [(112, lg 0x90000, 8)])), { toRank := 1, seq := 0, layer := 0, root := 0, data := cut ([1, 2, 3, 4] ++ zeroBytes 68) }, by decide +kernel, 0, 0, tideCtx 1 true [(112, lg 0x90000, 8)], by decide +kernel, _, (Option.some_get (by decide +kernel)).symm⟩

theorem meets_BroadcastsAndGathers_3 :
  ∃ (s : State) (p : BcastPayload) (k i : Nat),
  (segmentsOk p.data = false) ∧
  (treeParent s.block.ctl.jobP p.toRank p.root = some (k, i)) ∧
  (Tab.get 0 s.block.ctl.engine.movers.misses (missKey 1 p.toRank p.layer p.root p.seq) < 3) :=
  ⟨at' (tideAt (tideCtx 1 true [(112, lg 0x90000, 8)])), { toRank := 1, seq := 0, layer := 0, root := 0, data := [{ bytes := [1], crc := 0 }] }, 0, 1, by decide +kernel⟩

theorem meets_BroadcastsAndGathers_4 :
  ∃ (s : State) (cove : Fin 512) (n : Fin 4) (x : Ctx),
  (s.block.Runnable cove n opTide x) ∧
  (tMode x.record = 2) ∧
  (tNoRx x.record = true) ∧
  (tNoTx x.record = false) :=
  ⟨at' (tideAt (tideCtx 2 false [(1, 4, 1)])), 0, 0, tideCtx 2 false [(1, 4, 1)], by simp only [Block.Runnable]; decide +kernel⟩

theorem meets_BroadcastsAndGathers_5 :
  ∃ (s : State) (cove : Fin 512) (n : Fin 4) (x : Ctx) (k i : Nat),
  (((s.block.ctl.cove cove).ctx n = some x) ∧
  (rOp x.record = opTide) ∧
  (tMode x.record = 2) ∧
  (waitsMet x.record x.met = true) ∧
  (x.fault = none) ∧
  (x.begun = true) ∧
  (x.rxDone = true) ∧
  (x.txDone = false) ∧
  (x.poisoned = false) ∧
  (treeParent s.block.ctl.jobP (s.block.ctl.rankOf x.second) (tRoot x.record) = some (k, i))) ∧
  (let r := x.record
  let sp := s.block.tideSpace cove x
  (s.block.firstBad sp [{ va := u64 r 144, len := u32 r 152, write := false }] = none)) :=
  ⟨at' (tideAt { tideCtx 2 true [] with rxDone := true }), 0, 0, { tideCtx 2 true [] with rxDone := true }, 0, 1, by decide +kernel⟩

theorem meets_BroadcastsAndGathers_6 :
  ∃ (s : State) (g : GatherMsg) (c n : Nat) (x : Ctx),
  ((segmentsOk g.data = true) ∧
  (s.block.tideStep g.toRank 2 (fun _ x => !x.rxDone && isPartial g.toRank x.record (.partialOf g)) = some (c, n, x)) ∧
  (n < 4) ∧
  ((s.block.ctl.cove c).ctx n = some x) ∧
  (x.txDone = false)) ∧
  (let sp := s.block.tideSpace c x
  let va := u64 x.record 168 + g.child * u32 x.record 176
  (s.block.firstBad sp [{ va := va, len := (joined g.data).length, write := true }] = none)) :=
  ⟨at' (tideAt (tideCtx 2 true [(138, 1, 2)])), { toRank := 1, seq := 0, layer := 0, root := 1, child := 1, data := cut [1, 2, 3, 4] }, 0, 0, tideCtx 2 true [(138, 1, 2)], by decide +kernel⟩

/-! ### WindowsGlobalsAndNotices -/

theorem meets_WindowsGlobalsAndNotices_0 :
  ∃ (s : State) (cove : Fin 512) (n : Fin 4) (x : Ctx),
  ((s.block.Runnable cove n opTide x) ∧
  (tMode x.record = 3)) ∧
  (let r := x.record
  let sp := s.block.tideSpace cove x
  let pages := runPages (s.block.windowRuns sp (u32 r 184))
  let me := s.block.ctl.rankOf x.second
  let far := fun (g : Nat) => s.block.ctl.holder (tLayer r) g != me && !s.block.ctl.onBoard (s.block.ctl.holder (tLayer r) g)
  let ask := fun (g : Nat) => ({ toRank := s.block.ctl.holder (tLayer r) g, rank := me, seq := tSeq r, layer := tLayer r, page := g, pages := 1 } : WindowReq)
  (s.block.firstBad sp (((pages.filter fun g => !far g).map fun g =>
            ({ va := (s.block.seq (tSeq r)).pageAddr (tLayer r) g, len := 8192, write := false } : Access)) ++
          [{ va := u64 r 120, len := 8192 + 8192 * pages.length, write := true }]) = none)) :=
  ⟨at' (tideAt (tideCtx 3 false [(120, lg 0x80000, 8), (184, 1, 4)])), 0, 0, tideCtx 3 false [(120, lg 0x80000, 8), (184, 1, 4)], by simp only [Block.Runnable]; decide +kernel⟩

theorem meets_WindowsGlobalsAndNotices_1 :
  ∃ (s : State) (q : WindowReq) (second : Bool),
  (s.block.ctl.servesRank q.toRank = some second) ∧
  (let sp : Space := { second := second, cove := none, tlb := [] }
  let as := (upto q.page (q.page + q.pages)).map fun g =>
          ({ va := (s.block.seq q.seq).pageAddr q.layer g, len := 8192, write := false } : Access)
  (s.block.firstBad sp as = none)) :=
  ⟨at' (member (job .running openEnt)), { toRank := 1, rank := 0, seq := 0, layer := 0, page := 0, pages := 1 }, false, by decide +kernel⟩

theorem meets_WindowsGlobalsAndNotices_2 :
  ∃ (s : State) (cove : Fin 512) (n : Fin 4) (x : Ctx),
  ((s.block.Runnable cove n opTide x) ∧
  (tMode x.record = 4) ∧
  (s.block.ctl.engine.movers.inbox = [])) ∧
  (let r := x.record
  let sp := s.block.tideSpace cove x
  let me := s.block.ctl.rankOf x.second
  let pages := globalPages (s.block.tableOf sp r)
  let va := fun (i : Nat) => (s.block.seq (tSeq r)).pageAddr (tLayer r) (pages.getD i 0)
  let mine := (List.range pages.length).filter fun i => s.block.ctl.holder (tLayer r) (pages.getD i 0) == me
  (me ≠ tRoot r) ∧
  (s.block.firstBad sp ({ va := u64 r 192, len := 8 + 8 * (s.block.natVa sp (u64 r 192) 8 % 65536), write := false } ::
          mine.map fun i => { va := va i, len := 8192, write := false }) = none)) :=
  ⟨at' (tideAt (tideCtx 4 false [])), 0, 0, tideCtx 4 false [], by simp only [Block.Runnable]; decide +kernel⟩

theorem meets_WindowsGlobalsAndNotices_3 :
  ∃ (s : State) (toRank q l root : Nat) (bs : List Segment) (c n : Nat) (x : Ctx),
  ((segmentsOk bs = true) ∧
  (s.block.tideStep toRank 4 (fun _ x => isGlobal toRank x.record (.global (.cache toRank q l root bs))) = some (c, n, x)) ∧
  (n < 4) ∧
  ((s.block.ctl.cove c).ctx n = some x) ∧
  (s.block.ctl.engine.movers.inbox = [])) ∧
  (let sp := s.block.tideSpace c x
  (s.block.firstBad sp [{ va := u64 x.record 200, len := (joined bs).length, write := true }] = none)) :=
  ⟨at' (tideAt (tideCtx 4 true [])), 1, 0, 0, 0, cut [5, 6], 0, 0, tideCtx 4 true [], by decide +kernel⟩

theorem meets_WindowsGlobalsAndNotices_4 :
  ∃ (s : State) (toRank step dir : Nat) (die : Fin 2) (c n : Nat) (x : Ctx),
  (s.block.tideStep toRank 0 (fun c x => !x.rxDone && dieOf c == die.val && tStep x.record == step && tDir x.record == dir) = some (c, n, x)) ∧
  (n < 4) ∧
  ((s.block.ctl.cove c).ctx n = some x) ∧
  (x.txDone = false) :=
  ⟨at' (tideAt (tideCtx 0 true [])), 1, 2, 0, 0, 0, 0, tideCtx 0 true [], by decide +kernel⟩

theorem meets_WindowsGlobalsAndNotices_5 :
  ∃ (s : State) (toRank step dir : Nat) (die : Fin 2),
  (s.block.tideStep toRank 0 (fun c x => !x.txDone && isGrant toRank (dieOf c) x.record (.poison (.grant toRank die step dir))) = none) :=
  ⟨at' (tideAt (tideCtx 0 true [])), 1, 3, 0, 0, by decide +kernel⟩

theorem meets_WindowsGlobalsAndNotices_6 :
  ∃ (s : State) (q : ResendOf) (m : Sent),
  (s.block.out.find? (isResent q) = some m) :=
  ⟨at' ((tideAt (tideCtx 0 true [])).sending (.rank 0) (.piece { toRank := 0, die := 0, step := 2, dir := 0, header := [], pages := [] })), .piece 0 0 2 0, { dest := .rank 0, msg := .piece { toRank := 0, die := 0, step := 2, dir := 0, header := [], pages := [] } }, by decide +kernel⟩

/-! ### TransfersAndChannels -/

theorem meets_TransfersAndChannels_0 :
  ∃ (s : State) (e : Fin 40) (ch : Fin 32) (c : Channel) (i : Bytes),
  (s.block.Stands e ch 3 c i) :=
  ⟨at' (lsAt 0 0 (chan0) (fieldsOf 16 [(0, 3, 1), (4, 2, 4)])), 0, 0, chan0, fieldsOf 16 [(0, 3, 1), (4, 2, 4)], by simp only [Block.Stands]; decide +kernel⟩

theorem meets_TransfersAndChannels_1 :
  ∃ (s : State) (e : Fin 40) (ch : Fin 32) (c : Channel) (i : Bytes),
  ((s.block.Stands e ch 4 c i) ∧
  (c.stop = false) ∧
  (fwChannel e ch = false)) ∧
  (let w := s.block.sem (semIn c.second (bits (u16 i 4) 14 0))
  let next : Channel := { c with instr := c.instr + 1, done := 0, retries := 0, bound := false }
  (semPoisoned w = false)) :=
  ⟨at' ({ lsAt 0 0 (chan0) (fieldsOf 16 [(0, 4, 1), (4, 77, 2), (8, 3, 4)]) with sems := [(77, 5)] }), 0, 0, chan0, fieldsOf 16 [(0, 4, 1), (4, 77, 2), (8, 3, 4)], by simp only [Block.Stands]; decide +kernel⟩

theorem meets_TransfersAndChannels_2 :
  ∃ (s : State) (e : Fin 40) (ch : Fin 32) (c : Channel) (i : Bytes),
  ((s.block.Stands e ch 4 c i) ∧
  (c.stop = false) ∧
  (fwChannel e ch = false)) ∧
  (let w := s.block.sem (semIn c.second (bits (u16 i 4) 14 0))
  let next : Channel := { c with instr := c.instr + 1, done := 0, retries := 0, bound := false }
  ∃ (x : Ctx),
  ((semPoisoned w = true) ∧
  (c.ctx < 4) ∧
  ((s.block.ctl.cove c.cove).ctx c.ctx = some x)) ∧
  (s.block.StaysInJob e ch)) :=
  ⟨at' ({ lsAt 0 0 (chan0) (fieldsOf 16 [(0, 4, 1), (4, 77, 2), (8, 3, 4)]) with sems := [(77, 0x80000000)] }), 0, 0, chan0, fieldsOf 16 [(0, 4, 1), (4, 77, 2), (8, 3, 4)], by simp only [Block.Stands]; decide +kernel, { ctxOf (recOf opXfer []) 1 1 1 with begun := true }, by decide +kernel, Or.inl (by decide +kernel)⟩

theorem meets_TransfersAndChannels_3 :
  ∃ (s : State) (e : Fin 40) (ch : Fin 32) (c : Channel) (i : Bytes),
  (s.block.Stands e ch 5 c i) ∧
  (bits (u8 i 1) 2 1 = 0) ∧
  (fwChannel e ch = false) ∧
  (c.last.find? (fun l => !s.block.lineHolds l) = none) :=
  ⟨at' (lsAt 0 0 (chan0) (fieldsOf 16 [(0, 5, 1), (4, 77, 2), (8, 3, 4)])), 0, 0, chan0, fieldsOf 16 [(0, 5, 1), (4, 77, 2), (8, 3, 4)], by simp only [Block.Stands]; decide +kernel⟩

theorem meets_TransfersAndChannels_4 :
  ∃ (s : State) (e : Fin 40) (ch : Fin 32) (c : Channel) (i : Bytes),
  (s.block.Stands e ch 6 c i) ∧
  (fwChannel e ch = false) ∧
  (c.stop = false) :=
  ⟨at' (lsAt 0 0 (chan0) (fieldsOf 16 [(0, 6, 1)])), 0, 0, chan0, fieldsOf 16 [(0, 6, 1)], by simp only [Block.Stands]; decide +kernel⟩

theorem meets_TransfersAndChannels_5 :
  ∃ (s : State) (e : Fin 40) (ch : Fin 32) (c : Channel) (i : Bytes),
  ((s.block.Stands e ch 6 c i) ∧
  (fwChannel e ch = false)) ∧
  (∃ (x : Ctx),
  ((c.stop = true) ∧
  (c.ctx < 4) ∧
  ((s.block.ctl.cove c.cove).ctx c.ctx = some x)) ∧
  (s.block.StaysInJob e ch)) :=
  ⟨at' (lsAt 0 0 ({ chan0 with stop := true }) (fieldsOf 16 [(0, 6, 1)])), 0, 0, { chan0 with stop := true }, fieldsOf 16 [(0, 6, 1)], by simp only [Block.Stands]; decide +kernel, { ctxOf (recOf opXfer []) 1 1 1 with begun := true }, by decide +kernel, Or.inl (by decide +kernel)⟩

theorem meets_TransfersAndChannels_6 :
  ∃ (s : State) (cove : Fin 512) (n : Fin 4) (x : Ctx),
  (s.block.Runnable cove n opXfer x) ∧
  (let e := u8 x.record 104
  let ch := u8 x.record 105
  (s.block.ctl.job.stopChans = false) ∧
  ((s.block.ctl.chan e ch).state = .idle) ∧
  (s.block.ctl.xferAhead x = false)) :=
  ⟨at' (coveAt (some (ctxOf (recOf opXfer [(112, lg 0x6000, 8)]) 1 1 1))), 0, 0, ctxOf (recOf opXfer [(112, lg 0x6000, 8)]) 1 1 1, by simp only [Block.Runnable]; decide +kernel⟩

theorem meets_TransfersAndChannels_7 :
  ∃ (s : State) (cove : Fin 512) (n : Fin 4) (x : Ctx),
  (s.block.Runnable cove n opXfer x) ∧
  (let e := u8 x.record 104
  let ch := u8 x.record 105
  (s.block.ctl.job.stopChans = true)) :=
  ⟨at' ((fun b : Block => ({ b with ctl := { b.ctl with job := { b.ctl.job with stopChans := true } } } : Block)) (coveAt (some (ctxOf (recOf opXfer [(112, lg 0x6000, 8)]) 1 1 1)))), 0, 0, ctxOf (recOf opXfer [(112, lg 0x6000, 8)]) 1 1 1, by simp only [Block.Runnable]; decide +kernel⟩

theorem meets_TransfersAndChannels_8 :
  ∃ (s : State) (e : Fin 40) (ch : Fin 32) (c : Channel) (i : Bytes) (x : Ctx),
  ((s.block.Stands e ch 7 c i) ∧
  (c.ctx < 4) ∧
  ((s.block.ctl.cove c.cove).ctx c.ctx = some x)) ∧
  (s.block.StaysInJob e ch) ∧
  (c.last.find? (fun l => !s.block.lineHolds l) = none) :=
  ⟨at' (lsAt 0 0 (chan0) (fieldsOf 16 [(0, 7, 1)])), 0, 0, chan0, fieldsOf 16 [(0, 7, 1)], { ctxOf (recOf opXfer []) 1 1 1 with begun := true }, by simp only [Block.Stands]; decide +kernel, Or.inl (by decide +kernel), by decide +kernel⟩

/-! ### ChannelMovesAndErrors -/

theorem meets_ChannelMovesAndErrors_0 :
  ∃ (s : State) (e : Fin 40) (ch : Fin 32) (tiles : Option Nat) (c : Channel) (i : Bytes) (p d : LsPlace),
  ((s.block.Stands e ch 1 c i) ∧
  (tiles ≠ some 0) ∧
  (c.stop = false) ∧
  (c.done = 0) ∧
  (fwChannel e ch = false)) ∧
  (let sa := lsDesc c.prog i 8
  let da := lsDesc c.prog i 12
  (s.block.firstBad c.space [{ va := sa, len := 64, write := false }, { va := da, len := 64, write := false }] = none) ∧
  (let src := s.block.readVa c.space sa 64
  let dst := s.block.readVa c.space da 64
  let len := streamLen dst
  (0 < len) ∧
  (len ≤ tileBytes) ∧
  (bits (u8 i 1) 1 0 = 0) ∧
  (s.block.tileBad e ch c i src dst 0 len = none) ∧
  ((descRanges src c.iter 0 len).flatMap (s.block.places c.second src false) = [p]) ∧
  (s.block.receiverPlaces c dst 0 len (.here c.second) = [d]) ∧
  (p.len = len) ∧
  (d.len = len) ∧
  ((p.at' ≠ d.at' ∨ p.addr + len ≤ d.addr ∨ d.addr + len ≤ p.addr)))) :=
  ⟨at' (lsAt 0 0 chan0 (fieldsOf 16 [(0, 1, 1), (8, 1, 4), (12, 2, 4)])), 0, 0, none, chan0, fieldsOf 16 [(0, 1, 1), (8, 1, 4), (12, 2, 4)], { at' := 0, addr := lg 0x10000, len := 64 }, { at' := 0, addr := lg 0x20000, len := 64 }, by simp only [Block.Stands]; decide +kernel⟩

theorem meets_ChannelMovesAndErrors_1 :
  ∃ (s : State) (e : Fin 40) (ch : Fin 32) (tiles : Option Nat) (c : Channel) (i : Bytes) (k a : Nat),
  ((s.block.Stands e ch 2 c i) ∧
  (32 ≤ e.val) ∧
  (tiles ≠ some 0) ∧
  (c.stop = false) ∧
  (c.done = 0) ∧
  (c.last = []) ∧
  (fwChannel e ch = false) ∧
  (mcastSlots c i = [k]) ∧
  (k ≠ s.block.slot) ∧
  (s.block.ctl.pair.rank2 = none)) ∧
  (let sa := lsDesc c.prog i 8
  let da := lsDesc c.prog i 12
  (s.block.firstBad c.space [{ va := sa, len := 64, write := false }, { va := da, len := 64, write := false }] = none) ∧
  (let src := s.block.readVa c.space sa 64
  let dst := s.block.readVa c.space da 64
  let len := streamLen dst
  ((0 < len) ∧
  (len ≤ tileBytes) ∧
  (bits (u8 i 1) 1 0 = 0) ∧
  (s.block.tileBad e ch c i src dst 0 len = none) ∧
  (descRanges dst c.iter 0 len = [(a, len)])) ∧
  (let sources := (descRanges src c.iter 0 len).flatMap (s.block.places c.second src false)
  let bytes := sources.flatMap s.block.placeBytes
  (bytes.length = len) ∧
  ((∀ p ∈ sources, p.at' = s.block.slot ∨ p.at' = placeFlash ∨ p.at' = placeHost))))) :=
  ⟨at' (member (lsAt 32 0 chan0 (fieldsOf 16 [(0, 2, 1), (3, 2, 1), (4, 77, 2), (8, 1, 4), (12, 2, 4)]))), 32, 0, some 1, chan0, fieldsOf 16 [(0, 2, 1), (3, 2, 1), (4, 77, 2), (8, 1, 4), (12, 2, 4)], 1, lg 0x20000, by simp only [Block.Stands]; decide +kernel⟩

theorem meets_ChannelMovesAndErrors_2 :
  ∃ (s : State) (e : Fin 40) (ch : Fin 32) (kind : BusErr) (addr : Nat) (c : Channel),
  ((s.block.ctl.chan e ch = c) ∧
  (c.state = .run) ∧
  (ch.val < engineChans e) ∧
  (fwChannel e ch = false) ∧
  (s.block.ctl.job.stopping = none)) ∧
  (let u : UnitRef := { cls := 8, number := s.block.ctl.engine.ls.server (chKey e ch), row := 0, bank := 0 }
  (((inWindow s.block.ctl.window s.block.lhTime (Tab.get [] s.block.ctl.health.transient (unitKey u))).length < s.block.ctl.thresh) ∧
  (countIf (fun x => x.kind != 2) s.block.ctl.health.history < 1024)) ∧
  (let i := s.block.lsInstr c.space c.prog c.instr
  let record := fun (at' : Nat) => ({ time := s.block.lhTime, cls := 8, kind := 0, unit := u.number, detail := at' } : ErrRec)
  let counted := fun (t : Block) (at' : Nat) =>
          Tab.get 0 t.ctl.engine.ls.counters (e.val * 4 + 2) = (Tab.get 0 s.block.ctl.engine.ls.counters (e.val * 4 + 2) + 1) % 2 ^ 48 ∧
          t.ctl.health.history = s.block.ctl.health.history ++ [record at'] ∧ t.ctl.health.spares = s.block.ctl.health.spares
  ((∀ target, kind ≠ .readBack target)) ∧
  (c.retries < s.block.ctl.plan.retryOf e) ∧
  (u8 i 0 ≠ 1) ∧
  (u8 i 0 ≠ 2))) :=
  ⟨at' (lsAt 0 0 chan0 (fieldsOf 16 [(0, 5, 1)])), 0, 0, .noResponse, 5, chan0, by decide +kernel, by decide +kernel, fun _ h => BusErr.noConfusion h, by decide +kernel⟩

theorem meets_ChannelMovesAndErrors_3 :
  ∃ (s : State) (e : Fin 40) (ch : Fin 32) (kind : BusErr) (addr : Nat) (c : Channel),
  ((s.block.ctl.chan e ch = c) ∧
  (c.state = .run) ∧
  (ch.val < engineChans e) ∧
  (fwChannel e ch = false) ∧
  (s.block.ctl.job.stopping = none)) ∧
  (let u : UnitRef := { cls := 8, number := s.block.ctl.engine.ls.server (chKey e ch), row := 0, bank := 0 }
  (((inWindow s.block.ctl.window s.block.lhTime (Tab.get [] s.block.ctl.health.transient (unitKey u))).length < s.block.ctl.thresh) ∧
  (countIf (fun x => x.kind != 2) s.block.ctl.health.history < 1024)) ∧
  (let i := s.block.lsInstr c.space c.prog c.instr
  let record := fun (at' : Nat) => ({ time := s.block.lhTime, cls := 8, kind := 0, unit := u.number, detail := at' } : ErrRec)
  let counted := fun (t : Block) (at' : Nat) =>
          Tab.get 0 t.ctl.engine.ls.counters (e.val * 4 + 2) = (Tab.get 0 s.block.ctl.engine.ls.counters (e.val * 4 + 2) + 1) % 2 ^ 48 ∧
          t.ctl.health.history = s.block.ctl.health.history ++ [record at'] ∧ t.ctl.health.spares = s.block.ctl.health.spares
  ((∀ target, kind ≠ .readBack target)) ∧
  (c.retries < s.block.ctl.plan.retryOf e) ∧
  (∃ (off len : Nat),
  ((u8 i 0 = 1 ∨ u8 i 0 = 2) ∧
  (s.block.firstBad c.space [{ va := lsDesc c.prog i 8, len := 64, write := false }, { va := lsDesc c.prog i 12, len := 64, write := false }] = none)) ∧
  (let src := s.block.readVa c.space (lsDesc c.prog i 8) 64
  let dst := s.block.readVa c.space (lsDesc c.prog i 12) 64
  ((tilesLeft c dst).head? = some (off, len)) ∧
  (s.block.tileBad e ch c i src dst off len = none))))) :=
  ⟨at' (lsAt 0 0 chan0 (fieldsOf 16 [(0, 1, 1), (8, 1, 4), (12, 2, 4)])), 0, 0, .fabricError, 5, chan0, by decide +kernel, by decide +kernel, fun _ h => BusErr.noConfusion h, by decide +kernel, 0, 64, by decide +kernel, by decide +kernel⟩

theorem meets_ChannelMovesAndErrors_4 :
  ∃ (s : State) (e : Fin 40) (ch : Fin 32) (kind : BusErr) (addr : Nat) (c : Channel),
  ((s.block.ctl.chan e ch = c) ∧
  (c.state = .run) ∧
  (ch.val < engineChans e) ∧
  (fwChannel e ch = false) ∧
  (s.block.ctl.job.stopping = none)) ∧
  (let u : UnitRef := { cls := 8, number := s.block.ctl.engine.ls.server (chKey e ch), row := 0, bank := 0 }
  (((inWindow s.block.ctl.window s.block.lhTime (Tab.get [] s.block.ctl.health.transient (unitKey u))).length < s.block.ctl.thresh) ∧
  (countIf (fun x => x.kind != 2) s.block.ctl.health.history < 1024)) ∧
  (let i := s.block.lsInstr c.space c.prog c.instr
  let record := fun (at' : Nat) => ({ time := s.block.lhTime, cls := 8, kind := 0, unit := u.number, detail := at' } : ErrRec)
  let counted := fun (t : Block) (at' : Nat) =>
          Tab.get 0 t.ctl.engine.ls.counters (e.val * 4 + 2) = (Tab.get 0 s.block.ctl.engine.ls.counters (e.val * 4 + 2) + 1) % 2 ^ 48 ∧
          t.ctl.health.history = s.block.ctl.health.history ++ [record at'] ∧ t.ctl.health.spares = s.block.ctl.health.spares
  ∃ (target : Nat) (l : LastLine),
  ((kind = .readBack target) ∧
  (c.last.find? (fun x => x.unit == target) = some l) ∧
  (l.retries < s.block.ctl.plan.retryOf e)) ∧
  (let j := s.block.lsInstr c.space c.prog l.instr
  (s.block.firstBad c.space [{ va := lsDesc c.prog j 8, len := 64, write := false }, { va := lsDesc c.prog j 12, len := 64, write := false }] = none) ∧
  (let src := s.block.readVa c.space (lsDesc c.prog j 8) 64
  let dst := s.block.readVa c.space (lsDesc c.prog j 12) 64
  let len := min tileBytes (streamLen dst - l.off)
  let at' : Channel := { c with instr := l.instr, iter := l.iter }
  (s.block.tileBad e ch at' j src dst l.off len = none))))) :=
  ⟨at' (lsAt 0 0 { chan0 with instr := 5, last := [{ unit := 1, addr := lg 0x20000, bytes := [1, 2, 3], instr := 0, iter := 0, off := 0, retries := 0 }] } (fieldsOf 16 [(0, 1, 1), (8, 1, 4), (12, 2, 4)])), 0, 0, .readBack 1, 5, { chan0 with instr := 5, last := [{ unit := 1, addr := lg 0x20000, bytes := [1, 2, 3], instr := 0, iter := 0, off := 0, retries := 0 }] }, by decide +kernel, by decide +kernel, 1, { unit := 1, addr := lg 0x20000, bytes := [1, 2, 3], instr := 0, iter := 0, off := 0, retries := 0 }, by decide +kernel, by decide +kernel, by decide +kernel⟩

theorem meets_ChannelMovesAndErrors_5 :
  ∃ (s : State) (e : Fin 40) (ch : Fin 32) (c : Channel) (x : Ctx),
  ((s.block.ctl.chan e ch = c) ∧
  (c.stop = true) ∧
  ((c.state = .haltedFault ∨ (c.state = .run ∧ (c.bound = true ∨ u8 (s.block.lsInstr c.space c.prog c.instr) 0 = 4)))) ∧
  (c.ctx < 4) ∧
  ((s.block.ctl.cove c.cove).ctx c.ctx = some x)) ∧
  (s.block.StaysInJob e ch) :=
  ⟨at' (lsAt 0 0 { chan0 with stop := true, state := .haltedFault } []), 0, 0, { chan0 with stop := true, state := .haltedFault }, { ctxOf (recOf opXfer []) 1 1 1 with begun := true }, by decide +kernel, Or.inl (by decide +kernel)⟩

theorem meets_ChannelMovesAndErrors_6 :
  ∃ (s : State) (e : Fin 40) (ch : Fin 32) (slot : Fin 8) (c : Channel) (i : Bytes),
  (s.block.Stands e ch 2 c i) ∧
  (32 ≤ e.val) ∧
  (slot.val ∈ mcastSlots c i) :=
  ⟨at' (member (lsAt 32 0 chan0 (fieldsOf 16 [(0, 2, 1), (3, 2, 1), (4, 77, 2), (8, 1, 4), (12, 2, 4)]))), 32, 0, 1, chan0, fieldsOf 16 [(0, 2, 1), (3, 2, 1), (4, 77, 2), (8, 1, 4), (12, 2, 4)], by simp only [Block.Stands]; decide +kernel⟩

/-! ### MemoryErrors -/

theorem meets_MemoryErrors_0 :
  ∃ (s : State) (l : BadLine) (u : UnitRef) (bs : Bytes),
  ((s.block.ctl.awake = true) ∧
  (l.outcome = .lost)) ∧
  ((∀ who, l.reader = some who → s.block.ctl.reads who = false)) ∧
  (let a := l.addr / 64 * 64
  (backed s.block.fuses.twoTiB a = true) ∧
  (s.block.lineUnit a l.row l.bank = some u) ∧
  ((s.block.backingLine a = some bs ∨ (s.block.backingLine a = none ∧ l.good = some bs))) ∧
  ((s.block.chargeTimes u).length < s.block.ctl.thresh)) :=
  ⟨at' (up .ready), { addr := lg 0x10008, outcome := .lost, row := 7, bank := 2, device := 0, good := some [1, 2], reader := none }, { cls := 1, number := 0, row := 7, bank := 2 }, [1, 2], by decide +kernel, (by intro _ h; cases h), by decide +kernel⟩

theorem meets_MemoryErrors_1 :
  ∃ (s : State) (l : BadLine) (who : Faulter),
  (s.block.ctl.awake = true) ∧
  (l.outcome = .lost) ∧
  (l.reader = some who) ∧
  (s.block.ctl.reads who = true) ∧
  (backed s.block.fuses.twoTiB (l.addr / 64 * 64) = true) :=
  ⟨at' (coveAt (some kern)), { addr := lg 0x10008, outcome := .lost, row := 7, bank := 2, device := 0, good := some [1, 2], reader := some (.context 0 0) }, .context 0 0, by decide +kernel⟩

theorem meets_MemoryErrors_2 :
  ∃ (s : State) (f : XFault) (l : BadLine) (u : UnitRef) (bs : Bytes),
  ((s.block.ctl.awake = true) ∧
  (s.block.ctl.fw.faults.find? (fun x => x.id == f.id) = some f) ∧
  (f.line = some l) ∧
  (s.block.ctl.halted f = true)) ∧
  ((∀ k, f.who ≠ .remote k)) ∧
  (let a := l.addr / 64 * 64
  (s.block.lineUnit a l.row l.bank = some u) ∧
  ((s.block.backingLine a = some bs ∨ (s.block.backingLine a = none ∧ l.good = some bs))) ∧
  ((s.block.chargeTimes u).length < s.block.ctl.thresh)) :=
  ⟨at' (faultedBy { id := 5, who := .context 0 0, vaddr := 0, write := false, second := false, line := some { addr := lg 0x10008, outcome := .lost, row := 7, bank := 2, device := 0, good := some [1, 2], reader := some (.context 0 0) } } (job .running ent3)), { id := 5, who := .context 0 0, vaddr := 0, write := false, second := false, line := some { addr := lg 0x10008, outcome := .lost, row := 7, bank := 2, device := 0, good := some [1, 2], reader := some (.context 0 0) } }, { addr := lg 0x10008, outcome := .lost, row := 7, bank := 2, device := 0, good := some [1, 2], reader := some (.context 0 0) }, { cls := 1, number := 0, row := 7, bank := 2 }, [1, 2], by decide +kernel, fun _ h => Faulter.noConfusion h, by decide +kernel⟩

theorem meets_MemoryErrors_3 :
  ∃ (s : State) (l : BadLine) (u : UnitRef),
  ((s.block.ctl.awake = true) ∧
  (l.outcome = .reread)) ∧
  (let a := l.addr / 64 * 64
  (backed s.block.fuses.twoTiB a = true) ∧
  (s.block.lineUnit a l.row l.bank = some u) ∧
  (u.cls = 1) ∧
  ((s.block.chargeTimes u).length < s.block.ctl.thresh)) :=
  ⟨at' (up .ready), { addr := lg 0x10008, outcome := .reread, row := 7, bank := 2, device := 0, good := some [1, 2], reader := none }, { cls := 1, number := 0, row := 7, bank := 2 }, by decide +kernel⟩

theorem meets_MemoryErrors_4 :
  ∃ (s : State) (l : BadLine) (u : UnitRef),
  (s.block.ctl.awake = true) ∧
  (l.outcome = .corrected) ∧
  (backed s.block.fuses.twoTiB (l.addr / 64 * 64) = true) ∧
  (s.block.lineUnit (l.addr / 64 * 64) l.row l.bank = some u) :=
  ⟨at' (up .ready), { addr := lg 0x10008, outcome := .corrected, row := 7, bank := 2, device := 0, good := some [1, 2], reader := none }, { cls := 1, number := 0, row := 7, bank := 2 }, by decide +kernel⟩

theorem meets_MemoryErrors_5 :
  ∃ (s : State) (line rank device : Nat) (u : UnitRef),
  (s.block.ctl.awake = true) ∧
  (((∃ die, region s.block.fuses.twoTiB (line * 64) = .hbm die) ∨ region s.block.fuses.twoTiB (line * 64) = .ddr)) ∧
  (s.block.lineUnit (line * 64) rank 0 = some u) :=
  ⟨at' ({ up .ready with lhTime := 10 }.withHealth fun h => { h with corrected := [(trendKey { cls := 4, number := 3, row := 0, bank := 0 } 0, List.replicate 3 5)] }), ddrBase / 64, 3, 0, { cls := 4, number := 3, row := 0, bank := 0 }, by decide +kernel, Or.inr rfl, by decide +kernel⟩

theorem meets_MemoryErrors_5_half :
  ∃ (s : State) (line rank device : Nat) (u : UnitRef),
  (s.block.ctl.awake = true) ∧
  (((∃ die, region s.block.fuses.twoTiB (line * 64) = .hbm die) ∨ region s.block.fuses.twoTiB (line * 64) = .ddr)) ∧
  (s.block.lineUnit (line * 64) rank 0 = some u) :=
  ⟨at' ({ up .ready with lhTime := 10 }.withHealth fun h => { h with corrected := [(trendKey { cls := 4, number := 3, row := 0, bank := 0 } 0, List.replicate 17 5)] }), ddrBase / 64, 3, 0, { cls := 4, number := 3, row := 0, bank := 0 }, by decide +kernel, Or.inr rfl, by decide +kernel⟩

theorem meets_MemoryErrors_5_limit :
  ∃ (s : State) (line rank device : Nat) (u : UnitRef),
  (s.block.ctl.awake = true) ∧
  (((∃ die, region s.block.fuses.twoTiB (line * 64) = .hbm die) ∨ region s.block.fuses.twoTiB (line * 64) = .ddr)) ∧
  (s.block.lineUnit (line * 64) rank 0 = some u) :=
  ⟨at' ({ up .ready with lhTime := 10 }.withHealth fun h => { h with corrected := [(trendKey { cls := 4, number := 3, row := 0, bank := 0 } 0, List.replicate 32 5)] }), ddrBase / 64, 3, 0, { cls := 4, number := 3, row := 0, bank := 0 }, by decide +kernel, Or.inr rfl, by decide +kernel⟩

theorem meets_MemoryErrors_6 :
  ∃ (s : State) (below : List UnitRef),
  (s.block.ctl.awake = true) :=
  ⟨at' (up .ready), [{ cls := 4, number := 3, row := 0, bank := 0 }], by decide +kernel⟩

theorem meets_MemoryErrors_7 :
  ∃ s : State,
  (s.block.ctl.health.hour ≠ []) ∧
  (s.block.ctl.health.hourAt + hourNs ≤ s.block.lhTime) :=
  ⟨at' ({ up .ready with lhTime := 3600000000005 }.withHealth fun h => { h with hour := [(unitKey { cls := 4, number := 3, row := 0, bank := 0 }, 3)], hourAt := 5 }), by decide +kernel⟩

/-! ### Retirements -/

theorem meets_Retirements_0 :
  ∃ (s : State) (cove : Fin 544) (c : Nat),
  let u : UnitRef := { cls := 0, number := cove.val, row := 0, bank := 0 }
  (s.block.ctl.awake = true) ∧
  (s.block.ctl.health.spares.badCoves.contains cove.val = false) ∧
  (s.block.ctl.health.spares.logicalOf cove.val = some c) ∧
  ((s.block.chargeTimes u).length < s.block.ctl.thresh) :=
  ⟨at' (coveAt (some kern)), 0, 0, by decide +kernel⟩

theorem meets_Retirements_1 :
  ∃ (s : State) (cove : Fin 544) (c : Nat),
  (s.block.ctl.awake = true) ∧
  (s.block.ctl.health.spares.badCoves.contains cove.val = false) ∧
  ((∀ q ∈ s.block.ctl.health.spares.badCoves, bayOf q ≠ bayOf cove.val)) ∧
  (s.block.ctl.health.spares.logicalOf cove.val = some c) :=
  ⟨at' (coveAt (some kern)), 0, 0, by decide +kernel⟩

theorem meets_Retirements_2 :
  ∃ (s : State) (u : UnitRef) (reason : Nat),
  (s.block.ctl.job.pass = none) ∧
  (s.block.ctl.health.planned.find? (fun p => p.1 == u) = some (u, reason)) ∧
  (u.cls = 4) ∧
  (s.block.ctl.health.spares.ddr.contains u.number = false) :=
  ⟨at' ((up .ready).withHealth fun h => { h with planned := [({ cls := 4, number := 3, row := 0, bank := 0 }, 2)] }), { cls := 4, number := 3, row := 0, bank := 0 }, 2, by decide +kernel⟩

theorem meets_Retirements_3 :
  ∃ (s : State) (stack : Fin 8) (u reason : Nat),
  (s.block.ctl.health.copying.find? (fun x => x.1 / 32 == stack.val) = some (u, reason)) :=
  ⟨at' ((up .ready).withHealth fun h => { h with copying := [(37, 1)] }), 1, 37, 1, by decide +kernel⟩

theorem meets_Retirements_4 :
  ∃ (s : State) (core : Fin 8),
  (s.block.ctl.awake = true) ∧
  ((∀ x ∈ s.block.ctl.health.spares.cores, x / 4 ≠ core.val / 4)) :=
  ⟨at' (up .ready), 5, by decide +kernel⟩

theorem meets_Retirements_5 :
  ∃ s : State,
  (s.block.ctl.awake = true) ∧
  (s.block.ctl.storeTaken = true) ∧
  (s.block.ctl.health.wanted = true) :=
  ⟨at' ((up .ready).withHealth fun h => { h with wanted := true }), by decide +kernel⟩

/-! ### LinksTrain -/

theorem meets_LinksTrain_0 :
  ∃ (s : State) (n : Fin 96) (k : Fin 10),
  (s.block.mayTrain n.val = true) :=
  ⟨at' (up .ready), 90, 2, by decide +kernel⟩

theorem meets_LinksTrain_1 :
  ∃ (s : State) (n : Fin 96) (r : IdRec),
  (s.block.mayTrain n.val = true) :=
  ⟨at' (up .ready), 90, { serial := 77, port := 0, slot := 3, verMin := 1, verMax := 2, fabric := 0, rank := 0xFFFF, role := 0, transit := 0 }, by decide +kernel⟩

theorem meets_LinksTrain_2 :
  ∃ (s : State) (n : Fin 96),
  let l := s.block.ctl.link n.val
  (s.block.ctl.linksAlive = true) ∧
  (l.disable = false) ∧
  (l.state = .down) ∧
  (l.retryAt ≠ 0) ∧
  (l.retryAt ≤ s.block.lhTime) :=
  ⟨at' ({ up .ready with lhTime := 10 }.withLink 90 fun l => { l with retryAt := 10 }), 90, by decide +kernel⟩

theorem meets_LinksTrain_3 :
  ∃ (s : State) (n : Fin 96) (r : IdRec),
  ((s.block.ctl.link n.val).state = .quarantined) ∧
  (s.block.judge n.val r = .up) ∧
  (s.block.ctl.links.fabric.passOf n.val = none) :=
  ⟨at' ((up .ready).withLink 90 fun l => { l with state := .quarantined }), 90, { serial := 77, port := 0, slot := 3, verMin := 1, verMax := 2, fabric := 0, rank := 0xFFFF, role := 0, transit := 0 }, by decide +kernel⟩

theorem meets_LinksTrain_4 :
  ∃ (s : State) (n : Fin 96) (r : IdRec) (p : PassEntry) (m : Nat),
  ((s.block.ctl.link n.val).state = .pass) ∧
  (s.block.judge n.val r = .pass) ∧
  (s.block.ctl.links.fabric.passOf n.val = some (p, m)) ∧
  ((s.block.ctl.link m).state = .pass) :=
  ⟨at' ((fun b : Block => ({ b with ctl := { b.ctl with links := { b.ctl.links with fabric := { b.ctl.links.fabric with passes := [{ a := 90, b := 91, foreign := 1 }] } } } } : Block)) (((up .ready).withLink 90 fun l => { l with state := .pass }).withLink 91 fun l => { l with state := .pass })), 90, { serial := 77, port := 0, slot := 3, verMin := 1, verMax := 2, fabric := 0, rank := 0xFFFF, role := 0, transit := 0 }, { a := 90, b := 91, foreign := 1 }, 91, by decide +kernel⟩

theorem meets_LinksTrain_5 :
  ∃ (s : State) (n : Fin 96) (v : BitVec 64),
  (s.block.ctl.mayWriteCommon false = true) ∧
  (v.getLsbD 0 = true) ∧
  (s.block.ctl.SafeToLose n.val) :=
  ⟨at' ((up .ready).withLink 90 fun l => { l with state := .up, lanes := 4 }), 90, 1, by simp only [Ctl.SafeToLose]; decide +kernel⟩

theorem meets_LinksTrain_6 :
  ∃ (s : State) (n : Fin 96) (v : BitVec 64),
  (s.block.ctl.mayWriteCommon false = true) ∧
  (v.getLsbD 0 = false) ∧
  (v.getLsbD 1 = false) ∧
  ((s.block.ctl.link n.val).state = .disabled) :=
  ⟨at' ((up .ready).withLink 90 fun l => { l with state := .disabled, disable := true }), 90, 0, by decide +kernel⟩

theorem meets_LinksTrain_7 :
  ∃ (s : State) (n : Fin 96) (v : BitVec 64),
  (s.block.ctl.mayWriteCommon false = true) ∧
  (v.getLsbD 0 = false) ∧
  (v.getLsbD 1 = true) ∧
  (s.block.ctl.SafeToLose n.val) :=
  ⟨at' ((up .ready).withLink 90 fun l => { l with state := .up, lanes := 4 }), 90, 2, by simp only [Ctl.SafeToLose]; decide +kernel⟩

/-! ### FlitsLanesAndCages -/

theorem meets_FlitsLanesAndCages_0 :
  ∃ (s : State) (n : Fin 96) (f : Bytes) (fecOk : Bool),
  (s.block.ctl.linksAlive = true) ∧
  ((s.block.ctl.link n.val).state.carries = true) ∧
  (flitOk f fecOk = false) :=
  ⟨at' ((up .ready).withLink 90 fun l => { l with state := .up, lanes := 4 }), 90, mkFlit { vc := 1, first := true, last := true, seq := 1, ack := 0, cvc := 7, cnt := 0, nak := false } [5], false, by decide +kernel⟩

theorem meets_FlitsLanesAndCages_1 :
  ∃ (s : State) (n : Fin 96) (f : Bytes) (peer : IdRec),
  let l := s.block.ctl.link n.val
  let h := flitHead f
  ((s.block.ctl.linksAlive = true) ∧
  (l.state = .up) ∧
  (l.peer = some peer)) ∧
  (flitOk f true = true) ∧
  ((h.vc ≠ 7) ∧
  (h.nak = false) ∧
  (l.waiting = []) ∧
  (h.seq = (l.rxSeq + 1).toNat) ∧
  (l.unacked + 1 < 32) ∧
  (s.block.ctl.power.state ≠ .idle) ∧
  (s.block.ctl.delivers n.val h.vc = true)) ∧
  (let k := if h.cvc < 6 then l.credit h.cvc h.cnt else l
  let m : Link := { k with replayBuf := l.replayBuf.filter (fun x => !covered x.seq h.ack), rxSeq := l.rxSeq + 1, unacked := l.unacked + 1,
                               held := l.held.set h.vc (l.held.getD h.vc 0 + 1) }
  let key := bundleKey peer.serial h.vc
  (h.last = false)) :=
  ⟨at' ((up .ready).withLink 90 fun l => { l with state := .up, lanes := 4, peer := some { serial := 77, port := 0, slot := 3, verMin := 1, verMax := 2, fabric := 0, rank := 0xFFFF, role := 0, transit := 0 } }), 90, mkFlit { vc := 1, first := true, last := false, seq := 1, ack := 0, cvc := 7, cnt := 0, nak := false } [5], { serial := 77, port := 0, slot := 3, verMin := 1, verMax := 2, fabric := 0, rank := 0xFFFF, role := 0, transit := 0 }, by decide +kernel, (flitOk_mkFlit _ _).trans (by decide), by decide +kernel, by decide +kernel⟩

theorem meets_FlitsLanesAndCages_2 :
  ∃ (s : State) (n : Fin 96) (f : Bytes) (peer : IdRec),
  let l := s.block.ctl.link n.val
  let h := flitHead f
  ((s.block.ctl.linksAlive = true) ∧
  (l.state = .up) ∧
  (l.peer = some peer)) ∧
  (flitOk f true = true) ∧
  ((h.vc ≠ 7) ∧
  (h.nak = false) ∧
  (l.waiting = []) ∧
  (h.seq = (l.rxSeq + 1).toNat) ∧
  (l.unacked + 1 < 32) ∧
  (s.block.ctl.power.state ≠ .idle) ∧
  (s.block.ctl.delivers n.val h.vc = true)) ∧
  (let k := if h.cvc < 6 then l.credit h.cvc h.cnt else l
  let m : Link := { k with replayBuf := l.replayBuf.filter (fun x => !covered x.seq h.ack), rxSeq := l.rxSeq + 1, unacked := l.unacked + 1,
                               held := l.held.set h.vc (l.held.getD h.vc 0 + 1) }
  let key := bundleKey peer.serial h.vc
  (h.last = true)) :=
  ⟨at' ((up .ready).withLink 90 fun l => { l with state := .up, lanes := 4, peer := some { serial := 77, port := 0, slot := 3, verMin := 1, verMax := 2, fabric := 0, rank := 0xFFFF, role := 0, transit := 0 } }), 90, mkFlit { vc := 1, first := true, last := true, seq := 1, ack := 0, cvc := 7, cnt := 0, nak := false } [5], { serial := 77, port := 0, slot := 3, verMin := 1, verMax := 2, fabric := 0, rank := 0xFFFF, role := 0, transit := 0 }, by decide +kernel, (flitOk_mkFlit _ _).trans (by decide), by decide +kernel, by decide +kernel⟩

theorem meets_FlitsLanesAndCages_3 :
  ∃ (s : State) (n : Fin 96),
  (s.block.ctl.linksAlive = true) ∧
  ((s.block.ctl.link n.val).state.carries = true) ∧
  (0 < (s.block.ctl.link n.val).unacked) :=
  ⟨at' ((up .ready).withLink 90 fun l => { l with state := .up, lanes := 4, unacked := 3 }), 90, by decide +kernel⟩

theorem meets_FlitsLanesAndCages_4 :
  ∃ (s : State) (m : GapNotice),
  (m.lost ≠ []) :=
  ⟨at' (up .ready), { peer := 2, vc := 1, lost := [4, 7] }, by decide +kernel⟩

theorem meets_FlitsLanesAndCages_5 :
  ∃ (s : State) (n : Fin 96) (lane : Fin 5),
  let l := s.block.ctl.link n.val
  let r := l.retired ||| BitVec.ofNat 5 (2 ^ lane.val)
  (s.block.ctl.linksAlive = true) ∧
  (l.state.carries = true) ∧
  (l.retired.getLsbD lane.val = false) ∧
  ((n.val < 56 ∨ lane.val < 4)) ∧
  (lanesOf n.val r ≠ 0) ∧
  ((∀ x ∈ l.replayBuf, x.replays + 1 < 8)) :=
  ⟨at' ((up .ready).withLink 90 fun l => { l with state := .up, lanes := 4, replayBuf := [{ seq := 1, flit := { vc := 1, first := true, last := true, load := .passed [5] }, replays := 6 }] }), 90, 1, by decide +kernel⟩

theorem meets_FlitsLanesAndCages_6 :
  ∃ (s : State) (n : Fin 96) (lanes : List (Fin 5)),
  let l := s.block.ctl.link n.val
  (s.block.ctl.linksAlive = true) ∧
  (l.state.carries = true) ∧
  (s.block.ctl.SafeToLose n.val) ∧
  ((∃ i : Fin 5, l.retired.getLsbD i.val = false ∧ (n.val < 56 ∨ i.val < 4))) ∧
  ((∀ i : Fin 5, l.retired.getLsbD i.val = false → (n.val < 56 ∨ i.val < 4) → i ∈ lanes)) :=
  ⟨at' ((up .ready).withLink 90 fun l => { l with state := .up, lanes := 4 }), 90, [0, 1, 2, 3], by simp only [Ctl.SafeToLose]; decide +kernel⟩

theorem meets_FlitsLanesAndCages_7 :
  ∃ (s : State) (cage : Fin 20) (r : CageReading),
  ((s.block.ctl.linksAlive = true) ∧
  (r.present = true) ∧
  (r.drawW ≤ 16) ∧
  ((r.passiveCu = true ∨ (r.declaredW ≤ 16 ∧ r.suitable = true ∧ r.alarm = false)))) ∧
  (let b : Block := { s.block with ctl := { s.block.ctl with links :=
        { s.block.ctl.links with cages := Tab.set none s.block.ctl.links.cages cage.val (some r) } } }
  ((Tab.get (none : Option CageReading) s.block.ctl.links.cages cage.val).isSome = true)) :=
  ⟨at' ((fun b : Block => ({ b with ctl := { b.ctl with links := { b.ctl.links with cages := [(3, some ({ present := true, passiveCu := false, declaredW := 12, drawW := 9, suitable := true, alarm := false }))] } } } : Block)) (up .ready)), 3, { present := true, passiveCu := false, declaredW := 12, drawW := 11, suitable := true, alarm := false }, by decide +kernel⟩

theorem meets_FlitsLanesAndCages_8 :
  ∃ (s : State) (cage : Fin 20) (r : CageReading),
  (s.block.ctl.linksAlive = true) ∧
  (r.present = true) ∧
  (r.drawW ≤ 16) ∧
  ((r.passiveCu = true ∨ (r.declaredW ≤ 16 ∧ r.suitable = true ∧ r.alarm = false))) :=
  ⟨at' (up .ready), 3, { present := true, passiveCu := false, declaredW := 12, drawW := 11, suitable := true, alarm := false }, by decide +kernel⟩

theorem meets_FlitsLanesAndCages_9 :
  ∃ (s : State) (cage : Fin 20) (r : CageReading),
  (s.block.ctl.linksAlive = true) ∧
  (r.present = true) ∧
  (16 < r.drawW) ∧
  (r.passiveCu = true) ∧
  (s.block.ctl.pins.cageFeed.getLsbD cage.val = true) ∧
  ((s.block.ctl.link (56 + 2 * cage.val)).state = .down) ∧
  ((s.block.ctl.link (57 + 2 * cage.val)).state = .down) :=
  ⟨at' ((up .ready).withPins fun p => { p with cageFeed := 0xFFFFF }), 3, { present := true, passiveCu := true, declaredW := 12, drawW := 17, suitable := true, alarm := false }, by decide +kernel⟩

/-! ### PowerAndRemoval -/

theorem meets_PowerAndRemoval_0 :
  ∃ (s : State) (r : PowerReading),
  (s.block.ctl.powered = true) ∧
  (let p : Power := { s.block.ctl.power with inputMv := r.inputMv, inputW := r.inputW, packageW := r.packageW }
  (p.exceeded = [])) :=
  ⟨at' (up .ready), { inputMv := 54000, inputW := 1000, packageW := 900 }, by decide +kernel⟩

theorem meets_PowerAndRemoval_1 :
  ∃ (s : State) (r : PowerReading),
  (s.block.ctl.powered = true) ∧
  (let p : Power := { s.block.ctl.power with inputMv := r.inputMv, inputW := r.inputW, packageW := r.packageW }
  ∃ k limit measured,
  (p.exceeded = [(k, limit, measured)]) ∧
  (due (Tab.get 0 p.limitedAt k) s.block.lhTime = true)) :=
  ⟨at' (up .ready), { inputMv := 54000, inputW := 3000, packageW := 900 }, by decide +kernel, 1, 2900, 3000, by decide +kernel⟩

theorem meets_PowerAndRemoval_2 :
  ∃ (s : State) (sensor : Fin 18) (v : BitVec 16) (warn : Int) (limit trip : Option Int),
  (s.block.ctl.powered = true) ∧
  (thresholds sensor.val = some (warn, limit, trip)) ∧
  (v.toInt < warn ∨ (sensor.val = 16 ∧ v.toInt = warn)) :=
  ⟨at' (up .ready), 9, 1000, 85 * 16, some (95 * 16), some (105 * 16), by decide +kernel⟩

theorem meets_PowerAndRemoval_3 :
  ∃ (s : State) (sensor : Fin 18) (v : BitVec 16) (warn : Int) (limit trip : Option Int),
  (s.block.ctl.powered = true) ∧
  (thresholds sensor.val = some (warn, limit, trip)) ∧
  (warn < v.toInt ∨ (sensor.val ≠ 16 ∧ v.toInt = warn)) ∧
  ((∀ l, limit = some l → v.toInt < l)) ∧
  ((∀ x, trip = some x → v.toInt < x)) ∧
  (due (Tab.get 0 s.block.ctl.power.warnedAt (2 * sensor.val)) s.block.lhTime = true) :=
  ⟨at' (up .ready), 9, 1400, 85 * 16, some (95 * 16), some (105 * 16), by decide +kernel⟩

theorem meets_PowerAndRemoval_4 :
  ∃ (s : State) (sensor : Fin 18) (v : BitVec 16) (warn : Int) (limit trip : Option Int),
  ((s.block.ctl.powered = true) ∧
  (thresholds sensor.val = some (warn, limit, trip))) ∧
  (∃ x,
  (trip = some x) ∧
  (x ≤ v.toInt)) :=
  ⟨at' (up .ready), 9, 1690, 85 * 16, some (95 * 16), some (105 * 16), by decide +kernel, 105 * 16, by decide +kernel⟩

theorem meets_PowerAndRemoval_5 :
  ∃ s : State,
  (s.block.ctl.power.state ≠ .off) ∧
  (s.block.ctl.glb.tripped = false) :=
  ⟨at' (job .running openEnt), by decide +kernel⟩

theorem meets_PowerAndRemoval_6 :
  ∃ s : State,
  ((s.block.ctl.power.state = .run ∨ s.block.ctl.power.state = .idle)) :=
  ⟨at' (job .running openEnt), by decide +kernel⟩

theorem meets_PowerAndRemoval_7 :
  ∃ s : State,
  (s.block.ctl.MayRemove) ∧
  (s.block.ctl.mayWriteCommon false = true) :=
  ⟨at' (up .loaded), by simp only [Ctl.MayRemove]; decide +kernel⟩

theorem meets_PowerAndRemoval_8 :
  ∃ s : State,
  (s.block.ctl.MayRemove) :=
  ⟨at' (up .loaded), by simp only [Ctl.MayRemove]; decide +kernel⟩

theorem meets_PowerAndRemoval_9 :
  ∃ (s : State) (r : Removal),
  (s.block.ctl.power.removal = some r) :=
  ⟨at' ((up .running).withPower fun p => { p with removal := some ({ source := 1, since := 5, draining := true }) }), { source := 1, since := 5, draining := true }, by decide +kernel⟩

theorem meets_PowerAndRemoval_10 :
  ∃ (s : State) (r : Removal),
  (s.block.ctl.power.removal = some r) :=
  ⟨at' ((up .running).withPower fun p => { p with removal := some ({ source := 1, since := 5, draining := true }) }), { source := 1, since := 5, draining := true }, by decide +kernel⟩

theorem meets_PowerAndRemoval_11 :
  ∃ (s : State) (r : Removal),
  (s.block.ctl.power.removal = some r) ∧
  (s.block.ctl.glb.state = .draining) ∧
  (s.block.ctl.pins.removeOk = false) ∧
  ((r.draining = true ∨ s.block.ctl.pair.role = .bound)) ∧
  (r.since + 10000000000 ≤ s.block.lhTime) :=
  ⟨at' ({ job .draining openEnt with lhTime := 10000000005 }.withPower fun p => { p with removal := some ({ source := 1, since := 5, draining := true }) }), { source := 1, since := 5, draining := true }, by decide +kernel⟩

/-! ### LighthouseFlags -/

theorem meets_LighthouseFlags_0 :
  ∃ s : State,
  (s.block.ctl.StaysPut flagWakeIn) :=
  ⟨at' (up .ready), by simp only [Ctl.StaysPut]; decide +kernel⟩

theorem meets_LighthouseFlags_1 :
  ∃ (s : State) (die : Fin 2),
  (s.block.ctl.StaysPut flagTemp) :=
  ⟨at' (up .ready), 1, by simp only [Ctl.StaysPut]; decide +kernel⟩

theorem meets_LighthouseFlags_2 :
  ∃ s : State,
  (s.block.ctl.StaysPut flagV54) ∧
  (s.block.ctl.pins.v54 = false) :=
  ⟨at' ((up .ready).withPins fun p => { p with v54 := false }), by simp only [Ctl.StaysPut]; decide +kernel⟩

theorem meets_LighthouseFlags_3 :
  ∃ s : State,
  (s.block.ctl.WakesOn flagWakeIn) :=
  ⟨at' ((up .ready).withPower fun p => { p with state := .standby }), by simp only [Ctl.WakesOn]; decide +kernel⟩

theorem meets_LighthouseFlags_4 :
  ∃ (s : State) (die : Fin 2),
  (s.block.ctl.WakesOn flagTemp) :=
  ⟨at' ((up .ready).withPower fun p => { p with state := .standby }), 1, by simp only [Ctl.WakesOn]; decide +kernel⟩

theorem meets_LighthouseFlags_5 :
  ∃ s : State,
  (s.block.ctl.WakesOn flagV54) :=
  ⟨at' ((up .ready).withPower fun p => { p with state := .standby }), by simp only [Ctl.WakesOn]; decide +kernel⟩

theorem meets_LighthouseFlags_6 :
  ∃ (s : State) (port : Fin 2) (bar2 : Fin 10),
  (s.block.ctl.WakesOn flagPcie) ∧
  (s.block.ctl.hasPort (port == 1) = true) ∧
  ((if port = 1 then s.block.ctl.pins.perst1 else s.block.ctl.pins.perst0) = true) :=
  ⟨at' (((up .ready).withPower fun p => { p with state := .standby }).withPins fun p => { p with perst0 := true }), 0, 9, by simp only [Ctl.WakesOn]; decide +kernel⟩

theorem meets_LighthouseFlags_7 :
  ∃ (s : State) (port : Fin 2) (bar2 : Fin 10),
  (s.block.ctl.power.state ≠ .standby) ∧
  (s.block.ctl.hasPort (port == 1) = true) :=
  ⟨at' ((up .ready).withPins fun p => { p with perst0 := true }), 0, 0, by decide +kernel⟩

theorem meets_LighthouseFlags_8 :
  ∃ (s : State) (which : Fin 2),
  let cmp := if which = 1 then s.block.ctl.lh.cmp1 else s.block.ctl.lh.cmp0
  (cmp ≠ 0) ∧
  (cmp.toNat ≤ s.block.lhTime) ∧
  ((if which = 1 then s.block.ctl.lh.fired1 else s.block.ctl.lh.fired0) = false) ∧
  (s.block.ctl.StaysPut which.val) :=
  ⟨at' ({ up .ready with lhTime := 100 }.withLh fun h => { h with cmp1 := 100 }), 1, by simp only [Ctl.StaysPut]; decide +kernel⟩

theorem meets_LighthouseFlags_9 :
  ∃ (s : State) (which : Fin 2) (v : BitVec 64),
  (s.block.ctl.mayWriteCommon false = true) ∧
  ((v = 0 ∨ s.block.lhTime < v.toNat)) :=
  ⟨at' { up .ready with lhTime := 100 }, 1, 101, by decide +kernel⟩

theorem meets_LighthouseFlags_10 :
  ∃ (s : State) (which : Fin 2) (v : BitVec 64),
  (s.block.ctl.mayWriteCommon false = true) ∧
  (v ≠ 0) ∧
  (v.toNat ≤ s.block.lhTime) :=
  ⟨at' { up .ready with lhTime := 100 }, 1, 100, by decide +kernel⟩

theorem meets_LighthouseFlags_11 :
  ∃ (s : State) (v : BitVec 64),
  (s.block.ctl.mayWriteCommon false = true) :=
  ⟨at' ((up .ready).withLh fun h => { h with flags := 0x14 }), 0x10, by decide +kernel⟩

theorem meets_LighthouseFlags_12 :
  ∃ (s : State) (v : BitVec 64),
  (s.block.ctl.mayWriteCommon false = true) :=
  ⟨at' ((up .ready).withLh fun h => { h with flags := 0x14 }), 0x10, by decide +kernel⟩

theorem meets_LighthouseFlags_13 :
  ∃ (s : State) (n : Fin 96) (v : BitVec 64) (landing : BitVec 8),
  (s.block.ctl.mayWriteCommon false = true) :=
  ⟨at' ((up .ready).withLink 90 fun l => { l with changed := true }), 90, 0x1000000, 1, by decide +kernel⟩

/-! ### Resets -/

theorem meets_Resets_0 :
  ∃ (s : State) (cause : WarmCause),
  ((s.block.ctl.power.state = .run ∨ s.block.ctl.power.state = .idle)) ∧
  (s.block.ctl.glb.tripped = false) ∧
  (s.block.ctl.pins.v54 = true) :=
  ⟨at' (job .running openEnt), .hotReset, by decide +kernel⟩

theorem meets_Resets_1 :
  ∃ (s : State) (port : Fin 2),
  (s.block.ctl.hasPort (port == 1) = true) ∧
  (s.block.ctl.glb.pcieUp = true) :=
  ⟨at' (ringUp (up .ready) 3), 0, by decide +kernel⟩

theorem meets_Resets_2 :
  ∃ s : State,
  (s.block.ctl.glb.dualPort = true) ∧
  (s.block.ctl.glb.pcieUp = true) :=
  ⟨at' ((up .ready).withGlb fun g => { g with dualPort := true }), by decide +kernel⟩

theorem meets_Resets_3 :
  ∃ s : State,
  (s.block.ctl.power.state = .off) :=
  ⟨at' (Block.reset.withPower fun p => { p with state := .off }), by decide +kernel⟩

theorem meets_Resets_4 :
  ∃ s : State,
  (s.block.ctl.power.state ≠ .off) :=
  ⟨at' (up .ready), by decide +kernel⟩

/-! ### StartsUp -/

theorem meets_StartsUp_0 :
  ∃ s : State,
  (s.block.ctl.power.state ≠ .off) ∧
  (s.block.ctl.pins.presence = false) :=
  ⟨State.reset, by decide +kernel⟩

theorem meets_StartsUp_1 :
  ∃ s : State,
  (s.block.ctl.power.state ≠ .off) ∧
  (s.block.ctl.pins.v54 = true) :=
  ⟨at' (up .boot), by decide +kernel⟩

theorem meets_StartsUp_2 :
  ∃ (s : State) (env : StartEnv),
  ((s.block.ctl.pins.aux = true) ∧
  (s.block.ctl.pins.v54 = true) ∧
  (s.block.ctl.pins.prechargeOk = true) ∧
  (s.block.ctl.power.state = .run) ∧
  (s.block.ctl.starting = true) ∧
  (env.trip = false)) ∧
  (let b := s.block.withPins fun p => { p with mainEn := true }
  (s.block.ctl.glb.step ≤ 3) ∧
  (3 ≤ env.reached) ∧
  (env.regulators = false)) :=
  ⟨at' ((up .boot).withGlb fun g => { g with step := 2 }), { regulators := false, identityOk := true, dimms := List.replicate 8 (some { mrdimm := false, gib := 128, mts := 6400 }), ddrFail := none, hbmFail := [], selfTest := [], trip := false, reached := 11 }, by decide +kernel⟩

theorem meets_StartsUp_3 :
  ∃ (s : State) (env : StartEnv),
  ((s.block.ctl.pins.aux = true) ∧
  (s.block.ctl.pins.v54 = true) ∧
  (s.block.ctl.pins.prechargeOk = true) ∧
  (s.block.ctl.power.state = .run) ∧
  (s.block.ctl.starting = true) ∧
  (env.trip = false)) ∧
  (let b := s.block.withPins fun p => { p with mainEn := true }
  (s.block.ctl.glb.step ≤ 3) ∧
  (5 ≤ env.reached) ∧
  (env.regulators = true) ∧
  (s.block.bankOk false = false) ∧
  (s.block.bankOk true = false)) :=
  ⟨at' ((up .boot).withGlb fun g => { g with step := 2 }), { regulators := true, identityOk := true, dimms := List.replicate 8 (some { mrdimm := false, gib := 128, mts := 6400 }), ddrFail := none, hbmFail := [], selfTest := [], trip := false, reached := 11 }, by decide +kernel⟩

theorem meets_StartsUp_4 :
  ∃ (s : State) (env : StartEnv),
  ((s.block.ctl.pins.aux = true) ∧
  (s.block.ctl.pins.v54 = true) ∧
  (s.block.ctl.pins.prechargeOk = true) ∧
  (s.block.ctl.power.state = .run) ∧
  (s.block.ctl.starting = true) ∧
  (env.trip = false)) ∧
  (let b := s.block.withPins fun p => { p with mainEn := true }
  ∃ k u,
  (s.block.ctl.glb.step = 6) ∧
  (7 ≤ env.reached) ∧
  (ddrFinding s.block.fuses.twoTiB env = some (k, u))) :=
  ⟨at' ((up .boot).withGlb fun g => { g with step := 6 }), { regulators := true, identityOk := true, dimms := List.replicate 8 (some { mrdimm := false, gib := 64, mts := 6400 }), ddrFail := none, hbmFail := [], selfTest := [], trip := false, reached := 11 }, by decide +kernel, 0x07, 0, by decide +kernel⟩

theorem meets_StartsUp_5 :
  ∃ (s : State) (env : StartEnv),
  ((s.block.ctl.pins.aux = true) ∧
  (s.block.ctl.pins.v54 = true) ∧
  (s.block.ctl.pins.prechargeOk = true) ∧
  (s.block.ctl.power.state = .run) ∧
  (s.block.ctl.starting = true) ∧
  (env.trip = false)) ∧
  (let b := s.block.withPins fun p => { p with mainEn := true }
  ∃ (d : Dimm),
  (s.block.ctl.glb.step = 6) ∧
  (env.reached = 7) ∧
  (ddrFinding s.block.fuses.twoTiB env = none) ∧
  (env.hbmFail = []) ∧
  (env.dimms.getD 0 none = some d)) :=
  ⟨at' ((up .boot).withGlb fun g => { g with step := 6 }), { regulators := true, identityOk := true, dimms := List.replicate 8 (some { mrdimm := false, gib := 256, mts := 6400 }), ddrFail := none, hbmFail := [], selfTest := [], trip := false, reached := 7 }, by decide +kernel, { mrdimm := false, gib := 256, mts := 6400 }, by decide +kernel⟩

theorem meets_StartsUp_6 :
  ∃ (s : State) (env : StartEnv),
  ((s.block.ctl.pins.aux = true) ∧
  (s.block.ctl.pins.v54 = true) ∧
  (s.block.ctl.pins.prechargeOk = true) ∧
  (s.block.ctl.power.state = .run) ∧
  (s.block.ctl.starting = true) ∧
  (env.trip = false)) ∧
  (let b := s.block.withPins fun p => { p with mainEn := true }
  (8 ≤ s.block.ctl.glb.step) ∧
  (s.block.ctl.glb.step ≤ 10) ∧
  (11 ≤ env.reached) ∧
  (s.block.ctl.power.removal = none)) :=
  ⟨at' ((up .boot).withGlb fun g => { g with step := 8 }), { regulators := true, identityOk := true, dimms := List.replicate 8 (some { mrdimm := false, gib := 128, mts := 6400 }), ddrFail := none, hbmFail := [], selfTest := [], trip := false, reached := 11 }, by decide +kernel⟩

theorem meets_StartsUp_7 :
  ∃ s : State,
  (s.block.ctl.starting = true) ∧
  (s.block.ctl.power.state = .run) ∧
  (s.block.ctl.glb.startedAt + 12000000000 ≤ s.block.lhTime) :=
  ⟨at' { (up .boot).withGlb (fun g => { g with step := 2, startedAt := 5 }) with lhTime := 12000000005 }, by decide +kernel⟩

/-! ### RegistersAndDebug -/

theorem meets_RegistersAndDebug_0 :
  ∃ (s : State) (v : BitVec 2),
  (s.block.ctl.mayWriteCommon false = true) ∧
  (s.block.ctl.glb.state = .boot) ∧
  (v ≠ 3) :=
  ⟨at' (up .boot), 2, by decide +kernel⟩

theorem meets_RegistersAndDebug_1 :
  ∃ (s : State) (v : BitVec 2),
  (s.block.ctl.mayWriteCommon false = true) ∧
  ((s.block.ctl.glb.state ≠ .boot ∨ v = 3)) :=
  ⟨at' (up .boot), 3, by decide +kernel⟩

theorem meets_RegistersAndDebug_2 :
  ∃ (s : State) (v : BitVec 64),
  (s.block.ctl.mayWriteCommon false = true) :=
  ⟨at' (up .ready), 0x123456780007, by decide +kernel⟩

theorem meets_RegistersAndDebug_3 :
  ∃ (s : State) (level : BitVec 2),
  (s.block.ctl.mayWriteCommon false = true) ∧
  ((level = 1 ∨ level = 2)) ∧
  (s.block.ctl.sec.fails < 3) :=
  ⟨at' (up .ready), 2, by decide +kernel⟩

theorem meets_RegistersAndDebug_4 :
  ∃ s : State,
  (s.block.ctl.mayWriteCommon false = true) ∧
  (let c := s.block.ctl.sec
  let failed := fun r => s.block.withSec fun c => { c with result := r, pending := 0, fails := c.fails + 1 }
  (c.pending = 0)) :=
  ⟨at' ({ up .ready with lhTime := 10 }.withSec fun c => { c with pending := 0, nonceAt := 5 }), by decide +kernel⟩

theorem meets_RegistersAndDebug_5 :
  ∃ s : State,
  (s.block.ctl.mayWriteCommon false = true) ∧
  (let c := s.block.ctl.sec
  let failed := fun r => s.block.withSec fun c => { c with result := r, pending := 0, fails := c.fails + 1 }
  (c.pending ≠ 0) ∧
  (c.nonceAt + 60000000000 < s.block.lhTime)) :=
  ⟨at' ({ up .ready with lhTime := 60000000006 }.withSec fun c => { c with pending := 1, nonceAt := 5 }), by decide +kernel⟩

theorem meets_RegistersAndDebug_6 :
  ∃ s : State,
  (s.block.ctl.mayWriteCommon false = true) ∧
  (let c := s.block.ctl.sec
  let failed := fun r => s.block.withSec fun c => { c with result := r, pending := 0, fails := c.fails + 1 }
  (c.pending = 2) ∧
  (s.block.lhTime ≤ c.nonceAt + 60000000000) ∧
  (s.block.ctl.glb.state = .running)) :=
  ⟨at' ({ up .running with lhTime := 10 }.withSec fun c => { c with pending := 2, nonceAt := 5 }), by decide +kernel⟩

theorem meets_RegistersAndDebug_7 :
  ∃ s : State,
  (s.block.ctl.mayWriteCommon false = true) ∧
  (let c := s.block.ctl.sec
  let failed := fun r => s.block.withSec fun c => { c with result := r, pending := 0, fails := c.fails + 1 }
  (c.pending ≠ 0) ∧
  (s.block.lhTime ≤ c.nonceAt + 60000000000) ∧
  ((s.block.ctl.glb.state = .boot ∨ s.block.ctl.glb.state = .ready))) :=
  ⟨at' ({ up .ready with lhTime := 60000000005 }.withSec fun c => { c with pending := 1, nonceAt := 5 }), by decide +kernel⟩

theorem meets_RegistersAndDebug_8 :
  ∃ s : State,
  (s.block.ctl.mayWriteCommon false = true) :=
  ⟨at' ({ up .ready with lhTime := 5 }.withSec fun c => { c with pending := 1, nonceAt := 5 }), by decide +kernel⟩

theorem meets_RegistersAndDebug_9 :
  ∃ (s : State) (o size : Nat) (v : BitVec 64),
  (s.block.ctl.mayWriteCommon false = true) ∧
  (barAligned o size = true) ∧
  (0xA400 ≤ o) ∧
  (o < 0xA800) ∧
  (s.block.ctl.sec.pending = 0) :=
  ⟨at' ({ up .ready with lhTime := 10 }.withSec fun c => { c with pending := 0, nonceAt := 5 }), 0xA408, 4, 7, by decide +kernel⟩

theorem meets_RegistersAndDebug_10 :
  ∃ (s : State) (o size : Nat) (v : BitVec 64),
  (s.block.ctl.mayWriteCommon false = true) ∧
  (barAligned o size = true) ∧
  (0xA400 ≤ o) ∧
  (o < 0xA800) ∧
  (s.block.ctl.sec.pending ≠ 0) :=
  ⟨at' ({ up .ready with lhTime := 10 }.withSec fun c => { c with pending := 1, nonceAt := 5 }), 0xA408, 4, 7, by decide +kernel⟩

theorem meets_RegistersAndDebug_11 :
  ∃ (s : State) (port : Fin 2) (o size : Nat) (v : BitVec 64),
  (barAligned o size = false) :=
  ⟨at' (up .ready), 0, 0x1001, 8, 1, by decide +kernel⟩

theorem meets_RegistersAndDebug_12 :
  ∃ (s : State) (v : BitVec 64),
  (s.block.ctl.mayWriteCommon false = true) :=
  ⟨at' (up .ready), 0xFFFF, by decide +kernel⟩

theorem meets_RegistersAndDebug_13 :
  ∃ (s : State) (port : Fin 2) (n : Fin 64) (v : BitVec 64),
  (s.block.ctl.mayWriteRing (port == 1) n.val = true) ∧
  (s.block.ctl.barUp (port == 1) = true) ∧
  ((s.block.ctl.ring n.val).on = false) ∧
  (s.block.ctl.inflight n.val = 0) :=
  ⟨at' (up .ready), 0, 63, 0x123456, by decide +kernel⟩

theorem meets_RegistersAndDebug_14 :
  ∃ (s : State) (port : Fin 2) (v : BitVec 64),
  (s.block.ctl.barUp (port == 1) = true) ∧
  (v.getLsbD 0 = true) :=
  ⟨at' (up .ready), 0, 1, by decide +kernel⟩

theorem meets_RegistersAndDebug_15 :
  ∃ (s : State) (port : Fin 2) (v : BitVec 64),
  (s.block.ctl.barUp (port == 1) = true) ∧
  (v.getLsbD 0 = false) :=
  ⟨at' (up .ready), 0, 0, by decide +kernel⟩

theorem meets_RegistersAndDebug_16 :
  ∃ (s : State) (port : Fin 2) (v : BitVec 64),
  (s.block.ctl.barUp (port == 1) = true) ∧
  (v.getLsbD 0 = true) :=
  ⟨at' (up .ready), 0, 1, by decide +kernel⟩

theorem meets_RegistersAndDebug_17 :
  ∃ (s : State) (port : Fin 2) (v : BitVec 64),
  (s.block.ctl.barUp (port == 1) = true) ∧
  (∃ n : Fin 64,
  (v.getLsbD 0 = true)) :=
  ⟨at' (up .ready), 0, 1, by decide +kernel, 63, by decide +kernel⟩

theorem meets_RegistersAndDebug_18 :
  ∃ (s : State) (port : Fin 2) (v : BitVec 64),
  (s.block.ctl.barUp (port == 1) = true) ∧
  (∃ n : Fin 64,
  (v.getLsbD 0 = false)) :=
  ⟨at' (up .ready), 0, 0, by decide +kernel, 63, by decide +kernel⟩

theorem meets_RegistersAndDebug_19 :
  ∃ (s : State) (port : Fin 2) (v : BitVec 64),
  (s.block.ctl.barUp (port == 1) = true) :=
  ⟨at' (up .ready), 0, 2, by decide +kernel⟩

theorem meets_RegistersAndDebug_20 :
  ∃ (s : State) (port : Fin 2) (v : BitVec 64),
  (s.block.ctl.barUp (port == 1) = true) :=
  ⟨at' (up .ready), 0, 1, by decide +kernel⟩

/-! ### SpdmAnswers -/

theorem meets_SpdmAnswers_0 :
  ∃ (s : State) (k : SpdmConn),
  (s.block.ctl.spdmUp k = true) :=
  ⟨at' ((up .ready).withSec fun c => c.setConn (.pcie 0) .fresh), .pcie 0, by decide +kernel⟩

theorem meets_SpdmAnswers_1 :
  ∃ (s : State) (k : SpdmConn),
  (s.block.ctl.spdmUp k = true) ∧
  (let b := s.block
  let at' := b.ctl.sec.conn k
  let moved := fun v => b.withSec fun c => c.setConn k v
  let err := fun n => b.answering k .error [octet n]
  let next : Block := { b with fresh := b.fresh + 1 }
  (at' = .version)) :=
  ⟨at' ((up .ready).withSec fun c => c.setConn (.pcie 0) .version), .pcie 0, by decide +kernel⟩

theorem meets_SpdmAnswers_2 :
  ∃ (s : State) (k : SpdmConn),
  (s.block.ctl.spdmUp k = true) ∧
  (let b := s.block
  let at' := b.ctl.sec.conn k
  let moved := fun v => b.withSec fun c => c.setConn k v
  let err := fun n => b.answering k .error [octet n]
  let next : Block := { b with fresh := b.fresh + 1 }
  (at' ≠ .version)) :=
  ⟨at' ((up .ready).withSec fun c => c.setConn (.pcie 0) .fresh), .pcie 0, by decide +kernel⟩

theorem meets_SpdmAnswers_3 :
  ∃ (s : State) (k : SpdmConn),
  (s.block.ctl.spdmUp k = true) ∧
  (let b := s.block
  let at' := b.ctl.sec.conn k
  let moved := fun v => b.withSec fun c => c.setConn k v
  let err := fun n => b.answering k .error [octet n]
  let next : Block := { b with fresh := b.fresh + 1 }
  (at' = .capabilities) ∧
  (∃ e h,
  ((e = false ∨ h = false)))) :=
  ⟨at' ((up .ready).withSec fun c => c.setConn (.pcie 0) .capabilities), .pcie 0, by decide +kernel, by decide +kernel, false, true, by decide +kernel⟩

theorem meets_SpdmAnswers_4 :
  ∃ (s : State) (k : SpdmConn),
  (s.block.ctl.spdmUp k = true) ∧
  (let b := s.block
  let at' := b.ctl.sec.conn k
  let moved := fun v => b.withSec fun c => c.setConn k v
  let err := fun n => b.answering k .error [octet n]
  let next : Block := { b with fresh := b.fresh + 1 }
  (at' = .capabilities)) :=
  ⟨at' ((up .ready).withSec fun c => c.setConn (.pcie 0) .capabilities), .pcie 0, by decide +kernel⟩

theorem meets_SpdmAnswers_5 :
  ∃ (s : State) (k : SpdmConn),
  (s.block.ctl.spdmUp k = true) ∧
  (let b := s.block
  let at' := b.ctl.sec.conn k
  let moved := fun v => b.withSec fun c => c.setConn k v
  let err := fun n => b.answering k .error [octet n]
  let next : Block := { b with fresh := b.fresh + 1 }
  (at' ≠ .capabilities)) :=
  ⟨at' ((up .ready).withSec fun c => c.setConn (.pcie 0) .fresh), .pcie 0, by decide +kernel, by decide +kernel⟩

theorem meets_SpdmAnswers_6 :
  ∃ (s : State) (k : SpdmConn),
  (s.block.ctl.spdmUp k = true) ∧
  (let b := s.block
  let at' := b.ctl.sec.conn k
  let moved := fun v => b.withSec fun c => c.setConn k v
  let err := fun n => b.answering k .error [octet n]
  let next : Block := { b with fresh := b.fresh + 1 }
  (at' = .algorithms)) :=
  ⟨at' ((up .ready).withSec fun c => c.setConn (.pcie 0) .algorithms), .pcie 0, by decide +kernel, by decide +kernel⟩

theorem meets_SpdmAnswers_7 :
  ∃ (s : State) (k : SpdmConn),
  (s.block.ctl.spdmUp k = true) ∧
  (let b := s.block
  let at' := b.ctl.sec.conn k
  let moved := fun v => b.withSec fun c => c.setConn k v
  let err := fun n => b.answering k .error [octet n]
  let next : Block := { b with fresh := b.fresh + 1 }
  (at' = .algorithms) ∧
  (∃ (slot : Fin 8) (nonce : Bytes),
  (slot ≠ 0))) :=
  ⟨at' ((up .ready).withSec fun c => c.setConn (.pcie 0) .algorithms), .pcie 0, by decide +kernel, by decide +kernel, 1, [1], by decide +kernel⟩

theorem meets_SpdmAnswers_8 :
  ∃ (s : State) (k : SpdmConn),
  (s.block.ctl.spdmUp k = true) ∧
  (let b := s.block
  let at' := b.ctl.sec.conn k
  let moved := fun v => b.withSec fun c => c.setConn k v
  let err := fun n => b.answering k .error [octet n]
  let next : Block := { b with fresh := b.fresh + 1 }
  (at' = .algorithms) ∧
  (∃ (nonce : Bytes),
  (b.ctl.sec.idFault = true))) :=
  ⟨at' ((up .ready).withSec fun c => { c with idFault := true }.setConn (.pcie 0) .algorithms), .pcie 0, by decide +kernel, by decide +kernel, [1], by decide +kernel⟩

theorem meets_SpdmAnswers_9 :
  ∃ (s : State) (k : SpdmConn),
  (s.block.ctl.spdmUp k = true) ∧
  (let b := s.block
  let at' := b.ctl.sec.conn k
  let moved := fun v => b.withSec fun c => c.setConn k v
  let err := fun n => b.answering k .error [octet n]
  let next : Block := { b with fresh := b.fresh + 1 }
  (at' = .algorithms) ∧
  (∃ (nonce : Bytes),
  (b.ctl.sec.idFault = false))) :=
  ⟨at' ((up .ready).withSec fun c => c.setConn (.pcie 0) .algorithms), .pcie 0, by decide +kernel, by decide +kernel, [1], by decide +kernel⟩

theorem meets_SpdmAnswers_10 :
  ∃ (s : State) (k : SpdmConn),
  (s.block.ctl.spdmUp k = true) ∧
  (let b := s.block
  let at' := b.ctl.sec.conn k
  let moved := fun v => b.withSec fun c => c.setConn k v
  let err := fun n => b.answering k .error [octet n]
  let next : Block := { b with fresh := b.fresh + 1 }
  (at' = .algorithms) ∧
  (∃ (i : Nat) (nonce : Bytes),
  (1 ≤ i) ∧
  (i ≤ 8) ∧
  (b.ctl.sec.idFault = true))) :=
  ⟨at' ((up .ready).withSec fun c => { c with idFault := true }.setConn (.pcie 0) .algorithms), .pcie 0, by decide +kernel, by decide +kernel, 8, [1], by decide +kernel⟩

theorem meets_SpdmAnswers_11 :
  ∃ (s : State) (k : SpdmConn),
  (s.block.ctl.spdmUp k = true) ∧
  (let b := s.block
  let at' := b.ctl.sec.conn k
  let moved := fun v => b.withSec fun c => c.setConn k v
  let err := fun n => b.answering k .error [octet n]
  let next : Block := { b with fresh := b.fresh + 1 }
  (at' = .algorithms) ∧
  (∃ (i : Nat) (nonce : Bytes),
  (1 ≤ i) ∧
  (i ≤ 8) ∧
  (b.ctl.sec.idFault = false))) :=
  ⟨at' ((up .ready).withSec fun c => c.setConn (.pcie 0) .algorithms), .pcie 0, by decide +kernel, by decide +kernel, 8, [1], by decide +kernel⟩

theorem meets_SpdmAnswers_12 :
  ∃ (s : State) (k : SpdmConn),
  (s.block.ctl.spdmUp k = true) ∧
  (let b := s.block
  let at' := b.ctl.sec.conn k
  let moved := fun v => b.withSec fun c => c.setConn k v
  let err := fun n => b.answering k .error [octet n]
  let next : Block := { b with fresh := b.fresh + 1 }
  (at' = .algorithms) ∧
  (∃ (i : Nat) (nonce : Bytes),
  (1 ≤ i) ∧
  (i ≤ 8))) :=
  ⟨at' ((up .ready).withSec fun c => c.setConn (.pcie 0) .algorithms), .pcie 0, by decide +kernel, by decide +kernel, 1, [1], by decide +kernel⟩

theorem meets_SpdmAnswers_13 :
  ∃ (s : State) (k : SpdmConn),
  (s.block.ctl.spdmUp k = true) ∧
  (let b := s.block
  let at' := b.ctl.sec.conn k
  let moved := fun v => b.withSec fun c => c.setConn k v
  let err := fun n => b.answering k .error [octet n]
  let next : Block := { b with fresh := b.fresh + 1 }
  (at' = .algorithms)) :=
  ⟨at' ((up .ready).withSec fun c => c.setConn (.pcie 0) .algorithms), .pcie 0, by decide +kernel, by decide +kernel⟩

theorem meets_SpdmAnswers_14 :
  ∃ (s : State) (k : SpdmConn),
  (s.block.ctl.spdmUp k = true) ∧
  (let b := s.block
  let at' := b.ctl.sec.conn k
  let moved := fun v => b.withSec fun c => c.setConn k v
  let err := fun n => b.answering k .error [octet n]
  let next : Block := { b with fresh := b.fresh + 1 }
  (at' = .algorithms) ∧
  (∃ (i : Nat) (signed : Bool) (nonce : Bytes),
  (8 < i) ∧
  (i ≠ 0xFF))) :=
  ⟨at' ((up .ready).withSec fun c => c.setConn (.pcie 0) .algorithms), .pcie 0, by decide +kernel, by decide +kernel, 9, true, [1], by decide +kernel⟩

theorem meets_SpdmAnswers_15 :
  ∃ (s : State) (k : SpdmConn),
  (s.block.ctl.spdmUp k = true) ∧
  (let b := s.block
  let at' := b.ctl.sec.conn k
  let moved := fun v => b.withSec fun c => c.setConn k v
  let err := fun n => b.answering k .error [octet n]
  let next : Block := { b with fresh := b.fresh + 1 }
  (at' = .algorithms)) :=
  ⟨at' ((up .ready).withSec fun c => c.setConn (.pcie 0) .algorithms), .pcie 0, by decide +kernel⟩

theorem meets_SpdmAnswers_16 :
  ∃ (s : State) (k : SpdmConn),
  (s.block.ctl.spdmUp k = true) ∧
  (let b := s.block
  let at' := b.ctl.sec.conn k
  let moved := fun v => b.withSec fun c => c.setConn k v
  let err := fun n => b.answering k .error [octet n]
  let next : Block := { b with fresh := b.fresh + 1 }
  (at' ≠ .algorithms)) :=
  ⟨at' ((up .ready).withSec fun c => c.setConn (.pcie 0) .fresh), .pcie 0, by decide +kernel, by decide +kernel⟩

theorem meets_SpdmAnswers_17 :
  ∃ (s : State) (k : SpdmConn),
  (s.block.ctl.spdmUp k = true) ∧
  (let b := s.block
  let at' := b.ctl.sec.conn k
  let moved := fun v => b.withSec fun c => c.setConn k v
  let err := fun n => b.answering k .error [octet n]
  let next : Block := { b with fresh := b.fresh + 1 }
  (at' ≠ .algorithms)) :=
  ⟨at' ((up .ready).withSec fun c => c.setConn (.pcie 0) .fresh), .pcie 0, by decide +kernel, by decide +kernel⟩

theorem meets_SpdmAnswers_18 :
  ∃ (s : State) (k : SpdmConn),
  (s.block.ctl.spdmUp k = true) ∧
  (let b := s.block
  let at' := b.ctl.sec.conn k
  let moved := fun v => b.withSec fun c => c.setConn k v
  let err := fun n => b.answering k .error [octet n]
  let next : Block := { b with fresh := b.fresh + 1 }
  (at' ≠ .algorithms)) :=
  ⟨at' ((up .ready).withSec fun c => c.setConn (.pcie 0) .fresh), .pcie 0, by decide +kernel, by decide +kernel⟩

theorem meets_SpdmAnswers_19 :
  ∃ (s : State) (k : SpdmConn),
  (s.block.ctl.spdmUp k = true) ∧
  (let b := s.block
  let at' := b.ctl.sec.conn k
  let moved := fun v => b.withSec fun c => c.setConn k v
  let err := fun n => b.answering k .error [octet n]
  let next : Block := { b with fresh := b.fresh + 1 }
  (at' ≠ .algorithms)) :=
  ⟨at' ((up .ready).withSec fun c => c.setConn (.pcie 0) .fresh), .pcie 0, by decide +kernel⟩

theorem meets_SpdmAnswers_20 :
  ∃ (s : State) (k : SpdmConn),
  (s.block.ctl.spdmUp k = true) :=
  ⟨at' ((up .ready).withSec fun c => c.setConn (.pcie 0) .algorithms), .pcie 0, by decide +kernel⟩

/-! ### FirmwareStages -/

theorem meets_FirmwareStages_0 :
  ∃ (s : State) (id : Nat) (x : Cmd),
  ((s.block.MayRun id 0x60 x) ∧
  (s.block.ctl.sec.staging = none) ∧
  (s.block.ctl.glb.state ∈ [ModState.ready, .loaded, .running, .draining, .degraded])) ∧
  (let img := s.block.host.read (u64 x.bytes 32) (u64 x.bytes 40)
  let o := s.block.ctl.otherBank
  (img.take 4 ≠ [0x4F, 0x57, 0x4E, 0x52])) :=
  ⟨on (up .ready) (cmdOf 0x60 [(32, 0x5000, 8), (40, 64, 8)]), 0, cmdOf 0x60 [(32, 0x5000, 8), (40, 64, 8)], by simp only [Block.MayRun]; decide +kernel⟩

theorem meets_FirmwareStages_1 :
  ∃ (s : State) (id : Nat) (x : Cmd) (g : BankStaging),
  ((s.block.ctl.cmd id = some x) ∧
  (s.block.ctl.sec.staging = some g) ∧
  (g.cmd = id)) ∧
  (let body := g.img.drop 4096
  let due := (s.block.storeDue && s.block.ctl.storeDev == g.dev) = true
  (due)) :=
  ⟨on ((((up .ready).withHealth fun h => { h with wanted := true })).withSec fun c => { c with staging := some { cmd := 0, dev := false, img := zeroBytes 4100, done := 0 } }) ({ cmdOf 0x60 [(32, 0x5000, 8), (40, 64, 8)] with phase := .running }), 0, { cmdOf 0x60 [(32, 0x5000, 8), (40, 64, 8)] with phase := .running }, { cmd := 0, dev := false, img := zeroBytes 4100, done := 0 }, by decide +kernel⟩

theorem meets_FirmwareStages_2 :
  ∃ (s : State) (id : Nat) (x : Cmd) (g : BankStaging),
  ((s.block.ctl.cmd id = some x) ∧
  (s.block.ctl.sec.staging = some g) ∧
  (g.cmd = id)) ∧
  (let body := g.img.drop 4096
  let due := (s.block.storeDue && s.block.ctl.storeDev == g.dev) = true
  (¬ due) ∧
  (g.done < body.length)) :=
  ⟨on ((up .ready).withSec fun c => { c with staging := some { cmd := 0, dev := false, img := zeroBytes 4100, done := 3 } }) ({ cmdOf 0x60 [(32, 0x5000, 8), (40, 64, 8)] with phase := .running }), 0, { cmdOf 0x60 [(32, 0x5000, 8), (40, 64, 8)] with phase := .running }, { cmd := 0, dev := false, img := zeroBytes 4100, done := 3 }, by decide +kernel⟩

theorem meets_FirmwareStages_3 :
  ∃ (s : State) (id : Nat) (x : Cmd) (g : BankStaging),
  ((s.block.ctl.cmd id = some x) ∧
  (s.block.ctl.sec.staging = some g) ∧
  (g.cmd = id)) ∧
  (let body := g.img.drop 4096
  let due := (s.block.storeDue && s.block.ctl.storeDev == g.dev) = true
  (¬ due) ∧
  (body.length ≤ g.done)) :=
  ⟨on ((up .ready).withSec fun c => { c with staging := some { cmd := 0, dev := false, img := zeroBytes 4100, done := 4 } }) ({ cmdOf 0x60 [(32, 0x5000, 8), (40, 64, 8)] with phase := .running }), 0, { cmdOf 0x60 [(32, 0x5000, 8), (40, 64, 8)] with phase := .running }, { cmd := 0, dev := false, img := zeroBytes 4100, done := 4 }, by decide +kernel⟩

theorem meets_FirmwareStages_4 :
  ∃ (s : State) (id : Nat) (x : Cmd),
  ((s.block.MayRun id 0x60 x) ∧
  (s.block.ctl.sec.staging = none) ∧
  (s.block.ctl.glb.state ∈ [ModState.ready, .loaded, .running, .draining, .degraded])) ∧
  (let img := s.block.host.read (u64 x.bytes 32) (u64 x.bytes 40)
  (img.take 4 = [0x4F, 0x57, 0x4E, 0x52])) :=
  ⟨on ({ up .ready with host := memOf [(0x5000, [0x4F, 0x57, 0x4E, 0x52, 1])] }) (cmdOf 0x60 [(32, 0x5000, 8), (40, 512, 8)]), 0, cmdOf 0x60 [(32, 0x5000, 8), (40, 512, 8)], by simp only [Block.MayRun]; decide +kernel⟩

theorem meets_FirmwareStages_5 :
  ∃ (s : State) (id : Nat) (x : Cmd),
  (s.block.MayRun id 0x61 x) :=
  ⟨on (up .ready) (cmdOf 0x61 [(32, 1, 1)]), 0, cmdOf 0x61 [(32, 1, 1)], by simp only [Block.MayRun]; decide +kernel⟩

theorem meets_FirmwareStages_6 :
  ∃ (s : State) (img : Bytes),
  (s.block.ctl.glb.state = .boot) ∧
  (s.block.ctl.glb.bootFault = 3) ∧
  (s.block.ctl.powered = true) :=
  ⟨at' ((up .boot).withGlb fun g => { g with bootFault := 3 }), [1, 2], by decide +kernel⟩

/-! ### Searches -/

theorem meets_Searches_0 :
  ∃ (s : State) (id : Nat) (x : Cmd),
  ((s.block.MayRun id 0x20 x) ∧
  (indexLegal s.block x = true)) ∧
  (let b := s.block.started id
  let place := u8 x.bytes 32 % 16
  let dim := hDim b.ctl.shoal.header
  let q := widen (u8 x.bytes 34) (b.readPlace place (u64 x.bytes 48) (rowBytes (u8 x.bytes 34) dim)) dim
  let f := b.readPlace place (u64 x.bytes 64) (filterBytes (leNat (b.readPlace place (u64 x.bytes 64) 1)))
  ∃ (st : Status),
  (b.searchTrouble x.bytes = some st)) :=
  ⟨on (indexed (up .ready)) (cmdOf 0x20 [(33, 2, 1), (36, 4, 2), (38, 16, 2), (40, 1, 1), (42, 64, 2), (48, 0x5000, 8), (56, 0x6000, 8)]), 0, cmdOf 0x20 [(33, 2, 1), (36, 4, 2), (38, 16, 2), (40, 1, 1), (42, 64, 2), (48, 0x5000, 8), (56, 0x6000, 8)], by simp only [Block.MayRun]; decide +kernel, .eState, by decide +kernel⟩

theorem meets_Searches_1 :
  ∃ (s : State) (id : Nat) (x : Cmd),
  ((s.block.MayRun id 0x20 x) ∧
  (indexLegal s.block x = true)) ∧
  (let b := s.block.started id
  let place := u8 x.bytes 32 % 16
  let dim := hDim b.ctl.shoal.header
  let q := widen (u8 x.bytes 34) (b.readPlace place (u64 x.bytes 48) (rowBytes (u8 x.bytes 34) dim)) dim
  let f := b.readPlace place (u64 x.bytes 64) (filterBytes (leNat (b.readPlace place (u64 x.bytes 64) 1)))
  ∃ k,
  (b.searchTrouble x.bytes = none) ∧
  (b.ctl.shoal.freeSlot = some k) ∧
  (place ≠ 1)) :=
  ⟨on (indexed (up .ready)) (cmdOf 0x20 [(34, 6, 1), (36, 4, 2), (38, 16, 2), (40, 1, 1), (42, 64, 2), (48, 0x5000, 8), (56, 0x6000, 8)]), 0, cmdOf 0x20 [(34, 6, 1), (36, 4, 2), (38, 16, 2), (40, 1, 1), (42, 64, 2), (48, 0x5000, 8), (56, 0x6000, 8)], by simp only [Block.MayRun]; decide +kernel, 0, by decide +kernel⟩

theorem meets_Searches_2 :
  ∃ (s : State) (id : Nat) (x : Cmd),
  (s.block.MayRun id 0x20 x) ∧
  (indexLegal s.block x = false) :=
  ⟨on (up .ready) (cmdOf 0x20 [(34, 6, 1), (36, 4, 2), (38, 16, 2), (40, 1, 1), (42, 64, 2), (48, 0x5000, 8), (56, 0x6000, 8)]), 0, cmdOf 0x20 [(34, 6, 1), (36, 4, 2), (38, 16, 2), (40, 1, 1), (42, 64, 2), (48, 0x5000, 8), (56, 0x6000, 8)], by simp only [Block.MayRun]; decide +kernel⟩

theorem meets_Searches_3 :
  ∃ (s : State) (slot : Fin 32) (r : Search) (x : Cmd),
  ((Tab.get none s.block.ctl.shoal.slots slot.val = some r) ∧
  (s.block.ctl.cmd r.cmd = some x) ∧
  (r.waits = [])) ∧
  (let c := x.bytes
  let u := r.step s.block c
  let put := fun (v : Option Search) => s.block.withShoal fun m => { m with slots := Tab.set none m.slots slot.val v }
  let widens := bit (u8 c 35) 1 = true ∧ u.survivors.length < u16 c 36 ∧ u.list < u16 c 42
  let rs := (u.results s.block c).1
  (nextBatch (u8 c 40) u.cand ≠ [])) :=
  ⟨on (searching (indexed (up .ready)) { run0 with started := true, cand := [cand 5, cand 6] }) (cmdOf 0x20 [(34, 6, 1), (36, 4, 2), (38, 16, 2), (40, 1, 1), (42, 64, 2), (48, 0x5000, 8), (56, 0x6000, 8)]), 0, { run0 with started := true, cand := [cand 5, cand 6] }, cmdOf 0x20 [(34, 6, 1), (36, 4, 2), (38, 16, 2), (40, 1, 1), (42, 64, 2), (48, 0x5000, 8), (56, 0x6000, 8)], by decide +kernel⟩

theorem meets_Searches_4 :
  ∃ (s : State) (slot : Fin 32) (r : Search) (x : Cmd),
  ((Tab.get none s.block.ctl.shoal.slots slot.val = some r) ∧
  (s.block.ctl.cmd r.cmd = some x) ∧
  (r.waits = [])) ∧
  (let c := x.bytes
  let u := r.step s.block c
  let put := fun (v : Option Search) => s.block.withShoal fun m => { m with slots := Tab.set none m.slots slot.val v }
  let widens := bit (u8 c 35) 1 = true ∧ u.survivors.length < u16 c 36 ∧ u.list < u16 c 42
  let rs := (u.results s.block c).1
  (nextBatch (u8 c 40) u.cand = []) ∧
  (widens)) :=
  ⟨on (searching (indexed (up .ready)) run0) (cmdOf 0x20 [(35, 2, 1), (36, 4, 2), (38, 16, 2), (40, 1, 1), (42, 64, 2), (48, 0x5000, 8), (56, 0x6000, 8)]), 0, run0, cmdOf 0x20 [(35, 2, 1), (36, 4, 2), (38, 16, 2), (40, 1, 1), (42, 64, 2), (48, 0x5000, 8), (56, 0x6000, 8)], by decide +kernel⟩

theorem meets_Searches_5 :
  ∃ (s : State) (slot : Fin 32) (r : Search) (x : Cmd),
  ((Tab.get none s.block.ctl.shoal.slots slot.val = some r) ∧
  (s.block.ctl.cmd r.cmd = some x) ∧
  (r.waits = [])) ∧
  (let c := x.bytes
  let u := r.step s.block c
  let put := fun (v : Option Search) => s.block.withShoal fun m => { m with slots := Tab.set none m.slots slot.val v }
  let widens := bit (u8 c 35) 1 = true ∧ u.survivors.length < u16 c 36 ∧ u.list < u16 c 42
  let rs := (u.results s.block c).1
  (nextBatch (u8 c 40) u.cand = []) ∧
  (¬ widens) ∧
  (u8 c 32 / 16 = 0) ∧
  (bit (u8 c 35) 2 = false)) :=
  ⟨on (searching (indexed (up .ready)) run0) (cmdOf 0x20 [(34, 6, 1), (36, 4, 2), (38, 16, 2), (40, 1, 1), (42, 64, 2), (48, 0x5000, 8), (56, 0x6000, 8)]), 0, run0, cmdOf 0x20 [(34, 6, 1), (36, 4, 2), (38, 16, 2), (40, 1, 1), (42, 64, 2), (48, 0x5000, 8), (56, 0x6000, 8)], by decide +kernel⟩

theorem meets_Searches_6 :
  ∃ (s : State) (slot : Fin 32) (unit : Nat) (r : Search),
  ((s.block.ctl.awake = true) ∧
  (Tab.get none s.block.ctl.shoal.slots slot.val = some r) ∧
  (unit ∈ r.waits)) ∧
  (let back := s.block.withShoal fun m => { m with slots := Tab.set none m.slots slot.val (some (r.returned s.block unit)) }
  let ch := flashChannel unit
  let u : UnitRef := { cls := 5, number := ch, row := 0, bank := 0 }
  let rebuilt := fun (b : Block) => b.withShoal fun m => { m with rebuilds := (m.rebuilds + 1) % 2 ^ 48 }
  (s.block.ctl.health.spares.flash.contains ch = true) ∧
  (s.block.ctl.health.rewriting.contains ch = true)) :=
  ⟨at' ((searching (indexed (up .ready)) { run0 with waits := [3, 9] }).withHealth fun h => { h with spares := { h.spares with flash := [flashChannel 3] }, rewriting := [flashChannel 3] }), 0, 3, { run0 with waits := [3, 9] }, by decide +kernel, by decide +kernel⟩

theorem meets_Searches_7 :
  ∃ (s : State) (slot : Fin 32) (unit : Nat) (r : Search),
  ((s.block.ctl.awake = true) ∧
  (Tab.get none s.block.ctl.shoal.slots slot.val = some r) ∧
  (unit ∈ r.waits)) ∧
  (let back := s.block.withShoal fun m => { m with slots := Tab.set none m.slots slot.val (some (r.returned s.block unit)) }
  let ch := flashChannel unit
  let u : UnitRef := { cls := 5, number := ch, row := 0, bank := 0 }
  let rebuilt := fun (b : Block) => b.withShoal fun m => { m with rebuilds := (m.rebuilds + 1) % 2 ^ 48 }
  (s.block.ctl.health.spares.flash.contains ch = false)) :=
  ⟨at' (searching (indexed (up .ready)) { run0 with waits := [3, 9] }), 0, 3, { run0 with waits := [3, 9] }, by decide +kernel, by decide +kernel⟩

theorem meets_Searches_8 :
  ∃ (s : State) (slot : Fin 32) (unit : Nat) (r : Search),
  ((s.block.ctl.awake = true) ∧
  (Tab.get none s.block.ctl.shoal.slots slot.val = some r) ∧
  (unit ∈ r.waits)) ∧
  (let back := s.block.withShoal fun m => { m with slots := Tab.set none m.slots slot.val (some (r.returned s.block unit)) }
  let ch := flashChannel unit
  let u : UnitRef := { cls := 5, number := ch, row := 0, bank := 0 }
  let rebuilt := fun (b : Block) => b.withShoal fun m => { m with rebuilds := (m.rebuilds + 1) % 2 ^ 48 }
  (s.block.ctl.health.spares.flash.contains ch = false) ∧
  ((s.block.trendTimes u 0).length < 33) ∧
  ((s.block.chargeTimes u).length < s.block.ctl.thresh)) :=
  ⟨at' (searching (indexed (up .ready)) { run0 with waits := [3, 9] }), 0, 3, { run0 with waits := [3, 9] }, by decide +kernel⟩

theorem meets_Searches_9 :
  ∃ (s : State) (slot : Fin 32) (unit : Nat) (r : Search),
  ((s.block.ctl.awake = true) ∧
  (Tab.get none s.block.ctl.shoal.slots slot.val = some r) ∧
  (unit ∈ r.waits)) ∧
  (let back := s.block.withShoal fun m => { m with slots := Tab.set none m.slots slot.val (some (r.returned s.block unit)) }
  let ch := flashChannel unit
  let u : UnitRef := { cls := 5, number := ch, row := 0, bank := 0 }
  let rebuilt := fun (b : Block) => b.withShoal fun m => { m with rebuilds := (m.rebuilds + 1) % 2 ^ 48 }
  (s.block.ctl.health.spares.flash.contains ch = false)) :=
  ⟨at' (searching (indexed (up .ready)) { run0 with waits := [3, 9] }), 0, 3, { run0 with waits := [3, 9] }, by decide +kernel⟩

/-! ### IndexUpdates -/

theorem meets_IndexUpdates_0 :
  ∃ (s : State) (id : Nat) (x : Cmd),
  ((s.block.MayRun id 0x21 x) ∧
  (indexLegal s.block x = true)) ∧
  (let b := s.block.started id
  let c := x.bytes
  let items := (b.insertItems c).map (b.pendingOf (u8 c 32) (u8 c 33))
  (b.reach (u8 c 32) (u64 c 40) (128 * u32 c 36) = none) ∧
  (∃ i st,
  (firstTrouble (b.insertTrouble c) = some (i, st)))) :=
  ⟨on ({ indexed (up .ready) with host := memOf [(0x5000, fieldsOf 128 [(0, 1000, 5), (16, 0x7000, 8), (32, 77, 4)])] }) (cmdOf 0x21 [(33, 6, 1), (36, 1, 4), (40, 0x5000, 8)]), 0, cmdOf 0x21 [(33, 6, 1), (36, 1, 4), (40, 0x5000, 8)], by simp only [Block.MayRun]; decide +kernel, by decide +kernel, 0, .eFormat, by decide +kernel⟩

theorem meets_IndexUpdates_1 :
  ∃ (s : State) (id : Nat) (x : Cmd),
  ((s.block.MayRun id 0x21 x) ∧
  (indexLegal s.block x = true)) ∧
  (let b := s.block.started id
  let c := x.bytes
  let items := (b.insertItems c).map (b.pendingOf (u8 c 32) (u8 c 33))
  (b.reach (u8 c 32) (u64 c 40) (128 * u32 c 36) = none) ∧
  (firstTrouble (b.insertTrouble c) = none) ∧
  (s.block.ctl.shoal.batch.length + items.length ≤ 4194304) ∧
  (s.block.ctl.shoal.payloadFits (s.block.ctl.shoal.batch ++ items) = true)) :=
  ⟨on ({ indexed (up .ready) with host := memOf [(0x5000, fieldsOf 128 [(0, 5, 5), (16, 0x7000, 8), (32, 77, 4)])] }) (cmdOf 0x21 [(33, 6, 1), (36, 1, 4), (40, 0x5000, 8)]), 0, cmdOf 0x21 [(33, 6, 1), (36, 1, 4), (40, 0x5000, 8)], by simp only [Block.MayRun]; decide +kernel⟩

theorem meets_IndexUpdates_2 :
  ∃ (s : State) (id : Nat) (x : Cmd),
  ((s.block.MayRun id 0x22 x) ∧
  (indexLegal s.block x = true)) ∧
  (let b := s.block.started id
  let c := x.bytes
  let items := (b.deleteItems c).map fun i => Pending.delete (fld i 0 5)
  (b.reach (u8 c 32) (u64 c 40) (8 * u32 c 36) = none) ∧
  (∃ i st,
  (firstTrouble (b.deleteTrouble c) = some (i, st)))) :=
  ⟨on ({ (indexed (up .ready)).withShoal (fun m => { m with live := 1, nodeMap := [(5, 4000)] }) with host := memOf [(0x5000, fieldsOf 8 [(0, 6, 5)])] }) (cmdOf 0x22 [(36, 1, 4), (40, 0x5000, 8)]), 0, cmdOf 0x22 [(36, 1, 4), (40, 0x5000, 8)], by simp only [Block.MayRun]; decide +kernel, by decide +kernel, 0, .eState, by decide +kernel⟩

theorem meets_IndexUpdates_3 :
  ∃ (s : State) (id : Nat) (x : Cmd),
  ((s.block.MayRun id 0x22 x) ∧
  (indexLegal s.block x = true)) ∧
  (let b := s.block.started id
  let c := x.bytes
  let items := (b.deleteItems c).map fun i => Pending.delete (fld i 0 5)
  (b.reach (u8 c 32) (u64 c 40) (8 * u32 c 36) = none) ∧
  (firstTrouble (b.deleteTrouble c) = none) ∧
  (s.block.ctl.shoal.batch.length + items.length ≤ 4194304) ∧
  (s.block.ctl.shoal.payloadFits (s.block.ctl.shoal.batch ++ items) = true)) :=
  ⟨on ({ (indexed (up .ready)).withShoal (fun m => { m with live := 1, nodeMap := [(5, 4000)] }) with host := memOf [(0x5000, fieldsOf 8 [(0, 5, 5)])] }) (cmdOf 0x22 [(36, 1, 4), (40, 0x5000, 8)]), 0, cmdOf 0x22 [(36, 1, 4), (40, 0x5000, 8)], by simp only [Block.MayRun]; decide +kernel⟩

theorem meets_IndexUpdates_4 :
  ∃ s : State,
  let m := s.block.ctl.shoal
  let w := s.block.graph.wave m.linked
  (s.block.ctl.awake = true) ∧
  (m.mounted = true) ∧
  (24 ≤ countIf Pending.isInsert (m.batch.drop m.linked)) :=
  ⟨at' ((indexed (up .ready)).withShoal fun m => { m with batch := (List.range 25).map fun i => .insert i [] [] (zeroBytes 48) [] }), by decide +kernel⟩

theorem meets_IndexUpdates_5 :
  ∃ s : State,
  let m := s.block.ctl.shoal
  let w := s.block.graph.wave m.linked
  (s.block.ctl.awake = true) ∧
  (m.mounted = true) ∧
  (countIf Pending.isInsert (m.batch.drop m.linked) < 24) :=
  ⟨at' ((indexed (up .ready)).withShoal fun m => { m with batch := (List.range 25).map fun i => .insert i [] [] (zeroBytes 48) [], linked := 24 }), by decide +kernel⟩

theorem meets_IndexUpdates_6 :
  ∃ (s : State) (unit : Nat),
  (s.block.ctl.awake = true) ∧
  (s.block.ctl.shoal.mounted = true) :=
  ⟨at' ((indexed (up .ready)).withShoal fun m => { m with old := [{ unit := 9, epoch := 3 }, { unit := 8, epoch := 3 }] }), 9, by decide +kernel⟩

theorem meets_IndexUpdates_7 :
  ∃ (s : State) (id : Nat) (x : Cmd),
  ((s.block.MayRun id 0x23 x) ∧
  (indexLegal s.block x = true)) ∧
  (let b := s.block.started id
  let p := b.commitPlan x.bytes
  let m := s.block.ctl.shoal
  (b.commitUnits p = none)) :=
  ⟨on ((indexed (up .ready)).withShoal fun m => { m with header := patch m.header 64 (leBytes (55 * 2 ^ 40 - 4096 - u64 m.header 56) 8), nodeMap := [(5, 55 * 2 ^ 28 - 1)], versions := [{ id := 5, deleted := false, epoch := 4, prev := 0, payload := 0, tokens := 0, attr := [], code := [], nbrs := [] }] }) (cmdOf 0x23 []), 0, cmdOf 0x23 [], by simp only [Block.MayRun]; decide +kernel⟩

theorem meets_IndexUpdates_8 :
  ∃ (s : State) (id : Nat) (x : Cmd),
  ((s.block.MayRun id 0x23 x) ∧
  (indexLegal s.block x = true)) ∧
  (let b := s.block.started id
  let p := b.commitPlan x.bytes
  let m := s.block.ctl.shoal
  ∃ units next,
  (b.commitUnits p = some (units, next))) :=
  ⟨on (indexed (up .ready)) (cmdOf 0x23 []), 0, cmdOf 0x23 [], by simp only [Block.MayRun]; decide +kernel, [], 0, by decide +kernel⟩

theorem meets_IndexUpdates_9 :
  ∃ (s : State) (id : Nat) (x : Cmd),
  ((s.block.MayRun id 0x24 x) ∧
  (mountLegal s.block x = true)) ∧
  (let b := s.block.started id
  let c := x.bytes
  let m := s.block.ctl.shoal
  let h := sealHeader (newHeader c)
  (u8 c 32 = 2)) :=
  ⟨on (indexed (up .ready)) (cmdOf 0x24 [(32, 2, 1)]), 0, cmdOf 0x24 [(32, 2, 1)], by simp only [Block.MayRun]; decide +kernel⟩

theorem meets_IndexUpdates_10 :
  ∃ (s : State) (id : Nat) (x : Cmd),
  ((s.block.MayRun id 0x24 x) ∧
  (mountLegal s.block x = true)) ∧
  (let b := s.block.started id
  let c := x.bytes
  let m := s.block.ctl.shoal
  let h := sealHeader (newHeader c)
  (u8 c 32 = 1) ∧
  (u8 c 41 ≠ 1) ∧
  (b.reach (u8 c 41) (u64 c 56) (hDim h * 512) = none) ∧
  (headerFits h = true) ∧
  (b.mapFits (hCapacity h) = true)) :=
  ⟨on (up .ready) (createCmd), 0, createCmd, by simp only [Block.MayRun]; decide +kernel⟩

theorem meets_IndexUpdates_11 :
  ∃ (s : State) (id : Nat) (x : Cmd),
  ((s.block.MayRun id 0x24 x) ∧
  (mountLegal s.block x = true)) ∧
  (let b := s.block.started id
  let c := x.bytes
  let m := s.block.ctl.shoal
  let h := sealHeader (newHeader c)
  (u8 c 32 = 0)) :=
  ⟨on (up .ready) (cmdOf 0x24 []), 0, cmdOf 0x24 [], by simp only [Block.MayRun]; decide +kernel⟩

/-! ## Ill-formed commands are refused, each by the check of its operand -/

theorem test_wf_store : (Instr.doorbellPoll 0 [{ addr := 2 ^ 64, bytes := [1] }]).wf = false := by decide
theorem test_wf_fanout : (Instr.commandFanout { cmd := [1], key := 0, vbase := 0, openTime := 0, list := [] }).wf = false := by decide
theorem test_wf_event : (Instr.eventAccept { code := 2 ^ 16, source := 0, detail := 0 }).wf = false := by decide
theorem test_wf_digest : (Instr.startJob 0 [1]).wf = false := by decide
theorem test_wf_pass : (Instr.passNotice { rank := 0, kind := 4, seq := 0, step := 0, l0 := 0, e := 1, pending := 0, sampleArg := 0, tokens := [] }).wf = false := by
  decide
theorem test_wf_segment : (Instr.broadcastPayload { toRank := 0, seq := 0, layer := 0, root := 0, data := [{ bytes := [], crc := 2 ^ 32 }] }).wf = false := by decide
theorem test_wf_child : (Instr.gatherPartial { toRank := 0, seq := 0, layer := 0, root := 0, child := 3, data := [] }).wf = false := by decide
theorem test_wf_bar2_read : (Instr.bar2Read 0 0 0).wf = false := by decide
theorem test_wf_bar2_write : (Instr.bar2Write 0 0 []).wf = false := by decide
theorem test_wf_line :
    (Instr.uncorrectableError { addr := 8, outcome := .lost, row := 0, bank := 0, device := 0, good := some [1], reader := none }).wf = false := by decide
theorem test_wf_unit : (Instr.plannedRetirement { cls := 9, number := 0, row := 0, bank := 0 }).wf = false := by decide
theorem test_wf_flit : (Instr.flitReceive 0 [1] true).wf = false := by decide
theorem test_wf_power : (Instr.powerSample { inputMv := 65536, inputW := 0, packageW := 0 }).wf = false := by decide
theorem test_wf_sockets : (Instr.mainEn { regulators := true, identityOk := true, dimms := [], ddrFail := none, hbmFail := [], selfTest := [], trip := false, reached := 11 }).wf =
  false := by decide
theorem test_wf_status : (Instr.statusFlagClear 0 0x5020 1 0).wf = false := by decide
theorem test_wf_register : (Instr.registerWrite 0 0x10000 8 1).wf = false := by decide
theorem test_wf_challenge : (Instr.challenge .i3c 0 []).wf = false := by decide
theorem test_wf_measurement : (Instr.getMeasurements .i3c 256 false (zeroBytes 32)).wf = false := by decide

/-! ## Values worked out by hand, or published with the algorithms -/

/-- The check value of the CRC-32C is 0xE3069283 over the nine digits 1 to 9. -/
theorem test_crc32c : crc32c [0x31, 0x32, 0x33, 0x34, 0x35, 0x36, 0x37, 0x38, 0x39] = 0xE3069283 := by decide +kernel

/-- The check value of the 64-bit CRC of ECMA-182 is 0x6C40DF5F0B497347. -/
theorem test_crc64 : crc64 [0x31, 0x32, 0x33, 0x34, 0x35, 0x36, 0x37, 0x38, 0x39] = 0x6C40DF5F0B497347 := by decide +kernel

/-- BF16 of 1 + 2^-8 + 2^-20 rounds up, of 1 + 2^-8 to even (R77). -/
theorem test_bf16_rounds : convertTo 1 (ofF32 0x3F808008) = (0x3F81, false) ∧ convertTo 1 (ofF32 0x3F808000) = (0x3F80, false) := by decide +kernel

/-- Bytes of a NOP that its format does not use must be 0 (R354). -/
theorem test_nop_format : formatOk 0 (fieldsOf 128 [(0, 1, 1)]) = true ∧ formatOk 0 (fieldsOf 128 [(0, 1, 1), (100, 1, 1)]) = false := by decide +kernel

/-- SEQNO of the first event after BOOT is 1, of the next 2 (R299). -/
theorem test_seqno : ((((up .ready).accept 0x0200 3 9).accept 0x0201 3 9).arb.next) = 3 := by decide +kernel

/-- A write of a semaphore's word shows in memory little-endian: 0x01020304 at slot 5 (R10, R281). -/
theorem test_semaphore_bytes : ({ up .ready with sems := [(5, 0x01020304)] } : Block).read (semBase + 40) 5 = [4, 3, 2, 1, 0] := by decide +kernel

/-- Eight equal DIMMs of another size than the ordering code's are a size fault, 0x07; an empty socket is 0x08 and names its channel
(Table 07-2). -/
theorem test_dimm_faults :
    let env : StartEnv :=
      { regulators := true, identityOk := true, dimms := List.replicate 8 (some { mrdimm := false, gib := 64, mts := 6400 }), ddrFail := none,
        hbmFail := [], selfTest := [], trip := false, reached := 11 }
    (ddrFinding false env).map Prod.fst = some 0x07 ∧ ddrFinding false { env with dimms := env.dimms.set 5 none } = some (0x08, 5) := by decide +kernel

/-- An identity record is 32 bytes; RANK stands at byte 20, ROLE at 22, TRANSIT at 24 (Table 10-6). -/
theorem test_identity_bytes :
    let bs := idBytes { serial := 1, port := 2, slot := 3, verMin := 1, verMax := 2, fabric := 4, rank := 0x0506, role := 2, transit := 7 }
    bs.length = 32 ∧ slice bs 20 5 = [0x06, 0x05, 2, 0, 7] := by decide +kernel

end Sys2Proof.Tests
end

/-! PROOF. Kernels: how they start on a cove's core and how they end, with the rules about coves, fetches and signals that this takes. -/

namespace Sys2Proof.Machine

/-! # One cove of the engine: what its contexts and threads read after a write, and changes that its own caches do not see -/

/-! ## Reading a cove after a write -/

@[simp] theorem Ctl.cove_setCove_same (c : Ctl) (i : Nat) (f : Cove → Cove) : (c.setCove i f).cove i = f (c.cove i) :=
  Tab.get_set_self _ _ _ _

theorem Ctl.cove_setCove_other (c : Ctl) (i k : Nat) (f : Cove → Cove) (h : k ≠ i) : (c.setCove i f).cove k = c.cove k :=
  Tab.get_set_other _ _ _ _ _ h

@[simp] theorem Cove.ctx_setCtx (v : Cove) (n : Nat) (o : Option Ctx) : (v.setCtx n o).ctx n = o := by
  rcases n with _ | _ | _ | n <;> rfl

@[simp] theorem Cove.setCtx_ctx (v : Cove) (n : Nat) : v.setCtx n (v.ctx n) = v := by
  rcases n with _ | _ | _ | n <;> rfl

@[simp] theorem Cove.ctx_setThread (v : Cove) (n k : Nat) (u : Thread) : (v.setThread k u).ctx n = v.ctx n := by
  rcases k with _ | _ | _ | k <;> rcases n with _ | _ | _ | n <;> rfl

@[simp] theorem Cove.thread_setCtx (v : Cove) (n k : Nat) (o : Option Ctx) : (v.setCtx n o).thread k = v.thread k := by
  rcases n with _ | _ | _ | n <;> rcases k with _ | _ | _ | k <;> rfl

@[simp] theorem Cove.thread_setThread (v : Cove) (k : Nat) (u : Thread) : (v.setThread k u).thread k = u := by
  rcases k with _ | _ | _ | k <;> rfl

@[simp] theorem Cove.setThread_thread (v : Cove) (k : Nat) : v.setThread k (v.thread k) = v := by
  rcases k with _ | _ | _ | k <;> rfl

theorem Cove.thread_setThread_other (v : Cove) (i k : Nat) (u : Thread) (hi : i < 4) (hk : k < 4) (h : k ≠ i) :
    (v.setThread i u).thread k = v.thread k := by
  interval_cases i <;> interval_cases k <;> simp_all [Cove.setThread, Cove.thread]

/-! ## Changing the first threads of a core in order -/

/-- The contexts are no part of the change. -/
theorem Cove.ctx_setThreads (g : Nat → Thread → Thread) (v : Cove) (m n : Nat) :
    ((List.range m).foldl (fun v t => v.setThread t (g t (v.thread t))) v).ctx n = v.ctx n := by
  induction m with
  | zero => rfl
  | succ m ih => simp [List.range_succ, ih]

/-- Each of the first `m` threads is what the change makes of it, the others are as they were. -/
theorem Cove.thread_setThreads (g : Nat → Thread → Thread) (v : Cove) (m k : Nat) (hm : m ≤ 4) (hk : k < 4) :
    ((List.range m).foldl (fun v t => v.setThread t (g t (v.thread t))) v).thread k = if k < m then g k (v.thread k) else v.thread k := by
  induction m with
  | zero => simp
  | succ m ih =>
    simp only [List.range_succ, List.foldl_append, List.foldl_cons, List.foldl_nil]
    by_cases hkm : k = m
    · subst hkm
      simp [ih (by omega)]
    · rw [Cove.thread_setThread_other _ _ _ _ (by omega) hk hkm, ih (by omega)]
      simp [show k < m + 1 ↔ k < m by omega]

/-! ## Changes that do not see a cove's own caches -/

/-- A cove with the translations and instructions that another holds. -/
def Cove.withCaches (v w : Cove) : Cove := { v with tlb := w.tlb, icache := w.icache }

/-- The change neither reads nor writes a cove's micro-TLB and instruction cache. -/
def CacheBlind (f : Cove → Cove) : Prop := ∀ v w, f (v.withCaches w) = (f v).withCaches w

@[simp] theorem Cove.ctx_withCaches (v w : Cove) (n : Nat) : (v.withCaches w).ctx n = v.ctx n := by
  rcases n with _ | _ | _ | n <;> rfl

@[simp] theorem Cove.thread_withCaches (v w : Cove) (k : Nat) : (v.withCaches w).thread k = v.thread k := by
  rcases k with _ | _ | _ | k <;> rfl

theorem cacheBlind_setCtx (n : Nat) (g : Option Ctx → Option Ctx) : CacheBlind fun v => v.setCtx n (g (v.ctx n)) := fun v w => by
  rcases n with _ | _ | _ | n <;> rfl

theorem cacheBlind_setThread (k : Nat) (g : Thread → Thread) : CacheBlind fun v => v.setThread k (g (v.thread k)) := fun v w => by
  rcases k with _ | _ | _ | k <;> rfl

theorem cacheBlind_setThreads (g : Nat → Thread → Thread) (m : Nat) :
    CacheBlind fun v => (List.range m).foldl (fun v t => v.setThread t (g t (v.thread t))) v := fun v w => by
  induction m with
  | zero => rfl
  | succ m ih =>
    simp only [List.range_succ, List.foldl_append, List.foldl_cons, List.foldl_nil, ih]
    exact cacheBlind_setThread m (g m) _ w

section OneCove
variable {b c : Block} {cove : Nat} {v : Cove}

theorem Block.OneCove.refl (b : Block) (cove : Nat) : b.OneCove b cove (b.ctl.cove cove) := ⟨rfl, fun _ _ => rfl, rfl⟩

/-- What the cove is, but for its own caches. -/
theorem Block.OneCove.cove_eq (h : b.OneCove c cove v) : c.ctl.cove cove = v.withCaches (c.ctl.cove cove) := h.1

theorem Block.OneCove.ctx_eq (h : b.OneCove c cove v) (n : Nat) : (c.ctl.cove cove).ctx n = v.ctx n := by
  rw [h.cove_eq, Cove.ctx_withCaches]

theorem Block.OneCove.thread_eq (h : b.OneCove c cove v) (k : Nat) : (c.ctl.cove cove).thread k = v.thread k := by
  rw [h.cove_eq, Cove.thread_withCaches]

/-- Control state outside the engine is as it was. -/
theorem Block.OneCove.glb_eq (h : b.OneCove c cove v) : c.ctl.glb = b.ctl.glb := by rw [h.2.2]
theorem Block.OneCove.pair_eq (h : b.OneCove c cove v) : c.ctl.pair = b.ctl.pair := by rw [h.2.2]

/-- A change of the one cove that does not see its caches carries over to what the cove is. -/
theorem Block.OneCove.upd (h : b.OneCove c cove v) {f : Cove → Cove} (hf : CacheBlind f) :
    b.OneCove ((Act.upd fun d => d.setCove cove f).run c) cove (f v) := by
  obtain ⟨hcove, hothers, hctl⟩ := h
  refine ⟨?_, fun k hk => ?_, ?_⟩
  · have hnew : (c.ctl.setCove cove f).cove cove = (f v).withCaches (c.ctl.cove cove) := by
      rw [Ctl.cove_setCove_same, ← hf]
      exact congrArg f hcove
    simp only [run_upd, hnew]
    rfl
  · simpa [Ctl.cove_setCove_other _ _ _ _ hk] using hothers k hk
  · simp only [run_upd, Ctl.setCove]
    rw [hctl]

theorem Block.OneCove.updThread (h : b.OneCove c cove v) (k : Nat) (g : Thread → Thread) :
    b.OneCove ((updThread cove k g).run c) cove (v.setThread k (g (v.thread k))) :=
  h.upd (cacheBlind_setThread k g)

theorem Block.OneCove.updCtx (h : b.OneCove c cove v) (n : Nat) (g : Ctx → Ctx) :
    b.OneCove ((updCtx cove n g).run c) cove (v.setCtx n ((v.ctx n).map g)) :=
  h.upd (cacheBlind_setCtx n (Option.map g))

end OneCove

/-! # The accesses of a cove and the fetch of an instruction: caches change, board peers are asked, and nothing else happens (R50, R216, R228) -/

/-! ## Trees that only ask outside the module -/

/-- A message leaves or a free value is taken. -/
def Eff.Asking : Eff → Prop
  | .send _ _ | .fresh => True
  | _ => False

/-- Asking changes the messages and the count of free values alone. -/
theorem asking_run (b : Block) (a : Act) (ha : a.Only Eff.Asking) : a.run b = { b with out := (a.run b).out, fresh := (a.run b).fresh } := by
  refine Act.Only.keeps b Eff.Asking (fun t => t = { b with out := t.out, fresh := t.fresh }) (fun c e he hc => ?_) a ha rfl
  cases e <;> simp only [Eff.Asking] at he
  case send d m => rw [hc]; rfl
  case fresh => rw [hc]; rfl

/-- What a list of accesses asks of board peers, as seen from a space. -/
def asking (sp : Space) (as : List Access) : Act := .look fun b => (loads sp as).seq (Act.when (b.remote sp as) takeFresh)

theorem only_loads (sp : Space) (as : List Access) : (loads sp as).Only Eff.Asking := fun b => by
  refine only_each _ _ _ fun a => only_each _ _ _ fun p => ?_
  dsimp only
  split
  · exact only_when _ _ _ fun _ => ⟨trivial, trivial⟩
  · trivial

theorem only_asking (sp : Space) (as : List Access) : (asking sp as).Only Eff.Asking := fun _ =>
  only_seq _ _ _ (only_loads sp as) (only_when _ _ _ fun _ => ⟨trivial, trivial⟩)

/-! ## What the engine's state has no part in -/

/-- The block with another engine. -/
def Block.withEngine (b : Block) (e : Engine) : Block := { b with ctl := { b.ctl with engine := e } }

/-- The tree does the same whatever the engine holds, and leaves it. -/
def EngineBlind (a : Act) : Prop := ∀ b e, a.run (b.withEngine e) = (a.run b).withEngine e

theorem EngineBlind.each {α : Type} (xs : List α) (f : α → Act) (h : ∀ x, EngineBlind (f x)) : EngineBlind (Act.each xs f) := fun b e => by
  induction xs generalizing b with
  | nil => rfl
  | cons x xs ih => rw [run_each_cons, run_each_cons, h x, ih]

theorem EngineBlind.when (c : Bool) (a : Act) (h : EngineBlind a) : EngineBlind (Act.when c a) := fun b e => by
  rw [run_when, run_when, h]; split <;> rfl

theorem engineBlind_loads (sp : Space) (as : List Access) : EngineBlind (loads sp as) := fun b e => by
  refine EngineBlind.each _ _ (fun a => EngineBlind.each _ _ fun p => ?_) b e
  dsimp only
  split
  · exact EngineBlind.when _ _ fun _ _ => rfl
  · exact fun _ _ => rfl

theorem engineBlind_asking (sp : Space) (as : List Access) : EngineBlind (asking sp as) := fun b e => by
  have hwhen : EngineBlind (Act.when (b.remote sp as) takeFresh) := EngineBlind.when _ _ fun _ _ => rfl
  simp only [asking, run_look, run_seq, engineBlind_loads sp as b e]
  exact hwhen _ e

@[simp] theorem read_withEngine (b : Block) (e : Engine) (a n : Nat) : (b.withEngine e).read a n = b.read a n := by
  induction n generalizing a with
  | zero => rfl
  | succ n ih => simp only [Block.read, ih]; rfl

@[simp] theorem natVa_withEngine (b : Block) (e : Engine) (sp : Space) (va len : Nat) : (b.withEngine e).natVa sp va len = b.natVa sp va len := by
  simp only [Block.natVa, Block.readVa, read_withEngine]
  rfl

/-! ## The accesses of a cove -/

/-- The control state with other caches of the bays and dies. -/
def Ctl.withCaches (c : Ctl) (k : Caches) : Ctl := { c with engine := { c.engine with caches := k } }

@[simp] theorem cove_withCaches (c : Ctl) (k : Caches) (i : Nat) : (c.withCaches k).cove i = c.cove i := rfl

/-- Accesses ask board peers for what lies there, and otherwise change caches alone: the cove's micro-TLB, and those of its bay and die. -/
theorem touchAs_run (stream : Bool) (cove : Nat) (second : Bool) (as : List Access) (b : Block) :
    ∃ tlb k, (touchAs stream cove second as).run b =
      { (asking (b.ctl.space cove second) as).run b with ctl := (b.ctl.setCove cove fun v => { v with tlb := tlb }).withCaches k } := by
  have hctl : ((asking (b.ctl.space cove second) as).run b).ctl = b.ctl := by rw [asking_run _ _ (only_asking _ _)]
  simp only [asking, run_look, run_seq] at hctl
  simp only [touchAs, asking, run_look, run_all_cons, run_all_nil, run_upd, run_seq, hctl]
  exact ⟨_, _, rfl⟩

section OneCove
variable {b c : Block} {cove : Nat} {v : Cove}

/-- A change of what caches alone hold is none of what the cove is. -/
theorem Block.OneCove.caches (h : b.OneCove c cove v) (t : Block) (f : Cove → Cove) (k : Caches) (hf : ∀ w, f w = w.withCaches (f w))
    (ht : t.ctl = (c.ctl.setCove cove f).withCaches k) : b.OneCove t cove v := by
  obtain ⟨hcove, hothers, hctl⟩ := h
  refine ⟨?_, fun i hi => ?_, ?_⟩
  · rw [ht, cove_withCaches, Ctl.cove_setCove_same, hf, hcove]
    rfl
  · rw [ht, cove_withCaches, Ctl.cove_setCove_other _ _ _ _ hi, hothers i hi]
  · rw [ht, Ctl.withCaches, Ctl.setCove, hctl]

theorem Block.OneCove.touchAs (h : b.OneCove c cove v) (stream second : Bool) (as : List Access) :
    b.OneCove ((touchAs stream cove second as).run c) cove v := by
  obtain ⟨tlb, k, hrun⟩ := touchAs_run stream cove second as c
  exact h.caches _ (fun v => { v with tlb := tlb }) k (fun _ => rfl) (by rw [hrun])

theorem Block.OneCove.fetchLine (h : b.OneCove c cove v) (second : Bool) (pc : Nat) : b.OneCove ((fetchLine cove second pc).run c) cove v :=
  h.caches _ (fun v => { v with icache := useFirst 256 (second, pc / 64) v.icache }) c.ctl.engine.caches (fun _ => rfl) rfl

end OneCove

/-! ## Fetching (R50, R228) -/

/-- The line that a fetch brings into the instruction cache changes no translation. -/
theorem space_fetchLine (cove : Nat) (second : Bool) (pc : Nat) (b : Block) :
    ((fetchLine cove second pc).run b).ctl.space cove second = b.ctl.space cove second := by
  have htlb : (((fetchLine cove second pc).run b).ctl.cove cove).tlb = (b.ctl.cove cove).tlb := by
    simp [fetchLine]
  simp only [Ctl.space, Ctl.walks, htlb]
  rfl

/-- Accesses, behind a fetch's line or not, leave a block that differs from what they ask for in its engine alone. -/
theorem touch_run_asking (cove : Nat) (second : Bool) (as : List Access) (b : Block) :
    ∃ e, b.touched cove second as = ((asking (b.ctl.space cove second) as).run b).withEngine e := by
  obtain ⟨tlb, k, hrun⟩ := touchAs_run false cove second as b
  refine ⟨((b.ctl.setCove cove fun v => { v with tlb := tlb }).withCaches k).engine, ?_⟩
  rw [Block.touched, touch, hrun, asking_run _ _ (only_asking _ _)]
  rfl

theorem touch_fetchLine_asking (cove : Nat) (second : Bool) (pc : Nat) (as : List Access) (b : Block) :
    ∃ e, ((fetchLine cove second pc).run b).touched cove second as = ((asking (b.ctl.space cove second) as).run b).withEngine e := by
  obtain ⟨e, he⟩ := touch_run_asking cove second as ((fetchLine cove second pc).run b)
  have hline : (fetchLine cove second pc).run b = b.withEngine ((fetchLine cove second pc).run b).ctl.engine := rfl
  refine ⟨e, ?_⟩
  rw [he, space_fetchLine, hline, engineBlind_asking]
  rfl

/-- What is asked for changes no protected part but the messages and the count of free values. -/
theorem asked_of_asking (b : Block) (cove : Nat) (second : Bool) (as : List Access) (e : Engine) :
    b.Asked (((asking (b.ctl.space cove second) as).run b).withEngine e) cove second as := by
  obtain ⟨e', he'⟩ := touch_run_asking cove second as b
  have hask := asking_run b _ (only_asking (b.ctl.space cove second) as)
  rw [Block.Asked, he', hask]
  exact ⟨rfl, rfl, rfl, rfl, rfl, rfl, rfl, rfl, rfl, rfl, rfl, rfl⟩

section Asked
variable {b t : Block} {cove : Nat} {second : Bool} {as : List Access} (h : b.Asked t cove second as)
include h

theorem Block.Asked.mem_eq : t.mem = b.mem := h.1
theorem Block.Asked.host_eq : t.host = b.host := h.2.1

/-- What is asked for leaves the arbiter, the clock and the fuses alone. -/
theorem Block.Asked.arb_time_fuses : t.arb = b.arb ∧ t.lhTime = b.lhTime ∧ t.fuses = b.fuses := by
  obtain ⟨-, -, -, -, -, -, harb, htime, hfuses, -⟩ := h
  exact ⟨harb, htime, hfuses⟩

end Asked

/-- A thread that stands at a 4-byte word fetches it: the block goes through caches and board loads alone, and the instruction's own effect
follows. -/
theorem Block.Fetches.run_fetchThen {b : Block} {cove th : Nat} {u : Thread} {x : Ctx} {w : Nat} (h : b.Fetches cove th u x w) :
    ∃ c : Block, b.OneCove c cove (b.ctl.cove cove) ∧ b.Asked c cove x.second [rd u.pc.toNat 4] ∧ c.sems = b.sems ∧
      ∀ k, (fetchThen cove th k).run b = (k c u x w 4).run c := by
  obtain ⟨hu, hrun, hx, hbad2, hbad4, hlong, hw⟩ := h
  obtain ⟨e, he⟩ := touch_run_asking cove x.second [rd u.pc.toNat 4] b
  obtain ⟨e', he'⟩ := touch_fetchLine_asking cove x.second u.pc.toNat [rd u.pc.toNat 4] b
  have hword : (((fetchLine cove x.second u.pc.toNat).run b).touched cove x.second [rd u.pc.toNat 4]).natVa
      (b.ctl.space cove x.second) u.pc.toNat 4 = w := by
    rw [← hw, he, he', natVa_withEngine, natVa_withEngine]
  refine ⟨((fetchLine cove x.second u.pc.toNat).run b).touched cove x.second [rd u.pc.toNat 4], ?_, ?_, ?_, fun k => ?_⟩
  · exact ((Block.OneCove.refl b cove).fetchLine _ _).touchAs _ _ _
  · rw [he']; exact asked_of_asking _ _ _ _ _
  · rw [he', asking_run _ _ (only_asking _ _)]; rfl
  · simp only [fetchThen, run_look, hu, hx, run_opt_some, hrun, beq_self_eq_true, run_when_true, hbad2, run_seq, hlong, if_true, hbad4]
    exact congrArg (fun n => (k _ u x n 4).run _) hword

/-! # The signals of a record: what they leave alone, and what the semaphores after them depend on (R61, R64, R281) -/

/-! ## What signals change -/

/-- A signal arrives at a semaphore of the module, or goes out as a message. -/
def Eff.Signals : Eff → Prop
  | .signal _ _ | .poison _ | .send _ _ => True
  | _ => False

/-- Poison arrives at a semaphore of the module, or goes out as a message. -/
def Eff.Poisons : Eff → Prop
  | .poison _ | .send _ _ => True
  | _ => False

/-- Memories, fuses, the engine, the strap that numbers the module and the pair are the same. -/
structure Block.SignalFrame (b t : Block) : Prop where
  mem    : t.mem = b.mem
  host   : t.host = b.host
  fuses  : t.fuses = b.fuses
  engine : t.ctl.engine = b.ctl.engine
  glb    : t.ctl.glb = b.ctl.glb
  pair   : t.ctl.pair = b.ctl.pair

theorem Block.SignalFrame.trans {b c d : Block} (h : b.SignalFrame c) (h' : c.SignalFrame d) : b.SignalFrame d :=
  ⟨h'.mem.trans h.mem, h'.host.trans h.host, h'.fuses.trans h.fuses, h'.engine.trans h.engine, h'.glb.trans h.glb, h'.pair.trans h.pair⟩

/-- An event leaves the frame of signals alone. -/
theorem signalFrame_accept (b : Block) (code source detail : Nat) : b.SignalFrame (b.accept code source detail) := ⟨rfl, rfl, rfl, rfl, rfl, rfl⟩

theorem signalFrame_of_only {b : Block} {a : Act} (ha : a.Only Eff.Signals) : b.SignalFrame (a.run b) := by
  refine Act.Only.keeps b Eff.Signals b.SignalFrame (fun c e he hc => hc.trans ?_) a ha ⟨rfl, rfl, rfl, rfl, rfl, rfl⟩
  cases e <;> simp only [Eff.Signals] at he
  case signal k n =>
    simp only [Eff.apply]
    split <;> exact ⟨rfl, rfl, rfl, rfl, rfl, rfl⟩
  case poison k => exact ⟨rfl, rfl, rfl, rfl, rfl, rfl⟩
  case send d m => exact ⟨rfl, rfl, rfl, rfl, rfl, rfl⟩

theorem arb_of_only {b : Block} {a : Act} (ha : a.Only Eff.Poisons) : (a.run b).arb = b.arb := by
  refine Act.Only.keeps b Eff.Poisons (fun t => t.arb = b.arb) (fun c e he hc => ?_) a ha rfl
  cases e <;> simp only [Eff.Poisons] at he
  case poison k => exact hc
  case send d m => exact hc

theorem only_signalLocal (second : Bool) (sem n : Nat) (poison : Bool) : (signalLocal second sem n poison).Only Eff.Signals := by
  cases poison <;> exact ⟨trivial, trivial⟩

theorem only_signalSlot (second : Bool) (slot sem n : Nat) (poison : Bool) : (signalSlot second slot sem n poison).Only Eff.Signals := fun b => by
  dsimp only
  split
  · exact only_signalLocal _ _ _ _
  · split
    · exact only_signalLocal _ _ _ _
    · exact ⟨trivial, trivial⟩

theorem only_signalEntry (second poison : Bool) (e : Nat) : (signalEntry second poison e).Only Eff.Signals := by
  dsimp only [signalEntry]
  split
  · exact only_signalSlot _ _ _ _ _
  · exact only_signalLocal _ _ _ _

theorem poisons_signalEntry (second : Bool) (e : Nat) : (signalEntry second true e).Only Eff.Poisons := by
  dsimp only [signalEntry]
  split
  · intro b
    dsimp only
    split
    · exact ⟨trivial, trivial⟩
    · split <;> exact ⟨trivial, trivial⟩
  · exact ⟨trivial, trivial⟩

theorem signalFrame_signalled (b : Block) (second : Bool) (r : Bytes) (poison : Bool) : b.SignalFrame (b.signalled second r poison) :=
  signalFrame_of_only (only_each _ _ _ (only_signalEntry second poison))

/-- Poisoned signals raise no event. -/
theorem arb_signalled_poison (b : Block) (second : Bool) (r : Bytes) : (b.signalled second r true).arb = b.arb :=
  arb_of_only (only_each _ _ _ (poisons_signalEntry second))

/-! ## What signals depend on -/

/-- What the semaphores after a signal depend on is the same: the semaphores, the module's own slot and its pair. -/
structure Block.SignalsAlike (b c : Block) : Prop where
  sems : c.sems = b.sems
  glb  : c.ctl.glb = b.ctl.glb
  pair : c.ctl.pair = b.ctl.pair

section SignalsAlike
variable {b c : Block}

/-- The same signals give the same semaphores. -/
theorem Block.SignalsAlike.of_only (h : b.SignalsAlike c) {a a' : Act} (ha : a.Only Eff.Signals) (ha' : a'.Only Eff.Signals)
    (hsems : (a'.run c).sems = (a.run b).sems) : (a.run b).SignalsAlike (a'.run c) := by
  have hb := signalFrame_of_only (b := b) ha
  have hc := signalFrame_of_only (b := c) ha'
  exact ⟨hsems, by rw [hc.glb, hb.glb, h.glb], by rw [hc.pair, hb.pair, h.pair]⟩

theorem Block.SignalsAlike.sems_signalLocal (h : b.SignalsAlike c) (second : Bool) (sem n : Nat) (poison : Bool) :
    ((signalLocal second sem n poison).run c).sems = ((signalLocal second sem n poison).run b).sems := by
  cases poison <;> simp [signalLocal, Block.sem, h.sems]

theorem Block.SignalsAlike.sems_signalSlot (h : b.SignalsAlike c) (second : Bool) (slot sem n : Nat) (poison : Bool) :
    ((signalSlot second slot sem n poison).run c).sems = ((signalSlot second slot sem n poison).run b).sems := by
  have hslot : c.slot = b.slot := by simp [Block.slot, h.glb]
  have htaken : c.takenSlot = b.takenSlot := by simp [Block.takenSlot, h.pair]
  simp only [signalSlot, run_look, hslot, htaken]
  split
  · exact h.sems_signalLocal _ _ _ _
  · split
    · exact h.sems_signalLocal _ _ _ _
    · exact h.sems

theorem Block.SignalsAlike.signalEntry (h : b.SignalsAlike c) (second poison : Bool) (e : Nat) :
    ((signalEntry second poison e).run b).SignalsAlike ((signalEntry second poison e).run c) := by
  refine h.of_only (only_signalEntry _ _ _) (only_signalEntry _ _ _) ?_
  simp only [Machine.signalEntry]
  split
  · exact h.sems_signalSlot _ _ _ _ _
  · exact h.sems_signalLocal _ _ _ _

theorem Block.SignalsAlike.each (h : b.SignalsAlike c) (second poison : Bool) (es : List Nat) :
    ((Act.each es (Machine.signalEntry second poison)).run b).SignalsAlike ((Act.each es (Machine.signalEntry second poison)).run c) := by
  induction es generalizing b c with
  | nil => exact h
  | cons e es ih => simpa only [run_each_cons] using ih (h.signalEntry second poison e)

theorem Block.SignalsAlike.signalled (h : b.SignalsAlike c) (second : Bool) (r : Bytes) (poison : Bool) :
    (c.signalled second r poison).sems = (b.signalled second r poison).sems := (h.each second poison (recSignals r)).sems

end SignalsAlike

/-! # A KERNEL operation starts: its threads' registers, and the reservations that its core drops (R95) -/

/-! ## A KERNEL operation that may run -/

/-- An operation that may run and that nothing refuses or finds empty does its own work. -/
theorem Block.Runnable.run_runInstance {b : Block} {cove n op : Nat} {x : Ctx} (h : b.Runnable cove n op x)
    {extra : Block → Ctx → Bool × Bool × Bool} {zero : Ctx → Bool} (hextra : extra b x = (false, false, false)) (hzero : zero x = false)
    (k : Ctx → Act) : (runInstance cove n op extra zero k).run b = (k x).run b := by
  obtain ⟨hx, hop, hwaits, hfault, -, holdest, hmax, hm, hn, hk⟩ := h
  simp [runInstance, hx, hop, hwaits, hfault, holdest, hmax, hextra, hzero, hm, hn, hk]

/-- The thread with which a KERNEL starts one of the hardware's (R95), which keeps its machine CSRs. -/
def startedAs (x : Ctx) (n t : Nat) (u : Thread) : Thread := startThread x n t u.mcsr

/-- The threads of a KERNEL start on a free core, without the reservations that the core's threads held. -/
theorem Block.Runnable.run_kernelAct {b : Block} {cove n : Nat} {x : Ctx} (h : b.Runnable cove n opKernel x)
    (hfree : (b.ctl.cove cove).coreFree = true) :
    (kernelAct cove n).run b = (updCtx cove n fun y => { y with begun := true }).run ((Act.each [0, 1, 2, 3] fun t => .one (.reserve cove t none)).run
      ((Act.upd fun c => c.setCove cove fun v =>
        (List.range (u8 x.record 112)).foldl (fun v t => v.setThread t (startedAs x n t (v.thread t))) v).run b)) := by
  rw [kernelAct, h.run_runInstance rfl rfl]
  obtain ⟨-, -, -, -, hbegun, -⟩ := h
  simp only [run_look, hbegun, hfree, Bool.not_false, Bool.and_self, run_when_true, run_seq]
  rfl

/-- The threads of a core lose their reservations. -/
theorem run_dropReserves (b : Block) (cove : Nat) :
    (Act.each [0, 1, 2, 3] fun t => .one (.reserve cove t none)).run b =
      { b with lrs := b.lrs.filter fun g => !(g.cove == cove && decide (g.thread < 4)) } := by
  have hfour : ∀ g : Reserve, ((!(g.cove == cove && g.thread == 3)) && ((!(g.cove == cove && g.thread == 2)) &&
      ((!(g.cove == cove && g.thread == 1)) && !(g.cove == cove && g.thread == 0)))) = !(g.cove == cove && decide (g.thread < 4)) := fun g => by
    rw [Bool.eq_iff_iff]
    simp only [Bool.and_eq_true, Bool.not_eq_true', Bool.and_eq_false_iff, beq_eq_false_iff_ne, decide_eq_false_iff_not]
    omega
  simp only [run_each_cons, run_each_nil, run_one, Eff.apply, reserveOf, Option.toList_none, List.map_nil, List.nil_append, List.filter_filter,
    hfour]

/-! ## The registers with which a thread starts (R95) -/

/-- A little-endian string is below its width. -/
theorem leNat_lt (bs : Bytes) : leNat bs < 256 ^ bs.length := by
  induction bs with
  | nil => decide
  | cons a bs ih =>
    have ha : a.toNat < 256 := a.isLt
    rw [leNat, List.length_cons, Nat.pow_succ]
    omega

theorem u64_lt (r : Bytes) (o : Nat) : u64 r o < 2 ^ 64 := by
  have hlen : (slice r o 8).length ≤ 8 := List.length_take_le _ _
  exact Nat.lt_of_lt_of_le (leNat_lt _) (Nat.pow_le_pow_right (by decide) hlen)

@[simp] theorem toNat_ofNat_u64 (r : Bytes) (o : Nat) : (BitVec.ofNat 64 (u64 r o)).toNat = u64 r o := by
  rw [BitVec.toNat_ofNat, Nat.mod_eq_of_lt (u64_lt r o)]

/-- A run of entries set in order: what each entry reads. -/
theorem Tab.get_setRun {α : Type} [DecidableEq α] (d : α) (t : Tab α) (a m j : Nat) (g : Nat → α) :
    Tab.get d (((List.range m).map fun i => (a + i, g i)).foldl (fun t e => Tab.set d t e.1 e.2) t) j =
      if a ≤ j ∧ j < a + m then g (j - a) else Tab.get d t j := by
  induction m with
  | zero => simp [show ¬ (a ≤ j ∧ j < a) by omega]
  | succ m ih =>
    simp only [List.range_succ, List.map_append, List.map_cons, List.map_nil, List.foldl_append, List.foldl_cons, List.foldl_nil,
      Tab.get_set, ih]
    by_cases hj : j = a + m
    · simp [hj]
    · simp [hj, show (a ≤ j ∧ j < a + (m + 1)) ↔ (a ≤ j ∧ j < a + m) by omega]

/-- The integer registers of a thread at its start. -/
theorem startThread_rx (x : Ctx) (n t : Nat) (m : Tab (BitVec 64)) (i : Nat) : (startThread x n t m).rx i =
    if i = 2 then BitVec.ofNat 64 (u64 x.record 120 + (t + 1) * u32 x.record 116)
    else if i = 17 then BitVec.ofNat 64 x.op
    else if i = 16 then BitVec.ofNat 64 (x.m + x.n * 2 ^ 20 + x.k * 2 ^ 40)
    else if 10 ≤ i ∧ i < 16 then BitVec.ofNat 64 (u64 x.record (128 + 8 * (i - 10))) else 0 := by
  by_cases h0 : i = 0
  · subst h0; rfl
  · rw [Thread.rx, if_neg h0]
    simp only [startThread, List.foldl_append, List.foldl_cons, List.foldl_nil, Tab.get_set, Tab.get_setRun]
    rfl

/-- What a thread of a KERNEL holds when it starts (R95). -/
structure Thread.StartsAs (u : Thread) (x : Ctx) (n k : Nat) : Prop where
  state : u.state = .running
  ctx   : u.ctx = n
  pc    : u.pc.toNat = u64 x.record 104
  args  : ∀ i < 6, (u.rx (10 + i)).toNat = u64 x.record (128 + 8 * i)
  shape : u.rx 16 = BitVec.ofNat 64 (x.m + x.n * 2 ^ 20 + x.k * 2 ^ 40)
  op    : u.rx 17 = BitVec.ofNat 64 x.op
  stack : u.rx 2 = BitVec.ofNat 64 (u64 x.record 120 + (k + 1) * u32 x.record 116)
  zeros : ∀ i < 32, i ≠ 2 → (i < 10 ∨ 17 < i) → u.rx i = 0
  files : ∀ i < 32, u.rf i = 0 ∧ Tab.get 0 u.v i = 0
  vtype : u.rc csrVtype = 2 ^ 63

theorem startThread_startsAs (x : Ctx) (n k : Nat) (m : Tab (BitVec 64)) : (startThread x n k m).StartsAs x n k where
  state := rfl
  ctx := rfl
  pc := toNat_ofNat_u64 _ _
  args i hi := by
    rw [startThread_rx, if_neg (by omega), if_neg (by omega), if_neg (by omega), if_pos (by omega), Nat.add_sub_cancel_left, toNat_ofNat_u64]
  shape := startThread_rx x n k m 16
  op := startThread_rx x n k m 17
  stack := startThread_rx x n k m 2
  zeros i _ h2 hi := by
    rw [startThread_rx, if_neg h2, if_neg (by omega), if_neg (by omega), if_neg (by omega)]
  files _ _ := ⟨rfl, rfl⟩
  vtype := rfl

/-- The block after a KERNEL that may run has found its core free. -/
theorem Block.Runnable.kernel_starts {b : Block} {cove n : Nat} {x : Ctx} (h : b.Runnable cove n opKernel x)
    (hfree : (b.ctl.cove cove).coreFree = true) :
    let t := (kernelAct cove n).run b
    b.OneCove t cove (((List.range (u8 x.record 112)).foldl (fun v t => v.setThread t (startedAs x n t (v.thread t)))
      (b.ctl.cove cove)).setCtx n (some { x with begun := true })) ∧ t.sems = b.sems ∧
    { b with lrs := b.lrs.filter fun g => !(g.cove == cove && decide (g.thread < 4)) }.Untouched t := by
  have hx : (b.ctl.cove cove).ctx n = some x := h.1
  have hstart := (Block.OneCove.refl b cove).upd (cacheBlind_setThreads (startedAs x n) (u8 x.record 112))
  simp only [h.run_kernelAct hfree, run_dropReserves]
  refine ⟨?_, rfl, rfl, rfl, rfl, rfl, rfl, rfl, rfl, rfl, rfl, rfl, rfl, rfl⟩
  have hbegun := hstart.updCtx n fun y => { y with begun := true }
  rw [Cove.ctx_setThreads, hx] at hbegun
  exact hbegun

/-! # A thread ends by ECALL, and with the last one the kernel (R96) -/

/-! ## The end of a kernel (R48, R96, R291) -/

/-- A thread of the kernel in a context that ends: it is idle and keeps its machine CSRs. -/
def stopped (n : Nat) (u : Thread) : Thread := if u.state != .idle && u.ctx == n then { Thread.idle with mcsr := u.mcsr } else u

/-- A cove after the kernel in a context has ended: its threads have stopped and the context is free. -/
def Cove.kernelGone (v : Cove) (n : Nat) : Cove :=
  ((List.range 4).foldl (fun v t => v.setThread t (stopped n (v.thread t))) v).setCtx n none

theorem run_stopThreads (cove n : Nat) (b : Block) :
    (stopThreads cove n).run b = { b with ctl := b.ctl.setCove cove fun v => (List.range 4).foldl (fun v t => v.setThread t (stopped n (v.thread t))) v } := by
  have hstep : (fun (v : Cove) (t : Nat) => if (v.thread t).state != .idle && (v.thread t).ctx == n then
      v.setThread t { Thread.idle with mcsr := (v.thread t).mcsr } else v) = fun v t => v.setThread t (stopped n (v.thread t)) := by
    funext v t
    simp only [stopped]
    split
    · rfl
    · exact (Cove.setThread_thread v t).symm
  rw [stopThreads, run_upd, hstep]
  rfl

@[simp] theorem Cove.ctx_kernelGone (v : Cove) (n : Nat) : (v.kernelGone n).ctx n = none := Cove.ctx_setCtx _ _ _

theorem Cove.thread_kernelGone (v : Cove) (n k : Nat) (hk : k < 4) : (v.kernelGone n).thread k = stopped n (v.thread k) := by
  rw [Cove.kernelGone, Cove.thread_setCtx, Cove.thread_setThreads _ _ _ _ (Nat.le_refl 4) hk, if_pos hk]

/-- A kernel ends: its record's signals, and its threads and its context free. -/
theorem run_endInstance_kernel {b : Block} {cove n : Nat} {x : Ctx} (hx : (b.ctl.cove cove).ctx n = some x) (hop : rOp x.record = opKernel)
    (poison : Bool) : (endInstance cove n poison).run b = { b.signalled x.second x.record poison with
      ctl := ((b.signalled x.second x.record poison).ctl.setCove cove fun v =>
        (List.range 4).foldl (fun v t => v.setThread t (stopped n (v.thread t))) v).setCove cove fun v => v.setCtx n none } := by
  have hxfer : (rOp x.record == opXfer) = false := by rw [hop]; rfl
  have htide : (rOp x.record == opTide) = false := by rw [hop]; rfl
  simp only [endInstance, endSignals, run_look, hx, run_opt_some, run_all_cons, run_all_nil, hxfer, htide, Bool.and_false, run_when_false,
    run_stopThreads, run_upd]
  rfl

/-- What stands after the end of a kernel. -/
theorem endInstance_kernel {b : Block} {cove n : Nat} {x : Ctx} (hx : (b.ctl.cove cove).ctx n = some x) (hop : rOp x.record = opKernel)
    (poison : Bool) :
    (((endInstance cove n poison).run b).ctl.cove cove) = (b.ctl.cove cove).kernelGone n ∧
    ((endInstance cove n poison).run b).sems = (b.signalled x.second x.record poison).sems ∧
    ((endInstance cove n poison).run b).mem = b.mem ∧ ((endInstance cove n poison).run b).host = b.host ∧
    ((endInstance cove n poison).run b).fuses = b.fuses ∧ (poison = true → ((endInstance cove n poison).run b).arb = b.arb) := by
  have hframe := signalFrame_signalled b x.second x.record poison
  rw [run_endInstance_kernel hx hop]
  refine ⟨?_, rfl, hframe.mem, hframe.host, hframe.fuses, ?_⟩
  · simp only [Ctl.cove_setCove_same]
    rw [Ctl.cove, hframe.engine]
    rfl
  · rintro rfl
    exact arb_signalled_poison b x.second x.record

/-! ## ECALL (R96) -/

/-- A thread after its ECALL. -/
def Thread.afterEcall (u : Thread) : Thread := { u.enterMachine causeEcall with state := .ended }

/-- The context of a kernel after a thread's ECALL: the first whose a0 is not 0 poisons it and leaves its number. -/
def Ctx.afterEcall (x : Ctx) (u : Thread) (th : Nat) : Ctx := if u.rx 10 = 0 ∨ x.poisoned = true then x else { x with poisoned := true, pos := th }

/-- A cove after a thread's ECALL, its kernel still there. -/
def Cove.afterEcall (v : Cove) (th : Nat) (u : Thread) (x : Ctx) : Cove := (v.setThread th u.afterEcall).setCtx u.ctx (some (x.afterEcall u th))

/-- The part of ECALL that poisons the context of a thread whose a0 is not 0. -/
def markPoisoned (cove th : Nat) (u : Thread) : Act :=
  Act.when (u.rx 10 != 0) (updCtx cove u.ctx fun y => if y.poisoned then y else { y with poisoned := true, pos := th })

/-- The part of ECALL that ends the kernel with the last of its threads. -/
def endWithLast (cove n : Nat) : Act :=
  .look fun b =>
    let v := b.ctl.cove cove
    Act.when ([0, 1, 2, 3].all fun u => (v.thread u).state == .idle || (v.thread u).state == .ended) <|
      Act.opt (v.ctx n) fun x => if x.poisoned then endPoisoned cove n (v.thread x.pos).pc.toNat 0xFF x.pos else endInstance cove n false

theorem ecallAct_eq (cove th : Nat) : ecallAct cove th = fetchThen cove th fun _ u _ w len => Act.when (len == 4 && w == ecallWord) <|
    Act.all [updThread cove th Thread.afterEcall, markPoisoned cove th u, endWithLast cove u.ctx] := rfl

@[simp] theorem Ctx.record_afterEcall (x : Ctx) (u : Thread) (th : Nat) : (x.afterEcall u th).record = x.record := by
  rw [Ctx.afterEcall]; split <;> rfl

@[simp] theorem Ctx.second_afterEcall (x : Ctx) (u : Thread) (th : Nat) : (x.afterEcall u th).second = x.second := by
  rw [Ctx.afterEcall]; split <;> rfl

theorem Block.OneCove.markPoisoned {b c : Block} {cove : Nat} {v : Cove} (h : b.OneCove c cove v) (th : Nat) {u : Thread} {x : Ctx}
    (hx : v.ctx u.ctx = some x) : b.OneCove ((markPoisoned cove th u).run c) cove (v.setCtx u.ctx (some (x.afterEcall u th))) := by
  by_cases h0 : u.rx 10 = 0
  · have hkeep : v.setCtx u.ctx (some x) = v := by rw [← hx, Cove.setCtx_ctx]
    simpa [Machine.markPoisoned, Ctx.afterEcall, h0, hkeep] using h
  · have hset := h.updCtx u.ctx fun y => if y.poisoned then y else { y with poisoned := true, pos := th }
    rw [hx] at hset
    have hne : (u.rx 10 != 0) = true := bne_iff_ne.2 h0
    simp only [Machine.markPoisoned, hne, run_when_true, Ctx.afterEcall, h0, false_or]
    exact hset

/-- Marking the context changes control state alone. -/
theorem run_markPoisoned (cove th : Nat) (u : Thread) (c : Block) : ∃ ctl, (markPoisoned cove th u).run c = { c with ctl := ctl } := by
  rw [markPoisoned, run_when]
  split
  · exact ⟨_, rfl⟩
  · exact ⟨c.ctl, rfl⟩

/-- An ECALL first marks the thread ended and the context poisoned where a0 is not 0; the kernel ends with its last thread. -/
theorem Block.Fetches.run_ecallAct {b : Block} {cove th : Nat} {u : Thread} {x : Ctx} (h : b.Fetches cove th u x 0x73) :
    ∃ d : Block, b.OneCove d cove ((b.ctl.cove cove).afterEcall th u x) ∧ b.Asked d cove x.second [rd u.pc.toNat 4] ∧ d.sems = b.sems ∧
      (ecallAct cove th).run b = (endWithLast cove u.ctx).run d := by
  obtain ⟨c, hcove, hasked, hsems, hrun⟩ := h.run_fetchThen
  obtain ⟨hu, -, hx, -⟩ := h
  have hended := hcove.updThread th Thread.afterEcall
  rw [hu] at hended
  obtain ⟨ctl, hmark⟩ := run_markPoisoned cove th u ((updThread cove th Thread.afterEcall).run c)
  refine ⟨(markPoisoned cove th u).run ((updThread cove th Thread.afterEcall).run c), hended.markPoisoned th (by rw [Cove.ctx_setThread, hx]), ?_, ?_, ?_⟩
  · rw [hmark]; exact hasked
  · rw [hmark]; exact hsems
  · rw [ecallAct_eq, hrun]
    simp [ecallWord]

/-- The kernel stays while another thread of the core has not ended. -/
theorem run_endWithLast_others {d : Block} {cove : Nat} (n : Nat)
    (h : ∃ k < 4, ((d.ctl.cove cove).thread k).state ≠ .idle ∧ ((d.ctl.cove cove).thread k).state ≠ .ended) :
    (endWithLast cove n).run d = d := by
  obtain ⟨k, hk, hidle, hended⟩ := h
  have hall : ([0, 1, 2, 3].all fun u => ((d.ctl.cove cove).thread u).state == .idle || ((d.ctl.cove cove).thread u).state == .ended) = false := by
    rw [List.all_eq_false]
    exact ⟨k, by simp; omega, by simp [hidle, hended]⟩
  simp only [endWithLast, run_look, hall, run_when_false]

/-- With the last thread of the core the kernel ends, poisoned or not. -/
theorem run_endWithLast_last {d : Block} {cove n : Nat} {y : Ctx}
    (h : ∀ k < 4, ((d.ctl.cove cove).thread k).state = .idle ∨ ((d.ctl.cove cove).thread k).state = .ended)
    (hy : (d.ctl.cove cove).ctx n = some y) :
    (endWithLast cove n).run d =
      if y.poisoned then (endPoisoned cove n ((d.ctl.cove cove).thread y.pos).pc.toNat 0xFF y.pos).run d else (endInstance cove n false).run d := by
  have hall : ([0, 1, 2, 3].all fun u => ((d.ctl.cove cove).thread u).state == .idle || ((d.ctl.cove cove).thread u).state == .ended) = true := by
    rw [List.all_eq_true]
    intro k hk
    have := h k (by simp at hk; omega)
    simpa using this
  simp only [endWithLast, run_look, hall, run_when_true, hy, run_opt_some]
  split <;> rfl

/-- A kernel that ends poisoned for its own reason first raises POISON_RAISED, then ends with poisoned signals (R291, R301). -/
theorem run_endPoisoned_kernel {d : Block} {cove n : Nat} {y : Ctx} (hy : (d.ctl.cove cove).ctx n = some y) (hop : rOp y.record = opKernel)
    (info cause thread : Nat) : (endPoisoned cove n info cause thread).run d = (endInstance cove n true).run
      (((flagPass fun f => { f with poisoned := true }).run d).accept 0x0701 (src 1 cove) (poisonDetail info cause thread cove)) := by
  have htide : ¬ opKernel = opTide := by decide
  simp only [endPoisoned, run_look, hy, run_opt_some, run_all_cons, run_all_nil, poisonCove, poisonSource, hop, htide, if_false]
  rfl

/-- With the last thread of the core a kernel ends; where it is poisoned, POISON_RAISED comes first, and nothing else that its signals see. -/
theorem run_endWithLast_kernel {d : Block} {cove n : Nat} {y : Ctx}
    (h : ∀ k < 4, ((d.ctl.cove cove).thread k).state = .idle ∨ ((d.ctl.cove cove).thread k).state = .ended)
    (hy : (d.ctl.cove cove).ctx n = some y) (hop : rOp y.record = opKernel) :
    ∃ c : Block, (endWithLast cove n).run d = (endInstance cove n y.poisoned).run c ∧ d.SignalFrame c ∧ c.sems = d.sems ∧
      (y.poisoned = true → d.Raised c 0x0701 (src 1 cove) (poisonDetail ((d.ctl.cove cove).thread y.pos).pc.toNat 0xFF y.pos cove)) := by
  rw [run_endWithLast_last h hy]
  cases y.poisoned with
  | true =>
    simp only [if_true, run_endPoisoned_kernel hy hop]
    exact ⟨_, rfl, ⟨rfl, rfl, rfl, rfl, rfl, rfl⟩, rfl, fun _ => rfl⟩
  | false => exact ⟨d, rfl, ⟨rfl, rfl, rfl, rfl, rfl, rfl⟩, rfl, fun h => absurd h Bool.false_ne_true⟩

/-- An event is the same to the arbiter from a block that differs from the first in one cove and in what it has asked for. -/
theorem raised_of_asked {b d c : Block} {cove : Nat} {second : Bool} {as : List Access} {v : Cove} (hcove : b.OneCove d cove v)
    (hasked : b.Asked d cove second as) {code source detail : Nat} (h : d.Raised c code source detail) : b.Raised c code source detail := by
  have hglb := hcove.glb_eq
  obtain ⟨harb, htime, -⟩ := hasked.arb_time_fuses
  rw [Block.Raised, h]
  simp only [Block.accept, hglb, harb, htime]

/-- What stands after a kernel has ended from a block that differs from the first in one cove and in what signals leave alone. -/
theorem kernel_ends {b d c : Block} {cove n : Nat} {second : Bool} {as : List Access} {v : Cove} {y : Ctx} (hcove : b.OneCove d cove v)
    (hasked : b.Asked d cove second as) (hsems : d.sems = b.sems) (hframe : d.SignalFrame c) (hsems' : c.sems = d.sems) (hy : v.ctx n = some y)
    (hop : rOp y.record = opKernel) (poison : Bool) :
    let t := (endInstance cove n poison).run c
    (t.ctl.cove cove).ctx n = none ∧ (∀ k < 4, (t.ctl.cove cove).thread k = stopped n (v.thread k)) ∧
    t.sems = (b.signalled y.second y.record poison).sems ∧ t.mem = b.mem ∧ t.host = b.host ∧ t.fuses = b.fuses ∧
    (poison = true → t.arb = c.arb) := by
  obtain ⟨-, -, hfuses⟩ := hasked.arb_time_fuses
  have hsame : c.ctl.cove cove = d.ctl.cove cove := by rw [Ctl.cove, Ctl.cove, hframe.engine]
  have halike : b.SignalsAlike c := ⟨hsems'.trans hsems, hframe.glb.trans hcove.glb_eq, hframe.pair.trans hcove.pair_eq⟩
  obtain ⟨hgone, hsig, hm, hh, hf, harb⟩ := endInstance_kernel (b := c) (by rw [hsame, hcove.ctx_eq, hy]) hop poison
  refine ⟨?_, fun k hk => ?_, hsig.trans (halike.signalled _ _ _), ?_, ?_, ?_, harb⟩
  · rw [hgone, Cove.ctx_kernelGone]
  · rw [hgone, Cove.thread_kernelGone _ _ _ hk, hsame, hcove.thread_eq]
  · exact hm.trans (hframe.mem.trans hasked.mem_eq)
  · exact hh.trans (hframe.host.trans hasked.host_eq)
  · exact hf.trans (hframe.fuses.trans hfuses)

/-- An ECALL with other threads of the core still there ends the thread alone. -/
theorem Block.Fetches.ecall_others {b : Block} {cove th : Nat} {u : Thread} {x : Ctx} (h : b.Fetches cove th u x 0x73) (hth : th < 4)
    (hothers : ∃ k < 4, k ≠ th ∧ ((b.ctl.cove cove).thread k).state ≠ .idle ∧ ((b.ctl.cove cove).thread k).state ≠ .ended) :
    let t := (ecallAct cove th).run b
    b.OneCove t cove ((b.ctl.cove cove).afterEcall th u x) ∧ t.sems = b.sems ∧ b.Asked t cove x.second [rd u.pc.toNat 4] := by
  obtain ⟨d, hcove, hasked, hsems, hrun⟩ := h.run_ecallAct
  obtain ⟨k, hk, hne, hidle, hended⟩ := hothers
  have hthread : (d.ctl.cove cove).thread k = (b.ctl.cove cove).thread k := by
    rw [hcove.thread_eq, Cove.afterEcall, Cove.thread_setCtx, Cove.thread_setThread_other _ _ _ _ hth hk hne]
  have hstay : (endWithLast cove u.ctx).run d = d := run_endWithLast_others _ ⟨k, hk, by rwa [hthread], by rwa [hthread]⟩
  simp only [hrun, hstay]
  exact ⟨hcove, hsems, hasked⟩

/-- The ECALL of a kernel's last thread ends the kernel. -/
theorem Block.Fetches.ecall_last {b : Block} {cove th : Nat} {u : Thread} {x : Ctx} (h : b.Fetches cove th u x 0x73) (hth : th < 4)
    (hothers : ∀ k < 4, k ≠ th → ((b.ctl.cove cove).thread k).state = .idle ∨ ((b.ctl.cove cove).thread k).state = .ended)
    (hop : rOp x.record = opKernel) :
    let y := x.afterEcall u th
    let t := (ecallAct cove th).run b
    (t.ctl.cove cove).ctx u.ctx = none ∧ (t.ctl.cove cove).thread th = { Thread.idle with mcsr := u.afterEcall.mcsr } ∧
    t.sems = (b.signalled x.second x.record y.poisoned).sems ∧ t.mem = b.mem ∧ t.host = b.host ∧ t.fuses = b.fuses ∧
    (y.poisoned = true → b.Raised t 0x0701 (src 1 cove)
      (poisonDetail (((b.ctl.cove cove).setThread th u.afterEcall).thread y.pos).pc.toNat 0xFF y.pos cove)) := by
  obtain ⟨d, hcove, hasked, hsems, hrun⟩ := h.run_ecallAct
  have hthread : ∀ k, (d.ctl.cove cove).thread k = ((b.ctl.cove cove).setThread th u.afterEcall).thread k := fun k => by
    rw [hcove.thread_eq, Cove.afterEcall, Cove.thread_setCtx]
  have hctx : ((b.ctl.cove cove).afterEcall th u x).ctx u.ctx = some (x.afterEcall u th) := Cove.ctx_setCtx _ _ _
  have hall : ∀ k < 4, ((d.ctl.cove cove).thread k).state = .idle ∨ ((d.ctl.cove cove).thread k).state = .ended := fun k hk => by
    rw [hthread]
    by_cases hne : k = th
    · subst hne
      rw [Cove.thread_setThread]
      exact .inr rfl
    · rw [Cove.thread_setThread_other _ _ _ _ hth hk hne]
      exact hothers k hk hne
  have hop' : rOp (x.afterEcall u th).record = opKernel := by rw [Ctx.record_afterEcall, hop]
  have hstopped : stopped u.ctx (((b.ctl.cove cove).afterEcall th u x).thread th) = { Thread.idle with mcsr := u.afterEcall.mcsr } := by
    rw [Cove.afterEcall, Cove.thread_setCtx, Cove.thread_setThread]
    simp [stopped, Thread.afterEcall, Thread.enterMachine]
  obtain ⟨c, hend, hframe, hkept, hraised⟩ := run_endWithLast_kernel hall (by rw [hcove.ctx_eq, hctx]) hop'
  obtain ⟨hfree, hthreads, hsig, hmem, hhost, hfuses, harb⟩ := kernel_ends hcove hasked hsems hframe hkept hctx hop' (x.afterEcall u th).poisoned
  rw [Ctx.record_afterEcall, Ctx.second_afterEcall] at hsig
  simp only [hrun, hend]
  refine ⟨hfree, (hthreads th hth).trans hstopped, hsig, hmem, hhost, hfuses, fun hp => ?_⟩
  have hevent := raised_of_asked hcove hasked (hraised hp)
  rw [hthread] at hevent
  exact (harb hp).trans hevent

/-! # The statement about the start and the end of kernels -/

/-- Settles O39: a KERNEL's threads start with R95's registers on a free core; each ECALL ends its thread, and the last one the kernel. -/
theorem kernelsStartAndEnd : Obligations.KernelsStartAndEnd := by
  unfold Obligations.KernelsStartAndEnd
  refine ⟨fun s cove n x hrun hfree hcount => ?_, fun s cove th u x hfetch _ => ⟨fun hothers => ?_, fun hothers hop => ?_⟩⟩
  · obtain ⟨hcove, hsems, hrest⟩ := hrun.kernel_starts hfree
    refine ⟨_, rfl, hcove, hsems, hrest, fun k hk => ?_⟩
    have hthread := hcove.thread_eq k
    rw [Cove.thread_setCtx, Cove.thread_setThreads _ _ _ _ hcount (by omega), if_pos hk] at hthread
    have hs := startThread_startsAs x n k ((s.block.ctl.cove cove).thread k).mcsr
    simp only [hthread]
    exact ⟨hs.state, hs.ctx, hs.pc, hs.args, hs.shape, hs.op, hs.stack, hs.zeros, hs.files, hs.vtype⟩
  · exact ⟨_, rfl, hfetch.ecall_others th.isLt hothers⟩
  · exact ⟨_, rfl, hfetch.ecall_last th.isLt hothers hop⟩

end Sys2Proof.Machine

namespace Sys2Proof.Machine

/-! # Signals at a semaphore of the module (R281, R284) -/

/-! ## The semaphore word: COUNT and POISON of a word that is put together, and of the word after a SIGNAL -/

theorem toNat_semWord (count : Nat) (poison : Bool) : (semWord count poison).toNat = (if poison then 2 ^ 31 else 0) + count % 2 ^ 31 := by
  rw [semWord, BitVec.toNat_ofNat]
  cases poison <;> simp <;> omega

@[simp] theorem semCount_semWord (count : Nat) (poison : Bool) : semCount (semWord count poison) = count % 2 ^ 31 := by
  rw [semCount, toNat_semWord]
  cases poison <;> simp

@[simp] theorem semPoisoned_semWord (count : Nat) (poison : Bool) : semPoisoned (semWord count poison) = poison := by
  rw [semPoisoned, toNat_semWord]
  cases poison
  · simpa using Nat.mod_lt count (by decide : 0 < 2 ^ 31)
  · simp

theorem semCount_lt (w : BitVec 32) : semCount w < 2 ^ 31 := Nat.mod_lt _ (by decide)

theorem le_semMax_iff {m : Nat} : m ≤ semMax ↔ m < 2 ^ 31 := Nat.le_sub_one_iff_lt (by decide)

theorem semSignal_of_lt {w : BitVec 32} {n : Nat} (h : semCount w + n < 2 ^ 31) : semSignal w n = semWord (semCount w + n) (semPoisoned w) :=
  if_pos (le_semMax_iff.2 h)

theorem semSignal_of_le {w : BitVec 32} {n : Nat} (h : 2 ^ 31 ≤ semCount w + n) : semSignal w n = semWord semMax true :=
  if_neg (mt le_semMax_iff.1 h.not_gt)

theorem semOverflows_of_lt {w : BitVec 32} {n : Nat} (h : semCount w + n < 2 ^ 31) : semOverflows w n = false := by
  simp [semOverflows, le_semMax_iff.2 h]

theorem semOverflows_of_le {w : BitVec 32} {n : Nat} (h : 2 ^ 31 ≤ semCount w + n) : semOverflows w n = !semPoisoned w := by
  simp [semOverflows, mt le_semMax_iff.1 h.not_gt]

/-! ## The semaphores and the arbiter after a SIGNAL or a SIGNAL_POISON -/

section Effects
variable (b : Block)

@[simp] theorem sem_apply_signal (k n : Nat) : (Eff.apply b (.signal k n)).sem k = semSignal (b.sem k) n := by simp [Block.sem]

theorem sem_apply_signal_other {k j : Nat} (n : Nat) (h : j ≠ k) : (Eff.apply b (.signal k n)).sem j = b.sem j := by
  simp [Block.sem, Tab.get_set_other, h]

@[simp] theorem sem_apply_poison (k : Nat) : (Eff.apply b (.poison k)).sem k = semWord (semCount (b.sem k)) true := by simp [Block.sem]

theorem sem_apply_poison_other {k j : Nat} (h : j ≠ k) : (Eff.apply b (.poison k)).sem j = b.sem j := by
  simp [Block.sem, Tab.get_set_other, h]

/-- A SIGNAL that poisons the semaphore raises POISON_RAISED with cause 0xFD and the semaphore's number. -/
theorem raised_apply_signal {k n : Nat} (h : semOverflows (b.sem k) n = true) :
    b.Raised (Eff.apply b (.signal k n)) 0x0701 0 (poisonDetail k 0xFD 0 0x3FF) := by
  simp [Block.Raised, Eff.apply, h, Block.accept]

end Effects

/-! ## The commands -/

theorem runs_signal {s : State} (hawake : s.block.ctl.awake = true) (sem : Fin 32768) {n : BitVec 31} (hn : n ≠ 0) :
    Runs (.signal sem n) s (Eff.apply s.block (.signal sem.val n.toNat)) := by
  have hpos : 1 ≤ n.toNat := Nat.one_le_iff_ne_zero.2 fun h => hn (BitVec.eq_of_toNat_eq h)
  have hrun : (signalAct sem.val n.toNat).run s.block = Eff.apply s.block (.signal sem.val n.toNat) := by simp [signalAct, hawake, hpos]
  rw [← hrun]
  rfl

theorem runs_signalPoison {s : State} (hawake : s.block.ctl.awake = true) (sem : Fin 32768) :
    Runs (.signalPoison sem) s (Eff.apply s.block (.poison sem.val)) := by
  have hrun : (signalPoisonAct sem.val).run s.block = Eff.apply s.block (.poison sem.val) := by simp [signalPoisonAct, hawake]
  rw [← hrun]
  rfl

/-- Settles O33: below 2^31 a SIGNAL adds and touches nothing but its semaphore, above it saturates and poisons, with an event where the
semaphore was not poisoned; SIGNAL_POISON sets POISON alone. -/
theorem signals : Obligations.Signals := by
  unfold Obligations.Signals
  intro s sem n hawake w
  refine ⟨fun hn hlt => ⟨_, runs_signal hawake sem hn, ?_⟩, fun hn hle => ⟨_, runs_signal hawake sem hn, ?_⟩,
    ⟨_, runs_signalPoison hawake sem, ?_⟩⟩
  · have hword := (sem_apply_signal s.block sem.val n.toNat).trans (semSignal_of_lt hlt)
    refine ⟨?_, ?_, fun k => sem_apply_signal_other _ _, ?_⟩
    · rw [hword, semCount_semWord, Nat.mod_eq_of_lt hlt]
    · rw [hword, semPoisoned_semWord]
    · rw [apply_signal_plain _ _ _ (semOverflows_of_lt hlt)]
  · have hword := (sem_apply_signal s.block sem.val n.toNat).trans (semSignal_of_le hle)
    have hover : semOverflows w n.toNat = !semPoisoned w := semOverflows_of_le hle
    refine ⟨?_, ?_, fun k => sem_apply_signal_other _ _, apply_signal_mem _ _ _, apply_signal_host _ _ _, apply_signal_out _ _ _,
      fun hp => ?_, fun hp => raised_apply_signal _ ?_⟩
    · rw [hword, semCount_semWord]
      rfl
    · rw [hword, semPoisoned_semWord]
    · rw [apply_signal_plain _ _ _ (by rw [hover, hp]; rfl)]
    · rw [hover, hp]
      rfl
  · refine ⟨?_, ?_, fun k => sem_apply_poison_other _, rfl⟩
    · rw [sem_apply_poison, semCount_semWord, Nat.mod_eq_of_lt (semCount_lt _)]
    · rw [sem_apply_poison, semPoisoned_semWord]

end Sys2Proof.Machine

namespace Sys2Proof.Machine

/-! # Commands of the rings that complete as they start: NOP, SET_POWER, QUERY_INFO, READ_COUNTERS (R354, R355, R437, R444) -/

/-! ## One command of the list of taken commands changed in place -/

theorem find?_map_cmd {cs : List Cmd} {id : Nat} {x : Cmd} {f : Cmd → Cmd} (hf : ∀ y, (f y).id = y.id)
    (hx : cs.find? (fun y => y.id == id) = some x) :
    (cs.map fun y => if y.id = id then f y else y).find? (fun y => y.id == id) = some (f x) := by
  have hid : ((fun y : Cmd => y.id == id) ∘ fun y => if y.id = id then f y else y) = fun y => y.id == id := by
    funext y
    simp only [Function.comp_apply]
    split <;> simp [hf]
  have hxid : x.id = id := by simpa using List.find?_some hx
  rw [List.find?_map, hid, hx, Option.map_some, if_pos hxid]

theorem mem_map_cmd_other {cs : List Cmd} {id : Nat} {y : Cmd} (f : Cmd → Cmd) (hy : y ∈ cs) (hne : y.id ≠ id) :
    y ∈ cs.map fun y => if y.id = id then f y else y :=
  List.mem_map.2 ⟨y, hy, if_neg hne⟩

/-! ## A command that starts, and one that ends -/

theorem Block.OthersKept.trans {b c d : Block} {id : Nat} (h : b.OthersKept c id) (h' : c.OthersKept d id) : b.OthersKept d id := by
  obtain ⟨hcmds, hrings, hport0, hport1⟩ := h
  obtain ⟨hcmds', hrings', hport0', hport1'⟩ := h'
  exact ⟨fun y hy hne => hcmds' y (hcmds y hy hne) hne, hrings'.trans hrings, hport0'.trans hport0, hport1'.trans hport1⟩

theorem othersKept_started (b : Block) (id : Nat) : b.OthersKept (b.started id) id :=
  ⟨fun _ => mem_map_cmd_other _, rfl, rfl, rfl⟩

theorem othersKept_finish (b : Block) (id : Nat) (st : Status) (r : Bytes) : b.OthersKept ((finish id st r).run b) id :=
  ⟨fun _ => mem_map_cmd_other _, rfl, rfl, rfl⟩

theorem cmd_started {b : Block} {id : Nat} {x : Cmd} (hx : b.ctl.cmd id = some x) :
    (b.started id).ctl.cmd id = some { x with phase := .running, startNo := b.ctl.hif.nextStart } :=
  find?_map_cmd (f := fun y => { y with phase := .running, startNo := b.ctl.hif.nextStart }) (fun _ => rfl) hx

theorem ended_finish {b : Block} {id : Nat} {x : Cmd} (hx : b.ctl.cmd id = some x) (st : Status) (r : Bytes) :
    ((finish id st r).run b).Ended id st r :=
  ⟨_, find?_map_cmd
    (f := fun y => { y with
      phase := .finished, status := st.code, result := result16 r, finNo := b.ctl.hif.nextFin, evtNo := b.arb.next })
    (fun _ => rfl) hx, rfl, rfl, rfl⟩

/-- The block with a taken command started and at once ended. -/
def Block.completed (b : Block) (id : Nat) (st : Status) (r : Bytes) : Block := (finish id st r).run (b.started id)

/-- The command has started and ended with this status and result, and nothing but its completion comes of it. -/
structure Block.Completes (b t : Block) (id : Nat) (st : Status) (r : Bytes) : Prop where
  ended   : t.Ended id st r
  others  : b.OthersKept t id
  outside : b.SameOutside t
  ctl     : t.ctl = { b.ctl with hif := t.ctl.hif }

theorem completes_completed {b : Block} {id : Nat} {x : Cmd} (hx : b.ctl.cmd id = some x) (st : Status) (r : Bytes) :
    b.Completes (b.completed id st r) id st r where
  ended := ended_finish (cmd_started hx) st r
  others := (othersKept_started b id).trans (othersKept_finish _ id st r)
  outside := ⟨rfl, rfl, rfl, rfl, rfl, rfl, rfl, rfl, rfl, rfl, rfl, rfl⟩
  ctl := rfl

/-! ## Starting: the module state, and the commands that may run -/

/-- A command of which a tree is the meaning runs to what the tree makes of the block. -/
theorem runs_of_perform {i : Instr} {s : State} {a : Act} {t : Block} (hi : exec i s = s.perform a) (ht : a.run s.block = t) : Runs i s t := by
  rw [Runs, hi, State.perform, ht]

theorem inStates_anyRingState (b : Block) : inStates anyRingState b = b.ctl.glb.state.ringState := by
  unfold inStates
  cases b.ctl.glb.state <;> rfl

section MayRun
variable {b : Block} {id op : Nat} {x : Cmd}

theorem Block.MayRun.cmd_eq (h : b.MayRun id op x) : b.ctl.cmd id = some x := h.1

theorem Block.MayRun.inStates (h : b.MayRun id op x) : inStates anyRingState b = true := by
  obtain ⟨-, -, -, hring, -⟩ := h
  rw [inStates_anyRingState, hring]

/-- A command that may run and that is legal in the module state starts, and its own effect follows. -/
theorem Block.MayRun.run_startCmd (h : b.MayRun id op x) {legal : Block → Cmd → Bool} (hlegal : legal b x = true) (k : Cmd → Act) :
    (startCmd id op legal k).run b = (k x).run (b.started id) := by
  obtain ⟨hx, hop, hstart, hring, htrouble⟩ := h
  simp only [startCmd, run_look, hx, hop, hstart, hring, beq_self_eq_true, Bool.and_self, run_when_true, run_eff, hlegal, htrouble]
  rfl

end MayRun

/-! ## NOP (R354) -/

theorem Block.MayRun.run_nopAct {b : Block} {id : Nat} {x : Cmd} (h : b.MayRun id 0x01 x) : (nopAct id).run b = b.completed id .ok [] :=
  h.run_startCmd h.inStates _

/-! ## SET_POWER (R437, R444) -/

/-- Entering IDLE, or not, is no more than a change of the power state's name. -/
theorem run_enterIdle (b : Block) : ∃ st, enterIdle.run b = b.withPower fun p => { p with state := st } := by
  simp only [enterIdle, run_upd]
  split
  · exact ⟨_, rfl⟩
  · exact ⟨_, rfl⟩

/-- What SET_POWER makes of the power state: the cap is in force, TARGET 0 forbids IDLE and leaves it, TARGET 1 permits it, TARGET 2 does
neither. -/
structure Power.SetTo (p q : Power) (target cap : Nat) : Prop where
  cap     : q.capW = cap
  forbids : target = 0 → q.idleOk = false ∧ q.state ≠ .idle
  permits : target = 1 → q.idleOk = true
  keeps   : target = 2 → q.idleOk = p.idleOk ∧ q.state = p.state

/-- The power state as the operands of SET_POWER say, before IDLE may be entered. -/
def Power.operandsSet (p : Power) (target cap : Nat) : Power :=
  { p with
    capW := cap
    idleOk := match target with | 0 => false | 1 => true | _ => p.idleOk
    state := if target = 0 ∧ p.state = .idle then .run else p.state }

theorem Power.setTo_operandsSet (p : Power) (target cap : Nat) : p.SetTo (p.operandsSet target cap) target cap := by
  refine ⟨rfl, ?_, ?_, ?_⟩
  · rintro rfl
    refine ⟨rfl, ?_⟩
    simp only [Power.operandsSet, true_and]
    split
    next => decide
    next hidle => exact hidle
  · rintro rfl
    rfl
  · rintro rfl
    exact ⟨rfl, rfl⟩

/-- Entering IDLE does not undo what TARGET 1 set. -/
theorem Power.SetTo.withState {p q : Power} {cap : Nat} (h : p.SetTo q 1 cap) (st : PowerState) : p.SetTo { q with state := st } 1 cap :=
  ⟨h.cap, fun h0 => absurd h0 (by decide), h.permits, fun h2 => absurd h2 (by decide)⟩

theorem legal_setPower {b : Block} {id : Nat} {x : Cmd} (h : b.MayRun id 0x52 x) (hready : u8 x.bytes 32 = 2 → b.ctl.glb.state = .ready) :
    (if u8 x.bytes 32 = 2 then inStates [.ready] b else inStates anyRingState b) = true := by
  split
  next h2 => simp [inStates, hready h2]
  next => exact h.inStates

theorem Block.MayRun.run_setPowerAct {b : Block} {id : Nat} {x : Cmd} (h : b.MayRun id 0x52 x)
    (hready : u8 x.bytes 32 = 2 → b.ctl.glb.state = .ready) :
    ∃ p, (setPowerAct id).run b = (b.completed id .ok []).withPower (fun _ => p) ∧ b.ctl.power.SetTo p (u8 x.bytes 32) (u32 x.bytes 36) := by
  have hrun : (setPowerAct id).run b = (Act.when (u8 x.bytes 32 == 1) enterIdle).run
      ((b.completed id .ok []).withPower fun p => p.operandsSet (u8 x.bytes 32) (u32 x.bytes 36)) := by
    rw [setPowerAct, h.run_startCmd (legal_setPower h hready)]
    simp only [run_all_cons, run_all_nil]
    rfl
  have hset := b.ctl.power.setTo_operandsSet (u8 x.bytes 32) (u32 x.bytes 36)
  rw [hrun, run_when]
  split
  next h1 =>
    rw [beq_iff_eq] at h1
    rw [h1] at hset ⊢
    obtain ⟨st, hidle⟩ := run_enterIdle ((b.completed id .ok []).withPower fun p => p.operandsSet 1 (u32 x.bytes 36))
    exact ⟨_, hidle, hset.withState st⟩
  next => exact ⟨_, rfl, hset⟩

/-! ## QUERY_INFO and READ_COUNTERS (R355, log 37) -/

/-- The command has started and ended with this status and result, and with bytes written to the host at an address. -/
structure Block.CompletesWriting (b t : Block) (id : Nat) (st : Status) (r : Bytes) (addr : Nat) (bytes : Bytes) : Prop where
  ended   : t.Ended id st r
  others  : b.OthersKept t id
  host    : t.host = b.host.write addr bytes
  outside : { b with host := t.host }.SameOutside t
  ctl     : t.ctl = { b.ctl with hif := t.ctl.hif }

theorem Block.Completes.withHost {b t : Block} {id : Nat} {st : Status} {r : Bytes} (h : b.Completes t id st r) (addr : Nat) (bytes : Bytes) :
    b.CompletesWriting { t with host := b.host.write addr bytes } id st r addr bytes := by
  obtain ⟨hended, hothers, ⟨hmem, -, houtside⟩, hctl⟩ := h
  exact ⟨hended, hothers, rfl, ⟨hmem, rfl, houtside⟩, hctl⟩

theorem completesWriting_host_finish {b : Block} {id : Nat} {x : Cmd} (hx : b.ctl.cmd id = some x) (st : Status) (r : Bytes) (addr : Nat)
    (bytes : Bytes) : b.CompletesWriting (((Act.one (.host addr bytes)).seq (finish id st r)).run (b.started id)) id st r addr bytes := by
  rw [run_seq, run_one]
  exact (completes_completed hx st r).withHost addr bytes

section WriteInfo
variable {id : Nat} {c data : Bytes}

theorem writeInfo_of_fits (h : 16 + data.length ≤ u32 c 48) :
    writeInfo id c data = (Act.one (.host (u64 c 40) (leBytes (16 + data.length) 8 ++ leBytes (16 + data.length) 8 ++ data))).seq
      (finish id .ok (leBytes (16 + data.length) 8)) := by
  simp [writeInfo, h]

theorem writeInfo_of_short (h : u32 c 48 < 16 + data.length) :
    writeInfo id c data = (Act.one (.host (u64 c 40) (leBytes (16 + data.length) 8 ++ leBytes 16 8))).seq
      (finish id .okShort (leBytes (16 + data.length) 8)) := by
  simp [writeInfo, h.not_ge]

end WriteInfo

/-- What a command with these bytes does that writes these data behind a header: all of it where OUT_BYTES allows, else the header alone. -/
structure Block.InfoWritten (b t : Block) (id : Nat) (c data : Bytes) : Prop where
  others  : b.OthersKept t id
  fits    : 16 + data.length ≤ u32 c 48 → t.Ended id .ok (leBytes (16 + data.length) 8) ∧
              t.host = b.host.write (u64 c 40) (leBytes (16 + data.length) 8 ++ leBytes (16 + data.length) 8 ++ data)
  short   : u32 c 48 < 16 + data.length → t.Ended id .okShort (leBytes (16 + data.length) 8) ∧
              t.host = b.host.write (u64 c 40) (leBytes (16 + data.length) 8 ++ leBytes 16 8)
  outside : { b with host := t.host }.SameOutside t
  ctl     : t.ctl = { b.ctl with hif := t.ctl.hif }

theorem infoWritten_writeInfo {b : Block} {id : Nat} {x : Cmd} (hx : b.ctl.cmd id = some x) (c data : Bytes) :
    b.InfoWritten ((writeInfo id c data).run (b.started id)) id c data := by
  obtain h | h := Nat.lt_or_ge (u32 c 48) (16 + data.length)
  · rw [writeInfo_of_short h]
    obtain ⟨hended, hothers, hhost, houtside, hctl⟩ := completesWriting_host_finish hx .okShort (leBytes (16 + data.length) 8) (u64 c 40)
      (leBytes (16 + data.length) 8 ++ leBytes 16 8)
    exact ⟨hothers, fun hfits => absurd h hfits.not_gt, fun _ => ⟨hended, hhost⟩, houtside, hctl⟩
  · rw [writeInfo_of_fits h]
    obtain ⟨hended, hothers, hhost, houtside, hctl⟩ := completesWriting_host_finish hx .ok (leBytes (16 + data.length) 8) (u64 c 40)
      (leBytes (16 + data.length) 8 ++ leBytes (16 + data.length) 8 ++ data)
    exact ⟨hothers, fun _ => ⟨hended, hhost⟩, fun hshort => absurd h hshort.not_ge, houtside, hctl⟩

/-- The entries of counters as READ_COUNTERS writes them (Table 16-12). -/
def counterBytes (es : List CounterEntry) : Bytes :=
  es.flatMap fun e => leBytes e.source 2 ++ leBytes e.counter 2 ++ zeroBytes 4 ++ leBytes (e.value % 2 ^ 48) 8

section MayRun
variable {b : Block} {id : Nat} {x : Cmd}

theorem Block.MayRun.infoWritten_queryInfoAct (h : b.MayRun id 0x50 x) :
    b.InfoWritten ((queryInfoAct id).run b) id x.bytes ((b.started id).info (u8 x.bytes 32)) := by
  rw [queryInfoAct, h.run_startCmd h.inStates]
  exact infoWritten_writeInfo h.cmd_eq _ _

theorem Block.MayRun.infoWritten_readCountersAct (h : b.MayRun id 0x51 x) :
    b.InfoWritten ((readCountersAct id).run b) id x.bytes (counterBytes ((b.started id).counters (u8 x.bytes 32))) := by
  rw [readCountersAct, h.run_startCmd h.inStates]
  exact infoWritten_writeInfo h.cmd_eq _ _

end MayRun

/-! ## The statement about NOP, SET_POWER, QUERY_INFO and READ_COUNTERS -/

/-- Settles O13: each of the four starts and ends in one step; beside its completion NOP changes nothing, SET_POWER the power state alone,
QUERY_INFO and READ_COUNTERS the host's memory at OUT_ADDR alone (bytes written of 16 for a header alone: log 37). -/
theorem nopPowerAndInfo : Obligations.NopPowerAndInfo := by
  unfold Obligations.NopPowerAndInfo
  refine ⟨⟨fun s id x hmay => ?_, fun s id x hmay hready => ?_⟩, fun s id x counters hmay => ?_⟩
  · have hdone := completes_completed hmay.cmd_eq .ok []
    exact ⟨_, runs_of_perform rfl hmay.run_nopAct, hdone.ended, hdone.others, hdone.outside, hdone.ctl⟩
  · obtain ⟨p, hrun, hp⟩ := hmay.run_setPowerAct hready
    have hdone := completes_completed hmay.cmd_eq .ok []
    exact ⟨_, runs_of_perform rfl hrun, hdone.ended, hdone.others, hdone.outside, hp.cap, hp.forbids, hp.permits, hp.keeps⟩
  · cases counters with
    | false =>
      have hinfo := hmay.infoWritten_queryInfoAct
      exact ⟨_, rfl, hinfo.others, hinfo.fits, hinfo.short, hinfo.outside, hinfo.ctl⟩
    | true =>
      have hinfo := hmay.infoWritten_readCountersAct
      exact ⟨_, rfl, hinfo.others, hinfo.fits, hinfo.short, hinfo.outside, hinfo.ctl⟩

end Sys2Proof.Machine

namespace Sys2Proof.Machine

/-! # The whole block: every command performs a tree of effects, and what every effect keeps, every step keeps -/

/-- Every command is one tree of effects on the block. -/
theorem exec_performs (i : Instr) (s : State) : ∃ a : Act, exec i s = s.perform a := by
  cases i <;> exact ⟨_, rfl⟩

/-- A step runs one tree of effects on the block. -/
theorem step_performs (s : State) : ∃ (a : Act) (rest : List Instr), step s = .next { block := a.run s.block, pending := rest } := by
  obtain ⟨b, pending⟩ := s
  cases pending with
  | nil => exact ⟨tickAct, [], rfl⟩
  | cons c rest =>
    obtain ⟨a, ha⟩ := exec_performs c { block := b, pending := rest }
    exact ⟨a, rest, ha⟩

/-- What a step that answers `t` has done to the block. -/
theorem block_of_step {s t : State} (h : step s = .next t) : ∃ a : Act, t.block = a.run s.block := by
  obtain ⟨a, rest, hstep⟩ := step_performs s
  rw [hstep] at h
  injection h with ht
  exact ⟨a, by rw [← ht]⟩

/-- Settles O3: each arm of `exec` performs a tree of effects, which always ends (a row whose condition does not hold changes nothing: log 4). -/
theorem everyCommandCompletes : Obligations.EveryCommandCompletes := by
  unfold Obligations.EveryCommandCompletes
  intro i s
  obtain ⟨a, ha⟩ := exec_performs i s
  exact ⟨a.run s.block, ha⟩

/-- Settles O1: by the definition of a step. -/
theorem stepRunsFrontCommand : Obligations.StepRunsFrontCommand := by
  unfold Obligations.StepRunsFrontCommand
  intro c s
  rfl

/-! ## The hold queues of the arbiter (R300, R302) -/

section HoldQueue
variable {q : EventQueue} {next : Nat}

theorem EventQueue.ordered_empty (next : Nat) : EventQueue.empty.Ordered next :=
  ⟨List.Pairwise.nil, fun _ hr => absurd hr List.not_mem_nil, fun h => absurd rfl h⟩

/-- A higher next number keeps a queue in order. -/
theorem EventQueue.Ordered.mono (h : q.Ordered next) {m : Nat} (hm : next ≤ m) : q.Ordered m := by
  obtain ⟨hpair, hlt, hdrop⟩ := h
  exact ⟨hpair, fun r hr => (hlt r hr).trans_le hm, fun hd => ⟨(hdrop hd).1.trans_le hm, (hdrop hd).2⟩⟩

/-- A queue without its oldest record is in order. -/
theorem EventQueue.Ordered.tail (h : q.Ordered next) : ({ q with held := q.held.tail } : EventQueue).Ordered next := by
  obtain ⟨hpair, hlt, hdrop⟩ := h
  have hsub : ∀ r ∈ q.held.tail, r ∈ q.held := fun r => List.mem_of_mem_tail
  exact ⟨hpair.tail, fun r hr => hlt r (hsub r hr), fun hd => ⟨(hdrop hd).1, fun r hr => (hdrop hd).2 r (hsub r hr)⟩⟩

theorem EventQueue.count_tail_le (q : EventQueue) : ({ q with held := q.held.tail } : EventQueue).count ≤ q.count :=
  ((List.tail_sublist q.held).filter _).length_le

/-- The EVENTS_LOST record that an accepted event may bring with it takes no room. -/
theorem EventQueue.filter_lostRecord (q : EventQueue) :
    (if q.dropped = 0 then [] else [q.lostRecord]).filter (fun r => !r.isLost) = [] := by
  split
  · rfl
  · rfl

/-- An event is held only where there is room. -/
theorem EventQueue.count_accept_le (q : EventQueue) (r : EventRec) (h : q.count ≤ eventRoom) : (q.accept r).count ≤ eventRoom := by
  simp only [EventQueue.accept]
  split
  · next hroom =>
    have hone : ([r].filter fun r => !r.isLost).length ≤ 1 := List.length_filter_le _ _
    simp only [EventQueue.count, List.filter_append, EventQueue.filter_lostRecord, List.length_append, List.length_nil] at hroom ⊢
    omega
  · exact h

/-- The event that takes the next number comes after all that a queue holds, and after its open run of drops. -/
theorem EventQueue.Ordered.accept (h : q.Ordered next) (r : EventRec) (hr : r.seqno = next) : (q.accept r).Ordered (next + 1) := by
  obtain ⟨hpair, hlt, hdrop⟩ := h
  simp only [EventQueue.accept]
  split
  · refine ⟨?_, ?_, fun hd => absurd rfl hd⟩
    · split
      · simp only [List.append_nil, List.pairwise_append, List.mem_singleton, forall_eq, List.pairwise_singleton, true_and]
        exact ⟨hpair, fun x hx => hr ▸ hlt x hx⟩
      · next hd =>
        obtain ⟨hseq, hbefore⟩ := hdrop hd
        have hlost : q.lostRecord.seqno = q.dropSeq := rfl
        simp only [List.pairwise_append, List.mem_append, List.mem_singleton, forall_eq, List.pairwise_singleton, true_and]
        refine ⟨⟨hpair, fun x hx => hlost ▸ hbefore x hx⟩, fun x hx => ?_⟩
        rcases hx with hx | rfl
        · exact hr ▸ hlt x hx
        · rw [hlost, hr]
          exact hseq
    · intro x hx
      split at hx
      · simp only [List.append_nil, List.mem_append, List.mem_singleton] at hx
        rcases hx with hx | rfl
        · exact (hlt x hx).trans (Nat.lt_succ_self _)
        · omega
      · next hd =>
        simp only [List.mem_append, List.mem_singleton] at hx
        rcases hx with (hx | rfl) | rfl
        · exact (hlt x hx).trans (Nat.lt_succ_self _)
        · exact (hdrop hd).1.trans (Nat.lt_succ_self _)
        · omega
  · exact ⟨hpair, fun x hx => (hlt x hx).trans (Nat.lt_succ_self _), fun _ => ⟨by dsimp only; omega, fun x hx => hr ▸ hlt x hx⟩⟩

end HoldQueue

/-! ## The invariant of the block -/

section Good
variable {b : Block}

theorem Block.Good.accept (h : b.Good) (code source detail : Nat) : (b.accept code source detail).Good where
  mem := h.mem
  host := h.host
  flash := h.flash
  nor0 := h.nor0
  nor1 := h.nor1
  sems := h.sems
  room0 := EventQueue.count_accept_le _ _ h.room0
  room1 := by
    simp only [Block.accept]
    split
    · exact EventQueue.count_accept_le _ _ h.room1
    · exact h.room1
  order0 := h.order0.accept _ rfl
  order1 := by
    simp only [Block.accept]
    split
    · exact h.order1.accept _ rfl
    · exact h.order1.mono (Nat.le_succ _)
  fuses := h.fuses
  owners := h.owners
  lrs := h.lrs

theorem Block.Good.setSem (h : b.Good) (k : Nat) (w : BitVec 32) : ({ b with sems := Tab.set 0 b.sems k w } : Block).Good :=
  { h with sems := Tab.wf_set 0 _ _ _ h.sems }

theorem Block.Good.dequeue (h : b.Good) (port : Bool) : ({ b with arb := b.arb.dequeue port } : Block).Good := by
  cases port with
  | false => exact { h with room0 := (EventQueue.count_tail_le _).trans h.room0, order0 := h.order0.tail }
  | true => exact { h with room1 := (EventQueue.count_tail_le _).trans h.room1, order1 := h.order1.tail }

/-- A thread holds one reservation: a new one takes the place of its old. -/
theorem pairwise_reserveOf {rs : List Reserve} (h : rs.Pairwise fun r u => ¬ (r.cove = u.cove ∧ r.thread = u.thread)) (cove thread : Nat)
    (bytes : Option (Nat × Nat)) : (reserveOf rs cove thread bytes).Pairwise fun r u => ¬ (r.cove = u.cove ∧ r.thread = u.thread) := by
  have hrest := h.filter fun r => !(r.cove == cove && r.thread == thread)
  cases bytes with
  | none => exact hrest
  | some p =>
    refine List.Pairwise.cons (fun u hu hsame => ?_) hrest
    obtain ⟨hcove, hthread⟩ := hsame
    simp [← hcove, ← hthread] at hu

/-- Every effect keeps the invariant. -/
theorem Block.Good.apply (h : b.Good) (e : Eff) : (Eff.apply b e).Good := by
  cases e with
  | mem a bs => exact { h with mem := Memory.wf_write _ _ _ h.mem, lrs := h.lrs.filter _ }
  | memClear => exact { h with mem := rfl, lrs := List.Pairwise.nil }
  | host a bs => exact { h with host := Memory.wf_write _ _ _ h.host }
  | flash a bs => exact { h with flash := Memory.wf_write _ _ _ h.flash }
  | flashErase => exact { h with flash := rfl }
  | nor dev a bs =>
    cases dev with
    | false => exact { h with nor0 := Memory.wf_write _ _ _ h.nor0 }
    | true => exact { h with nor1 := Memory.wf_write _ _ _ h.nor1 }
  | norErase dev =>
    cases dev with
    | false => exact { h with nor0 := Tab.wf_filter _ _ _ h.nor0 }
    | true => exact { h with nor1 := Tab.wf_filter _ _ _ h.nor1 }
  | signal k n =>
    simp only [Eff.apply]
    split
    · exact (h.setSem k _).accept _ _ _
    · exact h.setSem k _
  | poison k => exact h.setSem k _
  | semReset k v => exact h.setSem k _
  | raise code source detail => exact h.accept code source detail
  | dequeue port => exact h.dequeue port
  | arbReset =>
    exact { h with
      room0 := Nat.zero_le _, room1 := Nat.zero_le _, order0 := EventQueue.ordered_empty 1, order1 := EventQueue.ordered_empty 1 }
  | rollback svn => exact { h with fuses := Nat.max_le.2 ⟨h.fuses, Nat.min_le_right _ _⟩ }
  | enrol slot hash => exact { h with owners := (List.length_modify _ _ _).trans h.owners }
  | revoke slot => exact { h with owners := (List.length_modify _ _ _).trans h.owners }
  | reserve cove thread bytes => exact { h with lrs := pairwise_reserveOf h.lrs cove thread bytes }
  | tick | timeLost | debugOwner | send | fresh | upd => exact { h with }

end Good

/-- Settles O4: every effect keeps the invariant, so every tree of effects, and with it every step, does (reservations of LR: log 61). -/
theorem stepKeepsGood : Obligations.StepKeepsGood := by
  unfold Obligations.StepKeepsGood
  intro s t hgood hstep
  obtain ⟨a, ha⟩ := block_of_step hstep
  rw [ha]
  exact run_keeps s.block Block.Good (fun _ e h => h.apply e) a hgood

/-- Settles O5: after reset every memory and queue is empty and no fuse is blown. -/
theorem resetIsGood : Obligations.ResetIsGood := by
  unfold Obligations.ResetIsGood
  exact {
    mem := rfl, host := rfl, flash := rfl, nor0 := rfl, nor1 := rfl, sems := rfl, room0 := Nat.zero_le _, room1 := Nat.zero_le _,
    order0 := EventQueue.ordered_empty 1, order1 := EventQueue.ordered_empty 1, fuses := Nat.zero_le _, owners := rfl,
    lrs := List.Pairwise.nil }

/-! ## What is written once: fuses, messages, free values (R460, R470; logs 7, 9) -/

section Onward
variable {b c d : Block}

/-- The block differs in no fuse, and messages and free values have at most been added. -/
theorem Block.Onward.of_fuses (hfuses : c.fuses = b.fuses) (hout : ∃ new, c.out = new ++ b.out) (hfresh : b.fresh ≤ c.fresh) : b.Onward c where
  rollback := by rw [hfuses]
  debugOwner := by rw [hfuses]; exact id
  fixed := by rw [hfuses]; exact ⟨rfl, rfl, rfl, rfl, rfl, rfl, rfl⟩
  slots := fun k => by rw [hfuses]; exact ⟨id, id⟩
  sent := hout
  fresh := hfresh

theorem Block.Onward.of_same (hfuses : c.fuses = b.fuses) (hout : c.out = b.out) (hfresh : c.fresh = b.fresh) : b.Onward c :=
  .of_fuses hfuses ⟨[], hout⟩ hfresh.ge

theorem Block.Onward.refl (b : Block) : b.Onward b := .of_same rfl rfl rfl

theorem Block.Onward.trans (h : b.Onward c) (h' : c.Onward d) : b.Onward d where
  rollback := h.rollback.trans h'.rollback
  debugOwner := h'.debugOwner ∘ h.debugOwner
  fixed := by
    obtain ⟨h1, h2, h3, h4, h5, h6, h7⟩ := h.fixed
    obtain ⟨k1, k2, k3, k4, k5, k6, k7⟩ := h'.fixed
    exact ⟨k1.trans h1, k2.trans h2, k3.trans h3, k4.trans h4, k5.trans h5, k6.trans h6, k7.trans h7⟩
  slots := fun k => ⟨(h'.slots k).1 ∘ (h.slots k).1, (h'.slots k).2 ∘ (h.slots k).2⟩
  sent := by
    obtain ⟨new, hnew⟩ := h.sent
    obtain ⟨more, hmore⟩ := h'.sent
    exact ⟨more ++ new, by rw [hmore, hnew, List.append_assoc]⟩
  fresh := h.fresh.trans h'.fresh

/-- Where a slot is changed by what keeps a property, every slot keeps it. -/
theorem getD_ownersSet_keeps {P : OwnerSlot → Prop} {f : OwnerSlot → OwnerSlot} (hf : ∀ o, P o → P (f o)) (slot k : Nat) (os : List OwnerSlot)
    (h : P (os.getD k OwnerSlot.blank)) : P ((ownersSet f slot os).getD k OwnerSlot.blank) := by
  simp only [ownersSet, List.getD_eq_getElem?_getD, List.getElem?_modify] at h ⊢
  cases hk : os[k]? with
  | none => simpa [hk] using h
  | some o =>
    simp only [hk, Option.getD_some] at h
    change P (if slot = k then f o else o)
    split
    · exact hf o h
    · exact h

/-- An owner slot whose change only blows fuses. -/
theorem Block.Onward.ownersSet {f : OwnerSlot → OwnerSlot} (hvalid : ∀ o, o.valid = true → (f o).valid = true)
    (hrevoked : ∀ o, o.revoked = true → (f o).revoked = true) (b : Block) (slot : Nat) :
    b.Onward { b with fuses := { b.fuses with owners := Machine.ownersSet f slot b.fuses.owners } } where
  rollback := le_rfl
  debugOwner := id
  fixed := ⟨rfl, rfl, rfl, rfl, rfl, rfl, rfl⟩
  slots := fun k => ⟨getD_ownersSet_keeps hvalid slot k _, getD_ownersSet_keeps hrevoked slot k _⟩
  sent := ⟨[], rfl⟩
  fresh := le_rfl

/-- Every effect goes onward. -/
theorem Block.onward_apply (b : Block) (e : Eff) : b.Onward (Eff.apply b e) := by
  cases e with
  | nor dev a bs => cases dev <;> exact .of_same rfl rfl rfl
  | norErase dev => cases dev <;> exact .of_same rfl rfl rfl
  | signal k n => exact .of_same (apply_signal_fuses b k n) (apply_signal_out b k n) (apply_signal_fresh b k n)
  | rollback svn => exact { Block.Onward.refl b with rollback := le_max_left _ _ }
  | enrol slot hash => exact .ownersSet (f := fun o => { o with valid := true, hash := hash }) (fun _ _ => rfl) (fun _ h => h) b slot
  | revoke slot => exact .ownersSet (f := fun o => { o with revoked := true }) (fun _ h => h) (fun _ _ => rfl) b slot
  | debugOwner => exact { Block.Onward.refl b with debugOwner := fun _ => rfl }
  | send d m => exact .of_fuses rfl ⟨[_], rfl⟩ le_rfl
  | fresh => exact .of_fuses rfl ⟨[], rfl⟩ (Nat.le_succ _)
  | _ => exact .of_same rfl rfl rfl

end Onward

/-- Settles O6: every effect only blows fuses, adds messages (log 9) and draws free values (log 7), and so does every step. -/
theorem stepIsOnward : Obligations.StepIsOnward := by
  unfold Obligations.StepIsOnward
  intro s t hstep
  obtain ⟨a, ha⟩ := block_of_step hstep
  rw [ha]
  exact run_relates s.block Block.Onward Block.Onward.refl (fun _ _ _ => Block.Onward.trans) Block.onward_apply a

/-! ## A tick of the clock: the links go on, and nothing else of the control state but the coves' counters changes (log 3) -/

/-- The effect is a change of the links' state, or a flit that leaves on a link. -/
def Eff.OnLinks : Eff → Prop
  | .upd f => ∀ c, f c = { c with links := (f c).links }
  | .send d m => ∃ n bs, d = .link n ∧ m = .flit bs
  | _ => False

/-- The block differs in the state of its links and in flits sent on them alone. -/
structure Block.LinksMoved (b c : Block) : Prop where
  frame : c = { b with out := c.out, ctl := { b.ctl with links := c.ctl.links } }
  flits : ∃ new : List Sent, c.out = new ++ b.out ∧ ∀ x ∈ new, ∃ n bs, x = { dest := .link n, msg := .flit bs }

section LinksMoved
variable {b c d : Block}

theorem Block.LinksMoved.refl (b : Block) : b.LinksMoved b := ⟨rfl, [], rfl, fun _ h => absurd h List.not_mem_nil⟩

theorem Block.LinksMoved.trans (h : b.LinksMoved c) (h' : c.LinksMoved d) : b.LinksMoved d where
  frame := by rw [h'.frame, h.frame]
  flits := by
    obtain ⟨new, hnew, hflits⟩ := h.flits
    obtain ⟨more, hmore, hflits'⟩ := h'.flits
    refine ⟨more ++ new, by rw [hmore, hnew, List.append_assoc], fun x hx => ?_⟩
    rcases List.mem_append.1 hx with hx | hx
    · exact hflits' x hx
    · exact hflits x hx

theorem Block.LinksMoved.of_upd (b : Block) {f : Ctl → Ctl} (h : f b.ctl = { b.ctl with links := (f b.ctl).links }) :
    b.LinksMoved ((Act.upd f).run b) := by
  refine ⟨?_, [], rfl, fun _ hx => absurd hx List.not_mem_nil⟩
  rw [run_upd]
  exact congrArg (fun x => { b with ctl := x }) h

theorem Block.LinksMoved.of_only {a : Act} (ha : a.Only Eff.OnLinks) : b.LinksMoved (a.run b) := by
  refine Act.Only.keeps b Eff.OnLinks b.LinksMoved (fun c e he hc => hc.trans ?_) a ha (.refl b)
  cases e <;> simp only [Eff.OnLinks] at he
  case upd f => exact .of_upd c (he c.ctl)
  case send d m =>
    obtain ⟨n, bs, rfl, rfl⟩ := he
    exact ⟨rfl, [_], rfl, fun x hx => ⟨n, bs, List.mem_singleton.1 hx⟩⟩

end LinksMoved

theorem only_updLink (n : Nat) (f : Link → Link) : (updLink n f).Only Eff.OnLinks := (only_upd _ _).2 fun _ => rfl

theorem only_send_flit (n : Nat) (bs : Bytes) : (send (.link n) (.flit bs)).Only Eff.OnLinks := (only_one _ _).2 ⟨n, bs, rfl, rfl⟩

theorem only_pump (n : Nat) : (pump n).Only Eff.OnLinks := fun b => by
  refine only_when _ _ _ fun _ => only_all _ _ fun a ha => ?_
  simp only [List.mem_cons, List.not_mem_nil, or_false] at ha
  rcases ha with rfl | rfl | rfl
  · exact only_updLink _ _
  · exact only_each _ _ _ fun x => only_send_flit _ _
  · exact only_opt _ _ _ fun x => only_updLink _ _

/-- What every step of a fold keeps, the fold keeps. -/
theorem foldl_keeps {α β : Type} (P : β → Prop) {f : β → α → β} (h : ∀ y x, P y → P (f y x)) (xs : List α) {y : β} (hy : P y) : P (xs.foldl f y) := by
  induction xs generalizing y with
  | nil => exact hy
  | cons x xs ih => exact ih (h y x hy)

/-- The control state differs in its links alone. -/
def Ctl.LinksOnly (c d : Ctl) : Prop := d = { c with links := d.links }

theorem Ctl.LinksOnly.trans {c d e : Ctl} (h : c.LinksOnly d) (h' : d.LinksOnly e) : c.LinksOnly e := by
  rw [Ctl.LinksOnly, h', h]

theorem linksOnly_offer (c : Ctl) (dest : Dest) (peer vc flits : Nat) : c.LinksOnly (c.offer dest peer vc flits) := by
  cases dest <;> rfl

theorem linksOnly_packed (b : Block) : b.ctl.LinksOnly b.packed := by
  refine Ctl.LinksOnly.trans (foldl_keeps b.ctl.LinksOnly (fun c x hc => ?_) _ (show b.ctl.LinksOnly b.ctl from rfl)) rfl
  split
  · exact foldl_keeps b.ctl.LinksOnly (fun c n hc => hc.trans (linksOnly_offer c _ _ _ n)) _ hc
  · exact hc

theorem linksOnly_assign (c : Ctl) : c.LinksOnly c.assign := by
  refine foldl_keeps c.LinksOnly (fun d p hd => ?_) _ rfl
  dsimp only
  split
  · exact hd.trans rfl
  · exact hd.trans rfl

theorem linksMoved_linksRun (b : Block) : b.LinksMoved (linksRun.run b) := by
  simp only [linksRun, run_look]
  cases halive : b.ctl.linksAlive with
  | false => exact .refl b
  | true =>
    simp only [run_when_true, run_all_cons, run_all_nil, run_look]
    exact (Block.LinksMoved.of_upd b (f := fun _ => b.packed) (linksOnly_packed b)).trans <| (Block.LinksMoved.of_upd _ (linksOnly_assign _)).trans <|
      .of_only (only_each _ _ _ only_pump)

theorem run_linksRun_of_dead {b : Block} (h : b.ctl.linksAlive = false) : linksRun.run b = b := by
  simp [linksRun, h]

/-- The block as a tick makes it before the links go on. -/
def Block.ticked (b : Block) : Block :=
  let (ns, frac) := tickLength b.ctl.power.state b.ctl.lh.frac
  { b with
    lhTime := b.lhTime + ns
    fresh := if b.ctl.power.clocksDown then b.fresh + 1 else b.fresh
    ctl := { b.ctl with
      lh := { b.ctl.lh with frac := frac }
      engine := { b.ctl.engine with coves := b.ctl.engine.coves.map fun e => (e.1, { e.2 with counters := b.spent e.1 ns }) } } }

theorem run_tickAct (b : Block) : tickAct.run b = linksRun.run b.ticked := by
  simp only [tickAct, Block.ticked, takeFresh, run_look, run_all_cons, run_all_nil, run_one, run_when]
  split <;> rfl

/-- Settles O2: on an empty queue a step is a tick (the model's choice, log 3). -/
theorem emptyQueueTicks : Obligations.EmptyQueueTicks := by
  unfold Obligations.EmptyQueueTicks
  intro s hpending
  have hstep : step s = .next { s with block := linksRun.run s.block.ticked } := by rw [step, hpending, ← run_tickAct]
  obtain ⟨hframe, hflits⟩ := linksMoved_linksRun s.block.ticked
  have halive : s.block.ticked.ctl.linksAlive = s.block.ctl.linksAlive := rfl
  refine ⟨_, hstep, hpending, ?_, ?_, ?_, fun hdead => ?_, hflits, ?_⟩
  · rw [hframe]; rfl
  · rw [hframe]; rfl
  · rw [hframe]; rfl
  · rw [run_linksRun_of_dead (halive.trans hdead)]
    exact ⟨rfl, rfl⟩
  · rw [hframe]
    exact ⟨rfl, rfl, rfl, rfl, rfl, rfl, rfl, rfl, rfl, rfl, rfl, rfl⟩

/-- Settles O7: the registers right after reset, read one by one. -/
theorem resetRegisters : Obligations.ResetRegisters := by
  unfold Obligations.ResetRegisters
  decide +kernel

end Sys2Proof.Machine

namespace Sys2Proof.Machine

/-! # The rings of a port: registers, host stores and doorbell records (R343, R344, R367, R476, R477) -/

/-! ## One ring, and the registers of one port -/

section RingRegisters
variable (b : Block)

theorem ring_updRing (n m : Nat) (f : Ring → Ring) : ((updRing n f).run b).ctl.ring m = if m = n then f (b.ctl.ring n) else b.ctl.ring m :=
  Tab.get_set Ring.reset b.ctl.hif.rings n m _

@[simp] theorem ring_updRing_same (n : Nat) (f : Ring → Ring) : ((updRing n f).run b).ctl.ring n = f (b.ctl.ring n) := by
  simp [ring_updRing]

theorem ring_updRing_other {n m : Nat} (f : Ring → Ring) (h : m ≠ n) : ((updRing n f).run b).ctl.ring m = b.ctl.ring m := by
  simp [ring_updRing, h]

@[simp] theorem ring_updHif (p : Bool) (f : Hif → Hif) (n : Nat) : ((updHif p f).run b).ctl.ring n = b.ctl.ring n := by
  cases p <;> rfl

@[simp] theorem hif_updHif_same (p : Bool) (f : Hif → Hif) : ((updHif p f).run b).ctl.hif.hif p = f (b.ctl.hif.hif p) := by
  cases p <;> rfl

/-- A change of a port's registers is one of the host interface, and of neither its rings nor its commands. -/
theorem run_updHif (p : Bool) (f : Hif → Hif) : ∃ h, (updHif p f).run b = { b with ctl := { b.ctl with hif := h } } ∧ h.cmds = b.ctl.hif.cmds ∧
    h.rings = b.ctl.hif.rings := by
  cases p <;> exact ⟨_, rfl, rfl, rfl⟩

/-! ## Host stores, and POLLING in the doorbell records -/

theorem run_landStores (stores : List HostStore) : (landStores stores).run b = { b with host := landed b.host stores } := by
  rw [landStores]
  induction stores generalizing b with
  | nil => rfl
  | cons s ss ih =>
    rw [run_each_cons, ih]
    rfl

theorem run_each_host {α : Type} (xs : List α) (addr : α → Nat) (bytes : α → Bytes) :
    (Act.each xs fun x => .one (.host (addr x) (bytes x))).run b =
      { b with host := xs.foldl (fun m x => m.write (addr x) (bytes x)) b.host } := by
  induction xs generalizing b with
  | nil => rfl
  | cons x xs ih =>
    rw [run_each_cons, ih]
    rfl

theorem run_writePolling (port : Bool) (v : Byte) : (writePolling port v).run b = { b with host := pollingWritten b port v } :=
  run_each_host b _ (fun n => (b.ctl.ring n).dbrec.toNat + 12) fun _ => [v]

/-! ## Reading the doorbell records -/

/-- A ring with the indices that a host memory holds in its doorbell record. -/
def Ring.reading (r : Ring) (m : Memory) (d : BitVec 64) : Ring :=
  { r with sqTail := m.nat d.toNat 4, cqHead := m.nat (d.toNat + 4) 4 }

/-- Rings changed one after the other, each by what makes no further change a second time. -/
theorem run_each_updRing (ns : List Nat) (g : Nat → Ring → Ring) (hg : ∀ n r, g n (g n r) = g n r) :
    ∃ rings, (Act.each ns fun n => updRing n (g n)).run b = { b with ctl := { b.ctl with hif := { b.ctl.hif with rings := rings } } } ∧
      ∀ m, Tab.get Ring.reset rings m = if m ∈ ns then g m (b.ctl.ring m) else b.ctl.ring m := by
  induction ns generalizing b with
  | nil => exact ⟨b.ctl.hif.rings, rfl, fun m => by simp [Ctl.ring]⟩
  | cons n ns ih =>
    obtain ⟨rings, hrun, hring⟩ := ih ((updRing n (g n)).run b)
    refine ⟨rings, by rw [run_each_cons, hrun]; rfl, fun m => ?_⟩
    rw [hring m, ring_updRing]
    by_cases hmn : m = n
    · subst hmn
      simp [hg]
    · simp [hmn]

/-- What a read of a port's doorbell records makes of the block: the polled rings hold the indices of their records, and nothing else changes
but when the port was last busy and what a pair member knows of its partner's ring. -/
structure Block.RecordsRead (b t : Block) (port : Bool) : Prop where
  frame : t = { b with ctl := { b.ctl with hif := t.ctl.hif, pair := t.ctl.pair } }
  cmds  : t.ctl.hif.cmds = b.ctl.hif.cmds
  ring  : ∀ n, t.ctl.ring n = if n ∈ b.ctl.polled port then (b.ctl.ring n).reading b.host (b.ctl.ring n).dbrec else b.ctl.ring n
  port  : (t.ctl.hif.hif port) = { b.ctl.hif.hif port with busyAt := (t.ctl.hif.hif port).busyAt }

theorem recordsRead_readRecords (port : Bool) : b.RecordsRead ((readRecords port).run b) port := by
  obtain ⟨rings, hrun, hring⟩ := run_each_updRing b (b.ctl.polled port) (fun n r => r.reading b.host (b.ctl.ring n).dbrec) fun _ _ => rfl
  have hread : (readRecords port).run b =
      (Act.when (!port && (b.ctl.pair.role == .bound) && !b.ctl.takenOver) <|
        .upd fun c => { c with pair := { c.pair with ring := { c.pair.ring with cqHead := b.host.nat (c.pair.ring.dbrec + 4) 4 } } }).run
      ((Act.when ((b.ctl.polled port).any fun n => b.host.nat (b.ctl.ring n).dbrec.toNat 4 != (b.ctl.ring n).sqTail)
          (updHif port fun h => { h with busyAt := b.lhTime })).run
        { b with ctl := { b.ctl with hif := { b.ctl.hif with rings := rings } } }) := by
    rw [← hrun]
    simp only [readRecords, run_look, run_all_cons, run_all_nil]
    rfl
  rw [hread, run_when, run_when]
  constructor
  · split <;> split <;> cases port <;> rfl
  · split <;> split <;> cases port <;> rfl
  · intro n
    rw [← hring n]
    split <;> split <;> cases port <;> rfl
  · split <;> split <;> cases port <;> rfl

end RingRegisters

section RecordsRead
variable {b t : Block} {port : Bool} (h : b.RecordsRead t port)
include h

theorem Block.RecordsRead.host_eq : t.host = b.host := by rw [h.frame]
theorem Block.RecordsRead.glb_eq : t.ctl.glb = b.ctl.glb := by rw [h.frame]
theorem Block.RecordsRead.power_eq : t.ctl.power = b.ctl.power := by rw [h.frame]

theorem Block.RecordsRead.sameOutside : b.SameOutside t := by
  rw [h.frame]
  exact ⟨rfl, rfl, rfl, rfl, rfl, rfl, rfl, rfl, rfl, rfl, rfl, rfl⟩

theorem Block.RecordsRead.readsRecord {n : Nat} (hn : n ∈ b.ctl.polled port) : ReadsRecord t n := by
  have hring := h.ring n
  rw [if_pos hn] at hring
  rw [ReadsRecord, hring, h.host_eq]
  exact ⟨rfl, rfl⟩

end RecordsRead

theorem mem_polled_of_mem_ownRings {c : Ctl} {port : Bool} {n : Nat} (hpoll : (c.hif.hif port).polling = true) (hn : n ∈ c.ownRings port) :
    n ∈ c.polled port := by
  simp [Ctl.polled, hpoll, hn]

/-- Registers of a port other than HIF_CTRL have no part in which rings it runs. -/
theorem ownRings_updHif (b : Block) (p q : Bool) {f : Hif → Hif} (hf : ∀ h, (f h).ctrl = h.ctrl) :
    ((updHif p f).run b).ctl.ownRings q = b.ctl.ownRings q := by
  have hon : ∀ r, ((updHif p f).run b).ctl.hifOn r = b.ctl.hifOn r := fun r => by cases p <;> cases r <;> simp [updHif, Ctl.hifOn, HostIf.hif, hf]
  simp only [Ctl.ownRings, Ctl.ringLive, hon, ring_updHif]
  rfl

theorem pollingWritten_updHif (b : Block) (p q : Bool) (v : Byte) {f : Hif → Hif} (hf : ∀ h, (f h).ctrl = h.ctrl) :
    pollingWritten ((updHif p f).run b) q v = pollingWritten b q v := by
  simp only [pollingWritten, ownRings_updHif b p q hf, ring_updHif]
  rfl

/-! ## Polling (R343) -/

theorem run_doorbellPollAct {b : Block} {port : Bool} (stores : List HostStore) (hpolls : b.ctl.polls port = true) :
    (doorbellPollAct port stores).run b = (readRecords port).run { b with host := landed b.host stores } := by
  simp [doorbellPollAct, run_landStores, hpolls]

/-! ## Waking and falling asleep (R344, R444) -/

theorem run_leaveIdle (b : Block) : ∃ p, leaveIdle.run b = b.withPower (fun _ => p) ∧ p.state ≠ .idle := by
  simp only [leaveIdle, run_upd]
  split
  next => exact ⟨_, rfl, by simp⟩
  next h => exact ⟨b.ctl.power, rfl, h⟩

theorem run_hifWakeAct {b : Block} {port : Bool} (hup : b.ctl.barUp port = true) (hon : b.ctl.hifOn port = true) :
    (hifWakeAct port).run b = (readRecords port).run ((writePolling port 1).run
      ((updHif port fun h => { h with polling := true, busyAt := b.lhTime }).run (leaveIdle.run b))) := by
  simp [hifWakeAct, hup, hon]

/-- A port whose records show no new command stops polling. -/
theorem run_pollSleepAct {b t : Block} {port : Bool} (stores : List HostStore) (hpoll : (b.ctl.hif.hif port).polling = true)
    (hon : b.ctl.hifOn port = true) (hnothing : b.nothingToDo port = true)
    (ht : (readRecords port).run { b with host := landed (pollingWritten b port 0) stores } = t)
    (hsame : ∀ n ∈ b.ctl.ownRings port, (t.ctl.ring n).sqTail = (b.ctl.ring n).sqTail) :
    (pollSleepAct port stores).run b = enterIdle.run ((updHif port fun h => { h with polling := false }).run t) := by
  have hnone : ((b.ctl.ownRings port).any fun n => (t.ctl.ring n).sqTail != (b.ctl.ring n).sqTail) = false := by
    rw [List.any_eq_false]
    intro n hn
    simp [hsame n hn]
  simp only [pollSleepAct, run_look, hpoll, hon, hnothing, Bool.and_self, if_true, run_all_cons, run_all_nil, run_writePolling,
    run_landStores, ht, hnone, Bool.false_eq_true, if_false, run_seq]

/-- Entering IDLE is no more than a change of the power state. -/
theorem sameOutside_enterIdle (b : Block) : b.SameOutside (enterIdle.run b) ∧ (enterIdle.run b).ctl.hif = b.ctl.hif := by
  obtain ⟨st, hst⟩ := run_enterIdle b
  rw [hst]
  exact ⟨⟨rfl, rfl, rfl, rfl, rfl, rfl, rfl, rfl, rfl, rfl, rfl, rfl⟩, rfl⟩

theorem sameOutside_updHif (b : Block) (p : Bool) (f : Hif → Hif) : b.SameOutside ((updHif p f).run b) := by
  cases p <;> exact ⟨rfl, rfl, rfl, rfl, rfl, rfl, rfl, rfl, rfl, rfl, rfl, rfl⟩

theorem Block.SameOutside.refl (b : Block) : b.SameOutside b := ⟨rfl, rfl, rfl, rfl, rfl, rfl, rfl, rfl, rfl, rfl, rfl, rfl⟩

theorem Block.SameOutside.trans {b c d : Block} (h : b.SameOutside c) (h' : c.SameOutside d) : b.SameOutside d := by
  obtain ⟨h1, h2, h3, h4, h5, h6, h7, h8, h9, h10, h11, h12⟩ := h
  obtain ⟨k1, k2, k3, k4, k5, k6, k7, k8, k9, k10, k11, k12⟩ := h'
  exact ⟨k1.trans h1, k2.trans h2, k3.trans h3, k4.trans h4, k5.trans h5, k6.trans h6, k7.trans h7, k8.trans h8, k9.trans h9,
    k10.trans h10, k11.trans h11, k12.trans h12⟩

theorem Block.SameOutside.host_eq {b c : Block} (h : b.SameOutside c) : c.host = b.host := h.2.1

/-- The parts outside the control state are those of another block, but for host memory. -/
theorem Block.SameOutside.butHost {b c t : Block} (h : c.SameOutside t) (hc : { b with host := c.host }.SameOutside c) :
    { b with host := t.host }.SameOutside t := by
  rw [h.host_eq]
  exact hc.trans h

/-- Settles O8: what a read of the doorbell records gives, and what waking and falling asleep put around it. -/
theorem pollingReadsDoorbells : Obligations.PollingReadsDoorbells := by
  unfold Obligations.PollingReadsDoorbells
  refine ⟨fun s port stores hpolls => ?_, fun s port hup hon => ?_, fun s port stores hpoll hon hnothing hsame => ?_⟩
  · have hread := recordsRead_readRecords { s.block with host := landed s.block.host stores } (port == 1)
    exact ⟨_, runs_of_perform rfl (run_doorbellPollAct stores hpolls), hread.host_eq, fun n hn => hread.readsRecord hn,
      hread.sameOutside.butHost (.refl _), hread.cmds⟩
  · obtain ⟨p, hleave, hidle⟩ := run_leaveIdle s.block
    let f : Hif → Hif := fun h => { h with polling := true, busyAt := s.block.lhTime }
    obtain ⟨h, hupd, hcmds, -⟩ := run_updHif (s.block.withPower fun _ => p) (port == 1) f
    have hpolling : (h.hif (port == 1)).polling = true := by
      have := hif_updHif_same (s.block.withPower fun _ => p) (port == 1) f
      rw [hupd] at this
      exact congrArg Hif.polling this
    have hown := ownRings_updHif (s.block.withPower fun _ => p) (port == 1) (port == 1) (f := f) fun _ => rfl
    have hwritten := pollingWritten_updHif (s.block.withPower fun _ => p) (port == 1) (port == 1) 1 (f := f) fun _ => rfl
    have hrun := run_hifWakeAct hup hon
    rw [hleave, run_writePolling, hwritten, hupd] at hrun
    rw [hupd] at hown
    have hread := recordsRead_readRecords
      { s.block with host := pollingWritten s.block (port == 1) 1, ctl := { s.block.ctl with power := p, hif := h } } (port == 1)
    refine ⟨_, runs_of_perform rfl hrun, hread.host_eq, fun n hn => hread.readsRecord (mem_polled_of_mem_ownRings hpolling ?_), ?_, ?_, ?_, ?_⟩
    · exact hown ▸ hn
    · exact (congrArg Hif.polling hread.port).trans hpolling
    · exact fun hst => hidle ((congrArg Power.state hread.power_eq).symm.trans hst)
    · exact hread.sameOutside.butHost (.refl _)
    · exact hread.cmds.trans hcmds
  · have hread := recordsRead_readRecords { s.block with host := landed (pollingWritten s.block (port == 1) 0) stores } (port == 1)
    have hrun := run_pollSleepAct stores hpoll hon hnothing rfl fun n hn => by
      rw [hread.ring, if_pos (mem_polled_of_mem_ownRings hpoll hn)]
      exact hsame n hn
    obtain ⟨hidle, hhif⟩ := sameOutside_enterIdle ((updHif (port == 1) fun h => { h with polling := false }).run
      ((readRecords (port == 1)).run { s.block with host := landed (pollingWritten s.block (port == 1) 0) stores }))
    have hout := (hread.sameOutside.trans (sameOutside_updHif _ _ _)).trans hidle
    obtain ⟨h, hupd, hcmds, -⟩ := run_updHif ((readRecords (port == 1)).run
      { s.block with host := landed (pollingWritten s.block (port == 1) 0) stores }) (port == 1) fun h => { h with polling := false }
    refine ⟨_, runs_of_perform rfl hrun, hout.host_eq, ?_, ?_, ?_⟩
    · rw [hhif, hif_updHif_same]
    · exact hout.butHost (.refl _)
    · rw [hhif, hupd]
      exact hcmds.trans hread.cmds

end Sys2Proof.Machine

namespace Sys2Proof.Machine

/-! ## Enabling and disabling a port or a ring (R367, R476, R477) -/

theorem Block.RecordsRead.ctrl_eq {b t : Block} {port : Bool} (h : b.RecordsRead t port) : (t.ctl.hif.hif port).ctrl = (b.ctl.hif.hif port).ctrl :=
  by rw [h.port]

theorem Block.RecordsRead.polling_eq {b t : Block} {port : Bool} (h : b.RecordsRead t port) :
    (t.ctl.hif.hif port).polling = (b.ctl.hif.hif port).polling :=
  by rw [h.port]

theorem Block.SameOutside.butHost_trans {b c t : Block} (h : b.SameOutside c) (h' : { c with host := t.host }.SameOutside t) :
    { b with host := t.host }.SameOutside t := by
  obtain ⟨hmem, -, hrest⟩ := h
  exact Block.SameOutside.trans (c := { c with host := t.host }) ⟨hmem, rfl, hrest⟩ h'

/-- What writing POLLING and then reading the records leaves alone. -/
structure Block.KeepsPort (b t : Block) (port : Bool) : Prop where
  ctrl    : (t.ctl.hif.hif port).ctrl = (b.ctl.hif.hif port).ctrl
  polling : (t.ctl.hif.hif port).polling = (b.ctl.hif.hif port).polling
  outside : { b with host := t.host }.SameOutside t
  cmds    : t.ctl.hif.cmds = b.ctl.hif.cmds

theorem keepsPort_writePolling_readRecords (b : Block) (port : Bool) (v : Byte) :
    b.KeepsPort (((writePolling port v).seq (readRecords port)).run b) port := by
  rw [run_seq, run_writePolling]
  have hread := recordsRead_readRecords { b with host := pollingWritten b port v } port
  exact ⟨hread.ctrl_eq, hread.polling_eq, hread.sameOutside.butHost (.refl _), hread.cmds⟩

theorem Block.KeepsPort.of_when {b : Block} {port c : Bool} {a : Act} (h : b.KeepsPort (a.run b) port) : b.KeepsPort ((Act.when c a).run b) port := by
  cases c with
  | false => exact ⟨rfl, rfl, .refl _, rfl⟩
  | true => exact h

theorem run_hifEnableAct {b : Block} {port : Bool} {v : BitVec 64} (hup : b.ctl.barUp port = true) (hv : v.getLsbD 0 = true) :
    ∃ c : Block, (hifEnableAct port v).run b = (Act.when b.ctl.glb.state.ringState ((writePolling port 1).seq (readRecords port))).run c ∧
      (c.ctl.hif.hif port).ctrl = v &&& hifCtrlMask ∧ (c.ctl.hif.hif port).polling = true ∧ b.SameOutside c ∧ c.ctl.hif.cmds = b.ctl.hif.cmds := by
  let f : Hif → Hif := fun h => { (if b.ctl.hifOn port then h else h.resumeEvents (b.host.nat h.evtDbrec.toNat 4)) with
    ctrl := v &&& hifCtrlMask, polling := true, busyAt := b.lhTime }
  have hport := hif_updHif_same b port f
  obtain ⟨h, hupd, hcmds, -⟩ := run_updHif b port f
  obtain ⟨p, hleave, -⟩ := run_leaveIdle ((updHif port f).run b)
  refine ⟨((updHif port f).run b).withPower fun _ => p, ?_, ?_, ?_, ?_, ?_⟩
  · simp only [hifEnableAct, run_look, hup, hv, Bool.and_self, run_when_true, run_all_cons, run_all_nil, ← hleave]
    rfl
  · exact congrArg Hif.ctrl hport
  · exact congrArg Hif.polling hport
  · exact sameOutside_updHif b port f
  · exact (congrArg (fun t : Block => t.ctl.hif.cmds) hupd).trans hcmds

theorem getLsbD_and_mask {v m : BitVec 64} (hm : m.getLsbD 0 = true) : (v &&& m).getLsbD 0 = v.getLsbD 0 := by
  rw [BitVec.getLsbD_and, hm, Bool.and_true]

/-- With ENABLE set, the writable bits of RING_CTRL are those of its mask and ENABLE. -/
theorem and_ringCtrlMask_or_one {v : BitVec 64} (hv : v.getLsbD 0 = true) : (v &&& ringCtrlMask) ||| 1 = v &&& 0x3F1D := by
  have hone : v &&& 1#64 = 1#64 := by rw [BitVec.and_one_eq_setWidth_ofBool_getLsbD, hv]; rfl
  have hmask : (0x3F1D : BitVec 64) = ringCtrlMask ||| 1#64 := by decide
  rw [hmask, BitVec.and_or_distrib_left, hone]
  rfl

/-- A ring as RING_ENABLE starts it: the indices of its doorbell record, and the bits written. -/
def Block.ringStarted (b : Block) (n : Nat) (v : BitVec 64) : Ring :=
  let d := (b.ctl.ring n).dbrec.toNat
  { ((b.ctl.ring n).start (b.host.nat (d + 8) 4) (b.host.nat (d + 4) 4) (b.host.nat d 4)) with ctrl := (v &&& ringCtrlMask) ||| 1 }

theorem run_ringEnableAct {b : Block} {port : Bool} {n : Nat} {v : BitVec 64} (hmay : b.ctl.mayWriteRing port n = true) (hv : v.getLsbD 0 = true)
    (hoff : (b.ctl.ring n).on = false) (hidle : b.ctl.inflight n = 0) :
    ∃ host : Memory, (ringEnableAct port n v).run b =
      (updHif port fun h => { h with busyAt := b.lhTime }).run ({ ((updRing n fun _ => b.ringStarted n v).run b) with host := host } : Block) := by
  have hcond : (b.ctl.mayWriteRing port n && v.getLsbD 0 && !(b.ctl.ring n).on && b.ctl.inflight n == 0) = true := by
    simp [hmay, hv, hoff, hidle]
  simp only [ringEnableAct, run_look, hcond, run_when_true, run_all_cons, run_all_nil]
  rw [run_when]
  split
  · exact ⟨_, rfl⟩
  · exact ⟨b.host, rfl⟩

theorem run_ringDisableAct {b : Block} {port : Bool} {n : Nat} {v : BitVec 64} (hmay : b.ctl.mayWriteRing port n = true)
    (hv : v.getLsbD 0 = false) (hon : (b.ctl.ring n).on = true) (hpair : b.ctl.pairRing n = false) :
    (ringDisableAct port n v).run b = (updRing n fun r => { r with ctrl := r.ctrl &&& ringCtrlMask }).run b := by
  simp only [ringDisableAct, run_look, hmay, hv, hon, hpair, Bool.not_false, Bool.and_self, run_when_true, if_true]

/-- Settles O9: which register each write changes, and what it leaves alone. -/
theorem portAndRingSwitches : Obligations.PortAndRingSwitches := by
  unfold Obligations.PortAndRingSwitches
  refine ⟨fun s port v hup hv => ?_, fun s port v hup hv => ?_, fun s port n v hmay hv hoff hidle => ?_, fun s port n v hmay hv hon hpair => ?_,
    fun s port v hpair => ?_⟩
  · obtain ⟨c, hrun, hctrl, hpoll, hout, hcmds⟩ := run_hifEnableAct hup hv
    have hkeeps := (keepsPort_writePolling_readRecords c (port == 1) 1).of_when (c := s.block.ctl.glb.state.ringState)
    refine ⟨_, runs_of_perform rfl hrun, ?_, hkeeps.ctrl.trans hctrl, hkeeps.polling.trans hpoll, ?_, hkeeps.cmds.trans hcmds⟩
    · rw [Ctl.hifOn, hkeeps.ctrl, hctrl, getLsbD_and_mask (by decide), hv]
    · exact hout.butHost_trans hkeeps.outside
  · have hrun : (hifDisableAct (port == 1) v).run s.block =
        (updHif (port == 1) fun h => { h with ctrl := v &&& hifCtrlMask, polling := false }).run s.block := by
      simp only [hifDisableAct, run_look, hup, hv, Bool.not_false, Bool.and_self, run_when_true]
    obtain ⟨h, hupd, hcmds, hrings⟩ := run_updHif s.block (port == 1) fun h => { h with ctrl := v &&& hifCtrlMask, polling := false }
    have hport := hif_updHif_same s.block (port == 1) fun h => { h with ctrl := v &&& hifCtrlMask, polling := false }
    refine ⟨_, runs_of_perform rfl hrun, ?_, congrArg Hif.polling hport, sameOutside_updHif _ _ _, ?_, ?_⟩
    · rw [Ctl.hifOn, hport, getLsbD_and_mask (by decide), hv]
    · rw [hupd]
      exact hcmds
    · rw [hupd]
      exact hrings
  · obtain ⟨host, hrun⟩ := run_ringEnableAct hmay hv hoff hidle
    let f : Ring → Ring := fun _ => s.block.ringStarted n v
    have hctrl : (s.block.ringStarted n v).ctrl = v &&& 0x3F1D := and_ringCtrlMask_or_one hv
    have hring : ((ringEnableAct (port == 1) n v).run s.block).ctl.ring n = s.block.ringStarted n v := by
      rw [hrun, ring_updHif]
      exact ring_updRing_same s.block n f
    refine ⟨_, rfl, ?_, ?_, ?_, ?_, fun m hm => ?_⟩
    · rw [hring, hctrl]
    · rw [hring, Ring.on, hctrl, getLsbD_and_mask (by decide), hv]
    · rw [hring]
      rfl
    · rw [hrun]
      exact (sameOutside_updHif _ _ _).butHost (.refl _)
    · rw [hrun, ring_updHif]
      exact ring_updRing_other s.block f hm
  · refine ⟨_, runs_of_perform rfl (run_ringDisableAct hmay hv hon hpair), ?_, rfl, .refl _, fun m hm => ring_updRing_other _ _ hm⟩
    rw [ring_updRing_same, Ring.on]
    simp [ringCtrlMask]
  · have hrun : (ringDisableAct (port == 1) 0 v).run s.block = s.block := by
      simp [ringDisableAct, hpair]
    exact runs_of_perform rfl hrun

end Sys2Proof.Machine

namespace Sys2Proof.Machine

/-! ## Taking a command (R346, R347, R349) -/

/-- The next command of a ring, as it stands in host memory. -/
def Block.nextBytes (b : Block) (n : Nat) : Bytes :=
  b.host.read ((b.ctl.ring n).base.toNat + (b.ctl.ring n).sqHead % (b.ctl.ring n).slots * 128) 128

/-- What is wrong with a command's form or with the semaphores that it names, whatever the plan (R347, R349; log 52). -/
def malformed (slot : Nat) (c : Bytes) : Bool :=
  !formatOk slot c || (cWait c && semNever (u16 c 16)) || (cSignal c && semNever (u16 c 18))

theorem malformed_iff (slot : Nat) (c : Bytes) : malformed slot c = true ↔
    formatOk slot c = false ∨ (cWait c = true ∧ semNever (u16 c 16) = true) ∨ (cSignal c = true ∧ semNever (u16 c 18) = true) := by
  simp [malformed, or_assoc]

/-- The block with the next command of a ring taken, before its form is judged. -/
def Block.takenFrom (b : Block) (n : Nat) : Block :=
  let r := b.ctl.ring n
  { b with
    host := b.host.write (r.dbrec.toNat + 8) (leBytes ((r.sqHead + 1) % 2 ^ 32) 4)
    ctl := { b.ctl with hif := { b.ctl.hif with
      cmds := b.ctl.hif.cmds ++ [Cmd.fresh b.ctl.hif.nextId n r.sqHead (b.nextBytes n)]
      nextId := b.ctl.hif.nextId + 1
      lastRing := n
      rings := Tab.set Ring.reset b.ctl.hif.rings n { r with sqHead := (r.sqHead + 1) % 2 ^ 32 } } } }

theorem ring_takenFrom (b : Block) (n m : Nat) :
    (b.takenFrom n).ctl.ring m = if m = n then { b.ctl.ring n with sqHead := ((b.ctl.ring n).sqHead + 1) % 2 ^ 32 } else b.ctl.ring m :=
  Tab.get_set Ring.reset b.ctl.hif.rings n m _

theorem run_commandTakeAct {b : Block} {n : Nat} (hstate : b.ctl.glb.state.ringState = true) (hpick : b.ctl.pickRing = some n) (hn : n ≠ 0) :
    commandTakeAct.run b = (Act.when (malformed b.slot (b.nextBytes n)) (finish b.ctl.hif.nextId .eFormat [])).run (b.takenFrom n) := by
  simp only [commandTakeAct, run_look, hstate, run_when_true, hpick, run_opt_some, run_all_cons, run_all_nil, beq_eq_false_iff_ne.2 hn,
    run_when_false]
  rfl

theorem mem_cmds_finish {b : Block} {x : Cmd} (id : Nat) (st : Status) (r : Bytes) (hx : x ∈ b.ctl.hif.cmds) (hid : x.id = id) :
    { x with phase := .finished, status := st.code, result := result16 r, finNo := b.ctl.hif.nextFin, evtNo := b.arb.next } ∈
      ((finish id st r).run b).ctl.hif.cmds :=
  List.mem_map.2 ⟨x, hx, if_pos hid⟩

/-- Settles O10: the command of the picked ring is taken, and finished with E_FORMAT where it is malformed (log 52). -/
theorem takeFollowsRing : Obligations.TakeFollowsRing := by
  unfold Obligations.TakeFollowsRing
  intro s n hstate hpick hn r bytes
  have hrun := run_commandTakeAct hstate hpick hn
  have hnew : Cmd.fresh s.block.ctl.hif.nextId n r.sqHead bytes ∈ (s.block.takenFrom n).ctl.hif.cmds := by
    simp [Block.takenFrom, r, bytes, Block.nextBytes]
  have hbad := malformed_iff s.block.slot bytes
  have hsq : ((s.block.takenFrom n).ctl.ring n).sqHead = (r.sqHead + 1) % 2 ^ 32 := by
    rw [ring_takenFrom, if_pos rfl]
  have hother : ∀ m, m ≠ n → (s.block.takenFrom n).ctl.ring m = s.block.ctl.ring m := fun m hm => by rw [ring_takenFrom, if_neg hm]
  have hold : ∀ y ∈ s.block.ctl.hif.cmds, y ∈ (s.block.takenFrom n).ctl.hif.cmds := fun y hy => List.mem_append_left _ hy
  cases hm : malformed s.block.slot bytes with
  | true =>
    rw [show malformed s.block.slot (s.block.nextBytes n) = true from hm, run_when_true] at hrun
    refine ⟨_, runs_of_perform rfl hrun, hsq, rfl, ⟨_, mem_cmds_finish _ .eFormat [] hnew rfl, rfl, rfl, rfl, rfl, fun _ => ⟨rfl, rfl⟩, ?_⟩,
      fun y hy hne => mem_map_cmd_other _ (hold y hy) hne, .refl _, hother⟩
    exact fun hok => absurd (hbad.1 hm) hok
  | false =>
    rw [show malformed s.block.slot (s.block.nextBytes n) = false from hm, run_when_false] at hrun
    refine ⟨_, runs_of_perform rfl hrun, hsq, rfl, ⟨_, hnew, rfl, rfl, rfl, rfl, ?_, fun _ => rfl⟩, fun y hy _ => hold y hy, .refl _, hother⟩
    exact fun h => absurd (hbad.2 h) (by simp [hm])

/-! ## Completions (R339, R340) -/

theorem run_dropLost {b : Block} (h : ∀ y ∈ b.ctl.hif.cmds, y.ring ≠ lostRing) : dropLost.run b = b := by
  have hnone : (b.ctl.hif.cmds.filter fun x => x.ring == lostRing && x.phase == .finished) = [] := by
    rw [List.filter_eq_nil_iff]
    intro y hy
    simp [h y hy]
  have hall : (b.ctl.hif.cmds.filter fun y => !(y.ring == lostRing && y.phase == .finished)) = b.ctl.hif.cmds := by
    rw [List.filter_eq_self]
    intro y hy
    simp [h y hy]
  simp only [dropLost, run_look, hnone, run_seq, run_each_nil, run_upd, hall]

/-- A signal or poison arrives at a semaphore of the module. -/
def Eff.OnSems : Eff → Prop
  | .signal _ _ | .poison _ => True
  | _ => False

/-- Signals that arrive change semaphores; one that saturates raises an event, which rouses the module (R284, R444). -/
theorem onSems_run {b : Block} {a : Act} (ha : a.Only Eff.OnSems) :
    ∃ sems arb power, a.run b = { b with sems := sems, arb := arb, ctl := { b.ctl with power := power } } := by
  refine Act.Only.keeps b Eff.OnSems (fun t => ∃ sems arb power, t = { b with sems := sems, arb := arb, ctl := { b.ctl with power := power } })
    (fun c e he hc => ?_) a ha ⟨b.sems, b.arb, b.ctl.power, rfl⟩
  obtain ⟨sems, arb, power, rfl⟩ := hc
  cases e <;> simp only [Eff.OnSems] at he
  case signal k n =>
    simp only [Eff.apply]
    split
    · exact ⟨_, _, _, rfl⟩
    · exact ⟨_, _, _, rfl⟩
  case poison k => exact ⟨_, _, _, rfl⟩

theorem only_commandSignal (b : Block) (x : Cmd) : (commandSignal b x).Only Eff.OnSems := by
  refine only_when _ _ _ fun _ => ?_
  dsimp only
  split
  · exact (only_one _ _).2 trivial
  · exact only_when _ _ _ fun _ => (only_one _ _).2 trivial

/-- The block after a ring of a port has written the completion of `x`, with or without an interrupt, as it stands behind the command's
signal. -/
def Block.completedOn (b : Block) (n : Nat) (x : Cmd) (port irq : Bool) : Block :=
  let r := b.ctl.ring n
  { b with
    host := b.host.write (r.cqBase.toNat + r.cqCount % r.slots * 32) (completionEntry x r)
    out := (if irq then [{ dest := .host (if port then 1 else 0), msg := .msix r.vector }] else []) ++ b.out
    ctl := { b.ctl with hif := { b.ctl.hif with
      port0 := if port then b.ctl.hif.port0 else { b.ctl.hif.port0 with busyAt := b.lhTime }
      port1 := if port then { b.ctl.hif.port1 with busyAt := b.lhTime } else b.ctl.hif.port1
      rings := Tab.set Ring.reset b.ctl.hif.rings n { r with cqCount := (r.cqCount + 1) % 2 ^ 32 }
      cmds := b.ctl.hif.cmds.filter fun y => y.id != x.id } } }

/-- What has to hold for a ring to write a completion: a free slot, no earlier event unwritten, and a ring that lives. -/
structure Block.MayComplete (b : Block) (n : Nat) (x : Cmd) : Prop where
  state  : b.ctl.glb.state.ringState = true
  live   : b.ctl.ringLive n = true
  next   : b.ctl.nextDone n = some x
  stays  : x.leaves = false
  room   : ((b.ctl.ring n).cqCount + 2 ^ 32 - (b.ctl.ring n).cqHead) % 2 ^ 32 < (b.ctl.ring n).slots
  events : ∀ e ∈ (b.arb.queue (b.ctl.portOf n)).held, x.evtNo ≤ e.seqno

theorem Block.MayComplete.run_completeRing {b : Block} {n : Nat} {x : Cmd} (h : b.MayComplete n x) (hn : n ≠ 0) (hlt : n < 64) :
    (completeRing n).run b =
      ((commandSignal b x).run b).completedOn n x (b.ctl.portOf n) (cIrq x.bytes || (b.ctl.ring n).irqAll) := by
  have hport : (b.ctl.portOf n && n != partnerRing) = b.ctl.portOf n := by simp [partnerRing, show n ≠ 64 by omega]
  have hevents : ((b.arb.queue (b.ctl.portOf n)).held.all fun e => decide (x.evtNo ≤ e.seqno)) = true := by
    simpa using h.events
  simp only [completeRing, run_look, h.next, run_opt_some, hport, decide_eq_true h.room, hevents, h.live, h.state, h.stays, Bool.or_true,
    Bool.and_self, run_when_true, run_when_false, run_all_cons, run_all_nil, beq_eq_false_iff_ne.2 hn]
  obtain ⟨sems, arb, power, hsignal⟩ := onSems_run (b := b) (only_commandSignal b x)
  rw [hsignal]
  generalize b.ctl.portOf n = port
  generalize (cIrq x.bytes || (b.ctl.ring n).irqAll) = irq
  cases port <;> cases irq <;> rfl

theorem Block.MayComplete.run_completionWriteAct {b : Block} {n : Nat} {x : Cmd} (h : b.MayComplete n x) (hn : n ≠ 0) (hlt : n < 64)
    (hlost : ∀ y ∈ b.ctl.hif.cmds, y.ring ≠ lostRing) : (completionWriteAct n).run b =
      ((commandSignal b x).run b).completedOn n x (b.ctl.portOf n) (cIrq x.bytes || (b.ctl.ring n).irqAll) := by
  simp only [completionWriteAct, run_all_cons, run_all_nil, run_dropLost hlost, h.run_completeRing hn hlt, beq_eq_false_iff_ne.2 hn, run_when_false]

theorem ring_completedOn_other {b : Block} {n m : Nat} (x : Cmd) (port irq : Bool) (h : m ≠ n) :
    (b.completedOn n x port irq).ctl.ring m = b.ctl.ring m :=
  Tab.get_set_other _ _ _ _ _ h

theorem ring_completedOn_same (b : Block) (n : Nat) (x : Cmd) (port irq : Bool) :
    (b.completedOn n x port irq).ctl.ring n = { b.ctl.ring n with cqCount := ((b.ctl.ring n).cqCount + 1) % 2 ^ 32 } :=
  Tab.get_set_self _ _ _ _

/-- The bytes that stand between those before and those behind. -/
theorem slice_append (a m c : Bytes) {n k : Nat} (hn : a.length = n) (hk : m.length = k) : slice (a ++ (m ++ c)) n k = m := by
  rw [slice, ← hn, List.drop_left, ← hk, List.take_left]

@[simp] theorem result16_length (r : Bytes) : (result16 r).length = 16 := by
  simp [result16]

theorem fld_append (a c : Bytes) {n k v : Nat} (hn : a.length = n) (hv : v < 256 ^ k) : fld (a ++ (leBytes v k ++ c)) n k = v := by
  rw [fld, slice_append a _ c hn (leBytes_length v k), leNat_leBytes, Nat.mod_eq_of_lt hv]

/-- The fields of a completion entry (Table 11-3). -/
theorem completionEntry_fields {x : Cmd} {r : Ring} (hbytes : x.bytes.length = 128) (hring : x.ring < 64) (hhead : r.sqHead < 2 ^ 32)
    (hstatus : x.status < 256) :
    (completionEntry x r).length = 32 ∧ slice (completionEntry x r) 0 8 = slice x.bytes 8 8 ∧ u32 (completionEntry x r) 8 = r.sqHead ∧
      u16 (completionEntry x r) 12 = x.ring ∧ u8 (completionEntry x r) 14 = x.status ∧
      u8 (completionEntry x r) 15 = (if r.cqCount / r.slots % 2 = 0 then 1 else 0) ∧ slice (completionEntry x r) 16 16 = result16 x.result := by
  have htag : (slice x.bytes 8 8).length = 8 := by simp [slice, hbytes]
  have hphase : (if r.cqCount / r.slots % 2 = 0 then 1 else 0) < 256 ^ 1 := by split <;> decide
  have hne : x.ring ≠ partnerRing := by unfold partnerRing; omega
  simp only [completionEntry, if_neg hne]
  generalize (if r.cqCount / r.slots % 2 = 0 then 1 else 0) = phase at hphase
  generalize slice x.bytes 8 8 = tag at htag
  have hlen : ∀ v k, (leBytes v k).length = k := leBytes_length
  refine ⟨by simp [htag], ?_, ?_, ?_, ?_, ?_, ?_⟩
  · simpa using slice_append [] tag (leBytes r.sqHead 4 ++ leBytes x.ring 2 ++ leBytes x.status 1 ++ leBytes phase 1 ++ result16 x.result) rfl htag
  · simpa [u32] using fld_append tag (leBytes x.ring 2 ++ leBytes x.status 1 ++ leBytes phase 1 ++ result16 x.result) htag hhead
  · simpa [u16] using fld_append (tag ++ leBytes r.sqHead 4) (leBytes x.status 1 ++ leBytes phase 1 ++ result16 x.result) (by simp [htag])
      (show x.ring < 256 ^ 2 by omega)
  · simpa [u8] using fld_append (tag ++ leBytes r.sqHead 4 ++ leBytes x.ring 2) (leBytes phase 1 ++ result16 x.result) (by simp [htag]) hstatus
  · simpa [u8] using fld_append (tag ++ leBytes r.sqHead 4 ++ leBytes x.ring 2 ++ leBytes x.status 1) (result16 x.result) (by simp [htag]) hphase
  · simpa using slice_append (tag ++ leBytes r.sqHead 4 ++ leBytes x.ring 2 ++ leBytes x.status 1 ++ leBytes phase 1) (result16 x.result) []
      (by simp [htag]) (result16_length _)

/-- Settles O11: a ring other than ring 0 writes its next completion behind the command's signal, and the fields of the entry. -/
theorem completionIsWritten : Obligations.CompletionIsWritten := by
  unfold Obligations.CompletionIsWritten
  refine ⟨?_, fun x r hbytes hring hhead hstatus => completionEntry_fields hbytes hring hhead hstatus⟩
  · intro s n x hn hstate hlive hlost hnext hleaves r port hroom hevents
    have hn0 : n.val ≠ 0 := fun h => hn (Fin.ext h)
    have hrun := Block.MayComplete.run_completionWriteAct ⟨hstate, hlive, hnext, hleaves, hroom, hevents⟩ hn0 n.isLt hlost
    obtain ⟨sems, arb, power, hsignal⟩ := onSems_run (b := s.block) (only_commandSignal s.block x)
    rw [hsignal] at hrun
    exact ⟨_, runs_of_perform rfl hrun, rfl, by rw [hsignal]; rfl, rfl, congrArg Ring.cqCount (ring_completedOn_same _ _ _ _ _), rfl, rfl, rfl, rfl,
      rfl, rfl, rfl, fun m hm => ring_completedOn_other _ _ _ hm⟩

end Sys2Proof.Machine

namespace Sys2Proof.Machine

/-! # COPY and FILL: a range of device virtual addresses may lie on a board peer (R216, R356) -/

/-- A command that runs as a tree of effects answers that tree's block and no other. -/
theorem block_of_runs {i : Instr} {s : State} {a : Act} {t : Block} (hi : exec i s = s.perform a) (h : Runs i s t) : t = a.run s.block := by
  rw [Runs, hi, State.perform] at h
  injection h with h
  exact (congrArg State.block h).symm

/-- FILL of one byte at device virtual address 0. -/
def peerFill : Cmd :=
  Cmd.fresh 0 1 0 ([0x41] ++ zeroBytes 31 ++ [0x10] ++ zeroBytes 23 ++ [1] ++ zeroBytes 71)

/-- A plan whose one buffer lies at device virtual address 0, mapped by a final entry of level 2 to frame 0 of the module in slot 1: the entry
stands at 8192, where the level-1 root points. -/
def peerBuffer : State :=
  { State.reset with block := { Block.reset with
      mem := [(8192, 0x01), (8198, 0x01), (Block.reset.root false, 0x03), (Block.reset.root false + 1, 0x20)]
      ctl := { Ctl.reset with
        glb := { Glb.reset with state := .loaded }
        hif := { HostIf.reset with cmds := [peerFill], nextId := 1 }
        plan := { Plan.blank with
          loaded := true
          bufs := [{ entry := zeroBytes 8 ++ leBytes 8192 8 ++ [6] ++ zeroBytes 31, pieces := [], init := [] }] } } } }

theorem peerBuffer_mayRun : peerBuffer.block.MayRun 0 0x41 peerFill := by
  unfold Block.MayRun
  decide +kernel

/-- The one effect of the FILL outside the control state is a store request to the module in slot 1. -/
theorem peerBuffer_sends : ((fillAct 0).run peerBuffer.block).out ≠ peerBuffer.block.out := by decide +kernel

/-- Refutes O14: a FILL of a device virtual range that is mapped to a board peer sends the peer a store request, so the messages sent are not
what they were (R216); the statement has them unchanged for every kind of destination. -/
theorem not_copyAndFill : ¬ Obligations.CopyAndFill := by
  unfold Obligations.CopyAndFill
  intro h
  obtain ⟨t, hruns, -, -, -, -, -, -, -, -, -, -, hout⟩ := h.1.2 peerBuffer 0 peerFill peerBuffer_mayRun (by decide +kernel) (by decide +kernel) (by decide +kernel)
  rw [block_of_runs rfl hruns] at hout
  exact peerBuffer_sends hout

end Sys2Proof.Machine


namespace Sys2Proof.Machine

/-! # Commands that the module state forbids (R350, Table 11-11) -/

section Refused
variable {b : Block} {id op : Nat} {x : Cmd}

/-- A command that may run but is not legal in the module state ends with E_STATE. -/
theorem Block.MayRun.run_startCmd_refused (h : b.MayRun id op x) {legal : Block → Cmd → Bool} (hlegal : legal b x = false) (k : Cmd → Act) :
    (startCmd id op legal k).run b = b.completed id .eState [] := by
  obtain ⟨hx, hop, hstart, hring, -⟩ := h
  simp only [startCmd, run_look, hx, hop, hstart, hring, beq_self_eq_true, Bool.and_self, run_when_true, run_eff, hlegal, Bool.not_false, if_true]
  rfl

/-- A module in another state is not in the one state asked for. -/
theorem inStates_one_false {m : ModState} (h : b.ctl.glb.state ≠ m) : inStates [m] b = false := by
  simp [inStates, h]

theorem completes_of_refused {s : State} {i : Instr} {legal : Block → Cmd → Bool} {k : Cmd → Act} (h : s.block.MayRun id op x)
    (hi : exec i s = s.perform (startCmd id op legal k)) (hlegal : legal s.block x = false) :
    Yields i s fun t => s.block.Completes t id .eState [] :=
  ⟨_, runs_of_perform hi (h.run_startCmd_refused hlegal k), completes_completed h.cmd_eq .eState []⟩

end Refused

/-- Settles O15: each of the five is not legal in the state at hand, so it starts and ends in one go. -/
theorem stateRefusals : Obligations.StateRefusals := by
  intro s id x i op hrun hcase
  have hends : Yields i s fun t => s.block.Completes t id .eState [] := by
    rcases hcase with ⟨rfl, rfl, hst⟩ | ⟨rfl, rfl, hst⟩ | ⟨rfl, rfl, hst⟩ | ⟨rfl, rfl, htarget, hst⟩ | ⟨rfl, rfl, hst⟩
    · exact completes_of_refused hrun rfl (by simp only [inStates_one_false hst, Bool.false_and])
    · exact completes_of_refused hrun rfl (inStates_one_false hst)
    · exact completes_of_refused hrun rfl (by simp only [inStates_one_false hst, Bool.false_and])
    · exact completes_of_refused hrun rfl (by simp only [htarget, if_true, inStates_one_false hst])
    · exact completes_of_refused hrun rfl (by simp only [inStates_one_false hst, Bool.false_and])
  obtain ⟨t, ht, hc⟩ := hends
  exact ⟨t, ht, hc.ended, hc.others, hc.outside, hc.ctl⟩

end Sys2Proof.Machine


namespace Sys2Proof.Machine

/-! # The SPDM responder (R464 to R467) -/

section Spdm
variable {b : Block} {k : SpdmConn}

@[simp] theorem run_answer (b : Block) (k : SpdmConn) (code : SpdmCode) (body : Bytes) : (answer k code body).run b = b.answering k code body := rfl

@[simp] theorem run_answerError (b : Block) (k : SpdmConn) (code : Nat) : (answerError k code).run b = b.answering k .error [octet code] := rfl

@[simp] theorem run_moveConn (b : Block) (k : SpdmConn) (v : SpdmState) : (moveConn k v).run b = b.withSec fun c => c.setConn k v := rfl

/-- A request in its place is served. -/
theorem run_spdmRequest (hup : b.ctl.spdmUp k = true) {v : SpdmState} (hconn : b.ctl.sec.conn k = v) (f : Block → Act) :
    (spdmRequest k [v] f).run b = (f b).run b := by
  simp only [spdmRequest, run_look, hup, run_when_true, hconn, List.contains_cons, beq_self_eq_true, Bool.true_or, if_true]

/-- A request out of its place is answered with UnexpectedRequest. -/
theorem run_spdmRequest_unexpected (hup : b.ctl.spdmUp k = true) {v : SpdmState} (hconn : b.ctl.sec.conn k ≠ v) (f : Block → Act) :
    (spdmRequest k [v] f).run b = b.answering k .error [octet errUnexpected] := by
  have hnot : [v].contains (b.ctl.sec.conn k) = false := by simp [hconn]
  simp only [spdmRequest, run_look, hup, run_when_true, hnot, Bool.false_eq_true, if_false, run_answerError]

theorem run_getVersionAct (hup : b.ctl.spdmUp k = true) :
    (getVersionAct k).run b = (b.withSec fun c => c.setConn k .version).answering k .version [2, 0x00, 0x12, 0x00, 0x13] := by
  simp only [getVersionAct, run_look, hup, run_when_true, run_seq, run_moveConn, run_answer]

theorem run_unsupportedRequestAct (hup : b.ctl.spdmUp k = true) :
    (unsupportedRequestAct k).run b = b.answering k .error [octet errUnsupported] := by
  simp only [unsupportedRequestAct, run_look, hup, run_when_true, run_answerError]

theorem run_negotiateAlgorithmsAct_refused (hup : b.ctl.spdmUp k = true) (hconn : b.ctl.sec.conn k = .capabilities) {e h : Bool}
    (hoff : e = false ∨ h = false) : (negotiateAlgorithmsAct k e h).run b = b.answering k .error [octet errInvalid] := by
  have hand : (e && h) = false := Bool.and_eq_false_iff.2 hoff
  simp only [negotiateAlgorithmsAct, run_spdmRequest hup hconn, hand, Bool.false_eq_true, if_false, run_answerError]

/-- Index 1 to 8 asks for one measurement block. -/
theorem measureSet_one {i : Nat} (hlo : 1 ≤ i) (hhi : i ≤ 8) : measureSet i = some [i] := by
  rw [measureSet, if_neg (by omega), if_neg (by omega), if_pos hhi]

/-- Index 9 and up, but 0xFF, asks for nothing that there is. -/
theorem measureSet_none {i : Nat} (hlo : 8 < i) (hff : i ≠ 0xFF) : measureSet i = none := by
  rw [measureSet, if_neg (by omega), if_neg hff, if_neg (by omega)]

theorem measureBody_one {i : Nat} (hlo : 1 ≤ i) :
    ([if i = 0 then 8 else octet [i].length] ++ [i].flatMap b.measureBlock : Bytes) = [1] ++ b.measureBlock i := by
  rw [if_neg (by omega), List.flatMap_singleton]
  rfl

section Algorithms
variable (hup : b.ctl.spdmUp k = true) (hconn : b.ctl.sec.conn k = .algorithms)
include hup hconn

theorem run_getCertificateAct (slot offset len : Nat) (hslot : slot < 8) : (getCertificateAct k slot offset len).run b =
    if (⟨slot, hslot⟩ : Fin 8) ≠ 0 ∨ b.chain.length ≤ offset then b.answering k .error [octet errInvalid]
    else b.answering k .certificate ([0] ++ leBytes (slice b.chain offset len).length 2 ++
      leBytes (b.chain.length - (offset + (slice b.chain offset len).length)) 2 ++ slice b.chain offset len) := by
  have hzero : (⟨slot, hslot⟩ : Fin 8) ≠ 0 ↔ slot ≠ 0 := not_congr Fin.mk_eq_zero
  simp only [getCertificateAct, run_spdmRequest hup hconn, hzero]
  split
  · rfl
  case isFalse hin =>
    obtain rfl : slot = 0 := by omega
    rfl

theorem run_challengeAct_slot {slot : Nat} (nonce : Bytes) (hslot : slot ≠ 0) :
    (challengeAct k slot nonce).run b = b.answering k .error [octet errInvalid] := by
  simp only [challengeAct, run_spdmRequest hup hconn, if_pos hslot, run_answerError]

theorem run_challengeAct_fault (nonce : Bytes) (hfault : b.ctl.sec.idFault = true) :
    (challengeAct k 0 nonce).run b = b.answering k .error [octet errUnspecified] := by
  simp only [challengeAct, run_spdmRequest hup hconn, hfault, ne_eq, not_true_eq_false, if_false, if_true, run_answerError]

theorem run_challengeAct (nonce : Bytes) (hfault : b.ctl.sec.idFault = false) : (challengeAct k 0 nonce).run b =
    ({ b with fresh := b.fresh + 1 } : Block).answering k .challengeAuth (sha512 b.chain ++ nonce ++ nonceOf b.fresh ++ signatureOf b.fresh) := by
  simp only [challengeAct, run_spdmRequest hup hconn, hfault, ne_eq, not_true_eq_false, Bool.false_eq_true, if_false]
  rfl

theorem run_getMeasurementsAct_none {i : Nat} (signed : Bool) (nonce : Bytes) (hi : measureSet i = none) :
    (getMeasurementsAct k i signed nonce).run b = b.answering k .error [octet errInvalid] := by
  simp only [getMeasurementsAct, run_spdmRequest hup hconn, hi, run_answerError]

theorem run_getMeasurementsAct_plain {i : Nat} {is : List Nat} (nonce : Bytes) (hi : measureSet i = some is) :
    (getMeasurementsAct k i false nonce).run b =
      b.answering k .measurements ([if i = 0 then 8 else octet is.length] ++ is.flatMap b.measureBlock) := by
  simp only [getMeasurementsAct, run_spdmRequest hup hconn, hi, Bool.false_and, Bool.false_eq_true, if_false, run_answer]

theorem run_getMeasurementsAct_fault {i : Nat} {is : List Nat} (nonce : Bytes) (hi : measureSet i = some is) (hfault : b.ctl.sec.idFault = true) :
    (getMeasurementsAct k i true nonce).run b = b.answering k .error [octet errUnspecified] := by
  simp only [getMeasurementsAct, run_spdmRequest hup hconn, hi, hfault, Bool.and_self, if_true, run_answerError]

theorem run_getMeasurementsAct_signed {i : Nat} {is : List Nat} (nonce : Bytes) (hi : measureSet i = some is) (hfault : b.ctl.sec.idFault = false) :
    (getMeasurementsAct k i true nonce).run b = ({ b with fresh := b.fresh + 1 } : Block).answering k .measurements
      ([if i = 0 then 8 else octet is.length] ++ is.flatMap b.measureBlock ++ nonce ++ nonceOf b.fresh ++ signatureOf b.fresh) := by
  simp only [getMeasurementsAct, run_spdmRequest hup hconn, hi, hfault, Bool.and_false, Bool.false_eq_true, if_false, if_true]
  rfl

end Algorithms

end Spdm

/-- Settles O56: each request in its place and out of it. -/
theorem spdmAnswers : Obligations.SpdmAnswers := by
  intro s k hup
  refine ⟨runs_of_perform rfl (run_getVersionAct hup), fun code => runs_of_perform rfl (run_unsupportedRequestAct hup), fun hconn => ?_,
    fun hconn => ?_, fun hconn => ⟨?_, fun e h hoff => ?_⟩, fun hconn e h => ?_, fun hconn => ?_, fun hconn => ?_⟩
  · exact runs_of_perform rfl (run_spdmRequest hup hconn _)
  · exact runs_of_perform rfl (run_spdmRequest_unexpected hup hconn _)
  · exact runs_of_perform rfl (run_spdmRequest hup hconn _)
  · exact runs_of_perform rfl (run_negotiateAlgorithmsAct_refused hup hconn hoff)
  · exact runs_of_perform rfl (run_spdmRequest_unexpected hup hconn _)
  · refine ⟨runs_of_perform rfl (run_spdmRequest hup hconn _), fun slot offset len => ?_, fun slot nonce hslot => ?_, fun nonce hfault => ?_,
      fun nonce hfault => ?_, fun i nonce hlo hhi => ⟨?_, fun hfault => ?_, fun hfault => ?_⟩, fun nonce => ?_, fun i signed nonce hlo hff => ?_⟩
    · exact runs_of_perform rfl (run_getCertificateAct hup hconn slot.val offset len slot.isLt)
    · exact runs_of_perform rfl (run_challengeAct_slot hup hconn nonce fun h => hslot (Fin.ext h))
    · exact runs_of_perform rfl (run_challengeAct_fault hup hconn nonce hfault)
    · exact runs_of_perform rfl (run_challengeAct hup hconn nonce hfault)
    · exact runs_of_perform rfl (measureBody_one hlo ▸ run_getMeasurementsAct_plain hup hconn nonce (measureSet_one hlo hhi))
    · exact runs_of_perform rfl (run_getMeasurementsAct_fault hup hconn nonce (measureSet_one hlo hhi) hfault)
    · exact runs_of_perform rfl (measureBody_one hlo ▸ run_getMeasurementsAct_signed hup hconn nonce (measureSet_one hlo hhi) hfault)
    · exact runs_of_perform rfl (run_getMeasurementsAct_plain (i := 0) (is := []) hup hconn nonce rfl)
    · exact runs_of_perform rfl (run_getMeasurementsAct_none hup hconn signed nonce (measureSet_none hlo hff))
  · exact ⟨runs_of_perform rfl (run_spdmRequest_unexpected hup hconn _), fun _ _ _ => runs_of_perform rfl (run_spdmRequest_unexpected hup hconn _),
      fun _ _ => runs_of_perform rfl (run_spdmRequest_unexpected hup hconn _),
      fun _ _ _ => runs_of_perform rfl (run_spdmRequest_unexpected hup hconn _)⟩

end Sys2Proof.Machine


namespace Sys2Proof.Machine

/-! # Registers of BAR0 and the debug port (R471 to R474, R480 to R482) -/

section Registers
variable {b : Block} {port : Bool}

@[simp] theorem run_updSec (b : Block) (f : Security → Security) : (updSec f).run b = b.withSec f := rfl

@[simp] theorem run_updLh (b : Block) (f : Lighthouse → Lighthouse) : (updLh f).run b = b.withLh f := rfl

/-- A port that may write the blocks of port 0 has its BAR up. -/
theorem Ctl.barUp_of_mayWriteCommon {c : Ctl} (h : c.mayWriteCommon false = true) : c.barUp false = true := by
  simp only [Ctl.mayWriteCommon, Bool.and_eq_true] at h
  obtain ⟨⟨⟨⟨⟨hport, -⟩, hup⟩, hglb⟩, hpower⟩, hperst⟩ := h
  simp only [Ctl.barUp, hport, hup, hglb, hpower, Bool.true_and, Bool.false_eq_true, if_false, hperst]

/-! ## SEC_BOOT and MON_CLASS -/

theorem run_nextBankWriteAct (hmay : b.ctl.mayWriteCommon port = true) (v : BitVec 2) : (nextBankWriteAct port v).run b =
    if b.ctl.glb.state = .boot ∧ v ≠ 3 then b.withSec (fun c => { c with nextBank := v }) else b := by
  simp only [nextBankWriteAct, run_look, hmay, Bool.true_and, run_when, Bool.and_eq_true, beq_iff_eq, bne_iff_ne]
  rfl

theorem classField_lt (old new : Nat) : classField old new < 256 := by
  simp only [classField]
  split <;> exact Nat.mod_lt _ (by decide)

/-- The two bytes of MON_CLASS. -/
theorem toNat_monClassAfter (old v : BitVec 64) :
    (monClassAfter old v).toNat = classField (old.toNat / 256) (v.toNat / 256) * 256 + classField old.toNat v.toNat := by
  have hhi := classField_lt (old.toNat / 256) (v.toNat / 256)
  have hlo := classField_lt old.toNat v.toNat
  rw [monClassAfter, BitVec.toNat_ofNat, Nat.mod_eq_of_lt (by omega)]

theorem run_monClassWriteAct (hmay : b.ctl.mayWriteCommon port = true) (v : BitVec 64) : (monClassWriteAct port v).run b =
    b.withPower fun p => { p with monClass := monClassAfter b.ctl.power.monClass v } := by
  simp only [monClassWriteAct, run_look, hmay, run_when_true, run_upd]
  rfl

theorem bits_monClassAfter_low (old v : BitVec 64) : bits (monClassAfter old v).toNat 7 0 =
    if bits v.toNat 7 0 = 0 then bits old.toNat 7 0 else bits v.toNat 7 0 := by
  have hlo := classField_lt old.toNat v.toNat
  have hbits : ∀ n, bits n 7 0 = n % 256 := fun n => by simp [bits]
  rw [hbits, hbits, hbits, toNat_monClassAfter, Nat.add_comm, Nat.add_mul_mod_self_right, Nat.mod_eq_of_lt hlo]
  rfl

theorem bits_monClassAfter_high (old v : BitVec 64) : bits (monClassAfter old v).toNat 15 8 =
    if bits v.toNat 15 8 = 0 then bits old.toNat 15 8 else bits v.toNat 15 8 := by
  have hhi := classField_lt (old.toNat / 256) (v.toNat / 256)
  have hlo := classField_lt old.toNat v.toNat
  have hbits : ∀ n, bits n 15 8 = n / 256 % 256 := fun n => rfl
  rw [hbits, hbits, hbits, toNat_monClassAfter, show ∀ h l, l < 256 → h < 256 → (h * 256 + l) / 256 % 256 = h from fun h l _ _ => by omega]
  · rfl
  · exact hlo
  · exact hhi

/-! ## The debug port -/

theorem run_dbgRequestAct (hmay : b.ctl.mayWriteCommon port = true) {level : BitVec 2} (hlevel : level = 1 ∨ level = 2) (hfails : b.ctl.sec.fails < 3) :
    (dbgRequestAct port level).run b = ({ b with fresh := b.fresh + 1 } : Block).withSec fun c =>
      { c with nonce := nonceOf b.fresh, pending := level.toNat, nonceAt := b.lhTime } := by
  have hlegal : (level == 1 || level == 2) = true := by simpa using hlevel
  simp only [dbgRequestAct, run_look, hmay, hlegal, hfails, decide_true, Bool.and_self, run_when_true, run_seq]
  rfl

/-- What a submission with this result leaves. -/
def Block.submitted (b : Block) (r : Nat) : Block := b.withSec fun s =>
  { s with result := r, pending := 0, level := if r = 1 then s.pending else s.level, fails := if r = 1 ∨ r = 5 then s.fails else s.fails + 1 }

theorem run_dbgSubmitAct (hmay : b.ctl.mayWriteCommon port = true) {r : Nat} (hr : b.debugResult = r) : (dbgSubmitAct port).run b = b.submitted r := by
  simp only [dbgSubmitAct, run_look, hmay, run_when_true, hr]
  rfl

theorem debugResult_unasked (h : b.ctl.sec.pending = 0) : b.debugResult = 5 := if_pos h

theorem debugResult_late (h : b.ctl.sec.pending ≠ 0) (hlate : b.ctl.sec.nonceAt + 60000000000 < b.lhTime) : b.debugResult = 3 := by
  rw [Block.debugResult, if_neg h, if_pos (show b.ctl.sec.nonceAt + 60 * second < b.lhTime from hlate)]

theorem debugResult_busy (h : b.ctl.sec.pending = 2) (htime : b.lhTime ≤ b.ctl.sec.nonceAt + 60000000000) (hstate : b.ctl.glb.state = .running) :
    b.debugResult = 4 := by
  rw [Block.debugResult, if_neg (by omega), if_neg (show ¬ b.ctl.sec.nonceAt + 60 * second < b.lhTime from Nat.not_lt.2 htime),
    if_pos ⟨h, by simp [hstate]⟩]

theorem debugResult_judged (h : b.ctl.sec.pending ≠ 0) (htime : b.lhTime ≤ b.ctl.sec.nonceAt + 60000000000)
    (hstate : b.ctl.glb.state = .boot ∨ b.ctl.glb.state = .ready) : b.debugResult = if b.debugOk then 1 else 2 := by
  rw [Block.debugResult, if_neg h, if_neg (show ¬ b.ctl.sec.nonceAt + 60 * second < b.lhTime from Nat.not_lt.2 htime),
    if_neg fun hbusy => hstate.elim hbusy.2.1 hbusy.2.2]

theorem run_dbgLockAct (hmay : b.ctl.mayWriteCommon port = true) :
    (dbgLockAct port).run b = b.withSec fun c => { c with level := 0, pending := 0 } := by
  simp only [dbgLockAct, run_look, hmay, run_when_true, run_updSec]

theorem run_dbgResponseWrite (hmay : b.ctl.mayWriteCommon port = true) (at' : Nat) (bs : Bytes) : (dbgResponseWrite port at' bs).run b =
    if b.ctl.sec.pending ≠ 0 then b.withSec fun c => { c with response := patch ((c.response ++ zeroBytes 1024).take 1024) at' bs } else b := by
  simp only [dbgResponseWrite, run_look, hmay, Bool.true_and, run_when, bne_iff_ne]
  rfl

/-! ## The map -/

/-- An access that is not aligned, or not of 4 or 8 bytes, is discarded (R473). -/
theorem run_registerWriteAct_unaligned {o size : Nat} (v : BitVec 64) (h : barAligned o size = false) : (registerWriteAct port o size v).run b = b := by
  simp only [registerWriteAct, run_look, h, Bool.false_and, run_when_false]

theorem run_registerWriteAct_response {o size : Nat} (v : BitVec 64) (hup : b.ctl.barUp port = true) (halign : barAligned o size = true)
    (hlo : 0xA400 ≤ o) (hhi : o < 0xA800) :
    (registerWriteAct port o size v).run b = (dbgResponseWrite port (o - 0xA400) (leBytes v.toNat size)).run b := by
  simp only [registerWriteAct, run_look, hup, halign, Bool.and_self, run_when_true, if_pos (show 0xA400 ≤ o ∧ o < 0xA800 from ⟨hlo, hhi⟩)]

/-- A whole register written elsewhere than in the response window. -/
theorem run_registerWriteAct {o : Nat} (v : BitVec 64) (hup : b.ctl.barUp port = true) (halign : o % 8 = 0) (hout : o < 0xA400) :
    (registerWriteAct port o 8 v).run b = (regWrite port o true v v).run b := by
  have hal : barAligned o 8 = true := by simp [barAligned, halign]
  have hwhole : ∀ old, BitVec.ofNat 64 (mergeHalf old o 8 v.toNat) = v := fun old => by
    rw [mergeHalf, if_pos rfl, Nat.mod_eq_of_lt v.isLt, BitVec.ofNat_toNat, BitVec.setWidth_eq]
  have ho : o / 8 * 8 = o := by omega
  simp only [registerWriteAct, run_look, hup, hal, Bool.and_self, run_when_true, if_neg (show ¬ (0xA400 ≤ o ∧ o < 0xA800) by omega), hwhole, ho,
    beq_self_eq_true, Bool.true_or]

theorem regWrite_ring (v : BitVec 64) {n o : Nat} (hn : n < 64) (ho : o < 64) :
    regWrite port (0x2000 + 64 * n + o) true v v = ringWrite port n o v := by
  rw [regWrite, if_neg (by omega), if_pos (by omega), show (0x2000 + 64 * n + o - 0x2000) / 64 = n by omega,
    show (0x2000 + 64 * n + o) % 64 = o by omega]
  rfl

theorem regWrite_link (v : BitVec 64) {n : Nat} (hn : n < 96) : regWrite port (0x6000 + 64 * n) true v v = linkCtrlWrite port n v := by
  rw [regWrite, if_neg (by omega), if_neg (by omega), if_neg (by omega), if_neg (by decide), if_neg (by omega), if_neg (by omega), if_neg (by omega),
    if_neg (by omega), if_pos (by omega), show (0x6000 + 64 * n - 0x6000) / 64 = n by omega]

theorem run_hifWrite_ctrl (v : BitVec 64) (hup : b.ctl.barUp port = true) : (hifWrite port 0 v).run b = (hifCtrlWrite port v).run b := by
  simp only [hifWrite, run_look, hup, run_when_true]

theorem run_hifWrite_wake (v : BitVec 64) (hup : b.ctl.barUp port = true) : (hifWrite port 8 v).run b = (hifWakeAct port).run b := by
  simp only [hifWrite, run_look, hup, run_when_true]

theorem run_ringWrite_base (v : BitVec 64) {n : Nat} (hmay : b.ctl.mayWriteRing port n = true) (hoff : (b.ctl.ring n).on = false)
    (hfree : b.ctl.inflight n = 0) : (ringWrite port n 0 v).run b = (updRing n fun r => { r with base := v &&& ~~~0xFFF }).run b := by
  simp only [ringWrite, run_look, hmay, hoff, hfree, Bool.not_false, beq_self_eq_true, Bool.and_self, run_when_true]

/-- A write of RING_CTRL (R477). -/
theorem run_registerWriteAct_ringCtrl (v : BitVec 64) (hup : b.ctl.barUp port = true) {n : Nat} (hn : n < 64) :
    (registerWriteAct port (0x2020 + 64 * n) 8 v).run b = (if v.getLsbD 0 then ringEnableAct port n v else ringDisableAct port n v).run b := by
  rw [show 0x2020 + 64 * n = 0x2000 + 64 * n + 0x20 by omega, run_registerWriteAct v hup (by omega) (by omega), regWrite_ring v hn (by decide)]
  rfl

end Registers

/-- Two commands that come to the same have the same outcome. -/
theorem exec_congr {i j : Instr} {s : State} {a c : Act} (hi : exec i s = s.perform a) (hj : exec j s = s.perform c) (h : a.run s.block = c.run s.block) :
    exec i s = exec j s := by
  rw [hi, hj, State.perform, State.perform, h]

/-- Settles O55: the rows of the register map, and the debug port. -/
theorem registersAndDebug : Obligations.RegistersAndDebug := by
  refine ⟨fun s v hmay => ⟨fun hboot hv => ?_, fun hnot => ?_⟩, fun s v hmay => ?_, fun s level hmay hlevel hfails => ?_, fun s hmay => ?_,
    fun s hmay => ?_, fun s o size v hmay halign hlo hhi => ?_, fun s port o size v halign => ?_, fun s v hmay => ?_,
    fun s port n v hmay hup hoff hfree => ?_, fun s port v hup => ?_⟩
  · exact runs_of_perform rfl ((run_nextBankWriteAct hmay v).trans (if_pos ⟨hboot, hv⟩))
  · exact runs_of_perform rfl ((run_nextBankWriteAct hmay v).trans (if_neg fun h => hnot.elim (· h.1) h.2))
  · refine ⟨_, runs_of_perform rfl (run_monClassWriteAct hmay v), bits_monClassAfter_low _ v, bits_monClassAfter_high _ v, ?_, rfl⟩
    have hhi := classField_lt (s.block.ctl.power.monClass.toNat / 256) (v.toNat / 256)
    have hlo := classField_lt s.block.ctl.power.monClass.toNat v.toNat
    have hclass := toNat_monClassAfter s.block.ctl.power.monClass v
    exact (show (monClassAfter s.block.ctl.power.monClass v).toNat < 2 ^ 16 by omega)
  · exact runs_of_perform rfl (run_dbgRequestAct hmay hlevel hfails)
  · refine ⟨fun hp => ?_, fun hp hlate => ?_, fun hp htime hstate => ?_, fun hp htime hstate => ?_⟩
    · exact runs_of_perform rfl (run_dbgSubmitAct hmay (debugResult_unasked hp))
    · exact runs_of_perform rfl (run_dbgSubmitAct hmay (debugResult_late hp hlate))
    · exact runs_of_perform rfl (run_dbgSubmitAct hmay (debugResult_busy hp htime hstate))
    · refine runs_of_perform rfl ((run_dbgSubmitAct hmay (debugResult_judged hp htime hstate)).trans ?_)
      cases s.block.debugOk <;> rfl
  · exact runs_of_perform rfl (run_dbgLockAct hmay)
  · have hrun := (run_registerWriteAct_response v (Ctl.barUp_of_mayWriteCommon hmay) halign hlo hhi).trans (run_dbgResponseWrite hmay _ _)
    exact ⟨fun hp => runs_of_perform rfl (hrun.trans (if_neg (not_not.2 hp))), fun hp => runs_of_perform rfl (hrun.trans (if_pos hp))⟩
  · exact runs_of_perform rfl (run_registerWriteAct_unaligned v halign)
  · have hup := Ctl.barUp_of_mayWriteCommon hmay
    refine runs_of_perform rfl ((run_registerWriteAct v hup (by decide) (by decide)).trans ?_)
    have hreg : regWrite false 0x5020 true v v =
        .look fun b => Act.when (b.ctl.mayWriteCommon false) (updLh fun h => { h with wakeEn := v &&& 0x3F }) := rfl
    simp only [hreg, run_look, hmay, run_when_true, run_updLh]
  · have hn := n.isLt
    refine ⟨_, runs_of_perform rfl (((run_registerWriteAct v hup (by omega) (by omega)).trans
      (congrArg (Act.run · s.block) (regWrite_ring v hn (by decide : 0 < 64)))).trans (run_ringWrite_base v hmay hoff hfree)), ?_, fun m hm => ?_,
      .refl _, rfl⟩
    · exact ring_updRing_same _ _ _
    · exact ring_updRing_other _ _ hm
  · have hwhole := fun (o : Nat) (halign : o % 8 = 0) (hout : o < 0xA400) => run_registerWriteAct v hup halign hout
    refine ⟨exec_congr rfl rfl ?_, exec_congr rfl rfl ?_, exec_congr rfl rfl ?_, exec_congr rfl rfl ?_, fun hv => exec_congr rfl rfl ?_,
      fun hv => exec_congr rfl rfl ?_, exec_congr rfl rfl ?_, fun hv => exec_congr rfl rfl ?_, fun n hv => exec_congr rfl rfl ?_,
      fun n hv => exec_congr rfl rfl ?_, fun n => ?_⟩
    · exact hwhole 0x5008 (by decide) (by decide)
    · exact hwhole 0x5010 (by decide) (by decide)
    · exact hwhole 0x9018 (by decide) (by decide)
    · exact hwhole 0x5018 (by decide) (by decide)
    · exact ((hwhole 0x1000 (by decide) (by decide)).trans (run_hifWrite_ctrl v hup)).trans (congrArg (Act.run · s.block) (if_pos hv))
    · exact ((hwhole 0x1000 (by decide) (by decide)).trans (run_hifWrite_ctrl v hup)).trans
        (congrArg (Act.run · s.block) (if_neg (Bool.eq_false_iff.1 hv)))
    · exact (hwhole 0x1008 (by decide) (by decide)).trans (run_hifWrite_wake v hup)
    · refine (hwhole 0x4008 (by decide) (by decide)).trans ?_
      have hreg : regWrite (port == 1) 0x4008 true v v = Act.when (v.getLsbD 0) (pwrReqRemoveAct (port == 1)) := rfl
      rw [hreg, hv, run_when_true]
    · exact (run_registerWriteAct_ringCtrl v hup n.isLt).trans (congrArg (Act.run · s.block) (if_pos hv))
    · exact (run_registerWriteAct_ringCtrl v hup n.isLt).trans (congrArg (Act.run · s.block) (if_neg (Bool.eq_false_iff.1 hv)))
    · have hn := n.isLt
      have hrun := (hwhole (0x6000 + 64 * n.val) (by omega) (by omega)).trans (congrArg (Act.run · s.block) (regWrite_link v hn))
      split
      case isTrue hv => exact exec_congr rfl rfl (hrun.trans (congrArg (Act.run · s.block) (if_pos hv)))
      case isFalse hv => exact exec_congr rfl rfl (hrun.trans (congrArg (Act.run · s.block) (if_neg hv)))

end Sys2Proof.Machine


namespace Sys2Proof.Machine

/-! # The Lighthouse domain (R304, R443, R444, R478) -/

section Lighthouse
variable {b : Block} {k : Nat}

theorem Ctl.StaysPut.run_lighthouseFlag (h : b.ctl.StaysPut k) : (lighthouseFlag k).run b = b.flagged k := by
  obtain ⟨hoff, hstay⟩ := h
  have hwake : (b.ctl.power.state == .standby && decide (k < 6) && b.ctl.lh.wakeEn.getLsbD k) = false := by
    simpa [and_assoc] using hstay
  simp only [lighthouseFlag, run_look, bne_iff_ne.2 hoff, run_when_true, run_seq, hwake, run_when_false]
  rfl

theorem Ctl.WakesOn.ne_off (h : b.ctl.WakesOn k) : b.ctl.power.state ≠ .off := by simp [h.1]

theorem Ctl.WakesOn.run_lighthouseFlag (h : b.ctl.WakesOn k) : (lighthouseFlag k).run b = (wakeUp k).run (b.flagged k) := by
  have hoff := h.ne_off
  obtain ⟨hstandby, hk, hen⟩ := h
  have hwake : (b.ctl.power.state == .standby && decide (k < 6) && b.ctl.lh.wakeEn.getLsbD k) = true := by simp [hstandby, hk, hen]
  simp only [lighthouseFlag, run_look, bne_iff_ne.2 hoff, run_when_true, run_seq, hwake]
  rfl

theorem run_wakeUp (b : Block) (k : Nat) : (wakeUp k).run b =
    ({ b with arb := Arbiter.reset, ctl :=
      let d := b.ctl.resetDies b.lhTime
      { d with pins := { d.pins with wake := k != flagPcie } } } : Block).accept 0x0901 (src 8 0)
        (wakeDetail (b.lhTime - b.ctl.power.standbyAt) k) := rfl

/-- Waking leaves STANDBY for BOOT, with STANDBY_WAKE as the first event, whatever has become of the pins. -/
theorem woken_wakeUp {c : Block} (hdata : b.SameData c) (hout : c.out = b.out) (hlh : c.ctl.lh = b.ctl.lh.occur k)
    (hport : c.ctl.glb.dualPort = b.ctl.glb.dualPort) (hpower : c.ctl.power = b.ctl.power) : b.Woken ((wakeUp k).run c) k := by
  rw [run_wakeUp]
  have htime : c.lhTime = b.lhTime := hdata.2.2.2.2.2.2.1
  refine ⟨rfl, rfl, rfl, hdata, hout, hlh, rfl, ?_⟩
  have hdual : ∀ now, (c.ctl.resetDies now).glb.dualPort = b.ctl.glb.dualPort := fun _ => hport
  simp only [Block.accept, hdual, htime, hpower]

theorem Block.SameData.refl (b : Block) : b.SameData b := ⟨rfl, rfl, rfl, rfl, rfl, rfl, rfl, rfl, rfl, rfl⟩

theorem woken_flagged (b : Block) (k : Nat) : b.Woken ((wakeUp k).run (b.flagged k)) k := woken_wakeUp (.refl b) rfl rfl rfl rfl

/-- What 54 V's arrival does, beside its flag, to a module that was without it (R440). -/
theorem run_v54Up (h : b.ctl.pins.v54 = false) : v54Up.run b =
    (b.withPins fun p => { p with v54 := true, pwrFault := false, cageFeed := 0xFFFFF }).withGlb fun g => { g with tripped := false } := by
  simp only [v54Up, run_upd, h, Bool.and_false, Bool.false_eq_true, if_false]
  rfl

theorem run_v54ArrivalAct (hoff : b.ctl.power.state ≠ .off) : v54ArrivalAct.run b = (lighthouseFlag flagV54).run (v54Up.run b) := by
  simp only [v54ArrivalAct, run_look, bne_iff_ne.2 hoff, run_when_true, run_seq]

theorem woken_v54Up (b : Block) : b.Woken ((wakeUp flagV54).run ((v54Up.run b).flagged flagV54)) flagV54 := by
  have hport : (v54Up.run b).ctl.glb.dualPort = b.ctl.glb.dualPort := by
    simp only [v54Up, run_upd]
    split <;> rfl
  exact woken_wakeUp (.refl b) rfl rfl hport rfl

/-! ## PERST# (R217, R444) -/

/-- PERST# of a port. -/
def Pins.perst (p : Pins) (port : Bool) : Bool := if port then p.perst1 else p.perst0

/-- The pins with PERST# of a port let go. -/
def Pins.released (p : Pins) (port : Bool) : Pins := if port then { p with perst1 := false } else { p with perst0 := false }

@[simp] theorem Pins.perst_released (p : Pins) (port : Bool) : (p.released port).perst port = false := by cases port <;> rfl

/-- PERST# that is not asserted is let go already. -/
theorem Pins.released_of_not {p : Pins} {port : Bool} (h : p.perst port = false) : p.released port = p := by
  cases port
  · cases p; cases h; rfl
  · cases p; cases h; rfl

/-- The block with PERST# of a port let go. -/
def Block.released (b : Block) (port : Bool) : Block := b.withPins fun p => p.released port

theorem run_perstDeassertAct {port : Bool} (hport : b.ctl.hasPort port = true) (k : Nat) : (perstDeassertAct port k).run b =
    (updHif port fun h => { h with bar2Size := 2 ^ (30 + k) }).run
      (if b.ctl.pins.perst port = true ∧ b.ctl.power.state = .standby then (lighthouseFlag flagPcie).run (b.released port) else b.released port) := by
  have hpins : ∀ was : Bool, b.ctl.pins.perst port = was → (perstDeassertAct port k).run b =
      (updHif port fun h => { h with bar2Size := 2 ^ (30 + k) }).run
        ((Act.when was ((Act.upd fun c => { c with pins := c.pins.released port }).seq
          (Act.when (b.ctl.power.state == .standby) (lighthouseFlag flagPcie)))).run b) := by
    rintro was rfl
    cases port <;> simp only [perstDeassertAct, run_look, hport, run_when_true, run_all_cons, run_all_nil] <;> rfl
  cases hwas : b.ctl.pins.perst port
  · rw [hpins false hwas, run_when_false, if_neg (by simp)]
    exact congrArg _ (congrArg (fun p => b.withPins fun _ => p) (Pins.released_of_not hwas)).symm
  · rw [hpins true hwas, run_when_true, run_seq, run_when]
    simp only [beq_iff_eq, true_and]
    rfl

theorem woken_released (b : Block) (port : Bool) : b.Woken ((wakeUp flagPcie).run ((b.released port).flagged flagPcie)) flagPcie :=
  woken_wakeUp (.refl b) rfl rfl rfl rfl

/-- A port set up by the host changes nothing that a wake is about. -/
theorem Block.Woken.updHif {t : Block} (h : b.Woken t k) (port : Bool) (f : Hif → Hif) : b.Woken ((updHif port f).run t) k := h

/-! ## Comparators (R478) -/

theorem run_lhTimerAct {which : Bool} (hcmp : (if which then b.ctl.lh.cmp1 else b.ctl.lh.cmp0) ≠ 0)
    (hdue : (if which then b.ctl.lh.cmp1 else b.ctl.lh.cmp0).toNat ≤ b.lhTime) (hfired : (if which then b.ctl.lh.fired1 else b.ctl.lh.fired0) = false) :
    (lhTimerAct which).run b = (lighthouseFlag (if which then flagCmp1 else flagCmp0)).run
      (b.withLh fun h => if which then { h with fired1 := true } else { h with fired0 := true }) := by
  have hne : ((if which then b.ctl.lh.cmp1 else b.ctl.lh.cmp0).toNat != 0) = true := by
    simpa [← BitVec.toNat_inj] using hcmp
  simp only [lhTimerAct, run_look, hne, hdue, hfired, decide_true, Bool.not_false, Bool.and_self, run_when_true, run_seq, run_updLh]

theorem run_lhCmpWriteAct {port : Bool} (hmay : b.ctl.mayWriteCommon port = true) (which : Bool) (v : BitVec 64) {now : Bool}
    (hnow : decide (v.toNat ≠ 0 ∧ v.toNat ≤ b.lhTime) = now) : (lhCmpWriteAct port which v).run b = b.withLh fun h =>
      let k := if which then { h with cmp1 := v, fired1 := now } else { h with cmp0 := v, fired0 := now }
      if now then k.occur (if which then flagCmp1 else flagCmp0) else k := by
  simp only [lhCmpWriteAct, run_look, hmay, run_when_true, hnow, run_updLh]

/-! ## Registers of flags, written 1 to clear (R12, R304) -/

@[simp] theorem occurAll_zero (h : Lighthouse) : h.occurAll 0 = h := by simp [Lighthouse.occurAll, List.range_succ]

/-- WAKE_IN alone occurs. -/
theorem occurAll_wakeIn (h : Lighthouse) : h.occurAll 0x10 = h.occur 4 := rfl

/-- With nothing occurring in the same cycle, LH_STATUS clears what is written 1. -/
theorem run_lhStatusWrite_quiet (v : BitVec 8) : (lhStatusWrite v 0).run b = b.withLh fun h => { h with flags := h.flags &&& ~~~v } := by
  have hland : b.landed 0 = 0 := by simp [Block.landed]
  have hbits : ∀ i, (0 : BitVec 8).getLsbD i = false := fun i => BitVec.getLsbD_zero
  simp only [lhStatusWrite, run_look]
  rw [hland]
  simp only [hbits, Lighthouse.clear, occurAll_zero, run_all_cons, run_all_nil, run_when_false, run_updLh, Bool.or_false]

/-- WAKE_IN in the same cycle stays set and is counted. -/
theorem run_lhStatusWrite_wakeIn (v : BitVec 8) : (lhStatusWrite v 0x10).run b = b.withLh fun h =>
    { h with flags := (h.flags &&& ~~~v) ||| 0x10, counts := Tab.set 0 h.counts 4 (Tab.get 0 h.counts 4 + 1) } := by
  have hland : b.landed 0x10 = 0x10 := by
    simp only [Block.landed]
    generalize timerDue b.ctl.lh.cmp0 b.ctl.lh.fired0 b.lhTime = due0
    generalize timerDue b.ctl.lh.cmp1 b.ctl.lh.fired1 b.lhTime = due1
    cases due0 <;> cases due1 <;> decide
  have hbits : ∀ i, i < 8 → (0x10 : BitVec 8).getLsbD i = decide (i = 4) := by decide
  have hoff : ∀ {i}, i < 8 → i ≠ 4 → (0x10 : BitVec 8).getLsbD i = false := fun {i} hi hne => by rw [hbits i hi, decide_eq_false hne]
  simp only [lhStatusWrite, run_look, hland, run_all_cons, run_all_nil, hoff (show flagV54 < 8 by decide) (by decide),
    hoff (show flagUnder < 8 by decide) (by decide), hoff (show flagLeak < 8 by decide) (by decide), hoff (show flagCmp0 < 8 by decide) (by decide),
    hoff (show flagCmp1 < 8 by decide) (by decide), Lighthouse.clear, occurAll_wakeIn, run_when_false, run_updLh, Bool.or_false]
  rfl

theorem run_statusFlagClearAct_lhStatus {port : Bool} (hmay : b.ctl.mayWriteCommon port = true) (v : BitVec 64) (landing : BitVec 8) :
    (statusFlagClearAct port 0x5018 v landing).run b = (lhStatusWrite (v.truncate 8) landing).run b := by
  simp only [statusFlagClearAct, run_look, hmay, run_when_true, if_true]

@[simp] theorem run_updLink (b : Block) (n : Nat) (f : Link → Link) : (updLink n f).run b = b.withLink n f := rfl

theorem run_statusFlagClearAct_link {port : Bool} (hmay : b.ctl.mayWriteCommon port = true) {n : Nat} (hn : n < 96) (v : BitVec 64)
    (landing : BitVec 8) : (statusFlagClearAct port (statusOffset n) v landing).run b =
      b.withLink n fun l => l.clearChanged (v.getLsbD 24) (landing.getLsbD 0) := by
  have hne : ¬ statusOffset n = 0x5018 := by simp only [statusOffset]; omega
  have hin : 0x6000 ≤ statusOffset n ∧ statusOffset n < 0x7800 ∧ statusOffset n % 64 = 8 := by simp only [statusOffset]; omega
  have hdiv : (statusOffset n - 0x6000) / 64 = n := by simp only [statusOffset]; omega
  simp only [statusFlagClearAct, run_look, hmay, run_when_true, if_neg hne, hin, and_self, decide_true, hdiv, run_updLink]

theorem clearChanged_eq (l : Link) (written landing : Bool) : l.clearChanged written landing =
    { l with changed := landing || (l.changed && !written), changes := if landing then l.changes + 1 else l.changes } := by
  cases landing
  · cases written
    · simp [Link.clearChanged]
    · simp [Link.clearChanged]
  · rfl

end Lighthouse

/-- Settles O52: flags, wakes, comparators, PERST# and the two kinds of status register. -/
theorem lighthouseFlags : Obligations.LighthouseFlags := by
  refine ⟨fun s h => runs_of_perform rfl h.run_lighthouseFlag, fun s die h => runs_of_perform rfl h.run_lighthouseFlag, fun s h hv54 => ?_,
    fun s h => ⟨_, runs_of_perform rfl h.run_lighthouseFlag, woken_flagged _ _⟩,
    fun s die h => ⟨_, runs_of_perform rfl h.run_lighthouseFlag, woken_flagged _ _⟩, fun s h => ?_, fun s port bar2 h hport hperst => ?_,
    fun s port bar2 h hport => ?_, fun s which => ?_, fun s which v hmay hv => ?_, fun s which v hmay hv hdue => ?_, fun s v hmay => ?_,
    fun s v hmay => ?_, fun s n v landing hmay => ?_⟩
  · have hup := run_v54Up hv54
    have hput : (v54Up.run s.block).ctl.StaysPut flagV54 := hup ▸ h
    exact runs_of_perform rfl ((run_v54ArrivalAct h.1).trans (hput.run_lighthouseFlag.trans (congrArg (·.flagged flagV54) hup)))
  · have hwakes : (v54Up.run s.block).ctl.WakesOn flagV54 := h
    exact ⟨_, runs_of_perform rfl ((run_v54ArrivalAct h.ne_off).trans hwakes.run_lighthouseFlag), woken_v54Up s.block⟩
  · have hwas : s.block.ctl.pins.perst (port == 1) = true := by simpa only [Pins.perst, beq_iff_eq] using hperst
    have hwakes : (s.block.released (port == 1)).ctl.WakesOn flagPcie := h
    refine ⟨_, runs_of_perform rfl ((run_perstDeassertAct hport _).trans ((congrArg _ (if_pos ⟨hwas, h.1⟩)).trans
      (congrArg _ hwakes.run_lighthouseFlag))), (woken_released _ _).updHif _ _, ?_, ?_⟩
    · have hp := Pins.perst_released s.block.ctl.pins (port == 1)
      simp only [Pins.perst, beq_iff_eq] at hp
      exact hp
    · exact congrArg Hif.bar2Size (hif_updHif_same _ _ _)
  · obtain ⟨hif, hhif, hcmds, hrings⟩ := run_updHif (s.block.released (port == 1)) (port == 1) fun h => { h with bar2Size := 2 ^ (30 + bar2.val) }
    have hrun := (run_perstDeassertAct hport bar2.val).trans (congrArg _ (if_neg fun hboth => h hboth.2))
    refine ⟨_, runs_of_perform rfl hrun, ?_, hif_updHif_same _ _ _, ?_, sameOutside_updHif _ _ _⟩
    · have hp := Pins.perst_released s.block.ctl.pins (port == 1)
      simp only [Pins.perst, beq_iff_eq] at hp
      exact hp
    · rw [hhif]; rfl
  · match which with
    | 0 =>
      intro cmp hcmp hdue hfired hput
      exact runs_of_perform rfl ((run_lhTimerAct (b := s.block) (which := false) hcmp hdue hfired).trans (Ctl.StaysPut.run_lighthouseFlag (k := 0) hput))
    | 1 =>
      intro cmp hcmp hdue hfired hput
      exact runs_of_perform rfl ((run_lhTimerAct (b := s.block) (which := true) hcmp hdue hfired).trans (Ctl.StaysPut.run_lighthouseFlag (k := 1) hput))
  · have hnow : decide (v.toNat ≠ 0 ∧ v.toNat ≤ s.block.lhTime) = false := decide_eq_false fun ⟨hne, hle⟩ =>
      hv.elim (fun h => hne (by rw [h]; rfl)) (Nat.not_lt.2 hle)
    match which with
    | 0 => exact runs_of_perform rfl (run_lhCmpWriteAct hmay false v hnow)
    | 1 => exact runs_of_perform rfl (run_lhCmpWriteAct hmay true v hnow)
  · have hnow : decide (v.toNat ≠ 0 ∧ v.toNat ≤ s.block.lhTime) = true := decide_eq_true ⟨fun h => hv (BitVec.eq_of_toNat_eq h), hdue⟩
    match which with
    | 0 => exact runs_of_perform rfl (run_lhCmpWriteAct hmay false v hnow)
    | 1 => exact runs_of_perform rfl (run_lhCmpWriteAct hmay true v hnow)
  · exact runs_of_perform rfl ((run_statusFlagClearAct_lhStatus hmay v 0).trans (run_lhStatusWrite_quiet _))
  · exact runs_of_perform rfl ((run_statusFlagClearAct_lhStatus hmay v 0x10).trans (run_lhStatusWrite_wakeIn _))
  · refine runs_of_perform rfl ((run_statusFlagClearAct_link hmay n.isLt v landing).trans ?_)
    exact congrArg _ (funext fun l => clearChanged_eq l _ _)

end Sys2Proof.Machine


namespace Sys2Proof.Machine

/-! # Resets (R442, R444 to R446) -/

section Resets
variable {b : Block}

/-! ## The compute dies -/

theorem run_warmReset (b : Block) : warmReset.run b = { b with ctl := b.ctl.resetDies b.lhTime, arb := Arbiter.reset } := rfl

/-- The block with PERST# of port 0 asserted where that is the cause of the reset. -/
def Block.perstFor (b : Block) (cause : WarmCause) : Block :=
  if cause = .perst0 then b.withPins fun p => { p with perst0 := true } else b

/-- A cause of a warm reset touches the pins alone. -/
theorem perstFor_eq (b : Block) (cause : WarmCause) : b.perstFor cause = b.withPins fun _ => (b.perstFor cause).ctl.pins := by
  simp only [Block.perstFor]
  split <;> rfl

theorem run_warmResetAct {cause : WarmCause} (hpower : b.ctl.power.state = .run ∨ b.ctl.power.state = .idle) (htrip : b.ctl.glb.tripped = false)
    (hv54 : b.ctl.pins.v54 = true) : (warmResetAct cause).run b = warmReset.run (b.perstFor cause) := by
  have hoff : (b.ctl.power.state != .off) = true := by rcases hpower with h | h <;> rw [h] <;> rfl
  have hstandby : (b.ctl.power.state != .standby) = true := by rcases hpower with h | h <;> rw [h] <;> rfl
  simp only [warmResetAct, run_look, hoff, hstandby, htrip, hv54, Bool.not_false, Bool.and_self, run_when_true, run_seq]
  rw [run_when]
  simp only [beq_iff_eq]
  rfl

/-- A reset of the dies after a change of the pins. -/
theorem diesReset_warmReset {p : Pins} : b.DiesReset (warmReset.run (b.withPins fun _ => p)) := by
  rw [run_warmReset]
  exact ⟨rfl, rfl, rfl, rfl, rfl, rfl, rfl, rfl, rfl, rfl, rfl, rfl, rfl, rfl, rfl⟩

/-! ## One port -/

/-- What a reset of a port leaves of a ring's registers: those of a ring of the other port, of the partner's, and of the pair ring. -/
def Ctl.keepsRing (c : Ctl) (port : Bool) (n : Nat) : Bool := c.portOf n != port || n == partnerRing || (n == 0 && c.bound)

/-- An entry of a table filtered by number. -/
theorem Tab.get_filter {α : Type} (d : α) (t : Tab α) (keep : Nat → Bool) (k : Nat) :
    Tab.get d (t.filter fun e => keep e.1) k = if keep k then Tab.get d t k else d := by
  induction t with
  | nil => simp [Tab.get]
  | cons e t ih =>
    obtain ⟨j, a⟩ := e
    by_cases hk : k = j
    · subst hk
      cases hkeep : keep k
      · rw [List.filter_cons_of_neg (by simp [hkeep]), ih, hkeep, if_neg (by simp), if_neg (by simp)]
      · rw [List.filter_cons_of_pos (by simp [hkeep])]
        simp [Tab.get]
    · have hskip : Tab.get d ((j, a) :: t) k = Tab.get d t k := by simp [Tab.get, hk]
      rw [hskip, ← ih]
      cases hkeep : keep j
      · rw [List.filter_cons_of_neg (by simp [hkeep])]
      · rw [List.filter_cons_of_pos (by simp [hkeep])]
        simp [Tab.get, hk]

theorem ring_resetPort (c : Ctl) (port : Bool) (n : Nat) :
    (c.resetPort port).ring n = if c.keepsRing port n then c.ring n else Ring.reset := Tab.get_filter Ring.reset c.hif.rings (c.keepsRing port) n

theorem resetPort_cmd_ids (c : Ctl) (port : Bool) : (c.resetPort port).hif.cmds.map Cmd.id = c.hif.cmds.map Cmd.id := by
  simp only [Ctl.resetPort, List.map_map]
  refine List.map_congr_left fun x _ => ?_
  simp only [Function.comp_apply]
  split <;> rfl

theorem hif_resetPort_same (c : Ctl) (port : Bool) :
    (c.resetPort port).hif.hif port = { Hif.reset with bar2Size := (c.hif.hif port).bar2Size } := by cases port <;> rfl

theorem hif_resetPort_other (c : Ctl) (port : Bool) : (c.resetPort port).hif.hif (!port) = c.hif.hif (!port) := by cases port <;> rfl

theorem run_functionLevelResetAct {port : Bool} (hport : b.ctl.hasPort port = true) (hup : b.ctl.glb.pcieUp = true) :
    (functionLevelResetAct port).run b = { b with ctl := b.ctl.resetPort port } := by
  simp only [functionLevelResetAct, run_look, hport, hup, Bool.and_self, run_when_true, run_upd]

theorem run_port1PerstAct (hdual : b.ctl.glb.dualPort = true) (hup : b.ctl.glb.pcieUp = true) : port1PerstAct.run b =
    { b with ctl := { b.ctl with pins := { b.ctl.pins with perst1 := true } }.resetPort true } := by
  simp only [port1PerstAct, run_look, hdual, hup, run_when_true, run_seq, run_upd]

/-! ## Aux power -/

/-- Semaphores reset one after the other: those of the list are 0, every other is as it was. -/
theorem sem_each_semReset (xs : List (Nat × BitVec 32)) (k : Nat) : ∀ b : Block,
    ((Act.each xs fun e => .one (.semReset e.1 0)).run b).sem k = if k ∈ xs.map Prod.fst then 0 else b.sem k := by
  induction xs with
  | nil => exact fun b => rfl
  | cons e xs ih =>
    intro b
    rw [run_each_cons, ih, run_one]
    simp only [Block.sem, apply_semReset_sems, Tab.get_set, List.map_cons, List.mem_cons]
    by_cases hk : k = e.1
    · simp only [hk, true_or, if_true, show semWord 0 false = 0 from rfl, ite_self]
    · simp only [hk, false_or, if_false]

/-- Resetting semaphores changes the semaphores alone. -/
theorem run_each_semReset {α : Type} (xs : List α) (f : α → Nat) : ∀ b : Block,
    ∃ sems, (Act.each xs fun e => .one (.semReset (f e) 0)).run b = { b with sems := sems } := by
  induction xs with
  | nil => exact fun b => ⟨_, rfl⟩
  | cons e xs ih =>
    intro b
    obtain ⟨sems, h⟩ := ih (Eff.apply b (.semReset (f e) 0))
    exact ⟨sems, (run_each_cons b e xs _).trans h⟩

/-- A semaphore that is not listed reads 0. -/
theorem Tab.get_of_not_mem {α : Type} (d : α) (t : Tab α) (k : Nat) (h : k ∉ t.map Prod.fst) : Tab.get d t k = d := by
  induction t with
  | nil => rfl
  | cons e t ih =>
    simp only [List.map_cons, List.mem_cons, not_or] at h
    simp only [Tab.get, h.1, if_false]
    exact ih h.2

/-- Every semaphore reads 0 once all that are listed are reset. -/
theorem sem_resetAll (b : Block) (k : Nat) : ((Act.each b.sems fun e => .one (.semReset e.1 0)).run b).sem k = 0 := by
  rw [sem_each_semReset]
  split
  · rfl
  case isFalse h => exact Tab.get_of_not_mem 0 b.sems k h

/-- What is left when everything that needs power is gone. -/
theorem run_loseAll (b : Block) : ∃ sems, loseAll.run b = { b with mem := [], lrs := [], sems := sems, arb := Arbiter.reset, lhTime := 0 } ∧
    ∀ k, Tab.get 0 sems k = 0 := by
  obtain ⟨sems, h⟩ := run_each_semReset b.sems Prod.fst (Eff.apply b .memClear)
  have hzero : ∀ k, Tab.get 0 ((Act.each b.sems fun e => .one (.semReset e.1 0)).run (Eff.apply b .memClear)).sems k = 0 :=
    sem_resetAll (Eff.apply b .memClear)
  rw [h] at hzero
  refine ⟨sems, ?_, hzero⟩
  simp only [loseAll, run_look, run_all_cons, run_all_nil, run_one, h]
  rfl

theorem run_auxArrivalAct (hoff : b.ctl.power.state = .off) : auxArrivalAct.run b = (Act.upd Ctl.powerOn).run (loseAll.run b) := by
  simp only [auxArrivalAct, run_look, hoff, beq_self_eq_true, run_when_true, run_seq]

/-- The control state once aux is lost. -/
def Ctl.auxLost (c : Ctl) : Ctl :=
  { c.powerOn with
    glb := { c.powerOn.glb with step := 0 }
    pins := { c.powerOn.pins with aux := false, cageFeed := 0 }
    power := { c.powerOn.power with state := .off } }

theorem run_auxLossAct (hon : b.ctl.power.state ≠ .off) : auxLossAct.run b = (Act.upd Ctl.auxLost).run (loseAll.run b) := by
  simp only [auxLossAct, run_look, bne_iff_ne.2 hon, run_when_true, run_seq]
  rfl

/-- With its power gone, the module keeps what is in NOR, in flash and in fuses. -/
theorem powerLost_loseAll (b : Block) (f : Ctl → Ctl) : b.PowerLost ((Act.upd f).run (loseAll.run b)) := by
  obtain ⟨sems, h, hzero⟩ := run_loseAll b
  rw [h]
  exact ⟨rfl, hzero, rfl, rfl, rfl, rfl, rfl, rfl, rfl, rfl, rfl⟩

/-- Losing power leaves the control state to what follows. -/
theorem ctl_loseAll (b : Block) (f : Ctl → Ctl) : ((Act.upd f).run (loseAll.run b)).ctl = f b.ctl := by
  obtain ⟨sems, h, -⟩ := run_loseAll b
  rw [h]
  rfl

end Resets

/-- Settles O53: a warm reset, a reset of one port by function level or by PERST#, and aux coming and going. -/
theorem resets : Obligations.Resets := by
  refine ⟨fun s cause hpower htrip hv54 => ?_, fun s port hport hup => ?_, fun s hdual hup => ?_, fun s hoff => ?_, fun s hon => ?_⟩
  · refine ⟨_, runs_of_perform rfl ((run_warmResetAct hpower htrip hv54).trans (congrArg warmReset.run (perstFor_eq s.block cause))),
      diesReset_warmReset, ?_⟩
    rw [run_warmReset]
    exact ⟨rfl, ⟨rfl, rfl, rfl, rfl, rfl, rfl, rfl, rfl, rfl, rfl⟩, rfl, rfl, rfl, rfl⟩
  · have hother : (port != 1) = !(port == 1) := rfl
    refine ⟨_, runs_of_perform rfl (run_functionLevelResetAct hport hup), hif_resetPort_same _ _, ?_, ring_resetPort _ _, resetPort_cmd_ids _ _, rfl⟩
    rw [hother]
    exact hif_resetPort_other _ _
  · exact ⟨_, runs_of_perform rfl (run_port1PerstAct hdual hup), rfl, rfl, rfl, rfl, rfl,
      ⟨rfl, rfl, rfl, rfl, rfl, rfl, rfl, rfl, rfl, rfl, rfl, rfl⟩⟩
  · refine ⟨_, runs_of_perform rfl (run_auxArrivalAct hoff), powerLost_loseAll _ _, ctl_loseAll _ _, ?_⟩
    rw [ctl_loseAll]
    exact ⟨rfl, rfl, rfl⟩
  · refine ⟨_, runs_of_perform rfl (run_auxLossAct hon), powerLost_loseAll _ _, ?_⟩
    rw [ctl_loseAll]
    exact ⟨rfl, rfl, rfl, rfl, rfl, rfl, rfl⟩

end Sys2Proof.Machine


namespace Sys2Proof.Machine

/-! # Start-up (Table 14-9, R448 to R460) -/

section StartUp
variable {b : Block} {env : StartEnv}

theorem Block.sameOutside_withPins (b : Block) (f : Pins → Pins) : b.SameOutside (b.withPins f) :=
  ⟨rfl, rfl, rfl, rfl, rfl, rfl, rfl, rfl, rfl, rfl, rfl, rfl⟩

theorem Block.sameOutside_withGlb (b : Block) (f : Glb → Glb) : b.SameOutside (b.withGlb f) :=
  ⟨rfl, rfl, rfl, rfl, rfl, rfl, rfl, rfl, rfl, rfl, rfl, rfl⟩

theorem Block.sameOutside_withSec (b : Block) (f : Security → Security) : b.SameOutside (b.withSec f) :=
  ⟨rfl, rfl, rfl, rfl, rfl, rfl, rfl, rfl, rfl, rfl, rfl, rfl⟩

theorem Block.sameOutside_withHealth (b : Block) (f : Health → Health) : b.SameOutside (b.withHealth f) :=
  ⟨rfl, rfl, rfl, rfl, rfl, rfl, rfl, rfl, rfl, rfl, rfl, rfl⟩

@[simp] theorem run_updGlb (b : Block) (f : Glb → Glb) : (updGlb f).run b = b.withGlb f := rfl

/-! ## The first steps -/

theorem run_presenceAct (hon : b.ctl.power.state ≠ .off) (hnot : b.ctl.pins.presence = false) : presenceAct.run b =
    (b.withPins fun p => { p with presence := true }).withGlb fun g => { g with startedAt := b.lhTime, step := max 1 g.step } := by
  simp only [presenceAct, run_look, bne_iff_ne.2 hon, hnot, Bool.not_false, Bool.and_self, run_when_true]
  rfl

theorem run_prechargeOkAct (hon : b.ctl.power.state ≠ .off) (hv54 : b.ctl.pins.v54 = true) : prechargeOkAct.run b =
    (b.withPins fun p => { p with prechargeOk := true }).withGlb fun g => { g with step := max 2 g.step } := by
  simp only [prechargeOkAct, run_look, bne_iff_ne.2 hon, hv54, Bool.and_self, run_when_true]
  rfl

theorem run_startUpTimeoutAct (hstart : b.ctl.starting = true) (hrun : b.ctl.power.state = .run)
    (hlate : b.ctl.glb.startedAt + 12000000000 ≤ b.lhTime) : startUpTimeoutAct.run b = b.withGlb fun g => { g with stopped := true } := by
  have hdue : decide (b.ctl.glb.startedAt + 12 * second ≤ b.lhTime) = true := decide_eq_true hlate
  simp only [startUpTimeoutAct, run_look, hstart, hrun, beq_self_eq_true, hdue, Bool.and_self, run_when_true, run_updGlb]

/-! ## MAIN_EN -/

/-- The block with MAIN_EN asserted. -/
def Block.mainOn (b : Block) : Block := b.withPins fun p => { p with mainEn := true }

/-- Start-up may go on, and MAIN_EN with nothing that trips takes it on. -/
structure Block.Boots (b : Block) (env : StartEnv) : Prop where
  aux       : b.ctl.pins.aux = true
  v54       : b.ctl.pins.v54 = true
  precharge : b.ctl.pins.prechargeOk = true
  power     : b.ctl.power.state = .run
  starting  : b.ctl.starting = true
  quiet     : env.trip = false

theorem Block.Boots.run_mainEnAct (h : b.Boots env) : (mainEnAct env).run b = (startFrom env b.ctl.glb.toRun).run b.mainOn := by
  simp only [mainEnAct, run_look, h.aux, h.v54, h.precharge, h.power, beq_self_eq_true, Bool.and_self, run_when_true, run_all_cons, run_all_nil,
    h.starting, h.quiet, Bool.false_eq_true, if_false]
  rfl

theorem Ctl.starting_iff {c : Ctl} : c.starting = true ↔ c.glb.state = .boot ∧ c.glb.stopped = false ∧ c.glb.tripped = false := by
  simp [Ctl.starting, and_assoc]

theorem Block.Boots.not_stopped (h : b.Boots env) : b.mainOn.ctl.glb.stopped = false := (Ctl.starting_iff.1 h.starting).2.1

/-! ## Steps in turn -/

/-- A stopped start-up goes no further. -/
theorem run_startFrom_stopped (hstop : b.ctl.glb.stopped = true) (ns : List Nat) : (startFrom env ns).run b = b := by
  cases ns with
  | nil => rfl
  | cons n ns =>
    simp only [startFrom, run_look, hstop, Bool.true_or, if_true, run_done]

/-- Start-up waits where its surroundings hold it. -/
theorem run_startFrom_waits {n : Nat} (hwait : env.reached < n) (ns : List Nat) : (startFrom env (n :: ns)).run b = b := by
  simp only [startFrom, run_look, decide_eq_true hwait, Bool.or_true, if_true, run_done]

theorem run_startFrom_cons {n : Nat} (hgo : b.ctl.glb.stopped = false) (hreach : n ≤ env.reached) (ns : List Nat) :
    (startFrom env (n :: ns)).run b = (startFrom env ns).run ((startStep env n).run b) := by
  have hno : decide (env.reached < n) = false := decide_eq_false (Nat.not_lt.2 hreach)
  simp only [startFrom, run_look, hgo, hno, Bool.or_self, Bool.false_eq_true, if_false, run_seq]

theorem Glb.toRun_early {g : Glb} (h : g.step ≤ 3) : g.toRun = [3, 4, 5, 6, 7, 8, 9, 10, 11] := by
  rw [Glb.toRun, if_pos h]
  decide

theorem Glb.toRun_late {g : Glb} (h : 3 < g.step) : g.toRun = (List.range 12).filter fun n => decide (g.step + 1 ≤ n) := by
  rw [Glb.toRun, if_neg (Nat.not_le.2 h)]

/-! ## Steps 3 to 5 -/

/-- Regulators that fail stop start-up at step 3. -/
theorem run_startFrom_regulators (hgo : b.ctl.glb.stopped = false) (hreach : 3 ≤ env.reached) (hreg : env.regulators = false) (ns : List Nat) :
    (startFrom env (3 :: ns)).run b =
      (b.withPins fun p => { p with pwrFault := true }).withGlb fun g => { g with step := 3, bootFault := 1, stopped := true } := by
  have hstep : (startStep env 3).run b =
      (b.withPins fun p => { p with pwrFault := true }).withGlb fun g => { g with step := 3, bootFault := 1, stopped := true } := by
    simp only [startStep, startPower, hreg, Bool.false_eq_true, if_false, run_upd]
    rfl
  rw [run_startFrom_cons hgo hreach, hstep, run_startFrom_stopped rfl]

/-- What the boot ROM leaves when neither bank passes its checks (R458). -/
def Block.romFailed (b : Block) : Block :=
  (b.withSec fun s => { s with nextBank := 0 }).withGlb fun g =>
    { g with step := 4, bootFault := 3, glbOnly := true, pcieUp := true, stopped := true }

theorem run_startRom_failed (ha : b.bankOk false = false) (hb : b.bankOk true = false) : (startRom env).run b = b.romFailed := by
  have hbank : ∀ d, b.bankOk d = false := fun d => by
    cases d
    · exact ha
    · exact hb
  simp only [startRom, run_look, hbank, Bool.false_eq_true, if_false, run_upd]
  rfl

/-- The block with its 54 V stage and regulators on, step 3 done. -/
def Block.converted (b : Block) : Block := (b.withPins fun p => { p with converterOn := true }).withGlb fun g => { g with step := 3 }

theorem run_startStep_power (hreg : env.regulators = true) : (startStep env 3).run b = b.converted := by
  simp only [startStep, startPower, hreg, if_true, run_upd]
  rfl

theorem run_startFrom_noBank (hgo : b.ctl.glb.stopped = false) (hreach : 5 ≤ env.reached) (hreg : env.regulators = true)
    (ha : b.bankOk false = false) (hb : b.bankOk true = false) (ns : List Nat) :
    (startFrom env (3 :: 4 :: 5 :: ns)).run b = b.converted.romFailed := by
  have hgo' : b.converted.ctl.glb.stopped = false := hgo
  have hrom : (startStep env 5).run b.converted = b.converted.romFailed := run_startRom_failed ha hb
  rw [run_startFrom_cons hgo (by omega), run_startStep_power hreg, run_startFrom_cons hgo' (by omega), show startStep env 4 = .done from rfl, run_done,
    run_startFrom_cons hgo' hreach, hrom, run_startFrom_stopped rfl]

theorem Block.sameOutside_noBank (b : Block) : b.SameOutside b.mainOn.converted.romFailed :=
  (b.sameOutside_withPins _).trans <| ((b.mainOn.sameOutside_withPins _).trans (Block.sameOutside_withGlb _ _)).trans <|
    (Block.sameOutside_withSec _ _).trans (Block.sameOutside_withGlb _ _)

/-! ## Step 7 -/

theorem run_startMemory_finding {k u : Nat} (h : ddrFinding b.fuses.twoTiB env = some (k, u)) : (startMemory env).run b = (finding k u).run b := by
  simp only [startMemory, run_look, h]

/-- A finding stops start-up with its code, and a record of it is kept (R222). -/
theorem run_finding (b : Block) (k u : Nat) : ∃ h : Health, (finding k u).run b =
    (b.withGlb fun g => { g with bootFault := k, faultUnit := u, stopped := true, pcieUp := true }).withHealth (fun _ => h) ∧ h.wanted = true := by
  simp only [finding, history, run_all_cons, run_all_nil, run_updGlb, run_look, run_upd]
  exact ⟨_, rfl, rfl⟩

theorem hbmBad_nil (s : Spares) (h : env.hbmFail = []) (stack : Nat) : hbmBad s env stack = [] := by simp [hbmBad, h]

theorem hbmFinding_none (s : Spares) (h : env.hbmFail = []) : hbmFinding s env = none := by
  simp [hbmFinding, hbmBad_nil s h]

/-- Memory without a finding comes up blank (Table 14-9 step 7). -/
theorem run_startMemory {d : Dimm} (hddr : ddrFinding b.fuses.twoTiB env = none) (hhbm : env.hbmFail = []) (hd : env.dimms.getD 0 none = some d) :
    (startMemory env).run b = (Act.each b.sems fun e => .one (.semReset e.1 0)).run
      (Eff.apply (b.withGlb fun g => { g with ddrRate := d.mts / 100, ddrGib := d.gib, ddrMrdimm := d.mrdimm, step := 7 }) .memClear) := by
  have hnone : ((List.range 8).flatMap fun k => hbmBad b.ctl.health.spares env k) = [] := by simp [hbmBad_nil _ hhbm]
  simp only [startMemory, run_look, hddr, hbmFinding_none _ hhbm, hd, Option.getD_some, hnone, run_all_cons, run_all_nil, run_updGlb, run_one,
    run_each_nil]

/-! ## Step 11 -/

theorem run_serveRemoval_none (h : b.ctl.power.removal = none) : serveRemoval.run b = b := by
  simp only [serveRemoval, run_look, h, run_opt_none]

/-- Semaphores of a range reset one after the other. -/
theorem sem_each_reset (xs : List Nat) (k : Nat) : ∀ b : Block,
    ((Act.each xs fun s => .one (.semReset s 0)).run b).sem k = if k ∈ xs then 0 else b.sem k := by
  induction xs with
  | nil => exact fun b => rfl
  | cons e xs ih =>
    intro b
    rw [run_each_cons, ih, run_one]
    simp only [Block.sem, apply_semReset_sems, Tab.get_set, List.mem_cons]
    by_cases hk : k = e
    · simp only [hk, true_or, if_true, show semWord 0 false = 0 from rfl, ite_self]
    · simp only [hk, false_or, if_false]

/-- The semaphores of the host's commands read 0, and nothing else has changed. -/
theorem run_resetHostSems (b : Block) : ∃ sems, resetHostSems.run b = { b with sems := sems } ∧
    (∀ k, 16256 ≤ k → k < 16320 → Tab.get 0 sems k = 0) ∧ ∀ k, (k < 16256 ∨ 16320 ≤ k) → Tab.get 0 sems k = b.sem k := by
  obtain ⟨sems, h⟩ := run_each_semReset (upto 16256 16320) id b
  have hsem : ∀ k, Tab.get 0 sems k = if k ∈ upto 16256 16320 then 0 else b.sem k := fun k => by
    have := sem_each_reset (upto 16256 16320) k b
    rwa [show (Act.each (upto 16256 16320) fun s => .one (.semReset s 0)).run b = _ from h] at this
  have hmem : ∀ k, k ∈ upto 16256 16320 ↔ 16256 ≤ k ∧ k < 16320 := fun k => by
    simp only [upto, List.mem_map, List.mem_range]
    exact ⟨fun ⟨a, ha, hk⟩ => by omega, fun ⟨hlo, hhi⟩ => ⟨k - 16256, by omega, by omega⟩⟩
  refine ⟨sems, h, fun k hlo hhi => (hsem k).trans (if_pos ((hmem k).2 ⟨hlo, hhi⟩)), fun k hk => (hsem k).trans (if_neg fun hin => ?_)⟩
  have := (hmem k).1 hin
  omega

/-- READY, with ROLLBACK at the lower SVN of the banks (R460). -/
theorem run_becomeReady (h : b.ctl.power.removal = none) : ∃ sems, becomeReady.run b =
    ({ b with sems := sems, fuses := { b.fuses with rollback := max b.fuses.rollback (min (min (b.svnOf false) (b.svnOf true)) 64) } } : Block).withGlb
      (fun g => { g with step := 11, state := .ready }) ∧ ∀ k, 16256 ≤ k → k < 16320 → Tab.get 0 sems k = 0 := by
  obtain ⟨sems, hrun, hzero, -⟩ := run_resetHostSems b
  refine ⟨sems, ?_, hzero⟩
  simp only [becomeReady, run_all_cons, run_all_nil, hrun, run_updGlb, raiseRollback, run_look, run_one]
  exact run_serveRemoval_none h

/-- The module is READY, and but for its state, the host's semaphores and ROLLBACK as it was in `b`. -/
structure Block.ReadyFrom (b t : Block) : Prop where
  state : t.ctl.glb.state = .ready
  step  : t.ctl.glb.step = 11
  fuses : t.fuses = { b.fuses with rollback := max b.fuses.rollback (min (min (b.svnOf false) (b.svnOf true)) 64) }
  sems  : ∀ k, 16256 ≤ k → k < 16320 → t.sem k = 0
  mem   : t.mem = b.mem
  host  : t.host = b.host
  arb   : t.arb = b.arb

/-- From the last step, whatever the steps before it have made of the control state. -/
theorem readyFrom_last (hreach : 11 ≤ env.reached) {c : Ctl} (hgo : c.glb.stopped = false) (hrem : c.power.removal = none) :
    b.ReadyFrom ((startFrom env [11]).run { b with ctl := c }) ∧
    ((startFrom env [11]).run { b with ctl := c }).ctl.glb.pcieUp = c.glb.pcieUp := by
  obtain ⟨sems, hrun, hzero⟩ := run_becomeReady (b := { b with ctl := c }) hrem
  have hlast : (startFrom env [11]).run { b with ctl := c } = becomeReady.run { b with ctl := c } := run_startFrom_cons hgo hreach []
  rw [hlast, hrun]
  exact ⟨⟨rfl, rfl, rfl, hzero, rfl, rfl, rfl⟩, rfl⟩

/-- From step 10 or before it, PCIe is up. -/
theorem readyFrom_ten (hreach : 11 ≤ env.reached) {c : Ctl} (hgo : c.glb.stopped = false) (hrem : c.power.removal = none) :
    b.ReadyFrom ((startFrom env [10, 11]).run { b with ctl := c }) ∧
    ((startFrom env [10, 11]).run { b with ctl := c }).ctl.glb.pcieUp = true := by
  have hten : (startFrom env [10, 11]).run { b with ctl := c } = _ := run_startFrom_cons hgo (by omega) [11]
  rw [hten]
  exact readyFrom_last (c := { c with pins := { c.pins with wake := false }, glb := { c.glb with step := 10, pcieUp := true } }) hreach hgo hrem

theorem readyFrom_nine (hreach : 11 ≤ env.reached) {c : Ctl} (hgo : c.glb.stopped = false) (hrem : c.power.removal = none) :
    b.ReadyFrom ((startFrom env [9, 10, 11]).run { b with ctl := c }) ∧
    ((startFrom env [9, 10, 11]).run { b with ctl := c }).ctl.glb.pcieUp = true := by
  have hnine : (startFrom env [9, 10, 11]).run { b with ctl := c } = _ := run_startFrom_cons hgo (by omega) [10, 11]
  rw [hnine]
  exact readyFrom_ten (c := { c with glb := { c.glb with step := 9 } }) hreach hgo hrem

/-- The last steps lead to READY. -/
theorem Block.Boots.readyFrom (h : b.Boots env) (hlo : 8 ≤ b.ctl.glb.step) (hhi : b.ctl.glb.step ≤ 10) (hreach : 11 ≤ env.reached)
    (hrem : b.ctl.power.removal = none) : b.ReadyFrom ((mainEnAct env).run b) ∧
      (b.ctl.glb.step ≤ 9 → ((mainEnAct env).run b).ctl.glb.pcieUp = true) := by
  have hlate : b.ctl.glb.toRun = (List.range 12).filter fun n => decide (b.ctl.glb.step + 1 ≤ n) := Glb.toRun_late (by omega)
  have hgo := h.not_stopped
  rw [h.run_mainEnAct]
  obtain hstep | hstep | hstep : b.ctl.glb.step = 8 ∨ b.ctl.glb.step = 9 ∨ b.ctl.glb.step = 10 := by omega
  · rw [hlate, hstep, show ((List.range 12).filter fun n => decide (8 + 1 ≤ n)) = [9, 10, 11] by decide]
    obtain ⟨hready, hup⟩ := readyFrom_nine (b := b) (c := b.mainOn.ctl) hreach hgo hrem
    exact ⟨hready, fun _ => hup⟩
  · rw [hlate, hstep, show ((List.range 12).filter fun n => decide (9 + 1 ≤ n)) = [10, 11] by decide]
    obtain ⟨hready, hup⟩ := readyFrom_ten (b := b) (c := b.mainOn.ctl) hreach hgo hrem
    exact ⟨hready, fun _ => hup⟩
  · rw [hlate, hstep, show ((List.range 12).filter fun n => decide (10 + 1 ≤ n)) = [11] by decide]
    exact ⟨(readyFrom_last (b := b) (c := b.mainOn.ctl) hreach hgo hrem).1, fun hle => absurd hle (by decide)⟩

/-- From step 6 the next is step 7. -/
theorem Block.Boots.run_memory (h : b.Boots env) (hstep : b.ctl.glb.step = 6) (hreach : 7 ≤ env.reached) :
    (mainEnAct env).run b = (startFrom env [8, 9, 10, 11]).run ((startMemory env).run b.mainOn) := by
  have hlist : b.ctl.glb.toRun = [7, 8, 9, 10, 11] := by
    rw [Glb.toRun_late (by omega), hstep]
    decide
  rw [h.run_mainEnAct, hlist, run_startFrom_cons h.not_stopped hreach]
  rfl

end StartUp

/-- Settles O54: the steps of Table 14-9, each from where start-up stands. -/
theorem startsUp : Obligations.StartsUp := by
  refine ⟨fun s hon hnot => runs_of_perform rfl (run_presenceAct hon hnot), fun s hon hv54 => runs_of_perform rfl (run_prechargeOkAct hon hv54),
    fun s env haux hv54 hpre hpower hstart htrip => ?_, fun s hstart hpower hlate => runs_of_perform rfl (run_startUpTimeoutAct hstart hpower hlate)⟩
  have hboots : s.block.Boots env := ⟨haux, hv54, hpre, hpower, hstart, htrip⟩
  obtain ⟨hboot, -⟩ := Ctl.starting_iff.1 hstart
  refine ⟨fun hstep hreach hreg => ?_, fun hstep hreach hreg ha hb => ?_, fun k u hstep hreach hddr => ?_,
    fun d hstep hreach hddr hhbm hd => ?_, fun hlo hhi hreach hrem => ?_⟩
  · refine runs_of_perform rfl (hboots.run_mainEnAct.trans ?_)
    rw [Glb.toRun_early hstep]
    exact run_startFrom_regulators hboots.not_stopped hreach hreg _
  · have hrun : (mainEnAct env).run s.block = s.block.mainOn.converted.romFailed := by
      rw [hboots.run_mainEnAct, Glb.toRun_early hstep]
      exact run_startFrom_noBank hboots.not_stopped hreach hreg ha hb _
    exact ⟨_, runs_of_perform rfl hrun, rfl, rfl, rfl, rfl, hboot, rfl, rfl, rfl, s.block.sameOutside_noBank⟩
  · obtain ⟨h, hfound, hwanted⟩ := run_finding s.block.mainOn k u
    have hmem := (run_startMemory_finding (b := s.block.mainOn) hddr).trans hfound
    have hrun := (hboots.run_memory hstep hreach).trans (congrArg (startFrom env [8, 9, 10, 11]).run hmem)
    exact ⟨_, runs_of_perform rfl (hrun.trans (run_startFrom_stopped rfl _)), rfl, hwanted,
      (s.block.sameOutside_withPins _).trans ((Block.sameOutside_withGlb _ _).trans (Block.sameOutside_withHealth _ _))⟩
  · have hmem := run_startMemory (b := s.block.mainOn) hddr hhbm hd
    obtain ⟨sems, hsems⟩ := run_each_semReset s.block.sems Prod.fst (Eff.apply (s.block.mainOn.withGlb fun g =>
      { g with ddrRate := d.mts / 100, ddrGib := d.gib, ddrMrdimm := d.mrdimm, step := 7 }) .memClear)
    have hzero := sem_resetAll (Eff.apply (s.block.mainOn.withGlb fun g =>
      { g with ddrRate := d.mts / 100, ddrGib := d.gib, ddrMrdimm := d.mrdimm, step := 7 }) .memClear)
    have hrun := (hboots.run_memory hstep (by omega)).trans (run_startFrom_waits (by omega) _)
    refine ⟨_, runs_of_perform rfl (hrun.trans (hmem.trans hsems)), rfl, fun k => ?_, rfl, rfl, rfl, rfl, rfl⟩
    exact (congrArg (Block.sem · k) hsems).symm.trans (hzero k)
  · obtain ⟨hready, hup⟩ := hboots.readyFrom hlo hhi hreach hrem
    exact ⟨_, runs_of_perform rfl rfl, hready.state, hready.step, hup, hready.fuses, hready.sems, hready.mem, hready.host, hready.arb⟩

end Sys2Proof.Machine


namespace Sys2Proof.Machine

/-! # Power, temperature and removal (R437 to R440, R443, R450, R451) -/

section Power
variable {b : Block}

theorem Block.SameData.trans {b c d : Block} (h : b.SameData c) (h' : c.SameData d) : b.SameData d := by
  obtain ⟨h1, h2, h3, h4, h5, h6, h7, h8, h9, h10⟩ := h
  obtain ⟨k1, k2, k3, k4, k5, k6, k7, k8, k9, k10⟩ := h'
  exact ⟨k1.trans h1, k2.trans h2, k3.trans h3, k4.trans h4, k5.trans h5, k6.trans h6, k7.trans h7, k8.trans h8, k9.trans h9, k10.trans h10⟩

theorem Block.SameData.lhTime_eq {b c : Block} (h : b.SameData c) : c.lhTime = b.lhTime := h.2.2.2.2.2.2.1

/-- Control state, events and messages are no data. -/
theorem sameData_of (b : Block) (ctl : Ctl) (arb : Arbiter) (out : List Sent) : b.SameData { b with ctl := ctl, arb := arb, out := out } :=
  ⟨rfl, rfl, rfl, rfl, rfl, rfl, rfl, rfl, rfl, rfl⟩

theorem sameData_withPower (b : Block) (f : Power → Power) : b.SameData (b.withPower f) := ⟨rfl, rfl, rfl, rfl, rfl, rfl, rfl, rfl, rfl, rfl⟩

theorem sameData_accept (b : Block) (code source detail : Nat) : b.SameData (b.accept code source detail) :=
  ⟨rfl, rfl, rfl, rfl, rfl, rfl, rfl, rfl, rfl, rfl⟩

theorem sameOutside_withPower (b : Block) (f : Power → Power) : b.SameOutside (b.withPower f) :=
  ⟨rfl, rfl, rfl, rfl, rfl, rfl, rfl, rfl, rfl, rfl, rfl, rfl⟩

/-! ## Fences and trips (R418, R440) -/

@[simp] theorem run_history (b : Block) (r : Nat → ErrRec) : (history r).run b = b.withHealth fun h => h.noted (r b.lhTime) := rfl

/-- Writing a snapshot touches the store alone. -/
theorem run_storeNow (b : Block) : ∃ h : Health, storeNow.run b = b.withHealth fun _ => h := by
  refine ⟨(b.ctl.store b.lhTime).health, ?_⟩
  simp only [storeNow, run_look, run_upd, Ctl.store]
  cases b.ctl.storeDev <;> rfl

/-- A snapshot that may be due touches the store alone. -/
theorem run_when_storeNow (b : Block) (c : Bool) : ∃ h : Health, (Act.when c storeNow).run b = b.withHealth fun _ => h := by
  cases c
  · exact ⟨b.ctl.health, rfl⟩
  · exact run_storeNow b

theorem run_fence (b : Block) (detail : Nat) : ∃ h : Health, (fence detail).run b = warmReset.run (b.withHealth fun _ => h) := by
  simp only [fence, run_all_cons, run_all_nil, run_history, run_look]
  obtain ⟨h, hstore⟩ := run_when_storeNow (b.withHealth fun h => h.noted { time := b.lhTime, cls := 15, kind := 1, unit := 0, detail := detail })
    (b.withHealth fun h => h.noted { time := b.lhTime, cls := 15, kind := 1, unit := 0, detail := detail }).ctl.storeTaken
  exact ⟨h, congrArg warmReset.run hstore⟩

/-- A module fault tells its partner, or its leader, and fences. -/
theorem run_moduleFault (b : Block) (detail : Nat) : ∃ (h : Health) (out : List Sent),
    (moduleFault detail).run b = warmReset.run (({ b with out := out } : Block).withHealth fun _ => h) := by
  simp only [moduleFault, run_look, run_all_cons, run_all_nil]
  generalize b.ctl.bound = bound
  generalize (!bound && b.ctl.job.inJob && !b.ctl.leader) = led
  have hsent : ∀ out : List Sent, ∃ (h : Health) (out' : List Sent), (fence detail).run ({ b with out := out } : Block) =
      warmReset.run (({ b with out := out' } : Block).withHealth fun _ => h) := fun out => by
    obtain ⟨h, hrun⟩ := run_fence { b with out := out } detail
    exact ⟨h, out, hrun⟩
  cases bound <;> cases led <;> exact hsent _

/-- A trip: the dies are reset and off, and the converter with them. -/
theorem run_trip (htrip : b.ctl.glb.tripped = false) (cause : Nat) : ∃ (ctl : Ctl) (out : List Sent),
    (trip cause).run b = { b with ctl := ctl, arb := Arbiter.reset, out := out } ∧ ctl.glb.tripped = true ∧ ctl.glb.state = .boot ∧ ctl.lh = b.ctl.lh ∧
      ctl.pins = { b.ctl.pins with pwrFault := true, converterOn := false } := by
  obtain ⟨h, out, hfault⟩ := run_moduleFault b cause
  simp only [trip, run_look, htrip, Bool.not_false, run_when_true, run_all_cons, run_all_nil, hfault, run_upd, run_warmReset]
  exact ⟨_, out, rfl, rfl, rfl, rfl, rfl⟩

/-- What a trip leaves, whatever came just before it. -/
theorem tripped_run_trip {c : Block} (htrip : c.ctl.glb.tripped = false) (cause : Nat) :
    ((trip cause).run c).Tripped ∧ c.SameData ((trip cause).run c) := by
  obtain ⟨ctl, out, hrun, htr, hst, -, hpins⟩ := run_trip htrip cause
  rw [hrun]
  exact ⟨⟨htr, hst, congrArg Pins.pwrFault hpins, congrArg Pins.converterOn hpins, rfl⟩, sameData_of c ctl _ out⟩

/-! ## Power samples (R437, R438) -/

/-- The power state with the readings of a sample. -/
def Power.read (p : Power) (r : PowerReading) : Power := { p with inputMv := r.inputMv, inputW := r.inputW, packageW := r.packageW }

/-- The power state with its clocks as its present readings want them. -/
def Power.clocked (p : Power) : Power := { p with clocksDown := p.limits }

@[simp] theorem run_stepClocks (b : Block) : stepClocks.run b = b.withPower Power.clocked := rfl

/-- A limit that takes effect: reported when it is due, and noted. -/
def limitReport (now : Nat) (p : Power) (k limit measured : Nat) : Act :=
  (Act.when (due (Tab.get 0 p.limitedAt k) now) (raise 0x0601 (src 8 0) (limit % 65536 * 2 ^ 48 + measured % 65536 * 2 ^ 32 + k))).seq
    (.upd fun c => { c with power := { c.power with limitedAt := Tab.set 0 c.power.limitedAt k (now + 1) } })

theorem run_powerSampleAct (h : b.ctl.powered = true) (r : PowerReading) : (powerSampleAct r).run b =
    (Act.each (b.ctl.power.read r).exceeded fun x => limitReport b.lhTime (b.ctl.power.read r) x.1 x.2.1 x.2.2).run
      (b.withPower fun _ => (b.ctl.power.read r).clocked) := by
  simp only [powerSampleAct, run_look, h, run_when_true, run_all_cons, run_all_nil, run_upd, run_stepClocks]
  rfl

theorem run_limitReport {c : Block} {p : Power} {k : Nat} (hdue : due (Tab.get 0 p.limitedAt k) b.lhTime = true) (limit measured : Nat) :
    (limitReport b.lhTime p k limit measured).run c =
      (c.accept 0x0601 (src 8 0) (limit % 65536 * 2 ^ 48 + measured % 65536 * 2 ^ 32 + k)).withPower fun q =>
        { q with limitedAt := Tab.set 0 q.limitedAt k (b.lhTime + 1) } := by
  simp only [limitReport, hdue, run_when_true, run_seq]
  rfl

/-- An event raised after a change of the power state is the event raised before it. -/
theorem raised_withPower (b : Block) (f g : Power → Power) (code source detail : Nat) :
    b.Raised (((b.withPower f).accept code source detail).withPower g) code source detail := rfl

/-! ## Temperatures (R219, R438, R440) -/

/-- The power state with a sensor's reading, and the refresh rate of its stack. -/
def Power.sampled (p : Power) (sensor : Nat) (t : BitVec 16) (warn : Int) : Power :=
  { p with
    temps := Tab.set 0 p.temps sensor t,
    refresh2x := if sensor < 8 ∨ 16 ≤ sensor then p.refresh2x
      else if warn < t.toInt then p.refresh2x ||| BitVec.ofNat 8 (2 ^ (sensor - 8))
      else p.refresh2x &&& ~~~(BitVec.ofNat 8 (2 ^ (sensor - 8))) }

theorem run_temperatureSampleAct (h : b.ctl.powered = true) {sensor : Nat} (t : BitVec 16) {warn : Int} {limit tripAt : Option Int}
    (hth : thresholds sensor = some (warn, limit, tripAt)) : (temperatureSampleAct sensor t).run b =
      (Act.opt tripAt fun x => Act.when (takes sensor x t.toInt) (trip (256 + sensor))).run
        (((Act.opt limit fun l => Act.when (takes sensor l t.toInt) (thermalWarn sensor 2 t l)).run
          ((Act.when (takes sensor warn t.toInt) (thermalWarn sensor 1 t warn)).run (b.withPower fun p => p.sampled sensor t warn))).withPower Power.clocked) := by
  simp only [temperatureSampleAct, run_look, h, run_when_true, hth, run_opt_some, run_all_cons, run_all_nil, run_upd, run_stepClocks]
  rfl

/-- Limit and trip level lie above the warning, and the inlet has neither. -/
theorem thresholds_above {sensor : Nat} {warn : Int} {limit tripAt : Option Int} (h : thresholds sensor = some (warn, limit, tripAt)) :
    (∀ l, limit = some l → warn < l) ∧ ∀ x, tripAt = some x → warn < x ∧ sensor ≠ 16 := by
  simp only [thresholds] at h
  split_ifs at h with h1 h2 h3 h4 <;> simp only [Option.some.injEq, Prod.mk.injEq] at h <;> obtain ⟨rfl, rfl, rfl⟩ := h <;>
    simp only [Option.some.injEq, reduceCtorEq, false_implies, implies_true, and_self, true_and, forall_eq'] <;> omega

/-- A level above the reading is not taken. -/
theorem takes_of_lt {level t : Int} (sensor : Nat) (h : t < level) : takes sensor level t = false := by
  simp only [takes]
  split
  · exact decide_eq_false (by omega)
  · exact decide_eq_false (by omega)

/-- A level that none takes does nothing. -/
theorem run_opt_when_false {α : Type} (o : Option α) (c : α → Bool) (f : α → Act) (h : ∀ x, o = some x → c x = false) :
    (Act.opt o fun x => Act.when (c x) (f x)).run b = b := by
  cases o with
  | none => rfl
  | some x => rw [run_opt_some, h x rfl, run_when_false]

theorem getLsbD_pow {i : Nat} (h : i < 8) : (BitVec.ofNat 8 (2 ^ i)).getLsbD i = true := by
  simp only [BitVec.getLsbD_ofNat, h, decide_true, Bool.true_and, Nat.testBit_two_pow_self]

theorem refresh2x_sampled (p : Power) {sensor : Nat} (t : BitVec 16) (warn : Int) (hlo : 8 ≤ sensor) (hhi : sensor < 16) :
    (p.sampled sensor t warn).refresh2x.getLsbD (sensor - 8) = decide (warn < t.toInt) := by
  have hbit := getLsbD_pow (show sensor - 8 < 8 by omega)
  simp only [Power.sampled, if_neg (show ¬ (sensor < 8 ∨ 16 ≤ sensor) by omega)]
  split
  case isTrue hw => simp only [BitVec.getLsbD_or, hbit, Bool.or_true, hw, decide_true]
  case isFalse hw => simp only [BitVec.getLsbD_and, BitVec.getLsbD_not, hbit, Bool.not_true, Bool.and_false, hw, decide_false]

/-- A warning touches the arbiter and the power state alone. -/
theorem run_thermalWarn (b : Block) (sensor level : Nat) (t : BitVec 16) (threshold : Int) : ∃ (arb : Arbiter) (p : Power),
    (thermalWarn sensor level t threshold).run b = ({ b with arb := arb } : Block).withPower fun _ => p := by
  simp only [thermalWarn, run_look, run_seq, run_upd]
  generalize due _ _ = d
  cases d
  · exact ⟨_, _, rfl⟩
  · exact ⟨_, _, rfl⟩

/-- So do the warnings of a reading. -/
theorem run_warnings (b : Block) (sensor : Nat) (t : BitVec 16) (warn : Int) (limit : Option Int) : ∃ (arb : Arbiter) (p : Power),
    (Act.opt limit fun l => Act.when (takes sensor l t.toInt) (thermalWarn sensor 2 t l)).run ((thermalWarn sensor 1 t warn).run b) =
      ({ b with arb := arb } : Block).withPower fun _ => p := by
  obtain ⟨arb, p, hwarn⟩ := run_thermalWarn b sensor 1 t warn
  cases limit with
  | none => exact ⟨arb, p, hwarn⟩
  | some l =>
    rw [run_opt_some, run_when]
    split
    · obtain ⟨arb', p', hlimit⟩ := run_thermalWarn ((thermalWarn sensor 1 t warn).run b) sensor 2 t l
      rw [hlimit, hwarn]
      exact ⟨arb', p', rfl⟩
    · exact ⟨arb, p, hwarn⟩

theorem run_thermalWarn_due {sensor : Nat} (hdue : due (Tab.get 0 b.ctl.power.warnedAt (2 * sensor)) b.lhTime = true) (t : BitVec 16) (threshold : Int) :
    (thermalWarn sensor 1 t threshold).run b =
      (b.accept 0x0600 (src 8 0) (t.toNat * 2 ^ 32 + (BitVec.ofInt 16 threshold).toNat * 2 ^ 16 + sensor * 2 ^ 8 + 1)).withPower fun p =>
        { p with warnedAt := Tab.set 0 p.warnedAt (2 * sensor) (b.lhTime + 1) } := by
  simp only [thermalWarn, run_look, run_seq, run_upd]
  rw [show 2 * sensor + (1 - 1) = 2 * sensor from rfl, hdue, run_when_true]
  rfl

/-! ## Leak and undervoltage (R440, R451) -/

theorem run_leakAct (hoff : b.ctl.power.state ≠ .off) : leakAct.run b =
    (trip 512).run ((b.flagged flagLeak).withPins fun p => { p with leak := true }) := by
  simp only [leakAct, run_look, bne_iff_ne.2 hoff, run_when_true, run_seq, leakTrip, run_updLh, run_upd]
  rfl

/-- The control state once 54 V has failed under powered dies. -/
def Ctl.powerFailed (c : Ctl) (now : Nat) : Ctl :=
  let d := { c with pins := { c.pins with v54 := false, prechargeOk := false, mainEn := false, converterOn := false } }.resetDies now
  { d with glb := { d.glb with step := 1 }, pins := { d.pins with cageFeed := 0 } }

theorem run_powerFail (h : (b.ctl.power.state != .standby) = true) :
    powerFail.run b = { b with ctl := b.ctl.powerFailed b.lhTime, arb := Arbiter.reset } := by
  simp only [powerFail, run_look, run_all_cons, run_all_nil, h, run_when_true, run_upd, run_one]
  rfl

theorem run_undervoltageAct (hpower : b.ctl.power.state = .run ∨ b.ctl.power.state = .idle) : undervoltageAct.run b =
    { b with ctl := (b.flagged flagUnder).ctl.powerFailed b.lhTime, arb := Arbiter.reset } := by
  have hoff : (b.ctl.power.state != .off) = true := by rcases hpower with h | h <;> rw [h] <;> rfl
  have hstandby : (b.ctl.power.state != .standby) = true := by rcases hpower with h | h <;> rw [h] <;> rfl
  simp only [undervoltageAct, run_look, hoff, run_when_true, run_seq, run_updLh]
  exact run_powerFail hstandby

/-! ## Removal (R450) -/

theorem run_requestRemoval_again {r : Removal} (h : b.ctl.power.removal = some r) (source : Nat) : (requestRemoval source).run b = b := by
  simp only [requestRemoval, run_look, h, Option.isNone_some, Bool.false_and, run_when_false]

/-- The block with a removal asked for, and its event. -/
def Block.removalAsked (b : Block) (source : Nat) : Block :=
  (b.withPower fun p => { p with removal := some { source := source, since := b.lhTime, draining := false } }).accept 0x0900 (src 8 0) source

/-- Where no job holds the module, REMOVE_OK comes at once. -/
theorem run_serveRemoval_free {r : Removal} (hrem : b.ctl.power.removal = some r) (hnot : b.ctl.pins.removeOk = false)
    (hstate : b.ctl.glb.state = .ready ∨ b.ctl.glb.state = .loaded) : serveRemoval.run b = b.withPins fun p => { p with removeOk := true } := by
  rcases hstate with hst | hst
  · simp only [serveRemoval, run_look, hrem, run_opt_some, hnot, Bool.not_false, run_when_true, hst]
    rfl
  · simp only [serveRemoval, run_look, hrem, run_opt_some, hnot, Bool.not_false, run_when_true, hst]
    rfl

theorem run_requestRemoval {c : Block} (hmay : c.ctl.MayRemove) (source : Nat) :
    (requestRemoval source).run c = (c.removalAsked source).withPins fun p => { p with removeOk := true } := by
  obtain ⟨hnone, hnot, hstate, hpower⟩ := hmay
  have hoff : (c.ctl.power.state != .off) = true := by rcases hpower with h | h <;> rw [h] <;> rfl
  have hstandby : (c.ctl.power.state != .standby) = true := by rcases hpower with h | h <;> rw [h] <;> rfl
  simp only [requestRemoval, run_look, hnone, Option.isNone_none, hoff, hstandby, Bool.and_self, run_when_true, run_all_cons, run_all_nil]
  exact run_serveRemoval_free (b := c.removalAsked source) rfl hnot hstate

/-- A request where no job holds the module is served at once, whatever pin made it. -/
theorem removalServed_asked (b : Block) (f g : Pins → Pins) (hg : ∀ p, (g p).removeOk = true) (source : Nat) :
    b.RemovalServed (((b.withPins f).removalAsked source).withPins g) source :=
  ⟨rfl, rfl, hg _, rfl, rfl, rfl, ⟨rfl, rfl, rfl, rfl, rfl, rfl, rfl, rfl, rfl, rfl⟩, rfl⟩

/-- Ten seconds of draining are over: the module goes by force. -/
theorem run_drainTimeoutAct {r : Removal} (hrem : b.ctl.power.removal = some r) (hstate : b.ctl.glb.state = .draining)
    (hnot : b.ctl.pins.removeOk = false) (hdrain : r.draining = true ∨ b.ctl.pair.role = .bound) (hlate : r.since + 10000000000 ≤ b.lhTime) :
    drainTimeoutAct.run b = removeEnd.run ((Act.when b.ctl.bound (send .partner (.faultNotice none))).run b) := by
  have hrole : (r.draining || b.ctl.pair.role == .bound) = true := by simpa using hdrain
  have hdue : decide (r.since + 10 * second ≤ b.lhTime) = true := decide_eq_true hlate
  simp only [drainTimeoutAct, run_look, hrem, run_opt_some, hstate, hnot, hrole, hdue, beq_self_eq_true, Bool.not_false, Bool.and_self, run_when_true,
    run_seq]

theorem run_removeEnd (b : Block) : ∃ ctl : Ctl, removeEnd.run b = { b with ctl := ctl, arb := Arbiter.reset } ∧ ctl.pins.removeOk = true ∧
    ctl.glb.stopped = true ∧ ctl.glb.state = .boot ∧ ctl.plan = Plan.blank := by
  obtain ⟨h, hfence⟩ := run_fence b 5
  simp only [removeEnd, run_all_cons, run_all_nil, hfence, run_warmReset, run_upd]
  exact ⟨_, rfl, rfl, rfl, rfl, rfl⟩

end Power

/-- Settles O51: readings, trips, 54 V and removal. -/
theorem powerAndRemoval : Obligations.PowerAndRemoval := by
  refine ⟨fun s r hpowered => ?_, fun s sensor v warn limit tripAt hpowered hth => ?_, fun s hoff htrip => ?_, fun s hpower => ?_, fun s hmay => ?_,
    fun s r hrem => ?_, fun s r hrem hstate hnot hdrain hlate => ?_⟩
  · refine ⟨fun hnone => ?_, fun k limit measured hone hdue => ?_⟩
    · have hrun := run_powerSampleAct hpowered r
      rw [show (s.block.ctl.power.read r).exceeded = [] from hnone] at hrun
      exact runs_of_perform rfl hrun
    · have hrun := run_powerSampleAct hpowered r
      rw [show (s.block.ctl.power.read r).exceeded = [(k, limit, measured)] from hone, run_each_cons, run_each_nil,
        run_limitReport (p := s.block.ctl.power.read r) (k := k) hdue limit measured] at hrun
      refine ⟨_, runs_of_perform rfl hrun, raised_withPower _ _ _ _ _ _, ?_, rfl, rfl, rfl, ?_,
        ⟨rfl, rfl, rfl, rfl, rfl, rfl, rfl, rfl, rfl, rfl⟩, rfl, rfl⟩
      · show (s.block.ctl.power.read r).limits = true
        rw [Power.limits, show (s.block.ctl.power.read r).exceeded = [(k, limit, measured)] from hone]
        rfl
      · exact Tab.get_set_self 0 (s.block.ctl.power.read r).limitedAt k (s.block.lhTime + 1)
  · obtain ⟨hlimit, htrip⟩ := thresholds_above hth
    have hrun := run_temperatureSampleAct hpowered v hth
    refine ⟨fun hcold => ?_, fun hwarm hl hx hdue => ?_, fun x hx hhot => ?_⟩
    · have hquiet : takes sensor.val warn v.toInt = false := by
        rcases hcold with h | ⟨h16, heq⟩
        · exact takes_of_lt _ h
        · rw [takes, if_pos h16, heq]
          exact decide_eq_false (lt_irrefl _)
      have hle : v.toInt ≤ warn := hcold.elim le_of_lt fun h => le_of_eq h.2
      rw [hquiet, run_when_false, run_opt_when_false _ _ _ fun l h => takes_of_lt _ (lt_of_le_of_lt hle (hlimit l h)),
        run_opt_when_false _ _ _ fun x h => takes_of_lt _ (lt_of_le_of_lt hle (htrip x h).1)] at hrun
      refine ⟨_, runs_of_perform rfl hrun, Tab.get_set_self _ _ _ _, rfl, (sameOutside_withPower _ _).trans (sameOutside_withPower _ _), rfl,
        fun hlo hhi => ?_⟩
      exact (refresh2x_sampled s.block.ctl.power v warn hlo hhi).trans (decide_eq_false (not_lt.2 hle))
    · have htakes : takes sensor.val warn v.toInt = true := by
        rw [takes]
        split
        case isTrue h16 => exact decide_eq_true (hwarm.elim id fun h => absurd h16 h.1)
        case isFalse => exact decide_eq_true (hwarm.elim le_of_lt fun h => le_of_eq h.2.symm)
      rw [htakes, run_when_true, run_thermalWarn_due (b := s.block.withPower fun p => p.sampled sensor.val v warn) hdue v warn, run_opt_when_false _ _ _ fun l h => takes_of_lt _ (hl l h),
        run_opt_when_false _ _ _ fun x h => takes_of_lt _ (hx x h)] at hrun
      exact ⟨_, runs_of_perform rfl hrun, Tab.get_set_self _ _ _ _, rfl,
        (sameData_withPower _ _).trans ((sameData_accept _ _ _ _).trans ((sameData_withPower _ _).trans (sameData_withPower _ _))), rfl,
        refresh2x_sampled s.block.ctl.power v warn⟩
    · obtain ⟨habove, h16⟩ := htrip x hx
      have htakes : ∀ l, l ≤ v.toInt → takes sensor.val l v.toInt = true := fun l hl => by
        rw [takes, if_neg h16]
        exact decide_eq_true hl
      obtain ⟨arb, p, hwarn⟩ := run_warnings (s.block.withPower fun p => p.sampled sensor.val v warn) sensor.val v warn limit
      rw [htakes warn (by omega), run_when_true, hwarn, hx, run_opt_some, htakes x hhot, run_when_true] at hrun
      simp only [Ctl.powered, Bool.and_eq_true, Bool.not_eq_true'] at hpowered
      obtain ⟨htripped, hsame⟩ := tripped_run_trip (c := (({ s.block.withPower fun p => p.sampled sensor.val v warn with arb := arb } : Block).withPower
        fun _ => p).withPower Power.clocked) hpowered.1.2 (256 + sensor.val)
      exact ⟨_, runs_of_perform rfl hrun, htripped, ((((sameData_withPower _ _).trans (sameData_of _ _ arb _)).trans (sameData_withPower _ _)).trans
        (sameData_withPower _ _)).trans hsame⟩
  · obtain ⟨ctl, out, hrun, htr, hst, hlh, hpins⟩ := run_trip (b := (s.block.flagged flagLeak).withPins fun p => { p with leak := true }) htrip 512
    refine ⟨_, runs_of_perform rfl ((run_leakAct hoff).trans hrun), ⟨htr, hst, congrArg Pins.pwrFault hpins, congrArg Pins.converterOn hpins, rfl⟩,
      congrArg Pins.leak hpins, hlh, ⟨rfl, rfl, rfl, rfl, rfl, rfl, rfl, rfl, rfl, rfl⟩⟩
  · exact ⟨_, runs_of_perform rfl (run_undervoltageAct hpower), ⟨rfl, rfl, rfl, rfl, rfl, rfl, rfl, rfl, rfl, rfl, rfl, rfl, rfl, rfl, rfl⟩, rfl, rfl, rfl,
      rfl, ⟨rfl, rfl, rfl, rfl, rfl, rfl, rfl, rfl, rfl, rfl⟩, rfl⟩
  · refine ⟨⟨_, runs_of_perform rfl ?_, removalServed_asked s.block (fun p => { p with latchOpen := true }) (fun p => { p with removeOk := true })
        (fun _ => rfl) 1, rfl⟩,
      ⟨_, runs_of_perform rfl ?_, removalServed_asked s.block (fun p => { p with attn := true }) (fun p => { p with removeOk := true })
        (fun _ => rfl) 2, rfl⟩,
      fun hcommon => ⟨_, runs_of_perform rfl ?_, removalServed_asked s.block id (fun p => { p with removeOk := true }) (fun _ => rfl) 3⟩⟩
    · simp only [frontLatchAct, run_seq]
      exact run_requestRemoval (c := s.block.withPins fun p => { p with latchOpen := true }) hmay 1
    · simp only [attnAct, run_seq]
      exact run_requestRemoval (c := s.block.withPins fun p => { p with attn := true }) hmay 2
    · have hport : s.block.ctl.mayWriteCommon ((0 : Fin 2) == 1) = true := hcommon
      simp only [pwrReqRemoveAct, run_look, hport, run_when_true]
      exact run_requestRemoval hmay 3
  · refine ⟨runs_of_perform rfl ?_, runs_of_perform rfl ?_, fun port => runs_of_perform rfl ?_⟩
    · simp only [frontLatchAct, run_seq]
      exact run_requestRemoval_again (b := s.block.withPins fun p => { p with latchOpen := true }) hrem 1
    · simp only [attnAct, run_seq]
      exact run_requestRemoval_again (b := s.block.withPins fun p => { p with attn := true }) hrem 2
    · simp only [pwrReqRemoveAct, run_look, run_when, run_requestRemoval_again hrem, ite_self]
  · obtain ⟨ctl, hend, hok, hstop, hboot, hplan⟩ := run_removeEnd ((Act.when s.block.ctl.bound (send .partner (.faultNotice none))).run s.block)
    have hrun := (run_drainTimeoutAct hrem hstate hnot hdrain hlate).trans hend
    have hsent : (Act.when s.block.ctl.bound (send .partner (.faultNotice none))).run s.block =
        { s.block with out := (if s.block.ctl.bound then [{ dest := .partner, msg := .faultNotice none }] else []) ++ s.block.out } := by
      cases s.block.ctl.bound <;> rfl
    rw [hsent] at hrun
    exact ⟨_, runs_of_perform rfl hrun, hok, hstop, hboot, hplan, rfl, ⟨rfl, rfl, rfl, rfl, rfl, rfl, rfl, rfl, rfl, rfl⟩, rfl⟩

end Sys2Proof.Machine


namespace Sys2Proof.Machine

/-! # Firmware (R456, R458, R460 to R463, R470) -/

section Firmware
variable {b : Block} {id : Nat} {x : Cmd}

/-! ## NOR devices -/

@[simp] theorem nor_norErase (b : Block) (d : Bool) : (Eff.apply b (.norErase d)).nor d = (b.nor d).bankErased := by cases d <;> rfl

@[simp] theorem nor_norErase_other (b : Block) (d : Bool) : (Eff.apply b (.norErase d)).nor (!d) = b.nor (!d) := by cases d <;> rfl

@[simp] theorem nor_nor (b : Block) (d : Bool) (a : Nat) (bs : Bytes) : (Eff.apply b (.nor d a bs)).nor d = (b.nor d).write a bs := by cases d <;> rfl

@[simp] theorem nor_nor_other (b : Block) (d : Bool) (a : Nat) (bs : Bytes) : (Eff.apply b (.nor d a bs)).nor (!d) = b.nor (!d) := by cases d <;> rfl

/-- Erasing a bank touches the NOR devices alone. -/
theorem apply_norErase (b : Block) (d : Bool) : ∃ n0 n1, Eff.apply b (.norErase d) = { b with nor0 := n0, nor1 := n1 } := by
  cases d
  · exact ⟨_, _, rfl⟩
  · exact ⟨_, _, rfl⟩

/-- Writing NOR touches the NOR devices alone. -/
theorem apply_nor (b : Block) (d : Bool) (a : Nat) (bs : Bytes) : ∃ n0 n1, Eff.apply b (.nor d a bs) = { b with nor0 := n0, nor1 := n1 } := by
  cases d
  · exact ⟨_, _, rfl⟩
  · exact ⟨_, _, rfl⟩

/-- The same outside control state and the NOR devices. -/
theorem sameOutside_nor (b : Block) (n0 n1 : Memory) (c : Ctl) :
    ({ b with nor0 := n0, nor1 := n1 } : Block).SameOutside { b with nor0 := n0, nor1 := n1, ctl := c } :=
  ⟨rfl, rfl, rfl, rfl, rfl, rfl, rfl, rfl, rfl, rfl, rfl, rfl⟩

/-! ## FW_STAGE of a bank (R461, R462) -/

/-- FW_STAGE is legal in these states. -/
def stageStates : List ModState := [.ready, .loaded, .running, .draining, .degraded]

theorem Block.MayRun.run_fwStageAct (h : b.MayRun id 0x60 x) (hnone : b.ctl.sec.staging = none) (hstate : b.ctl.glb.state ∈ stageStates) {img : Bytes}
    (himg : img = b.host.read (u64 x.bytes 32) (u64 x.bytes 40)) : (fwStageAct id).run b =
      (if img.take 4 = [0x4F, 0x57, 0x4E, 0x52] then ownerRecord id img else stageBank id img).run (b.started id) := by
  have hlegal : Machine.inStates stageStates b = true := List.contains_iff_mem.2 hstate
  simp only [fwStageAct, run_look, hnone]
  subst himg
  exact h.run_startCmd (legal := fun b _ => Machine.inStates stageStates b) hlegal _

/-- An image that is no bank, or too long, is refused. -/
theorem run_stageBank_refused {img : Bytes} (hbad : (decide (bankBytes < img.length) || !Machine.bankOk b.fuses (readImage img)) = true) :
    (stageBank id img).run b = (finish id .eAuth []).run b := by
  simp only [Bool.or_eq_true, decide_eq_true_eq] at hbad
  simp only [stageBank, run_look, Bool.or_eq_true, decide_eq_true_eq, if_pos hbad]

/-- The block with a bank's staging in progress. -/
def Block.staging (b : Block) (g : BankStaging) : Block := b.withSec fun s => { s with staging := some g }

theorem run_stageBank {img : Bytes} (hok : (decide (bankBytes < img.length) || !Machine.bankOk b.fuses (readImage img)) = false) :
    (stageBank id img).run b = (Eff.apply b (.norErase b.ctl.otherBank)).staging { cmd := id, dev := b.ctl.otherBank, img := img, done := 0 } := by
  simp only [stageBank, run_look, hok, Bool.false_eq_true, if_false, run_seq, run_one, run_upd]
  rfl

/-- A command that has started goes on. -/
theorem goes_started (hx : b.ctl.cmd id = some x) {t : Block} (ht : t.ctl.hif = (b.started id).ctl.hif) : t.Goes id := by
  have hcmd := cmd_started hx
  refine ⟨{ x with phase := .running, startNo := b.ctl.hif.nextStart }, ?_, rfl⟩
  rw [Ctl.cmd, ht]
  exact hcmd

/-! ## The pieces of a staging -/

section Pieces
variable {g : BankStaging} (hg : b.ctl.sec.staging = some g) (hid : g.cmd = id)
include hg hid

theorem run_fwStageAct_piece : (fwStageAct id).run b = (stagePiece g).run b := by
  simp only [fwStageAct, run_look, hg, hid, beq_self_eq_true, run_when_true]

theorem run_fwStageAct_waits (hdue : (b.storeDue && b.ctl.storeDev == g.dev) = true) : (fwStageAct id).run b = b := by
  rw [run_fwStageAct_piece hg hid]
  simp only [stagePiece, run_look, hdue, Bool.not_true, run_when_false]

theorem run_fwStageAct_next (hdue : (b.storeDue && b.ctl.storeDev == g.dev) = false) (hmore : g.done < (g.img.drop 4096).length) :
    (fwStageAct id).run b = (Eff.apply b (.nor g.dev (4096 + g.done) (slice (g.img.drop 4096) g.done norPiece))).staging
      { g with done := g.done + norPiece } := by
  rw [run_fwStageAct_piece hg hid]
  simp only [stagePiece, run_look, hdue, Bool.not_false, run_when_true, if_neg (Nat.not_le.2 hmore), run_seq, run_one, run_upd]
  rfl

theorem run_fwStageAct_header (hdue : (b.storeDue && b.ctl.storeDev == g.dev) = false) (hdone : (g.img.drop 4096).length ≤ g.done) :
    (fwStageAct id).run b = (stageHeader g).run b := by
  rw [run_fwStageAct_piece hg hid]
  simp only [stagePiece, run_look, hdue, Bool.not_false, run_when_true, if_pos hdone]

end Pieces

/-- The header written, and the bank staged. -/
def Block.headed (b : Block) (g : BankStaging) : Block :=
  let c := Eff.apply b (.nor g.dev 0 (g.img.take 4096))
  c.withSec fun s => { s with staging := none, staged := some (boolNat g.dev), otherSvn := c.svnOf g.dev }

theorem run_stageHeader (b : Block) (g : BankStaging) : (stageHeader g).run b =
    (finish g.cmd .ok []).run (Eff.apply (b.headed g) (.rollback (min ((b.headed g).svnOf false) ((b.headed g).svnOf true)))) := by
  simp only [stageHeader, run_seq, run_one, run_look, run_all_cons, run_all_nil, run_upd, raiseRollback]
  rfl

/-! ## Owner records (R470) -/

/-- The effect that blows an owner record's fuses. -/
theorem run_blowOwner (b : Block) (img : Bytes) : ∃ f : Fuses, (blowOwner img).run b = { b with fuses := f } ∧
    (u8 img 4 = 1 → f = { b.fuses with
      owners := ownersSet (fun o => { o with valid := true, hash := sha512 (slice img 16 132) }) (u8 img 5) b.fuses.owners }) ∧
    (u8 img 4 = 2 → f = { b.fuses with owners := ownersSet (fun o => { o with revoked := true }) (u8 img 5) b.fuses.owners }) ∧
    (u8 img 4 = 3 → f = { b.fuses with debugOwner := true }) := by
  unfold blowOwner
  split
  case h_1 h => exact ⟨_, rfl, fun _ => rfl, fun h2 => absurd (h.symm.trans h2) (by decide), fun h3 => absurd (h.symm.trans h3) (by decide)⟩
  case h_2 h => exact ⟨_, rfl, fun h1 => absurd (h.symm.trans h1) (by decide), fun _ => rfl, fun h3 => absurd (h.symm.trans h3) (by decide)⟩
  case h_3 h1 h2 => exact ⟨_, rfl, fun h => absurd h h1, fun h => absurd h h2, fun _ => rfl⟩

theorem run_ownerRecord_state {img : Bytes} (h : b.ctl.glb.state ≠ .ready) : (ownerRecord id img).run b = (finish id .eState []).run b := by
  simp only [ownerRecord, run_look, bne_iff_ne.2 h, if_true]

section Ready
variable {img : Bytes} (hready : b.ctl.glb.state = .ready)
include hready

theorem run_ownerRecord_format (hlen : img.length ≠ 512) : (ownerRecord id img).run b = (finish id .eFormat []).run b := by
  simp only [ownerRecord, run_look, hready, bne_self_eq_false, Bool.false_eq_true, if_false, if_pos hlen]

theorem run_ownerRecord_trouble (hlen : img.length = 512) {st : Status} (hst : b.fuses.ownerTrouble img = some st) :
    (ownerRecord id img).run b = (finish id st []).run b := by
  simp only [ownerRecord, run_look, hready, bne_self_eq_false, Bool.false_eq_true, if_false, if_neg (not_not.2 hlen), hst]

theorem run_ownerRecord (hlen : img.length = 512) (hst : b.fuses.ownerTrouble img = none) :
    (ownerRecord id img).run b = (finish id .ok []).run ((blowOwner img).run b) := by
  simp only [ownerRecord, run_look, hready, bne_self_eq_false, Bool.false_eq_true, if_false, if_neg (not_not.2 hlen), hst, run_seq]

end Ready

/-! ## FW_ACTIVATE and recovery (R458, R463) -/

theorem Block.MayRun.run_fwActivateAct (h : b.MayRun id 0x61 x) (hready : b.ctl.glb.state = .ready) (hlevel : b.ctl.sec.level < 2)
    (hbank : u8 x.bytes 32 = 1 ∨ b.ctl.sec.staged.isSome = true) {bank : Nat}
    (hb : bank = if u8 x.bytes 32 = 1 then boolNat b.ctl.otherBank else b.ctl.sec.staged.getD 0) : (fwActivateAct id).run b =
      if b.bankOk (bank == 1) then (finish id .ok []).run ((b.started id).withSec fun c => c.select bank) else b.completed id .eAuth [] := by
  have hlegal : (Machine.inStates [.ready] b && decide (b.ctl.sec.level < 2) && (u8 x.bytes 32 == 1 || b.ctl.sec.staged.isSome)) = true := by
    simp only [Machine.inStates, hready, List.contains_cons, beq_self_eq_true, Bool.true_or, hlevel, decide_true, Bool.true_and, Bool.or_eq_true,
      beq_iff_eq]
    exact hbank
  rw [fwActivateAct, h.run_startCmd (legal := fun b x => Machine.inStates [.ready] b && decide (b.ctl.sec.level < 2) &&
    (u8 x.bytes 32 == 1 || b.ctl.sec.staged.isSome)) hlegal, run_look]
  subst hb
  have hok : (b.started id).bankOk = b.bankOk := rfl
  have hsec : (b.started id).ctl.sec = b.ctl.sec := rfl
  have hother : (b.started id).ctl.otherBank = b.ctl.otherBank := rfl
  simp only [hok, hsec, hother]
  generalize b.bankOk _ = ok
  cases ok
  · rfl
  · rfl

theorem Block.MayRun.run_fwActivateAct_refused (h : b.MayRun id 0x61 x)
    (hnot : ¬ (b.ctl.glb.state = .ready ∧ b.ctl.sec.level < 2 ∧ (u8 x.bytes 32 = 1 ∨ b.ctl.sec.staged.isSome = true))) :
    (fwActivateAct id).run b = b.completed id .eState [] := by
  refine h.run_startCmd_refused (legal := fun b x => Machine.inStates [.ready] b && decide (b.ctl.sec.level < 2) &&
    (u8 x.bytes 32 == 1 || b.ctl.sec.staged.isSome)) (Bool.eq_false_iff.2 fun hall => hnot ?_) _
  simp only [Bool.and_eq_true, decide_eq_true_eq, Bool.or_eq_true, beq_iff_eq] at hall
  obtain ⟨⟨hstate, hlevel⟩, hbank⟩ := hall
  exact ⟨List.mem_singleton.1 (List.contains_iff_mem.1 hstate), hlevel, hbank⟩

section Recovery
variable {img : Bytes} (hboot : b.ctl.glb.state = .boot) (hfault : b.ctl.glb.bootFault = 3) (hpowered : b.ctl.powered = true)
include hboot hfault hpowered

theorem run_pldmComponentAct_refused (hbad : (decide (bankBytes < img.length) || !Machine.bankOk b.fuses (readImage img)) = true) :
    (pldmComponentAct img).run b = b.sending .sideband (.pldm false) := by
  simp only [pldmComponentAct, run_look, hboot, hfault, hpowered, beq_self_eq_true, Bool.and_self, run_when_true, hbad, if_true]
  rfl

theorem run_pldmComponentAct (hok : (decide (bankBytes < img.length) || !Machine.bankOk b.fuses (readImage img)) = false) :
    (pldmComponentAct img).run b = warmReset.run (({ b with nor0 := b.nor0.withBank img } : Block).sending .sideband (.pldm true)) := by
  simp only [pldmComponentAct, run_look, hboot, hfault, hpowered, beq_self_eq_true, Bool.and_self, run_when_true, hok, Bool.false_eq_true, if_false,
    run_all_cons, run_all_nil]
  rfl

end Recovery

end Firmware

/-- Settles O57: staging in pieces, owner records, activation and recovery. -/
theorem firmwareStages : Obligations.FirmwareStages := by
  refine ⟨fun s id x hrun hnone hstate => ?_, fun s id x g hx hg hid => ?_, fun s id x hrun hnone hstate => ?_, fun s id x hrun => ?_,
    fun s img hboot hfault hpowered => ?_⟩
  · intro img o himg
    have hstart := (hrun.run_fwStageAct hnone hstate rfl).trans (congrArg (Act.run · (s.block.started id)) (if_neg himg))
    cases hbad : (decide (bankBytes < img.length) || !Machine.bankOk s.block.fuses (readImage img))
    · obtain ⟨n0, n1, hnor⟩ := apply_norErase (s.block.started id) o
      have hend := hstart.trans (run_stageBank (b := s.block.started id) hbad)
      have hself := nor_norErase (s.block.started id) o
      have hother := nor_norErase_other (s.block.started id) o
      rw [show (s.block.started id).ctl.otherBank = o from rfl, hnor] at hend
      rw [hnor] at hself hother
      refine ⟨_, runs_of_perform rfl hend, ?_, othersKept_started s.block id, ⟨rfl, rfl, rfl, rfl, rfl, rfl, rfl, rfl, rfl, rfl, rfl, rfl⟩⟩
      rw [if_neg (by decide)]
      exact ⟨goes_started hrun.cmd_eq rfl, rfl, hother, hself⟩
    · have hend := hstart.trans (run_stageBank_refused (b := s.block.started id) hbad)
      have hdone := completes_completed hrun.cmd_eq .eAuth []
      refine ⟨_, runs_of_perform rfl hend, ?_, hdone.others, hdone.outside⟩
      rw [if_pos rfl]
      exact ⟨hdone.ended, fun d => by cases d <;> rfl, rfl⟩
  · intro body due
    refine ⟨fun hdue => runs_of_perform rfl (run_fwStageAct_waits hg hid hdue), fun hdue hmore => ?_, fun hdue hdone => ?_⟩
    · have hend := run_fwStageAct_next hg hid (Bool.eq_false_iff.2 hdue) hmore
      obtain ⟨n0, n1, hnor⟩ := apply_nor s.block g.dev (4096 + g.done) (slice (g.img.drop 4096) g.done norPiece)
      refine ⟨_, runs_of_perform rfl hend, nor_nor _ _ _ _, nor_nor_other _ _ _ _, ?_, ?_⟩
      · rw [hnor]
        rfl
      · rw [hnor]
        exact ⟨rfl, rfl, rfl, rfl, rfl, rfl, rfl, rfl, rfl, rfl, rfl, rfl⟩
    · have hend := (run_fwStageAct_header hg hid (Bool.eq_false_iff.2 hdue) hdone).trans (run_stageHeader s.block g)
      subst hid
      obtain ⟨n0, n1, hnor⟩ := apply_nor s.block g.dev 0 (g.img.take 4096)
      have hheaded : s.block.headed g = ({ s.block with nor0 := n0, nor1 := n1 } : Block).withSec fun c =>
          { c with staging := none, staged := some (boolNat g.dev), otherSvn := ({ s.block with nor0 := n0, nor1 := n1 } : Block).svnOf g.dev } := by
        rw [Block.headed, hnor]
      have hself := nor_nor s.block g.dev 0 (g.img.take 4096)
      have hother := nor_nor_other s.block g.dev 0 (g.img.take 4096)
      rw [hnor] at hself hother
      rw [hheaded] at hend
      exact ⟨_, runs_of_perform rfl hend, ended_finish (id := g.cmd) hx .ok [], rfl, rfl, hself, hother, rfl, othersKept_finish s.block g.cmd .ok [],
        ⟨rfl, rfl, rfl, rfl, rfl, rfl, rfl, rfl, rfl, rfl, rfl, rfl⟩⟩
  · intro img himg
    have hstart := (hrun.run_fwStageAct hnone hstate rfl).trans (congrArg (Act.run · (s.block.started id)) (if_pos himg))
    have hcmd := cmd_started hrun.cmd_eq
    by_cases hready : s.block.ctl.glb.state = .ready
    case neg =>
      have hend := hstart.trans (run_ownerRecord_state (b := s.block.started id) hready)
      have hdone := completes_completed hrun.cmd_eq .eState []
      exact ⟨_, runs_of_perform rfl hend, fun _ => ⟨hdone.ended, rfl⟩, fun h => absurd h hready, fun h => absurd h hready, hdone.others, rfl,
        fun d => by cases d <;> rfl, rfl, rfl⟩
    by_cases hlen : img.length = 512
    case neg =>
      have hend := hstart.trans (run_ownerRecord_format (b := s.block.started id) hready hlen)
      have hdone := completes_completed hrun.cmd_eq .eFormat []
      exact ⟨_, runs_of_perform rfl hend, fun h => absurd hready h, fun _ _ => ⟨hdone.ended, rfl⟩, fun _ h => absurd h hlen, hdone.others, rfl,
        fun d => by cases d <;> rfl, rfl, rfl⟩
    cases htrouble : s.block.fuses.ownerTrouble img with
    | some st =>
      have hend := hstart.trans (run_ownerRecord_trouble (b := s.block.started id) hready hlen htrouble)
      have hdone := completes_completed hrun.cmd_eq st []
      exact ⟨_, runs_of_perform rfl hend, fun h => absurd hready h, fun _ h => absurd hlen h,
        fun _ _ => ⟨fun st' h => Option.some.inj h ▸ ⟨hdone.ended, rfl⟩, fun h => (nomatch h)⟩, hdone.others, rfl, fun d => by cases d <;> rfl, rfl, rfl⟩
    | none =>
      obtain ⟨f, hblow, henrol, hrevoke, hdebug⟩ := run_blowOwner (s.block.started id) img
      have hend := hstart.trans (run_ownerRecord (b := s.block.started id) hready hlen htrouble)
      rw [hblow] at hend
      exact ⟨_, runs_of_perform rfl hend, fun h => absurd hready h, fun _ h => absurd hlen h,
        fun _ _ => ⟨fun st h => (nomatch h), fun _ => ⟨ended_finish hcmd .ok [], henrol, hrevoke, hdebug⟩⟩,
        (othersKept_started s.block id).trans (othersKept_finish (s.block.started id) id .ok []), rfl, fun d => by cases d <;> rfl, rfl, rfl⟩
  · intro legal bank
    by_cases hlegal : legal
    case neg =>
      have hdone := completes_completed hrun.cmd_eq .eState []
      exact ⟨_, runs_of_perform rfl (hrun.run_fwActivateAct_refused hlegal), fun _ => ⟨hdone.ended, rfl⟩, fun h => absurd h hlegal,
        fun h => absurd h hlegal, hdone.outside, hdone.others⟩
    obtain ⟨hready, hlevel, hwhich⟩ := hlegal
    have hend := hrun.run_fwActivateAct hready hlevel hwhich (bank := bank) rfl
    cases hok : s.block.bankOk (bank == 1)
    · have hdone := completes_completed hrun.cmd_eq .eAuth []
      rw [hok, if_neg (by decide)] at hend
      exact ⟨_, runs_of_perform rfl hend, fun h => absurd ⟨hready, hlevel, hwhich⟩ h, fun _ _ => ⟨hdone.ended, rfl⟩, fun _ h => (nomatch h),
        hdone.outside, hdone.others⟩
    · rw [hok, if_pos rfl] at hend
      exact ⟨_, runs_of_perform rfl hend, fun h => absurd ⟨hready, hlevel, hwhich⟩ h, fun _ h => (nomatch h),
        fun _ _ => ⟨ended_finish (b := (s.block.started id).withSec fun c => c.select bank) (cmd_started hrun.cmd_eq) .ok [], rfl⟩,
        ⟨rfl, rfl, rfl, rfl, rfl, rfl, rfl, rfl, rfl, rfl, rfl, rfl⟩,
        (othersKept_started s.block id).trans (othersKept_finish ((s.block.started id).withSec fun c => c.select bank) id .ok [])⟩
  · cases hbad : (decide (bankBytes < img.length) || !Machine.bankOk s.block.fuses (readImage img))
    · refine ⟨_, runs_of_perform rfl (run_pldmComponentAct hboot hfault hpowered hbad), ?_⟩
      simp only [Bool.false_eq_true, if_false]
      exact ⟨rfl, rfl, rfl, ⟨rfl, rfl, rfl, rfl, rfl, rfl, rfl, rfl, rfl, rfl, rfl, rfl, rfl, rfl, rfl⟩, rfl, rfl, rfl⟩
    · refine ⟨_, runs_of_perform rfl (run_pldmComponentAct_refused hboot hfault hpowered hbad), ?_⟩
      simp only [if_true]

end Sys2Proof.Machine


namespace Sys2Proof.Machine

/-! # Links: training, identities and LNK_CTRL (R312 to R317, R479) -/

section Links
variable {b : Block} {n : Nat}

/-! ## One link changed -/

@[simp] theorem link_withLink_same (b : Block) (n : Nat) (f : Link → Link) : (b.withLink n f).ctl.link n = f (b.ctl.link n) :=
  Tab.get_set_self _ _ _ _

theorem link_withLink_other (b : Block) {n m : Nat} (f : Link → Link) (h : m ≠ n) : (b.withLink n f).ctl.link m = b.ctl.link m :=
  Tab.get_set_other _ _ _ _ _ h

theorem Block.OtherLinks.refl (b : Block) (n : Nat) : b.OtherLinks b n := fun _ _ => rfl

theorem Block.OtherLinks.trans {c d : Block} (h : b.OtherLinks c n) (h' : c.OtherLinks d n) : b.OtherLinks d n :=
  fun m hm => (h' m hm).trans (h m hm)

theorem otherLinks_withLink (b : Block) (n : Nat) (f : Link → Link) : b.OtherLinks (b.withLink n f) n := fun _ hm => link_withLink_other b f hm

theorem sameData_withLink (b : Block) (n : Nat) (f : Link → Link) : b.SameData (b.withLink n f) := ⟨rfl, rfl, rfl, rfl, rfl, rfl, rfl, rfl, rfl, rfl⟩

theorem sameData_sending (b : Block) (d : Dest) (m : Msg) : b.SameData (b.sending d m) := ⟨rfl, rfl, rfl, rfl, rfl, rfl, rfl, rfl, rfl, rfl⟩

/-- A change that comes to the same on the link at hand. -/
theorem withLink_congr {f g : Link → Link} (h : f (b.ctl.link n) = g (b.ctl.link n)) : b.withLink n f = b.withLink n g := by
  simp only [Block.withLink, h]

@[simp] theorem state_enter (l : Link) (st : LinkState) : (l.enter st).state = st := by
  simp only [Link.enter]
  split
  · assumption
  · rfl

/-- Entering a state counts a change, and touches nothing else. -/
theorem enter_eq (l : Link) (st : LinkState) : l.enter st = { l with state := st, changed := (l.enter st).changed, changes := (l.enter st).changes } := by
  simp only [Link.enter]
  split
  case isTrue h => rw [← h]
  case isFalse => rfl

@[simp] theorem peer_enter (l : Link) (st : LinkState) : (l.enter st).peer = l.peer := by rw [enter_eq]
@[simp] theorem lastPeer_enter (l : Link) (st : LinkState) : (l.enter st).lastPeer = l.lastPeer := by rw [enter_eq]
@[simp] theorem retryAt_enter (l : Link) (st : LinkState) : (l.enter st).retryAt = l.retryAt := by rw [enter_eq]
@[simp] theorem retrain_enter (l : Link) (st : LinkState) : (l.enter st).retrain = l.retrain := by rw [enter_eq]
@[simp] theorem disable_enter (l : Link) (st : LinkState) : (l.enter st).disable = l.disable := by rw [enter_eq]
@[simp] theorem retired_enter (l : Link) (st : LinkState) : (l.enter st).retired = l.retired := by rw [enter_eq]
@[simp] theorem lanes_enter (l : Link) (st : LinkState) : (l.enter st).lanes = l.lanes := by rw [enter_eq]
@[simp] theorem trainFails_enter (l : Link) (st : LinkState) : (l.enter st).trainFails = l.trainFails := by rw [enter_eq]

/-- Counting a failed attempt and entering a state commute. -/
theorem enter_counted (l : Link) (st : LinkState) : l.counted.enter st = (l.enter st).counted := by
  show (if l.state = st then l.counted else _) = (if l.state = st then l else _ : Link).counted
  split <;> rfl

theorem retried_eq (l : Link) : ({ (l.enter .training).counted with retryAt := 0 } : Link) =
    { (l.enter .training) with retryAt := 0, trainFails := (l.trainFails + 1) % 2 ^ 48 } := by
  simp only [Link.counted, trainFails_enter]

/-- What a link's change, and an event about it, leave alone. -/
structure Block.OnLink (b t : Block) (n : Nat) : Prop where
  others : b.OtherLinks t n
  data   : b.SameData t
  out    : t.out = b.out

theorem Block.OnLink.refl (b : Block) (n : Nat) : b.OnLink b n := ⟨.refl b n, .refl b, rfl⟩

theorem Block.OnLink.trans {c d : Block} (h : b.OnLink c n) (h' : c.OnLink d n) : b.OnLink d n :=
  ⟨h.others.trans h'.others, h.data.trans h'.data, h'.out.trans h.out⟩

theorem onLink_withLink (b : Block) (n : Nat) (f : Link → Link) : b.OnLink (b.withLink n f) n :=
  ⟨otherLinks_withLink b n f, sameData_withLink b n f, rfl⟩

theorem onLink_accept (b : Block) (n code source detail : Nat) : b.OnLink (b.accept code source detail) n :=
  ⟨fun _ _ => rfl, sameData_accept _ _ _ _, rfl⟩

@[simp] theorem link_accept (b : Block) (n code source detail : Nat) : (b.accept code source detail).ctl.link n = b.ctl.link n := rfl

@[simp] theorem run_raise (b : Block) (code source detail : Nat) : (raise code source detail).run b = b.accept code source detail := rfl

@[simp] theorem run_send (b : Block) (d : Dest) (m : Msg) : (send d m).run b = b.sending d m := rfl

@[simp] theorem link_sending (b : Block) (d : Dest) (m : Msg) (n : Nat) : (b.sending d m).ctl.link n = b.ctl.link n := rfl

/-- A link that carries again. -/
def Link.joined (l : Link) (st : LinkState) (r : IdRec) (lanes : Nat) : Link := { (l.enter st) with version := commonVersion r, lanes := lanes }

@[simp] theorem state_joined (l : Link) (st : LinkState) (r : IdRec) (lanes : Nat) : (l.joined st r lanes).state = st := state_enter l st

/-! ## Judging a peer (R314 to R317) -/

/-- The judgement rests on the fabric, the slot and the module's identity. -/
theorem judge_congr {c : Block} (hf : c.ctl.links.fabric = b.ctl.links.fabric) (hs : c.slot = b.slot) (n : Nat) (r : IdRec) :
    c.judge n r = b.judge n r := by
  simp only [Block.judge, hf, hs]

/-- A link that trains is judged. -/
theorem run_checkPeer_version {r : IdRec} (hj : b.judge n r = .version) (hst : (b.ctl.link n).state = .training) :
    (checkPeer n r).run b = (b.withLink n fun l => l.cleared.enter .versionDown).accept 0x0104 (linkSource n)
      (r.verMax % 16 * 4096 + r.verMin % 16 * 256 + verMaxOwn * 16 + b.ctl.links.fabric.verMin % 16) := by
  have hne : ((b.ctl.link n).state != .versionDown || (b.ctl.link n).peer != some r) = true := by rw [hst]; rfl
  have hnot : ((b.ctl.link n).state == .up) = false := by rw [hst]; rfl
  simp only [checkPeer, run_look, hj, hne, hnot, run_when_true, run_when_false, run_all_cons, run_all_nil, run_updLink, versionEvent, run_raise]

theorem run_checkPeer_quarantine {r : IdRec} (hj : b.judge n r = .quarantine) (hst : (b.ctl.link n).state = .training) :
    (checkPeer n r).run b = (b.withLink n fun l => l.joined .quarantined r (lanesOf n (b.ctl.link n).retired)).accept 0x0102 (linkSource n)
        (r.serial % 2 ^ 32 * 2 ^ 32 + b.ctl.links.fabric.expected b.slot n % 2 ^ 32) := by
  have hne : ((b.ctl.link n).state != .quarantined) = true := by rw [hst]; rfl
  have hnot : ((b.ctl.link n).state == .up) = false := by rw [hst]; rfl
  simp only [checkPeer, run_look, hj, hne, hnot, run_when_true, run_when_false, run_all_cons, run_all_nil, run_updLink, quarantineEvent, run_raise]
  rfl

/-- The detail of LINK_UP. -/
def upDetail (r : IdRec) (lanes : Nat) : Nat :=
  r.serial % 2 ^ 32 * 2 ^ 32 + r.port % 256 * 2 ^ 24 + lanes % 16 * 2 ^ 20 + commonVersion r % 16 * 2 ^ 16 + r.rank % 65536

theorem run_checkPeer_pass {r : IdRec} (hj : b.judge n r = .pass) (hst : (b.ctl.link n).state ≠ .pass) :
    (checkPeer n r).run b = (b.withLink n fun l => l.joined .pass r (lanesOf n (b.ctl.link n).retired)).accept 0x0100 (linkSource n)
        (upDetail r (lanesOf n (b.ctl.link n).retired)) := by
  simp only [checkPeer, run_look, hj, bne_iff_ne.2 hst, run_when_true, run_seq, run_updLink, linkUpEvent, run_raise]
  rfl

theorem run_checkPeer_up {r : IdRec} (hj : b.judge n r = .up) (hst : (b.ctl.link n).state ≠ .up) :
    (checkPeer n r).run b = (b.withLink n fun l => l.joined .up r (lanesOf n (b.ctl.link n).retired)).accept 0x0100 (linkSource n)
        (upDetail r (lanesOf n (b.ctl.link n).retired)) := by
  simp only [checkPeer, run_look, hj, bne_iff_ne.2 hst, run_when_true, run_seq, run_updLink, linkUpEvent, run_raise]
  rfl

/-! ## Training (R312) -/

theorem run_linkTrainAct (h : b.mayTrain n = true) (o : TrainOutcome) : (linkTrainAct n o).run b =
    (match o with
      | .failed step => Act.all [updLink n fun l =>
          { (l.cleared.enter .down) with retryAt := b.lhTime + 100000000, lastCause := if step.val = 2 then 4 else 3 },
          linkDownEvent n (if step.val = 2 then 0 else step.val) 0 (if step.val = 2 then 4 else 3)]
      | .trained r => Act.all [updLink n fun l => { l.cleared with peer := some r, lastPeer := r.serial, lanes := lanesOf n l.retired, retryAt := 0 },
          send (.link n) (.identity (idBytes (b.ownId n))), checkPeer n r, passRecord n]).run
      (b.withLink n fun l => { (l.enter .training) with retrain := false }) := by
  simp only [linkTrainAct, run_look, h, run_when_true, run_seq, run_updLink] <;> rfl

/-- A link that starts training. -/
def Link.starts (l : Link) : Link := { (l.enter .training) with retrain := false }

/-- A link that holds its peer's record. -/
def Link.heard (l : Link) (n : Nat) (r : IdRec) : Link :=
  { l.cleared with peer := some r, lastPeer := r.serial, lanes := lanesOf n l.retired, retryAt := 0 }

/-- A trained link before its peer is judged: it holds the peer's record, and its own is sent. -/
@[irreducible] def Block.trained (b : Block) (n : Nat) (r : IdRec) : Block :=
  ((b.withLink n Link.starts).withLink n (Link.heard · n r)).sending (.link n) (.identity (idBytes (b.ownId n)))

theorem run_linkTrainAct_trained (h : b.mayTrain n = true) (r : IdRec) :
    (linkTrainAct n (.trained r)).run b = (passRecord n).run ((checkPeer n r).run (b.trained n r)) := by
  rw [run_linkTrainAct h]
  simp only [run_all_cons, run_all_nil, run_updLink, run_send, Block.trained]
  rfl

/-- A link that has just trained with this peer. -/
def Link.through (l : Link) (n : Nat) (r : IdRec) : Link := l.starts.heard n r

theorem link_trained (b : Block) (n : Nat) (r : IdRec) : (b.trained n r).ctl.link n = (b.ctl.link n).through n r := by
  rw [Block.trained, link_sending, link_withLink_same, link_withLink_same]
  rfl

@[simp] theorem state_through (l : Link) (n : Nat) (r : IdRec) : (l.through n r).state = .training := state_enter l .training

@[simp] theorem retired_through (l : Link) (n : Nat) (r : IdRec) : (l.through n r).retired = l.retired := retired_enter l .training

@[simp] theorem fabric_withLink (b : Block) (n : Nat) (f : Link → Link) : (b.withLink n f).ctl.links.fabric = b.ctl.links.fabric := rfl

@[simp] theorem slot_withLink (b : Block) (n : Nat) (f : Link → Link) : (b.withLink n f).slot = b.slot := rfl

/-- What training leaves as it was, beside data. -/
structure Block.TrainsFrom (b t : Block) : Prop where
  fabric   : t.ctl.links.fabric = b.ctl.links.fabric
  slot     : t.slot = b.slot
  dualPort : t.ctl.glb.dualPort = b.ctl.glb.dualPort
  arb      : t.arb = b.arb
  fuses    : t.fuses = b.fuses

theorem Block.TrainsFrom.trans {c d : Block} (h : b.TrainsFrom c) (h' : c.TrainsFrom d) : b.TrainsFrom d :=
  ⟨h'.fabric.trans h.fabric, h'.slot.trans h.slot, h'.dualPort.trans h.dualPort, h'.arb.trans h.arb, h'.fuses.trans h.fuses⟩

theorem trainsFrom_withLink (b : Block) (n : Nat) (f : Link → Link) : b.TrainsFrom (b.withLink n f) := ⟨rfl, rfl, rfl, rfl, rfl⟩

theorem trainsFrom_sending (b : Block) (d : Dest) (m : Msg) : b.TrainsFrom (b.sending d m) := ⟨rfl, rfl, rfl, rfl, rfl⟩

theorem trainsFrom_trained (b : Block) (n : Nat) (r : IdRec) : b.TrainsFrom (b.trained n r) := by
  rw [Block.trained]
  exact ((trainsFrom_withLink b n _).trans (trainsFrom_withLink _ n _)).trans (trainsFrom_sending _ _ _)

theorem out_trained (b : Block) (n : Nat) (r : IdRec) :
    (b.trained n r).out = { dest := .link n, msg := .identity (idBytes (b.ownId n)) } :: b.out := by
  rw [Block.trained]
  rfl

theorem judge_trained (b : Block) (n : Nat) (r : IdRec) : (b.trained n r).judge n r = b.judge n r :=
  judge_congr (trainsFrom_trained b n r).fabric (trainsFrom_trained b n r).slot n r

/-- An event rests on the arbiter, the clock and the ports. -/
theorem arb_accept_congr {c : Block} (harb : c.arb = b.arb) (htime : c.lhTime = b.lhTime) (hdual : c.ctl.glb.dualPort = b.ctl.glb.dualPort)
    (code source detail : Nat) : (c.accept code source detail).arb = (b.accept code source detail).arb := by
  simp only [Block.accept, harb, htime, hdual]

theorem otherLinks_trained (b : Block) (n : Nat) (r : IdRec) : b.OtherLinks (b.trained n r) n := fun m hm => by
  rw [Block.trained, link_sending, link_withLink_other _ _ hm, link_withLink_other _ _ hm]

theorem sameData_trained (b : Block) (n : Nat) (r : IdRec) : b.SameData (b.trained n r) := by
  rw [Block.trained]
  exact ((sameData_withLink b n _).trans (sameData_withLink _ n _)).trans (sameData_sending _ _ _)

/-- Records pass between the two sides of a circuit alone (R327). -/
theorem run_passRecord_not_pass (h : (b.ctl.link n).state ≠ .pass) : (passRecord n).run b = b := by
  have hno : ((b.ctl.link n).state == .pass) = false := beq_eq_false_iff_ne.2 h
  simp only [passRecord, run_look]
  cases b.ctl.links.fabric.passOf n with
  | none => rfl
  | some pm => simp only [run_opt_some, hno, Bool.false_and, run_when_false]

/-- Passing records on sends messages and does nothing else. -/
theorem run_passRecord (b : Block) (n : Nat) : ∃ new : List Sent, (passRecord n).run b = { b with out := new ++ b.out } ∧
    ∀ p m r, b.ctl.links.fabric.passOf n = some (p, m) → (b.ctl.link n).state = .pass → (b.ctl.link m).state = .pass →
      (b.ctl.link n).peer = some r → ({ dest := .link m, msg := .identity (idBytes { r with role := 2, transit := b.fuses.serial.toNat }) } : Sent) ∈ new := by
  simp only [passRecord, run_look]
  cases hp : b.ctl.links.fabric.passOf n with
  | none => exact ⟨[], rfl, fun _ _ _ h => nomatch h⟩
  | some pm =>
    obtain ⟨p, m⟩ := pm
    simp only [run_opt_some]
    cases hc : ((b.ctl.link n).state == .pass && (b.ctl.link m).state == .pass)
    · refine ⟨[], rfl, fun p' m' r hpm hn hm _ => ?_⟩
      obtain ⟨rfl, rfl⟩ := Prod.mk.inj (Option.some.inj hpm)
      rw [hn, hm] at hc
      cases hc
    · rw [run_when_true, run_seq]
      cases hn : (b.ctl.link n).peer <;> cases hm : (b.ctl.link m).peer
      · exact ⟨[], rfl, fun _ _ _ _ _ _ h => nomatch h⟩
      · exact ⟨[_], rfl, fun _ _ _ _ _ _ h => nomatch h⟩
      · refine ⟨[_], rfl, fun p' m' r hpm _ _ hr => ?_⟩
        obtain ⟨rfl, rfl⟩ := Prod.mk.inj (Option.some.inj hpm)
        cases hr
        exact List.mem_singleton.2 rfl
      · refine ⟨[_, _], rfl, fun p' m' r hpm _ _ hr => ?_⟩
        obtain ⟨rfl, rfl⟩ := Prod.mk.inj (Option.some.inj hpm)
        cases hr
        exact List.mem_cons_of_mem _ (List.mem_singleton.2 rfl)

/-- What a trained link keeps from its training, however its peer is judged. -/
structure Block.HoldsPeer (b t : Block) (n : Nat) (r : IdRec) : Prop where
  peer     : (t.ctl.link n).peer = some r
  lastPeer : (t.ctl.link n).lastPeer = r.serial
  retryAt  : (t.ctl.link n).retryAt = 0
  retrain  : (t.ctl.link n).retrain = false
  others   : b.OtherLinks t n
  data     : b.SameData t

theorem holdsPeer_trained (b : Block) (n : Nat) (r : IdRec) : b.HoldsPeer (b.trained n r) n r where
  peer := by rw [link_trained]; rfl
  lastPeer := by rw [link_trained]; rfl
  retryAt := by rw [link_trained]; rfl
  retrain := by rw [link_trained]; rfl
  others := otherLinks_trained b n r
  data := sameData_trained b n r

/-- A change of the link that keeps what training left keeps it; so does an event, and what is sent. -/
theorem Block.HoldsPeer.step {t : Block} {r : IdRec} (h : b.HoldsPeer t n r) (f : Link → Link) (code source detail : Nat) (new : List Sent)
    (hf : ∀ l, (f l).peer = l.peer ∧ (f l).lastPeer = l.lastPeer ∧ (f l).retryAt = l.retryAt ∧ (f l).retrain = l.retrain) {u : Block}
    (hu : u = ({ (t.withLink n f).accept code source detail with out := new ++ t.out } : Block)) : b.HoldsPeer u n r := by
  have hlink : u.ctl.link n = f (t.ctl.link n) := by
    rw [hu]
    exact link_withLink_same t n f
  obtain ⟨hpeer, hlast, hat, hretrain⟩ := hf (t.ctl.link n)
  refine ⟨?_, ?_, ?_, ?_, h.others.trans fun m hm => ?_, h.data.trans ?_⟩
  · rw [hlink, hpeer, h.peer]
  · rw [hlink, hlast, h.lastPeer]
  · rw [hlink, hat, h.retryAt]
  · rw [hlink, hretrain, h.retrain]
  · rw [hu]
    exact link_withLink_other t f hm
  · rw [hu]
    exact ⟨rfl, rfl, rfl, rfl, rfl, rfl, rfl, rfl, rfl, rfl⟩

section Judged
variable {r : IdRec} (hmay : b.mayTrain n = true)
include hmay

/-- The block once the trained link's peer is found of an unknown version. -/
theorem trained_version (hj : b.judge n r = .version) : ∃ t, (linkTrainAct n (.trained r)).run b = t ∧ b.HoldsPeer t n r ∧
    (t.ctl.link n).state = .versionDown ∧ t.out = (b.trained n r).out ∧ b.arb.next < t.arb.next := by
  have hlink : ((b.trained n r).ctl.link n).state = .training := by rw [link_trained, state_through]
  have hcheck := run_checkPeer_version (b := b.trained n r) ((judge_trained b n r).trans hj) hlink
  have hst : (((checkPeer n r).run (b.trained n r)).ctl.link n).state = .versionDown := by
    rw [hcheck, link_accept, link_withLink_same, state_enter]
  have hrun := (run_linkTrainAct_trained hmay r).trans (run_passRecord_not_pass (by rw [hst]; exact fun h => (nomatch h)))
  refine ⟨_, hrun, ?_, hst, by rw [hcheck]; rfl, ?_⟩
  · exact (holdsPeer_trained b n r).step (fun l => l.cleared.enter .versionDown) _ _ _ [] (fun l => by simp [Link.cleared]) hcheck
  · rw [hcheck, ← (trainsFrom_trained b n r).arb]
    exact Nat.lt_succ_self _

theorem trained_quarantine (hj : b.judge n r = .quarantine) : ∃ t, (linkTrainAct n (.trained r)).run b = t ∧ b.HoldsPeer t n r ∧
    (t.ctl.link n).state = .quarantined ∧ t.out = (b.trained n r).out ∧
    b.Raised t 0x0102 (linkSource n) (r.serial % 2 ^ 32 * 2 ^ 32 + b.ctl.links.fabric.expected b.slot n % 2 ^ 32) := by
  have hlink : ((b.trained n r).ctl.link n).state = .training := by rw [link_trained, state_through]
  have hcheck := run_checkPeer_quarantine (b := b.trained n r) ((judge_trained b n r).trans hj) hlink
  have hst : (((checkPeer n r).run (b.trained n r)).ctl.link n).state = .quarantined := by
    rw [hcheck, link_accept, link_withLink_same, state_joined]
  have hrun := (run_linkTrainAct_trained hmay r).trans (run_passRecord_not_pass (by rw [hst]; exact fun h => (nomatch h)))
  have hfrom := trainsFrom_trained b n r
  refine ⟨_, hrun, ?_, hst, by rw [hcheck]; rfl, ?_⟩
  swap
  · rw [Block.Raised, hcheck, hfrom.fabric, hfrom.slot]
    exact arb_accept_congr hfrom.arb (sameData_trained b n r).lhTime_eq hfrom.dualPort _ _ _
  exact (holdsPeer_trained b n r).step (fun l => l.joined .quarantined r (lanesOf n ((b.trained n r).ctl.link n).retired)) _ _ _ []
      (fun l => by simp [Link.joined]) hcheck

theorem trained_up (hj : b.judge n r = .up) : ∃ t, (linkTrainAct n (.trained r)).run b = t ∧ b.HoldsPeer t n r ∧
    (t.ctl.link n).state = .up ∧ (t.ctl.link n).lanes = lanesOf n (b.ctl.link n).retired ∧ (t.ctl.link n).version = commonVersion r ∧
    t.out = (b.trained n r).out := by
  have hlink : ((b.trained n r).ctl.link n).state = .training := by rw [link_trained, state_through]
  have hcheck := run_checkPeer_up (b := b.trained n r) ((judge_trained b n r).trans hj) (by rw [hlink]; exact fun h => (nomatch h))
  have hst : (((checkPeer n r).run (b.trained n r)).ctl.link n).state = .up := by
    rw [hcheck, link_accept, link_withLink_same, state_joined]
  have hrun := (run_linkTrainAct_trained hmay r).trans (run_passRecord_not_pass (by rw [hst]; exact fun h => (nomatch h)))
  refine ⟨_, hrun, ?_, hst, ?_, ?_, by rw [hcheck]; rfl⟩
  · exact (holdsPeer_trained b n r).step (fun l => l.joined .up r (lanesOf n ((b.trained n r).ctl.link n).retired)) _ _ _ []
      (fun l => by simp [Link.joined]) hcheck
  · rw [hcheck, link_accept, link_withLink_same, link_trained, retired_through]
    rfl
  · rw [hcheck, link_accept, link_withLink_same]
    rfl

theorem trained_pass (hj : b.judge n r = .pass) : ∃ t, (linkTrainAct n (.trained r)).run b = t ∧ b.HoldsPeer t n r ∧
    (t.ctl.link n).state = .pass ∧ (t.ctl.link n).version = commonVersion r ∧ (∃ new, t.out = new ++ (b.trained n r).out) ∧
    ∀ p m, b.ctl.links.fabric.passOf n = some (p, m) → m ≠ n → (b.ctl.link m).state = .pass →
      ({ dest := .link m, msg := .identity (idBytes { r with role := 2, transit := b.fuses.serial.toNat }) } : Sent) ∈ t.out := by
  have hlink : ((b.trained n r).ctl.link n).state = .training := by rw [link_trained, state_through]
  have hcheck := run_checkPeer_pass (b := b.trained n r) ((judge_trained b n r).trans hj) (by rw [hlink]; exact fun h => (nomatch h))
  have hholds : b.HoldsPeer ((checkPeer n r).run (b.trained n r)) n r :=
    (holdsPeer_trained b n r).step (fun l => l.joined .pass r (lanesOf n ((b.trained n r).ctl.link n).retired)) _ _ _ []
      (fun l => by simp [Link.joined]) hcheck
  obtain ⟨new, hpass, hsent⟩ := run_passRecord ((checkPeer n r).run (b.trained n r)) n
  have hfab : ((checkPeer n r).run (b.trained n r)).ctl.links.fabric = b.ctl.links.fabric := by
    rw [hcheck]
    exact (trainsFrom_trained b n r).fabric
  have hfuses : ((checkPeer n r).run (b.trained n r)).fuses = b.fuses := by
    rw [hcheck]
    exact (trainsFrom_trained b n r).fuses
  have hst : (((checkPeer n r).run (b.trained n r)).ctl.link n).state = .pass := by
    rw [hcheck, link_accept, link_withLink_same]
    exact state_enter _ _
  rw [hfab, hfuses] at hsent
  refine ⟨_, (run_linkTrainAct_trained hmay r).trans hpass, ⟨hholds.peer, hholds.lastPeer, hholds.retryAt, hholds.retrain, hholds.others, hholds.data⟩,
    hst, ?_, ⟨new, by rw [hcheck]; rfl⟩, fun p m hp hne hm => List.mem_append_left _ (hsent p m r hp hst ?_ hholds.peer)⟩
  · show (((checkPeer n r).run (b.trained n r)).ctl.link n).version = _
    rw [hcheck, link_accept, link_withLink_same]
    rfl
  · rw [hholds.others m hne, hm]

end Judged

/-! ## Records that come later (R313, R316, R327) -/

theorem run_identityRecordAct {r : IdRec} (hst : (b.ctl.link n).state.carries = true) : (identityRecordAct n r).run b =
    (Act.opt (b.ctl.links.fabric.passOf n) fun pm => Act.when ((b.ctl.link pm.2).state == .pass)
      (send (.link pm.2) (.identity (idBytes { r with role := 2, transit := b.fuses.serial.toNat })))).run
      (((checkPeer n r).run b).withLink n fun l => { l with peer := some r, lastPeer := r.serial }) := by
  simp only [identityRecordAct, run_look, hst, Bool.true_or, run_when_true, run_all_cons, run_all_nil, run_updLink]

/-- A link of a circuit whose far end is still a circuit's needs nothing. -/
theorem run_checkPeer_still_pass {r : IdRec} (hj : b.judge n r = .pass) (hst : (b.ctl.link n).state = .pass) : (checkPeer n r).run b = b := by
  simp only [checkPeer, run_look, hj, hst, bne_self_eq_false, run_when_false]

/-! ## Losing a link that no job needs (R479) -/

/-- The loss of a bundle that neither a job nor a pair rests on does nothing. -/
theorem run_bundleLost_idle (hjob : b.ctl.job.inJob = false) (hpair : b.ctl.bound = false) (serial : Nat) : (bundleLost serial).run b = b := by
  simp only [bundleLost, run_look, hjob, hpair, Bool.false_and, Bool.false_eq_true, if_false, run_when_false]

/-- Messages sent one after the other. -/
theorem run_each_send {α : Type} (xs : List α) (d : α → Dest) (m : α → Msg) : ∀ b : Block,
    (Act.each xs fun x => send (d x) (m x)).run b = { b with out := (xs.map fun x => { dest := d x, msg := m x }).reverse ++ b.out } := by
  induction xs with
  | nil => exact fun b => rfl
  | cons x xs ih =>
    intro b
    rw [run_each_cons, run_send, ih]
    simp only [Block.sending, List.map_cons, List.reverse_cons, List.append_assoc, List.cons_append, List.nil_append]

/-- The block with its bundles and the messages sent changed. -/
def Block.bundling (b : Block) (s : Bundles) (out : List Sent) : Block :=
  { b with out := out, ctl := { b.ctl with links := { b.ctl.links with bundles := s } } }

@[simp] theorem link_bundling (b : Block) (s : Bundles) (out : List Sent) (n : Nat) : (b.bundling s out).ctl.link n = b.ctl.link n := rfl

theorem sameData_bundling (b : Block) (s : Bundles) (out : List Sent) : b.SameData (b.bundling s out) :=
  ⟨rfl, rfl, rfl, rfl, rfl, rfl, rfl, rfl, rfl, rfl⟩

/-- A member gone down, with no job and no pair, changes the bundles and sends gap notices. -/
theorem run_memberDown_idle (hjob : b.ctl.job.inJob = false) (hpair : b.ctl.bound = false) (serial : Nat) (held : List Packet) :
    ∃ (s : Bundles) (out : List Sent), (memberDown serial held).run b = b.bundling s out := by
  simp only [memberDown, run_look]
  split
  · rw [run_seq, run_bundleLost_idle (b := (updBundles _).run b) hjob hpair]
    exact ⟨_, _, rfl⟩
  · rw [run_seq, run_each_send]
    exact ⟨_, _, rfl⟩

/-- A link that may be lost has no job and no pair that its loss could cost its bundle. -/
theorem run_leave_safe {c : Block} {l : Link} (h : l.state ≠ .up ∨ (c.ctl.job.inJob = false ∧ c.ctl.pair.role = .unbound)) :
    ∃ (s : Bundles) (out : List Sent), (Act.when (l.state == .up) (Act.opt l.peer fun r => memberDown r.serial l.packets)).run c =
      c.bundling s out := by
  rcases h with hdown | ⟨hjob, hrole⟩
  · rw [beq_eq_false_iff_ne.2 hdown, run_when_false]
    exact ⟨_, _, rfl⟩
  · have hpair : c.ctl.bound = false := by simp [Ctl.bound, hrole]
    rw [run_when]
    split
    · cases l.peer with
      | none => exact ⟨_, _, rfl⟩
      | some r => exact run_memberDown_idle hjob hpair r.serial l.packets
    · exact ⟨_, _, rfl⟩

/-- A link that has gone down, or into a state that carries nothing. -/
def Link.fell (l : Link) (st : LinkState) (cause : Nat) : Link := { (l.cleared.enter st) with lastCause := cause }

/-- A link that may be lost goes down with its event, and only bundles and messages follow. -/
theorem run_linkDown_safe (hsafe : b.ctl.SafeToLose n) (st : LinkState) (step locked cause : Nat) : ∃ (s : Bundles) (out : List Sent),
    (linkDown n st step locked cause).run b = ((b.withLink n (Link.fell · st cause)).accept 0x0101 (linkSource n)
      (step % 256 * 65536 + locked % 256 * 256 + cause % 256)).bundling s out := by
  simp only [linkDown, run_look, run_all_cons, run_all_nil, run_updLink, linkDownEvent, run_raise]
  exact run_leave_safe hsafe

/-- What the loss of a link leaves of it and of everything else. -/
structure Block.LinkLost (b t : Block) (n : Nat) (st : LinkState) (detail cause : Nat) : Prop where
  link   : t.ctl.link n = (b.ctl.link n).fell st cause
  others : b.OtherLinks t n
  data   : b.SameData t
  raised : b.Raised t 0x0101 (linkSource n) detail

theorem linkLost_linkDown (hsafe : b.ctl.SafeToLose n) (st : LinkState) (step locked cause : Nat) :
    b.LinkLost ((linkDown n st step locked cause).run b) n st (step % 256 * 65536 + locked % 256 * 256 + cause % 256) cause := by
  obtain ⟨s, out, hrun⟩ := run_linkDown_safe hsafe st step locked cause
  rw [hrun]
  exact ⟨link_withLink_same b n (Link.fell · st cause), otherLinks_withLink b n (Link.fell · st cause), ((sameData_withLink _ _ _).trans (sameData_accept _ _ _ _)).trans
    (sameData_bundling _ _ _), rfl⟩

/-- The events of a link do not look at its other fields. -/
theorem raised_withLink {c : Block} {f : Link → Link} {code source detail : Nat} (h : (b.withLink n f).Raised c code source detail) :
    b.Raised c code source detail := h

/-- A change of a link after an event leaves the event. -/
theorem Block.Raised.of_withLink {c : Block} {f : Link → Link} {code source detail : Nat} (h : b.Raised c code source detail) :
    b.Raised (c.withLink n f) code source detail := h

/-- LINK_DOWN of a link taken down by the host: no step, the lanes it had, cause 7. -/
theorem raised_detail {c : Block} {lanes : Nat} (h : b.Raised c 0x0101 (linkSource n) (0 % 256 * 65536 + lanes % 256 * 256 + 7 % 256)) :
    b.Raised c 0x0101 (linkSource n) (lanes % 256 * 256 + 7) := by
  rwa [show 0 % 256 * 65536 + lanes % 256 * 256 + 7 % 256 = lanes % 256 * 256 + 7 by omega] at h

/-! ## LNK_CTRL (R479) -/

theorem run_lnkDisableAct_hold {port : Bool} (hmay : b.ctl.mayWriteCommon port = true) {v : BitVec 64} (hv : v.getLsbD 0 = true) :
    (lnkDisableAct port n v).run b =
      (if (b.ctl.link n).state.carries then linkDown n .disabled 0 (b.ctl.link n).lanes 7 else updLink n fun l => l.cleared.enter .disabled).run
        (b.withLink n fun l => { l with disable := true, retrain := false }) := by
  simp only [lnkDisableAct, run_look, hmay, run_when_true, hv, if_true, run_all_cons, run_all_nil, run_updLink]

theorem run_lnkDisableAct_release {port : Bool} (hmay : b.ctl.mayWriteCommon port = true) {v : BitVec 64} (hv : v.getLsbD 0 = false)
    (hv1 : v.getLsbD 1 = false) (hst : (b.ctl.link n).state = .disabled) :
    (lnkDisableAct port n v).run b = b.withLink n fun l => { (l.enter .down) with disable := false } := by
  simp only [lnkDisableAct, run_look, hmay, run_when_true, hv, Bool.false_eq_true, if_false, hv1, Bool.not_false, run_updLink]
  exact withLink_congr (by simp only [hst, if_true])

/-- The link with training started anew. -/
def Link.retrained (l : Link) : Link :=
  { ((if l.retryAt = 0 then l else l.counted).enter .training) with disable := false, retrain := true, retryAt := 0 }

theorem lastCause_retrained (l : Link) : l.retrained.lastCause = l.lastCause := by
  simp only [Link.retrained]
  rw [enter_eq]
  split <;> rfl

theorem run_lnkRetrainAct {port : Bool} (hmay : b.ctl.mayWriteCommon port = true) {v : BitVec 64} (hv : v.getLsbD 0 = false) (hv1 : v.getLsbD 1 = true) :
    (lnkRetrainAct port n v).run b =
      ((Act.when (b.ctl.link n).state.carries (linkDown n .down 0 (b.ctl.link n).lanes 7)).run b).withLink n Link.retrained := by
  simp only [lnkRetrainAct, run_look, hmay, hv, hv1, Bool.not_false, Bool.and_self, run_when_true, run_all_cons, run_all_nil, run_updLink]
  rfl

end Links

/-- Settles O49: training, identities, quarantine and LNK_CTRL. -/
theorem linksTrain : Obligations.LinksTrain := by
  refine ⟨fun s n k hmay => ?_, fun s n r hmay => ?_, fun s n => ?_, fun s n r hst hj hpass => ?_, fun s n r p m hst hj hpass hm => ?_,
    fun s n v hmay hv hsafe => ?_, fun s n v hmay hv hv1 hst => ?_, fun s n v hmay hv hv1 hsafe => ?_⟩
  · intro cause
    refine runs_of_perform rfl ((run_linkTrainAct hmay _).trans ?_)
    simp only [run_all_cons, run_all_nil, run_updLink, linkDownEvent, run_raise]
    have hk := k.isLt
    have hdetail : (if k.val = 2 then 0 else k.val) % 256 * 65536 + 0 % 256 * 256 + (if k.val = 2 then 4 else 3) % 256 =
        (if k.val = 2 then 0 else k.val) * 65536 + cause := by
      simp only [cause]
      split <;> omega
    rw [hdetail]
  · have hmem : ({ dest := .link n.val, msg := .identity (idBytes (s.block.ownId n.val)) } : Sent) ∈ (s.block.trained n.val r).out :=
      out_trained s.block n.val r ▸ List.mem_cons_self
    cases hj : s.block.judge n.val r with
    | up =>
      obtain ⟨t, hrun, hp, hst, hlanes, hver, hout⟩ := trained_up hmay hj
      exact ⟨t, runs_of_perform rfl hrun, hp.peer, hp.lastPeer, hp.retryAt, hp.retrain, hp.others, hp.data, fun _ => hout.trans (out_trained _ _ _), hout ▸ hmem,
        fun _ => ⟨hst, hlanes, hver⟩, fun h => (nomatch h), fun h => (nomatch h), fun h => (nomatch h)⟩
    | pass =>
      obtain ⟨t, hrun, hp, hst, hver, ⟨new, hout⟩, hsent⟩ := trained_pass hmay hj
      exact ⟨t, runs_of_perform rfl hrun, hp.peer, hp.lastPeer, hp.retryAt, hp.retrain, hp.others, hp.data, fun h => absurd rfl h,
        hout ▸ List.mem_append_right _ hmem, fun h => (nomatch h), fun _ => ⟨hst, hver, hsent⟩, fun h => (nomatch h), fun h => (nomatch h)⟩
    | version =>
      obtain ⟨t, hrun, hp, hst, hout, harb⟩ := trained_version hmay hj
      exact ⟨t, runs_of_perform rfl hrun, hp.peer, hp.lastPeer, hp.retryAt, hp.retrain, hp.others, hp.data, fun _ => hout.trans (out_trained _ _ _), hout ▸ hmem,
        fun h => (nomatch h), fun h => (nomatch h), fun h => (nomatch h), fun _ => ⟨hst, harb⟩⟩
    | quarantine =>
      obtain ⟨t, hrun, hp, hst, hout, hraised⟩ := trained_quarantine hmay hj
      exact ⟨t, runs_of_perform rfl hrun, hp.peer, hp.lastPeer, hp.retryAt, hp.retrain, hp.others, hp.data, fun _ => hout.trans (out_trained _ _ _), hout ▸ hmem,
        fun h => (nomatch h), fun h => (nomatch h), fun _ => ⟨hst, hraised⟩, fun h => (nomatch h)⟩
  · intro l halive hdis hst hat hdue
    have hcond : (s.block.ctl.linksAlive && !l.disable && l.state == .down && l.retryAt != 0 && decide (l.retryAt ≤ s.block.lhTime)) = true := by
      simp [halive, hdis, hst, hat, hdue]
    have hrun : (trainingRetryAct n.val).run s.block = s.block.withLink n.val fun l => { (l.counted.enter .training) with retryAt := 0 } := by
      simp only [trainingRetryAct, run_look]
      rw [hcond, run_when_true, run_updLink]
    refine runs_of_perform rfl (hrun.trans (withLink_congr ?_))
    simp only [enter_counted]
    exact retried_eq _
  · have hcheck := run_checkPeer_up hj (by rw [hst]; exact fun h => (nomatch h))
    have hrun := run_identityRecordAct (n := n.val) (r := r) (b := s.block) (by rw [hst]; rfl)
    rw [hpass, run_opt_none, hcheck] at hrun
    refine ⟨_, runs_of_perform rfl hrun, ?_, ?_, Nat.lt_succ_self _, ?_, ?_, rfl⟩
    · rw [link_withLink_same, link_accept, link_withLink_same]
      exact state_enter _ _
    · rw [link_withLink_same]
    · exact ((onLink_withLink _ _ _).trans ((onLink_accept _ _ _ _ _).trans (onLink_withLink _ _ _))).others
    · exact ((onLink_withLink _ _ _).trans ((onLink_accept _ _ _ _ _).trans (onLink_withLink _ _ _))).data
  · have hrun := run_identityRecordAct (n := n.val) (r := r) (b := s.block) (by rw [hst]; rfl)
    rw [run_checkPeer_still_pass hj hst, hpass, run_opt_some, hm, beq_self_eq_true, run_when_true, run_send] at hrun
    exact runs_of_perform rfl hrun
  · have hrun := run_lnkDisableAct_hold (n := n.val) hmay hv
    cases hc : (s.block.ctl.link n.val).state.carries
    · rw [hc, if_neg (by decide), run_updLink] at hrun
      refine ⟨_, runs_of_perform rfl hrun, ?_, ?_, ?_, ((onLink_withLink _ _ _).trans (onLink_withLink _ _ _)).others,
        ((onLink_withLink _ _ _).trans (onLink_withLink _ _ _)).data, fun h => (nomatch h)⟩
      · rw [link_withLink_same, state_enter]
      · rw [link_withLink_same, link_withLink_same, disable_enter]
        rfl
      · rw [link_withLink_same, lanes_enter]
        rfl
    · rw [hc, if_pos rfl] at hrun
      have hsafe' : (s.block.withLink n.val fun l => { l with disable := true, retrain := false }).ctl.SafeToLose n.val :=
        hsafe.imp (fun h => by rw [link_withLink_same]; exact h) id
      have hlost := linkLost_linkDown hsafe' .disabled 0 (s.block.ctl.link n.val).lanes 7
      refine ⟨_, runs_of_perform rfl hrun, ?_, ?_, ?_, (otherLinks_withLink _ _ _).trans hlost.others, (sameData_withLink _ _ _).trans hlost.data,
        fun _ => ⟨?_, ?_⟩⟩
      · rw [hlost.link]
        exact state_enter _ _
      · rw [hlost.link, link_withLink_same]
        exact disable_enter _ _
      · rw [hlost.link]
        exact lanes_enter _ _
      · exact raised_withLink (raised_detail hlost.raised)
      · rw [hlost.link]
        rfl
  · exact runs_of_perform rfl (run_lnkDisableAct_release hmay hv hv1 hst)
  · have hrun := run_lnkRetrainAct (n := n.val) hmay hv hv1
    cases hc : (s.block.ctl.link n.val).state.carries
    · rw [hc, run_when_false] at hrun
      refine ⟨_, runs_of_perform rfl hrun, ?_, ?_, ?_, ?_, (onLink_withLink _ _ _).others, (onLink_withLink _ _ _).data, fun h => (nomatch h)⟩
      all_goals rw [link_withLink_same]
      · exact state_enter _ _
      all_goals rfl
    · rw [hc, run_when_true] at hrun
      have hlost := linkLost_linkDown hsafe .down 0 (s.block.ctl.link n.val).lanes 7
      refine ⟨_, runs_of_perform rfl hrun, ?_, ?_, ?_, ?_, hlost.others.trans (otherLinks_withLink _ _ _), hlost.data.trans (sameData_withLink _ _ _),
        fun _ => ⟨?_, ?_⟩⟩
      · rw [link_withLink_same]
        exact state_enter _ _
      · rw [link_withLink_same]
        rfl
      · rw [link_withLink_same]
        rfl
      · rw [link_withLink_same]
        rfl
      · exact (raised_detail hlost.raised).of_withLink
      · rw [link_withLink_same, hlost.link]
        exact lastCause_retrained _

end Sys2Proof.Machine


namespace Sys2Proof.Machine

/-! # Links: flits, lanes, signal and cages (R308, R309, R318 to R329) -/

section Flits
variable {b : Block} {n : Nat}

@[simp] theorem run_takeFresh (b : Block) : takeFresh.run b = { b with fresh := b.fresh + 1 } := rfl

/-! ## ACK and NAK (R321) -/

theorem run_sendControl (b : Block) (n : Nat) (nak : Bool) : (sendControl n nak).run b =
    (b.withLink n fun l => (l.control nak).2).sending (.link n) (.flit ((b.ctl.link n).control nak).1) := rfl

theorem run_flitReceiveAct_bad (halive : b.ctl.linksAlive = true) (hcar : (b.ctl.link n).state.carries = true) {f : Bytes} {fecOk : Bool}
    (hbad : flitOk f fecOk = false) : (flitReceiveAct n f fecOk).run b = (sendControl n true).run b := by
  simp only [flitReceiveAct, run_look, halive, hcar, Bool.and_self, run_when_true, hbad, Bool.not_false, if_true]

theorem run_ackTimerAct (halive : b.ctl.linksAlive = true) (hcar : (b.ctl.link n).state.carries = true) (hun : 0 < (b.ctl.link n).unacked) :
    (ackTimerAct n).run b = (sendControl n false).run b := by
  simp only [ackTimerAct, run_look, halive, hcar, decide_eq_true hun, Bool.and_self, run_when_true]

/-! ## A good flit in order (R318, R321, R322) -/

/-- A link on which nothing waits drains nothing. -/
theorem drain_idle (l : Link) (now fuel : Nat) (h : l.waiting = []) : l.drain now fuel = (l, []) := by
  cases fuel with
  | zero => rfl
  | succ fuel =>
    have hready : ∀ vc, l.ready vc = false := fun vc => by simp [Link.ready, h]
    have hpick : l.pick now = none := by simp [Link.pick, hready]
    simp only [Link.drain, hpick, ite_self]

theorem run_pump_idle (h : (b.ctl.link n).waiting = []) : (pump n).run b = b := by
  simp only [pump, run_look, drain_idle _ _ _ h, List.isEmpty_nil, Bool.not_true, Bool.and_false, run_when_false]

/-- The link with what a flit's header acknowledges and returns. -/
def Link.acked (l : Link) (h : FlitHead) : Link :=
  { (if h.cvc < 6 then l.credit h.cvc h.cnt else l) with replayBuf := l.replayBuf.filter fun x => !covered x.seq h.ack }

/-- The header's answer leaves everything else of a link. -/
theorem acked_eq (l : Link) (h : FlitHead) :
    l.acked h = { l with shared := (l.acked h).shared, credits := (l.acked h).credits, replayBuf := (l.acked h).replayBuf } := by
  simp only [Link.acked]
  split <;> rfl

theorem state_acked (l : Link) (h : FlitHead) : (l.acked h).state = l.state := by rw [acked_eq]

theorem peer_acked (l : Link) (h : FlitHead) : (l.acked h).peer = l.peer := by rw [acked_eq]

theorem run_flitSender_idle {h : FlitHead} (hnak : h.nak = false) (hidle : (b.ctl.link n).waiting = []) :
    (flitSender n h).run b = b.withLink n (Link.acked · h) := by
  have hwait : ((b.withLink n (Link.acked · h)).ctl.link n).waiting = [] := by
    rw [link_withLink_same, acked_eq]
    exact hidle
  simp only [flitSender, run_all_cons, run_all_nil, hnak, run_when_false]
  exact run_pump_idle hwait

/-- The link with one more flit in its buffer. -/
def Link.took (l : Link) (vc : Nat) : Link :=
  { l with rxSeq := l.rxSeq + 1, unacked := l.unacked + 1, held := l.held.set vc (l.held.getD vc 0 + 1) }

/-- The block whose bundle has delivered one more packet. -/
def Block.delivered (b : Block) (key : Nat) : Block :=
  { b with ctl := { b.ctl with links := { b.ctl.links with bundles := { b.ctl.links.bundles with
    next := Tab.set 0 b.ctl.links.bundles.next key (Tab.get 0 b.ctl.links.bundles.next key + 1) } } } }

theorem next_delivered (b : Block) (key j : Nat) : Tab.get 0 (b.delivered key).ctl.links.bundles.next j =
    if j = key then Tab.get 0 b.ctl.links.bundles.next key + 1 else Tab.get 0 b.ctl.links.bundles.next j := by
  simp only [Block.delivered, Tab.get_set]

/-- What a link delivers rests on its state and peer. -/
theorem delivers_withLink (b : Block) (n : Nat) {f : Link → Link} (hst : (f (b.ctl.link n)).state = (b.ctl.link n).state)
    (hpeer : (f (b.ctl.link n)).peer = (b.ctl.link n).peer) (vc : Nat) : (b.withLink n f).ctl.delivers n vc = b.ctl.delivers n vc := by
  simp only [Ctl.delivers, link_withLink_same, hst, hpeer]
  rfl

section Take
variable {h : FlitHead} {peer : IdRec} (hst : (b.ctl.link n).state = .up) (hdel : b.ctl.delivers n h.vc = true)
include hst hdel

theorem run_takeFlitIn_more (hlast : h.last = false) : (takeFlitIn n h).run b = b.withLink n (Link.took · h.vc) := by
  simp only [takeFlitIn, run_look, hst, hlast, hdel, Bool.not_true, Bool.or_self, Bool.and_false, Bool.false_and, run_when_false, run_all_cons,
    run_all_nil]
  rfl

theorem run_takeFlitIn_last (hpeer : (b.ctl.link n).peer = some peer) (hlast : h.last = true) : (takeFlitIn n h).run b =
    ((b.withLink n (Link.took · h.vc)).withLink n fun l => l.release h.vc (l.held.getD h.vc 0)).delivered (bundleKey peer.serial h.vc) := by
  have hne : (LinkState.up != LinkState.pass) = true := rfl
  simp only [takeFlitIn, run_look, hst, hpeer, hlast, hdel, hne, Bool.not_true, Bool.or_false, beq_self_eq_true, Bool.and_self, run_when_true,
    run_all_cons, run_all_nil]
  rfl

end Take

/-- A good flit in order of a link that is up, with nothing waiting and no ACK due. -/
theorem run_flitReceiveAct {f : Bytes} (halive : b.ctl.linksAlive = true) (hst : (b.ctl.link n).state = .up) (hok : flitOk f true = true)
    (hvc : (flitHead f).vc ≠ 7) (hnak : (flitHead f).nak = false) (hidle : (b.ctl.link n).waiting = [])
    (hseq : (flitHead f).seq = ((b.ctl.link n).rxSeq + 1).toNat) (hun : (b.ctl.link n).unacked + 1 < 32) (hpower : b.ctl.power.state ≠ .idle)
    {t : Block} (htake : (takeFlitIn n (flitHead f)).run (b.withLink n (Link.acked · (flitHead f))) = t) :
    (flitReceiveAct n f true).run b = t := by
  have hcar : (b.ctl.link n).state.carries = true := by rw [hst]; rfl
  have hcar' : ((b.withLink n (Link.acked · (flitHead f))).ctl.link n).state.carries = true := by
    rw [link_withLink_same, acked_eq]
    exact hcar
  have hnopass : ((b.ctl.link n).state == .pass) = false := by rw [hst]; rfl
  have hroom : decide (32 ≤ (b.ctl.link n).unacked + 1) = false := decide_eq_false (by omega)
  have hawake : ((b.withLink n (Link.acked · (flitHead f))).ctl.power.state == .idle) = false := beq_eq_false_iff_ne.2 hpower
  simp only [flitReceiveAct, run_look, halive, hcar, Bool.and_self, run_when_true, hok, Bool.not_true, Bool.false_eq_true, if_false, if_neg hvc,
    if_neg (not_not.2 hseq), run_all_cons, run_all_nil, run_flitSender_idle hnak hidle, hcar', htake, hawake, Bool.false_and, run_when_false, hnopass,
    hroom]

/-! ## Gap notices (R319) -/

theorem le_foldl_max (xs : List Nat) : ∀ a, a ≤ xs.foldl (fun x n => max x (n + 1)) a := by
  induction xs with
  | nil => exact fun a => le_rfl
  | cons x xs ih => exact fun a => (le_max_left _ _).trans (ih _)

/-- Every number that a gap notice names is passed. -/
theorem lt_foldl_max (xs : List Nat) : ∀ a, ∀ x ∈ xs, x < xs.foldl (fun x n => max x (n + 1)) a := by
  induction xs with
  | nil => exact fun a x hx => absurd hx List.not_mem_nil
  | cons y xs ih =>
    intro a x hx
    rcases List.mem_cons.1 hx with rfl | hx
    · exact Nat.lt_of_lt_of_le (Nat.lt_of_lt_of_le (Nat.lt_succ_self x) (le_max_right a (x + 1))) (le_foldl_max xs _)
    · exact ih _ x hx

/-- The block whose bundle delivers past the numbers that a notice names. -/
def Block.skipping (b : Block) (m : GapNotice) : Block :=
  { b with ctl := { b.ctl with links := { b.ctl.links with bundles := { b.ctl.links.bundles with
    next := Tab.set 0 b.ctl.links.bundles.next (bundleKey m.peer m.vc.val)
      (m.lost.foldl (fun x n => max x (n + 1)) (Tab.get 0 b.ctl.links.bundles.next (bundleKey m.peer m.vc.val))),
    skipped := Tab.set 0 b.ctl.links.bundles.skipped (bundleKey m.peer m.vc.val)
      (Tab.get 0 b.ctl.links.bundles.skipped (bundleKey m.peer m.vc.val) + m.lost.length) } } } }

theorem run_gapNoticeAct {m : GapNotice} (h : (!m.lost.isEmpty) = true) : (gapNoticeAct m).run b = b.skipping m := by
  rw [gapNoticeAct, h, run_when_true]
  rfl

/-! ## Reports: events and the error history -/

/-- Events may have been raised and health kept; links, data, messages and spare map are as they were. -/
structure Block.Reports (b t : Block) : Prop where
  links  : ∀ m, t.ctl.link m = b.ctl.link m
  data   : b.SameData t
  out    : t.out = b.out
  raised : b.arb.next ≤ t.arb.next
  spares : t.ctl.health.spares = b.ctl.health.spares
  job    : t.ctl.job = b.ctl.job
  pair   : t.ctl.pair = b.ctl.pair

theorem Block.Reports.refl (b : Block) : b.Reports b := ⟨fun _ => rfl, .refl b, rfl, le_rfl, rfl, rfl, rfl⟩

theorem Block.Reports.trans {c d : Block} (h : b.Reports c) (h' : c.Reports d) : b.Reports d :=
  ⟨fun m => (h'.links m).trans (h.links m), h.data.trans h'.data, h'.out.trans h.out, h.raised.trans h'.raised,
    h'.spares.trans h.spares, h'.job.trans h.job, h'.pair.trans h.pair⟩

theorem reports_accept (b : Block) (code source detail : Nat) : b.Reports (b.accept code source detail) :=
  ⟨fun _ => rfl, sameData_accept _ _ _ _, rfl, Nat.le_succ _, rfl, rfl, rfl⟩

theorem reports_withHealth (b : Block) (f : Health → Health) (hf : (f b.ctl.health).spares = b.ctl.health.spares) : b.Reports (b.withHealth f) :=
  ⟨fun _ => rfl, ⟨rfl, rfl, rfl, rfl, rfl, rfl, rfl, rfl, rfl, rfl⟩, rfl, le_rfl, hf, rfl, rfl⟩

theorem run_unitRetired (b : Block) (cls unit logical spare reason source : Nat) : (unitRetired cls unit logical spare reason source).run b =
    (((b.accept 0x0200 source (spare * 2 ^ 48 + logical * 2 ^ 32 + unit * 2 ^ 16 + reason * 2 ^ 4 + cls)).withHealth fun h =>
      h.noted { time := b.lhTime, cls := cls, kind := 2, unit := unit, detail := spare * 65536 + logical }).withHealth fun h => { h with wanted := true }) :=
  rfl

theorem reports_unitRetired (b : Block) (cls unit logical spare reason source : Nat) :
    (b.accept 0x0200 source (spare * 2 ^ 48 + logical * 2 ^ 32 + unit * 2 ^ 16 + reason * 2 ^ 4 + cls)).Reports
      ((unitRetired cls unit logical spare reason source).run b) := by
  rw [run_unitRetired]
  exact (reports_withHealth _ _ rfl).trans (reports_withHealth _ _ rfl)

/-- A group of spares that is reported low is marked as such. -/
def Health.marked (key : Nat) (h : Health) : Health := { h with lowRaised := key :: h.lowRaised }

theorem reports_spareLow (b : Block) (cls group left source : Nat) : b.Reports ((spareLow cls group left source).run b) := by
  simp only [spareLow, run_look]
  generalize (!b.ctl.health.lowRaised.contains _) = low
  cases low
  · exact .refl b
  · exact (reports_accept b _ _ _).trans (reports_withHealth _ (Health.marked _) rfl)

/-! ## Lanes (R308, R309) -/

/-- The flits that no ACK covers, sent once more. -/
def Link.again (l : Link) : List ReplayFlit := l.replayBuf.map fun x => { x with replays := x.replays + 1 }

/-- The link with its flits sent once more. -/
def Link.resent (l : Link) : Link := { l with replayBuf := l.again, replays := (l.replays + l.again.length) % 2 ^ 48 }

/-- The block with messages sent, and with the free values that they drew. -/
def Block.drawing (b : Block) (k : Nat) (new : List Sent) : Block := { b with fresh := k, out := new ++ b.out }

@[simp] theorem link_drawing (b : Block) (k : Nat) (new : List Sent) (m : Nat) : (b.drawing k new).ctl.link m = b.ctl.link m := rfl

/-- Data that is the same but for the free values drawn. -/
theorem sameData_drawing {c : Block} (h : b.SameData c) (k : Nat) (new : List Sent) : b.SameData { c.drawing k new with fresh := b.fresh } := by
  obtain ⟨h1, h2, h3, h4, h5, h6, h7, h8, h9, -⟩ := h
  exact ⟨h1, h2, h3, h4, h5, h6, h7, h8, h9, rfl⟩

theorem sameData_fresh_trans {c d : Block} {k : Nat} (h : b.SameData { c with fresh := k }) (h' : c.SameData d) :
    b.SameData { d with fresh := k } := by
  obtain ⟨h1, h2, h3, h4, h5, h6, h7, h8, h9, h10⟩ := h
  obtain ⟨e1, e2, e3, e4, e5, e6, e7, e8, e9, -⟩ := h'
  exact ⟨e1.trans h1, e2.trans h2, e3.trans h3, e4.trans h4, e5.trans h5, e6.trans h6, e7.trans h7, e8.trans h8, e9.trans h9, h10⟩

/-- Flits sent again change the link's counts, and go out on it. -/
theorem run_replayAll (hfew : ∀ x ∈ (b.ctl.link n).replayBuf, x.replays + 1 < 8) : ∃ (k : Nat) (new : List Sent),
    (replayAll n).run b = (b.withLink n Link.resent).drawing k new ∧ new.length = (b.ctl.link n).replayBuf.length ∧
      ∀ x ∈ new, x.dest = .link n := by
  have hnone : ((b.ctl.link n).again.any fun x => decide (8 ≤ x.replays)) = false := by
    simp only [Link.again, List.any_map, List.any_eq_false, Function.comp_apply, decide_eq_true_eq, not_le]
    exact hfew
  have hagain : (b.ctl.link n).replayBuf.map (fun x => { x with replays := x.replays + 1 }) = (b.ctl.link n).again := rfl
  have hlink : (b.withLink n fun l => { l with replayBuf := (b.ctl.link n).again, replays := (l.replays + (b.ctl.link n).again.length) % 2 ^ 48 }) =
      b.withLink n Link.resent := withLink_congr rfl
  simp only [replayAll, run_look, run_all_cons, run_all_nil, run_updLink, hagain, hnone, run_when_false, run_each_send, hlink]
  generalize ((b.ctl.link n).again.any fun x => !x.flit.isPassed) = own
  have hsent : ∀ x ∈ ((b.ctl.link n).again.map fun x => ({ dest := .link n, msg := .flit (b.flitBytes (b.ctl.link n) x) } : Sent)).reverse,
      x.dest = .link n := fun x hx => by
    obtain ⟨y, -, rfl⟩ := List.mem_map.1 (List.mem_reverse.1 hx)
    rfl
  cases own
  · exact ⟨_, _, rfl, by simp [Link.again], hsent⟩
  · exact ⟨_, _, rfl, by simp [Link.again], hsent⟩

/-- The link with a lane retired: narrower, with the spare in use where it takes the lane's place. -/
def Link.narrowed (r : BitVec 5) (spare : Bool) (lanes : Nat) (l : Link) : Link :=
  { l with retired := r, spareUsed := l.spareUsed || spare, lanes := if l.state.carries then lanes else l.lanes }

/-- The spare map with one more lane retired. -/
def Health.laneGone (unit : Nat) (h : Health) : Health := { h with spares := { h.spares with lanes := h.spares.lanes ++ [unit] } }

/-- The error history holds a record of an error of a unit, of the present time. -/
def Block.Recorded (t : Block) (unit time : Nat) : Prop := ∃ r ∈ t.ctl.health.history, r.cls = 6 ∧ r.unit = unit ∧ r.time = time

/-- A record just added is in the history: what makes room for it is an older one. -/
theorem mem_addHistory (h : List ErrRec) (r : ErrRec) : r ∈ addHistory h r := by
  simp only [addHistory]
  split
  next hfull =>
    have hold : ∃ x ∈ h, (x.kind != 2) = true := by
      by_contra hnone
      push Not at hnone
      have hcount : h.countP (fun x => x.kind != 2) = 0 := List.countP_eq_zero.2 hnone
      simp only [countIf, ← List.countP_eq_length_filter, List.countP_append, hcount, List.countP_singleton] at hfull
      split at hfull <;> omega
    obtain ⟨x, hx, hkind⟩ := hold
    rw [List.eraseP_append_left (p := fun x => x.kind != 2) hkind _ hx]
    simp
  next => simp

theorem recorded_unitRetired (b : Block) (unit spare reason source : Nat) :
    ((unitRetired 6 unit unit spare reason source).run b).Recorded unit b.lhTime := ⟨_, mem_addHistory _ _, rfl, rfl, rfl⟩

theorem history_spareLow (b : Block) (cls group left source : Nat) :
    ((spareLow cls group left source).run b).ctl.health.history = b.ctl.health.history := by
  simp only [spareLow, run_look]
  generalize (!b.ctl.health.lowRaised.contains _) = low
  cases low <;> rfl

/-- What follows the loss of a lane: its place in the spare map, LANE_LOST, UNIT_RETIRED and SPARE_LOW. -/
@[irreducible] def Block.laneReported (b : Block) (n unit source detail spare reason : Nat) : Block :=
  (spareLow 6 n 0 source).run ((unitRetired 6 unit unit spare reason source).run ((b.withHealth (Health.laneGone unit)).accept 0x0103 source detail))

theorem laneReported_reports (b : Block) (n unit source detail spare reason : Nat) :
    (b.withHealth (Health.laneGone unit)).Reports (b.laneReported n unit source detail spare reason) := by
  unfold Block.laneReported
  exact (reports_accept _ _ _ _).trans ((reports_accept _ _ _ _).trans ((reports_unitRetired _ _ _ _ _ _ _).trans (reports_spareLow _ _ _ _ _)))

theorem laneReported_raised (b : Block) (n unit source detail spare reason : Nat) :
    b.arb.next + 2 ≤ (b.laneReported n unit source detail spare reason).arb.next := by
  unfold Block.laneReported
  exact (reports_unitRetired ((b.withHealth (Health.laneGone unit)).accept 0x0103 source detail) 6 unit unit spare reason source).raised.trans
    (reports_spareLow _ 6 n 0 source).raised

theorem laneReported_recorded (b : Block) (n unit source detail spare reason : Nat) :
    (b.laneReported n unit source detail spare reason).Recorded unit b.lhTime := by
  unfold Block.laneReported Block.Recorded
  rw [history_spareLow]
  exact recorded_unitRetired _ _ _ _ _

theorem run_laneGone (c : Block) (unit : Nat) : (Act.upd fun c =>
    { c with health := { c.health with spares := { c.health.spares with lanes := c.health.spares.lanes ++ [unit] } } }).run c =
      c.withHealth (Health.laneGone unit) := rfl

/-- A lane of a link that carries flits, and goes on carrying them on the lanes that are left. -/
theorem run_retireLane_carrying {lane reason : Nat} (hcar : (b.ctl.link n).state.carries = true) (hlane : (b.ctl.link n).retired.getLsbD lane = false)
    (hhere : (boardLink n || decide (lane < 4)) = true) {r : BitVec 5} (hr : r = (b.ctl.link n).retired ||| BitVec.ofNat 5 (2 ^ lane))
    (hleft : lanesOf n r ≠ 0) : ∃ (spare : Bool) (detail unit : Nat), (retireLane n lane reason).run b =
      ((replayAll n).run (b.withLink n (Link.narrowed r spare (lanesOf n r)))).laneReported n (n * 8 + lane) (linkSource n) detail unit reason := by
  have hne : (lanesOf n r != 0) = true := bne_iff_ne.2 hleft
  have heq : (lanesOf n r == 0) = false := beq_eq_false_iff_ne.2 hleft
  simp only [retireLane, run_look, hlane, hhere, Bool.not_false, Bool.and_self, run_when_true, ← hr, hcar, hne, heq, Bool.and_false, run_when_false,
    run_all_cons, run_all_nil, run_updLink, run_raise, run_laneGone, Block.laneReported]
  generalize (boardLink n && !(b.ctl.link n).spareUsed && lane != 4 && _) = spare
  exact ⟨spare, _, _, rfl⟩

/-- A lane of a link that carries nothing is retired without a word on the link. -/
theorem run_retireLane_silent {lane reason : Nat} (hstate : (b.ctl.link n).state = .circuitDown) (hlane : (b.ctl.link n).retired.getLsbD lane = false)
    (hhere : (boardLink n || decide (lane < 4)) = true) : ∃ (r : BitVec 5) (spare : Bool) (lanes detail unit : Nat), (retireLane n lane reason).run b =
      (b.withLink n (Link.narrowed r spare lanes)).laneReported n (n * 8 + lane) (linkSource n) detail unit reason := by
  have hcar : LinkState.circuitDown.carries = false := rfl
  have htrain : (LinkState.circuitDown == .training) = false := rfl
  have hver : (LinkState.circuitDown == .versionDown) = false := rfl
  simp only [retireLane, run_look, hlane, hhere, Bool.not_false, Bool.and_self, run_when_true, hstate, hcar, htrain, hver, Bool.or_self,
    Bool.false_and, run_when_false, run_all_cons, run_all_nil, run_updLink, run_raise, run_laneGone, Block.laneReported]
  generalize (boardLink n && !(b.ctl.link n).spareUsed && lane != 4 && _) = spare
  exact ⟨_, spare, _, _, _, rfl⟩

/-! ## Errors of the lanes of a circuit that is down (R326, R402) -/

/-- Reports about a link that is down: its state and lanes, other links, job, pair and all data are as they were. -/
structure Block.Charged (b t : Block) (n : Nat) : Prop where
  state  : (t.ctl.link n).state = (b.ctl.link n).state
  lanes  : (t.ctl.link n).lanes = (b.ctl.link n).lanes
  others : b.OtherLinks t n
  data   : b.SameData t
  raised : b.arb.next ≤ t.arb.next
  job    : t.ctl.job = b.ctl.job
  pair   : t.ctl.pair = b.ctl.pair

theorem Block.Charged.refl (b : Block) (n : Nat) : b.Charged b n := ⟨rfl, rfl, .refl b n, .refl b, le_rfl, rfl, rfl⟩

theorem Block.Charged.trans {c d : Block} (h : b.Charged c n) (h' : c.Charged d n) : b.Charged d n :=
  ⟨h'.state.trans h.state, h'.lanes.trans h.lanes, h.others.trans h'.others, h.data.trans h'.data, h.raised.trans h'.raised, h'.job.trans h.job,
    h'.pair.trans h.pair⟩

theorem Block.Reports.charged {t : Block} (h : b.Reports t) (n : Nat) : b.Charged t n :=
  ⟨congrArg Link.state (h.links n), congrArg Link.lanes (h.links n), fun m _ => h.links m, h.data, h.raised, h.job, h.pair⟩

theorem charged_withHealth (b : Block) (n : Nat) (f : Health → Health) : b.Charged (b.withHealth f) n :=
  ⟨rfl, rfl, fun _ _ => rfl, ⟨rfl, rfl, rfl, rfl, rfl, rfl, rfl, rfl, rfl, rfl⟩, le_rfl, rfl, rfl⟩

theorem charged_narrowed (hstate : (b.ctl.link n).state = .circuitDown) (r : BitVec 5) (spare : Bool) (lanes : Nat) :
    b.Charged (b.withLink n (Link.narrowed r spare lanes)) n := by
  refine ⟨?_, ?_, otherLinks_withLink _ _ _, sameData_withLink _ _ _, le_rfl, rfl, rfl⟩
  · rw [link_withLink_same]
    rfl
  · rw [link_withLink_same]
    simp only [Link.narrowed, hstate]
    rfl

/-- The error of one lane of a front link whose circuit is down: its times, its record, and the lane's retirement where that is due. -/
theorem run_chargeLane (hstate : (b.ctl.link n).state = .circuitDown) {lane : Nat} (hlane : lane < 4) :
    b.Charged ((chargeLane n lane).run b) n ∧ ((chargeLane n lane).run b).Recorded (n * 8 + lane) b.lhTime := by
  have hrun : ∃ (f : Health → Health) (kind : Nat) (expired : Bool), (chargeLane n lane).run b =
      (Act.when expired (retireLane n lane 0)).run ((b.withHealth f).withHealth fun h =>
        h.noted { time := b.lhTime, cls := 6, kind := kind, unit := n * 8 + lane, detail := 0 }) := by
    simp only [chargeLane, run_look, run_all_cons, run_all_nil, run_history]
    generalize decide (_ < b.ctl.thresh) = ok
    exact ⟨fun h => { h with transient := Tab.set [] h.transient _ (if ok then _ else []) }, if ok then 0 else 1, !ok, rfl⟩
  obtain ⟨f, kind, expired, hrun⟩ := hrun
  rw [hrun]
  generalize hc : ((b.withHealth f).withHealth fun h =>
    h.noted { time := b.lhTime, cls := 6, kind := kind, unit := n * 8 + lane, detail := 0 }) = c
  have hcharged : b.Charged c n := hc ▸ (charged_withHealth b n f).trans (charged_withHealth _ n _)
  have hrec : c.Recorded (n * 8 + lane) b.lhTime := hc ▸ ⟨_, mem_addHistory _ _, rfl, rfl, rfl⟩
  have htime : c.lhTime = b.lhTime := hc ▸ rfl
  have hstate' := hcharged.state.trans hstate
  cases expired with
  | false => exact ⟨hcharged, hrec⟩
  | true =>
    rw [run_when_true]
    cases hgone : (c.ctl.link n).retired.getLsbD lane with
    | true =>
      have hskip : (retireLane n lane 0).run c = c := by
        simp only [retireLane, run_look, hgone, Bool.not_true, Bool.false_and, run_when_false]
      rw [hskip]
      exact ⟨hcharged, hrec⟩
    | false =>
      obtain ⟨r, spare, lanes, detail, unit, hretired⟩ := run_retireLane_silent (reason := 0) hstate' hgone
        (by rw [decide_eq_true hlane, Bool.or_true])
      rw [hretired, ← htime]
      refine ⟨hcharged.trans ((charged_narrowed hstate' r spare lanes).trans ((charged_withHealth _ n _).trans
        ((laneReported_reports _ n _ _ _ _ _).charged n))), laneReported_recorded _ n _ _ _ _ _⟩

/-- The errors of the lanes of a front link whose circuit is down. -/
theorem run_chargeLanes (lanes : List Nat) (hlanes : ∀ k ∈ lanes, k < 4) : ∀ b : Block, (b.ctl.link n).state = .circuitDown →
    b.Charged ((Act.each lanes (chargeLane n)).run b) n ∧
      (lanes ≠ [] → ∃ k < 4, ((Act.each lanes (chargeLane n)).run b).Recorded (n * 8 + k) b.lhTime) := by
  induction lanes with
  | nil => exact fun b _ => ⟨.refl b n, fun h => absurd rfl h⟩
  | cons k ks ih =>
    intro b hstate
    rw [run_each_cons]
    have hk : k < 4 := hlanes k List.mem_cons_self
    obtain ⟨hcharged, hrec⟩ := run_chargeLane (n := n) hstate hk
    obtain ⟨hrest, hrecs⟩ := ih (fun j hj => hlanes j (List.mem_cons_of_mem _ hj)) ((chargeLane n k).run b) (hcharged.state.trans hstate)
    refine ⟨hcharged.trans hrest, fun _ => ?_⟩
    rcases eq_or_ne ks [] with rfl | hks
    · exact ⟨k, hk, hrec⟩
    · obtain ⟨j, hj, hj'⟩ := hrecs hks
      exact ⟨j, hj, hcharged.data.lhTime_eq ▸ hj'⟩

/-- Signal lost on every lane of a front link. -/
theorem run_signalLossAct_front {lanes : List (Fin 5)} (halive : b.ctl.linksAlive = true) (hcar : (b.ctl.link n).state.carries = true)
    (hfront : boardLink n = false) (hsome : ∃ i : Fin 5, (b.ctl.link n).retired.getLsbD i.val = false ∧ i.val < 4)
    (hall : ∀ i : Fin 5, (b.ctl.link n).retired.getLsbD i.val = false → i.val < 4 → i ∈ lanes) : (signalLossAct n lanes).run b =
      (Act.when ((b.ctl.link n).state == .up) (Act.opt (b.ctl.link n).peer fun r => memberDown r.serial (b.ctl.link n).packets)).run
        ((Act.when (b.ctl.inJobLink n) (Act.each ((List.range 4).filter fun k => !(b.ctl.link n).retired.getLsbD k) (chargeLane n))).run
          ((b.withLink n fun l => l.cleared.enter .circuitDown).accept 0x0105 (linkSource n) (if b.ctl.inJobLink n then 1 else 0))) := by
  obtain ⟨i, hi, hi4⟩ := hsome
  have hleft : (((List.finRange 5).filter fun i => !(b.ctl.link n).retired.getLsbD i.val && (boardLink n || decide (i.val < 4))).filter
      fun i => !lanes.contains i) = [] := by
    simp only [hfront, Bool.false_or, List.filter_filter, List.filter_eq_nil_iff, Bool.and_eq_true, Bool.not_eq_true', decide_eq_true_eq, not_and,
      List.contains_eq_mem, decide_eq_false_iff_not]
    exact fun j _ hout hj hj4 => hout (hall j hj hj4)
  have hhere : 0 < ((List.finRange 5).filter fun i => !(b.ctl.link n).retired.getLsbD i.val && (boardLink n || decide (i.val < 4))).length :=
    List.length_pos_of_mem (a := i) (List.mem_filter.2 ⟨List.mem_finRange i, by simp only [hi, decide_eq_true hi4, Bool.or_true, Bool.not_false, Bool.and_self]⟩)
  rw [signalLossAct, run_look]
  simp only [hleft, List.length_nil, decide_eq_true hhere, halive, hcar, Bool.true_or, Bool.and_self, run_when_true]
  simp only [hfront, Bool.false_eq_true, if_false, List.isEmpty_nil, Bool.not_true, run_all_cons, run_all_nil, run_updLink, run_raise]

/-- Signal lost on every lane of a board link. -/
theorem run_signalLossAct_board {lanes : List (Fin 5)} (halive : b.ctl.linksAlive = true) (hcar : (b.ctl.link n).state.carries = true)
    (hboard : boardLink n = true) (hsome : ∃ i : Fin 5, (b.ctl.link n).retired.getLsbD i.val = false)
    (hall : ∀ i : Fin 5, (b.ctl.link n).retired.getLsbD i.val = false → i ∈ lanes) :
    (signalLossAct n lanes).run b = (linkDown n .down 0 0 5).run b := by
  obtain ⟨i, hi⟩ := hsome
  have hleft : (((List.finRange 5).filter fun i => !(b.ctl.link n).retired.getLsbD i.val && (boardLink n || decide (i.val < 4))).filter
      fun i => !lanes.contains i) = [] := by
    simp only [hboard, Bool.true_or, Bool.and_true, List.filter_filter, List.filter_eq_nil_iff, Bool.and_eq_true, Bool.not_eq_true', not_and,
      List.contains_eq_mem, decide_eq_false_iff_not]
    exact fun j _ hout hj => hout (hall j hj)
  have hhere : 0 < ((List.finRange 5).filter fun i => !(b.ctl.link n).retired.getLsbD i.val && (boardLink n || decide (i.val < 4))).length :=
    List.length_pos_of_mem (a := i) (List.mem_filter.2 ⟨List.mem_finRange i, by simp only [hi, hboard, Bool.true_or, Bool.not_false, Bool.and_self]⟩)
  rw [signalLossAct, run_look]
  simp only [hleft, List.length_nil, decide_eq_true hhere, halive, hcar, Bool.true_or, Bool.and_self, run_when_true]
  simp only [hboard, if_true, List.isEmpty_nil]

/-! ## Cages (R329) -/

/-- The block that holds a reading of a cage. -/
def Block.caged (b : Block) (cage : Nat) (r : CageReading) : Block :=
  { b with ctl := { b.ctl with links := { b.ctl.links with cages := Tab.set none b.ctl.links.cages cage (some r) } } }

theorem run_cageReading_kept {cage : Nat} {r : CageReading} (hp : r.present = true) (hdraw : r.drawW ≤ 16)
    (hok : r.passiveCu = true ∨ (r.declaredW ≤ 16 ∧ r.suitable = true ∧ r.alarm = false)) : (cageReading cage r).run b = b.caged cage r := by
  have hfine : (r.passiveCu || (decide (r.declaredW ≤ 16) && r.suitable && !r.alarm)) = true := by
    rcases hok with hcu | ⟨hw, hs, ha⟩
    · rw [hcu, Bool.true_or]
    · rw [decide_eq_true hw, hs, ha]
      exact Bool.or_true _
  simp only [cageReading, run_look, hp, Bool.not_true, Bool.false_eq_true, if_false, hfine, run_when_false, decide_eq_false (Nat.not_lt.2 hdraw),
    Bool.and_false, Bool.false_and, run_all_cons, run_all_nil]
  rfl

/-- Links that are down already do not go down with their cage. -/
theorem run_cageDown_down {cage cause : Nat} (h0 : (b.ctl.link (56 + 2 * cage)).state = .down) (h1 : (b.ctl.link (57 + 2 * cage)).state = .down) :
    (cageDown cage cause).run b = b := by
  have hcar : LinkState.down.carries = false := rfl
  have htrain : (LinkState.down == .training) = false := rfl
  have hver : (LinkState.down == .versionDown) = false := rfl
  simp only [cageDown, run_each_cons, run_each_nil, run_look, h0, h1, hcar, htrain, hver, Bool.or_self, run_when_false]

/-- The block whose cage has lost its feed. -/
def Block.unfed (b : Block) (cage : Nat) : Block :=
  { b with ctl := { b.ctl with pins := { b.ctl.pins with cageFeed := b.ctl.pins.cageFeed &&& ~~~(BitVec.ofNat 20 (2 ^ cage)) } } }

theorem run_cageReading_overdrawn {cage : Nat} {r : CageReading} (hp : r.present = true) (hdraw : 16 < r.drawW) (hcu : r.passiveCu = true)
    (hfeed : b.ctl.pins.cageFeed.getLsbD cage = true) (h0 : (b.ctl.link (56 + 2 * cage)).state = .down)
    (h1 : (b.ctl.link (57 + 2 * cage)).state = .down) : (cageReading cage r).run b = (b.caged cage r).unfed cage := by
  simp only [cageReading, run_look, hp, Bool.not_true, Bool.false_eq_true, if_false, hcu, Bool.true_or, run_when_false, decide_eq_true hdraw,
    Bool.and_self, hfeed, run_when_true, run_all_cons, run_all_nil, run_seq]
  exact run_cageDown_down (b := (b.caged cage r).unfed cage) h0 h1

theorem getLsbD_without (x : BitVec 20) (cage k : Nat) (hk : k < 20) :
    (x &&& ~~~(BitVec.ofNat 20 (2 ^ cage))).getLsbD k = (x.getLsbD k && decide (k ≠ cage)) := by
  simp only [BitVec.getLsbD_and, BitVec.getLsbD_not, BitVec.getLsbD_ofNat, hk, decide_true, Bool.true_and, Nat.testBit_two_pow]
  by_cases h : cage = k
  · simp [h]
  · simp [h, Ne.symm h]

/-! ## What the obligation says, case by case -/

/-- A good flit that is not the last of its packet. -/
theorem took_acked (h : FlitHead) (l : Link) : ((l.acked h).took h.vc : Link) =
    { (if h.cvc < 6 then l.credit h.cvc h.cnt else l) with
      replayBuf := l.replayBuf.filter (fun x => !covered x.seq h.ack), rxSeq := l.rxSeq + 1, unacked := l.unacked + 1,
      held := l.held.set h.vc (l.held.getD h.vc 0 + 1) } := by
  simp only [Link.acked]
  split <;> rfl

/-- Two entries put at one place: the second stands. -/
theorem Tab.put_put {α : Type} (t : Tab α) (i : Nat) (v w : α) : Tab.put (Tab.put t i v) i w = Tab.put t i w := by
  induction t with
  | nil => simp [Tab.put]
  | cons e t ih =>
    obtain ⟨j, a⟩ := e
    simp only [Tab.put]
    split_ifs with hlt heq
    · simp [Tab.put]
    · simp [Tab.put]
    · simp [Tab.put, hlt, heq, ih]

/-- Two changes of a link that both leave it up are one. -/
theorem withLink_withLink {f g : Link → Link} (hf : (f (b.ctl.link n)).state = .up) (hg : (g (f (b.ctl.link n))).state = .up) :
    (b.withLink n f).withLink n g = b.withLink n fun l => g (f l) := by
  have hreset : ∀ l : Link, l.state = .up → l ≠ Link.reset := fun l h heq => by
    rw [heq] at h
    exact nomatch h
  have hset : ∀ (t : Tab Link) (l : Link), l.state = .up → Tab.set Link.reset t n l = Tab.put t n l := fun t l h => if_neg (hreset l h)
  simp only [Block.withLink, Ctl.link, Tab.get_set_self]
  simp only [Ctl.link] at hf hg
  rw [hset _ _ hg, hset _ _ hf, Tab.put_put, hset _ _ hg]

theorem sameOutside_withLink (b : Block) (n : Nat) (f : Link → Link) : b.SameOutside (b.withLink n f) :=
  ⟨rfl, rfl, rfl, rfl, rfl, rfl, rfl, rfl, rfl, rfl, rfl, rfl⟩

theorem sameOutside_delivered (b : Block) (key : Nat) : b.SameOutside (b.delivered key) :=
  ⟨rfl, rfl, rfl, rfl, rfl, rfl, rfl, rfl, rfl, rfl, rfl, rfl⟩

/-- A lane lost while others are left (R308). -/
theorem laneLoss_yields (s : State) (n : Fin 96) (lane : Fin 5) (halive : s.block.ctl.linksAlive = true)
    (hcar : (s.block.ctl.link n.val).state.carries = true) (hlane : (s.block.ctl.link n.val).retired.getLsbD lane.val = false)
    (hhere : n.val < 56 ∨ lane.val < 4) {r : BitVec 5} (hr : r = (s.block.ctl.link n.val).retired ||| BitVec.ofNat 5 (2 ^ lane.val))
    (hleft : lanesOf n.val r ≠ 0) (hfew : ∀ x ∈ (s.block.ctl.link n.val).replayBuf, x.replays + 1 < 8) :
    ∃ (spare : Bool) (new : List Sent) (t : Block), Runs (.laneLoss n lane) s t ∧
      t.ctl.link n.val = ((s.block.ctl.link n.val).narrowed r spare (lanesOf n.val r)).resent ∧
      t.out = new ++ s.block.out ∧ new.length = (s.block.ctl.link n.val).replayBuf.length ∧ (∀ x ∈ new, x.dest = .link n.val) ∧
      t.ctl.health.spares.lanes = s.block.ctl.health.spares.lanes ++ [n.val * 8 + lane.val] ∧ s.block.arb.next + 2 ≤ t.arb.next ∧
      s.block.OtherLinks t n.val ∧ s.block.SameData { t with fresh := s.block.fresh } := by
  have hhere' : (boardLink n.val || decide (lane.val < 4)) = true := by simpa [boardLink] using hhere
  obtain ⟨spare, detail, unit, hretire⟩ := run_retireLane_carrying (reason := 1) hcar hlane hhere' hr hleft
  have hbuf : ((s.block.withLink n.val (Link.narrowed r spare (lanesOf n.val r))).ctl.link n.val).replayBuf = (s.block.ctl.link n.val).replayBuf := by
    rw [link_withLink_same]
    rfl
  obtain ⟨k, new, hreplay, hlen, hdest⟩ := run_replayAll (b := s.block.withLink n.val (Link.narrowed r spare (lanesOf n.val r))) (n := n.val)
    (by rw [hbuf]; exact hfew)
  have hrun : (laneLossAct n.val lane.val).run s.block = Block.laneReported (((s.block.withLink n.val
      (Link.narrowed r spare (lanesOf n.val r))).withLink n.val Link.resent).drawing k new) n.val (n.val * 8 + lane.val)
      (linkSource n.val) detail unit 1 := by
    simp only [laneLossAct, run_look, halive, hcar, Bool.true_or, Bool.and_self, run_when_true, hretire, hreplay]
  have hon := (onLink_withLink s.block n.val (Link.narrowed r spare (lanesOf n.val r))).trans (onLink_withLink _ n.val Link.resent)
  have hlinks : (((s.block.withLink n.val (Link.narrowed r spare (lanesOf n.val r))).withLink n.val Link.resent).ctl.link n.val) =
      ((s.block.ctl.link n.val).narrowed r spare (lanesOf n.val r)).resent := by rw [link_withLink_same, link_withLink_same]
  have hspares : ((s.block.withLink n.val (Link.narrowed r spare (lanesOf n.val r))).withLink n.val Link.resent).ctl.health =
    s.block.ctl.health := rfl
  have harb : ((s.block.withLink n.val (Link.narrowed r spare (lanesOf n.val r))).withLink n.val Link.resent).arb = s.block.arb := rfl
  generalize (s.block.withLink n.val (Link.narrowed r spare (lanesOf n.val r))).withLink n.val Link.resent = c at hon hlinks hspares harb hrun
  have hrep := laneReported_reports (c.drawing k new) n.val (n.val * 8 + lane.val) (linkSource n.val) detail unit 1
  have hnext := laneReported_raised (c.drawing k new) n.val (n.val * 8 + lane.val) (linkSource n.val) detail unit 1
  have hdata : (c.drawing k new).SameData _ := hrep.data
  refine ⟨spare, new, _, runs_of_perform rfl hrun, (hrep.links n.val).trans hlinks, hrep.out.trans (congrArg (new ++ ·) hon.out), hlen.trans (by rw [hbuf]),
    hdest, (congrArg (·.lanes) hrep.spares).trans ?_, ?_, fun m hm => (hrep.links m).trans (hon.others m hm),
    sameData_fresh_trans (sameData_drawing hon.data k new) hdata⟩
  · exact congrArg (fun h : Health => h.spares.lanes ++ [n.val * 8 + lane.val]) hspares
  · exact harb ▸ hnext

/-- Signal lost on every lane of a link (R325, R326). -/
theorem signalLoss_yields (s : State) (n : Fin 96) (lanes : List (Fin 5)) (halive : s.block.ctl.linksAlive = true)
    (hcar : (s.block.ctl.link n.val).state.carries = true) (hsafe : s.block.ctl.SafeToLose n.val)
    (hsome : ∃ i : Fin 5, (s.block.ctl.link n.val).retired.getLsbD i.val = false ∧ (n.val < 56 ∨ i.val < 4))
    (hall : ∀ i : Fin 5, (s.block.ctl.link n.val).retired.getLsbD i.val = false → (n.val < 56 ∨ i.val < 4) → i ∈ lanes) :
    Yields (.signalLoss n lanes) s fun t =>
      (56 ≤ n.val → (t.ctl.link n.val).state = .circuitDown ∧
        (s.block.ctl.inJobLink n.val = false → s.block.Raised t 0x0105 (linkSource n.val) 0) ∧
        (s.block.ctl.inJobLink n.val = true → s.block.arb.next < t.arb.next ∧
          ∃ r ∈ t.ctl.health.history, r.cls = 6 ∧ r.unit / 8 = n.val ∧ r.time = s.block.lhTime)) ∧
      (n.val < 56 → (t.ctl.link n.val).state = .down ∧ (t.ctl.link n.val).lastCause = 5 ∧ s.block.Raised t 0x0101 (linkSource n.val) 5) ∧
      (t.ctl.link n.val).lanes = 0 ∧ s.block.OtherLinks t n.val ∧ s.block.SameData t := by
  rcases Nat.lt_or_ge n.val 56 with hboard | hfront
  · have hrun := run_signalLossAct_board halive hcar (by simpa [boardLink] using hboard) (hsome.imp fun _ h => h.1)
      fun i hi => hall i hi (.inl hboard)
    have hlost := linkLost_linkDown hsafe .down 0 0 5
    refine ⟨_, runs_of_perform rfl hrun, fun h => absurd hboard (Nat.not_lt.2 h), fun _ => ⟨?_, ?_, hlost.raised⟩, ?_, hlost.others, hlost.data⟩
    · rw [hlost.link]
      exact state_enter _ _
    · rw [hlost.link]
      rfl
    · rw [hlost.link]
      exact lanes_enter _ _
  · have hnot : ¬n.val < 56 := Nat.not_lt.2 hfront
    have hsome' : ∃ i : Fin 5, (s.block.ctl.link n.val).retired.getLsbD i.val = false ∧ i.val < 4 :=
      hsome.imp fun _ h => ⟨h.1, h.2.resolve_left hnot⟩
    have hrun := run_signalLossAct_front halive hcar (decide_eq_false hnot) hsome' fun i hi h4 => hall i hi (.inr h4)
    have hon := (onLink_withLink s.block n.val fun l => l.cleared.enter .circuitDown).trans
      (onLink_accept _ n.val 0x0105 (linkSource n.val) (if s.block.ctl.inJobLink n.val then 1 else 0))
    have hraised : s.block.Raised ((s.block.withLink n.val fun l => l.cleared.enter .circuitDown).accept 0x0105 (linkSource n.val)
      (if s.block.ctl.inJobLink n.val then 1 else 0)) 0x0105 (linkSource n.val) (if s.block.ctl.inJobLink n.val then 1 else 0) := rfl
    have hjob : ((s.block.withLink n.val fun l => l.cleared.enter .circuitDown).accept 0x0105 (linkSource n.val)
      (if s.block.ctl.inJobLink n.val then 1 else 0)).ctl.job = s.block.ctl.job := rfl
    have hpair : ((s.block.withLink n.val fun l => l.cleared.enter .circuitDown).accept 0x0105 (linkSource n.val)
      (if s.block.ctl.inJobLink n.val then 1 else 0)).ctl.pair = s.block.ctl.pair := rfl
    have hstate : (((s.block.withLink n.val fun l => l.cleared.enter .circuitDown).accept 0x0105 (linkSource n.val)
        (if s.block.ctl.inJobLink n.val then 1 else 0)).ctl.link n.val).state = .circuitDown := by
      rw [link_accept, link_withLink_same, state_enter]
    have hlanes : (((s.block.withLink n.val fun l => l.cleared.enter .circuitDown).accept 0x0105 (linkSource n.val)
        (if s.block.ctl.inJobLink n.val then 1 else 0)).ctl.link n.val).lanes = 0 := by
      rw [link_accept, link_withLink_same, lanes_enter]
      rfl
    generalize (s.block.withLink n.val fun l => l.cleared.enter .circuitDown).accept 0x0105 (linkSource n.val)
      (if s.block.ctl.inJobLink n.val then 1 else 0) = c at hrun hon hraised hjob hpair hstate hlanes
    have hlt : ∀ k ∈ (List.range 4).filter (fun k => !(s.block.ctl.link n.val).retired.getLsbD k), k < 4 := fun k hk =>
      List.mem_range.1 (List.mem_filter.1 hk).1
    have hne : (List.range 4).filter (fun k => !(s.block.ctl.link n.val).retired.getLsbD k) ≠ [] := by
      obtain ⟨i, hi, hi4⟩ := hsome'
      exact List.ne_nil_of_mem (a := i.val) (List.mem_filter.2 ⟨List.mem_range.2 hi4, by rw [hi]; rfl⟩)
    have hcharges := run_chargeLanes (n := n.val) _ hlt c hstate
    obtain ⟨d, hd, hch, hidle, hrec⟩ : ∃ d, (Act.when (s.block.ctl.inJobLink n.val)
        (Act.each ((List.range 4).filter fun k => !(s.block.ctl.link n.val).retired.getLsbD k) (chargeLane n.val))).run c = d ∧ c.Charged d n.val ∧
        (s.block.ctl.inJobLink n.val = false → d.arb = c.arb) ∧
        (s.block.ctl.inJobLink n.val = true → ∃ k < 4, d.Recorded (n.val * 8 + k) c.lhTime) := by
      cases s.block.ctl.inJobLink n.val with
      | false => exact ⟨c, rfl, .refl c _, fun _ => rfl, fun h => (nomatch h)⟩
      | true => exact ⟨_, rfl, hcharges.1, fun h => (nomatch h), fun _ => hcharges.2 hne⟩
    rw [hd] at hrun
    have hsafe' : (s.block.ctl.link n.val).state ≠ .up ∨ (d.ctl.job.inJob = false ∧ d.ctl.pair.role = .unbound) := by
      rw [hch.job, hch.pair, hjob, hpair]
      exact hsafe
    obtain ⟨bs, out, hleave⟩ := run_leave_safe hsafe'
    rw [hleave] at hrun
    have hlink := link_bundling d bs out n.val
    refine ⟨_, runs_of_perform rfl hrun, fun _ => ⟨?_, fun hidle' => ?_, fun hin => ⟨?_, ?_⟩⟩, fun h => absurd h hnot, ?_,
      hon.others.trans hch.others, (hon.data.trans hch.data).trans (sameData_bundling d bs out)⟩
    · rw [hlink, hch.state, hstate]
    · rw [hidle'] at hraised
      exact (hidle hidle').trans hraised
    · exact Nat.lt_of_lt_of_le (by rw [hraised]; exact Nat.lt_succ_self _) hch.raised
    · obtain ⟨k, hk, r, hr, hcls, hunit, htime⟩ := hrec hin
      exact ⟨r, hr, hcls, by omega, htime.trans hon.data.lhTime_eq⟩
    · rw [hlink, hch.lanes, hlanes]

/-- Settles O50. -/
theorem flitsLanesAndCages : Obligations.FlitsLanesAndCages := by
  unfold Obligations.FlitsLanesAndCages
  refine ⟨?bad, ?good, ?ack, ?gap, ?lane, signalLoss_yields, ?cage, ?feed⟩
  case bad =>
    intro s n f fecOk halive hcar hbad
    exact runs_of_perform rfl ((run_flitReceiveAct_bad halive hcar hbad).trans (run_sendControl _ _ _))
  case good =>
    intro s n f peer l h halive hst hpeer hok hvc hnak hidle hseq hun hpower hdel k m key
    have hdel' : (s.block.withLink n.val (Link.acked · h)).ctl.delivers n.val h.vc = true := by
      rw [delivers_withLink s.block n.val (f := (Link.acked · h)) (state_acked l h) (peer_acked l h)]
      exact hdel
    have hst' : ((s.block.withLink n.val (Link.acked · h)).ctl.link n.val).state = .up := by
      rw [link_withLink_same, acked_eq]
      exact hst
    have hup : (l.acked h).state = .up := (state_acked l h).trans hst
    have hm : (l.acked h).took h.vc = m := took_acked h l
    constructor
    · intro hlast
      have hrun := run_flitReceiveAct halive hst hok hvc hnak hidle hseq hun hpower (run_takeFlitIn_more hst' hdel' hlast)
      rw [withLink_withLink (f := (Link.acked · h)) (g := (Link.took · h.vc)) hup hup, withLink_congr (b := s.block) (n := n.val) (f := fun l => (l.acked h).took h.vc) (g := fun _ => m) hm] at hrun
      exact runs_of_perform rfl hrun
    · intro hlast
      have hpeer' : ((s.block.withLink n.val (Link.acked · h)).ctl.link n.val).peer = some peer := by
        rw [link_withLink_same, acked_eq]
        exact hpeer
      have hrun := run_flitReceiveAct halive hst hok hvc hnak hidle hseq hun hpower (run_takeFlitIn_last hst' hdel' hpeer' hlast)
      rw [withLink_withLink (f := (Link.acked · h)) (g := (Link.took · h.vc)) hup hup, withLink_congr (b := s.block) (n := n.val) (f := fun l => (l.acked h).took h.vc) (g := fun _ => m) hm] at hrun
      have hon := (otherLinks_withLink s.block n.val fun _ => m).trans
        (otherLinks_withLink (s.block.withLink n.val fun _ => m) n.val fun l => l.release h.vc (l.held.getD h.vc 0))
      have hout := (sameOutside_withLink s.block n.val fun _ => m).trans
        (sameOutside_withLink (s.block.withLink n.val fun _ => m) n.val fun l => l.release h.vc (l.held.getD h.vc 0))
      have hnext : ((s.block.withLink n.val fun _ => m).withLink n.val fun l => l.release h.vc (l.held.getD h.vc 0)).ctl.links.bundles =
        s.block.ctl.links.bundles := rfl
      have hlink : ((s.block.withLink n.val fun _ => m).withLink n.val fun l => l.release h.vc (l.held.getD h.vc 0)).ctl.link n.val =
          m.release h.vc (m.held.getD h.vc 0) := by rw [link_withLink_same, link_withLink_same]
      generalize (s.block.withLink n.val fun _ => m).withLink n.val (fun l => l.release h.vc (l.held.getD h.vc 0)) = c at hrun hon hout hnext hlink
      refine ⟨_, runs_of_perform rfl hrun, hlink, ?_, fun j hj => ?_, hon, hout.trans (sameOutside_delivered _ _)⟩
      · rw [← hnext]
        exact (next_delivered _ _ _).trans (if_pos rfl)
      · rw [← hnext]
        exact (next_delivered _ _ _).trans (if_neg hj)
  case ack =>
    intro s n halive hcar hun
    exact ⟨runs_of_perform rfl ((run_ackTimerAct halive hcar hun).trans (run_sendControl _ _ _)), rfl⟩
  case gap =>
    intro s m hlost
    have hne : (!m.lost.isEmpty) = true := by simpa using hlost
    refine ⟨_, runs_of_perform rfl (run_gapNoticeAct (b := s.block) hne), fun x hx => ?_, fun k hk => Tab.get_set_other _ _ _ _ _ hk,
      Tab.get_set_self _ _ _ _, rfl⟩
    rw [Block.skipping, Tab.get_set_self]
    exact lt_foldl_max _ _ x hx
  case lane =>
    intro s n lane l r halive hcar hlane hhere hleft hfew
    obtain ⟨spare, new, t, hrun, hlink, hout, hlen, hdest, hspares, hnext, hothers, hdata⟩ :=
      laneLoss_yields s n lane halive hcar hlane hhere (r := r) rfl hleft hfew
    have hcar' : l.state.carries = true := hcar
    refine ⟨t, hrun, ?_⟩
    dsimp only
    rw [hlink]
    refine ⟨rfl, ?_, rfl, rfl, rfl, rfl, ?_, ⟨new, hout, hlen, hdest⟩, rfl, rfl, hspares, hnext, hothers, hdata⟩
    · exact if_pos hcar'
    · simp only [Link.resent, Link.again, List.length_map]
      rfl
  case cage =>
    intro s cage r halive hp hdraw hok
    have hread := run_cageReading_kept (b := s.block) (cage := cage.val) hp hdraw hok
    refine ⟨runs_of_perform rfl ?_, fun hsome => runs_of_perform rfl ?_⟩
    · rw [cageInsertAct, run_look, halive, run_when_true, hread]
      rfl
    · rw [cmisPollAct, run_look, halive, hsome, Bool.and_self, run_when_true, hread]
      rfl
  case feed =>
    intro s cage r halive hp hdraw hcu hfeed h0 h1
    have hread := run_cageReading_overdrawn (b := s.block) (cage := cage.val) hp hdraw hcu hfeed h0 h1
    have hrun : (cageInsertAct cage.val r).run s.block = (s.block.caged cage.val r).unfed cage.val := by
      rw [cageInsertAct, run_look, halive, run_when_true, hread]
    refine ⟨_, runs_of_perform rfl hrun, ?_, fun k hk hne => ?_, ⟨rfl, rfl, rfl, rfl, rfl, rfl, rfl, rfl, rfl, rfl, rfl, rfl⟩, rfl⟩
    · exact (getLsbD_without _ _ _ cage.isLt).trans (by simp)
    · exact (getLsbD_without _ _ _ hk).trans (by rw [decide_eq_true hne, Bool.and_true]; rfl)

end Flits

end Sys2Proof.Machine


namespace Sys2Proof.Machine

/-! # Which parts of the block a tree of effects may change -/

/-- The parts of the block that may change: all that lies outside the control state, and each part of the control state. -/
structure Scope where
  mem    : Bool := false
  host   : Bool := false
  flash  : Bool := false
  nor    : Bool := false
  sems   : Bool := false
  arb    : Bool := false
  time   : Bool := false
  fuses  : Bool := false
  lrs    : Bool := false
  out    : Bool := false
  fresh  : Bool := false
  glb    : Bool := false
  pins   : Bool := false
  hif    : Bool := false
  power  : Bool := false
  lh     : Bool := false
  plan   : Bool := false
  job    : Bool := false
  fw     : Bool := false
  engine : Bool := false
  links  : Bool := false
  pair   : Bool := false
  health : Bool := false
  shoal  : Bool := false
  sec    : Bool := false
  bar2   : Bool := false

/-- Every part of the control state outside the scope is the same. -/
structure Ctl.Keeps (S : Scope) (c d : Ctl) : Prop where
  glb    : S.glb = false → d.glb = c.glb := by exact fun _ => rfl
  pins   : S.pins = false → d.pins = c.pins := by exact fun _ => rfl
  hif    : S.hif = false → d.hif = c.hif := by exact fun _ => rfl
  power  : S.power = false → d.power = c.power := by exact fun _ => rfl
  lh     : S.lh = false → d.lh = c.lh := by exact fun _ => rfl
  plan   : S.plan = false → d.plan = c.plan := by exact fun _ => rfl
  job    : S.job = false → d.job = c.job := by exact fun _ => rfl
  fw     : S.fw = false → d.fw = c.fw := by exact fun _ => rfl
  engine : S.engine = false → d.engine = c.engine := by exact fun _ => rfl
  links  : S.links = false → d.links = c.links := by exact fun _ => rfl
  pair   : S.pair = false → d.pair = c.pair := by exact fun _ => rfl
  health : S.health = false → d.health = c.health := by exact fun _ => rfl
  shoal  : S.shoal = false → d.shoal = c.shoal := by exact fun _ => rfl
  sec    : S.sec = false → d.sec = c.sec := by exact fun _ => rfl
  bar2   : S.bar2 = false → d.bar2Err = c.bar2Err := by exact fun _ => rfl

/-- Every part of the block outside the scope is the same. -/
structure Block.Keeps (S : Scope) (b t : Block) : Prop where
  mem    : S.mem = false → t.mem = b.mem := by exact fun _ => rfl
  host   : S.host = false → t.host = b.host := by exact fun _ => rfl
  flash  : S.flash = false → t.flash = b.flash := by exact fun _ => rfl
  nor0   : S.nor = false → t.nor0 = b.nor0 := by exact fun _ => rfl
  nor1   : S.nor = false → t.nor1 = b.nor1 := by exact fun _ => rfl
  sems   : S.sems = false → t.sems = b.sems := by exact fun _ => rfl
  arb    : S.arb = false → t.arb = b.arb := by exact fun _ => rfl
  time   : S.time = false → t.lhTime = b.lhTime := by exact fun _ => rfl
  fuses  : S.fuses = false → t.fuses = b.fuses := by exact fun _ => rfl
  lrs    : S.lrs = false → t.lrs = b.lrs := by exact fun _ => rfl
  out    : S.out = false → t.out = b.out := by exact fun _ => rfl
  fresh  : S.fresh = false → t.fresh = b.fresh := by exact fun _ => rfl
  ctl    : b.ctl.Keeps S t.ctl := by exact {}

section Keeps
variable {S : Scope}

theorem Ctl.Keeps.refl (c : Ctl) : c.Keeps S c := {}

theorem Ctl.Keeps.trans {c d e : Ctl} (h : c.Keeps S d) (h' : d.Keeps S e) : c.Keeps S e where
  glb hs := (h'.glb hs).trans (h.glb hs)
  pins hs := (h'.pins hs).trans (h.pins hs)
  hif hs := (h'.hif hs).trans (h.hif hs)
  power hs := (h'.power hs).trans (h.power hs)
  lh hs := (h'.lh hs).trans (h.lh hs)
  plan hs := (h'.plan hs).trans (h.plan hs)
  job hs := (h'.job hs).trans (h.job hs)
  fw hs := (h'.fw hs).trans (h.fw hs)
  engine hs := (h'.engine hs).trans (h.engine hs)
  links hs := (h'.links hs).trans (h.links hs)
  pair hs := (h'.pair hs).trans (h.pair hs)
  health hs := (h'.health hs).trans (h.health hs)
  shoal hs := (h'.shoal hs).trans (h.shoal hs)
  sec hs := (h'.sec hs).trans (h.sec hs)
  bar2 hs := (h'.bar2 hs).trans (h.bar2 hs)

theorem Block.Keeps.refl (b : Block) : b.Keeps S b := {}

theorem Block.Keeps.trans {b c d : Block} (h : b.Keeps S c) (h' : c.Keeps S d) : b.Keeps S d where
  mem hs := (h'.mem hs).trans (h.mem hs)
  host hs := (h'.host hs).trans (h.host hs)
  flash hs := (h'.flash hs).trans (h.flash hs)
  nor0 hs := (h'.nor0 hs).trans (h.nor0 hs)
  nor1 hs := (h'.nor1 hs).trans (h.nor1 hs)
  sems hs := (h'.sems hs).trans (h.sems hs)
  arb hs := (h'.arb hs).trans (h.arb hs)
  time hs := (h'.time hs).trans (h.time hs)
  fuses hs := (h'.fuses hs).trans (h.fuses hs)
  lrs hs := (h'.lrs hs).trans (h.lrs hs)
  out hs := (h'.out hs).trans (h.out hs)
  fresh hs := (h'.fresh hs).trans (h.fresh hs)
  ctl := h.ctl.trans h'.ctl

/-- The effect changes nothing outside the scope. -/
def Eff.In (S : Scope) : Eff → Prop
  | .mem _ _ | .memClear => S.mem = true ∧ S.lrs = true
  | .host _ _ => S.host = true
  | .flash _ _ | .flashErase => S.flash = true
  | .nor _ _ _ | .norErase _ => S.nor = true
  | .signal _ _ => S.sems = true ∧ S.arb = true ∧ S.power = true
  | .poison _ | .semReset _ _ => S.sems = true
  | .raise _ _ _ => S.arb = true ∧ S.power = true
  | .dequeue _ | .arbReset => S.arb = true
  | .tick _ | .timeLost => S.time = true
  | .rollback _ | .enrol _ _ | .revoke _ | .debugOwner => S.fuses = true
  | .send _ _ => S.out = true
  | .reserve _ _ _ => S.lrs = true
  | .fresh => S.fresh = true
  | .upd f => ∀ c, Ctl.Keeps S c (f c)

theorem keeps_accept (harb : S.arb = true) (hpower : S.power = true) (b : Block) (code source detail : Nat) :
    b.Keeps S (b.accept code source detail) where
  arb hs := absurd (harb.symm.trans hs) (by decide)
  ctl := { power := fun hs => absurd (hpower.symm.trans hs) (by decide) }

theorem keeps_apply {e : Eff} (he : e.In S) (b : Block) : b.Keeps S (e.apply b) := by
  have no : ∀ {x : Bool} {p : Prop}, x = true → x = false → p := fun h h' => absurd (h.symm.trans h') (by decide)
  cases e with
  | mem a bs => exact { mem := no he.1, lrs := no he.2 }
  | memClear => exact { mem := no he.1, lrs := no he.2 }
  | host a bs => exact { host := no he }
  | flash a bs => exact { flash := no he }
  | flashErase => exact { flash := no he }
  | nor dev a bs =>
    cases dev
    · exact { nor0 := no he }
    · exact { nor1 := no he }
  | norErase dev =>
    cases dev
    · exact { nor0 := no he }
    · exact { nor1 := no he }
  | signal s n =>
    have hsem : b.Keeps S { b with sems := Tab.set 0 b.sems s (semSignal (b.sem s) n) } := { sems := no he.1 }
    simp only [Eff.apply]
    split
    · exact hsem.trans (keeps_accept he.2.1 he.2.2 _ _ _ _)
    · exact hsem
  | poison s => exact { sems := no he }
  | semReset s v => exact { sems := no he }
  | raise c s d => exact keeps_accept he.1 he.2 b c s d
  | dequeue port => exact { arb := no he }
  | arbReset => exact { arb := no he }
  | tick ns => exact { time := no he }
  | timeLost => exact { time := no he }
  | rollback n => exact { fuses := no he }
  | enrol k h => exact { fuses := no he }
  | revoke k => exact { fuses := no he }
  | debugOwner => exact { fuses := no he }
  | send d m => exact { out := no he }
  | reserve c t r => exact { lrs := no he }
  | fresh => exact { fresh := no he }
  | upd f => exact { ctl := he b.ctl }

/-- A tree of effects within a scope changes nothing outside it. -/
theorem Act.Only.keepsScope {a : Act} (ha : a.Only (Eff.In S)) (b : Block) : b.Keeps S (a.run b) :=
  Act.Only.keeps b (Eff.In S) (fun t => b.Keeps S t) (fun c _ he hc => hc.trans (keeps_apply he c)) a ha (.refl b)

end Keeps

/-! ## Trees that hold only effects of a kind, part by part -/

section Parts
variable {P : Eff → Prop}

theorem only_seq_iff (a t : Act) : (a.seq t).Only P ↔ a.Only P ∧ t.Only P := by
  induction a with
  | done => exact ⟨fun h => ⟨trivial, h⟩, fun h => h.2⟩
  | eff e k ih => exact (and_congr_right fun _ => ih).trans and_assoc.symm
  | look f ih =>
    exact (forall_congr' fun b => ih b).trans ⟨fun h => ⟨fun b => (h b).1, (h Block.reset).2⟩, fun h b => ⟨h.1 b, h.2⟩⟩

theorem only_all_nil : (Act.all []).Only P ↔ True := Iff.rfl

theorem only_all_cons (a : Act) (as : List Act) : (Act.all (a :: as)).Only P ↔ a.Only P ∧ (Act.all as).Only P := only_seq_iff a (Act.all as)

theorem only_each_iff {α : Type} (xs : List α) (f : α → Act) : (Act.each xs f).Only P ↔ ∀ x ∈ xs, (f x).Only P := by
  induction xs with
  | nil => exact ⟨fun _ _ hx => absurd hx List.not_mem_nil, fun _ => trivial⟩
  | cons x xs ih =>
    rw [List.forall_mem_cons, ← ih]
    exact only_seq_iff (f x) (Act.each xs f)

theorem only_when_iff (c : Bool) (a : Act) : (Act.when c a).Only P ↔ (c = true → a.Only P) := by
  cases c
  · exact ⟨fun _ h => (nomatch h), fun _ => trivial⟩
  · exact ⟨fun h _ => h, fun h => h rfl⟩

theorem only_opt_iff {α : Type} (o : Option α) (f : α → Act) : (Act.opt o f).Only P ↔ ∀ x, o = some x → (f x).Only P := by
  cases o with
  | none => exact ⟨fun _ _ h => (nomatch h), fun _ => trivial⟩
  | some x => exact ⟨fun h y hy => Option.some.inj hy ▸ h, fun h => h x rfl⟩

theorem only_ite_iff (p : Prop) [Decidable p] (a t : Act) : (if p then a else t).Only P ↔ (p → a.Only P) ∧ (¬p → t.Only P) := by
  split
  next h => exact ⟨fun ha => ⟨fun _ => ha, fun hn => absurd h hn⟩, fun h' => h'.1 h⟩
  next h => exact ⟨fun ht => ⟨fun hp => absurd hp h, fun _ => ht⟩, fun h' => h'.2 h⟩

end Parts

/-! ## The scope of the shared operations -/

section Shared
variable {S : Scope}

theorem only_glb (h : S.glb = true) (f : Ctl → Glb) : (Act.upd fun c => { c with glb := f c }).Only (Eff.In S) :=
  (only_upd _ _).2 fun _ => { glb := fun hs => absurd (h.symm.trans hs) (by decide) }

theorem only_pins (h : S.pins = true) (f : Ctl → Pins) : (Act.upd fun c => { c with pins := f c }).Only (Eff.In S) :=
  (only_upd _ _).2 fun _ => { pins := fun hs => absurd (h.symm.trans hs) (by decide) }

theorem only_hif (h : S.hif = true) (f : Ctl → HostIf) : (Act.upd fun c => { c with hif := f c }).Only (Eff.In S) :=
  (only_upd _ _).2 fun _ => { hif := fun hs => absurd (h.symm.trans hs) (by decide) }

theorem only_plan (h : S.plan = true) (f : Ctl → Plan) : (Act.upd fun c => { c with plan := f c }).Only (Eff.In S) :=
  (only_upd _ _).2 fun _ => { plan := fun hs => absurd (h.symm.trans hs) (by decide) }

theorem only_job (h : S.job = true) (f : Ctl → Job) : (Act.upd fun c => { c with job := f c }).Only (Eff.In S) :=
  (only_upd _ _).2 fun _ => { job := fun hs => absurd (h.symm.trans hs) (by decide) }

theorem only_fw (h : S.fw = true) (f : Ctl → PageFw) : (Act.upd fun c => { c with fw := f c }).Only (Eff.In S) :=
  (only_upd _ _).2 fun _ => { fw := fun hs => absurd (h.symm.trans hs) (by decide) }

theorem only_engine (h : S.engine = true) (f : Ctl → Engine) : (Act.upd fun c => { c with engine := f c }).Only (Eff.In S) :=
  (only_upd _ _).2 fun _ => { engine := fun hs => absurd (h.symm.trans hs) (by decide) }

theorem only_links (h : S.links = true) (f : Ctl → Links) : (Act.upd fun c => { c with links := f c }).Only (Eff.In S) :=
  (only_upd _ _).2 fun _ => { links := fun hs => absurd (h.symm.trans hs) (by decide) }

theorem only_pair (h : S.pair = true) (f : Ctl → Pair) : (Act.upd fun c => { c with pair := f c }).Only (Eff.In S) :=
  (only_upd _ _).2 fun _ => { pair := fun hs => absurd (h.symm.trans hs) (by decide) }

theorem only_health (h : S.health = true) (f : Ctl → Health) : (Act.upd fun c => { c with health := f c }).Only (Eff.In S) :=
  (only_upd _ _).2 fun _ => { health := fun hs => absurd (h.symm.trans hs) (by decide) }

theorem only_shoal (h : S.shoal = true) (f : Ctl → Shoal) : (Act.upd fun c => { c with shoal := f c }).Only (Eff.In S) :=
  (only_upd _ _).2 fun _ => { shoal := fun hs => absurd (h.symm.trans hs) (by decide) }

theorem only_setCove (h : S.engine = true) (cove : Nat) (f : Ctl → Cove → Cove) : (Act.upd fun c => c.setCove cove (f c)).Only (Eff.In S) :=
  only_engine h _

theorem only_updCtx (h : S.engine = true) (cove ctx : Nat) (f : Ctx → Ctx) : (updCtx cove ctx f).Only (Eff.In S) := only_engine h _

theorem only_updThread (h : S.engine = true) (cove t : Nat) (f : Thread → Thread) : (updThread cove t f).Only (Eff.In S) := only_engine h _

theorem only_countLs (h : S.engine = true) (e k n : Nat) : (countLs e k n).Only (Eff.In S) := only_engine h _

theorem only_countFw (h : S.engine = true) (n : Nat) : (countFw n).Only (Eff.In S) := by
  simp only [countFw, only_look, only_all_cons, only_all_nil, only_when_iff, only_countLs h, only_engine h, implies_true, and_self]

theorem only_writeVa (hmem : S.mem = true) (hlrs : S.lrs = true) (hout : S.out = true) (sp : Space) (va : Nat) (bytes : Bytes) :
    (writeVa sp va bytes).Only (Eff.In S) := by
  simp only [writeVa, only_look, only_each_iff]
  intro b x _
  split
  · split
    · exact (only_one _ _).2 ⟨hmem, hlrs⟩
    · exact (only_one _ _).2 hout
  · trivial

theorem only_raise (harb : S.arb = true) (hpower : S.power = true) (code source detail : Nat) : (raise code source detail).Only (Eff.In S) :=
  (only_one _ _).2 ⟨harb, hpower⟩

theorem only_history (h : S.health = true) (r : Nat → ErrRec) : (history r).Only (Eff.In S) := fun _ => only_health h _

end Shared

end Sys2Proof.Machine


namespace Sys2Proof.Machine

/-! # Retirement of units and the power-safe store (R57, R401 to R411, R431) -/

section Retire
variable {b : Block} {S : Scope}

/-! ## What the report of a retirement changes -/

theorem only_unitRetired (harb : S.arb = true) (hpower : S.power = true) (hhealth : S.health = true) (cls unit logical spare reason source : Nat) :
    (unitRetired cls unit logical spare reason source).Only (Eff.In S) := by
  simp only [unitRetired, only_all_cons, only_all_nil, only_raise harb hpower, only_history hhealth, only_health hhealth, and_self]

theorem only_spareLow (harb : S.arb = true) (hpower : S.power = true) (hhealth : S.health = true) (cls group left source : Nat) :
    (spareLow cls group left source).Only (Eff.In S) := by
  simp only [spareLow, only_look, only_when_iff, only_all_cons, only_all_nil, only_raise harb hpower, only_health hhealth, and_self, implies_true]

/-- The reports of a retirement go to the arbiter, and change the health and the power's wake alone. -/
abbrev Scope.reports : Scope := { arb := true, power := true, health := true }

/-- A unit's retirement has been reported: what else is planned, copied or replaced stays. -/
structure Block.Retired (b t : Block) (cls unit : Nat) : Prop where
  keeps   : b.Keeps .reports t
  spares  : t.ctl.health.spares = b.ctl.health.spares
  planned : t.ctl.health.planned = b.ctl.health.planned
  copying : t.ctl.health.copying = b.ctl.health.copying
  wanted  : t.ctl.health.wanted = true
  raised  : b.arb.next < t.arb.next
  record  : ∃ r ∈ t.ctl.health.history, r.cls = cls ∧ r.kind = 2 ∧ r.unit = unit ∧ r.time = b.lhTime

/-- A group reported low is marked, and its event raised, or all stays. -/
theorem run_spareLow (b : Block) (cls group left source : Nat) : (spareLow cls group left source).run b = b ∨
    ∃ key detail : Nat, (spareLow cls group left source).run b = (b.accept 0x0201 source detail).withHealth (Health.marked key) := by
  simp only [spareLow, run_look]
  generalize (!b.ctl.health.lowRaised.contains _) = low
  cases low
  · exact .inl rfl
  · exact .inr ⟨_, _, rfl⟩

theorem run_retired (b : Block) (cls unit logical spare reason source cls' group left source' : Nat) :
    b.Retired ((spareLow cls' group left source').run ((unitRetired cls unit logical spare reason source).run b)) cls unit := by
  have hretired : b.Retired ((unitRetired cls unit logical spare reason source).run b) cls unit := by
    refine ⟨(only_unitRetired (S := .reports) rfl rfl rfl cls unit logical spare reason source).keepsScope b, rfl, rfl, rfl, rfl, Nat.lt_succ_self _, ?_⟩
    exact ⟨_, mem_addHistory _ _, rfl, rfl, rfl, rfl⟩
  obtain ⟨hk, hs, hp, hc, hw, hr, hrec⟩ := hretired
  generalize (unitRetired cls unit logical spare reason source).run b = c at hk hs hp hc hw hr hrec
  have hlow := (only_spareLow (S := .reports) rfl rfl rfl cls' group left source').keepsScope c
  rcases run_spareLow c cls' group left source' with h | ⟨key, detail, h⟩
  · rw [h]
    exact ⟨hk, hs, hp, hc, hw, hr, hrec⟩
  · rw [h] at hlow ⊢
    exact ⟨hk.trans hlow, hs, hp, hc, hw, hr.trans (Nat.lt_succ_self _), hrec⟩

theorem Block.Keeps.sameData_reports {t : Block} (h : b.Keeps .reports t) : b.SameData t :=
  ⟨h.mem rfl, h.host rfl, h.flash rfl, h.nor0 rfl, h.nor1 rfl, h.sems rfl, h.time rfl, h.fuses rfl, h.lrs rfl, h.fresh rfl⟩

/-! ## Charges (R402) -/

theorem run_chargeError_transient {u : UnitRef} (hfew : (b.chargeTimes u).length < b.ctl.thresh) (detail : Nat) (k : Act) :
    (chargeError u true detail k).run b = k.run (b.withHealth fun h => h.charged b.lhTime u (b.chargeTimes u) detail) := by
  have hok : decide ((inWindow b.ctl.window b.lhTime (Tab.get [] b.ctl.health.transient (unitKey u))).length < b.ctl.thresh) = true :=
    decide_eq_true hfew
  simp only [chargeError, run_look, hok, Bool.and_self, if_true, run_all_cons, run_all_nil]
  rfl

/-- An error whose retry failed retires its unit at once. -/
theorem run_chargeError_permanent (u : UnitRef) (detail : Nat) (k : Act) : ∃ f : Health → Health, (f b.ctl.health).spares = b.ctl.health.spares ∧
    (chargeError u false detail k).run b = (retireUnit u 1).run (b.withHealth f) := by
  simp only [chargeError, run_look, Bool.false_and, Bool.false_eq_true, if_false, run_all_cons, run_all_nil]
  exact ⟨fun h => (({ h with transient := Tab.set [] h.transient (unitKey u) [] } : Health).noted
    { time := b.lhTime, cls := u.cls, kind := 1, unit := u.number, detail := detail }), rfl, rfl⟩

/-! ## Retirement, class by class -/

theorem run_retireDdr {u reason : Nat} (h : b.ctl.health.spares.ddr.contains u = false) :
    (b.withHealth fun h => { h with spares := { h.spares with ddr := u :: h.spares.ddr } }).Retired ((retireDdr u reason).run b) 4 u := by
  simp only [retireDdr, run_look, h, Bool.false_eq_true, if_false, run_all_cons, run_all_nil, updSpares, run_upd]
  exact run_retired _ 4 u u u reason (src 5 u) 4 u 0 (src 5 u)

theorem run_retireCore {u reason : Nat} (h : ∀ x ∈ b.ctl.health.spares.cores, x / 4 ≠ u / 4) :
    (b.withHealth fun h => { h with spares := { h.spares with cores := u :: h.spares.cores } }).Retired ((retireCore u reason).run b) 7 u := by
  have hnot : b.ctl.health.spares.cores.contains u = false := by
    simp only [List.contains_eq_mem, decide_eq_false_iff_not]
    exact fun hm => h u hm rfl
  have hnone : (b.ctl.health.spares.cores.any fun x => x / 4 == u / 4) = false := by
    simp only [List.any_eq_false, beq_iff_eq]
    exact h
  simp only [retireCore, run_look, hnot, hnone, Bool.false_eq_true, if_false, run_all_cons, run_all_nil, updSpares, run_upd]
  exact run_retired _ 7 u u _ reason (src 11 u) 7 (u / 4) 0 (src 11 u)

/-- The health whose copy of a retiring HBM4 channel has ended in the switch of the spare map. -/
def Health.switched (stack u : Nat) (h : Health) : Health :=
  { h with copying := h.copying.filter (fun x => x.1 != u),
           spares := { h.spares with badHbm := u :: h.spares.badHbm, hbm := Tab.set 0 h.spares.hbm (stack * 31 + u % 32) 31 } }

theorem run_hbmSpareCopyAct {stack u reason : Nat} (h : b.ctl.health.copying.find? (fun x => x.1 / 32 == stack) = some (u, reason)) :
    (b.withHealth (Health.switched stack u)).Retired ((hbmSpareCopyAct stack).run b) 3 u := by
  simp only [hbmSpareCopyAct, run_look, h, run_opt_some, run_all_cons, run_all_nil, updSpares, run_upd]
  exact run_retired (b.withHealth (Health.switched stack u)) 3 u u _ reason (src 4 u) 3 stack 0 (src 4 u)

/-! ## Coves (R57, R401) -/

/-- A cove's context that runs again from its start; a mover goes on from its place (log 44). -/
def Ctx.again (x : Ctx) : Ctx :=
  if rOp x.record = opTide then { x with fault := none }
  else { x with pos := 0, accs := [], started := false, staging := .none, tailSeq := 0, begun := false, poisoned := false, fault := none }

/-- A cove whose contexts run again and whose threads are idle. -/
def Cove.again (v : Cove) : Cove :=
  { v with ctx0 := v.ctx0.map Ctx.again, ctx1 := v.ctx1.map Ctx.again, ctx2 := v.ctx2.map Ctx.again, ctx3 := v.ctx3.map Ctx.again,
           thread0 := Thread.idle, thread1 := Thread.idle, thread2 := Thread.idle, thread3 := Thread.idle }

theorem Cove.again_ctx (v : Cove) (k : Nat) : v.again.ctx k = (v.ctx k).map Ctx.again := by
  rcases k with _ | _ | _ | k <;> rfl

theorem Cove.again_thread (v : Cove) (k : Nat) : v.again.thread k = Thread.idle := by
  rcases k with _ | _ | _ | k <;> rfl

/-- A channel that works for a cove. -/
def Channel.mine (cove : Nat) (k : Channel) : Bool := k.state != .idle && k.cove == cove

/-- A table from which the entries of one kind are taken holds none of them, where its default is none. -/
theorem Tab.get_filter_not {α : Type} {d : α} {p : α → Bool} (hd : p d = false) (t : Tab α) (k : Nat) :
    p (Tab.get d (t.filter fun e => !p e.2) k) = false := by
  induction t with
  | nil => exact hd
  | cons e t ih =>
    obtain ⟨j, a⟩ := e
    simp only [List.filter]
    split
    next hnot =>
      simp only [Tab.get]
      split
      · simpa using hnot
      · exact ih
    next => exact ih

theorem only_rerunCove (hfw : S.fw = true) (hengine : S.engine = true) (c : Nat) : (rerunCove c).Only (Eff.In S) :=
  (only_upd _ _).2 fun _ => { fw := fun hs => absurd (hfw.symm.trans hs) (by decide), engine := fun hs => absurd (hengine.symm.trans hs) (by decide) }

theorem cove_rerunCove (c : Nat) : ((rerunCove c).run b).ctl.cove c = (b.ctl.cove c).again := Tab.get_set_self _ _ _ _

theorem cove_rerunCove_other {c d : Nat} (h : d ≠ c) : ((rerunCove c).run b).ctl.cove d = b.ctl.cove d := Tab.get_set_other _ _ _ _ _ h

theorem chan_rerunCove (c k : Nat) : Channel.mine c (Tab.get Channel.idle ((rerunCove c).run b).ctl.engine.ls.chans k) = false :=
  Tab.get_filter_not (p := Channel.mine c) rfl b.ctl.engine.ls.chans k

theorem only_restoreBuf (hmem : S.mem = true) (hlrs : S.lrs = true) (hout : S.out = true) (hengine : S.engine = true) (x : Buf) :
    (restoreBuf x).Only (Eff.In S) := by
  simp only [restoreBuf, fwWrite, only_look, only_seq_iff, only_ite_iff, only_countFw hengine, only_writeVa hmem hlrs hout, only_done, and_self,
    implies_true]

/-- What the retirement of a cove that serves a logical one leaves: its spare serves, its work runs again. -/
theorem run_retireCove {p reason c : Nat} (hgood : b.ctl.health.spares.badCoves.contains p = false)
    (hbay : ∀ q ∈ b.ctl.health.spares.badCoves, bayOf q ≠ bayOf p) (hc : b.ctl.health.spares.logicalOf p = some c) :
    ∃ t : Block, (b.withHealth fun h => { h with spares := { h.spares with badCoves := p :: h.spares.badCoves, coves := Tab.set 0 h.spares.coves c 17 } }).Keeps
        { mem := true, lrs := true, out := true, engine := true, fw := true } t ∧ t.Retired ((retireCove p reason).run b) 0 p := by
  have hnone : (b.ctl.health.spares.badCoves.any fun q => bayOf q == bayOf p) = false := by
    simp only [List.any_eq_false, beq_iff_eq]
    exact hbay
  simp only [retireCove, run_look, hgood, hnone, hc, Bool.false_eq_true, if_false, run_all_cons, run_all_nil, updSpares, run_upd]
  refine ⟨_, ?_, run_retired _ 0 p c _ reason (src 1 c) 0 (bayOf p) 0 (src 1 c)⟩
  exact (((only_each_iff _ _).2 fun x _ => only_restoreBuf rfl rfl rfl rfl x).keepsScope _).trans ((only_rerunCove rfl rfl c).keepsScope _)

/-! ## The store (R431) -/

theorem seqnum_snapshot (c : Ctl) (n : Nat) : (c.snapshot n).seqnum = n := rfl

theorem intact_snapshot (c : Ctl) (n : Nat) : (c.snapshot n).intact = true := by
  simp [Snapshot.intact, Ctl.snapshot, Snapshot.seqnum]

theorem filter_intact {x : Snapshot} (h : x.intact = true) : (some x).filter (·.intact) = some x := by
  simp [Option.filter, h]

/-- A snapshot in bank B that is newer than the newest, which lies in bank A. -/
theorem newest_of_storeB {h h' : Health} {a x : Snapshot} (hnew : h.newest = some (a, false)) (hA : h'.storeA = h.storeA) (hB : h'.storeB = some x)
    (hx : x.intact = true) (hlt : a.seqnum < x.seqnum) : h'.newest = some (x, true) := by
  have ha : h.storeA.filter (·.intact) = some a := by
    simp only [Health.newest] at hnew
    split at hnew
    next a' b' ha' _ =>
      split at hnew
      · exact nomatch hnew
      · obtain rfl : a' = a := congrArg Prod.fst (Option.some.inj hnew)
        exact ha'
    next a' ha' _ =>
      obtain rfl : a' = a := congrArg Prod.fst (Option.some.inj hnew)
      exact ha'
    · exact nomatch hnew
    · exact nomatch hnew
  simp only [Health.newest, hA, ha, hB, filter_intact hx, if_pos hlt]

/-- A snapshot in bank A that is newer than the newest, which does not lie there. -/
theorem newest_of_storeA {h h' : Health} {x : Snapshot} (hnew : ∀ a dev, h.newest = some (a, dev) → dev = true ∧ a.seqnum < x.seqnum)
    (hB : h'.storeB = h.storeB) (hA : h'.storeA = some x) (hx : x.intact = true) : h'.newest = some (x, false) := by
  simp only [Health.newest, hA, hB, filter_intact hx]
  cases hb : h.storeB.filter (·.intact) with
  | none => rfl
  | some b =>
    have hold : b.seqnum < x.seqnum := by
      cases ha : h.storeA.filter (·.intact) with
      | none => exact (hnew b true (by simp only [Health.newest, ha, hb])).2
      | some a =>
        by_cases hlt : a.seqnum < b.seqnum
        · exact (hnew b true (by simp only [Health.newest, ha, hb, if_pos hlt])).2
        · exact nomatch (hnew a false (by simp only [Health.newest, ha, hb, if_neg hlt])).1
    exact if_neg (Nat.lt_asymm hold)

/-- After a snapshot has been written it is the newest. -/
theorem newest_store (c : Ctl) (now : Nat) : ∃ n dev, (c.store now).health.newest = some (c.snapshot n, dev) := by
  cases hdev : c.storeDev with
  | true =>
    obtain ⟨⟨a, dev⟩, hnew, hfalse⟩ : ∃ x, c.health.newest = some x ∧ x.2 = false := by
      simpa [Ctl.storeDev, beq_iff_eq, Option.map_eq_some_iff] using hdev
    obtain rfl : dev = false := hfalse
    refine ⟨_, true, newest_of_storeB (x := c.snapshot (a.seqnum + 1)) hnew ?_ ?_ (intact_snapshot _ _) (Nat.lt_succ_self _)⟩
    · simp only [Ctl.store, hdev, if_true]
    · simp only [Ctl.store, hdev, if_true, hnew, Option.map_some, Option.getD_some]
  | false =>
    refine ⟨_, false, newest_of_storeA (h := c.health) (x := c.snapshot ((c.health.newest.map fun x => x.1.seqnum).getD 0 + 1)) (fun a dev hnew => ⟨?_, ?_⟩)
      ?_ ?_ (intact_snapshot _ _)⟩
    · cases dev with
      | true => rfl
      | false => simp [Ctl.storeDev, hnew] at hdev
    · rw [seqnum_snapshot, hnew]
      exact Nat.lt_succ_self _
    · simp only [Ctl.store, hdev, Bool.false_eq_true, if_false]
    · simp only [Ctl.store, hdev, Bool.false_eq_true, if_false]

theorem run_snapshotWriteAct (hawake : b.ctl.awake = true) (htaken : b.ctl.storeTaken = true) (hwanted : b.ctl.health.wanted = true) :
    snapshotWriteAct.run b = { b with ctl := b.ctl.store b.lhTime } := by
  have hdue : b.storeDue = true := by simp only [Block.storeDue, hwanted, Bool.true_or]
  simp only [snapshotWriteAct, run_look, hawake, htaken, hdue, Bool.and_self, run_when_true, storeNow, run_upd]

end Retire

/-- Settles O48. -/
theorem retirements : Obligations.Retirements := by
  unfold Obligations.Retirements
  refine ⟨?transient, ?permanent, ?planned, ?copy, ?core, ?store, fun s ch => runs_of_perform rfl rfl⟩
  case transient =>
    intro s cove c u hawake hgood hc hfew
    have hrun : (coveErrorAct cove.val false).run s.block =
        (rerunCove c).run (s.block.withHealth fun h => h.charged s.block.lhTime u (s.block.chargeTimes u) 0) := by
      rw [coveErrorAct, run_look, hawake, hgood, Bool.not_false, Bool.and_self, run_when_true]
      exact (run_chargeError_transient hfew 0 _).trans (by rw [hc, run_opt_some])
    have hk := (only_rerunCove (S := { fw := true, engine := true }) rfl rfl c).keepsScope
      (s.block.withHealth fun h => h.charged s.block.lhTime u (s.block.chargeTimes u) 0)
    refine ⟨_, runs_of_perform rfl hrun, hk.ctl.health rfl, ⟨hk.mem rfl, hk.host rfl, hk.flash rfl, hk.nor0 rfl, hk.nor1 rfl, hk.sems rfl, hk.arb rfl,
      hk.time rfl, hk.fuses rfl, hk.lrs rfl, hk.out rfl, hk.fresh rfl⟩, fun k x hx => ?_, fun k => ?_, fun k => ?_, fun d hd => cove_rerunCove_other hd,
      hk.ctl.hif rfl, hk.ctl.job rfl⟩
    · rw [cove_rerunCove, Cove.again_ctx]
      exact congrArg (Option.map Ctx.again) hx
    · rw [cove_rerunCove, Cove.again_thread]
    · have hmine := chan_rerunCove (b := s.block.withHealth fun h => h.charged s.block.lhTime u (s.block.chargeTimes u) 0) c k
      simp only [Channel.mine, Bool.and_eq_false_iff, bne_eq_false_iff_eq, beq_eq_false_iff_ne] at hmine
      exact hmine
  case permanent =>
    intro s cove c hawake hgood hbay hc
    obtain ⟨f, hspares, hcharge⟩ := run_chargeError_permanent (b := s.block) { cls := 0, number := cove.val, row := 0, bank := 0 } 0
      (Act.opt (s.block.ctl.health.spares.logicalOf cove.val) fun c => rerunCove c)
    have hrun : (coveErrorAct cove.val true).run s.block = (retireCove cove.val 1).run (s.block.withHealth f) := by
      rw [coveErrorAct, run_look, hawake, hgood, Bool.not_false, Bool.and_self, run_when_true]
      exact hcharge
    have hspares' : (s.block.withHealth f).ctl.health.spares = s.block.ctl.health.spares := hspares
    obtain ⟨m, hm, ht⟩ := run_retireCove (b := s.block.withHealth f) (p := cove.val) (reason := 1) (c := c) (by rw [hspares']; exact hgood)
      (by rw [hspares']; exact hbay) (by rw [hspares']; exact hc)
    refine ⟨_, runs_of_perform rfl hrun, ?_, ht.wanted, ?_, ?_, (ht.keeps.host rfl).trans (hm.host rfl), (ht.keeps.flash rfl).trans (hm.flash rfl),
      (ht.keeps.sems rfl).trans (hm.sems rfl), (ht.keeps.fuses rfl).trans (hm.fuses rfl), (ht.keeps.ctl.hif rfl).trans (hm.ctl.hif rfl)⟩
    · rw [ht.spares, hm.ctl.health rfl, ← hspares']
      rfl
    · have h := ht.raised
      rw [hm.arb rfl] at h
      exact h
    · obtain ⟨r, hr, hcls, hkind, hunit, htime⟩ := ht.record
      exact ⟨r, hr, hcls, hkind, hunit, htime.trans (hm.time rfl)⟩
  case planned =>
    intro s u reason hpass hfind hcls hgood
    have hrun : (plannedRetirementAct u).run s.block =
        (retireDdr u.number reason).run (s.block.withHealth fun h => { h with planned := h.planned.filter fun q => q.1 != u }) := by
      simp only [plannedRetirementAct, run_look, Ctl.stepRuns, hpass, Option.isSome_none, Bool.not_false, run_when_true, hfind, run_opt_some, run_seq,
        retireUnit, hcls]
      rfl
    have ht := run_retireDdr (b := s.block.withHealth fun h => { h with planned := h.planned.filter fun q => q.1 != u }) (reason := reason) hgood
    exact ⟨_, runs_of_perform rfl hrun, ht.planned, ht.spares, ht.wanted, ht.raised, ht.keeps.sameData_reports, ht.keeps.out rfl⟩
  case copy =>
    intro s stack u reason hfind
    have ht := run_hbmSpareCopyAct (b := s.block) hfind
    exact ⟨_, runs_of_perform rfl rfl, ht.copying, ht.spares, ht.wanted, ht.raised, ht.keeps.sameData_reports, ht.keeps.out rfl⟩
  case core =>
    intro s core hawake hgood
    have hrun : (watchdogExpiryAct core.val).run s.block = (retireCore core.val 1).run
        (s.block.withHealth fun h => h.noted { time := s.block.lhTime, cls := 7, kind := 1, unit := core.val, detail := 0 }) := by
      rw [watchdogExpiryAct, run_look, hawake, run_when_true, run_seq, run_history]
    have ht := run_retireCore (b := s.block.withHealth fun h => h.noted { time := s.block.lhTime, cls := 7, kind := 1, unit := core.val, detail := 0 })
      (u := core.val) (reason := 1) hgood
    exact ⟨_, runs_of_perform rfl hrun, ht.spares, ht.wanted, ht.raised, ht.keeps.sameData_reports, ht.keeps.out rfl⟩
  case store =>
    intro s hawake htaken hwanted
    obtain ⟨n, dev, hnew⟩ := newest_store s.block.ctl s.block.lhTime
    refine ⟨runs_of_perform rfl (run_snapshotWriteAct hawake htaken hwanted), ?_, _, dev, hnew, rfl, rfl, rfl⟩
    simp only [Ctl.store]
    split <;> rfl

end Sys2Proof.Machine


namespace Sys2Proof.Machine

/-! # Errors of memory (R220, R224, R226, R241, R242, R402, R403, R410, R411) -/

section MemErrors
variable {b : Block} {S : Scope}

/-! ## Corrected errors and their trends (R403, R411) -/

/-- The block whose health has counted a correction. -/
def Block.counts (b : Block) (u : UnitRef) (device : Nat) : Block :=
  b.withHealth fun h => h.counted b.lhTime u device (memSource u) (b.trendTimes u device)

theorem run_summaryEvent (b : Block) : summaryEvent.run b = b.accept 0x0202 0 b.ctl.health.summary := rfl

theorem run_correctedError {u : UnitRef} {n : Nat} (hn : trendLimit u.cls = some n) (device : Nat) : (correctedError u device (memSource u)).run b =
    (Act.when ((b.trendTimes u device).length == n) (planUnit u 2)).run
      ((Act.when ((b.trendTimes u device).length == n / 2 + 1) summaryEvent).run (b.counts u device)) := by
  simp only [correctedError, run_look, run_all_cons, run_all_nil, run_upd, hn, run_opt_some, run_seq]
  rfl

theorem run_planUnit_new {u : UnitRef} (h : ∀ p ∈ b.ctl.health.planned, p.1 ≠ u) (reason : Nat) : (planUnit u reason).run b =
    b.withHealth fun h => { h with planned := h.planned ++ [(u, reason)] } := by
  have hnone : (b.ctl.health.planned.any fun p => p.1 == u) = false := by
    simp only [List.any_eq_false, beq_iff_eq]
    exact h
  simp only [planUnit, run_upd, hnone, Bool.false_eq_true, if_false]
  rfl

/-- Half a trend limit is not the limit. -/
theorem half_ne_trendLimit {cls n : Nat} (h : trendLimit cls = some n) : n / 2 + 1 ≠ n := by
  simp only [trendLimit] at h
  split at h
  · obtain rfl := Option.some.inj h
    decide
  · obtain rfl := Option.some.inj h
    decide
  · obtain rfl := Option.some.inj h
    decide
  · obtain rfl := Option.some.inj h
    decide
  · exact nomatch h

/-- A command that counts a correction. -/
theorem counts_of_run {i : Instr} {s : State} {a : Act} {u : UnitRef} {device : Nat} (hi : exec i s = s.perform a)
    (ha : a.run s.block = (correctedError u device (memSource u)).run s.block) : Counts i s u device := by
  intro n hn
  have hrun := ha.trans (run_correctedError hn device)
  have hne := half_ne_trendLimit hn
  refine ⟨fun hhalf hfull => ?_, fun hhalf => ?_, fun hfull hnew => ?_⟩
  · rw [beq_eq_false_iff_ne.2 hhalf, beq_eq_false_iff_ne.2 hfull, run_when_false, run_when_false] at hrun
    exact runs_of_perform hi hrun
  · rw [beq_iff_eq.2 hhalf, beq_eq_false_iff_ne.2 (fun h => hne (hhalf.symm.trans h)), run_when_true, run_when_false] at hrun
    exact runs_of_perform hi hrun
  · rw [beq_iff_eq.2 hfull, beq_eq_false_iff_ne.2 (fun h => hne (h.symm.trans hfull)), run_when_true, run_when_false,
      run_planUnit_new (b := s.block.counts u device) hnew] at hrun
    exact runs_of_perform hi hrun

theorem run_uncorrectableErrorAct_corrected {l : BadLine} {u : UnitRef} (hawake : b.ctl.awake = true) (hout : l.outcome = .corrected)
    (hbacked : backed b.fuses.twoTiB (l.addr / 64 * 64) = true) (hu : b.lineUnit (l.addr / 64 * 64) l.row l.bank = some u) :
    (uncorrectableErrorAct l).run b = (correctedError u l.device (memSource u)).run b := by
  simp only [uncorrectableErrorAct, run_look, hawake, hbacked, Bool.and_self, run_when_true, hout, hu, run_opt_some]

theorem run_patrolScrubAct {line : Nat} {part : DramPart} {u : UnitRef} (hawake : b.ctl.awake = true)
    (hregion : (∃ die, region b.fuses.twoTiB (line * 64) = .hbm die) ∨ region b.fuses.twoTiB (line * 64) = .ddr)
    (hu : b.lineUnit (line * 64) part.rank 0 = some u) :
    (patrolScrubAct line part true).run b = (correctedError u part.device (memSource u)).run b := by
  rcases hregion with ⟨die, hr⟩ | hr
  all_goals simp only [patrolScrubAct, run_look, hawake, Bool.and_self, hr, run_when_true, hu, run_opt_some]

/-! ## Lines whose reads fail (R226, R241) -/

theorem run_uncorrectableErrorAct_reread {l : BadLine} {u : UnitRef} (hawake : b.ctl.awake = true) (hout : l.outcome = .reread)
    (hbacked : backed b.fuses.twoTiB (l.addr / 64 * 64) = true) (hu : b.lineUnit (l.addr / 64 * 64) l.row l.bank = some u) (hcls : u.cls = 1)
    (hfew : (b.chargeTimes u).length < b.ctl.thresh) : (uncorrectableErrorAct l).run b =
      b.withHealth fun h => h.charged b.lhTime u (b.chargeTimes u) (l.addr / 64 * 64) := by
  simp only [uncorrectableErrorAct, run_look, hawake, hbacked, Bool.and_self, run_when_true, hout, hu, run_opt_some, hcls, beq_self_eq_true,
    run_chargeError_transient hfew]
  rfl

/-- A line written again from a good copy, and its unit charged. -/
theorem run_repairLine {l : BadLine} {u : UnitRef} {bs : Bytes} (hu : b.lineUnit (l.addr / 64 * 64) l.row l.bank = some u)
    (hcopy : b.backingLine (l.addr / 64 * 64) = some bs ∨ (b.backingLine (l.addr / 64 * 64) = none ∧ l.good = some bs))
    (hfew : (b.chargeTimes u).length < b.ctl.thresh) (resume : Act) : (repairLine l resume).run b =
      resume.run ((b.wrote (l.addr / 64 * 64) ((bs ++ zeroBytes 64).take 64)).withHealth fun h =>
        h.charged b.lhTime u (b.chargeTimes u) (l.addr / 64 * 64)) := by
  have hgood : ((b.backingLine (l.addr / 64 * 64)).orElse fun _ => l.good) = some bs := by
    rcases hcopy with h | ⟨h, hg⟩
    · rw [h]
      rfl
    · rw [h, hg]
      rfl
  simp only [repairLine, run_look, hgood, run_all_cons, run_all_nil, hu, run_opt_some]
  exact congrArg resume.run (run_chargeError_transient (b := b.wrote (l.addr / 64 * 64) ((bs ++ zeroBytes 64).take 64)) hfew _ .done)

/-- A line that nobody who can be halted reads is written again at once. -/
theorem run_uncorrectableErrorAct_lost {l : BadLine} (hawake : b.ctl.awake = true) (hout : l.outcome = .lost)
    (hbacked : backed b.fuses.twoTiB (l.addr / 64 * 64) = true) (hreader : ∀ who, l.reader = some who → b.ctl.reads who = false) :
    (uncorrectableErrorAct l).run b = (repairLine l .done).run b := by
  simp only [uncorrectableErrorAct, run_look, hawake, hbacked, Bool.and_self, run_when_true, hout]
  cases hr : l.reader with
  | none => rfl
  | some who => simp only [hreader who hr, Bool.false_eq_true, if_false]

/-! ## Agents that halt and go on -/

theorem cove_updCtx (v n : Nat) (f : Ctx → Ctx) : (((updCtx v n f).run b).ctl.cove v).ctx n = ((b.ctl.cove v).ctx n).map f := by
  have h : ((updCtx v n f).run b).ctl.cove v = (b.ctl.cove v).setCtx n (((b.ctl.cove v).ctx n).map f) := Tab.get_set_self _ _ _ _
  rw [h, Cove.ctx_setCtx]

theorem cove_updThread (v t : Nat) (f : Thread → Thread) : (((updThread v t f).run b).ctl.cove v).thread t = f ((b.ctl.cove v).thread t) := by
  have h : ((updThread v t f).run b).ctl.cove v = (b.ctl.cove v).setThread t (f ((b.ctl.cove v).thread t)) := Tab.get_set_self _ _ _ _
  rw [h, Cove.thread_setThread]

theorem chan_updChan (e ch : Nat) (f : Channel → Channel) : ((updChan e ch f).run b).ctl.chan e ch = f (b.ctl.chan e ch) := by
  simp only [updChan, run_upd, Ctl.chan, Tab.get_set_self]

theorem only_updChan (h : S.engine = true) (e ch : Nat) (f : Channel → Channel) : (updChan e ch f).Only (Eff.In S) := only_engine h _

theorem run_haltAgent_channel (id e ch : Nat) : (haltAgent id (.channel e ch)).run b =
    (updChan e ch fun k => { k with state := .haltedFault, fault := some id }).run b := rfl

theorem only_haltAgent (h : S.engine = true) (id : Nat) (who : Faulter) : (haltAgent id who).Only (Eff.In S) := by
  cases who with
  | context v n => exact only_updCtx h _ _ _
  | thread v t => exact only_updThread h v t fun u => { u with state := .faulted }
  | channel e ch => exact only_updChan h e ch fun k => { k with state := .haltedFault, fault := some id }
  | remote id => trivial

/-- An agent that runs is halted on the fault. -/
theorem halted_haltAgent {f : XFault} (h : b.ctl.reads f.who = true) : ((haltAgent f.id f.who).run b).ctl.halted f = true := by
  unfold Ctl.halted
  unfold Ctl.reads at h
  cases hw : f.who with
  | context v n =>
    simp only [hw, haltAgent] at h ⊢
    rw [cove_updCtx]
    cases hx : (b.ctl.cove v).ctx n with
    | none => simp [hx] at h
    | some x => exact beq_self_eq_true (some f.id)
  | thread v t =>
    simp only [haltAgent]
    rw [cove_updThread]
    rfl
  | channel e ch =>
    simp only [run_haltAgent_channel, chan_updChan]
    exact Bool.and_eq_true_iff.2 ⟨rfl, beq_self_eq_true (some f.id)⟩
  | remote id =>
    rw [hw] at h
    exact nomatch h

/-- An agent that is halted goes on. -/
theorem reads_resumeAgent {f : XFault} (h : b.ctl.halted f = true) (hlocal : ∀ k, f.who ≠ .remote k) :
    ((resumeAgent f).run b).ctl.reads f.who = true := by
  unfold Ctl.reads
  unfold Ctl.halted at h
  cases hw : f.who with
  | context v n =>
    simp only [hw, resumeAgent, run_seq] at h ⊢
    rw [cove_updCtx]
    cases hx : (b.ctl.cove v).ctx n with
    | none => simp [hx] at h
    | some x =>
      have hx' : (((dropFault f.id).run b).ctl.cove v).ctx n = some x := hx
      rw [hx']
      rfl
  | thread v t =>
    simp only [hw, resumeAgent, run_seq]
    rw [cove_updThread]
    rfl
  | channel e ch =>
    simp only [hw, resumeAgent, run_seq]
    rw [chan_updChan]
    rfl
  | remote id => exact absurd hw (hlocal id)

/-- What an agent goes on with beside its fault's end. -/
theorem run_resumeAgent {f : XFault} (hlocal : ∀ k, f.who ≠ .remote k) : ∃ a : Act, a.Only (Eff.In { engine := true }) ∧
    ∀ b : Block, (resumeAgent f).run b = a.run ((dropFault f.id).run b) := by
  cases hw : f.who with
  | context v n =>
    refine ⟨updCtx v n fun x => { x with fault := none }, only_updCtx rfl _ _ _, fun b => ?_⟩
    simp only [resumeAgent, hw, run_seq]
  | thread v t =>
    refine ⟨updThread v t fun u => { u with state := .running }, only_updThread rfl _ _ _, fun b => ?_⟩
    simp only [resumeAgent, hw, run_seq]
  | channel e ch =>
    refine ⟨updChan e ch fun k => { k with state := .run, fault := none }, only_updChan rfl _ _ _, fun b => ?_⟩
    simp only [resumeAgent, hw, run_seq]
  | remote id => exact absurd hw (hlocal id)

/-- A control state that differs in its engine alone. -/
theorem Ctl.Keeps.eq_engine {c d : Ctl} (h : c.Keeps { engine := true } d) : d = { c with engine := d.engine } := by
  obtain ⟨h1, h2, h3, h4, h5, h6, h7, h8, -, h10, h11, h12, h13, h14, h15⟩ := h
  cases d
  cases c
  simp_all

/-- Units planned one after another. -/
theorem run_planUnits (below : List UnitRef) : ∀ b : Block, ∃ planned : List (UnitRef × Nat),
    (Act.each below fun u => planUnit u 2).run b = b.withHealth (fun h => { h with planned := planned }) ∧
      (∀ u ∈ below, ∃ p ∈ planned, p.1 = u) ∧ (∀ p ∈ b.ctl.health.planned, p ∈ planned) ∧
      ∀ p ∈ planned, p ∈ b.ctl.health.planned ∨ (p.1 ∈ below ∧ p.2 = 2) := by
  induction below with
  | nil => exact fun b => ⟨b.ctl.health.planned, rfl, fun u hu => absurd hu List.not_mem_nil, fun p hp => hp, fun p hp => .inl hp⟩
  | cons u us ih =>
    intro b
    obtain ⟨one, hone, hu, hold, hnew⟩ : ∃ one : List (UnitRef × Nat), (planUnit u 2).run b = b.withHealth (fun h => { h with planned := one }) ∧
        (∃ p ∈ one, p.1 = u) ∧ (∀ p ∈ b.ctl.health.planned, p ∈ one) ∧ ∀ p ∈ one, p ∈ b.ctl.health.planned ∨ p = (u, 2) := by
      by_cases h : ∃ p ∈ b.ctl.health.planned, p.1 = u
      · have hany : (b.ctl.health.planned.any fun p => p.1 == u) = true := by simpa only [List.any_eq_true, beq_iff_eq] using h
        refine ⟨b.ctl.health.planned, ?_, h, fun p hp => hp, fun p hp => .inl hp⟩
        simp only [planUnit, run_upd, hany, if_true]
        rfl
      · push Not at h
        refine ⟨b.ctl.health.planned ++ [(u, 2)], run_planUnit_new h 2, ⟨(u, 2), by simp, rfl⟩, fun p hp => List.mem_append_left _ hp, fun p hp => ?_⟩
        exact (List.mem_append.1 hp).imp_right List.mem_singleton.1
    obtain ⟨planned, hrun, hall, hkeep, hfrom⟩ := ih (b.withHealth fun h => { h with planned := one })
    refine ⟨planned, ?_, fun v hv => ?_, fun p hp => hkeep p (hold p hp), fun p hp => ?_⟩
    · rw [run_each_cons, hone, hrun]
      rfl
    · rcases List.mem_cons.1 hv with rfl | hv
      · exact hu.imp fun p hp => ⟨hkeep p hp.1, hp.2⟩
      · exact hall v hv
    · rcases hfrom p hp with h | h
      · rcases hnew p h with h | rfl
        · exact .inl h
        · exact .inr ⟨List.mem_cons_self, rfl⟩
      · exact .inr ⟨List.mem_cons_of_mem _ h.1, h.2⟩

end MemErrors

/-- Settles O47. -/
theorem memoryErrors : Obligations.MemoryErrors := by
  unfold Obligations.MemoryErrors
  refine ⟨?lost, ?halt, ?resolve, ?reread, ?corrected, ?patrol, ?ageing, ?hour⟩
  case lost =>
    intro s l u bs hawake hout hreader a hbacked hu hcopy hfew
    exact runs_of_perform rfl ((run_uncorrectableErrorAct_lost hawake hout hbacked hreader).trans (run_repairLine hu hcopy hfew .done))
  case halt =>
    intro s l who hawake hout hreader hreads hbacked f
    have hrun : (uncorrectableErrorAct l).run s.block = (haltAgent f.id who).run { s.block with ctl := { s.block.ctl with fw :=
        { s.block.ctl.fw with nextId := s.block.ctl.fw.nextId + 1, faults := s.block.ctl.fw.faults ++ [f] } } } := by
      simp only [uncorrectableErrorAct, run_look, hawake, hbacked, Bool.and_self, run_when_true, hout, hreader, hreads, if_true, haltReader, run_seq]
      rfl
    have hk := (only_haltAgent (S := { engine := true }) rfl f.id who).keepsScope { s.block with ctl := { s.block.ctl with fw :=
      { s.block.ctl.fw with nextId := s.block.ctl.fw.nextId + 1, faults := s.block.ctl.fw.faults ++ [f] } } }
    have hfw := hk.ctl.fw rfl
    refine ⟨_, runs_of_perform rfl hrun, hfw, halted_haltAgent (f := f) hreads, ?_, hk.mem rfl, hk.host rfl, hk.flash rfl, hk.nor0 rfl, hk.nor1 rfl,
      hk.sems rfl, hk.arb rfl, hk.time rfl, hk.fuses rfl, hk.lrs rfl, hk.out rfl, hk.fresh rfl⟩
    rw [hfw]
    exact hk.ctl.eq_engine
  case resolve =>
    intro s f l u bs hawake hfind hline hhalted hlocal a hu hcopy hfew
    obtain ⟨k, hk, hresume⟩ := run_resumeAgent hlocal
    have hrun : (faultResolveAct f.id).run s.block = (resumeAgent f).run ((s.block.wrote a ((bs ++ zeroBytes 64).take 64)).withHealth fun h =>
        h.charged s.block.lhTime u (s.block.chargeTimes u) a) := by
      simp only [faultResolveAct, run_look, hawake, run_when_true, hfind, run_opt_some, hline, hhalted, if_true]
      exact run_repairLine hu hcopy hfew _
    have hreads := reads_resumeAgent (b := (s.block.wrote a ((bs ++ zeroBytes 64).take 64)).withHealth fun h =>
      h.charged s.block.lhTime u (s.block.chargeTimes u) a) (f := f) hhalted hlocal
    rw [hresume] at hrun hreads
    have hkeep := hk.keepsScope ((dropFault f.id).run ((s.block.wrote a ((bs ++ zeroBytes 64).take 64)).withHealth fun h =>
      h.charged s.block.lhTime u (s.block.chargeTimes u) a))
    have hfw := hkeep.ctl.fw rfl
    have hhealth := hkeep.ctl.health rfl
    refine ⟨_, runs_of_perform rfl hrun, hhealth, hreads, hfw, ?_, hkeep.mem rfl, hkeep.host rfl, hkeep.flash rfl, hkeep.nor0 rfl, hkeep.nor1 rfl,
      hkeep.sems rfl, hkeep.arb rfl, hkeep.time rfl, hkeep.fuses rfl, hkeep.lrs rfl, hkeep.out rfl, hkeep.fresh rfl⟩
    rw [hfw, hhealth]
    exact hkeep.ctl.eq_engine
  case reread =>
    intro s l u hawake hout a hbacked hu hcls hfew
    exact runs_of_perform rfl (run_uncorrectableErrorAct_reread hawake hout hbacked hu hcls hfew)
  case corrected =>
    intro s l u hawake hout hbacked hu
    exact counts_of_run rfl (run_uncorrectableErrorAct_corrected hawake hout hbacked hu)
  case patrol =>
    intro s line rank device u hawake hregion hu
    exact counts_of_run rfl (run_patrolScrubAct (part := ⟨rank, device⟩) hawake hregion hu)
  case ageing =>
    intro s below hawake
    obtain ⟨planned, hrun, hall, hkeep, hfrom⟩ := run_planUnits below s.block
    exact ⟨_, runs_of_perform rfl (by rw [ageingSampleAct, run_look, hawake, run_when_true, hrun]), hall, hkeep, hfrom, rfl⟩
  case hour =>
    intro s hhour hdue
    have hne : (!s.block.ctl.health.hour.isEmpty) = true := by simpa using hhour
    have hrun : correctedSummaryAct.run s.block = (s.block.accept 0x0202 0 s.block.ctl.health.summary).withHealth fun h =>
        { h with hour := [], hourAt := s.block.lhTime } := by
      simp only [correctedSummaryAct, run_look, hne, decide_eq_true hdue, Bool.and_self, run_when_true, run_seq, run_summaryEvent]
      rfl
    exact runs_of_perform rfl hrun

end Sys2Proof.Machine


namespace Sys2Proof.Machine

/-! # The Breakwater pair: bindings, mirror, and the ends of passes (R351, R357, R360, R412 to R417, R422, R423) -/

section Scopes
variable {S : Scope}

theorem only_finishCode (h : S.hif = true) (id code : Nat) (r : Bytes) : (finishCode id code r).Only (Eff.In S) := fun _ => only_hif h _

theorem only_finish (h : S.hif = true) (id : Nat) (st : Status) (r : Bytes) : (finish id st r).Only (Eff.In S) := only_finishCode h id st.code r

theorem only_updCmd (h : S.hif = true) (id : Nat) (f : Cmd → Cmd) : (updCmd id f).Only (Eff.In S) := only_hif h _

theorem only_updRing (h : S.hif = true) (n : Nat) (f : Ring → Ring) : (updRing n f).Only (Eff.In S) := only_hif h _

theorem only_send (h : S.out = true) (d : Dest) (m : Msg) : (send d m).Only (Eff.In S) := (only_one _ _).2 h

theorem only_mirror (h : S.out = true) (m : MirrorMsg) : (mirror m).Only (Eff.In S) := by
  simp only [mirror, only_look, only_when_iff, only_send h, implies_true]

/-- Nothing outside the control state may change. -/
def Scope.inner (S : Scope) : Bool :=
  !(S.mem || S.host || S.flash || S.nor || S.sems || S.arb || S.time || S.fuses || S.lrs || S.out || S.fresh)

theorem Block.Keeps.sameOutside {b t : Block} (h : b.Keeps S t) (hS : S.inner = true) : b.SameOutside t := by
  simp only [Scope.inner, Bool.not_eq_true', Bool.or_eq_false_iff] at hS
  obtain ⟨⟨⟨⟨⟨⟨⟨⟨⟨⟨hmem, hhost⟩, hflash⟩, hnor⟩, hsems⟩, harb⟩, htime⟩, hfuses⟩, hlrs⟩, hout⟩, hfresh⟩ := hS
  exact ⟨h.mem hmem, h.host hhost, h.flash hflash, h.nor0 hnor, h.nor1 hnor, h.sems hsems, h.arb harb, h.time htime, h.fuses hfuses, h.lrs hlrs,
    h.out hout, h.fresh hfresh⟩

theorem keeps_started (h : S.hif = true) (b : Block) (id : Nat) : b.Keeps S (b.started id) :=
  { ctl := { hif := fun hs => absurd (h.symm.trans hs) (by decide) } }

theorem othersKept_of_hif {b t : Block} (h : t.ctl.hif = b.ctl.hif) (id : Nat) : b.OthersKept t id := by
  simp only [Block.OthersKept, h]
  exact ⟨fun _ hy _ => hy, trivial, trivial, trivial⟩

/-- Changes elsewhere leave a taken command. -/
theorem cmd_of_hif {b t : Block} (h : t.ctl.hif = b.ctl.hif) (id : Nat) : t.ctl.cmd id = b.ctl.cmd id := congrArg (fun h : HostIf => h.cmds.find? _) h

end Scopes

section PairWork
variable {b : Block} {id : Nat} {x : Cmd}

/-! ## PAIR_BIND and PAIR_HANDBACK -/

theorem run_bindPair (role : PairRole) (slot : Nat) (ring : PartnerRing) : (bindPair role slot ring).run b = (b.withPair
    { Pair.blank with role := role, partner := slot, partnerSerial := b.serialAt slot, ring := ring, heardP := b.lhTime, heardR := b.lhTime }).withHealth
      fun h => { h with wanted := true } := rfl

theorem only_bindPair {S : Scope} (hp : S.pair = true) (hh : S.health = true) (role : PairRole) (slot : Nat) (ring : PartnerRing) :
    (bindPair role slot ring).Only (Eff.In S) :=
  fun _ => (only_upd _ _).2 fun _ => { pair := fun hs => absurd (hp.symm.trans hs) (by decide), health := fun hs => absurd (hh.symm.trans hs) (by decide) }

theorem only_watchRing {S : Scope} (h : S.hif = true) : watchRing.Only (Eff.In S) := fun _ => only_updRing h _ _

theorem Block.MayRun.run_pairBindAct (h : b.MayRun id 0x31 x) (hlegal : bindLegal b x = true) (hrole : u8 x.bytes 33 ≠ 1) (hfits : b.bindFits = true) :
    (pairBindAct id).run b = (if u8 x.bytes 33 = 0 then (bindPair .bound (u8 x.bytes 32) (bindRing x.bytes)).seq (finish id .ok [])
      else Act.all [bindPair (.replacement false) (u8 x.bytes 32) (bindRing x.bytes), .upd fun c => { c with glb := { c.glb with state := .resync } },
        watchRing, finish id .ok []]).run (b.started id) := by
  have hfits' : (b.started id).bindFits = true := hfits
  rw [pairBindAct, h.run_startCmd hlegal]
  simp only [run_look, if_neg hrole, hfits', Bool.not_true, Bool.false_eq_true, if_false]

theorem Block.MayRun.run_pairBindAct_unfit (h : b.MayRun id 0x31 x) (hlegal : bindLegal b x = true) (hrole : u8 x.bytes 33 ≠ 1)
    (hfits : b.bindFits = false) : (pairBindAct id).run b = b.completed id .eCapacity [] := by
  have hfits' : (b.started id).bindFits = false := hfits
  rw [pairBindAct, h.run_startCmd hlegal]
  simp only [run_look, if_neg hrole, hfits', Bool.not_false, if_true]
  rfl

theorem Block.MayRun.run_pairHandbackAct (h : b.MayRun id 0x32 x) (hstate : b.ctl.glb.state = .degraded) (hrole : b.ctl.pair.role = .resyncing true)
    (hpass : b.ctl.job.pass ≠ none) (hpartner : u8 x.bytes 32 = b.ctl.pair.partner) : (pairHandbackAct id).run b =
      (b.started id).withPair { b.ctl.pair with handback := some id } := by
  have hlegal : (Machine.inStates [.degraded] b && b.ctl.pair.role == .resyncing true) = true := by
    simp only [Machine.inStates, hstate, hrole]
    rfl
  have hpass' : (b.started id).ctl.job.pass.isNone = false := by
    exact Option.isNone_eq_false_iff.2 (Option.ne_none_iff_isSome.1 hpass)
  have hpartner' : ¬(u8 x.bytes 32 ≠ (b.started id).ctl.pair.partner) := fun hne => hne hpartner
  rw [pairHandbackAct, h.run_startCmd (legal := fun b _ => Machine.inStates [.degraded] b && b.ctl.pair.role == .resyncing true) hlegal]
  simp only [run_look, if_neg hpartner', hpass', run_when_false, run_all_cons, run_all_nil]
  rfl

theorem run_resyncCopyDoneAct (hawake : b.ctl.awake = true) (hrole : b.ctl.pair.role = .replacement false) (gib : Nat) : (resyncCopyDoneAct gib).run b =
    (b.withPair { b.ctl.pair with role := .replacement true, gib := gib }).accept 0x0302 (src 9 b.ctl.pair.partner)
      (b.fuses.serial.toNat % 2 ^ 32 * 2 ^ 32 + gib % 2 ^ 32) := by
  have hnot : ¬(b.ctl.pair.role = .resyncing false ∧ b.ctl.pair.snapshot = true) := fun h => by
    rw [hrole] at h
    exact nomatch h.1
  have heq : (b.ctl.pair.role == .replacement false) = true := beq_iff_eq.2 hrole
  simp only [resyncCopyDoneAct, run_look, hawake, run_when_true, if_neg hnot, heq, run_seq, run_upd, resyncDone, run_raise]
  rfl

/-- An event is held where the queue has room. -/
theorem mem_held_accept {q : EventQueue} (h : q.count < eventRoom) (r : EventRec) : r ∈ (q.accept r).held := by
  simp only [EventQueue.accept, if_pos h]
  exact List.mem_append_right _ (List.mem_singleton.2 rfl)

/-! ## The mirror (R414, R417) -/

/-- A member that is bound keeps its partner's mirror. -/
theorem keepsMirror_of_bound {c : Ctl} (h : c.pair.role = .bound) : c.keepsMirror = true := by
  simp only [Ctl.keepsMirror, h]

theorem run_mirrorWriteAct_record (hawake : b.ctl.awake = true) (hbound : b.ctl.pair.role = .bound) {q l n : Nat} {f : Nat × Nat}
    (hf : b.ctl.pair.frames.find? (fun m => m.2 == pageKey q l n) = some f) (slot : Nat) (bytes : Bytes) :
    (mirrorWriteAct (.record q l n slot bytes)).run b = (b.wrote (f.1 * 8192 + 512 * slot) bytes).withPair
      { b.ctl.pair with lineRec := f.1 * 8192 + 512 * slot + bytes.length - 64 } := by
  simp only [mirrorWriteAct, run_look, hawake, keepsMirror_of_bound hbound, Bool.and_self, run_when_true, storeRecord, hf, putMirror, run_seq, run_upd]
  rfl

theorem run_mirrorWriteAct (hawake : b.ctl.awake = true) (hbound : b.ctl.pair.role = .bound) {m : MirrorMsg} {t : Block}
    (ht : (match m with
      | .context off bytes => (b.wrote (b.contextBase + off) bytes).withPair
          { b.ctl.pair with lineCtx := b.contextBase + off + bytes.length - 64 }
      | .command i bytes => b.withPair { b.ctl.pair with ring := { b.ctl.pair.ring with
          cmds := b.ctl.pair.ring.cmds ++ [(i, bytes)], sqHead := (i + 1) % 2 ^ 32 } }
      | .completion i c bytes => b.withPair { b.ctl.pair with ring := { b.ctl.pair.ring with
          cqCount := (i + 1) % 2 ^ 32, cmds := b.ctl.pair.ring.cmds.filter fun x => x.1 != c,
          entries := (b.ctl.pair.ring.entries.filter fun e => decide ((e.1 + 2 ^ 32 - b.ctl.pair.ring.cqHead) % 2 ^ 32 < 2 ^ 31)) ++ [(i, bytes)] } }
      | .journal key r => b.withPair { b.ctl.pair with journal := b.ctl.pair.journal ++ [(key, r)] }
      | _ => (mirrorWriteAct m).run b) = t) : (mirrorWriteAct m).run b = t := by
  subst ht
  cases m <;> simp only [mirrorWriteAct, run_look, hawake, keepsMirror_of_bound hbound, Bool.and_self, run_when_true] <;> rfl

theorem run_commitNoticeAct (hawake : b.ctl.awake = true) (hbound : b.ctl.pair.role = .bound) (n : CommitNotice) :
    (commitNoticeAct n).run b = b.withPair { b.ctl.pair with notice := some n } := by
  simp only [commitNoticeAct, run_look, hawake, keepsMirror_of_bound hbound, Bool.and_self, run_when_true]
  rfl

/-- What a state record replaces. -/
def Pair.recorded (p : Pair) (r : StateRec) : Pair :=
  { p with seqs := r.seqs, progress := r.progress, notice := none, lineRec := 0, lineCtx := 0, swapAddr := r.swapAddr, swapBytes := r.swapBytes,
           regions := r.regions, sems := r.sems, ring := { p.ring with sqHead := r.sqHead, cqCount := r.cqCount } }

theorem run_stateRecordAct (hawake : b.ctl.awake = true) (hbound : b.ctl.pair.role = .bound) {r : StateRec} (hhand : r.hand = 0) :
    (stateRecordAct r).run b = (b.withPair (b.ctl.pair.recorded r)).sending .partner
      (.mirrorAck (lineCrc (lastStateLine r.seqs) (b.lineAt b.ctl.pair.lineCtx) (b.lineAt b.ctl.pair.lineRec))) := by
  have h1 : (r.hand != 1) = true := by rw [hhand]; rfl
  have h2 : (r.hand == 2) = false := by rw [hhand]; rfl
  simp only [stateRecordAct, run_look, hawake, keepsMirror_of_bound hbound, Bool.and_self, run_when_true, hbound, h1, h2, Bool.false_and,
    run_when_false, run_all_cons, run_all_nil, run_send]
  rfl

/-! ## Ends of steps and passes (R357, R360, R417, R422) -/

theorem run_updPass {p : Pass} (h : b.ctl.job.pass = some p) (f : Pass → Pass) : (updPass f).run b = b.withPass (some (f p)) := by
  simp only [updPass, run_upd, h]
  rfl

/-- The pass with one more rank ready. -/
def Pass.readied (p : Pass) (r : Nat) : Pass := { p with ready := p.ready ++ [r] }

theorem run_readyGo_waits {p : Pass} {k : Nat} (hp : b.ctl.job.pass = some p) (hk : k < b.ctl.jobP) (hnot : k ∉ p.ready) : readyGo.run b = b := by
  have hall : ((List.range b.ctl.jobP).all fun r => p.ready.contains r) = false := by
    simp only [List.all_eq_false]
    exact ⟨k, List.mem_range.2 hk, by simpa using hnot⟩
  simp only [readyGo, run_look, hp, run_opt_some, hall, Bool.and_false, run_when_false]

theorem run_readyGo_all {p : Pass} (hp : b.ctl.job.pass = some p) (hmirrors : b.ctl.mirrors = false) (hnoticed : p.noticed = false)
    (hall : ∀ k < b.ctl.jobP, k ∈ p.ready) : readyGo.run b = b.withPass (some { p with noticed := true }) := by
  have hall' : ((List.range b.ctl.jobP).all fun r => p.ready.contains r) = true := by
    simp only [List.all_eq_true, List.contains_eq_mem, decide_eq_true_eq]
    exact fun k hk => hall k (List.mem_range.1 hk)
  simp only [readyGo, run_look, hp, run_opt_some, hnoticed, hall', Bool.not_false, Bool.and_self, run_when_true, hmirrors, run_when_false, run_seq]
  exact run_updPass hp _

/-- A rank that the leader hears of for the first time in the step. -/
theorem run_rankReady_leader {p : Pass} {r : Nat} (hlead : b.ctl.leader = true) (hp : b.ctl.job.pass = some p) (hnew : r ∉ p.ready) :
    (rankReady r).run b = readyGo.run (b.withPass (some (p.readied r))) := by
  have hnot : p.ready.contains r = false := by simpa using hnew
  simp only [rankReady, run_look, hlead, if_true, run_seq, run_updPass hp, hnot, Bool.false_eq_true, if_false]
  rfl

theorem run_commitReadyAct_other {p : Pass} {r : Nat} (hawake : b.ctl.awake = true) (hlead : b.ctl.leader = true) (hserves : b.ctl.servesRank r = none)
    (hp : b.ctl.job.pass = some p) (hkind : p.notice.kind ≠ 0) (crc : Nat) : (commitReadyAct r crc).run b = (rankReady r).run b := by
  simp only [commitReadyAct, run_look, hawake, run_when_true, hp, run_opt_some, bne_iff_ne.2 hkind, hserves, hlead]

theorem run_commitReadyAct_own {p : Pass} (hawake : b.ctl.awake = true) (hlead : b.ctl.leader = false) (hmirrors : b.ctl.mirrors = false)
    (hp : b.ctl.job.pass = some p) (hkind : p.notice.kind ≠ 0) (htold : p.reported = true) (crc : Nat) :
    (commitReadyAct b.ctl.rank crc).run b = b.sending (.rank 0) (.commitReady b.ctl.rank) := by
  have hserves : b.ctl.servesRank b.ctl.rank = some false := if_pos rfl
  have htold' : p.told false = true := htold
  simp only [commitReadyAct, run_look, hawake, run_when_true, hp, run_opt_some, bne_iff_ne.2 hkind, hserves, htold', hmirrors, Bool.not_false,
    Bool.or_true, Bool.true_or, if_true, rankReady, hlead, Bool.false_eq_true, if_false, run_send]

theorem run_sendState_idle (h : b.ctl.mirrors = false) : sendState.run b = b := by
  simp only [sendState, sendHand, run_look, h, run_when_false]

/-- The flags that a rank context reports. -/
def Pass.outcome (p : Pass) (bad : Bool) : PassFlags := if bad then { p.flags with poisoned := true } else PassFlags.clean

theorem run_reportEnd {p : Pass} (hlead : b.ctl.leader = false) (hmirrors : b.ctl.mirrors = false) (hp : b.ctl.job.pass = some p) (bad : Bool) :
    (reportEnd false p.notice bad).run b =
      (({ b with ctl := if bad then b.ctl.discardWork else b.ctl }.withPass (some { p with reported := true })).sending (.rank 0)
        (.passReport p.notice.rank (p.outcome bad))) := by
  have hstate : ∀ c : Bool, (Act.when c sendState).run (b.withPass (some { p with reported := true })) =
      b.withPass (some { p with reported := true }) := fun c => by
    cases c
    · rfl
    · exact run_sendState_idle hmirrors
  simp only [reportEnd, run_look, hp, run_opt_some, run_all_cons, run_all_nil, run_updPass hp, Bool.false_eq_true, if_false, hlead]
  cases bad with
  | true => rfl
  | false =>
    rw [run_when_false, hstate]
    rfl

theorem run_passEndAct {p : Pass} {bad : Bool} (hawake : b.ctl.awake = true) (hlead : b.ctl.leader = false) (hrank2 : b.ctl.pair.rank2 = none)
    (hmirrors : b.ctl.mirrors = false) (hp : b.ctl.job.pass = some p) (hstarted : p.started = true) (hreported : p.reported = false)
    (hout : b.passOutcome false p.notice.kind = some bad) : passEndAct.run b =
      (({ b with ctl := if bad then b.ctl.discardWork else b.ctl }.withPass (some { p with reported := true })).sending (.rank 0)
        (.passReport p.notice.rank (p.outcome bad))) := by
  have hctx : b.ctl.contexts = [false] := by simp only [Ctl.contexts, hrank2, Option.isSome_none, Bool.false_eq_true, if_false]
  have hbegun : p.begun false = true := hstarted
  have htold : p.told false = false := hreported
  simp only [passEndAct, run_look, hawake, run_when_true, hctx, run_each_cons, run_each_nil, hp, run_opt_some, Bool.false_eq_true, if_false, hbegun,
    htold, Bool.not_false, Bool.and_self, hout, run_reportEnd hlead hmirrors hp]

/-- The leader notes a rank's report while another is missing. -/
theorem run_passReportAct_note {p : Pass} {r k : Nat} (hawake : b.ctl.awake = true) (hlead : b.ctl.leader = true) (hp : b.ctl.job.pass = some p)
    (hnew : ∀ x ∈ p.reports, x.rank ≠ r ∧ x.rank ≠ k) (hk : k ≠ r) (hkP : k < b.ctl.jobP) (f : PassFlags) :
    (passReportAct r f).run b = b.withPass (some { p with reports := p.reports ++ [{ rank := r, flags := f }] }) := by
  have hnone : (p.reports.any fun x => x.rank == r) = false := by
    simp only [List.any_eq_false, beq_iff_eq]
    exact fun x hx => (hnew x hx).1
  have hmiss : ((List.range b.ctl.jobP).all fun j => (p.reports ++ [({ rank := r, flags := f } : Report)]).any fun x => x.rank == j) = false := by
    simp only [List.all_eq_false, Bool.not_eq_true, List.any_eq_false, beq_iff_eq, List.mem_append, List.mem_singleton]
    refine ⟨k, List.mem_range.2 hkP, fun x hx => ?_⟩
    rcases hx with hx | rfl
    · exact (hnew x hx).2
    · exact fun h => hk h.symm
  simp only [passReportAct, run_look, hawake, run_when_true, hp, run_opt_some, hlead, if_true, addReport, run_seq, run_updPass hp, hnone,
    Bool.false_eq_true, if_false, reportsGo]
  exact congrArg (fun a : Act => a.run (b.withPass (some { p with reports := p.reports ++ [{ rank := r, flags := f }] })))
    (congrArg (fun c => Act.when c _) hmiss)

/-- Outside a pair, nothing goes to a partner. -/
theorem run_mirror_unbound (h : b.ctl.pair.role = .unbound) (m : MirrorMsg) : (mirror m).run b = b := by
  simp only [mirror, run_look, h]
  rfl

theorem run_mirrorContext_unbound (h : b.ctl.pair.role = .unbound) (second : Bool) : (mirrorContext second).run b = b := by
  simp only [mirrorContext, run_look]
  induction b.ctl.plan.contextPieces with
  | nil => rfl
  | cons x xs ih => rw [run_each_cons, run_mirror_unbound h, ih]

/-- The job runs: START_JOB's part of this rank is over. -/
def Block.jobOn (b : Block) : Block :=
  { b with ctl := { b.ctl with job := { b.ctl.job with inJob := true, starting := none, pass := none }, glb := { b.ctl.glb with state := .running } } }

/-- START_JOB has ended on a rank that another leads, outside a pair. -/
theorem run_startDone {st : Starting} (hlead : b.ctl.leader = false) (hrole : b.ctl.pair.role = .unbound) (hst : b.ctl.job.starting = some st) :
    startDone.run b = ((finish st.cmd .ok []).run b.jobOn).sending (.rank 0) (.rankFinished b.ctl.rank 0 0) := by
  have hmirrors : b.ctl.mirrors = false := by simp only [Ctl.mirrors, hrole]
  have hnot : (b.ctl.pair.role == .bound) = false := by rw [hrole]; rfl
  simp only [startDone, run_look, hst, run_opt_some, run_all_cons, run_all_nil, run_mirrorContext_unbound hrole, run_sendState_idle hmirrors, hlead,
    Bool.false_eq_true, if_false, hnot, run_when_false, run_send, run_upd]
  rfl

theorem run_passReportAct_start {p : Pass} {st : Starting} {f : PassFlags} (hawake : b.ctl.awake = true) (hlead : b.ctl.leader = false)
    (hp : b.ctl.job.pass = some p) (hkind : p.notice.kind = 0) (hf : f.poisoned = false) (hst : b.ctl.job.starting = some st) :
    (passReportAct 0 f).run b = startDone.run b := by
  simp only [passReportAct, run_look, hawake, run_when_true, hp, run_opt_some, hlead, Bool.false_eq_true, if_false, hkind, beq_self_eq_true,
    Bool.and_self, startEnd, hst, hf]

end PairWork

/-- Settles O27. -/
theorem mirrorIsKept : Obligations.MirrorIsKept := by
  unfold Obligations.MirrorIsKept
  intro s hawake hbound p
  refine ⟨fun q l n slot bytes f hf => ?_, fun off bytes => ?_, fun i bytes => ?_, fun i c bytes => ?_, fun key r => ?_, fun n => ?_, fun r hhand => ?_⟩
  · exact runs_of_perform rfl (run_mirrorWriteAct_record hawake hbound hf slot bytes)
  · exact runs_of_perform rfl (run_mirrorWriteAct hawake hbound rfl)
  · exact runs_of_perform rfl (run_mirrorWriteAct hawake hbound rfl)
  · refine ⟨_, runs_of_perform rfl (run_mirrorWriteAct (m := .completion i c bytes) hawake hbound rfl), rfl, ?_, fun y hy => ?_, rfl⟩
    · exact List.mem_append_right _ (List.mem_singleton.2 rfl)
    · exact bne_iff_ne.1 (List.mem_filter.1 hy).2
  · exact runs_of_perform rfl (run_mirrorWriteAct hawake hbound rfl)
  · exact runs_of_perform rfl (run_commitNoticeAct hawake hbound n)
  · exact ⟨_, runs_of_perform rfl (run_stateRecordAct hawake hbound hhand), rfl, rfl, rfl, rfl, rfl, rfl, rfl, rfl, rfl, rfl, rfl⟩

/-- Settles O28. -/
theorem pairBindings : Obligations.PairBindings := by
  unfold Obligations.PairBindings
  refine ⟨?bind, ?replace, ?unfit, ?handback, ?done⟩
  case bind =>
    intro s id x h hlegal hrole hfits
    have hrun := h.run_pairBindAct hlegal (by omega) hfits
    rw [if_pos hrole, run_seq, run_bindPair] at hrun
    have hk : (s.block.started id).Keeps { pair := true, health := true } ((bindPair .bound (u8 x.bytes 32) (bindRing x.bytes)).run (s.block.started id)) :=
      (only_bindPair rfl rfl _ _ _).keepsScope _
    rw [run_bindPair] at hk
    refine ⟨_, runs_of_perform rfl hrun, ended_finish (cmd_started h.cmd_eq) .ok [], rfl, rfl, rfl, rfl, rfl, rfl, rfl, rfl, ?_, ?_⟩
    · exact ((keeps_started (S := { pair := true, health := true, hif := true }) rfl s.block id).sameOutside rfl).trans ((hk.sameOutside rfl).trans
        (((only_finish (S := { hif := true }) rfl id .ok []).keepsScope _).sameOutside rfl))
    · exact ((othersKept_started _ _).trans (othersKept_of_hif (hk.ctl.hif rfl) id)).trans (othersKept_finish _ _ _ _)
  case replace =>
    intro s id x h hlegal hrole hfits
    have hrun := h.run_pairBindAct hlegal (by omega) hfits
    rw [if_neg (by omega)] at hrun
    simp only [run_all_cons, run_all_nil] at hrun
    have hbind := (only_bindPair (S := { pair := true, health := true, glb := true, hif := true }) rfl rfl (.replacement false) (u8 x.bytes 32)
      (bindRing x.bytes)).keepsScope (s.block.started id)
    have hglb := (only_glb (S := { pair := true, health := true, glb := true, hif := true }) rfl fun c => { c.glb with state := .resync }).keepsScope
      ((bindPair (.replacement false) (u8 x.bytes 32) (bindRing x.bytes)).run (s.block.started id))
    have hcmd : ((bindPair (.replacement false) (u8 x.bytes 32) (bindRing x.bytes)).run (s.block.started id)).ctl.cmd id = _ := cmd_started h.cmd_eq
    have hpair : ((bindPair (.replacement false) (u8 x.bytes 32) (bindRing x.bytes)).run (s.block.started id)).ctl.pair.role = .replacement false := rfl
    generalize (bindPair (.replacement false) (u8 x.bytes 32) (bindRing x.bytes)).run (s.block.started id) = c at hrun hbind hglb hcmd hpair
    have hwatch := (only_watchRing (S := { pair := true, health := true, glb := true, hif := true }) rfl).keepsScope
      ((Act.upd fun c => { c with glb := { c.glb with state := .resync } }).run c)
    have hring : ((watchRing.run ((Act.upd fun c => { c with glb := { c.glb with state := .resync } }).run c)).ctl.ring 0).on = true := by
      simp only [watchRing, run_look, updRing, run_upd, Ctl.ring, Tab.get_set_self, Ring.on]
      simp
    have hcmd' : (watchRing.run ((Act.upd fun c => { c with glb := { c.glb with state := .resync } }).run c)).ctl.cmd id = _ := hcmd
    have hpair' : (watchRing.run ((Act.upd fun c => { c with glb := { c.glb with state := .resync } }).run c)).ctl.pair.role = .replacement false := hpair
    have hstate : (watchRing.run ((Act.upd fun c => { c with glb := { c.glb with state := .resync } }).run c)).ctl.glb.state = .resync := rfl
    have hall := ((keeps_started (S := { pair := true, health := true, glb := true, hif := true }) rfl s.block id).trans hbind).trans (hglb.trans hwatch)
    generalize watchRing.run ((Act.upd fun c => { c with glb := { c.glb with state := .resync } }).run c) = d at hrun hring hcmd' hpair' hstate hall
    exact ⟨_, runs_of_perform rfl hrun, ended_finish hcmd' .ok [], hpair', hstate, hring,
      (hall.trans ((only_finish rfl id .ok []).keepsScope d)).sameOutside rfl⟩
  case unfit =>
    intro s id x h hlegal hrole hfits
    have hrun := h.run_pairBindAct_unfit hlegal hrole hfits
    exact ⟨_, runs_of_perform rfl hrun, (completes_completed h.cmd_eq .eCapacity []).ended, rfl, (completes_completed h.cmd_eq .eCapacity []).outside⟩
  case handback =>
    intro s id x h hstate hrole hpass hpartner
    have hrun := h.run_pairHandbackAct hstate hrole hpass hpartner
    exact ⟨_, runs_of_perform rfl hrun, ⟨_, cmd_started h.cmd_eq, rfl⟩, rfl, ⟨rfl, rfl, rfl, rfl, rfl, rfl, rfl, rfl, rfl, rfl, rfl, rfl⟩,
      othersKept_started s.block id⟩
  case done =>
    intro s gib hawake hrole
    have hrun := run_resyncCopyDoneAct (b := s.block) hawake hrole gib
    exact ⟨_, runs_of_perform rfl hrun, rfl, rfl, fun hroom => ⟨_, mem_held_accept hroom _, rfl, rfl, rfl⟩, rfl, rfl, rfl, rfl, rfl⟩

/-- Settles O25. -/
theorem passesEnd : Obligations.PassesEnd := by
  unfold Obligations.PassesEnd
  refine ⟨⟨?own, ?note, ?last⟩, ?passEnd, ?report, ?start⟩
  case own =>
    intro s p crc hawake hlead hmirrors hp hkind htold
    exact runs_of_perform rfl (run_commitReadyAct_own hawake hlead hmirrors hp hkind htold crc)
  case note =>
    intro s p r k crc hawake hlead hserves hp hkind hr hk hkr hkP
    have hwait := run_readyGo_waits (b := s.block.withPass (some (p.readied r))) (k := k) rfl hkP fun hm => by
      rcases List.mem_append.1 hm with hm | hm
      · exact hk hm
      · exact hkr (List.mem_singleton.1 hm)
    exact runs_of_perform rfl (((run_commitReadyAct_other hawake hlead hserves hp hkind crc).trans (run_rankReady_leader hlead hp hr)).trans hwait)
  case last =>
    intro s p r crc hawake hlead hserves hmirrors hp hkind hr hnoticed hall
    have hgo := run_readyGo_all (b := s.block.withPass (some (p.readied r))) rfl hmirrors hnoticed fun k hk => by
      by_cases hkr : k = r
      · exact List.mem_append_right _ (List.mem_singleton.2 hkr)
      · exact List.mem_append_left _ (hall k hk hkr)
    exact runs_of_perform rfl (((run_commitReadyAct_other hawake hlead hserves hp hkind crc).trans (run_rankReady_leader hlead hp hr)).trans hgo)
  case passEnd =>
    intro s p bad hawake hlead hrank2 hmirrors hp hstarted hreported hout
    exact runs_of_perform rfl (run_passEndAct hawake hlead hrank2 hmirrors hp hstarted hreported hout)
  case report =>
    intro s p r k f hawake hlead hp hnew hkr hkP
    exact runs_of_perform rfl (run_passReportAct_note hawake hlead hp hnew hkr hkP f)
  case start =>
    intro s p st f x hawake hlead hrole hp hkind hf hst hx
    have hrun := (run_passReportAct_start hawake hlead hp hkind hf hst).trans (run_startDone hlead hrole hst)
    have hx' : s.block.jobOn.ctl.cmd st.cmd = some x := hx
    exact ⟨_, runs_of_perform rfl hrun, ended_finish hx' .ok [], rfl, rfl, rfl, rfl, rfl, rfl, rfl, rfl⟩

end Sys2Proof.Machine


namespace Sys2Proof.Machine

/-! # The parts of the ranks in a command of the leader (R166, R353, Table 11-13) -/

section RankParts
variable {b : Block}

/-! ## The leader hears of a part -/

/-- A taken command's record with the answer of one rank less to wait for. -/
def Cmd.heard (x : Cmd) (r status : Nat) : Cmd := { x with ranks := x.ranks.filter (fun k => k != r), status := worse x.status status }

/-- The block whose only taken command is `x`. -/
def Block.withCmds (b : Block) (cs : List Cmd) : Block := { b with ctl := { b.ctl with hif := { b.ctl.hif with cmds := cs } } }

theorem run_updCmd_only {x : Cmd} (h : b.ctl.hif.cmds = [x]) (f : Cmd → Cmd) : (updCmd x.id f).run b = b.withCmds [f x] := by
  simp only [updCmd, run_upd, h, List.map_cons, List.map_nil, if_true]
  rfl

/-- A rank's answer about the one taken command: its part is done. -/
theorem run_rankPart {x : Cmd} {r key status : Nat} (hkey : key ≠ 0) (hlow : key < checkKey) (hcmds : b.ctl.hif.cmds = [x]) (hx : x.key = key)
    (hphase : x.phase = .running) (hr : x.ranks.contains r = true) (hcheck : (cOp x.bytes == 0x16 && x.steps == checkStep) = false) :
    (rankPart r key status).run b = (Act.when (x.ranks.filter fun k => k != r).isEmpty (endParts x (worse x.status status))).run
      (b.withCmds [x.heard r status]) := by
  have hno : decide (checkKey ≤ key) = false := decide_eq_false (Nat.not_le.2 hlow)
  have hfind : b.ctl.cmdOfKey key = some x := by simp only [Ctl.cmdOfKey, hcmds, List.find?_cons, hx, beq_self_eq_true]
  have hrun : (x.phase == .running) = true := beq_iff_eq.2 hphase
  have hsame : (false == false) = true := rfl
  simp only [rankPart, run_look, if_neg hkey, hno, Bool.false_eq_true, if_false, hfind, run_opt_some, hrun, hr, hcheck, hsame, Bool.and_self,
    run_when_true, run_seq, run_updCmd_only hcmds]
  rfl

/-- A rank's answer to the check of an edit list, with others still to come. -/
theorem run_rankPart_check {x : Cmd} {r status : Nat} (hcmds : b.ctl.hif.cmds = [x]) (hphase : x.phase = .running) (hr : x.ranks.contains r = true)
    (hop : cOp x.bytes = 0x16) (hsteps : x.steps = checkStep) (hleft : (x.ranks.filter fun k => k != r).isEmpty = false) :
    (rankPart r (x.key + checkKey) status).run b = b.withCmds [x.heard r status] := by
  have hkey : ¬x.key + checkKey = 0 := by
    have : 0 < checkKey := by decide
    omega
  have hyes : decide (checkKey ≤ x.key + checkKey) = true := decide_eq_true (Nat.le_add_left _ _)
  have hfind : b.ctl.cmdOfKey (x.key + checkKey - checkKey) = some x := by
    rw [Nat.add_sub_cancel]
    simp only [Ctl.cmdOfKey, hcmds, List.find?_cons, beq_self_eq_true]
  have hrun : (x.phase == .running) = true := beq_iff_eq.2 hphase
  have hcheck : (true == (cOp x.bytes == 0x16 && x.steps == checkStep)) = true := by rw [hop, hsteps]; rfl
  simp only [rankPart, run_look, if_neg hkey, hyes, if_true, hfind, run_opt_some, hrun, hr, hcheck, Bool.and_self, run_when_true, run_seq,
    run_updCmd_only hcmds, hleft, run_when_false]
  rfl

theorem run_rankFinishedAct_leader {r key status : Nat} (hawake : b.ctl.awake = true) (hlead : b.ctl.leader = true) :
    (rankFinishedAct r key status).run b = (rankPart r key status).run b := by
  simp only [rankFinishedAct, run_look, hawake, hlead, Bool.true_or, Bool.and_self, run_when_true]

theorem run_rankFinishedAct_start {r : Nat} (hawake : b.ctl.awake = true) (hr : r ∉ b.ctl.job.started) : (rankFinishedAct r 0 0).run b =
    { b with ctl := { b.ctl with job := { b.ctl.job with started := b.ctl.job.started ++ [r] } } } := by
  have hnot : b.ctl.job.started.contains r = false := by simpa using hr
  simp only [rankFinishedAct, run_look, hawake, beq_self_eq_true, Bool.or_true, Bool.and_self, run_when_true, rankPart, if_true, run_upd, hnot,
    Bool.false_eq_true, if_false]

theorem sameOutside_withCmds (b : Block) (cs : List Cmd) : b.SameOutside (b.withCmds cs) := ⟨rfl, rfl, rfl, rfl, rfl, rfl, rfl, rfl, rfl, rfl, rfl, rfl⟩

/-- The last rank's part ends a SEQ_CLOSE. -/
theorem run_endParts_close {x : Cmd} (hop : cOp x.bytes = 0x15) (st : Nat) : (endParts x st).run b =
    (finishCode x.id st []).run ((Act.upd fun c => c.setSeqFw (cSeq x.bytes) fun s => { s with closing := false }).run b) := by
  simp only [endParts, run_look, hop, run_seq]

/-! ## A rank that another leads -/

theorem run_journal_unbound (h : b.ctl.pair.role = .unbound) (key : Nat) : (journal key).run b = b := by
  simp only [journal, run_look]
  induction b.ctl.rank :: b.ctl.pair.rank2.toList with
  | nil => rfl
  | cons r rs ih => rw [run_each_cons, run_mirror_unbound h, ih]

/-- The block whose journal says that the part of a key is done. -/
def Block.journaled (b : Block) (key status : Nat) : Block :=
  { b with ctl := { b.ctl with fw := { b.ctl.fw with journal := (b.ctl.fw.journal.filter fun j => j.1 != key) ++ [(key, status)] } } }

/-- A part done on a module that runs one rank and is no pair's. -/
theorem run_partDone (hrole : b.ctl.pair.role = .unbound) (hrank2 : b.ctl.pair.rank2 = none) (key status : Nat) : (partDone key status).run b =
    (if b.ctl.leader then rankPart b.ctl.rank key status else send (.rank 0) (.rankFinished b.ctl.rank key status)).run (b.journaled key status) := by
  have hone : (b.journaled key status).ctl.rank :: (b.journaled key status).ctl.pair.rank2.toList = [b.ctl.rank] := by
    have h2 : (b.journaled key status).ctl.pair.rank2 = none := hrank2
    rw [h2]
    rfl
  rw [partDone, run_seq, run_seq, run_journal_unbound hrole]
  have hupd : (Act.upd fun c => { c with fw := { c.fw with journal := (c.fw.journal.filter fun j => j.1 != key) ++ [(key, status)] } }).run b =
    b.journaled key status := rfl
  rw [hupd, tellLeader, run_look, hone, run_each_cons, run_each_nil]
  rfl

theorem run_openUndo_none {q : Nat} (h : (b.ctl.seqFw q).opening = none) : (openUndo q).run b = b := by
  simp only [openUndo, run_look, h, Option.isSome_none, run_when_false]

section Fanout
variable {m : Fanout} (hawake : b.ctl.awake = true) (hjob : b.ctl.job.inJob = true) (hlead : b.ctl.leader = false)
include hawake hjob hlead

theorem run_commandFanoutAct_resume (hjournal : ∀ j ∈ b.ctl.fw.journal, j.1 ≠ m.key) (htasks : ∀ k ∈ b.ctl.fw.tasks, k.key ≠ m.key)
    (hop : cOp m.cmd = 0x14) (hpre : (b.ctl.seqFw (cSeq m.cmd % 4096)).pre ≠ .none) :
    (commandFanoutAct m).run b = (resumePart (cSeq m.cmd % 4096) m.key).run b := by
  have hj : b.ctl.fw.journal.find? (fun j => j.1 == m.key && j.1 != noKey) = none := by
    simp only [List.find?_eq_none, Bool.and_eq_true, beq_iff_eq, not_and]
    exact fun j hm h => absurd h (hjournal j hm)
  have ht : (b.ctl.fw.tasks.any fun t => t.key == m.key) = false := by
    simp only [List.any_eq_false, beq_iff_eq]
    exact htasks
  simp only [commandFanoutAct, run_look, hawake, hjob, hlead, Bool.not_false, Bool.and_self, run_when_true, hj, ht, Bool.false_eq_true, if_false, hop,
    if_neg hpre]

theorem run_commandFanoutAct_closed (hjournal : ∀ j ∈ b.ctl.fw.journal, j.1 ≠ m.key) (htasks : ∀ k ∈ b.ctl.fw.tasks, k.key ≠ m.key)
    (hop : cOp m.cmd = 0x15) (hclosed : (b.seq (cSeq m.cmd % 4096)).state = seqClosed)
    (hopening : (b.ctl.seqFw (cSeq m.cmd % 4096)).opening = none) : (commandFanoutAct m).run b = (partDone m.key 0).run b := by
  have hj : b.ctl.fw.journal.find? (fun j => j.1 == m.key && j.1 != noKey) = none := by
    simp only [List.find?_eq_none, Bool.and_eq_true, beq_iff_eq, not_and]
    exact fun j hm h => absurd h (hjournal j hm)
  have ht : (b.ctl.fw.tasks.any fun t => t.key == m.key) = false := by
    simp only [List.any_eq_false, beq_iff_eq]
    exact htasks
  simp only [commandFanoutAct, run_look, hawake, hjob, hlead, Bool.not_false, Bool.and_self, run_when_true, hj, ht, Bool.false_eq_true, if_false, hop,
    if_pos hclosed, run_seq, run_openUndo_none hopening]

/-- A part that is done already is reported again. -/
theorem run_commandFanoutAct_again {st : Nat} (hrank2 : b.ctl.pair.rank2 = none) (hkey : m.key ≠ noKey) (hjournal : b.ctl.fw.journal = [(m.key, st)]) :
    (commandFanoutAct m).run b = b.sending (.rank 0)
      (.rankFinished b.ctl.rank (if cOp m.cmd = 0x16 ∧ m.vbase = 1 then m.key + checkKey else m.key) st) := by
  have hj : b.ctl.fw.journal.find? (fun j => j.1 == m.key && j.1 != noKey) = some (m.key, st) := by
    simp only [hjournal, List.find?_cons, beq_self_eq_true, bne_iff_ne.2 hkey, Bool.and_self]
  have hcheck : (cOp m.cmd == 0x16 && m.vbase == 1) = decide (cOp m.cmd = 0x16 ∧ m.vbase = 1) := by
    by_cases h : cOp m.cmd = 0x16 ∧ m.vbase = 1
    · rw [decide_eq_true h, h.1, h.2]
      rfl
    · rw [decide_eq_false h]
      simpa [Bool.and_eq_false_iff, not_and_or] using h
  simp only [commandFanoutAct, run_look, hawake, hjob, hlead, Bool.not_false, Bool.and_self, run_when_true, hj, hrank2, Option.toList_none,
    run_each_cons, run_each_nil, run_send, hcheck, decide_eq_true_eq]

end Fanout

end RankParts

/-- Settles O23. -/
theorem ranksDoTheirParts : Obligations.RanksDoTheirParts := by
  unfold Obligations.RanksDoTheirParts
  refine ⟨?parts, ?again, ?started, ?last, ?more, ?check, ?timeout⟩
  case parts =>
    intro s m hawake hjob hlead hrank2 hrole hjournal htasks
    refine ⟨fun hop hpre => ?_, fun hop hclosed hopening => ?_⟩
    · have hrun := run_commandFanoutAct_resume hawake hjob hlead hjournal htasks hop hpre
      refine ⟨_, runs_of_perform rfl hrun, ?_, rfl, rfl, rfl, rfl, rfl, rfl, rfl, rfl, rfl, rfl, rfl, rfl⟩
      simp only [resumePart, run_upd, Ctl.seqFw, Ctl.setSeqFw, Tab.get_set_self]
    · have hrun := (run_commandFanoutAct_closed hawake hjob hlead hjournal htasks hop hclosed hopening).trans (run_partDone hrole hrank2 m.key 0)
      rw [hlead, if_neg (by decide), run_send] at hrun
      exact ⟨_, runs_of_perform rfl hrun, rfl, List.mem_append_right _ (List.mem_singleton.2 rfl), rfl⟩
  case again =>
    intro s m st hawake hjob hlead hrank2 hkey hjournal key
    exact runs_of_perform rfl (run_commandFanoutAct_again hawake hjob hlead hrank2 hkey hjournal)
  case started =>
    intro s r hawake hr
    exact runs_of_perform rfl (run_rankFinishedAct_start hawake hr)
  case last =>
    intro s r key x hawake hlead hkey hlow hcmds hx hphase hop hranks hstatus
    have hone : x.ranks.contains r = true := by simp [hranks]
    have hleft : (x.ranks.filter fun k => k != r).isEmpty = true := by simp [hranks]
    have hrun := (run_rankFinishedAct_leader (r := r) (key := key) (status := 0) hawake hlead).trans
      (run_rankPart hkey (hlow.trans (by decide)) hcmds hx hphase hone (by rw [hop]; rfl))
    rw [hleft, run_when_true, run_endParts_close hop, hstatus] at hrun
    refine ⟨_, runs_of_perform rfl hrun, ?_, rfl, rfl, rfl, rfl, rfl, rfl, rfl, rfl, rfl, rfl, rfl, rfl⟩
    exact ended_finish (b := (Act.upd fun c => c.setSeqFw (cSeq x.bytes) fun s => { s with closing := false }).run (s.block.withCmds [x.heard r 0]))
      (x := x.heard r 0) (List.find?_cons_of_pos (beq_self_eq_true x.id)) .ok []
  case more =>
    intro s r key k x hawake hlead hkey hlow hcmds hx hphase hranks hne hsteps
    have hone : x.ranks.contains r = true := by simp [hranks]
    have hleft : x.ranks.filter (fun j => j != r) = [k] := by simp [hranks, Ne.symm hne]
    have hcheck : (cOp x.bytes == 0x16 && x.steps == checkStep) = false := by
      by_cases hop : cOp x.bytes = 0x16
      · rw [beq_eq_false_iff_ne.2 (hsteps hop), Bool.and_false]
      · rw [beq_eq_false_iff_ne.2 hop, Bool.false_and]
    have hrun := (run_rankFinishedAct_leader (r := r) (key := key) (status := 0) hawake hlead).trans
      (run_rankPart hkey (hlow.trans (by decide)) hcmds hx hphase hone hcheck)
    rw [hleft, List.isEmpty_cons, run_when_false] at hrun
    exact ⟨_, runs_of_perform rfl hrun, by simp only [Block.withCmds, Cmd.heard, hleft], sameOutside_withCmds _ _⟩
  case check =>
    intro s r k x hawake hlead _ hcmds hphase hranks hne hop hsteps
    have hone : x.ranks.contains r = true := by simp [hranks]
    have hleft : x.ranks.filter (fun j => j != r) = [k] := by simp [hranks, Ne.symm hne]
    have hrun := (run_rankFinishedAct_leader (r := r) (key := x.key + checkKey) (status := 0) hawake hlead).trans
      (run_rankPart_check hcmds hphase hone hop hsteps (by rw [hleft]; rfl))
    exact ⟨_, runs_of_perform rfl hrun, by simp only [Block.withCmds, Cmd.heard, hleft], sameOutside_withCmds _ _⟩
  case timeout =>
    intro s id x hx hphase hop hlead hjob hmiss
    have hnot : ((List.range s.block.ctl.jobP).all fun r => s.block.ctl.job.started.contains r) = false := by
      obtain ⟨r, hr, hns⟩ := hmiss
      simp only [List.all_eq_false]
      exact ⟨r, List.mem_range.2 hr, by simpa using hns⟩
    have hrun : (jobStartTimeoutAct id).run s.block = (finish id .eLink []).run s.block := by
      simp only [jobStartTimeoutAct, run_look, hx, run_opt_some, hphase, beq_self_eq_true, hop, hlead, hjob, hnot, Bool.not_false, Bool.and_self,
        run_when_true]
    exact ⟨_, runs_of_perform rfl hrun, ended_finish hx .eLink [], othersKept_finish _ _ _ _,
      ((only_finish (S := { hif := true }) rfl id .eLink []).keepsScope _).sameOutside rfl⟩

end Sys2Proof.Machine


namespace Sys2Proof.Machine

/-! # Heartbeats, silence, takeover outside a job, and an abandoned rank (R214, R273, R352, R418, R426) -/

section Pairs
variable {b : Block} {S : Scope}

/-- A message that has been sent stays sent, whatever follows. -/
theorem mem_out_run {x : Sent} (a : Act) (h : x ∈ b.out) : x ∈ (a.run b).out := by
  obtain ⟨new, hnew⟩ := (run_relates b Block.Onward Block.Onward.refl (fun _ _ _ => Block.Onward.trans) Block.onward_apply a).sent
  rw [hnew]
  exact List.mem_append_right _ h

theorem only_sends_each (h : S.out = true) {α : Type} (xs : List α) (d : α → Dest) (m : α → Msg) :
    (Act.each xs fun x => send (d x) (m x)).Only (Eff.In S) := (only_each_iff _ _).2 fun _ _ => only_send h _ _

/-! ## Heartbeats (R418) -/

theorem only_heartbeatSendAct (h : S.out = true) : heartbeatSendAct.Only (Eff.In S) := by
  simp only [heartbeatSendAct, only_look, only_when_iff, only_seq_iff, only_each_iff, only_send h, and_self, implies_true]

/-- A block that differs in its messages alone. -/
theorem Block.Keeps.eq_out {t : Block} (h : b.Keeps { out := true } t) : t = { b with out := t.out } := by
  obtain ⟨h1, h2, h3, h4, h5, h6, h7, h8, h9, h10, -, h12, hctl⟩ := h
  obtain ⟨c1, c2, c3, c4, c5, c6, c7, c8, c9, c10, c11, c12, c13, c14, c15⟩ := hctl
  have hc : t.ctl = b.ctl := by
    cases ht : t.ctl
    cases hb : b.ctl
    simp only [ht, hb] at *
    simp_all
  cases t
  cases b
  simp_all

theorem run_heartbeatSendAct (hawake : b.ctl.awake = true) (halive : b.ctl.linksAlive = true) (hrole : b.ctl.pair.role = .bound) :
    heartbeatSendAct.run b = (Act.each [0, 1, 2, 3] fun k => Act.when (b.relays k) <|
        (send (.slot (2 * k)) (.beat none)).seq (send (.slot (2 * k + 1)) (.beat none))).run
      ((Act.each ((List.range 8).filter fun s => s / 2 != b.slot / 2 && b.upTo s) fun s => send (.slot s) (.beat (some b.slot))).run
        (b.sending .partner (.beat none))) := by
  have hbound : (b.ctl.bound && b.ctl.pair.role != .survivor) = true := by
    simp only [Ctl.bound, hrole]
    rfl
  simp only [heartbeatSendAct, run_look, hawake, halive, Bool.and_self, run_when_true, run_seq, hbound, run_send]

theorem run_heartbeatAct_relay (hawake : b.ctl.awake = true) (hrole : b.ctl.pair.role = .bound) (old : Fin 8) :
    (heartbeatAct (.relay old)).run b = b.withPair { b.ctl.pair with heardR := b.lhTime, relay := some old.val } := by
  have hbound : b.ctl.bound = true := by
    simp only [Ctl.bound, hrole]
    rfl
  simp only [heartbeatAct, run_look, hawake, run_when_true, hbound]
  rfl

theorem run_heartbeatAct_partner (hawake : b.ctl.awake = true) (hrole : b.ctl.pair.role = .bound) (hjob : b.ctl.job.inJob = false) (x : Bool) :
    (heartbeatAct (.partner x)).run b = b.withPair { b.ctl.pair with heardP := b.lhTime, armed := true } := by
  have hbound : (b.ctl.bound && b.ctl.pair.role != .survivor) = true := by
    simp only [Ctl.bound, hrole]
    rfl
  have harmed : (b.ctl.pair.armed || (b.ctl.pair.role == .bound && !b.ctl.job.inJob)) = true := by
    rw [hrole, hjob]
    exact Bool.or_true _
  simp only [heartbeatAct, run_look, hawake, run_when_true, hbound, run_upd, harmed]
  rfl

theorem run_isolationTimeoutAct (hawake : b.ctl.awake = true) (hrole : b.ctl.pair.role = .bound) (hp : b.ctl.pair.heardP + 100000 ≤ b.lhTime)
    (hr : b.ctl.pair.heardR + 100000 ≤ b.lhTime) : isolationTimeoutAct.run b = (fence 1).run b := by
  have hbound : (b.ctl.bound && b.ctl.pair.role != .survivor) = true := by
    simp only [Ctl.bound, hrole]
    rfl
  have hdue : decide (b.ctl.pair.heardP + isolationNs ≤ b.lhTime ∧ b.ctl.pair.heardR + isolationNs ≤ b.lhTime) = true := decide_eq_true ⟨hp, hr⟩
  simp only [isolationTimeoutAct, run_look, hawake, Bool.true_and, hbound, hdue, run_when_true]

theorem run_partnerFailed (hrole : b.ctl.pair.role = .bound) (harmed : b.ctl.pairArmed = true) (hrelay : b.relayHeard = true) (cause : Nat) :
    (partnerFailed cause).run b = b.withPair { b.ctl.pair with takeCause := some cause } := by
  simp only [partnerFailed, run_look]
  split
  next => simp only [harmed, hrelay, Bool.and_self, if_true]; rfl
  next h => exact nomatch hrole.symm.trans h
  next h => exact nomatch hrole.symm.trans h
  next h _ _ => exact absurd hrole h

/-! ## Takeover outside a job (R352, R418) -/

/-- The pair of a survivor that has taken its partner's place. -/
def Pair.survived (p : Pair) : Pair :=
  { p with role := .survivor, takeCause := none, armed := false, handover := false, failedSerial := p.partnerSerial }

/-- The commands of the partner's ring, taken up outside a job. -/
def Block.adoptions (b : Block) (id : Nat) : List Cmd := b.ctl.pair.ring.cmds.zipIdx.map fun (e, k) => b.adopted none (id + k) e.1 e.2

theorem adopted_ring_index (rank : Option Nat) (id i : Nat) (bytes : Bytes) :
    (b.adopted rank id i bytes).ring = partnerRing ∧ (b.adopted rank id i bytes).index = i := by
  simp only [Block.adopted]
  split
  next p hp => exact ⟨rfl, beq_iff_eq.1 (List.find?_some (p := fun q : Progress => q.index == i) hp)⟩
  next =>
    split
    · exact ⟨rfl, rfl⟩
    · exact ⟨rfl, rfl⟩

theorem only_takeRing (hhif : S.hif = true) (hhost : S.host = true) : takeRing.Only (Eff.In S) := by
  simp only [takeRing, only_look, only_all_cons, only_all_nil, only_each_iff, only_updRing hhif, only_one, Eff.In, hhost, and_self, implies_true]

theorem ring_takeRing : (takeRing.run b).ctl.ring partnerRing =
    { base := BitVec.ofNat 64 b.ctl.pair.ring.base, cqBase := BitVec.ofNat 64 b.ctl.pair.ring.cqBase, dbrec := BitVec.ofNat 64 b.ctl.pair.ring.dbrec,
      size := BitVec.ofNat 64 b.ctl.pair.ring.size, ctrl := BitVec.ofNat 64 (b.ctl.pair.ring.vector * 256 + 1), sqTail := b.ctl.pair.ring.sqHead,
      sqHead := b.ctl.pair.ring.sqHead, cqHead := b.ctl.pair.ring.cqHead, cqCount := b.ctl.pair.ring.cqCount } ∧
    (takeRing.run b).ctl.hif.cmds = b.ctl.hif.cmds := by
  have hhost : ∀ (es : List (Nat × Bytes)) (r : PartnerRing) (c : Block), ((Act.each es fun e =>
      .one (.host (r.cqBase + e.1 % max r.size 1 * 32) e.2)).run c).ctl = c.ctl := fun es r => by
    induction es with
    | nil => exact fun c => rfl
    | cons e es ih => exact fun c => ih _
  simp only [takeRing, run_look, run_all_cons, run_all_nil]
  constructor
  · have hctl : ∀ c : Block, ((Act.one (.host (b.ctl.pair.ring.dbrec + 12) [1])).run c).ctl = c.ctl := fun c => rfl
    rw [hctl, hhost]
    exact Tab.get_set_self _ _ _ _
  · have hctl : ∀ c : Block, ((Act.one (.host (b.ctl.pair.ring.dbrec + 12) [1])).run c).ctl = c.ctl := fun c => rfl
    rw [hctl, hhost]
    rfl

theorem run_choosePass_idle (h : b.ctl.job.inJob = false) : choosePass.run b = b := by
  simp only [choosePass, run_look, choosePassN, h, Bool.and_false, Bool.false_and, run_when_false]

theorem run_choosePass_follower (h : b.ctl.leader = false) : choosePass.run b = b := by
  simp only [choosePass, run_look, choosePassN, h, Bool.false_and, run_when_false]

theorem run_continueCommands_alone (h : b.ctl.pair.rank2 = none) : continueCommands.run b = b := by
  simp only [continueCommands, run_look, h, run_opt_none]

/-- The mirrored ring is empty once its commands have been taken up. -/
def Pair.emptied (p : Pair) : Pair := { p with notice := none, ring := { p.ring with cmds := [], entries := [] } }

/-- Detail of TAKEOVER_BEGIN outside a job. -/
def Pair.beginDetail (p : Pair) (cause : Nat) : Nat :=
  p.partnerSerial % 2 ^ 32 * 2 ^ 32 + 0xFFFF % 65536 * 65536 + p.partner % 256 * 256 + cause % 256

/-- The partner's ring has been taken over. -/
def Block.ringTaken (b : Block) (cause : Nat) : Block :=
  takeRing.run ((b.accept 0x0300 (src 9 b.ctl.pair.partner) (b.ctl.pair.beginDetail cause)).withPair b.ctl.pair.survived)

theorem keeps_ringTaken (b : Block) (cause : Nat) : ((b.accept 0x0300 (src 9 b.ctl.pair.partner) (b.ctl.pair.beginDetail cause)).withPair
    b.ctl.pair.survived).Keeps { hif := true, host := true } (b.ringTaken cause) := (only_takeRing rfl rfl).keepsScope _

/-- The commands of the partner's ring have been taken up. -/
def Block.commandsTaken (b : Block) (cause : Nat) : Block := (adopt (b.ringTaken cause).adoptions).run (b.ringTaken cause)

theorem keeps_commandsTaken (b : Block) (cause : Nat) : (b.ringTaken cause).Keeps { hif := true } (b.commandsTaken cause) :=
  Act.Only.keepsScope (only_hif rfl _) _

/-- A takeover outside a job: begin, ring, commands, and the end with its count. -/
theorem run_takeoverAct {cause : Nat} (hawake : b.ctl.awake = true) (hrole : b.ctl.pair.role = .bound) (hcause : b.ctl.pair.takeCause = some cause)
    (harmed : b.ctl.pairArmed = true) (hjob : b.ctl.job.inJob = false) (hrank2 : b.ctl.pair.rank2 = none) :
    takeoverAct.run b = ((b.commandsTaken cause).withPair (b.commandsTaken cause).ctl.pair.emptied).accept 0x0301 (src 9 b.ctl.pair.partner)
      (0xFFFF % 65536 * 65536 + b.ctl.pair.ring.cmds.length % 65536) := by
  have hb : (b.ctl.pair.role == .bound) = true := beq_iff_eq.2 hrole
  have hpair : (b.commandsTaken cause).ctl.pair = b.ctl.pair.survived :=
    ((keeps_commandsTaken b cause).ctl.pair rfl).trans ((keeps_ringTaken b cause).ctl.pair rfl)
  have hjob' : (b.commandsTaken cause).ctl.job.inJob = false := by
    rw [(keeps_commandsTaken b cause).ctl.job rfl, (keeps_ringTaken b cause).ctl.job rfl]
    exact hjob
  have hnone : ((none : Option Nat) == some 0) = false := rfl
  have hrank2' : ((b.commandsTaken cause).withPair (b.commandsTaken cause).ctl.pair.emptied).ctl.pair.rank2 = none := by
    have h : ((b.commandsTaken cause).withPair (b.commandsTaken cause).ctl.pair.emptied).ctl.pair.rank2 = (b.commandsTaken cause).ctl.pair.rank2 := rfl
    rw [h, hpair]
    exact hrank2
  have hcontinue := run_continueCommands_alone hrank2'
  have hchoose := run_choosePass_idle (b := (b.commandsTaken cause).withPair (b.commandsTaken cause).ctl.pair.emptied) hjob'
  simp only [takeoverAct, run_look, hawake, hb, Bool.and_self, run_when_true, hcause, run_opt_some, harmed, Bool.not_true, Bool.false_eq_true, if_false,
    hjob, run_all_cons, run_all_nil, run_opt_none, takeoverBegin, run_raise, Option.getD_none, Option.bind_none, hnone, run_when_false]
  have htake : (adopt fun id => (b.ringTaken cause).ctl.pair.ring.cmds.zipIdx.map fun (e, k) => (b.ringTaken cause).adopted none (id + k) e.1 e.2).run
      (b.ringTaken cause) = b.commandsTaken cause := rfl
  have hempty : (Act.upd fun c => { c with pair := { c.pair with notice := none, ring := { c.pair.ring with cmds := [], entries := [] } } }).run
      (b.commandsTaken cause) = (b.commandsTaken cause).withPair (b.commandsTaken cause).ctl.pair.emptied := rfl
  have hring : takeRing.run ((Act.upd fun c => { c with pair := { c.pair with
      role := .survivor, takeCause := none, armed := false, handover := false, failedSerial := b.ctl.pair.partnerSerial } }).run
        (b.accept 0x0300 (src 9 b.ctl.pair.partner) (b.ctl.pair.beginDetail cause))) = b.ringTaken cause := rfl
  simp only [Pair.beginDetail] at hring
  rw [hring, htake, hempty, hcontinue, hchoose]

end Pairs

/-! ## What firmware's own view of the job's addresses rests on -/

section View
variable {b c : Block}

/-- A block that shows the same bytes at every address: memory, semaphores, fuses, slot, plan and free values. -/
def Block.viewed (b : Block) : Block :=
  { Block.reset with mem := b.mem, sems := b.sems, fuses := b.fuses, fresh := b.fresh,
                     ctl := { Ctl.reset with glb := { Glb.reset with slot := b.ctl.glb.slot }, plan := b.ctl.plan } }

/-- Two blocks show the same bytes at every address. -/
structure Block.SameView (b c : Block) : Prop where
  mem   : c.mem = b.mem
  sems  : c.sems = b.sems
  fuses : c.fuses = b.fuses
  fresh : c.fresh = b.fresh
  slot  : c.ctl.glb.slot = b.ctl.glb.slot
  plan  : c.ctl.plan = b.ctl.plan

theorem Block.SameView.viewed (h : b.SameView c) : c.viewed = b.viewed := by
  obtain ⟨h1, h2, h3, h4, h5, h6⟩ := h
  simp only [Block.viewed, h1, h2, h3, h4, h5, h6]

theorem read_viewed (b : Block) (n : Nat) : ∀ a, b.read a n = b.viewed.read a n := by
  induction n with
  | zero => exact fun a => rfl
  | succ n ih => exact fun a => congrArg (b.byteAt a :: ·) (ih (a + 1))

theorem xlate_viewed (b : Block) : b.xlate = b.viewed.xlate := rfl

theorem readVa_viewed (b : Block) (sp : Space) (va len : Nat) : b.readVa sp va len = b.viewed.readVa sp va len := by
  simp only [Block.readVa, ← xlate_viewed b, ← read_viewed b]
  rfl

theorem seq_viewed (b : Block) (q : Nat) : b.seq q = b.viewed.seq q := congrArg SeqEnt.ofBytes (readVa_viewed b _ _ _)

theorem Block.SameView.readVa (h : b.SameView c) (sp : Space) (va len : Nat) : c.readVa sp va len = b.readVa sp va len := by
  rw [readVa_viewed c, readVa_viewed b, h.viewed]

theorem Block.SameView.xlate (h : b.SameView c) : c.xlate = b.xlate := by rw [xlate_viewed c, xlate_viewed b, h.viewed]

theorem Block.SameView.seq (h : b.SameView c) (q : Nat) : c.seq q = b.seq q := by rw [seq_viewed c, seq_viewed b, h.viewed]

theorem Block.SameView.openSeqs (h : b.SameView c) (hseqs : c.ctl.fw.seqs = b.ctl.fw.seqs) : c.openSeqs = b.openSeqs := by
  simp only [Block.openSeqs, h.seq, hseqs]

/-- A scope that leaves what firmware sees. -/
def Scope.sees (S : Scope) : Bool := !(S.mem || S.sems || S.fuses || S.fresh || S.glb || S.plan)

theorem Block.Keeps.sameView {S : Scope} (h : b.Keeps S c) (hS : S.sees = true) : b.SameView c := by
  simp only [Scope.sees, Bool.not_eq_true', Bool.or_eq_false_iff] at hS
  obtain ⟨⟨⟨⟨⟨hmem, hsems⟩, hfuses⟩, hfresh⟩, hglb⟩, hplan⟩ := hS
  exact ⟨h.mem hmem, h.sems hsems, h.fuses hfuses, h.fresh hfresh, congrArg Glb.slot (h.ctl.glb hglb), h.ctl.plan hplan⟩

end View

/-! ## An abandoned rank (R214, R273) -/

section Abandon
variable {b : Block} {S : Scope}

/-- What reads in a table whose entries have all been changed, is the default or has been changed. -/
theorem Tab.mapVals_induction {α : Type} [DecidableEq α] {d : α} {P : α → Prop} {f : α → α} (hd : P d) (hf : ∀ a, P (f a)) (t : Tab α) (k : Nat) :
    P (Tab.get d (Tab.mapVals d f t) k) := by
  have hfold : ∀ (t u : Tab α), (∀ k, P (Tab.get d u k)) → ∀ k, P (Tab.get d (t.foldl (fun u e => Tab.set d u e.1 (f e.2)) u) k) := by
    intro t
    induction t with
    | nil => exact fun u hu => hu
    | cons e t ih =>
      intro u hu
      refine ih _ fun k => ?_
      rw [Tab.get_set]
      split
      · exact hf e.2
      · exact hu k
  exact hfold t [] (fun _ => hd) k

/-- A cove that holds nothing but the XFERs of programs that run. -/
def Cove.Drained (v : Cove) : Prop := v.queue = [] ∧ ∀ x ∈ v.ctxs, rOp x.2.record = opXfer ∧ x.2.begun = true

theorem drained_empty : Cove.empty.Drained := ⟨rfl, fun _ hx => absurd hx List.not_mem_nil⟩

theorem drained_drained (v : Cove) : v.drained.Drained := by
  have hkeep : ∀ (o : Option Ctx) (x : Ctx), (o.filter fun x => rOp x.record == opXfer && x.begun) = some x → rOp x.record = opXfer ∧ x.begun = true := by
    intro o x h
    have hx := (Option.filter_eq_some_iff.1 h).2
    simpa using hx
  have hctx : ∀ n x, v.drained.ctx n = some x → rOp x.record = opXfer ∧ x.begun = true := by
    intro n x h
    rcases n with _ | _ | _ | n
    all_goals exact hkeep _ x h
  refine ⟨rfl, fun x hx => ?_⟩
  simp only [Cove.ctxs, List.mem_filterMap, Option.map_eq_some_iff] at hx
  obtain ⟨n, -, y, hy, rfl⟩ := hx
  exact hctx n y hy

theorem drained_discardWork (c : Ctl) (v : Nat) : (c.discardWork.cove v).Drained :=
  Tab.mapVals_induction (P := Cove.Drained) drained_empty drained_drained c.engine.coves v

/-- A table whose entries have been changed by number. -/
theorem Tab.get_mapKey {α : Type} {d : α} (g : Nat → α → α) (t : Tab α) (k : Nat) :
    Tab.get d (t.map fun e => (e.1, g e.1 e.2)) k = Tab.get d t k ∨ Tab.get d (t.map fun e => (e.1, g e.1 e.2)) k = g k (Tab.get d t k) := by
  induction t with
  | nil => exact .inl rfl
  | cons e t ih =>
    obtain ⟨j, a⟩ := e
    simp only [List.map_cons, Tab.get]
    split
    next h => exact .inr (by rw [h])
    next => exact ih

theorem Tab.get_mapKey_listed {α : Type} {d : α} (g : Nat → α → α) (t : Tab α) (k : Nat) (h : Tab.get d t k ≠ d) :
    Tab.get d (t.map fun e => (e.1, g e.1 e.2)) k = g k (Tab.get d t k) := by
  induction t with
  | nil => exact absurd rfl h
  | cons e t ih =>
    obtain ⟨j, a⟩ := e
    simp only [List.map_cons, Tab.get] at h ⊢
    split
    next hk => rw [hk]
    next hk =>
      rw [if_neg hk] at h
      exact ih h

/-- A plan channel that runs is asked to stop. -/
theorem stop_discardWork (c : Ctl) {e ch : Nat} (hch : ch < 32) (hplan : fwChannel e ch = false) (hrun : (c.chan e ch).state ≠ .idle) :
    (c.discardWork.chan e ch).stop = true := by
  have hkey : chKey e ch / 32 = e ∧ chKey e ch % 32 = ch := by
    simp only [chKey]
    omega
  have hlisted : Tab.get Channel.idle c.engine.ls.chans (chKey e ch) ≠ Channel.idle := fun h => hrun (congrArg Channel.state h)
  have hget := Tab.get_mapKey_listed (fun k (x : Channel) => if fwChannel (k / 32) (k % 32) then x else { x with stop := true }) c.engine.ls.chans
    (chKey e ch) hlisted
  have hchan : c.discardWork.chan e ch = { c.chan e ch with stop := true } := by
    refine hget.trans ?_
    simp only [hkey.1, hkey.2, hplan, Bool.false_eq_true, if_false]
    rfl
  rw [hchan]

theorem faults_discardWork (c : Ctl) : ∀ f ∈ c.discardWork.fw.faults, (∃ e ch, f.who = .channel e ch) ∨ ∃ k, f.who = .remote k := by
  intro f hf
  have hkeep := (List.mem_filter.1 hf).2
  split at hkeep
  next e ch hw => exact .inl ⟨e, ch, hw⟩
  next k hw => exact .inr ⟨k, hw⟩
  next => exact nomatch hkeep
  next => exact nomatch hkeep

theorem only_discardPass (hengine : S.engine = true) (hfw : S.fw = true) : discardPass.Only (Eff.In S) :=
  (only_upd _ _).2 fun _ => { engine := fun hs => absurd (hengine.symm.trans hs) (by decide), fw := fun hs => absurd (hfw.symm.trans hs) (by decide) }

theorem only_rebind (h : S.links = true) (rank serial slot : Nat) : (rebind rank serial slot).Only (Eff.In S) := only_links h _

/-- Work is abandoned where no sequence is open: plan work stops and the pass is over. -/
theorem run_abandonWork (hnone : b.openSeqs = []) : abandonWork.run b = (discardPass.run b).withPass none := by
  have hview : b.SameView ((discardPass.run b).withPass none) := (((only_discardPass (S := { engine := true, fw := true, job := true }) rfl rfl).keepsScope
    b).trans ((only_job (S := { engine := true, fw := true, job := true }) rfl fun c => { c.job with pass := none }).keepsScope (discardPass.run b))).sameView rfl
  have hopen : ((discardPass.run b).withPass none).openSeqs = [] := (hview.openSeqs rfl).trans hnone
  simp only [abandonWork, run_all_cons, run_all_nil, run_look, run_upd]
  have hupd : { discardPass.run b with ctl := { (discardPass.run b).ctl with job := { (discardPass.run b).ctl.job with pass := none } } } =
    (discardPass.run b).withPass none := rfl
  rw [hupd, hopen]
  rfl

theorem run_abandonNoticeAct {m : AbandonMsg} (hawake : b.ctl.awake = true) (hjob : b.ctl.job.inJob = true) (hrank : m.failedRank < b.ctl.jobP)
    (hlead : b.ctl.leader = false) (hreplay : m.replay = true) (hnone : b.openSeqs = []) : (abandonNoticeAct m).run b =
      (discardPass.run ((rebind m.failedRank m.partnerSerial m.partnerSlot).run b)).withPass none := by
  have hbind := (only_rebind (S := { links := true }) rfl m.failedRank m.partnerSerial m.partnerSlot).keepsScope b
  have hopen : ((rebind m.failedRank m.partnerSerial m.partnerSlot).run b).openSeqs = [] := ((hbind.sameView rfl).openSeqs rfl).trans hnone
  have hlead' : ((discardPass.run ((rebind m.failedRank m.partnerSerial m.partnerSlot).run b)).withPass none).ctl.leader = false := hlead
  simp only [abandonNoticeAct, run_look, hawake, hjob, decide_eq_true hrank, Bool.and_self, run_when_true, hreplay, Bool.not_true, Bool.false_and,
    run_when_false, run_all_cons, run_all_nil, run_abandonWork hopen, run_choosePass_follower hlead']

end Abandon

/-- Settles O29. -/
theorem heartbeatsAndTakeovers : Obligations.HeartbeatsAndTakeovers := by
  unfold Obligations.HeartbeatsAndTakeovers
  refine ⟨⟨?send, ?hear, ?isolation, ?failed⟩, ?takeover, ?abandon⟩
  case send =>
    intro s hawake halive hrole
    have hrun := run_heartbeatSendAct hawake halive hrole
    have hkeep := (only_heartbeatSendAct (S := { out := true }) rfl).keepsScope s.block
    rw [hrun] at hkeep
    refine ⟨_, runs_of_perform rfl hrun, mem_out_run _ (mem_out_run _ List.mem_cons_self), fun k hk hslot hup => mem_out_run _ ?_, hkeep.eq_out⟩
    rw [run_each_send]
    refine List.mem_append_left _ (List.mem_reverse.2 (List.mem_map.2 ⟨k, List.mem_filter.2 ⟨List.mem_range.2 hk, ?_⟩, rfl⟩))
    rw [bne_iff_ne.2 hslot, hup]
    rfl
  case hear =>
    intro s old hawake hrole hjob f
    refine ⟨fun hf => ?_, fun hf => ?_⟩
    · subst hf
      exact runs_of_perform rfl (run_heartbeatAct_relay hawake hrole old)
    · obtain ⟨x, rfl⟩ := hf
      exact runs_of_perform rfl (run_heartbeatAct_partner hawake hrole hjob x)
  case isolation =>
    intro s hawake hrole hp hr
    obtain ⟨h, hfence⟩ := run_fence s.block 1
    have hrun := (run_isolationTimeoutAct hawake hrole hp hr).trans hfence
    rw [run_warmReset] at hrun
    exact ⟨_, runs_of_perform rfl hrun, rfl, rfl, rfl, rfl, rfl, rfl, rfl, rfl⟩
  case failed =>
    intro s hawake hrole harmed hrelay
    refine ⟨fun hdue => runs_of_perform rfl ?_, runs_of_perform rfl ?_⟩
    · have hdue' : decide (s.block.ctl.pair.heardP + partnerNs ≤ s.block.lhTime) = true := decide_eq_true hdue
      rw [partnerTimeoutAct, run_look, hawake, hdue', hrelay, Bool.and_self, Bool.and_self, run_when_true, run_partnerFailed hrole harmed hrelay]
    · rw [faultNoticeAct, run_look, hawake, run_when_true, run_partnerFailed hrole harmed hrelay]
  case takeover =>
    intro s cause hawake hrole hcause harmed hjob hrank2
    have hrun := run_takeoverAct hawake hrole hcause harmed hjob hrank2
    have hring := keeps_ringTaken s.block cause
    have hcmds := keeps_commandsTaken s.block cause
    obtain ⟨hregs, hold⟩ := ring_takeRing (b := (s.block.accept 0x0300 (src 9 s.block.ctl.pair.partner) (s.block.ctl.pair.beginDetail cause)).withPair
      s.block.ctl.pair.survived)
    have hpair : (s.block.ringTaken cause).ctl.pair = s.block.ctl.pair.survived := hring.ctl.pair rfl
    have hpair' : (s.block.commandsTaken cause).ctl.pair = s.block.ctl.pair.survived := (hcmds.ctl.pair rfl).trans hpair
    have hrings : (s.block.commandsTaken cause).ctl.ring partnerRing = (s.block.ringTaken cause).ctl.ring partnerRing := rfl
    have hlist : (s.block.commandsTaken cause).ctl.hif.cmds =
      (s.block.ringTaken cause).ctl.hif.cmds ++ (s.block.ringTaken cause).adoptions (s.block.ringTaken cause).ctl.hif.nextId := rfl
    have hglb : (s.block.commandsTaken cause).ctl.glb = s.block.ctl.glb := (hcmds.ctl.glb rfl).trans (hring.ctl.glb rfl)
    have harb : (s.block.commandsTaken cause).arb.next = s.block.arb.next + 1 := congrArg Arbiter.next ((hcmds.arb rfl).trans (hring.arb rfl))
    have hmem : (s.block.commandsTaken cause).mem = s.block.mem := (hcmds.mem rfl).trans (hring.mem rfl)
    have hsems : (s.block.commandsTaken cause).sems = s.block.sems := (hcmds.sems rfl).trans (hring.sems rfl)
    have hfuses : (s.block.commandsTaken cause).fuses = s.block.fuses := (hcmds.fuses rfl).trans (hring.fuses rfl)
    have hadopt : (s.block.ringTaken cause).adoptions (s.block.ringTaken cause).ctl.hif.nextId = s.block.ctl.pair.ring.cmds.zipIdx.map fun x =>
        (s.block.ringTaken cause).adopted none ((s.block.ringTaken cause).ctl.hif.nextId + x.2) x.1.1 x.1.2 := by
      simp only [Block.adoptions, hpair]
      rfl
    have holdcmds : (s.block.ringTaken cause).ctl.hif.cmds = s.block.ctl.hif.cmds := hold
    have hregs' : (s.block.ringTaken cause).ctl.ring partnerRing = _ := hregs
    generalize s.block.commandsTaken cause = e at hrun hpair' hrings hlist hglb harb hmem hsems hfuses
    have htaken : ((e.withPair e.ctl.pair.emptied).accept 0x0301 (src 9 s.block.ctl.pair.partner)
      (0xFFFF % 65536 * 65536 + s.block.ctl.pair.ring.cmds.length % 65536)).ctl.pair = s.block.ctl.pair.survived.emptied := congrArg Pair.emptied hpair'
    refine ⟨_, runs_of_perform rfl hrun, ?_, ?_, ?_, hglb, ?_, ?_, fun i bs hi => ?_, fun y hy => ?_, congrArg (· + 1) harb, hmem, hsems, hfuses⟩
    · rw [htaken]
      rfl
    · rw [htaken]
      rfl
    · rw [htaken]
      rfl
    · exact congrArg Ring.sqHead (hrings.trans hregs')
    · exact congrArg Ring.cqCount (hrings.trans hregs')
    · obtain ⟨k, hk⟩ := List.mem_iff_getElem?.1 hi
      have hz : ((i, bs), k) ∈ s.block.ctl.pair.ring.cmds.zipIdx := List.mk_mem_zipIdx_iff_getElem?.2 hk
      obtain ⟨h1, h2⟩ := adopted_ring_index (b := s.block.ringTaken cause) none ((s.block.ringTaken cause).ctl.hif.nextId + k) i bs
      refine ⟨_, ?_, h1, h2⟩
      have hin : (s.block.ringTaken cause).adopted none ((s.block.ringTaken cause).ctl.hif.nextId + k) i bs ∈ e.ctl.hif.cmds := by
        rw [hlist, hadopt]
        exact List.mem_append_right _ (List.mem_map.2 ⟨_, hz, rfl⟩)
      exact hin
    · have hin : y ∈ e.ctl.hif.cmds := by
        rw [hlist, holdcmds]
        exact List.mem_append_left _ hy
      exact hin
  case abandon =>
    intro s m hawake hjob hrank hlead hreplay hnone
    have hrun := run_abandonNoticeAct hawake hjob hrank hlead hreplay hnone
    have hwork : ((discardPass.run ((rebind m.failedRank m.partnerSerial m.partnerSlot).run s.block)).withPass none).ctl.engine =
      (((rebind m.failedRank m.partnerSerial m.partnerSlot).run s.block).ctl.discardWork).engine := rfl
    have hkeep := ((only_rebind (S := { links := true, engine := true, fw := true }) rfl m.failedRank m.partnerSerial m.partnerSlot).keepsScope s.block).trans
      ((only_discardPass (S := { links := true, engine := true, fw := true }) rfl rfl).keepsScope _)
    refine ⟨_, runs_of_perform rfl hrun, fun e he => ?_, fun k hk => ?_, rfl, faults_discardWork _, fun v => drained_discardWork _ v,
      fun e ch hch hplan hstate => stop_discardWork _ hch hplan hstate, ?_⟩
    · have hranks : ((discardPass.run ((rebind m.failedRank m.partnerSerial m.partnerSlot).run s.block)).withPass none).ctl.links.fabric.ranks =
        s.block.ctl.links.fabric.ranks.modify m.failedRank fun e => { e with serial := m.partnerSerial, slot := m.partnerSlot } := rfl
      rw [hranks, List.getElem?_modify, he]
      simp
    · have hranks : ((discardPass.run ((rebind m.failedRank m.partnerSerial m.partnerSlot).run s.block)).withPass none).ctl.links.fabric.ranks =
        s.block.ctl.links.fabric.ranks.modify m.failedRank fun e => { e with serial := m.partnerSerial, slot := m.partnerSlot } := rfl
      rw [hranks, List.getElem?_modify]; simp [Ne.symm hk]
    · exact (hkeep.sameOutside rfl).trans ⟨rfl, rfl, rfl, rfl, rfl, rfl, rfl, rfl, rfl, rfl, rfl, rfl⟩

end Sys2Proof.Machine


namespace Sys2Proof.Machine

/-! # SEQ_APPEND and SEQ_STEP: the leader opens a pass (R357, R361) -/

section Scopes
variable {S : Scope}

/-- Firmware may write a table entry: where it lies on a board peer, by a message. -/
def Scope.entries : Scope := { mem := true, lrs := true, out := true }

theorem only_setSeq (hmem : S.mem = true) (hlrs : S.lrs = true) (hout : S.out = true) (q : Nat) (f : SeqEnt → SeqEnt) :
    (setSeq q f).Only (Eff.In S) := by
  simp only [setSeq, only_look, only_each_iff, only_writeVa hmem hlrs hout, implies_true]

theorem only_toOthers (h : S.out = true) (f : Nat → Msg) : (toOthers f).Only (Eff.In S) := by
  simp only [toOthers, only_look, only_each_iff, only_send h, implies_true]

theorem only_announce (h : S.out = true) (q : Nat) : (announce q).Only (Eff.In S) := by
  simp only [announce, only_look, only_toOthers h, implies_true]

end Scopes

section Passes
variable {b : Block} {id : Nat} {x y : Cmd}

/-- A message that goes to every other rank. -/
theorem mem_out_toOthers {r : Nat} (f : Nat → Msg) (hr : r < b.ctl.jobP) (hnot : b.ctl.servesRank r = none) :
    { dest := .rank r, msg := f r } ∈ ((toOthers f).run b).out := by
  have hrun : ((toOthers f).run b).out = (((List.range b.ctl.jobP).filter fun r => (b.ctl.servesRank r).isNone).map
      fun r => ({ dest := .rank r, msg := f r } : Sent)).reverse ++ b.out := by
    rw [toOthers, run_look]
    exact congrArg Block.out (run_each_send _ (fun r => Dest.rank r) f b)
  rw [hrun]
  refine List.mem_append_left _ (List.mem_reverse.2 (List.mem_map.2 ⟨r, List.mem_filter.2 ⟨List.mem_range.2 hr, ?_⟩, rfl⟩))
  rw [hnot]
  rfl

/-- The leader of a job with no pass in progress opens the next pass of the first candidate. -/
theorem run_choosePass (hlead : b.ctl.leader = true) (hjob : b.ctl.job.inJob = true) (hpass : b.ctl.job.pass = none)
    (hfirst : b.ctl.firstOf b.candidates = some y)
    (hroom : ¬((b.nextPass y).1 = 3 ∧ (b.seq (cSeq y.bytes)).pending ≠ noToken ∧ 16 * (b.seq (cSeq y.bytes)).capPages ≤ (b.seq (cSeq y.bytes)).length)) :
    choosePass.run b = (openPass (some y.id) (b.noticeOf y (b.nextPass y).1 (b.seq (cSeq y.bytes)).length (b.nextPass y).2)).run b := by
  simp only [choosePass, run_look, choosePassN, hlead, hjob, hpass, Option.isNone_none, Bool.and_self, run_when_true, hfirst, run_opt_some, if_neg hroom]

/-- The leader's record of a pass that it opens. -/
def Ctl.opened (c : Ctl) (cmd : Option Nat) (mk : Nat → PassNotice) : Pass :=
  { notice := mk c.rank, notice2 := c.pair.rank2.map mk, cmd := cmd, started := false, started2 := false, reported := false, reported2 := false,
    flags := { poisoned := false, shape := false, capacity := false }, reports := [], ready := [], noticed := false }

theorem run_openPass (cmd : Option Nat) (mk : Nat → PassNotice) : (openPass cmd mk).run b =
    (toOthers fun r => .passNotice (mk r)).run (b.withPass (some (b.ctl.opened cmd mk))) := by
  rw [openPass, run_seq]
  rfl

theorem keeps_openPass (cmd : Option Nat) (mk : Nat → PassNotice) : (b.withPass (some (b.ctl.opened cmd mk))).Keeps { out := true }
    ((openPass cmd mk).run b) := by
  rw [run_openPass]
  exact (only_toOthers rfl _).keepsScope _

/-- A command that is legal is one that came to the job leader. -/
theorem leader_of_seqLegal {ss : List Nat} (h : seqLegal ss b x = true) : b.ctl.leader = true := by
  simp only [seqLegal, Ctl.leads, Bool.and_eq_true] at h
  exact h.1.1.1.1.2.1

/-- A command runs, and its sequence is ACTIVE: the block before the leader chooses a pass. -/
theorem keeps_beginSteps (b : Block) (q : Nat) (f : SeqEnt → SeqEnt) :
    b.Keeps Scope.entries ((Act.all [setSeq q f, announce q]).run b) := by
  refine Act.Only.keepsScope ?_ b
  simp only [only_all_cons, only_all_nil, only_setSeq (S := Scope.entries) rfl rfl rfl, only_announce (S := Scope.entries) rfl, and_self]

theorem run_beginSteps (b : Block) (x : Cmd) : (beginSteps x).run b =
    choosePass.run ((Act.all [setSeq (cSeq x.bytes) fun e => { e with state := seqActive }, announce (cSeq x.bytes)]).run b) := by
  simp only [beginSteps, run_all_cons, run_all_nil]

theorem Block.MayRun.run_seqAppendAct_empty (h : b.MayRun id 0x11 x) (hlegal : seqLegal [seqOpenSt] b x = true) (hn : u32 x.bytes 36 = 0) :
    (seqAppendAct id).run b = b.completed id .okEmpty (seqResult (b.started id) x false) := by
  rw [seqAppendAct, h.run_startCmd hlegal]
  simp only [run_look, if_pos hn]
  rfl

theorem Block.MayRun.run_seqStepAct_empty (h : b.MayRun id 0x12 x) (hlegal : seqLegal [seqOpenSt] b x = true) (hn : u32 x.bytes 36 = 0) :
    (seqStepAct id).run b = b.completed id .okEmpty (seqResult (b.started id) x false) := by
  rw [seqStepAct, h.run_startCmd hlegal]
  simp only [run_look, if_pos hn]
  rfl

/-- What SEQ_APPEND adds to its sequence: its tokens, and the pending one. -/
theorem Block.MayRun.run_seqAppendAct (h : b.MayRun id 0x11 x) (hlegal : seqLegal [seqOpenSt] b x = true) {took : Bool} {total : Nat}
    (htook : (((b.started id).seq (cSeq x.bytes)).pending != noToken) = took) (htotal : u32 x.bytes 36 + (if took then 1 else 0) = total)
    (hn : u32 x.bytes 36 ≠ 0)
    (hroom : ((b.started id).seq (cSeq x.bytes)).length + total ≤ 16 * ((b.started id).seq (cSeq x.bytes)).capPages)
    (hpos : ((b.started id).seq (cSeq x.bytes)).length < b.ctl.plan.prefixEnd b.ctl.jobP → (b.ctl.plan.passEntry 1).isSome = true)
    (hext : b.ctl.plan.prefixEnd b.ctl.jobP < ((b.started id).seq (cSeq x.bytes)).length + total → (b.ctl.plan.passEntry 2).isSome = true)
    (hop : (b.started id).operandOk (u8 x.bytes 34) (u64 x.bytes 40) (4 * u32 x.bytes 36) = true) :
    (seqAppendAct id).run b = choosePass.run ((Act.all [updCmd id fun z => { z with tookPend := took },
      setSeq (cSeq x.bytes) fun e => { e with state := seqActive }, announce (cSeq x.bytes)]).run (b.started id)) := by
  have hpos' : (decide (((b.started id).seq (cSeq x.bytes)).length < b.ctl.plan.prefixEnd b.ctl.jobP) && (b.ctl.plan.passEntry 1).isNone) = false := by
    rw [Bool.and_eq_false_imp]
    exact fun hlt => Option.isNone_eq_false_iff.2 (hpos (of_decide_eq_true hlt))
  have hext' : (decide (b.ctl.plan.prefixEnd b.ctl.jobP < ((b.started id).seq (cSeq x.bytes)).length + total) && (b.ctl.plan.passEntry 2).isNone) = false := by
    rw [Bool.and_eq_false_imp]
    exact fun hlt => Option.isNone_eq_false_iff.2 (hext (of_decide_eq_true hlt))
  have hctl : (b.started id).ctl.plan = b.ctl.plan ∧ (b.started id).ctl.jobP = b.ctl.jobP := ⟨rfl, rfl⟩
  rw [seqAppendAct, h.run_startCmd hlegal]
  simp only [run_look, hctl.1, hctl.2, htook, htotal, if_neg hn, hpos', hext', Bool.or_self, hop, Bool.not_true, Bool.false_eq_true, if_false,
    if_neg (Nat.not_lt.2 hroom), run_seq, run_beginSteps, run_all_cons, run_all_nil]

theorem Block.MayRun.run_seqStepAct (h : b.MayRun id 0x12 x) (hlegal : seqLegal [seqOpenSt] b x = true) (hn : u32 x.bytes 36 ≠ 0)
    (hpass : (b.ctl.plan.passEntry 3).isSome = true) (hop : (b.started id).operandOk (u8 x.bytes 34) (u64 x.bytes 40) (4 * u32 x.bytes 36) = true) :
    (seqStepAct id).run b = choosePass.run ((Act.all [setSeq (cSeq x.bytes) fun e => { e with state := seqActive },
      announce (cSeq x.bytes)]).run (b.started id)) := by
  have hpass' : ((b.started id).ctl.plan.passEntry 3).isNone = false := Option.isNone_eq_false_iff.2 hpass
  rw [seqStepAct, h.run_startCmd hlegal]
  simp only [run_look, if_neg hn, hpass', Bool.false_eq_true, if_false, hop, Bool.not_true, run_beginSteps]

/-- A running command goes on. -/
theorem goes_of_hif {t : Block} (hgo : b.Goes id) (h : t.ctl.hif = b.ctl.hif) : t.Goes id := by
  obtain ⟨y, hy, hphase⟩ := hgo
  exact ⟨y, (cmd_of_hif h id).trans hy, hphase⟩

theorem goes_of_cmd (hx : b.ctl.cmd id = some x) : (b.started id).Goes id := ⟨_, cmd_started hx, rfl⟩

/-- A change of a running command that leaves its number and phase. -/
theorem goes_updCmd {f : Cmd → Cmd} (hid : ∀ y, (f y).id = y.id) (hphase : ∀ y, (f y).phase = y.phase) (hgo : b.Goes id) :
    ((updCmd id f).run b).Goes id := by
  obtain ⟨y, hy, hrun⟩ := hgo
  exact ⟨f y, find?_map_cmd hid hy, (hphase y).trans hrun⟩

/-- What the leader's opening of a pass shows: all but the messages and its own record of the pass is the block at the choice. -/
theorem opens_pass {b1 : Block} (hkeep : b.Keeps { Scope.entries with hif := true } b1) (hlead : b.ctl.leader = true) (hjob : b.ctl.job.inJob = true)
    (hpass : b.ctl.job.pass = none) (hfirst : b1.ctl.firstOf b1.candidates = some y) (hgo : b1.Goes id)
    (hroom : ¬((b1.nextPass y).1 = 3 ∧ (b1.seq (cSeq y.bytes)).pending ≠ noToken ∧
      16 * (b1.seq (cSeq y.bytes)).capPages ≤ (b1.seq (cSeq y.bytes)).length)) :
    (choosePass.run b1).mem = b1.mem ∧ (choosePass.run b1).host = b.host ∧ (choosePass.run b1).sems = b.sems ∧ (choosePass.run b1).arb = b.arb ∧
    (choosePass.run b1).Goes id ∧
    (∃ p, (choosePass.run b1).ctl.job.pass = some p ∧ p.cmd = some y.id ∧ p.started = false ∧
      p.notice = b1.noticeOf y (b1.nextPass y).1 (b1.seq (cSeq y.bytes)).length (b1.nextPass y).2 b.ctl.rank) ∧
    ∀ r < b.ctl.jobP, b.ctl.servesRank r = none → ∃ m ∈ (choosePass.run b1).out, m.dest = .rank r ∧
      m.msg = .passNotice (b1.noticeOf y (b1.nextPass y).1 (b1.seq (cSeq y.bytes)).length (b1.nextPass y).2 r) := by
  have hlinks : b1.ctl.links = b.ctl.links := hkeep.ctl.links rfl
  have hpair : b1.ctl.pair = b.ctl.pair := hkeep.ctl.pair rfl
  have hj : b1.ctl.job = b.ctl.job := hkeep.ctl.job rfl
  have hrank : b1.ctl.rank = b.ctl.rank := by simp only [Ctl.rank, hlinks]
  have hp : b1.ctl.jobP = b.ctl.jobP := by simp only [Ctl.jobP, hlinks]
  have hserves : ∀ r, b1.ctl.servesRank r = b.ctl.servesRank r := fun r => by simp only [Ctl.servesRank, hrank, hpair]
  have hlead1 : b1.ctl.leader = true := by rw [← hlead]; simp only [Ctl.leader, hrank, hpair]
  rw [run_choosePass hlead1 (hj ▸ hjob) (hj ▸ hpass) hfirst hroom]
  generalize b1.noticeOf y (b1.nextPass y).1 (b1.seq (cSeq y.bytes)).length (b1.nextPass y).2 = mk
  have ho := keeps_openPass (b := b1) (some y.id) mk
  refine ⟨ho.mem rfl, (ho.host rfl).trans (hkeep.host rfl), (ho.sems rfl).trans (hkeep.sems rfl), (ho.arb rfl).trans (hkeep.arb rfl),
    goes_of_hif hgo (ho.ctl.hif rfl), ⟨b1.ctl.opened (some y.id) mk, congrArg Job.pass (ho.ctl.job rfl), rfl, rfl, congrArg mk hrank⟩,
    fun r hr hnot => ⟨{ dest := .rank r, msg := .passNotice (mk r) }, ?_, rfl, rfl⟩⟩
  rw [run_openPass]
  exact mem_out_toOthers _ (hp.symm ▸ hr) ((hserves r).trans hnot)

end Passes

/-- Settles O20. -/
theorem stepsOpenPasses : Obligations.StepsOpenPasses := by
  unfold Obligations.StepsOpenPasses
  refine ⟨⟨?append, ?step⟩, ?empty⟩
  case append =>
    intro s id x y hx hlegal b q took total hn hroom hpos hext hop b1 hjob hpass hfirst hkind
    have hrun : (seqAppendAct id).run s.block = choosePass.run b1 := hx.run_seqAppendAct hlegal (took := took) (total := total) rfl rfl hn hroom hpos hext hop
    have hkeep : s.block.Keeps { Scope.entries with hif := true } b1 := by
      refine (keeps_started rfl s.block id).trans (Act.Only.keepsScope ?_ b)
      simp only [only_all_cons, only_all_nil, only_updCmd (S := { Scope.entries with hif := true }) rfl, only_setSeq (S := { Scope.entries with hif := true }) rfl rfl rfl,
        only_announce (S := { Scope.entries with hif := true }) rfl, and_self]
    have hgo0 : ((updCmd id fun z => { z with tookPend := took }).run b).Goes id := goes_updCmd (fun _ => rfl) (fun _ => rfl) (goes_of_cmd hx.cmd_eq)
    have hkeep0 := keeps_beginSteps ((updCmd id fun z => { z with tookPend := took }).run b) q fun e => { e with state := seqActive }
    have hgo : b1.Goes id := goes_of_hif hgo0 (hkeep0.ctl.hif rfl)
    clear_value b1
    exact ⟨choosePass.run b1, runs_of_perform rfl hrun, opens_pass hkeep (leader_of_seqLegal hlegal) hjob hpass hfirst hgo fun h => hkind h.1⟩
  case step =>
    intro s id x y hx hlegal b q hn hentry hop b1 e hjob hpass hfirst hy hroom
    have hrun : (seqStepAct id).run s.block = choosePass.run b1 := hx.run_seqStepAct hlegal hn hentry hop
    have hkeep : s.block.Keeps { Scope.entries with hif := true } b1 := by
      refine (keeps_started rfl s.block id).trans (Act.Only.keepsScope ?_ b)
      simp only [only_all_cons, only_all_nil, only_setSeq (S := { Scope.entries with hif := true }) rfl rfl rfl,
        only_announce (S := { Scope.entries with hif := true }) rfl, and_self]
    have hkeep0 := keeps_beginSteps b q fun e => { e with state := seqActive }
    have hgo : b1.Goes id := goes_of_hif (goes_of_cmd hx.cmd_eq) (hkeep0.ctl.hif rfl)
    clear_value b1
    have hnext : b1.nextPass y = (3, e.length + if e.pending = noToken then 0 else 1) := by simp only [Block.nextPass, if_pos hy]; rfl
    obtain ⟨hmem, hhost, hsems, harb, hgoes, ⟨p, hp, hcmd, hstarted, hnotice⟩, -⟩ := opens_pass hkeep (leader_of_seqLegal hlegal) hjob hpass hfirst hgo
      (fun h => h.2.2.not_gt (hroom.resolve_left h.2.1))
    rw [hnext] at hnotice
    refine ⟨choosePass.run b1, runs_of_perform rfl hrun, hmem, hhost, hsems, harb, hgoes, p, hp, hcmd, hstarted, ?_⟩
    rw [hnotice]
    exact ⟨rfl, rfl, rfl, rfl, rfl⟩
  case empty =>
    intro s id x step hx hlegal hn
    cases step with
    | false =>
      obtain ⟨hended, hothers, houtside, hctl⟩ := completes_completed hx.cmd_eq .okEmpty (seqResult (s.block.started id) x false)
      exact ⟨_, runs_of_perform rfl (hx.run_seqAppendAct_empty hlegal hn), hended, hothers, houtside, hctl⟩
    | true =>
      obtain ⟨hended, hothers, houtside, hctl⟩ := completes_completed hx.cmd_eq .okEmpty (seqResult (s.block.started id) x false)
      exact ⟨_, runs_of_perform rfl (hx.run_seqStepAct_empty hlegal hn), hended, hothers, houtside, hctl⟩

end Sys2Proof.Machine


namespace Sys2Proof.Machine

/-! # A rank alone in its job: table entries, pre-emption and closing (R158, R176, R178, R182) -/

section Entry
variable {b c : Block} {q a : Nat}

@[simp] theorem SeqEnt.bytes_length (e : SeqEnt) : e.bytes.length = 64 := by
  simp only [SeqEnt.bytes, List.length_append, leBytes_length, zeroBytes, List.length_replicate]

/-- A table entry that firmware writes in one rank context: its 64 bytes, and nothing else (R152). -/
theorem Block.EntryAt.run_setSeq (h : b.EntryAt q a) (f : SeqEnt → SeqEnt) : (setSeq q f).run b = b.wrote a (f (b.seq q)).bytes := by
  obtain ⟨hrank2, hparts, hx⟩ := h
  have hcontexts : b.ctl.contexts = [false] := by simp only [Ctl.contexts, hrank2, Option.isSome_none, Bool.false_eq_true, if_false]
  have hok : b.xlate fwSpace (b.ctl.plan.seqEntry q) true = .ok b.slot a := hx b.mem true fun _ _ => rfl
  have hslice : slice (f (b.seq q)).bytes 0 64 = (f (b.seq q)).bytes := by
    simp only [slice, List.drop_zero]
    exact List.take_of_length_le (SeqEnt.bytes_length _).le
  have hspace : { fwSpace with second := false } = fwSpace := rfl
  have hseq : b.seqIn false q = b.seq q := rfl
  simp only [setSeq, run_look, hcontexts, run_each_cons, run_each_nil, writeVa, hspace, hseq, SeqEnt.bytes_length, hparts, hok, if_true, Nat.sub_self,
    hslice]
  rfl

/-- An entry lies where it lay, as long as what its translation reads is the same. -/
theorem Block.EntryAt.of_view (h : b.EntryAt q a) (hrank2 : c.ctl.pair.rank2 = none) (hview : ({ b with mem := c.mem } : Block).SameView c)
    (hmem : ∀ k, (k < a ∨ a + 64 ≤ k) → c.mem.byte k = b.mem.byte k) : c.EntryAt q a := by
  obtain ⟨-, hparts, hx⟩ := h
  obtain ⟨-, hsems, hfuses, hfresh, hslot, hplan⟩ := hview
  refine ⟨hrank2, by rw [hplan]; exact hparts, fun m write hm => ?_⟩
  have hview' : ({ b with mem := m } : Block).SameView { c with mem := m } := ⟨rfl, hsems, hfuses, hfresh, hslot, hplan⟩
  have hslot' : c.slot = b.slot := congrArg Fin.val hslot
  rw [hview'.xlate, hplan, hslot']
  exact hx m write fun k hk => (hm k hk).trans (hmem k hk)

end Entry

section Alone
variable {b : Block} {id q : Nat} {x : Cmd}

/-- There is nobody else to tell. -/
theorem Ctl.Alone.run_toOthers (h : b.ctl.Alone) (f : Nat → Msg) : (toOthers f).run b = b := by
  obtain ⟨hp, hrank, -, -⟩ := h
  have hself : b.ctl.servesRank 0 = some false := by simp only [Ctl.servesRank, hrank, if_true]
  simp only [toOthers, run_look, hp, List.range_one, List.filter_cons, hself, Option.isNone_some, Bool.false_eq_true, if_false, List.filter_nil,
    run_each_nil]

theorem Ctl.Alone.run_announce (h : b.ctl.Alone) (q : Nat) : (announce q).run b = b := by
  rw [announce, run_look, h.run_toOthers]

theorem Ctl.Alone.run_fanCommand (h : b.ctl.Alone) (x : Cmd) (vbase openTime : Nat) (list : Bytes) : (fanCommand x vbase openTime list).run b = b :=
  h.run_toOthers _

theorem Ctl.Alone.run_sendState (h : b.ctl.Alone) : sendState.run b = b := by
  obtain ⟨-, -, -, hrole⟩ := h
  have hmirrors : b.ctl.mirrors = false := by simp only [Ctl.mirrors, hrole]
  simp only [sendState, sendHand, run_look, hmirrors, run_when_false]

/-- The module stays alone while its links and its pair are the same. -/
theorem Ctl.Alone.of_eq {c d : Ctl} (h : c.Alone) (hlinks : d.links = c.links) (hpair : d.pair = c.pair) : d.Alone := by
  simpa only [Ctl.Alone, Ctl.jobP, Ctl.rank, hlinks, hpair] using h

theorem Block.Keeps.alone {S : Scope} {c : Block} (h : b.Keeps S c) (ha : b.ctl.Alone) (hlinks : S.links = false) (hpair : S.pair = false) :
    c.ctl.Alone := ha.of_eq (h.ctl.links hlinks) (h.ctl.pair hpair)

/-- The command as it waits for the part of every rank. -/
def Ctl.awaiting (c : Ctl) (x : Cmd) : Cmd :=
  { x with phase := .running, startNo := c.hif.nextStart, ranks := List.range c.jobP, status := 0 }

theorem opcode_ne {c : Ctl} {op : Nat} (hop : cOp x.bytes = op) (h1 : op ≠ 0x11) (h2 : op ≠ 0x12) :
    cOp (c.awaiting x).bytes ≠ 0x11 ∧ cOp (c.awaiting x).bytes ≠ 0x12 := ⟨fun h => h1 (hop.symm.trans h), fun h => h2 (hop.symm.trans h)⟩

/-- The one taken command has started and waits for the ranks. -/
def Block.awaited (b : Block) (id : Nat) : Block := (awaitRanks id).run (b.started id)

theorem cmds_awaited (hx : b.ctl.cmd id = some x) (hcmds : b.ctl.hif.cmds = [x]) : (b.awaited id).ctl.hif.cmds = [b.ctl.awaiting x] := by
  have hid : x.id = id := by simpa using List.find?_some hx
  have hstart : (b.started id).ctl.hif.cmds = [{ x with phase := .running, startNo := b.ctl.hif.nextStart }] := by
    have hmap : (b.started id).ctl.hif.cmds = b.ctl.hif.cmds.map fun y => if y.id = id then { y with phase := .running, startNo := b.ctl.hif.nextStart } else y :=
      rfl
    rw [hmap, hcmds, List.map_cons, List.map_nil, if_pos hid]
  have hmap : (b.awaited id).ctl.hif.cmds = (b.started id).ctl.hif.cmds.map fun y =>
    if y.id = id then { y with ranks := List.range b.ctl.jobP, status := 0 } else y := rfl
  rw [hmap, hstart, List.map_cons, List.map_nil]
  exact congrArg (fun y => [y]) (if_pos hid)

theorem keeps_awaited {S : Scope} (h : S.hif = true) (b : Block) (id : Nat) : b.Keeps S (b.awaited id) :=
  (keeps_started h b id).trans ((only_updCmd h id fun y => { y with ranks := List.range (b.started id).ctl.jobP, status := 0 }).keepsScope (b.started id))

theorem goes_awaited (hx : b.ctl.cmd id = some x) : (b.awaited id).Goes id :=
  goes_updCmd (f := fun y => { y with ranks := List.range (b.started id).ctl.jobP, status := 0 }) (fun _ => rfl) (fun _ => rfl) (goes_of_cmd hx)

theorem othersKept_awaited (b : Block) (id : Nat) : b.OthersKept (b.awaited id) id :=
  (othersKept_started b id).trans ⟨fun _ => mem_map_cmd_other _, rfl, rfl, rfl⟩

/-! ## SEQ_PREEMPT -/

/-- The block whose firmware record of a sequence has changed. -/
def Block.withSeqFw (b : Block) (q : Nat) (f : SeqFw → SeqFw) : Block := { b with ctl := b.ctl.setSeqFw q f }

/-- The detail of SEQ_PREEMPTED. -/
def Block.preemptDetail (b : Block) (q cause : Nat) : Nat :=
  (countIf (fun x : PageAt => x.second == false) (b.unpinned q)) % 2 ^ 32 * 65536 + cause % 16 * 4096 + q % 4096

/-- The block once a pre-emption has taken effect. -/
@[irreducible] def Block.preempted (b : Block) (q a : Nat) (bs : Bytes) (detail : Nat) : Block :=
  ((b.wrote a bs).accept 0x0400 (src 10 q) detail).withSeqFw q fun s => { s with pre := .ebbing }

theorem preempted_facts (b : Block) (q a : Nat) (bs : Bytes) (detail : Nat) :
    (b.preempted q a bs detail).ctl.hif = b.ctl.hif ∧ ((b.preempted q a bs detail).ctl.seqFw q).pre = .ebbing ∧
    (b.preempted q a bs detail).mem = b.mem.write a bs ∧ (b.preempted q a bs detail).arb.next = b.arb.next + 1 ∧
    (b.preempted q a bs detail).host = b.host ∧ (b.preempted q a bs detail).sems = b.sems ∧ (b.preempted q a bs detail).fuses = b.fuses ∧
    (b.preempted q a bs detail).ctl.fw.tasks = b.ctl.fw.tasks := by
  unfold Block.preempted
  refine ⟨rfl, ?_, rfl, rfl, rfl, rfl, rfl, rfl⟩
  simp only [Block.withSeqFw, Ctl.seqFw, Ctl.setSeqFw, Tab.get_set_self]

/-- A pre-emption between passes on a rank alone takes effect at once (R178, R179). -/
theorem run_preempt_alone {a cause : Nat} (halone : b.ctl.Alone) (hentry : b.EntryAt q a) (hpass : b.ctl.passOn q = false)
    (hcheck : b.ctl.checking q = false) (hcmds : b.ctl.hif.cmds = [x]) (hop : cOp x.bytes ≠ 0x11 ∧ cOp x.bytes ≠ 0x12) :
    (preempt q cause).run b = b.preempted q a ({ b.seq q with length := (b.seq q).committed, state := seqPreempted } : SeqEnt).bytes
      (b.preemptDetail q cause) := by
  unfold Block.preempted
  have hcontexts : b.ctl.contexts = [false] := by
    obtain ⟨-, -, hrank2, -⟩ := halone
    simp only [Ctl.contexts, hrank2, Option.isSome_none, Bool.false_eq_true, if_false]
  have hnot : (decide (cOp x.bytes = 0x11 ∨ cOp x.bytes = 0x12)) = false := decide_eq_false (by omega)
  have hboth : (b.ctl.passOn q || b.ctl.checking q) = false := by rw [hpass, hcheck]; rfl
  generalize hc : (b.wrote a ({ b.seq q with length := (b.seq q).committed, state := seqPreempted } : SeqEnt).bytes).accept 0x0400 (src 10 q)
    (b.preemptDetail q cause) = c
  have hc_alone : c.ctl.Alone := hc ▸ halone
  have hc_cmds : c.ctl.hif.cmds = [x] := hc ▸ hcmds
  have hupd : c.withSeqFw q (fun s => { s with pre := .ebbing }) = { c with ctl := { c.ctl.setSeqFw q fun s => { s with pre := .ebbing } with
      hif := { (c.ctl.setSeqFw q fun s => { s with pre := .ebbing }).hif with
        cmds := (c.ctl.setSeqFw q fun s => { s with pre := .ebbing }).hif.cmds.map fun x =>
          if decide (cOp x.bytes = 0x11 ∨ cOp x.bytes = 0x12) && cSeq x.bytes == q && x.phase == .running then { x with phase := .held } else x } } } := by
    have hcs : (c.ctl.setSeqFw q fun s => { s with pre := .ebbing }).hif.cmds = [x] := hc_cmds
    rw [hcs, List.map_cons, List.map_nil, hnot, Bool.false_and, Bool.false_and, if_neg (by decide), ← hcs]
    rfl
  have hd : (c.withSeqFw q fun s => { s with pre := .ebbing }).ctl.Alone := hc_alone
  have hall : (preemptNow q cause).run b = c.withSeqFw q fun s => { s with pre := .ebbing } := by
    simp only [preemptNow, run_look, hpass, run_when_false, run_all_cons, run_all_nil, hentry.run_setSeq, hcontexts, run_each_cons, run_each_nil,
      run_raise, run_upd]
    have hc' := hc
    unfold Block.preemptDetail at hc'
    rw [hc', ← hupd, hd.run_sendState]
    cases b.ctl.leader
    · rfl
    · exact hd.run_announce q
  simp only [preempt, run_look, hboth, Bool.false_eq_true, if_false, run_seq, hall, hd.run_toOthers]

/-- SEQ_PREEMPT of a rank alone, between passes: what stands before the pre-emption. -/
def Block.preemptReady (b : Block) (id : Nat) (x : Cmd) : Block := (startTask x.key 0x13 (cSeq x.bytes)).run (b.awaited id)

theorem Block.MayRun.run_seqPreemptAct (h : b.MayRun id 0x13 x) (hlegal : seqLegal [seqOpenSt, seqActive] b x = true) (halone : b.ctl.Alone)
    (hpre : (b.ctl.seqFw (cSeq x.bytes)).pre = .none) :
    (seqPreemptAct id).run b = (preempt (cSeq x.bytes) 1).run (b.preemptReady id x) := by
  have ha : (b.awaited id).ctl.Alone := (keeps_awaited (S := { hif := true }) rfl b id).alone halone rfl rfl
  have hpre' : ((b.started id).ctl.seqFw (cSeq x.bytes)).pre = .none := hpre
  have hw : (awaitRanks id).run (b.started id) = b.awaited id := rfl
  rw [seqPreemptAct, h.run_startCmd hlegal]
  simp only [run_look, run_all_cons, run_all_nil, hw, ha.run_fanCommand, hpre', beq_self_eq_true, run_when_true]
  rfl

/-! ## SEQ_RESUME -/

theorem Block.MayRun.run_seqResumeAct (h : b.MayRun id 0x14 x) (hlegal : seqLegal [seqPreempted] b x = true) (halone : b.ctl.Alone)
    (hresume : (b.ctl.seqFw (cSeq x.bytes)).resume = none) :
    (seqResumeAct id).run b = (b.awaited id).withSeqFw (cSeq x.bytes) fun s => { s with resume := some x.key } := by
  have ha : (b.awaited id).ctl.Alone := (keeps_awaited (S := { hif := true }) rfl b id).alone halone rfl rfl
  have hw : (awaitRanks id).run (b.started id) = b.awaited id := rfl
  have hlegal' : (seqLegal [seqPreempted] b x && (b.ctl.seqFw (cSeq x.bytes)).resume.isNone) = true := by rw [hlegal, hresume]; rfl
  rw [seqResumeAct, h.run_startCmd (legal := fun b x => seqLegal [seqPreempted] b x && (b.ctl.seqFw (cSeq x.bytes)).resume.isNone) hlegal']
  simp only [run_all_cons, run_all_nil, hw, ha.run_fanCommand]
  rfl

/-! ## SEQ_CLOSE -/

theorem run_stopSteps_none (h : b.ctl.stepsOf q = []) : (stopSteps q).run b = b := by simp only [stopSteps, run_look, h, run_each_nil]

theorem run_abortOthers_only (hcmds : b.ctl.hif.cmds = [x]) (hid : x.id = id) : (abortOthers q id).run b = b := by
  simp only [abortOthers, run_look, hcmds, hid, bne_self_eq_false, Bool.and_false, Bool.false_and, List.filter_cons, Bool.false_eq_true, if_false,
    List.filter_nil, run_each_nil]

theorem stepsOf_only (hcmds : b.ctl.hif.cmds = [x]) (hop : cOp x.bytes ≠ 0x11 ∧ cOp x.bytes ≠ 0x12) : b.ctl.stepsOf q = [] := by
  have hnot : decide (cOp x.bytes = 0x11 ∨ cOp x.bytes = 0x12) = false := decide_eq_false (by omega)
  simp only [Ctl.stepsOf, hcmds, List.filter_cons, hnot, Bool.false_and, Bool.false_eq_true, if_false, List.filter_nil]

/-- No command has passes left: the leader opens none. -/
theorem run_choosePass_only (hcmds : b.ctl.hif.cmds = [x]) (hop : cOp x.bytes ≠ 0x11 ∧ cOp x.bytes ≠ 0x12) : choosePass.run b = b := by
  have hnot : decide (cOp x.bytes = 0x11 ∨ cOp x.bytes = 0x12) = false := decide_eq_false (by omega)
  have hnone : b.ctl.firstOf b.candidates = none := by
    simp only [Block.candidates, hcmds, List.filter_cons, hnot, Bool.false_and, Bool.false_eq_true, if_false, List.filter_nil]
    rfl
  simp only [choosePass, run_look, choosePassN, hnone]
  cases b.ctl.leader && b.ctl.job.inJob && b.ctl.job.pass.isNone <;> rfl

theorem run_cancelMoves_none (h : b.ctl.fw.moves = []) : (cancelMoves q).run b = b := by
  have hall : (b.ctl.fw.invals.filter fun i => match i.what with | .move id => !(([] : List PageMv).any fun m => m.id == id) | _ => true) =
      b.ctl.fw.invals := by
    refine List.filter_eq_self.2 fun i _ => ?_
    split <;> rfl
  simp only [cancelMoves, run_look, h, List.filter_nil, run_all_cons, run_all_nil, run_each_nil, run_upd]
  exact (congrArg (fun is => { b with ctl := { b.ctl with fw := { b.ctl.fw with moves := [], invals := is } } }) hall).trans
    (congrArg (fun ms => { b with ctl := { b.ctl with fw := { b.ctl.fw with moves := ms } } }) h.symm)

/-- Firmware's page work once a sequence closes with no invalidate in progress. -/
def PageFw.closing (f : PageFw) (q key lo hi : Nat) : PageFw :=
  { f with nextId := f.nextId + 1, tasks := f.tasks.filter fun t => t.seq != q,
           invals := [{ id := f.nextId, lo := lo, hi := hi, more := [], what := .close q key [] }] }

/-- The block of a rank that has begun to close a sequence. -/
@[irreducible] def Block.closes (b : Block) (q key lo hi : Nat) : Block :=
  (b.withSeqFw q fun s => { s with pre := .none, closing := true, resume := none, deferred := [] }).withFw
    ((b.ctl.setSeqFw q fun s => { s with pre := .none, closing := true, resume := none, deferred := [] }).fw.closing q key lo hi)

theorem closes_facts (b : Block) (q key lo hi : Nat) : (b.closes q key lo hi).ctl.hif = b.ctl.hif ∧ ((b.closes q key lo hi).ctl.seqFw q).closing = true ∧
    b.SameOutside (b.closes q key lo hi) ∧
    (b.closes q key lo hi).ctl.fw.invals = [{ id := b.ctl.fw.nextId, lo := lo, hi := hi, more := [], what := .close q key [] }] := by
  unfold Block.closes
  refine ⟨rfl, ?_, ⟨rfl, rfl, rfl, rfl, rfl, rfl, rfl, rfl, rfl, rfl, rfl, rfl⟩, rfl⟩
  simp only [Block.withFw, PageFw.closing, Block.withSeqFw, Ctl.seqFw, Ctl.setSeqFw, Tab.get_set_self]

theorem run_closeLocal_idle {key : Nat} (hmoves : b.ctl.fw.moves = []) (hinvals : b.ctl.fw.invals = []) : (closeLocal q key).run b =
    b.closes q key (b.seqRange q).1 (b.seqRange q).2 := by
  unfold Block.closes
  have hinv : (b.ctl.setSeqFw q fun s => { s with pre := .none, closing := true, resume := none, deferred := [] }).fw.invals = [] := hinvals
  simp only [closeLocal, run_seq, run_cancelMoves_none hmoves, run_look, hinvals, List.flatMap_nil, run_all_cons, run_all_nil, run_upd, hinv,
    List.filter_nil]
  rfl

theorem run_closesGo_only (hcmds : b.ctl.hif.cmds = [x]) (hop : cOp x.bytes = 0x15) (hphase : x.phase = .running) : closesGo.run b = (closeGo x).run b := by
  simp only [closesGo, run_look, hcmds, List.filter_cons, hop, hphase, beq_self_eq_true, Bool.and_self, if_true, List.filter_nil, run_each_cons,
    run_each_nil]

theorem Ctl.Alone.run_closeGo (h : b.ctl.Alone) (hcmds : b.ctl.hif.cmds = [x]) (hop : cOp x.bytes = 0x15) (hsteps : x.steps = 0)
    (hpass : b.ctl.job.pass = none) : (closeGo x).run b = (closeLocal (cSeq x.bytes) x.key).run (b.withCmds [{ x with steps := 1 }]) := by
  have hnone : b.ctl.stepsOf (cSeq x.bytes) = [] := stepsOf_only hcmds (by omega)
  have hoff : b.ctl.passOn (cSeq x.bytes) = false := by simp only [Ctl.passOn, hpass]
  have halone : (b.withCmds [{ x with steps := 1 }]).ctl.Alone := h
  simp only [closeGo, run_look, hoff, hnone, hsteps, List.isEmpty_nil, beq_self_eq_true, Bool.not_false, Bool.and_self, run_when_true, run_all_cons,
    run_all_nil, run_updCmd_only hcmds, halone.run_fanCommand]

/-- The block of a SEQ_CLOSE before it goes on. -/
def Block.closeReady (b : Block) (id : Nat) (x : Cmd) : Block :=
  (awaitRanks id).run ((b.started id).withSeqFw (cSeq x.bytes) fun s => { s with closing := true })

theorem keeps_closeReady (b : Block) (id : Nat) (x : Cmd) (cs : List Cmd) :
    b.Keeps { hif := true, fw := true } ((b.closeReady id x).withCmds cs) := by
  have h1 := keeps_started (S := { hif := true, fw := true }) rfl b id
  have h2 := (only_fw (S := { hif := true, fw := true }) rfl fun c => (c.setSeqFw (cSeq x.bytes) fun s => { s with closing := true }).fw).keepsScope (b.started id)
  have h3 := (show (awaitRanks id).Only (Eff.In { hif := true, fw := true }) from fun _ => only_updCmd rfl id _).keepsScope
    ((b.started id).withSeqFw (cSeq x.bytes) fun s => { s with closing := true })
  have h4 := (only_hif (S := { hif := true, fw := true }) rfl fun c => { c.hif with cmds := cs }).keepsScope (b.closeReady id x)
  exact ((h1.trans h2).trans h3).trans h4

theorem Block.MayRun.run_seqCloseAct (h : b.MayRun id 0x15 x) (hlegal : seqLegal [seqOpenSt, seqActive, seqPreempted] b x = true) (halone : b.ctl.Alone)
    (hcmds : b.ctl.hif.cmds = [x]) (hsteps : x.steps = 0) (hpass : b.ctl.job.pass = none) : (seqCloseAct id).run b =
      choosePass.run ((closeLocal (cSeq x.bytes) x.key).run ((b.closeReady id x).withCmds [{ b.ctl.awaiting x with steps := 1 }])) := by
  have hop : cOp x.bytes = 0x15 := h.2.1
  have hid : x.id = id := by simpa using List.find?_some h.cmd_eq
  have hcmds' : (b.closeReady id x).ctl.hif.cmds = [b.ctl.awaiting x] := cmds_awaited h.cmd_eq hcmds
  have hready : (awaitRanks id).run ((b.started id).withSeqFw (cSeq x.bytes) fun s => { s with closing := true }) = b.closeReady id x := rfl
  have hsame : (Act.upd fun c => c.setSeqFw (cSeq x.bytes) fun s => { s with closing := true }).run (b.started id) =
    (b.started id).withSeqFw (cSeq x.bytes) fun s => { s with closing := true } := rfl
  have ha : (b.closeReady id x).ctl.Alone := halone
  have hp : (b.closeReady id x).ctl.job.pass = none := hpass
  have hgo := ha.run_closeGo hcmds' hop hsteps hp
  have hstop := run_stopSteps_none (stepsOf_only (q := cSeq x.bytes) hcmds' (opcode_ne hop (by decide) (by decide)))
  have hothers := run_abortOthers_only (q := cSeq x.bytes) hcmds' hid
  have hcloses := run_closesGo_only hcmds' hop rfl
  rw [seqCloseAct, h.run_startCmd hlegal]
  simp only [run_all_cons, run_all_nil, hsame, hready, hstop, hothers, hcloses, hgo]
  rfl

end Alone

/-- Settles O21. -/
theorem preemptResumeClose : Obligations.PreemptResumeClose := by
  unfold Obligations.PreemptResumeClose
  refine ⟨?preempt, ?resume, ?close⟩
  case preempt =>
    intro s id a x hx halone hcmds hlegal q e hentry hpre hpass
    have hop : cOp x.bytes = 0x13 := hx.2.1
    have hkeep : s.block.Keeps { hif := true, fw := true } (s.block.preemptReady id x) :=
      (keeps_awaited rfl s.block id).trans ((only_fw (S := { hif := true, fw := true }) rfl fun c => { c.fw with
        tasks := c.fw.tasks ++ [{ key := x.key, opcode := 0x13, seq := q, status := 0 }] }).keepsScope _)
    have hready : (s.block.preemptReady id x).ctl.hif.cmds = [s.block.ctl.awaiting x] := cmds_awaited hx.cmd_eq hcmds
    have hview := hkeep.sameView rfl
    have hentry' : (s.block.preemptReady id x).EntryAt q a := hentry.of_view hentry.1 ((hkeep.sameView rfl)) fun _ _ => rfl
    have hcheck : (s.block.preemptReady id x).ctl.checking q = false := by
      have hno : (cOp (s.block.ctl.awaiting x).bytes == 0x16) = false := by rw [Ctl.awaiting, hop]; rfl
      simp only [Ctl.checking, hready, List.any_cons, List.any_nil, hno, Bool.false_and, Bool.or_self]
    have hrun := (hx.run_seqPreemptAct hlegal halone hpre).trans
      (run_preempt_alone (cause := 1) (hkeep.alone halone rfl rfl) hentry' hpass hcheck hready (opcode_ne hop (by decide) (by decide)))
    rw [hview.seq] at hrun
    have hgoes : (s.block.preemptReady id x).Goes id := goes_of_hif (goes_awaited hx.cmd_eq) rfl
    have hhost : (s.block.preemptReady id x).host = s.block.host := hkeep.host rfl
    have hsems : (s.block.preemptReady id x).sems = s.block.sems := hkeep.sems rfl
    have hmem : (s.block.preemptReady id x).mem = s.block.mem := hkeep.mem rfl
    have harb : (s.block.preemptReady id x).arb = s.block.arb := hkeep.arb rfl
    have hfuses : (s.block.preemptReady id x).fuses = s.block.fuses := hkeep.fuses rfl
    have htask : { key := x.key, opcode := 0x13, seq := q, status := 0 } ∈ (s.block.preemptReady id x).ctl.fw.tasks :=
      List.mem_append_right _ (List.mem_singleton.2 rfl)
    obtain ⟨hif, hpre', hm, ha, hh, hs, hf, ht⟩ := preempted_facts (s.block.preemptReady id x) q a
      ({ s.block.seq q with length := (s.block.seq q).committed, state := seqPreempted } : SeqEnt).bytes ((s.block.preemptReady id x).preemptDetail q 1)
    exact ⟨_, runs_of_perform rfl hrun, goes_of_hif hgoes hif, hpre', hm.trans (by rw [hmem]), ha.trans (by rw [harb]), hh.trans hhost, hs.trans hsems,
      hf.trans hfuses, _, ht ▸ htask, rfl, rfl, rfl⟩
  case resume =>
    intro s id x hx halone hlegal hresume
    have hrun := hx.run_seqResumeAct hlegal halone hresume
    refine ⟨_, runs_of_perform rfl hrun, goes_of_hif (goes_awaited hx.cmd_eq) rfl, ?_,
      ((keeps_awaited (S := { hif := true }) rfl s.block id).sameOutside rfl).trans ⟨rfl, rfl, rfl, rfl, rfl, rfl, rfl, rfl, rfl, rfl, rfl, rfl⟩,
      (othersKept_awaited s.block id).trans (othersKept_of_hif rfl id)⟩
    simp only [Block.withSeqFw, Ctl.seqFw, Ctl.setSeqFw, Tab.get_set_self]
  case close =>
    intro s id x hx halone hcmds hlegal hsteps hpass hmoves hinvals q
    have hop : cOp x.bytes = 0x15 := hx.2.1
    have hkeep := keeps_closeReady s.block id x [{ s.block.ctl.awaiting x with steps := 1 }]
    have hrun := hx.run_seqCloseAct hlegal halone hcmds hsteps hpass
    have hmoves' : ((s.block.closeReady id x).withCmds [{ s.block.ctl.awaiting x with steps := 1 }]).ctl.fw.moves = [] := hmoves
    have hinvals' : ((s.block.closeReady id x).withCmds [{ s.block.ctl.awaiting x with steps := 1 }]).ctl.fw.invals = [] := hinvals
    have hnext : ((s.block.closeReady id x).withCmds [{ s.block.ctl.awaiting x with steps := 1 }]).ctl.fw.nextId = s.block.ctl.fw.nextId := rfl
    have hcs : ((s.block.closeReady id x).withCmds [{ s.block.ctl.awaiting x with steps := 1 }]).ctl.hif.cmds =
      [{ s.block.ctl.awaiting x with steps := 1 }] := rfl
    generalize (s.block.closeReady id x).withCmds [{ s.block.ctl.awaiting x with steps := 1 }] = r at hkeep hrun hmoves' hinvals' hnext hcs
    have hview := hkeep.sameView rfl
    have hrange : r.seqRange q = s.block.seqRange q := by simp only [Block.seqRange, Block.seqSpan, hview.seq, hview.plan]
    obtain ⟨hif, hclosing, hout, hinv⟩ := closes_facts r q x.key (s.block.seqRange q).1 (s.block.seqRange q).2
    rw [run_closeLocal_idle (q := q) hmoves' hinvals', hrange] at hrun
    have hidle := run_choosePass_only (b := r.closes q x.key (s.block.seqRange q).1 (s.block.seqRange q).2)
      ((congrArg HostIf.cmds hif).trans hcs) (opcode_ne (c := s.block.ctl) hop (by decide) (by decide))
    have hid : x.id = id := by simpa using List.find?_some hx.cmd_eq
    have hgoes : r.Goes id := by
      refine ⟨{ s.block.ctl.awaiting x with steps := 1 }, ?_, rfl⟩
      rw [Ctl.cmd, hcs]
      exact List.find?_cons_of_pos (beq_iff_eq.2 hid)
    rw [hnext] at hinv
    exact ⟨_, runs_of_perform rfl (hrun.trans hidle), goes_of_hif hgoes hif, hclosing, (hkeep.sameOutside rfl).trans hout, hinv⟩

/-! ## SEQ_EDIT_PAGES of a command record whose step count reads as a check in progress (R166, log 29) -/

/-- SEQ_EDIT_PAGES of an empty list, taken and not started, with the step count of a list that is being checked. -/
def editAfterCheck : Cmd := { Cmd.fresh 0 1 0 ([0x16] ++ zeroBytes 127) with steps := checkStep }

/-- A module alone in a job, with sequence 0 OPEN: its table entry lies in lagoon. -/
def openedSequence : State :=
  { State.reset with block := { Block.reset with
      mem := [(lagoonBase + 28, 1)]
      ctl := { Ctl.reset with
        glb := { Glb.reset with state := .running }
        hif := { HostIf.reset with cmds := [editAfterCheck], nextId := 1 }
        job := { Job.blank with inJob := true, started := [0] }
        plan := { Plan.blank with loaded := true, layout := zeroBytes 8 ++ leBytes lagoonBase 8 ++ zeroBytes 48 } } } }

theorem openedSequence_mayRun : openedSequence.block.MayRun 0 0x16 editAfterCheck := by
  unfold Block.MayRun
  decide +kernel

theorem openedSequence_legal : seqLegal [seqOpenSt, seqActive] openedSequence.block editAfterCheck = true := by decide +kernel

/-- The leader takes its own answer for one that belongs to no check, and drops it. -/
theorem openedSequence_goes_on : (((seqEditPagesAct 0).run openedSequence.block).ctl.cmd 0).map Cmd.phase = some .running := by decide +kernel

/-- Refutes O22: a malformed list is answered with E_FORMAT by the rank's own part, and the leader drops that answer where the command's step
count is the one of a check in progress; the statement leaves the step count open, and the command goes on. -/
theorem not_editsPages : ¬ Obligations.EditsPages := by
  unfold Obligations.EditsPages
  rintro ⟨-, hrefuse⟩
  obtain ⟨t, hruns, ⟨y, hy, hphase, -⟩, -⟩ := hrefuse openedSequence 0 editAfterCheck openedSequence_mayRun
    (by unfold Ctl.Alone; decide +kernel) rfl openedSequence_legal (by decide +kernel) (by decide +kernel) (by decide +kernel)
  have ht : t = (seqEditPagesAct 0).run openedSequence.block := block_of_runs rfl hruns
  have hgo := openedSequence_goes_on
  rw [← ht, hy, Option.map_some, hphase] at hgo
  exact absurd hgo (by decide)

end Sys2Proof.Machine


namespace Sys2Proof.Machine

/-! # A sequence table that is mapped onto the semaphore words (R155, R215, R281) -/

theorem Memory.read_congr {m m' : Memory} {n : Nat} : ∀ {a : Nat}, (∀ k, a ≤ k → k < a + n → m.byte k = m'.byte k) → m.read a n = m'.read a n := by
  induction n with
  | zero => exact fun _ => rfl
  | succ n ih =>
    intro a h
    have hbyte := h a (Nat.le_refl a) (by omega)
    have hrest := ih (a := a + 1) fun k hk hlt => h k (by omega) (by omega)
    simp only [Memory.read, hbyte, hrest]

/-- A walk that meets a pointer goes on in the table it points to (R233). -/
theorem walkFrom_pointer {m : Memory} {slot va sh table e : Nat} {rest : List Nat}
    (h : m.nat (table + 8 * (va / 2 ^ sh % (if sh = 43 then 32 else 1024))) 8 = e) (hvalid : (!bit e 0) = false) (hhigh : ¬e / 2 ^ 52 ≠ 0)
    (hptr : bit e 1 = true) (hok : (rest.isEmpty || entModule e != slot || decide (2 ≤ entTier e) || entPinned e || entReadonly e ||
      !frameInTier (entTier e) (entFrame e)) = false) : walkFrom m slot va (sh :: rest) table = walkFrom m slot va rest (entFrame e) := by
  subst h
  rw [walkFrom, hvalid]
  exact (if_neg (by decide)).trans ((if_neg hhigh).trans ((if_pos hptr).trans (if_neg (by rw [hok]; decide))))

/-- A walk that meets a final entry of level 4 ends there (R233). -/
theorem walkFrom_final {m : Memory} {slot va table e : Nat} (h : m.nat (table + 8 * (va / 2 ^ 13 % (if 13 = 43 then 32 else 1024))) 8 = e)
    (hvalid : (!bit e 0) = false) (hhigh : ¬e / 2 ^ 52 ≠ 0) (hptr : ¬bit e 1 = true) (htier : ¬2 ≤ entTier e)
    (hok : (decide (entFrame e % 2 ^ 13 ≠ 0) || !frameInTier (entTier e) (entFrame e) || !frameInTier (entTier e) (entFrame e + 2 ^ 13 - 8192)) = false) :
    walkFrom m slot va [13] table = .entry e (2 ^ 13) := by
  subst h
  rw [walkFrom, hvalid]
  exact (if_neg (by decide)).trans ((if_neg hhigh).trans ((if_neg hptr).trans ((if_neg (by decide)).trans ((if_neg htier).trans
    (if_neg (by rw [hok]; decide))))))

/-- Tables that map the first 8 KiB of device virtual addresses to the frame of the first semaphore words; those of the walk lie at 8192, 16384 and
24576. -/
def semaphoreTables : Memory :=
  [(8192, 0x03), (8193, 0x40), (16384, 0x03), (16385, 0x60), (24576, 0x01), (24580, 0x10), (24581, 0x0F),
    (Block.reset.root false, 0x03), (Block.reset.root false + 1, 0x20)]

/-- The walk of a low address reads four entries, none of which lies in the semaphore block. -/
theorem semaphoreTables_walk {m : Memory} {v : Nat} (hv : v < 8192) (hm : ∀ k, k < semBase → m.byte k = semaphoreTables.byte k) :
    walkFrom m 0 v [43, 33, 23, 13] (Block.reset.root false) = .entry (semBase + 1) 8192 := by
  have hnat : ∀ a, a + 8 ≤ semBase → m.nat a 8 = semaphoreTables.nat a 8 := fun a ha =>
    congrArg leNat (Memory.read_congr fun k _ hk => hm k (by omega))
  have hfirst : ∀ sh, 13 ≤ sh → v / 2 ^ sh = 0 := fun sh hsh =>
    Nat.div_eq_of_lt (hv.trans_le (Nat.pow_le_pow_right (n := 2) (by decide) hsh))
  have h1 : m.nat (Block.reset.root false + 8 * (v / 2 ^ 43 % if 43 = 43 then 32 else 1024)) 8 = 8192 + 3 := by
    rw [hfirst 43 (by decide)]
    exact (hnat _ (by decide +kernel)).trans (by decide +kernel)
  have h2 : m.nat (entFrame (8192 + 3) + 8 * (v / 2 ^ 33 % if 33 = 43 then 32 else 1024)) 8 = 16384 + 3 := by
    rw [hfirst 33 (by decide)]
    exact (hnat _ (by decide +kernel)).trans (by decide +kernel)
  have h3 : m.nat (entFrame (16384 + 3) + 8 * (v / 2 ^ 23 % if 23 = 43 then 32 else 1024)) 8 = 24576 + 3 := by
    rw [hfirst 23 (by decide)]
    exact (hnat _ (by decide +kernel)).trans (by decide +kernel)
  have h4 : m.nat (entFrame (24576 + 3) + 8 * (v / 2 ^ 13 % if 13 = 43 then 32 else 1024)) 8 = semBase + 1 := by
    rw [hfirst 13 (by decide)]
    exact (hnat _ (by decide +kernel)).trans (by decide +kernel)
  rw [walkFrom_pointer h1 (by decide) (by decide) (by decide) (by decide), walkFrom_pointer h2 (by decide) (by decide) (by decide) (by decide),
    walkFrom_pointer h3 (by decide) (by decide) (by decide) (by decide)]
  exact walkFrom_final h4 (by decide) (by decide) (by decide) (by decide) (by decide)

/-- A final entry of this module with a backed frame, of neither of the tiers without one and writable, translates (R233, R240). -/
theorem useEntry_of_backed {b : Block} {e size va a : Nat} {write : Bool} (htier : entTier e ≠ 3 ∧ entTier e ≠ 2) (hro : entReadonly e = false)
    (hslot : entModule e = b.slot) (h8 : ¬8 ≤ b.slot) (ha : entFrame e + va % size = a) (hback : region b.fuses.twoTiB a ≠ .unbacked) :
    b.useEntry e size va write = .ok b.slot a := by
  simp only [Block.useEntry, if_neg htier.1, if_neg htier.2, hro, Bool.and_false, Bool.false_eq_true, if_false, if_neg h8, ha, hslot, true_and,
    if_neg hback]

theorem region_semaphores {two : Bool} {v : Nat} (hv : v < 8192) : region two (semBase + v) = .semaphores := by
  have hddr : ddrSize two ≤ 2 ^ 41 := by cases two <;> decide
  have hd : ddrBase = 0x080000000000 := rfl
  have hs : scratchBase = 0x0F0000000000 := rfl
  have hz : scratchSize = 0x180000 := rfl
  have hl : lagoonBase = 0x0F0040000000 := rfl
  have hy : lagoonSize = 0x18000000 := rfl
  have hb : semBase = 0x0F1000000000 := rfl
  unfold region
  rw [if_neg (by omega), if_neg (by omega), if_neg (by omega), if_neg (by omega), if_neg (by omega), if_neg (by omega), if_pos (by omega)]

/-- Under these tables firmware reaches the entry of a sequence in the semaphore block. -/
theorem entryAt_semaphores {b : Block} {q v : Nat} (hmem : b.mem = semaphoreTables) (hrank2 : b.ctl.pair.rank2 = none) (hslot : b.slot = 0)
    (hfuses : b.fuses = Block.reset.fuses) (hq : b.ctl.plan.seqEntry q = v) (hparts : parts v 64 = [(v, 64)]) (hv : v < 8192) :
    b.EntryAt q (semBase + v) := by
  refine ⟨hrank2, by rw [hq, hparts], fun m write hm => ?_⟩
  have hroot : ({ b with mem := m } : Block).root false = Block.reset.root false :=
    congrArg (fun f => ({ Block.reset with fuses := f } : Block).root false) hfuses
  have hwalk : ({ b with mem := m } : Block).walk false v = .entry (semBase + 1) 8192 := by
    have hs : ({ b with mem := m } : Block).slot = 0 := hslot
    rw [Block.walk, hroot, hs]
    exact semaphoreTables_walk hv fun k hk => (hm k (Or.inl (by omega))).trans (by rw [hmem])
  have huse := useEntry_of_backed (b := { b with mem := m }) (e := semBase + 1) (size := 8192) (va := v) (a := semBase + v)
    (write := write) (by decide) (by decide) ((by decide : entModule (semBase + 1) = 0).trans hslot.symm) (hslot.symm ▸ by decide)
    (by rw [Nat.mod_eq_of_lt hv]; rfl) (by rw [region_semaphores hv]; exact fun h => nomatch h)
  have hfull : ({ b with mem := m } : Block).walkVia fwSpace.uppers fwSpace.second v = .entry (semBase + 1) 8192 := hwalk
  have h48 : ¬2 ^ 48 ≤ v := by omega
  have hwindow : ¬windowBase ≤ v := by unfold windowBase; omega
  have hchip : ¬(scratchBase ≤ v ∧ v < 0x0F2000000000) := by unfold scratchBase; omega
  have htlb : fwSpace.tlb.find? (fun t => t.second == fwSpace.second && decide (t.base ≤ v ∧ v < t.base + t.size)) = none := rfl
  rw [hq]
  refine Eq.trans ?_ huse
  simp only [Block.xlate, if_neg h48, if_neg hwindow, if_neg hchip, htlb, hfull]

/-! ## SEQ_OPEN -/

/-- SEQ_OPEN of sequence 0 with room for no tokens. -/
def emptyOpen : Cmd := Cmd.fresh 0 1 0 ([0x10] ++ zeroBytes 127)

/-- A module alone in a job whose sequence table stands at address 0, among the semaphore words.  The sequence region begins at 8 MiB. -/
def tableOnSemaphores : State :=
  { State.reset with block := { Block.reset with
      mem := semaphoreTables
      ctl := { Ctl.reset with
        glb := { Glb.reset with state := .running }
        hif := { HostIf.reset with cmds := [emptyOpen], nextId := 1 }
        job := { Job.blank with inJob := true, started := [0] }
        plan := { Plan.blank with loaded := true, layout := zeroBytes 16 ++ leBytes (2 ^ 23) 8 ++ leBytes (2 ^ 23) 8 ++ zeroBytes 32 } } } }

theorem tableOnSemaphores_mayRun : tableOnSemaphores.block.MayRun 0 0x10 emptyOpen := by
  unfold Block.MayRun
  decide +kernel

/-- No tables are built for a range of no bytes. -/
theorem tableOnSemaphores_built : (buildTables false (2 ^ 23) (2 ^ 23 + 0)).run (tableOnSemaphores.block.started 0) = tableOnSemaphores.block.started 0 := by
  have hnone : ∀ sh, unitsOf (2 ^ 23) (2 ^ 23 + 0) sh = [] := fun sh => if_neg (by decide)
  simp only [buildTables, hnone, run_all_cons, run_all_nil, run_each_nil]

theorem tableOnSemaphores_entryAt : (tableOnSemaphores.block.started 0).EntryAt 0 semBase :=
  entryAt_semaphores (v := 0) rfl rfl rfl rfl (by decide +kernel) (by decide +kernel) (by decide)

/-- The entry that SEQ_OPEN wrote reads back as the semaphores' words, and so does the range that it returns. -/
theorem tableOnSemaphores_result : (((seqOpenAct 0).run tableOnSemaphores.block).ctl.cmd 0).map Cmd.result = some (zeroBytes 16) := by decide +kernel

/-- Refutes O19: a sequence table that is mapped onto semaphore words keeps nothing that firmware writes there (R281), so the range read back from
the new entry is not the one that was taken; the statement lets the table lie there. -/
theorem not_sequenceOpens : ¬ Obligations.SequenceOpens := by
  unfold Obligations.SequenceOpens
  intro h
  obtain ⟨t, hruns, ⟨y, hy, -, -, hresult⟩, -⟩ := h tableOnSemaphores 0 semBase (2 ^ 23) emptyOpen tableOnSemaphores_mayRun
    (by unfold Ctl.Alone; decide +kernel) rfl (by decide +kernel) (by decide +kernel) (by decide +kernel) (by decide +kernel) (by decide +kernel)
    (by decide +kernel) (by
      have hsize : (tableOnSemaphores.block.started 0).ctl.plan.openSpan emptyOpen.bytes = 0 := by decide +kernel
      rw [hsize, tableOnSemaphores_built]
      exact tableOnSemaphores_entryAt)
  have ht : t = (seqOpenAct 0).run tableOnSemaphores.block := block_of_runs rfl hruns
  have hgo := tableOnSemaphores_result
  rw [← ht, hy, Option.map_some, hresult] at hgo
  exact absurd hgo (by decide)

/-! ## COMMIT -/

/-- SEQ_STEP of sequence 0 with one step, running. -/
def oneStep : Cmd := { Cmd.fresh 0 1 0 ([0x12] ++ zeroBytes 35 ++ [1] ++ zeroBytes 91) with phase := .running }

/-- The pass of that command, ready to commit a LENGTH of 1. -/
def readyPass : Pass := { Pass.heard { rank := 0, kind := 3, seq := 0, step := 0, l0 := 0, e := 1, pending := 0, sampleArg := 0, tokens := [] } with
  cmd := some 0, noticed := true }

/-- A module alone in a job whose sequence table stands at address 4, among the semaphore words: STATE of sequence 0 is the low byte of
semaphore 4. -/
def commitOnSemaphores : State :=
  { State.reset with block := { Block.reset with
      mem := semaphoreTables
      sems := [(4, 2)]
      ctl := { Ctl.reset with
        glb := { Glb.reset with state := .running, step := 9 }
        power := { Power.reset with state := .run }
        hif := { HostIf.reset with cmds := [oneStep], nextId := 1 }
        job := { Job.blank with inJob := true, started := [0], pass := some readyPass }
        plan := { Plan.blank with loaded := true, layout := zeroBytes 8 ++ leBytes 4 8 ++ zeroBytes 48 } } } }

/-- The command's end reads COMMITTED back before it writes the entry again, and finds the semaphores' words there. -/
theorem commitOnSemaphores_length : (((commitAct none).run commitOnSemaphores.block).mem.read (semBase + 4) 64).take 1 = [0] := by decide +kernel

/-- Refutes O26: of a sequence table that is mapped onto semaphore words firmware reads back what it has not written (R281), so the entry holds
neither the new LENGTH nor the new COMMITTED; the statement lets the table lie there. -/
theorem not_commitsTakeEffect : ¬ Obligations.CommitsTakeEffect := by
  unfold Obligations.CommitsTakeEffect
  rintro ⟨hlead, -⟩
  obtain ⟨t, hruns, hmem, -⟩ := hlead commitOnSemaphores (semBase + 4) readyPass oneStep (by decide +kernel) (by unfold Ctl.Alone; decide +kernel)
    (by unfold Ctl.NoHooks; decide +kernel) rfl rfl rfl (by decide) rfl rfl (by decide +kernel) (by decide +kernel) rfl rfl (by decide +kernel) (by decide +kernel)
    (by decide +kernel) (entryAt_semaphores (v := 4) rfl rfl rfl rfl (by decide +kernel) (by decide +kernel) (by decide))
    (Or.inl (by decide +kernel)) (by decide +kernel)
  have ht : t = (commitAct none).run commitOnSemaphores.block := block_of_runs rfl hruns
  have hread := congrArg (List.take 1) hmem
  rw [ht, commitOnSemaphores_length] at hread
  exact absurd hread (by decide)

end Sys2Proof.Machine


namespace Sys2Proof.Machine

/-! # A rank takes up a pass notice (R60, R157, R184, R287, R359, Table 11-7) -/

section OnChip
variable {b : Block}

/-- An access within one page is one part. -/
theorem parts_of_page {va len : Nat} (hlen : 0 < len) (hpage : va % 8192 + len ≤ 8192) : parts va len = [(va, len)] := by
  have hmin : min len (8192 - va % 8192) = len := Nat.min_eq_left (by omega)
  simp only [parts, splitPages, if_neg hlen.ne', hmin, Nat.sub_self, if_true]

theorem region_lagoon0 {two : Bool} {a : Nat} (hlo : lagoonBase ≤ a) (hhi : a < lagoonBase + lagoonSize) : region two a = .lagoon 0 := by
  have hddr : ddrSize two ≤ 2 ^ 41 := by cases two <;> decide
  have hd : ddrBase = 0x080000000000 := rfl
  have hs : scratchBase = 0x0F0000000000 := rfl
  have hz : scratchSize = 0x180000 := rfl
  have hl : lagoonBase = 0x0F0040000000 := rfl
  have hy : lagoonSize = 0x18000000 := rfl
  unfold region
  rw [if_neg (by omega), if_neg (by omega), if_neg (by omega), if_neg (by omega), if_pos (by omega)]

/-- The first lagoon is mapped at its own addresses (R230). -/
theorem xlate_lagoon0 {va : Nat} (hlo : lagoonBase ≤ va) (hhi : va < lagoonBase + lagoonSize) (write : Bool) : b.xlate fwSpace va write = .ok b.slot va := by
  have hs : scratchBase = 0x0F0000000000 := rfl
  have hl : lagoonBase = 0x0F0040000000 := rfl
  have hy : lagoonSize = 0x18000000 := rfl
  have hw : windowBase = 0xFFFF00000000 := rfl
  have h48 : ¬2 ^ 48 ≤ va := by omega
  have hwindow : ¬windowBase ≤ va := by omega
  have hchip : scratchBase ≤ va ∧ va < 0x0F2000000000 := by omega
  simp only [Block.xlate, if_neg h48, if_neg hwindow, if_pos hchip, Block.onChip, region_lagoon0 hlo hhi]
  rfl

/-- Firmware's write into the first lagoon, within one page. -/
theorem run_writeVa_lagoon0 {va : Nat} {bytes : Bytes} (hlen : 0 < bytes.length) (hpage : va % 8192 + bytes.length ≤ 8192) (hlo : lagoonBase ≤ va)
    (hhi : va + bytes.length ≤ lagoonBase + lagoonSize) : (writeVa fwSpace va bytes).run b = b.wrote va bytes := by
  have hslice : slice bytes 0 bytes.length = bytes := by simp only [slice, List.drop_zero, List.take_length]
  simp only [writeVa, run_look, parts_of_page hlen hpage, run_each_cons, run_each_nil, xlate_lagoon0 hlo (by omega) true, if_true, Nat.sub_self, hslice]
  rfl

end OnChip

section Queues
variable {c : Ctl} {second : Bool} {v : Nat} {e : QEntry}

/-- The queue of a cove with one more entry. -/
def Ctl.queued (c : Ctl) (second : Bool) (v : Nat) (q : QEntry) : Ctl := c.setCove v fun x => x.setQ second (x.q second ++ [q])

@[simp] theorem Cove.q_setQ (x : Cove) (second : Bool) (l : List QEntry) : (x.setQ second l).q second = l := by cases second <;> rfl

theorem mem_q_queued_self (c : Ctl) (second : Bool) (v : Nat) (q : QEntry) : q ∈ ((c.queued second v q).cove v).q second := by
  rw [Ctl.queued, Ctl.cove_setCove_same, Cove.q_setQ]
  exact List.mem_append_right _ (List.mem_singleton.2 rfl)

theorem mem_q_queued (h : e ∈ (c.cove v).q second) (w : Nat) (q : QEntry) : e ∈ ((c.queued second w q).cove v).q second := by
  by_cases hv : v = w
  · subst hv
    rw [Ctl.queued, Ctl.cove_setCove_same, Cove.q_setQ]
    exact List.mem_append_left _ h
  · rw [Ctl.queued, Ctl.cove_setCove_other _ _ _ _ hv]
    exact h

theorem mem_q_foldl_queued (h : e ∈ (c.cove v).q second) (q : QEntry) (ws : List Nat) :
    e ∈ ((ws.foldl (fun c w => c.queued second w q) c).cove v).q second := by
  induction ws generalizing c with
  | nil => exact h
  | cons w ws ih => exact ih (mem_q_queued h w q)

theorem mem_q_foldl_queued_self (c : Ctl) (second : Bool) {q : QEntry} {ws : List Nat} (hv : v ∈ ws) :
    q ∈ ((ws.foldl (fun c w => c.queued second w q) c).cove v).q second := by
  induction ws generalizing c with
  | nil => exact absurd hv List.not_mem_nil
  | cons w ws ih =>
    rcases List.mem_cons.1 hv with rfl | hv
    · exact mem_q_foldl_queued (mem_q_queued_self c second v q) q ws
    · exact ih (c.queued second w q) hv

theorem plan_foldl_queued (c : Ctl) (q : QEntry) (ws : List Nat) : (ws.foldl (fun c w => c.queued second w q) c).plan = c.plan := by
  induction ws generalizing c with
  | nil => rfl
  | cons w ws ih => exact ih (c.queued second w q)

/-- The record `i` of the plan joins the queues of its coves, bound by `f`. -/
def Ctl.queueOp (second : Bool) (f : Bytes → Bytes) (c : Ctl) (i : Nat) : Ctl :=
  match c.plan.ops[i]? with
  | none => c
  | some r => (rCoves r).foldl (fun c v => c.queued second v { op := i, record := f r, met := 0 }) c

theorem plan_queueOp (f : Bytes → Bytes) (c : Ctl) (i : Nat) : (c.queueOp second f i).plan = c.plan := by
  rw [Ctl.queueOp]
  split
  · rfl
  · exact plan_foldl_queued _ _ _

theorem mem_q_queueOp (h : e ∈ (c.cove v).q second) (f : Bytes → Bytes) (i : Nat) : e ∈ ((c.queueOp second f i).cove v).q second := by
  rw [Ctl.queueOp]
  split
  · exact h
  · exact mem_q_foldl_queued h _ _

theorem mem_q_foldl_queueOp (h : e ∈ (c.cove v).q second) (f : Bytes → Bytes) (is : List Nat) :
    e ∈ ((is.foldl (Ctl.queueOp second f) c).cove v).q second := by
  induction is generalizing c with
  | nil => exact h
  | cons i is ih => exact ih (mem_q_queueOp h f i)

/-- Every record of a list of them joins the queues of its coves (R60). -/
theorem mem_q_foldl_queueOp_self (c : Ctl) (f : Bytes → Bytes) {i : Nat} {r : Bytes} {is : List Nat} (hi : i ∈ is) (hr : c.plan.ops[i]? = some r)
    (hv : v ∈ rCoves r) : ({ op := i, record := f r, met := 0 } : QEntry) ∈ ((is.foldl (Ctl.queueOp second f) c).cove v).q second := by
  induction is generalizing c with
  | nil => exact absurd hi List.not_mem_nil
  | cons k is ih =>
    rcases List.mem_cons.1 hi with rfl | hi
    · refine mem_q_foldl_queueOp ?_ f is
      rw [Ctl.queueOp, hr]
      exact mem_q_foldl_queued_self c second hv
    · exact ih (c.queueOp second f k) hi ((congrArg (fun p : Plan => p.ops[i]?) (plan_queueOp f c k)).trans hr)

theorem mem_upto {lo hi i : Nat} (h1 : lo ≤ i) (h2 : i < hi) : i ∈ upto lo hi :=
  List.mem_map.2 ⟨i - lo, List.mem_range.2 (by omega), by omega⟩

theorem run_fillQueues (b : Block) (second : Bool) (entry : Bytes) (seqAddr : Nat) (n : PassNotice) (w : Nat × Nat × Nat × Nat) :
    (fillQueues second entry seqAddr n w).run b = { b with ctl :=
      (upto (u32 entry 4) (u32 entry 4 + u32 entry 8)).foldl (Ctl.queueOp second (bindRecord seqAddr n.seq w)) b.ctl } := rfl

end Queues

section Begin
variable {b : Block} {second : Bool} {n : PassNotice} {e : Bytes} {S : Scope}

theorem only_resetSems (h : S.sems = true) (second all : Bool) : (resetSems second all).Only (Eff.In S) := by
  simp only [resetSems, only_look, only_each_iff]
  exact fun _ _ _ => (only_one _ _).2 h

theorem only_fillQueues (h : S.engine = true) (second : Bool) (entry : Bytes) (seqAddr : Nat) (n : PassNotice) (w : Nat × Nat × Nat × Nat) :
    (fillQueues second entry seqAddr n w).Only (Eff.In S) := by
  have hpush : ∀ (q : QEntry) (ws : List Nat) (c : Ctl), c.Keeps S (ws.foldl (fun c w => c.queued second w q) c) := fun q ws => by
    induction ws with
    | nil => exact fun c => .refl c
    | cons w ws ih => exact fun c => Ctl.Keeps.trans { engine := fun hs => absurd (h.symm.trans hs) (by decide) } (ih (c.queued second w q))
  have hall : ∀ (f : Bytes → Bytes) (is : List Nat) (c : Ctl), c.Keeps S (is.foldl (Ctl.queueOp second f) c) := fun f is => by
    induction is with
    | nil => exact fun c => .refl c
    | cons i is ih =>
      refine fun c => Ctl.Keeps.trans ?_ (ih (c.queueOp second f i))
      rw [Ctl.queueOp]
      split
      · exact .refl c
      · exact hpush _ _ c
  exact (only_upd _ _).2 fun c => hall _ _ c

/-- What the start of a pass may change: memory, queues, and the pass-scope semaphores of a pass of a sequence. -/
theorem only_beginPass (hmem : S.mem = true) (hlrs : S.lrs = true) (hout : S.out = true) (hengine : S.engine = true) (hsems : n.kind ≠ 0 → S.sems = true) :
    (beginPass second n).Only (Eff.In S) := by
  have hreset : ∀ b : Bool, b = (n.kind != 0) → (Act.when b (resetSems second false)).Only (Eff.In S) := fun b hb => by
    rw [only_when_iff, hb]
    exact fun h => only_resetSems (hsems (bne_iff_ne.1 h)) second false
  simp only [beginPass, only_look, only_opt_iff, only_all_cons, only_all_nil, hreset _ rfl, only_when_iff, only_setSeq hmem hlrs hout,
    only_writeVa hmem hlrs hout, only_seq_iff, only_countFw hengine, only_engine hengine, only_fillQueues hengine, implies_true, and_self]

/-- The pass that a notice begins or joins. -/
def Ctl.passTaken (c : Ctl) (second : Bool) (n : PassNotice) : Pass := (c.job.pass.getD (Pass.heard { n with rank := c.rank })).start second n

/-- The block with that pass. -/
def Block.takenUp (b : Block) (second : Bool) (n : PassNotice) : Block :=
  { b with ctl := { b.ctl with job := { b.ctl.job with stopChans := false, pass := some (b.ctl.passTaken second n) } } }

theorem run_passNoticeAct (hserves : b.ctl.servesRank n.rank = some second) (hawake : b.ctl.awake = true) (hloaded : b.ctl.plan.loaded = true)
    (hjob : b.ctl.job.inJob = true) (hquiet : b.ctl.contextQuiet second = true) (hentry : b.ctl.plan.passEntry n.kind = some e)
    (hfits : b.ctl.noticeFits second n = true) (hstate : n.kind = 0 ∨ (b.seq n.seq).state = seqOpenSt ∨ (b.seq n.seq).state = seqActive) :
    (passNoticeAct n).run b = (beginPass second n).run (b.takenUp second n) := by
  have hok : (n.kind == 0 || (b.seq n.seq).state == seqOpenSt || (b.seq n.seq).state == seqActive) = true := by
    simp only [Bool.or_eq_true, beq_iff_eq, or_assoc]
    exact hstate
  simp only [passNoticeAct, run_look, hserves, run_opt_some, hawake, hloaded, hjob, Bool.true_or, hquiet, hentry, Option.isSome_some, hfits, hok,
    Bool.and_self, run_when_true, run_all_cons, run_all_nil]
  rfl

theorem run_passNoticeAct_closed (hkind : n.kind ≠ 0) (hopen : (b.seq n.seq).state ≠ seqOpenSt) (hactive : (b.seq n.seq).state ≠ seqActive) :
    (passNoticeAct n).run b = b := by
  have hno : (n.kind == 0 || (b.seq n.seq).state == seqOpenSt || (b.seq n.seq).state == seqActive) = false := by
    rw [beq_eq_false_iff_ne.2 hkind, beq_eq_false_iff_ne.2 hopen, beq_eq_false_iff_ne.2 hactive]
    rfl
  rw [passNoticeAct, run_look]
  cases b.ctl.servesRank n.rank with
  | none => rfl
  | some second => simp only [run_opt_some, hno, Bool.and_false, run_when_false]

/-- The acts of a pass's start that come before its queues are filled. -/
def preparePass (second : Bool) (n : PassNotice) (b : Block) : Act :=
  Act.all [
    Act.when (n.kind != 0) (setSeq n.seq fun s => { s with state := seqActive }),
    writeVa { fwSpace with second := second } b.ctl.plan.passBlock (passBlockHead n (runWords b.ctl.plan b.ctl.jobP n) (if n.kind = 0 then 0 else (b.seq n.seq).seed)),
    writeVa { fwSpace with second := second } (b.ctl.plan.passBlock + 76) (zeroBytes 180),
    Act.when (!n.tokens.isEmpty && b.ctl.plan.tokenBuf != 0) ((countFw (4 * n.tokens.length)).seq
      (writeVa { fwSpace with second := second } b.ctl.plan.tokenBuf (n.tokens.flatMap fun t => leBytes t 4))),
    Act.when (n.kind != 0) (resetSems second false),
    .upd fun c => { c with engine := { c.engine with rows := c.engine.rows.filter fun r => r.second != second } }]

theorem run_beginPass (hentry : b.ctl.plan.passEntry n.kind = some e) : (beginPass second n).run b =
    (fillQueues second e (b.ctl.plan.seqEntry n.seq) n (runWords b.ctl.plan b.ctl.jobP n)).run ((preparePass second n b).run b) := by
  simp only [beginPass, run_look, hentry, run_opt_some, run_all_cons, run_all_nil, preparePass]

theorem keeps_preparePass : b.Keeps { mem := true, lrs := true, out := true, sems := true, engine := true } ((preparePass second n b).run b) := by
  refine Act.Only.keepsScope ?_ b
  simp only [preparePass, only_all_cons, only_all_nil, only_when_iff, only_setSeq (S := { mem := true, lrs := true, out := true, sems := true, engine := true }) rfl rfl rfl,
    only_writeVa (S := { mem := true, lrs := true, out := true, sems := true, engine := true }) rfl rfl rfl, only_seq_iff,
    only_countFw (S := { mem := true, lrs := true, out := true, sems := true, engine := true }) rfl,
    only_engine (S := { mem := true, lrs := true, out := true, sems := true, engine := true }) rfl,
    only_resetSems (S := { mem := true, lrs := true, out := true, sems := true, engine := true }) rfl, implies_true, and_self]

@[simp] theorem passBlockHead_length (n : PassNotice) (w : Nat × Nat × Nat × Nat) (seed : Nat) : (passBlockHead n w seed).length = 72 := by
  simp only [passBlockHead, List.length_append, leBytes_length, List.length_cons, List.length_nil]

/-- The on-chip pass block of a START pass without tokens (Table 03-24). -/
theorem mem_preparePass_onChip (hkind : n.kind = 0) (htokens : n.tokens = []) (hlo : lagoonBase ≤ b.ctl.plan.passBlock)
    (hhi : b.ctl.plan.passBlock + 256 ≤ lagoonBase + lagoonSize) (hpage : b.ctl.plan.passBlock % 8192 ≤ 7936) : ((preparePass false n b).run b).mem =
      (b.mem.write b.ctl.plan.passBlock (passBlockHead n (runWords b.ctl.plan b.ctl.jobP n) 0)).write (b.ctl.plan.passBlock + 76) (zeroBytes 180) := by
  have hzero : (zeroBytes 180).length = 180 := List.length_replicate
  have hk : (0 != 0) = false := rfl
  have hspace : { fwSpace with second := false } = fwSpace := rfl
  have hmod : (b.ctl.plan.passBlock + 76) % 8192 = b.ctl.plan.passBlock % 8192 + 76 := by omega
  simp only [preparePass, run_all_cons, run_all_nil, hkind, hk, run_when_false, if_true, htokens, List.isEmpty_nil, Bool.not_true, Bool.false_and, hspace,
    run_writeVa_lagoon0 (va := b.ctl.plan.passBlock) (bytes := passBlockHead n (runWords b.ctl.plan b.ctl.jobP n) 0) (by rw [passBlockHead_length]; decide)
      (by rw [passBlockHead_length]; omega) hlo (by rw [passBlockHead_length]; omega),
    run_writeVa_lagoon0 (va := b.ctl.plan.passBlock + 76) (bytes := zeroBytes 180) (by rw [hzero]; decide) (by rw [hzero]; omega) (by omega)
      (by rw [hzero]; omega)]
  simp only [run_upd, Block.wrote]

end Begin

/-- Settles O24. -/
theorem passesStart : Obligations.PassesStart := by
  unfold Obligations.PassesStart
  refine ⟨?start, fun s n hkind hopen hactive => runs_of_perform rfl (run_passNoticeAct_closed hkind hopen hactive)⟩
  case start =>
    intro s n second e hserves hawake hloaded hjob hquiet hentry hfits hstate p w
    have hrun := run_passNoticeAct hserves hawake hloaded hjob hquiet hentry hfits hstate
    have hbegin : (beginPass second n).run (s.block.takenUp second n) = _ := run_beginPass (b := s.block.takenUp second n) hentry
    have hkeep := (only_beginPass (S := { mem := true, lrs := true, out := true, sems := true, engine := true }) (second := second) (n := n) rfl rfl rfl rfl
      fun _ => rfl).keepsScope (s.block.takenUp second n)
    refine ⟨_, runs_of_perform rfl hrun, congrArg Job.pass (hkeep.ctl.job rfl), ?_, ?_, ?_, hkeep.host rfl, hkeep.flash rfl, hkeep.arb rfl, hkeep.fuses rfl,
      hkeep.time rfl, hkeep.ctl.hif rfl, hkeep.ctl.plan rfl⟩
    · intro i r v hlo hhi hr hv
      rw [hbegin, run_fillQueues]
      refine mem_q_foldl_queueOp_self _ _ (mem_upto hlo hhi) ?_ hv
      rw [keeps_preparePass.ctl.plan rfl]
      exact hr
    · intro hsecond htokens hpb hpe hpage hkind
      subst hsecond
      have hmem : ((beginPass false n).run (s.block.takenUp false n)).mem = _ :=
        (congrArg Block.mem hbegin).trans (mem_preparePass_onChip (b := s.block.takenUp false n) hkind htokens hpb hpe hpage)
      have hblock : ((beginPass false n).run (s.block.takenUp false n)).mem = (s.block.mem.write p.passBlock (passBlockHead n w 0)).write (p.passBlock + 76) (zeroBytes 180) :=
        hmem
      rw [hblock]
      constructor
      · rw [Memory.read_write_apart _ _ _ _ _ (Or.inl (show p.passBlock + 72 ≤ p.passBlock + 76 by omega))]
        have hread := Memory.read_write_self s.block.mem p.passBlock (passBlockHead n w 0)
        rw [passBlockHead_length] at hread
        exact hread
      · exact Memory.read_write_self _ _ _
    · intro hkind
      exact ((only_beginPass (S := { mem := true, lrs := true, out := true, engine := true }) (second := second) (n := n) rfl rfl rfl rfl
        fun h => absurd hkind h).keepsScope (s.block.takenUp second n)).sems rfl

end Sys2Proof.Machine


namespace Sys2Proof.Machine

/-! # LOAD_PLAN and UNLOAD_PLAN (R98, R225, R235, R469) -/

section Tables
variable {P : Eff → Prop} (hmem : ∀ a bs, P (.mem a bs))
include hmem

theorem only_writeEntry (addr e : Nat) : (writeEntry addr e).Only P := (only_one _ _).2 (hmem _ _)

theorem only_fillTable (f e : Nat) : (fillTable f e).Only P := (only_one _ _).2 (hmem _ _)

variable {second : Bool} (htable : ∀ f, (useTable second f).Only P)
include htable

theorem only_ensureTable (va : Nat) (path : List Nat) (sh : Nat) : (ensureTable second va path sh).Only P := by
  simp only [ensureTable, only_look, only_opt_iff, only_when_iff, only_all_cons, only_all_nil, htable, only_fillTable hmem, only_writeEntry hmem,
    implies_true, and_self]

theorem only_ensurePath (va shift : Nat) : (ensurePath second va shift).Only P := by
  simp only [ensurePath, only_each_iff, only_ensureTable hmem htable, implies_true]

theorem only_putBlock (va shift e : Nat) : (putBlock second va shift e).Only P := by
  simp only [putBlock, only_seq_iff, only_look, only_opt_iff, only_ensurePath hmem htable, only_writeEntry hmem, implies_true, and_self]

theorem only_mapRun (r : BlockRun) (paddr tier : Nat) (readonly : Bool) : (mapRun second r paddr tier readonly).Only P := by
  simp only [mapRun, only_each_iff, only_look, only_putBlock hmem htable, implies_true]

theorem only_mapRange (va pa bytes module : Nat) (readonly : Bool) : (mapRange second va pa bytes module readonly).Only P := by
  simp only [mapRange, only_each_iff, only_putBlock hmem htable, implies_true]

theorem only_mapBuf (x : Buf) : (mapBuf second x).Only P := by
  simp only [mapBuf, only_each_iff, only_when_iff, only_mapRun hmem htable, implies_true]

theorem only_mapAlias (x : Buf) : (mapAlias second x).Only P := by
  simp only [mapAlias, only_look, only_each_iff, only_ensurePath hmem htable, implies_true]

end Tables

section Load
variable {S : Scope} {b : Block} {id : Nat} {x : Cmd}

theorem only_useTable_first (h : S.fw = true) (f : Nat) : (useTable false f).Only (Eff.In S) := only_fw h fun c =>
  { c.fw with alloc := { c.fw.alloc with tables := f :: c.fw.alloc.tables } }

theorem only_makeAbsent_first (hmem : S.mem = true) (hlrs : S.lrs = true) (hfw : S.fw = true) : (makeAbsent false).Only (Eff.In S) := by
  have hm : ∀ a bs, Eff.In S (.mem a bs) := fun _ _ => ⟨hmem, hlrs⟩
  simp only [makeAbsent, only_look, only_opt_iff, only_all_cons, only_all_nil, only_useTable_first hfw, only_fillTable hm, Bool.false_eq_true, if_false,
    only_fw hfw, implies_true, and_self]

theorem only_flushAll (h : S.engine = true) : flushAll.Only (Eff.In S) := only_engine h _

theorem only_freshCaches (h : S.engine = true) (p : Plan) : (freshCaches p).Only (Eff.In S) := only_engine h _

theorem only_planTables (hmem : S.mem = true) (hlrs : S.lrs = true) (hfw : S.fw = true) : planTables.Only (Eff.In S) := by
  have hm : ∀ a bs, Eff.In S (.mem a bs) := fun _ _ => ⟨hmem, hlrs⟩
  have ht := only_useTable_first (S := S) hfw
  simp only [planTables, only_look, only_all_cons, only_all_nil, only_one, hm, only_each_iff, only_ite_iff, only_when_iff, only_mapAlias hm ht,
    only_mapBuf hm ht, only_makeAbsent_first hmem hlrs hfw, implies_true, and_self]

theorem only_fillBuf (hmem : S.mem = true) (hlrs : S.lrs = true) (y : Buf) : (fillBuf y).Only (Eff.In S) := by
  simp only [fillBuf, only_when_iff, only_each_iff]
  exact fun _ _ _ => (only_one _ _).2 ⟨hmem, hlrs⟩

/-- The block whose plan is this one, LOADED, before its contents and tables are written. -/
def Block.planned (b : Block) (p : Plan) : Block :=
  { b with ctl := { b.ctl with plan := p, fw := { PageFw.empty with nextId := b.ctl.fw.nextId, nextKey := b.ctl.fw.nextKey },
                               glb := { b.ctl.glb with state := .loaded } } }

/-- What a plan's installation may change once the plan is LOADED. -/
theorem keeps_installPlan (p : Plan) : (b.planned p).Keeps { mem := true, lrs := true, fw := true, engine := true } ((installPlan p).run b) := by
  have hrun : (installPlan p).run b = (Act.all [Act.each p.bufs fillBuf, planTables, flushAll, freshCaches p]).run (b.planned p) := rfl
  rw [hrun]
  refine Act.Only.keepsScope ?_ _
  simp only [only_all_cons, only_all_nil, only_each_iff, only_fillBuf (S := { mem := true, lrs := true, fw := true, engine := true }) rfl rfl,
    only_planTables (S := { mem := true, lrs := true, fw := true, engine := true }) rfl rfl rfl,
    only_flushAll (S := { mem := true, lrs := true, fw := true, engine := true }) rfl,
    only_freshCaches (S := { mem := true, lrs := true, fw := true, engine := true }) rfl, implies_true, and_self]

section LoadPlan
variable (h : b.MayRun id 0x02 x) (hstate : b.ctl.glb.state = .ready) (hlevel : b.ctl.sec.level < 2)
include h hstate hlevel

theorem Block.MayRun.run_loadPlanAct {img : Bytes} {p : Plan} (himg : b.host.read (u64 x.bytes 32) (u64 x.bytes 40) = img)
    (hp : parsePlan img b.ctl.jobP = p) (hsigned : b.fuses.owned = true → trailerOk b.fuses img = true) (hverify : (b.started id).verify img p = none)
    (hhbm : p.place.2.1 ≤ 2 * hbmDie) (hddr : p.place.2.2 ≤ (b.started id).ddrRoom (b.started id).ctl.bound)
    (htables : p.place.1.tableNeed ≤ rangeCount p.place.1.tableRanges) (hpair : b.ctl.bound = true → p.place.1.pairFits = true) :
    (loadPlanAct id).run b = (finish id .ok ((planDigest img).take 8)).run
      ((installPlan { p.place.1 with digest := planDigest img }).run (b.started id)) := by
  have hlegal : (Machine.inStates [.ready] b && decide (b.ctl.sec.level < 2)) = true := by
    simp only [Machine.inStates, hstate, hlevel, decide_true]
    rfl
  have himg' : (b.started id).host.read (u64 x.bytes 32) (u64 x.bytes 40) = img := himg
  have hp' : parsePlan img (b.started id).ctl.jobP = p := hp
  have hsig : ((b.started id).fuses.owned && !trailerOk (b.started id).fuses img) = false := by
    rw [Bool.and_eq_false_imp]
    exact fun ho => by rw [show trailerOk (b.started id).fuses img = true from hsigned ho]; rfl
  have hb : ((b.started id).ctl.bound && !p.place.1.pairFits) = false := by
    rw [Bool.and_eq_false_imp]
    exact fun ho => by rw [hpair ho]; rfl
  have hfits : (decide (2 * hbmDie < p.place.2.1) || decide ((b.started id).ddrRoom (b.started id).ctl.bound < p.place.2.2) ||
      decide (rangeCount p.place.1.tableRanges < p.place.1.tableNeed) || ((b.started id).ctl.bound && !p.place.1.pairFits)) = false := by
    rw [hb, decide_eq_false (Nat.not_lt.2 hhbm), decide_eq_false (Nat.not_lt.2 hddr), decide_eq_false (Nat.not_lt.2 htables)]
    rfl
  rw [loadPlanAct, h.run_startCmd (legal := fun b _ => Machine.inStates [.ready] b && decide (b.ctl.sec.level < 2)) hlegal]
  simp only [run_look, himg', hp', hsig, Bool.false_eq_true, if_false, hverify]
  rw [if_neg (by simpa using hfits), run_seq]

theorem Block.MayRun.run_loadPlanAct_unsigned (howned : b.fuses.owned = true)
    (htrailer : trailerOk b.fuses (b.host.read (u64 x.bytes 32) (u64 x.bytes 40)) = false) : (loadPlanAct id).run b = b.completed id .eAuth [] := by
  have hlegal : (Machine.inStates [.ready] b && decide (b.ctl.sec.level < 2)) = true := by
    simp only [Machine.inStates, hstate, hlevel, decide_true]
    rfl
  have hsig : ((b.started id).fuses.owned && !trailerOk (b.started id).fuses ((b.started id).host.read (u64 x.bytes 32) (u64 x.bytes 40))) = true := by
    rw [show (b.started id).fuses.owned = true from howned,
      show trailerOk (b.started id).fuses ((b.started id).host.read (u64 x.bytes 32) (u64 x.bytes 40)) = false from htrailer]
    rfl
  rw [loadPlanAct, h.run_startCmd (legal := fun b _ => Machine.inStates [.ready] b && decide (b.ctl.sec.level < 2)) hlegal]
  simp only [run_look, hsig, if_true]
  rfl

end LoadPlan

/-- The block without a plan. -/
def Block.planGone (b : Block) : Block :=
  { b with ctl := { b.ctl with plan := Plan.blank, job := Job.blank, glb := { b.ctl.glb with state := .ready },
                               fw := { PageFw.empty with nextId := b.ctl.fw.nextId, nextKey := b.ctl.fw.nextKey } } }

theorem Block.MayRun.run_unloadPlanAct (h : b.MayRun id 0x03 x) (hstate : b.ctl.glb.state = .loaded) : (unloadPlanAct id).run b =
    (finish id .ok []).run (flushAll.run (discardPass.run (b.started id)).planGone) := by
  have hlegal : Machine.inStates [.loaded] b = true := by
    simp only [Machine.inStates, hstate]
    rfl
  rw [unloadPlanAct, h.run_startCmd (legal := fun b _ => Machine.inStates [.loaded] b) hlegal]
  simp only [run_all_cons, run_all_nil]
  rfl

end Load

/-- Settles O16. -/
theorem planLoadsAndUnloads : Obligations.PlanLoadsAndUnloads := by
  unfold Obligations.PlanLoadsAndUnloads
  refine ⟨?load, ?refused, ?unload⟩
  case load =>
    intro s id x hx hstate hlevel b img p hsigned hverify hhbm hddr htables hpair
    have hrun := hx.run_loadPlanAct (img := img) (p := p) hstate hlevel rfl rfl hsigned hverify hhbm hddr htables hpair
    have hkeep := keeps_installPlan (b := s.block.started id) { p.place.1 with digest := planDigest img }
    have hcmd : (((s.block.started id).planned { p.place.1 with digest := planDigest img })).ctl.hif = (s.block.started id).ctl.hif := rfl
    generalize (installPlan { p.place.1 with digest := planDigest img }).run (s.block.started id) = r at hrun hkeep
    have hif : r.ctl.hif = (s.block.started id).ctl.hif := (hkeep.ctl.hif rfl).trans hcmd
    have hstarted := (cmd_of_hif hif id).trans (cmd_started hx.cmd_eq)
    have hfin := (only_finish (S := { hif := true }) rfl id .ok ((planDigest img).take 8)).keepsScope r
    exact ⟨_, runs_of_perform rfl hrun, ended_finish hstarted .ok _, (hfin.ctl.glb rfl).trans (hkeep.ctl.glb rfl),
      (hfin.ctl.plan rfl).trans (hkeep.ctl.plan rfl), (hfin.host rfl).trans (hkeep.host rfl), (hfin.flash rfl).trans (hkeep.flash rfl),
      (hfin.sems rfl).trans (hkeep.sems rfl), (hfin.arb rfl).trans (hkeep.arb rfl), (hfin.out rfl).trans (hkeep.out rfl),
      (hfin.fuses rfl).trans (hkeep.fuses rfl), ((othersKept_started s.block id).trans (othersKept_of_hif hif id)).trans (othersKept_finish r id _ _)⟩
  case refused =>
    intro s id x hx hstate hlevel howned htrailer
    have hrun := hx.run_loadPlanAct_unsigned hstate hlevel howned htrailer
    obtain ⟨hended, -, houtside, hctl⟩ := completes_completed hx.cmd_eq .eAuth []
    exact ⟨_, runs_of_perform rfl hrun, hended, houtside, hctl⟩
  case unload =>
    intro s id x hx hstate
    have hrun := hx.run_unloadPlanAct hstate
    have hdiscard := (only_discardPass (S := { engine := true, fw := true }) rfl rfl).keepsScope (s.block.started id)
    have hgone : ∀ c : Block, c.SameOutside c.planGone ∧ c.planGone.ctl.hif = c.ctl.hif := fun c =>
      ⟨⟨rfl, rfl, rfl, rfl, rfl, rfl, rfl, rfl, rfl, rfl, rfl, rfl⟩, rfl⟩
    have hplan : ∀ c : Block, c.planGone.ctl.plan = Plan.blank ∧ c.planGone.ctl.glb = { c.ctl.glb with state := .ready } := fun c => ⟨rfl, rfl⟩
    have hflush := (only_flushAll (S := { engine := true }) rfl).keepsScope (discardPass.run (s.block.started id)).planGone
    have hglb0 : (discardPass.run (s.block.started id)).ctl.glb = s.block.ctl.glb := hdiscard.ctl.glb rfl
    have hif0 : (discardPass.run (s.block.started id)).ctl.hif = (s.block.started id).ctl.hif := hdiscard.ctl.hif rfl
    have hout0 := hdiscard.sameOutside rfl
    generalize discardPass.run (s.block.started id) = c at hrun hflush hglb0 hif0 hout0
    have hif : (flushAll.run c.planGone).ctl.hif = (s.block.started id).ctl.hif := ((hflush.ctl.hif rfl).trans (hgone c).2).trans hif0
    have hfin := (only_finish (S := { hif := true }) rfl id .ok []).keepsScope (flushAll.run c.planGone)
    have hglb : (flushAll.run c.planGone).ctl.glb = { s.block.ctl.glb with state := .ready } := by
      rw [hflush.ctl.glb rfl, (hplan c).2, hglb0]
    have hsame : s.block.SameOutside (flushAll.run c.planGone) :=
      (((keeps_started (S := { hif := true }) rfl s.block id).sameOutside rfl).trans hout0).trans ((hgone c).1.trans (hflush.sameOutside rfl))
    exact ⟨_, runs_of_perform rfl hrun, ended_finish ((cmd_of_hif hif id).trans (cmd_started hx.cmd_eq)) .ok [], (hfin.ctl.glb rfl).trans hglb,
      (hfin.ctl.plan rfl).trans ((hflush.ctl.plan rfl).trans (hplan c).1), hsame.trans (hfin.sameOutside rfl),
      ((othersKept_started s.block id).trans (othersKept_of_hif hif id)).trans (othersKept_finish _ id _ _)⟩

end Sys2Proof.Machine


namespace Sys2Proof.Machine

/-! # START_JOB and STOP_JOB (R273, R287, R357, R364, R366) -/

/-! ## A scope within another -/

/-- Every part that the one scope opens, the other opens. -/
structure Scope.Sub (S T : Scope) : Prop where
  mem : T.mem = false → S.mem = false := by decide
  host : T.host = false → S.host = false := by decide
  flash : T.flash = false → S.flash = false := by decide
  nor : T.nor = false → S.nor = false := by decide
  sems : T.sems = false → S.sems = false := by decide
  arb : T.arb = false → S.arb = false := by decide
  time : T.time = false → S.time = false := by decide
  fuses : T.fuses = false → S.fuses = false := by decide
  lrs : T.lrs = false → S.lrs = false := by decide
  out : T.out = false → S.out = false := by decide
  fresh : T.fresh = false → S.fresh = false := by decide
  glb : T.glb = false → S.glb = false := by decide
  pins : T.pins = false → S.pins = false := by decide
  hif : T.hif = false → S.hif = false := by decide
  power : T.power = false → S.power = false := by decide
  lh : T.lh = false → S.lh = false := by decide
  plan : T.plan = false → S.plan = false := by decide
  job : T.job = false → S.job = false := by decide
  fw : T.fw = false → S.fw = false := by decide
  engine : T.engine = false → S.engine = false := by decide
  links : T.links = false → S.links = false := by decide
  pair : T.pair = false → S.pair = false := by decide
  health : T.health = false → S.health = false := by decide
  shoal : T.shoal = false → S.shoal = false := by decide
  sec : T.sec = false → S.sec = false := by decide
  bar2 : T.bar2 = false → S.bar2 = false := by decide

theorem Ctl.Keeps.widen {S T : Scope} {c d : Ctl} (h : c.Keeps S d) (hs : S.Sub T) : c.Keeps T d where
  glb hf := h.glb (hs.glb hf)
  pins hf := h.pins (hs.pins hf)
  hif hf := h.hif (hs.hif hf)
  power hf := h.power (hs.power hf)
  lh hf := h.lh (hs.lh hf)
  plan hf := h.plan (hs.plan hf)
  job hf := h.job (hs.job hf)
  fw hf := h.fw (hs.fw hf)
  engine hf := h.engine (hs.engine hf)
  links hf := h.links (hs.links hf)
  pair hf := h.pair (hs.pair hf)
  health hf := h.health (hs.health hf)
  shoal hf := h.shoal (hs.shoal hf)
  sec hf := h.sec (hs.sec hf)
  bar2 hf := h.bar2 (hs.bar2 hf)

/-- What keeps all outside a scope keeps all outside a wider one. -/
theorem Block.Keeps.widen {S T : Scope} {b t : Block} (h : b.Keeps S t) (hs : S.Sub T) : b.Keeps T t where
  mem hf := h.mem (hs.mem hf)
  host hf := h.host (hs.host hf)
  flash hf := h.flash (hs.flash hf)
  nor0 hf := h.nor0 (hs.nor hf)
  nor1 hf := h.nor1 (hs.nor hf)
  sems hf := h.sems (hs.sems hf)
  arb hf := h.arb (hs.arb hf)
  time hf := h.time (hs.time hf)
  fuses hf := h.fuses (hs.fuses hf)
  lrs hf := h.lrs (hs.lrs hf)
  out hf := h.out (hs.out hf)
  fresh hf := h.fresh (hs.fresh hf)
  ctl := h.ctl.widen hs

section Roles
variable {b : Block}

/-- The effect leaves what the module is in its pair. -/
def Eff.KeepsRole : Eff → Prop
  | .upd f => ∀ c, (f c).pair.role = c.pair.role ∧ (f c).pair.rank2 = c.pair.rank2
  | _ => True

/-- A tree of such effects leaves it too. -/
theorem Act.Only.keepsRole {a : Act} (ha : a.Only Eff.KeepsRole) (b : Block) :
    (a.run b).ctl.pair.role = b.ctl.pair.role ∧ (a.run b).ctl.pair.rank2 = b.ctl.pair.rank2 := by
  refine Act.Only.keeps b Eff.KeepsRole (fun t => t.ctl.pair.role = b.ctl.pair.role ∧ t.ctl.pair.rank2 = b.ctl.pair.rank2) (fun c e he hc => ?_) a ha ⟨rfl, rfl⟩
  cases e with
  | upd f => exact ⟨(he c.ctl).1.trans hc.1, (he c.ctl).2.trans hc.2⟩
  | signal s n =>
    simp only [Eff.apply]
    split <;> exact hc
  | nor dev a bs => cases dev <;> exact hc
  | norErase dev => cases dev <;> exact hc
  | _ => exact hc

theorem keepsRole_useTable (second : Bool) (f : Nat) : (useTable second f).Only Eff.KeepsRole :=
  (only_upd _ _).2 fun c => by cases second <;> exact ⟨rfl, rfl⟩

theorem only_useTable {S : Scope} (hfw : S.fw = true) (hpair : S.pair = true) (second : Bool) (f : Nat) : (useTable second f).Only (Eff.In S) :=
  (only_upd _ _).2 fun c => by
    cases second
    · exact { fw := fun hs => absurd (hfw.symm.trans hs) (by decide) }
    · exact { pair := fun hs => absurd (hpair.symm.trans hs) (by decide) }

theorem only_toBoard {P : Eff → Prop} (h : ∀ d m, P (.send d m)) (m : Msg) : (toBoard m).Only P := by
  simp only [toBoard, only_look, only_each_iff]
  exact fun _ _ _ => (only_one _ _).2 (h _ _)

theorem only_mapAliases {P : Eff → Prop} (hmem : ∀ a bs, P (.mem a bs)) (htable : ∀ second f, (useTable second f).Only P) (m : BufferMapMsg) :
    (mapAliases m).Only P := by
  simp only [mapAliases, only_look, only_each_iff, only_mapRange hmem (htable _), implies_true]

end Roles

section Start
variable {b : Block} {id : Nat} {x : Cmd}

/-- The job that a START_JOB begins. -/
def Block.jobBegun (b : Block) (id : Nat) (x : Cmd) (old : Job) : Job :=
  { Job.blank with swapAddr := u64 x.bytes 32, swapBytes := u64 x.bytes 40, regions := b.regionTable x.bytes, maps := old.maps,
                   started := old.started, starting := some { cmd := id, passDone := false } }

/-- What a START_JOB resets before its job begins. -/
def resetForJob : Act :=
  .look fun b => Act.all [discardPass, flushAll, resetSems false true, resetHostSems,
    Act.when b.ctl.plan.hasSeqs (fwWrite (b.ctl.plan.seqEntry 0) (zeroBytes 0x40000))]

/-- The block whose job has begun. -/
def Block.beginning (b : Block) (j : Job) : Block := { b with ctl := { b.ctl with job := j, fw := { b.ctl.fw with seqs := [], journal := [] } } }

/-- The buffer maps go out, and aliases of this module's own buffers are mapped. -/
def shareMaps (b : Block) : Act := (toBoard (.bufferMap b.ctl.bufferMap)).seq (mapAliases b.ctl.bufferMap)

theorem Block.MayRun.run_startJobAct {digest : Bytes} (h : b.MayRun id 0x04 x) (hstate : b.ctl.glb.state = .loaded) (hlevel : b.ctl.sec.level < 2)
    (hranks : b.ctl.jobP = b.ctl.plan.jobP) (hbound : b.ctl.bound = false) (hshort : b.ctl.shortBundle = none)
    (hready : b.ctl.links.fabric.fabric ≠ 0 → b.ctl.links.fabric.ready = true) : (startJobAct id digest).run b =
      startCheck.run ((shareMaps (b.started id)).run ((resetForJob.run (b.started id)).beginning
        ((b.started id).jobBegun id x (resetForJob.run (b.started id)).ctl.job))) := by
  have hrole : (b.ctl.pair.role != .bound) = true := by
    have h0 : (b.ctl.pair.role != .unbound) = false := hbound
    have h1 : b.ctl.pair.role = .unbound := by simpa using h0
    rw [h1]
    rfl
  have hlegal : (Machine.inStates [.loaded] b && decide (b.ctl.sec.level < 2) && b.ctl.jobP == b.ctl.plan.jobP &&
      (b.ctl.pair.role != .bound || digest == [] || digest == b.ctl.plan.digest)) = true := by
    simp only [Machine.inStates, hstate, hlevel, hranks, hrole, decide_true, beq_self_eq_true, Bool.true_or, Bool.and_true]
    rfl
  have hnone : (b.started id).ctl.shortBundle = none := hshort
  have hlink : ((b.started id).ctl.links.fabric.fabric != 0 && !(b.started id).ctl.links.fabric.ready) = false := by
    rw [Bool.and_eq_false_imp]
    intro hne
    rw [show (b.started id).ctl.links.fabric.ready = true from hready (bne_iff_ne.1 hne)]
    rfl
  rw [startJobAct, h.run_startCmd (legal := fun b _ => Machine.inStates [.loaded] b && decide (b.ctl.sec.level < 2) && b.ctl.jobP == b.ctl.plan.jobP &&
      (b.ctl.pair.role != .bound || digest == [] || digest == b.ctl.plan.digest)) hlegal]
  simp only [run_look, hnone, hlink, Bool.false_eq_true, if_false, run_all_cons, run_all_nil, shareMaps, run_seq, resetForJob]
  rfl

/-- The block whose START_JOB has its maps in. -/
def Block.mapped (b : Block) (id : Nat) : Block :=
  { b with ctl := { b.ctl with job := { b.ctl.job with starting := some { cmd := id, passDone := true } } } }

/-- START_JOB goes on: no START pass in the plan, and the rank's part has ended; with one, the leader opens it. -/
theorem run_startCheck (hst : b.ctl.job.starting = some { cmd := id, passDone := false }) (hmaps : b.ctl.mapsIn = true) : startCheck.run b =
    (if (b.ctl.plan.passEntry 0).isNone then startDone else Act.when b.ctl.leader (openPass none startNotice)).run
      (b.mapped id) := by
  simp only [startCheck, run_look, hst, run_opt_some, hmaps, Bool.not_false, Bool.and_self, run_when_true, run_seq]
  rfl

/-- The block once the leader has been told of a START_JOB, by message or by its own note. -/
def Block.startTold (b : Block) (started : List Nat) (out : List Sent) : Block :=
  { b with out := out, ctl := { b.ctl with job := { b.ctl.job with started := started } } }

theorem run_startDone_unbound {st : Starting} (hrole : b.ctl.pair.role = .unbound) (hst : b.ctl.job.starting = some st) :
    ∃ started out, startDone.run b = ((finish st.cmd .ok []).run b.jobOn).startTold started out := by
  have hmirrors : b.ctl.mirrors = false := by simp only [Ctl.mirrors, hrole]
  have hnot : (b.ctl.pair.role == .bound) = false := by rw [hrole]; rfl
  have hrun : startDone.run b = (if b.ctl.leader then rankPart b.ctl.rank 0 0 else send (.rank 0) (.rankFinished b.ctl.rank 0 0)).run
      ((finish st.cmd .ok []).run b.jobOn) := by
    simp only [startDone, run_look, hst, run_opt_some, run_all_cons, run_all_nil, run_mirrorContext_unbound hrole, run_sendState_idle hmirrors, hnot,
      run_when_false, run_upd]
    rfl
  generalize (finish st.cmd .ok []).run b.jobOn = c at hrun
  rw [hrun]
  cases b.ctl.leader with
  | false => exact ⟨c.ctl.job.started, { dest := .rank 0, msg := .rankFinished b.ctl.rank 0 0 } :: c.out, rfl⟩
  | true =>
    have hpart : (rankPart b.ctl.rank 0 0).run c =
        { c with ctl := if c.ctl.job.started.contains b.ctl.rank then c.ctl else
          { c.ctl with job := { c.ctl.job with started := c.ctl.job.started ++ [b.ctl.rank] } } } := rfl
    rw [if_pos rfl, hpart]
    split
    · exact ⟨c.ctl.job.started, c.out, rfl⟩
    · exact ⟨c.ctl.job.started ++ [b.ctl.rank], c.out, rfl⟩

/-- What the resets of a START_JOB may change. -/
theorem keeps_resetForJob (b : Block) : b.Keeps { engine := true, fw := true, sems := true, mem := true, lrs := true, out := true } (resetForJob.run b) := by
  refine Act.Only.keepsScope ?_ b
  have hhost : resetHostSems.Only (Eff.In { engine := true, fw := true, sems := true, mem := true, lrs := true, out := true }) := by
    simp only [resetHostSems, only_each_iff]
    exact fun _ _ => (only_one _ _).2 rfl
  simp only [resetForJob, only_look, only_all_cons, only_all_nil, only_when_iff, hhost, fwWrite,
    only_discardPass (S := { engine := true, fw := true, sems := true, mem := true, lrs := true, out := true }) rfl rfl,
    only_flushAll (S := { engine := true, fw := true, sems := true, mem := true, lrs := true, out := true }) rfl,
    only_resetSems (S := { engine := true, fw := true, sems := true, mem := true, lrs := true, out := true }) rfl,
    only_writeVa (S := { engine := true, fw := true, sems := true, mem := true, lrs := true, out := true }) rfl rfl rfl, implies_true, and_self]

/-- The host's semaphores are 0 once a START_JOB has reset them (R287). -/
theorem sem_resetForJob {k : Nat} (hlo : 16256 ≤ k) (hhi : k < 16320) : (resetForJob.run b).sem k = 0 := by
  simp only [resetForJob, run_look, run_all_cons, run_all_nil]
  obtain ⟨sems, hrun, hzero, -⟩ := run_resetHostSems ((resetSems false true).run (flushAll.run (discardPass.run b)))
  rw [hrun]
  have hwrite : ∀ (on : Bool) (va : Nat) (bytes : Bytes), (Act.when on (fwWrite va bytes)).Only (Eff.In { mem := true, lrs := true, out := true }) :=
    fun on va bytes => (only_when_iff _ _).2 fun _ => only_writeVa rfl rfl rfl _ _ _
  exact (congrArg (fun t => Tab.get 0 t k) (((hwrite _ _ _).keepsScope _).sems rfl)).trans (hzero k hlo hhi)

/-- What sharing the buffer maps may change. -/
theorem keeps_shareMaps (b c : Block) : c.Keeps { mem := true, lrs := true, out := true, fw := true, pair := true } ((shareMaps b).run c) := by
  refine Act.Only.keepsScope ((only_seq_iff _ _).2 ⟨only_toBoard (fun _ _ => rfl) _, only_mapAliases (fun _ _ => ⟨rfl, rfl⟩) (only_useTable rfl rfl) _⟩) c

theorem keepsRole_shareMaps (b c : Block) : ((shareMaps b).run c).ctl.pair.role = c.ctl.pair.role ∧ ((shareMaps b).run c).ctl.pair.rank2 = c.ctl.pair.rank2 :=
  Act.Only.keepsRole ((only_seq_iff _ _).2 ⟨only_toBoard (fun _ _ => trivial) _, only_mapAliases (fun _ _ => trivial) keepsRole_useTable _⟩) c

/-- The block of a START_JOB before its part is checked, and what it shares with the one that the command met. -/
theorem startJob_ready (b : Block) (id : Nat) (x : Cmd) : ∃ c : Block,
    (shareMaps (b.started id)).run ((resetForJob.run (b.started id)).beginning ((b.started id).jobBegun id x (resetForJob.run (b.started id)).ctl.job)) = c ∧
    c.ctl.job = (b.started id).jobBegun id x b.ctl.job ∧ c.ctl.hif = (b.started id).ctl.hif ∧ c.ctl.glb = b.ctl.glb ∧ c.ctl.plan = b.ctl.plan ∧
    c.ctl.links = b.ctl.links ∧ c.ctl.pair.role = b.ctl.pair.role ∧ c.ctl.pair.rank2 = b.ctl.pair.rank2 ∧
    (∀ k, 16256 ≤ k → k < 16320 → c.sem k = 0) ∧ c.host = b.host ∧ c.flash = b.flash ∧ c.fuses = b.fuses := by
  refine ⟨_, rfl, ?_⟩
  have hreset := keeps_resetForJob (b.started id)
  have hsem : ∀ k, 16256 ≤ k → k < 16320 → (resetForJob.run (b.started id)).sem k = 0 := fun k => sem_resetForJob
  generalize resetForJob.run (b.started id) = r at hreset hsem
  have hbegin : ∀ j, (r.beginning j).ctl.job = j ∧ (r.beginning j).ctl.hif = r.ctl.hif ∧ (r.beginning j).ctl.glb = r.ctl.glb ∧
    (r.beginning j).ctl.plan = r.ctl.plan ∧ (r.beginning j).ctl.links = r.ctl.links ∧ (r.beginning j).ctl.pair = r.ctl.pair ∧
    (r.beginning j).sems = r.sems ∧ (r.beginning j).host = r.host ∧ (r.beginning j).flash = r.flash ∧ (r.beginning j).fuses = r.fuses :=
    fun j => ⟨rfl, rfl, rfl, rfl, rfl, rfl, rfl, rfl, rfl, rfl⟩
  have hjob : r.ctl.job = b.ctl.job := hreset.ctl.job rfl
  rw [hjob]
  obtain ⟨bjob, bhif, bglb, bplan, blinks, bpair, bsems, bhost, bflash, bfuses⟩ := hbegin ((b.started id).jobBegun id x b.ctl.job)
  generalize r.beginning ((b.started id).jobBegun id x b.ctl.job) = c at *
  have hmaps := keeps_shareMaps (b.started id) c
  obtain ⟨hrole, hrank2⟩ := keepsRole_shareMaps (b.started id) c
  refine ⟨(hmaps.ctl.job rfl).trans bjob, (hmaps.ctl.hif rfl).trans (bhif.trans (hreset.ctl.hif rfl)), (hmaps.ctl.glb rfl).trans (bglb.trans (hreset.ctl.glb rfl)),
    (hmaps.ctl.plan rfl).trans (bplan.trans (hreset.ctl.plan rfl)), (hmaps.ctl.links rfl).trans (blinks.trans (hreset.ctl.links rfl)),
    hrole.trans (congrArg Pair.role (bpair.trans (hreset.ctl.pair rfl))), hrank2.trans (congrArg Pair.rank2 (bpair.trans (hreset.ctl.pair rfl))),
    fun k hlo hhi => ?_, (hmaps.host rfl).trans (bhost.trans (hreset.host rfl)), (hmaps.flash rfl).trans (bflash.trans (hreset.flash rfl)),
    (hmaps.fuses rfl).trans (bfuses.trans (hreset.fuses rfl))⟩
  exact (congrArg (fun t => Tab.get 0 t k) ((hmaps.sems rfl).trans bsems)).trans (hsem k hlo hhi)

/-- The buffer maps that have come in are those that the job before had. -/
theorem mapsIn_of_eq {c d : Ctl} (hlinks : d.links = c.links) (hmaps : d.job.maps = c.job.maps) (h : c.mapsIn = true) : d.mapsIn = true := by
  simpa only [Ctl.mapsIn, Ctl.jobP, Ctl.rank, Ctl.onBoard, hlinks, hmaps] using h

end Start

/-! ## STOP_JOB -/

section Stop
variable {b : Block} {id : Nat} {x : Cmd}

/-- The block of a STOP_JOB that waits for the ranks. -/
def Block.draining (b : Block) (id : Nat) : Block :=
  (awaitRanks id).run { b.started id with ctl := { (b.started id).ctl with glb := { (b.started id).ctl.glb with state := .draining } } }

theorem keeps_draining (b : Block) (id : Nat) : b.Keeps { hif := true, glb := true } (b.draining id) := by
  have h1 := keeps_started (S := { hif := true, glb := true }) rfl b id
  have h2 := (only_glb (S := { hif := true, glb := true }) rfl fun c => { c.glb with state := .draining }).keepsScope (b.started id)
  have h3 := (show (awaitRanks id).Only (Eff.In { hif := true, glb := true }) from fun _ => only_updCmd rfl id _).keepsScope
    { b.started id with ctl := { (b.started id).ctl with glb := { (b.started id).ctl.glb with state := .draining } } }
  exact (h1.trans h2).trans h3

theorem Block.MayRun.run_stopJobAct (h : b.MayRun id 0x05 x) (hlead : b.ctl.leader = true) (hjob : b.ctl.job.inJob = true)
    (hstate : b.ctl.glb.state = .running) (hcmds : b.ctl.hif.cmds = [x]) (hmode : u8 x.bytes 32 = 0) (hopen : b.openSeqs = []) :
    (stopJobAct id).run b = stopsGo.run (b.draining id) := by
  have hlegal : (b.ctl.leader && b.ctl.job.inJob && (Machine.inStates [.running, .degraded] b || (Machine.inStates [.draining] b && u8 x.bytes 32 == 1))) =
      true := by
    simp only [Machine.inStates, hlead, hjob, hstate]
    rfl
  have hid : x.id = id := by simpa using List.find?_some h.cmd_eq
  have hwait : (b.draining id).ctl.hif.cmds = [b.ctl.awaiting x] := cmds_awaited h.cmd_eq hcmds
  have hstarted : (b.started id).ctl.hif.cmds = [{ x with phase := .running, startNo := b.ctl.hif.nextStart }] := by
    have hmap : (b.started id).ctl.hif.cmds = b.ctl.hif.cmds.map fun y => if y.id = id then { y with phase := .running, startNo := b.ctl.hif.nextStart } else y :=
      rfl
    rw [hmap, hcmds, List.map_cons, List.map_nil, if_pos hid]
  have hseqs : (b.started id).openSeqs = [] := (((keeps_started (S := { hif := true }) rfl b id).sameView rfl).openSeqs rfl).trans hopen
  have hone : (u8 x.bytes 32 == 1) = false := by rw [hmode]; rfl
  have hself : ((b.started id).ctl.hif.cmds.filter fun y => isSeqOp (cOp y.bytes) && y.id != id &&
      (y.phase == .waiting || (y.phase == .running && !decide (cOp y.bytes = 0x11 ∨ cOp y.bytes = 0x12)))) = [] := by
    have hne : (x.id != id) = false := by rw [hid]; exact bne_self_eq_false' _
    rw [hstarted, List.filter_cons]
    simp only [hne, Bool.and_false, Bool.false_and, Bool.false_eq_true, if_false, List.filter_nil]
  rw [stopJobAct, h.run_startCmd (legal := fun b x => b.ctl.leader && b.ctl.job.inJob && (Machine.inStates [.running, .degraded] b ||
    (Machine.inStates [.draining] b && u8 x.bytes 32 == 1))) hlegal]
  simp only [run_look, run_all_cons, run_all_nil, hself, run_each_nil, hone, run_when_false, hseqs]
  rfl

/-- The job of a rank that is stopping. -/
def Block.stopping (b : Block) (key mode : Nat) : Block :=
  { b with ctl := { b.ctl with job := { b.ctl.job with stopping := some (key, mode), pass := none }, glb := { b.ctl.glb with state := .draining } } }

theorem run_stopsGo_only (hcmds : b.ctl.hif.cmds = [x]) (hop : cOp x.bytes = 0x05) (hphase : x.phase = .running) : stopsGo.run b = (stopGo x).run b := by
  simp only [stopsGo, run_look, hcmds, List.filter_cons, hop, hphase, beq_self_eq_true, Bool.and_self, if_true, List.filter_nil, run_each_cons,
    run_each_nil]

theorem Ctl.Alone.run_stopGo (h : b.ctl.Alone) (hcmds : b.ctl.hif.cmds = [x]) (hpass : b.ctl.job.pass = none) (hsteps : x.steps = 0) :
    (stopGo x).run b = (stopPart x.key (u8 x.bytes 32)).run (b.withCmds [{ x with steps := 1 }]) := by
  have halone : (b.withCmds [{ x with steps := 1 }]).ctl.Alone := h
  simp only [stopGo, run_look, hpass, hsteps, Option.isNone_none, beq_self_eq_true, Bool.and_self, run_when_true, run_all_cons, run_all_nil,
    run_updCmd_only hcmds, halone.run_fanCommand]

theorem run_stopPart_idle {key mode : Nat} (hopen : b.openSeqs = []) (hopenings : b.ctl.openings = []) :
    (stopPart key mode).run b = stopCheck.run (discardPass.run (b.stopping key mode)) := by
  have hkeep := (only_discardPass (S := { engine := true, fw := true }) rfl rfl).keepsScope (b.stopping key mode)
  have hview : (b.stopping key mode).SameView (discardPass.run (b.stopping key mode)) := hkeep.sameView rfl
  have hview0 : b.SameView (b.stopping key mode) := ⟨rfl, rfl, rfl, rfl, rfl, rfl⟩
  have hseqs : (discardPass.run (b.stopping key mode)).openSeqs = [] := (hview.openSeqs rfl).trans ((hview0.openSeqs rfl).trans hopen)
  have hnone : (discardPass.run (b.stopping key mode)).ctl.openings = [] := hopenings
  have hupd : (Act.upd fun c => { c with job := { c.job with stopping := some (key, mode), pass := none }, glb := { c.glb with state := .draining } }).run b =
    b.stopping key mode := rfl
  simp only [stopPart, run_all_cons, run_all_nil, hupd, run_look, hnone, run_each_nil, hseqs, List.filter_nil]

/-- The block of a rank that has left its job. -/
def Block.left (b : Block) : Block :=
  { b with ctl := { b.ctl with
      job := { Job.blank with maps := [] }, glb := { b.ctl.glb with state := if b.ctl.plan.loaded then .loaded else b.ctl.glb.state },
      pair := { b.ctl.pair with frames := [], journal := [], progress := [], handover := false },
      fw := { b.ctl.fw with seqs := [], alloc := { b.ctl.fw.alloc with swap := [] } } } }

theorem left_facts (b : Block) (hloaded : b.ctl.plan.loaded = true) : b.SameOutside b.left ∧ b.left.ctl.hif = b.ctl.hif ∧ b.left.ctl.links = b.ctl.links ∧
    b.left.ctl.plan = b.ctl.plan ∧ b.left.ctl.power = b.ctl.power ∧ b.left.ctl.pair.role = b.ctl.pair.role ∧ b.left.ctl.pair.rank2 = b.ctl.pair.rank2 ∧
    b.left.ctl.job = { Job.blank with maps := [] } ∧ b.left.ctl.glb.state = .loaded ∧ b.left.ctl.fw.seqs = [] :=
  ⟨⟨rfl, rfl, rfl, rfl, rfl, rfl, rfl, rfl, rfl, rfl, rfl, rfl⟩, rfl, rfl, rfl, rfl, rfl, rfl, rfl, if_pos hloaded, rfl⟩

theorem run_stopCheck {key mode : Nat} (hstop : b.ctl.job.stopping = some (key, mode)) (hopen : b.openSeqs = []) (hquiet : b.ctl.chansQuiet = true) :
    stopCheck.run b = serveRemoval.run (closeSecond.run ((partDone key 0).run b.left)) := by
  simp only [stopCheck, run_look, hstop, run_opt_some, hopen, List.isEmpty_nil, hquiet, Bool.and_self, run_when_true, run_seq]
  rfl

/-- Without sequences, closing the second rank context frees no frame and no slot. -/
theorem keeps_closeSecond (hopen : b.openSeqs = []) : b.Keeps { pair := true, engine := true, fw := true } (closeSecond.run b) := by
  simp only [closeSecond, run_look, hopen, run_seq, run_each_nil, List.flatMap_nil]
  refine ((only_fw (S := { pair := true, engine := true, fw := true }) rfl fun c => { c.fw with alloc := { c.fw.alloc with
    swap := c.fw.alloc.swap.filter fun i => !([] : List Nat).contains i } }).keepsScope b).trans (Act.Only.keepsScope ((only_upd _ _).2 fun c => ?_) _)
  exact { pair := fun hs => (nomatch hs), engine := fun hs => (nomatch hs), fw := fun hs => (nomatch hs) }

theorem chansQuiet_discardPass (h : b.ctl.chansQuiet = true) : (discardPass.run b).ctl.chansQuiet = true := by
  simp only [Ctl.chansQuiet, List.all_eq_true] at h ⊢
  intro e he
  obtain ⟨e0, he0, rfl⟩ := List.mem_map.1 he
  have := h e0 he0
  by_cases hfw : fwChannel (e0.1 / 32) (e0.1 % 32) = true
  · simp only [hfw, Bool.or_true]
  · simp only [hfw, Bool.or_false] at this ⊢
    simpa using this

/-- The last part of a STOP_JOB on a rank alone ends the command. -/
theorem run_partDone_stop {y : Cmd} (hrole : b.ctl.pair.role = .unbound) (hrank2 : b.ctl.pair.rank2 = none) (hrank : b.ctl.rank = 0)
    (hcmds : b.ctl.hif.cmds = [y]) (hkey : y.key < noKey) (hphase : y.phase = .running) (hranks : y.ranks = [0]) (hstatus : y.status = 0)
    (hop : cOp y.bytes = 0x05) : (partDone y.key 0).run b = (finish y.id .ok []).run ((b.journaled y.key 0).withCmds [y.heard 0 0]) := by
  have hlead : b.ctl.leader = true := by simp only [Ctl.leader, hrank, beq_self_eq_true, Bool.true_or]
  have hpos : y.key ≠ 0 := by
    unfold Cmd.key
    omega
  have hlow : y.key < checkKey := hkey.trans (by decide)
  have hcheck : (cOp y.bytes == 0x16 && y.steps == checkStep) = false := by rw [hop]; rfl
  have hpart := run_rankPart (b := b.journaled y.key 0) (r := 0) (status := 0) hpos hlow hcmds rfl hphase (by simp [hranks]) hcheck
  have hleft : (y.ranks.filter fun k => k != 0).isEmpty = true := by simp [hranks]
  rw [run_partDone hrole hrank2, hlead, if_pos rfl, hrank, hpart, hleft, run_when_true]
  simp only [endParts, run_look, hop, hstatus]
  rfl

end Stop

/-- Settles O18. -/
theorem jobStartsAndStops : Obligations.JobStartsAndStops := by
  unfold Obligations.JobStartsAndStops
  refine ⟨?start, ?stop⟩
  case start =>
    intro s id digest x hx hstate hlevel hranks hbound hshort hready hmaps
    have hrun := hx.run_startJobAct (digest := digest) hstate hlevel hranks hbound hshort hready
    have hrole : s.block.ctl.pair.role = .unbound := by
      have h0 : (s.block.ctl.pair.role != .unbound) = false := hbound
      simpa using h0
    obtain ⟨c, hc, hjob, hif, hglb, hplan, hlinks, hcrole, hrank2, hsem, hhost, hflash, hfuses⟩ := startJob_ready s.block id x
    have hst : c.ctl.job.starting = some { cmd := id, passDone := false } := by rw [hjob]; rfl
    have hmapsIn : c.ctl.mapsIn = true := mapsIn_of_eq hlinks (by rw [hjob]; rfl) hmaps
    rw [hc, run_startCheck hst hmapsIn] at hrun
    have hcmd := (cmd_of_hif hif id).trans (cmd_started hx.cmd_eq)
    have hregions : (s.block.started id).regionTable x.bytes = s.block.regionTable x.bytes := rfl
    rw [show c.ctl.plan.passEntry 0 = s.block.ctl.plan.passEntry 0 by rw [hplan]] at hrun
    cases hnone : (s.block.ctl.plan.passEntry 0).isNone with
    | true =>
      obtain ⟨started, out, hdone⟩ := run_startDone_unbound (b := c.mapped id) (hcrole.trans hrole) rfl
      rw [hnone, if_pos rfl, hdone] at hrun
      have hend := ended_finish (b := (c.mapped id).jobOn) hcmd .ok []
      refine ⟨_, runs_of_perform rfl hrun, congrArg Job.swapAddr hjob, congrArg Job.swapBytes hjob, congrArg Job.regions hjob, fun _ => ⟨hend, rfl, rfl⟩,
        fun h => ?_, hsem, hhost, hflash, hfuses⟩
      exact absurd (hnone.symm.trans (Option.isNone_eq_false_iff.2 h)) (by decide)
    | false =>
      rw [hnone, if_neg (by decide)] at hrun
      have hgo : (c.mapped id).Goes id := ⟨_, hcmd, rfl⟩
      have hopens := keeps_openPass (b := c.mapped id) none startNotice
      cases hl : (c.mapped id).ctl.leader with
      | true =>
        have hl' : c.ctl.leader = true := hl
        rw [hl', run_when_true] at hrun
        refine ⟨_, runs_of_perform rfl hrun, (congrArg Job.swapAddr (hopens.ctl.job rfl)).trans (congrArg Job.swapAddr hjob),
          (congrArg Job.swapBytes (hopens.ctl.job rfl)).trans (congrArg Job.swapBytes hjob),
          (congrArg Job.regions (hopens.ctl.job rfl)).trans (congrArg Job.regions hjob), fun h => absurd h (by decide), fun _ => ⟨goes_of_hif hgo (hopens.ctl.hif rfl),
          (congrArg Glb.state (hopens.ctl.glb rfl)).trans ((congrArg Glb.state hglb).trans hstate), fun _ => ⟨_, congrArg Job.pass (hopens.ctl.job rfl), ?_⟩⟩,
          fun k hlo hhi => (congrArg (fun t => Tab.get 0 t k) (hopens.sems rfl)).trans (hsem k hlo hhi), (hopens.host rfl).trans hhost,
          (hopens.flash rfl).trans hflash, (hopens.fuses rfl).trans hfuses⟩
        refine congrArg startNotice ?_
        have hmapped : (c.mapped id).ctl.rank = c.ctl.rank := rfl
        rw [hmapped, Ctl.rank, hlinks]
        rfl
      | false =>
        have hl' : c.ctl.leader = false := hl
        rw [hl', run_when_false] at hrun
        refine ⟨_, runs_of_perform rfl hrun, congrArg Job.swapAddr hjob, congrArg Job.swapBytes hjob, congrArg Job.regions hjob, fun h => absurd h (by decide),
          fun _ => ⟨hgo, (congrArg Glb.state hglb).trans hstate, fun h => ?_⟩, hsem, hhost, hflash, hfuses⟩
        have hsame : c.ctl.leader = s.block.ctl.leader := by simp only [Ctl.leader, Ctl.rank, hlinks, hrank2]
        rw [← hsame, hl'] at h
        exact absurd h (by decide)
  case stop =>
    intro s id x hx hlead hjob hstate hP hrank hbound hrank2 hloaded hpass hopen hopenings hquiet hremoval hcmds hkey hsteps hmode
    have hrole : s.block.ctl.pair.role = .unbound := by
      have h0 : (s.block.ctl.pair.role != .unbound) = false := hbound
      simpa using h0
    have halone : s.block.ctl.Alone := ⟨hP, hrank, hrank2, hrole⟩
    have hop : cOp x.bytes = 0x05 := hx.2.1
    have hid : x.id = id := by simpa using List.find?_some hx.cmd_eq
    have hd := keeps_draining s.block id
    have hwait : (s.block.draining id).ctl.hif.cmds = [s.block.ctl.awaiting x] := cmds_awaited hx.cmd_eq hcmds
    have hrun := hx.run_stopJobAct hlead hjob hstate hcmds hmode hopen
    have he : (s.block.draining id).ctl.Alone := hd.alone halone rfl rfl
    have hp : (s.block.draining id).ctl.job.pass = none := (congrArg Job.pass (hd.ctl.job rfl)).trans hpass
    rw [run_stopsGo_only hwait hop rfl, he.run_stopGo hwait hp hsteps] at hrun
    have hk : s.block.Keeps { hif := true, glb := true } ((s.block.draining id).withCmds [{ s.block.ctl.awaiting x with steps := 1 }]) :=
      hd.trans ((only_hif (S := { hif := true, glb := true }) rfl fun c => { c.hif with cmds := [{ s.block.ctl.awaiting x with steps := 1 }] }).keepsScope _)
    have hslot : ((s.block.draining id).withCmds [{ s.block.ctl.awaiting x with steps := 1 }]).ctl.glb.slot = s.block.ctl.glb.slot := rfl
    have hcs : ((s.block.draining id).withCmds [{ s.block.ctl.awaiting x with steps := 1 }]).ctl.hif.cmds = [{ s.block.ctl.awaiting x with steps := 1 }] := rfl
    have hy : ∀ y : Cmd, y = { s.block.ctl.awaiting x with steps := 1 } → y.key = x.key ∧ y.id = x.id ∧ y.phase = .running ∧ y.ranks = [0] ∧ y.status = 0 ∧
        cOp y.bytes = 0x05 := by
      rintro y rfl
      exact ⟨rfl, rfl, rfl, (congrArg List.range hP).trans rfl, rfl, hop⟩
    obtain ⟨ykey, yid, yphase, yranks, ystatus, yop⟩ := hy _ rfl
    have hkeyof : (s.block.ctl.awaiting x).key = x.key := rfl
    rw [hkeyof, ← ykey] at hrun
    generalize ({ s.block.ctl.awaiting x with steps := 1 } : Cmd) = y at *
    generalize (s.block.draining id).withCmds [y] = e at *
    have hopen0 : e.openSeqs = [] :=
      ((⟨hk.mem rfl, hk.sems rfl, hk.fuses rfl, hk.fresh rfl, hslot, hk.ctl.plan rfl⟩ : s.block.SameView e).openSeqs (congrArg PageFw.seqs (hk.ctl.fw rfl))).trans hopen
    have hopenings0 : e.ctl.openings = [] := by
      rw [← hopenings, Ctl.openings, Ctl.openings, hk.ctl.fw rfl]
    have hquiet0 : e.ctl.chansQuiet = true := by
      rw [← hquiet, Ctl.chansQuiet, Ctl.chansQuiet, hk.ctl.engine rfl]
    rw [run_stopPart_idle hopen0 hopenings0] at hrun
    have hview : e.SameView (e.stopping y.key (u8 (s.block.ctl.awaiting x).bytes 32)) := ⟨rfl, rfl, rfl, rfl, rfl, rfl⟩
    have hstopped : e.Keeps { job := true, glb := true } (e.stopping y.key (u8 (s.block.ctl.awaiting x).bytes 32)) :=
      (only_upd _ _).2 (fun c => ({ job := fun hs => (nomatch hs), glb := fun hs => (nomatch hs) } : c.Keeps { job := true, glb := true }
        { c with job := { c.job with stopping := some (y.key, u8 (s.block.ctl.awaiting x).bytes 32), pass := none }, glb := { c.glb with state := .draining } }))
        |> fun h => Act.Only.keepsScope h e
    have hstop : (e.stopping y.key (u8 (s.block.ctl.awaiting x).bytes 32)).ctl.job.stopping = some (y.key, u8 (s.block.ctl.awaiting x).bytes 32) := rfl
    have hopen1 := (hview.openSeqs rfl).trans hopen0
    have hquiet1 : (e.stopping y.key (u8 (s.block.ctl.awaiting x).bytes 32)).ctl.chansQuiet = true := hquiet0
    generalize e.stopping y.key (u8 (s.block.ctl.awaiting x).bytes 32) = f at *
    have hdis := (only_discardPass (S := { engine := true, fw := true }) rfl rfl).keepsScope f
    have hopen2 : (discardPass.run f).openSeqs = [] := ((hdis.sameView rfl).openSeqs rfl).trans hopen1
    have hquiet2 := chansQuiet_discardPass hquiet1
    rw [run_stopCheck ((congrArg Job.stopping (hdis.ctl.job rfl)).trans hstop) hopen2 hquiet2] at hrun
    generalize discardPass.run f = g at *
    have hkg : s.block.Keeps { hif := true, glb := true, job := true, engine := true, fw := true } g :=
      (hk.widen {}).trans ((hstopped.widen {}).trans (hdis.widen {}))
    have hg_cmds : g.ctl.hif.cmds = [y] := (congrArg HostIf.cmds ((hdis.ctl.hif rfl).trans (hstopped.ctl.hif rfl))).trans hcs
    have hpair : g.ctl.pair = s.block.ctl.pair := hkg.ctl.pair rfl
    obtain ⟨lout, lhif, llinks, lplan, lpower, lrole, lrank2, ljob, lstate, lseqs⟩ := left_facts g ((congrArg Plan.loaded (hkg.ctl.plan rfl)).trans hloaded)
    have lrank : g.left.ctl.rank = 0 := by
      rw [← hrank, Ctl.rank, Ctl.rank, llinks, hkg.ctl.links rfl]
    generalize g.left = l at *
    rw [run_partDone_stop (lrole.trans ((congrArg Pair.role hpair).trans hrole)) (lrank2.trans ((congrArg Pair.rank2 hpair).trans hrank2)) lrank
      ((congrArg HostIf.cmds lhif).trans hg_cmds) (ykey ▸ hkey) yphase yranks ystatus yop] at hrun
    have hheard : ((l.journaled y.key 0).withCmds [y.heard 0 0]).ctl.cmd y.id = some (y.heard 0 0) := List.find?_cons_of_pos (beq_self_eq_true _)
    have hj : l.Keeps { fw := true, hif := true } ((l.journaled y.key 0).withCmds [y.heard 0 0]) :=
      Block.Keeps.trans (c := l.journaled y.key 0) { ctl := { fw := fun hs => (nomatch hs) } } { ctl := { hif := fun hs => (nomatch hs) } }
    have hjseqs : ((l.journaled y.key 0).withCmds [y.heard 0 0]).ctl.fw.seqs = [] := lseqs
    generalize (l.journaled y.key 0).withCmds [y.heard 0 0] = m at *
    have hend := ended_finish hheard .ok []
    have hfin := (only_finish (S := { hif := true }) rfl y.id .ok []).keepsScope m
    have hnoseq : ((finish y.id .ok []).run m).openSeqs = [] := by
      simp only [Block.openSeqs, (hfin.ctl.fw rfl).trans rfl, hjseqs, List.map_nil, List.filter_nil]
    generalize (finish y.id .ok []).run m = n at *
    have hclose := keeps_closeSecond hnoseq
    have hlk : l.Keeps { fw := true, hif := true, pair := true, engine := true } (closeSecond.run n) :=
      (hj.widen {}).trans ((hfin.widen {}).trans (hclose.widen {}))
    have hend' : (closeSecond.run n).Ended y.id .ok [] := by
      obtain ⟨z, hz, hphase, hst, hres⟩ := hend
      exact ⟨z, (cmd_of_hif (hclose.ctl.hif rfl) y.id).trans hz, hphase, hst, hres⟩
    generalize closeSecond.run n = t at *
    have hnoremoval : t.ctl.power.removal = none :=
      (congrArg Power.removal ((hlk.ctl.power rfl).trans (lpower.trans (hkg.ctl.power rfl)))).trans hremoval
    rw [run_serveRemoval_none hnoremoval] at hrun
    obtain ⟨lmem, lhost, -, -, -, lsems, -, -, lfuses, -, -, -⟩ := lout
    refine ⟨t, runs_of_perform rfl hrun, (yid.trans hid) ▸ hend', (congrArg Glb.state (hlk.ctl.glb rfl)).trans lstate,
      (congrArg Job.inJob ((hlk.ctl.job rfl).trans ljob)).trans rfl, (congrArg Job.pass ((hlk.ctl.job rfl).trans ljob)).trans rfl,
      (hlk.ctl.plan rfl).trans (lplan.trans (hkg.ctl.plan rfl)), (hlk.mem rfl).trans (lmem.trans (hkg.mem rfl)),
      (hlk.host rfl).trans (lhost.trans (hkg.host rfl)), (hlk.sems rfl).trans (lsems.trans (hkg.sems rfl)),
      (hlk.fuses rfl).trans (lfuses.trans (hkg.fuses rfl))⟩

end Sys2Proof.Machine


namespace Sys2Proof.Machine

/-! # Translation faults (R163, R173, R234, R269, R405) -/

section Pages
variable {S : Scope} {b : Block}

/-- Firmware's page work without what a table of a sequence takes from the pools. -/
def PageFw.core (f : PageFw) : PageFw := { f with seqs := [], alloc := { f.alloc with tables := [], reserved := 0 } }

/-- Firmware's record of a sequence without its tables. -/
def SeqFw.core (s : SeqFw) : SeqFw := { s with tables := [], tables2 := [], reserve := 0 }

/-- Page work differs in tables alone. -/
structure Ctl.SamePages (c d : Ctl) : Prop where
  core  : d.fw.core = c.fw.core
  seqs  : ∀ q, (d.seqFw q).core = (c.seqFw q).core
  role  : d.pair.role = c.pair.role
  rank2 : d.pair.rank2 = c.pair.rank2
  frames : d.pair.frames = c.pair.frames

theorem Ctl.SamePages.refl (c : Ctl) : c.SamePages c := ⟨rfl, fun _ => rfl, rfl, rfl, rfl⟩

theorem Ctl.SamePages.trans {c d e : Ctl} (h : c.SamePages d) (h' : d.SamePages e) : c.SamePages e :=
  ⟨h'.core.trans h.core, fun q => (h'.seqs q).trans (h.seqs q), h'.role.trans h.role, h'.rank2.trans h.rank2, h'.frames.trans h.frames⟩

/-- The effect leaves page work but for tables. -/
def Eff.KeepsPages : Eff → Prop
  | .upd f => ∀ c, Ctl.SamePages c (f c)
  | _ => True

theorem Act.Only.keepsPages {a : Act} (ha : a.Only Eff.KeepsPages) (b : Block) : b.ctl.SamePages (a.run b).ctl := by
  refine Act.Only.keeps b Eff.KeepsPages (fun t => b.ctl.SamePages t.ctl) (fun c e he hc => ?_) a ha (.refl b.ctl)
  have hroused : ∀ c : Ctl, c.SamePages c.roused := fun c => ⟨rfl, fun _ => rfl, rfl, rfl, rfl⟩
  cases e with
  | upd f => exact hc.trans (he c.ctl)
  | raise code source detail => exact hc.trans (hroused c.ctl)
  | signal s n =>
    simp only [Eff.apply]
    split
    · exact hc.trans (hroused c.ctl)
    · exact hc
  | nor dev a bs => cases dev <;> exact hc
  | norErase dev => cases dev <;> exact hc
  | _ => exact hc

theorem keepsPages_useTable (second : Bool) (f : Nat) : (useTable second f).Only Eff.KeepsPages :=
  (only_upd _ _).2 fun c => by cases second <;> exact ⟨rfl, fun _ => rfl, rfl, rfl, rfl⟩

/-- A change of a sequence's record that only its tables see. -/
theorem samePages_setSeqFw (c : Ctl) (q : Nat) {f : SeqFw → SeqFw} (hf : ∀ s, (f s).core = s.core) : c.SamePages (c.setSeqFw q f) := by
  refine ⟨rfl, fun p => ?_, rfl, rfl, rfl⟩
  by_cases hp : p = q
  · subst hp
    have hget : (c.setSeqFw p f).seqFw p = f (c.seqFw p) := Tab.get_set_self _ _ _ _
    rw [hget, hf]
  · exact congrArg SeqFw.core (Tab.get_set_other _ _ _ _ _ hp)

theorem only_dropTlb (h : S.engine = true) (lo hi : Nat) : (dropTlb lo hi).Only (Eff.In S) := only_engine h _

/-- What the acts of a page's entry have in common: memory, tables and translations. -/
structure PageActs (P : Eff → Prop) : Prop where
  mem   : ∀ a bs, P (.mem a bs)
  table : ∀ second f, (useTable second f).Only P
  drop  : ∀ lo hi, (dropTlb lo hi).Only P
  taken : ∀ q f, P (.upd fun c => c.setSeqFw q fun s => { s with tables2 := f :: s.tables2 })
  reserved : ∀ q f, P (.upd fun c =>
    let d := c.setSeqFw q fun s => { s with tables := f :: s.tables, reserve := s.reserve - 1 }
    { d with fw := { d.fw with alloc := { d.fw.alloc with reserved := d.fw.alloc.reserved - 1 } } })

theorem pageActs_keepsPages : PageActs Eff.KeepsPages where
  mem _ _ := trivial
  table := keepsPages_useTable
  drop _ _ := (only_upd _ _).2 fun _ => ⟨rfl, fun _ => rfl, rfl, rfl, rfl⟩
  taken q _ := fun c => samePages_setSeqFw c q fun _ => rfl
  reserved q f := fun c => (samePages_setSeqFw c q (f := fun s => { s with tables := f :: s.tables, reserve := s.reserve - 1 }) fun _ => rfl).trans
    ⟨rfl, fun _ => rfl, rfl, rfl, rfl⟩

theorem pageActs_scope (hmem : S.mem = true) (hlrs : S.lrs = true) (hfw : S.fw = true) (hpair : S.pair = true) (hengine : S.engine = true) :
    PageActs (Eff.In S) where
  mem _ _ := ⟨hmem, hlrs⟩
  table := only_useTable hfw hpair
  drop := only_dropTlb hengine
  taken _ _ := fun _ => { fw := fun hs => absurd (hfw.symm.trans hs) (by decide) }
  reserved _ _ := fun _ => { fw := fun hs => absurd (hfw.symm.trans hs) (by decide) }

theorem PageActs.only_setPage {P : Eff → Prop} (h : PageActs P) (second : Bool) (q va e : Nat) : (setPage second q va e).Only P := by
  have htaken : ∀ f, (Act.upd fun c => if second then c.setSeqFw q fun s => { s with tables2 := f :: s.tables2 }
      else
        let d := c.setSeqFw q fun s => { s with tables := f :: s.tables, reserve := s.reserve - 1 }
        { d with fw := { d.fw with alloc := { d.fw.alloc with reserved := d.fw.alloc.reserved - 1 } } }).Only P := fun f => by
    cases second
    · exact (only_upd _ _).2 (h.reserved q f)
    · exact (only_upd _ _).2 (h.taken q f)
  simp only [setPage, only_look]
  intro b
  split
  · simp only [only_ite_iff, only_done, only_opt_iff, only_all_cons, only_all_nil, h.table, htaken, only_fillTable h.mem, only_writeEntry h.mem, h.drop,
      implies_true, and_self]
  · trivial

theorem PageActs.only_putEntry {P : Eff → Prop} (h : PageActs P) (hsend : ∀ d m, P (.send d m)) (q layer page e : Nat) : (putEntry q layer page e).Only P := by
  simp only [putEntry, only_look, only_all_cons, only_all_nil, only_each_iff, h.only_setPage, implies_true, true_and, and_true]
  exact fun _ _ _ => (only_one _ _).2 (hsend _ _)

/-- The entry of a page on a module alone in its job. -/
theorem Ctl.Alone.run_putEntry (h : b.ctl.Alone) (q layer page e : Nat) :
    (putEntry q layer page e).run b = (setPage false q ((b.seq q).pageAddr layer page) e).run b := by
  obtain ⟨hp, hrank, hrank2, -⟩ := h
  have hcontexts : b.ctl.contexts = [false] := by simp only [Ctl.contexts, hrank2, Option.isSome_none, Bool.false_eq_true, if_false]
  have hself : b.ctl.servesRank 0 = some false := by simp only [Ctl.servesRank, hrank, if_true]
  have hnone : ((List.range b.ctl.jobP).filter fun r => (b.ctl.servesRank r).isNone && b.ctl.onBoard r) = [] := by
    rw [hp]
    simp only [List.range_one, List.filter_cons, hself, Option.isNone_some, Bool.false_and, Bool.false_eq_true, if_false, List.filter_nil]
  simp only [putEntry, run_look, run_all_cons, run_all_nil, hcontexts, hnone, run_each_cons, run_each_nil]

/-- The block with the marks of the page pools, and the arbiter and power state that an event leaves. -/
def Block.poolMarked (b : Block) (arb : Arbiter) (power : Power) (hbm ddr : Bool) : Block :=
  { b with arb := arb, ctl := { b.ctl with power := power, fw := { b.ctl.fw with alloc := { b.ctl.fw.alloc with lowHbm := hbm, lowDdr := ddr } } } }

/-- One mark of the page pools is set or clear. -/
def markPool (tier : Nat) (v : Bool) : Act := .upd fun c => { c with fw := { c.fw with alloc :=
  if tier = 0 then { c.fw.alloc with lowHbm := v } else { c.fw.alloc with lowDdr := v } } }

theorem run_markPool (b : Block) (tier : Nat) (v : Bool) : ∃ hbm ddr, (markPool tier v).run b = b.poolMarked b.arb b.ctl.power hbm ddr := by
  rw [markPool, run_upd]
  by_cases ht : tier = 0
  · simp only [if_pos ht]
    exact ⟨v, b.ctl.fw.alloc.lowDdr, rfl⟩
  · simp only [if_neg ht]
    exact ⟨b.ctl.fw.alloc.lowHbm, v, rfl⟩

/-- PAGE_POOL_LOW changes no more than the marks, and raises no more than its event (R174). -/
theorem run_poolLow (b : Block) (tier : Nat) : ∃ arb power hbm ddr, (poolLow tier).run b = b.poolMarked arb power hbm ddr := by
  have hrun : (poolLow tier).run b = (if !(if tier = 0 then b.ctl.fw.alloc.lowHbm else b.ctl.fw.alloc.lowDdr) &&
        decide (b.ctl.freeFrames tier < b.ctl.lowMark tier) then
      (raise 0x0402 0 ((b.ctl.freeFrames tier) % 2 ^ 32 * 65536 + tier)).seq (markPool tier true)
    else Act.when ((if tier = 0 then b.ctl.fw.alloc.lowHbm else b.ctl.fw.alloc.lowDdr) && decide (2 * b.ctl.lowMark tier < b.ctl.freeFrames tier))
      (markPool tier false)).run b := rfl
  rw [hrun]
  generalize (!(if tier = 0 then b.ctl.fw.alloc.lowHbm else b.ctl.fw.alloc.lowDdr) && decide (b.ctl.freeFrames tier < b.ctl.lowMark tier)) = low
  generalize ((if tier = 0 then b.ctl.fw.alloc.lowHbm else b.ctl.fw.alloc.lowDdr) && decide (2 * b.ctl.lowMark tier < b.ctl.freeFrames tier)) = enough
  cases low with
  | true =>
    rw [if_pos rfl, run_seq]
    obtain ⟨hbm, ddr, hmark⟩ := run_markPool ((raise 0x0402 0 ((b.ctl.freeFrames tier) % 2 ^ 32 * 65536 + tier)).run b) tier true
    exact ⟨_, _, hbm, ddr, hmark⟩
  | false =>
    rw [if_neg (by decide)]
    cases enough with
    | false => exact ⟨b.arb, b.ctl.power, b.ctl.fw.alloc.lowHbm, b.ctl.fw.alloc.lowDdr, rfl⟩
    | true =>
      obtain ⟨hbm, ddr, hmark⟩ := run_markPool b tier false
      exact ⟨_, _, hbm, ddr, hmark⟩


/-- A frame is known by a number. -/
def nameFrame (f k : Nat) : Act :=
  .upd fun c => { c with fw := { c.fw with alloc := { c.fw.alloc with owner := Tab.set 0 c.fw.alloc.owner f k } } }

theorem ownFrame_eq (f q l n : Nat) : ownFrame f q l n = nameFrame f (pageKey q l n + 1) := rfl

theorem run_nameFrame (f k : Nat) : (nameFrame f k).run b =
    b.withFw { b.ctl.fw with alloc := { b.ctl.fw.alloc with owner := Tab.set 0 b.ctl.fw.alloc.owner f k } } := rfl

/-- A page's mirror frame is reserved under a number. -/
def reserveKey (q k : Nat) : Act :=
  .upd fun c => if c.mirrors && !(c.seqFw q).mirror.contains k then c.setSeqFw q fun s => { s with mirror := k :: s.mirror } else c

theorem reserveMirror_eq (q l n : Nat) : reserveMirror q l n = reserveKey q (l * 2 ^ 32 + n) := rfl

theorem run_reserveKey_unbound (h : b.ctl.pair.role = .unbound) (q k : Nat) : (reserveKey q k).run b = b := by
  have hnone : b.ctl.mirrors = false := by simp only [Ctl.mirrors, h]
  simp only [reserveKey, run_upd, hnone, Bool.false_and, Bool.false_eq_true, if_false]

theorem refs_addRef (f : Nat) (d : Int) :
    Tab.get 0 ((addRef f d).run b).ctl.fw.alloc.refs f = (((Tab.get 0 b.ctl.fw.alloc.refs f : Nat) : Int) + d).toNat := by
  simp only [addRef, run_upd, Tab.get_set_self]
theorem run_addRef (f : Nat) (d : Int) : (addRef f d).run b = b.withFw ((addRef f d).run b).ctl.fw := rfl
theorem faults_addRef (f : Nat) (d : Int) : ((addRef f d).run b).ctl.fw.faults = b.ctl.fw.faults := rfl

/-- What an allocation of a frame for a page leaves (R163, R173). -/
structure Block.Gives (b t : Block) (q layer page frame : Nat) : Prop where
  refs  : Tab.get 0 t.ctl.fw.alloc.refs frame = Tab.get 0 b.ctl.fw.alloc.refs frame + 1
  owner : Tab.get 0 t.ctl.fw.alloc.owner frame = pageKey q layer page + 1
  faults : t.ctl.fw.faults = b.ctl.fw.faults

theorem Ctl.SamePages.gives {t u : Block} {q layer page frame : Nat} (h : b.Gives t q layer page frame) (hsame : t.ctl.SamePages u.ctl) :
    b.Gives u q layer page frame :=
  ⟨(congrArg (fun f : PageFw => Tab.get 0 f.alloc.refs frame) hsame.core).trans h.refs,
    (congrArg (fun f : PageFw => Tab.get 0 f.alloc.owner frame) hsame.core).trans h.owner,
    (congrArg (fun f : PageFw => f.faults) hsame.core).trans h.faults⟩

/-- A module that mirrors nothing takes a frame under a number: a reference more, and the frame's name. -/
theorem run_reserve_name_addRef (hrole : b.ctl.pair.role = .unbound) (q frame k m : Nat) :
    ∃ f : PageFw, (reserveKey q m).run ((nameFrame frame k).run ((addRef frame 1).run b)) = b.withFw f ∧
      Tab.get 0 f.alloc.refs frame = Tab.get 0 b.ctl.fw.alloc.refs frame + 1 ∧ Tab.get 0 f.alloc.owner frame = k ∧ f.faults = b.ctl.fw.faults ∧
      f.invals = b.ctl.fw.invals ∧ f.seqs = b.ctl.fw.seqs ∧ f.nextId = b.ctl.fw.nextId := by
  have hadd : (((Tab.get 0 b.ctl.fw.alloc.refs frame : Nat) : Int) + 1).toNat = Tab.get 0 b.ctl.fw.alloc.refs frame + 1 := by omega
  exact ⟨_, run_reserveKey_unbound (b := (nameFrame frame k).run ((addRef frame 1).run b)) hrole q m, (Tab.get_set_self _ _ _ _).trans hadd,
    Tab.get_set_self _ _ _ _, rfl, rfl, rfl, rfl⟩


theorem takeFrame_eq (q layer page frame : Nat) : takeFrame false q layer page frame =
    Act.all [addRef frame 1, nameFrame frame (pageKey q layer page + 1), reserveKey q (layer * 2 ^ 32 + page)] := rfl

/-- A module that mirrors nothing takes a frame for a page. -/
theorem run_takeFrame (hrole : b.ctl.pair.role = .unbound) (q layer page frame : Nat) : ∃ f, (takeFrame false q layer page frame).run b = b.withFw f ∧
    b.Gives (b.withFw f) q layer page frame := by
  rw [takeFrame_eq]
  obtain ⟨f, hrun, hrefs, howner, hfaults, -⟩ := run_reserve_name_addRef hrole q frame (pageKey q layer page + 1) (layer * 2 ^ 32 + page)
  refine ⟨f, ?_, ⟨hrefs, howner, hfaults⟩⟩
  rw [run_all_cons, run_all_cons, run_all_cons, run_all_nil]
  exact hrun

/-- What an allocation of a page's frame touches (R163, R174). -/
def Scope.gives : Scope :=
  { mem := true, lrs := true, arb := true, power := true, fw := true, pair := true, engine := true }

theorem keeps_withFw (hfw : S.fw = true) (f : PageFw) : b.Keeps S (b.withFw f) :=
  (only_fw hfw fun _ => f).keepsScope b

theorem only_poolLow (harb : S.arb = true) (hpower : S.power = true) (hfw : S.fw = true) (tier : Nat) : (poolLow tier).Only (Eff.In S) := by
  simp only [poolLow, only_look, only_ite_iff, only_seq_iff, only_when_iff]
  exact fun _ => ⟨fun _ => ⟨only_raise harb hpower _ _ _, only_fw hfw _⟩, fun _ _ => only_fw hfw _⟩

/-- A page gets a frame on a module alone in its job (R163, R173). -/
theorem givePage_alone (h : b.ctl.Alone) (q layer page tier frame : Nat) :
    b.Gives ((givePage false q layer page tier frame).run b) q layer page frame ∧ b.Keeps .gives ((givePage false q layer page tier frame).run b) := by
  obtain ⟨f, hrun, htaken⟩ := run_takeFrame h.2.2.2 q layer page frame
  have hkept : b.Keeps .gives (b.withFw f) := keeps_withFw rfl f
  have halone : (b.withFw f).ctl.Alone := h
  simp only [givePage, run_look, run_all_cons, run_all_nil, hrun]
  generalize b.withFw f = c at htaken hkept halone ⊢
  generalize mkEntry (frame * 8192) b.slot tier false ((b.ctl.seqFw q).pinOf layer page) = e
  have hput := halone.run_putEntry q layer page e
  rw [hput]
  have hsame := (pageActs_keepsPages.only_setPage false q ((c.seq q).pageAddr layer page) e).keepsPages c
  have hset : c.Keeps .gives _ := ((pageActs_scope rfl rfl rfl rfl rfl).only_setPage false q ((c.seq q).pageAddr layer page) e).keepsScope c
  generalize (setPage false q ((c.seq q).pageAddr layer page) e).run c = d at hsame hset ⊢
  have hlow : d.Keeps .gives _ := (only_poolLow rfl rfl rfl tier).keepsScope d
  obtain ⟨arb, power, hbm, ddr, hrun⟩ := run_poolLow d tier
  refine ⟨?_, (hkept.trans hset).trans hlow⟩
  rw [hrun]
  obtain ⟨hr, ho, hf⟩ := hsame.gives htaken
  exact ⟨hr, ho, hf⟩

end Pages

section Faults
variable {b : Block} {f : XFault}

theorem run_faultResolveAct (hawake : b.ctl.awake = true) (hfind : b.ctl.fw.faults.find? (fun g => g.id == f.id) = some f) (hline : f.line = none) :
    (faultResolveAct f.id).run b = (resolveFault f false).run b := by
  simp only [faultResolveAct, run_look, hawake, run_when_true, hfind, run_opt_some, hline]

theorem run_resolveFault_ok (hhalted : b.ctl.halted f = true) {k a : Nat} (hx : b.xlate (b.ctl.faultSpace f) f.vaddr f.write = .ok k a)
    (hbusy : b.pageBusy f.vaddr f.write = false) : (resolveFault f false).run b = (resumeAgent f).run b := by
  simp only [resolveFault, run_look, hhalted, hx, hbusy, Bool.not_true, Bool.not_false, Bool.false_eq_true, if_false, run_when_true]

theorem run_resolveFault_broken (hhalted : b.ctl.halted f = true) (hx : b.xlate (b.ctl.faultSpace f) f.vaddr f.write = .deviceFault) :
    (resolveFault f false).run b = (moduleFault f.vaddr).run b := by
  simp only [resolveFault, run_look, hhalted, hx, Bool.not_true, Bool.false_eq_true, if_false]

theorem run_resolveFault_absent (hhalted : b.ctl.halted f = true) (hx : b.xlate (b.ctl.faultSpace f) f.vaddr f.write = .absent) {q l n : Nat}
    (hpage : b.pageOf f.vaddr = some (q, l, n)) : (resolveFault f false).run b = (pageFault f false q l n).run b := by
  simp only [resolveFault, run_look, hhalted, hx, hpage, Bool.not_true, Bool.false_eq_true, if_false]

/-- An agent of this module that goes on: its fault is gone and nothing but its engine changes. -/
theorem resumed (hlocal : ∀ id, f.who ≠ .remote id) : ((resumeAgent f).run b).ctl.fw.faults = b.ctl.fw.faults.filter (fun g => g.id != f.id) ∧
    b.Keeps { fw := true, engine := true } ((resumeAgent f).run b) := by
  obtain ⟨a, ha, hrun⟩ := run_resumeAgent hlocal
  have hkeep : ((dropFault f.id).run b).Keeps { engine := true } (a.run ((dropFault f.id).run b)) := ha.keepsScope _
  have hdrop : b.Keeps { fw := true, engine := true } ((dropFault f.id).run b) := (only_fw rfl _).keepsScope b
  rw [hrun b]
  exact ⟨congrArg PageFw.faults (hkeep.ctl.fw rfl), hdrop.trans (hkeep.widen {})⟩

theorem resumed_context {v n : Nat} (hwho : f.who = .context v n) {c : Ctx} (hc : (b.ctl.cove v).ctx n = some c) :
    (((resumeAgent f).run b).ctl.cove v).ctx n = some { c with fault := none } := by
  simp only [resumeAgent, hwho, run_seq]
  rw [cove_updCtx]
  exact congrArg (Option.map fun x : Ctx => { x with fault := none }) hc

theorem resumed_thread {v n : Nat} (hwho : f.who = .thread v n) : ((((resumeAgent f).run b).ctl.cove v).thread n).state = .running := by
  simp only [resumeAgent, hwho, run_seq]
  rw [cove_updThread]

theorem resumed_channel {e c : Nat} (hwho : f.who = .channel e c) :
    (((resumeAgent f).run b).ctl.chan e c).state = .run ∧ (((resumeAgent f).run b).ctl.chan e c).fault = none := by
  simp only [resumeAgent, hwho, run_seq]
  rw [chan_updChan]
  exact ⟨rfl, rfl⟩

/-- Firmware's record without a fault and without the request that waited for it. -/
def PageFw.answered (w : PageFw) (fault id : Nat) : PageFw :=
  { w with faults := w.faults.filter fun g => g.id != fault, remote := w.remote.filter fun r => r.1 != id }

/-- Another rank's load that waited here is answered with the bytes (R269). -/
theorem run_resumeAgent_load {id toRank source va len : Nat} {second : Bool} (hwho : f.who = .remote id)
    (hfind : b.ctl.fw.remote.find? (fun r => r.1 == id) = some (id, .rankLoad toRank source va len)) (hserves : b.ctl.servesRank toRank = some second)
    (hbad : b.firstBad { second := second, cove := none, tlb := [] } [{ va := va, len := len, write := false }] = none) :
    (resumeAgent f).run b = (b.withFw (b.ctl.fw.answered f.id id)).sending (.rank source)
      (.response (b.readVa { second := second, cove := none, tlb := [] } va len)) := by
  simp only [resumeAgent, hwho, run_seq, takeRemote, run_look]
  have hdropped : (dropFault f.id).run b = b.withFw { b.ctl.fw with faults := b.ctl.fw.faults.filter (fun g => g.id != f.id) } := rfl
  rw [hdropped]
  have hfind' : (b.withFw { b.ctl.fw with faults := b.ctl.fw.faults.filter (fun g => g.id != f.id) }).ctl.fw.remote.find? (fun r => r.1 == id) =
      some (id, .rankLoad toRank source va len) := hfind
  rw [hfind', run_opt_some, run_seq, run_upd]
  generalize ht : (b.withFw (b.ctl.fw.answered f.id id)) = t
  have hview : b.SameView t := by
    rw [← ht]
    exact ⟨rfl, rfl, rfl, rfl, rfl, rfl⟩
  have hserves' : t.ctl.servesRank toRank = some second := by
    rw [← ht]
    exact hserves
  have hgo : (rankAccess (.rankLoad toRank source va len)).run t = t.sending (.rank source)
      (.response (b.readVa { second := second, cove := none, tlb := [] } va len)) := by
    have hbad' : t.firstBad { second := second, cove := none, tlb := [] } [{ va := va, len := len, write := false }] = none := by
      rw [← hbad]
      simp only [Block.firstBad, hview.xlate]
    simp only [rankAccess, run_look, hserves', run_opt_some, hbad', hview.readVa]
    exact run_send _ _ _
  rw [← hgo, ← ht]
  rfl

/-- A page that is absent at its holder, alone in its job, gets a frame, and the agent goes on (R163). -/
theorem run_pageFault_absent (halone : b.ctl.Alone) (hsecond : f.second = false) {q l n tier g : Nat} (hholder : b.ctl.holder l n = 0)
    (habsent : b.pageEntry false ((b.seq q).pageAddr l n) = absentEntry) (hpick : b.ctl.pickFrame ((b.ctl.seqFw q).tierOf l n) = some (tier, g)) :
    (pageFault f false q l n).run b = (resumeAgent f).run ((givePage false q l n tier g).run b) := by
  have hserves : b.ctl.servesRank 0 = some false := by simp only [Ctl.servesRank, halone.2.1, if_true]
  have hframe : b.frameOf absentEntry = none := rfl
  have hswapped : isSwapped absentEntry = false := by decide
  have hmirrors : b.ctl.mirrors = false := by simp only [Ctl.mirrors, halone.2.2.2]
  have hroom : b.ctl.mirrorRoom q l n = true := by simp only [Ctl.mirrorRoom, hmirrors, Bool.not_false, Bool.true_or]
  have hpick' : b.pickIn false ((b.ctl.seqFw q).tierOf l n) = some (tier, g) := hpick
  simp only [pageFault, run_look, hholder, hserves, makePage, habsent, hframe, hswapped, hroom, hpick', hsecond, Bool.not_true, Bool.and_false,
    Bool.false_eq_true, if_false, run_seq]
  rfl

end Faults

/-- Settles O30, branch by branch of FAULT_RESOLVE: an agent's own part of going on, the bytes a waiting load is sent, the frame an allocation
gives, and the reset of a module fault. -/
theorem faultsResolve : Obligations.FaultsResolve := by
  unfold Obligations.FaultsResolve
  intro s f hawake hfind hhalted hline
  have hact := run_faultResolveAct hawake hfind hline
  refine ⟨?_, ?_, ?_, fun hx => ?_⟩
  · rintro ⟨k, a, hx⟩ hbusy hlocal
    have hrun := hact.trans (run_resolveFault_ok hhalted hx hbusy)
    obtain ⟨hfaults, hkeep⟩ := resumed (b := s.block) hlocal
    exact ⟨_, runs_of_perform rfl hrun, hfaults, hkeep.sameOutside rfl, fun v n hwho c hc _ => resumed_context hwho hc,
      fun v n hwho _ => resumed_thread hwho, fun e c hwho => resumed_channel hwho⟩
  · rintro id toRank source va len second ⟨k, a, hx⟩ hbusy hwho hremote hserves sp hbad
    exact runs_of_perform rfl (hact.trans ((run_resolveFault_ok hhalted hx hbusy).trans (run_resumeAgent_load hwho hremote hserves hbad)))
  · intro q l n tier g hx hlocal hpage halone hsecond hholder habsent hpick
    have hrun := hact.trans ((run_resolveFault_absent hhalted hx hpage).trans (run_pageFault_absent halone hsecond hholder habsent hpick))
    obtain ⟨hgives, hkeep⟩ := givePage_alone halone q l n tier g
    refine ⟨_, runs_of_perform rfl hrun, ?_⟩
    generalize (givePage false q l n tier g).run s.block = c at hgives hkeep
    obtain ⟨a, ha, hresume⟩ := run_resumeAgent (f := f) hlocal
    have hgo : ((dropFault f.id).run c).Keeps { engine := true } (a.run ((dropFault f.id).run c)) := ha.keepsScope _
    rw [hresume c]
    have hfw : (a.run ((dropFault f.id).run c)).ctl.fw = { c.ctl.fw with faults := c.ctl.fw.faults.filter fun g => g.id != f.id } := hgo.ctl.fw rfl
    obtain ⟨hrefs, howner, hfaults⟩ := hgives
    rw [hfw]
    exact ⟨hrefs, howner, congrArg (List.filter fun g => g.id != f.id) hfaults, (hgo.host rfl).trans (hkeep.host rfl),
      (hgo.sems rfl).trans (hkeep.sems rfl), (hgo.flash rfl).trans (hkeep.flash rfl), (hgo.fuses rfl).trans (hkeep.fuses rfl),
      (hgo.out rfl).trans (hkeep.out rfl)⟩
  · have hrun := hact.trans (run_resolveFault_broken hhalted hx)
    obtain ⟨h, out, hfault⟩ := run_moduleFault s.block f.vaddr
    rw [hfault, run_warmReset] at hrun
    exact ⟨_, runs_of_perform rfl hrun, rfl, rfl, rfl, rfl, rfl, rfl⟩


end Sys2Proof.Machine


namespace Sys2Proof.Machine

/-! # Pre-emption by another rank, Ebb, Flood, page moves and invalidates (R166 to R183, R238) -/

section Pages
variable {S : Scope} {b c : Block} {q a : Nat}

theorem contexts_alone (h : b.ctl.pair.rank2 = none) : b.ctl.contexts = [false] := by
  simp only [Ctl.contexts, h, Option.isSome_none, Bool.false_eq_true, if_false]

theorem mirrors_unbound (h : b.ctl.pair.role = .unbound) : b.ctl.mirrors = false := by simp only [Ctl.mirrors, h]

theorem countIf_all {α : Type} {p : α → Bool} : ∀ {l : List α}, (∀ x ∈ l, p x = true) → countIf p l = l.length := by
  intro l h
  rw [countIf, List.filter_eq_self.2 h]

/-- A module that runs one rank counts every page that Ebb is to copy as that rank's (R178). -/
theorem preemptDetail_one (h : b.ctl.pair.rank2 = none) (q cause : Nat) :
    b.preemptDetail q cause = (b.unpinned q).length % 2 ^ 32 * 65536 + cause % 16 * 4096 + q % 4096 := by
  have hfirst : ∀ x ∈ b.unpinned q, (x.second == false) = true := by
    intro x hx
    have hx' : x ∈ b.heldPages q false := by
      have hmem := List.mem_of_mem_filter (List.mem_of_mem_filter hx)
      rw [Block.allPages, contexts_alone h, List.flatMap_singleton] at hmem
      exact hmem
    simp only [Block.heldPages, List.mem_flatMap, List.mem_filterMap] at hx'
    obtain ⟨l, -, n, -, hx'⟩ := hx'
    split at hx'
    · rw [← Option.some.inj hx']
      rfl
    · exact absurd hx' (by simp)
  rw [Block.preemptDetail, countIf_all hfirst]

/-- A pre-emption that takes effect on a rank that another leads (R178, R179). -/
theorem run_preemptNow_follower {cause : Nat} (hleader : b.ctl.leader = false) (hrole : b.ctl.pair.role = .unbound) (hrank2 : b.ctl.pair.rank2 = none)
    (hentry : b.EntryAt q a) (hpass : b.ctl.passOn q = false) :
    ∃ cs, (preemptNow q cause).run b =
      (b.preempted q a ({ b.seq q with length := (b.seq q).committed, state := seqPreempted } : SeqEnt).bytes (b.preemptDetail q cause)).withCmds cs := by
  unfold Block.preempted
  have hdetail : b.preemptDetail q cause = (countIf (fun x : PageAt => x.second == false) (b.unpinned q)) % 2 ^ 32 * 65536 + cause % 16 * 4096 + q % 4096 := rfl
  simp only [preemptNow, run_look, hpass, run_when_false, run_all_cons, run_all_nil, hentry.run_setSeq, contexts_alone hrank2, run_each_cons, run_each_nil,
    run_raise, run_upd, hleader, ← hdetail]
  generalize hc : (b.wrote a ({ b.seq q with length := (b.seq q).committed, state := seqPreempted } : SeqEnt).bytes).accept 0x0400 (src 10 q)
    (b.preemptDetail q cause) = c
  have hc_role : c.ctl.pair.role = .unbound := hc ▸ hrole
  refine ⟨_, (run_sendState_idle (mirrors_unbound (b := (c.withSeqFw q fun s => { s with pre := .ebbing }).withCmds _) hc_role))⟩

theorem preempted_rest (b : Block) (q a : Nat) (bs : Bytes) (detail : Nat) :
    (b.preempted q a bs detail).ctl.leader = b.ctl.leader ∧ ((b.preempted q a bs detail).ctl.seqFw q).pre = .ebbing ∧
    (b.preempted q a bs detail).mem = b.mem.write a bs ∧ b.Raised (b.preempted q a bs detail) 0x0400 (src 10 q) detail ∧
    (b.preempted q a bs detail).host = b.host ∧ (b.preempted q a bs detail).sems = b.sems ∧ (b.preempted q a bs detail).fuses = b.fuses ∧
    (b.preempted q a bs detail).out = b.out := by
  obtain ⟨-, hpre, hmem, -, hhost, hsems, hfuses, -⟩ := preempted_facts b q a bs detail
  refine ⟨?_, hpre, hmem, ?_, hhost, hsems, hfuses, ?_⟩
  all_goals
    unfold Block.preempted
    rfl

theorem run_preemptEffectAct {cause : Nat} (hawake : b.ctl.awake = true) (hjob : b.ctl.job.inJob = true) (hleader : b.ctl.leader = false)
    (hpre : (b.ctl.seqFw q).pre = .none) (hopen : (b.seq q).state ≠ seqClosed) (hpass : b.ctl.passOn q = false) (hcheck : b.ctl.checking q = false) :
    (preemptEffectAct q cause).run b = choosePass.run ((preemptNow q cause).run b) := by
  have hne : (PreState.none == .flooded) = false := rfl
  have hopen' : ((b.seq q).state != seqClosed) = true := bne_iff_ne.2 hopen
  simp only [preemptEffectAct, run_look, hawake, hjob, hpre, hne, hleader, hpass, hcheck, Bool.and_self, run_when_true, Bool.not_false,
    Bool.true_or, hopen', Bool.false_eq_true, if_false, run_seq]

/-- What the entry of a page touches: tables, translations, and board peers. -/
def Scope.entry : Scope := { mem := true, lrs := true, fw := true, pair := true, engine := true, out := true }

theorem keeps_putEntry (b : Block) (q layer page e : Nat) : b.Keeps .entry ((putEntry q layer page e).run b) :=
  ((pageActs_scope rfl rfl rfl rfl rfl).only_putEntry (fun _ _ => (only_one _ _).1 (only_send (S := .entry) rfl _ _)) q layer page e).keepsScope b

theorem samePages_putEntry (b : Block) (q layer page e : Nat) : b.ctl.SamePages ((putEntry q layer page e).run b).ctl :=
  (pageActs_keepsPages.only_putEntry (fun _ _ => trivial) q layer page e).keepsPages b

theorem keeps_countFw (h : S.engine = true) (b : Block) (n : Nat) : b.Keeps S ((countFw n).run b) := (only_countFw h n).keepsScope b

/-- Ebb of one page (R181): its bytes are in the swap slot, the slot is taken, and no invalidate has begun. -/
theorem ebbPage_facts (b : Block) (q slot : Nat) (x : PageAt) (hfree : slot ∉ b.ctl.fw.alloc.swap) :
    ((ebbPage q x slot).run b).host = b.host.write (b.ctl.job.swapAddr + 8192 * slot) (b.read (entFrame x.entry) 8192) ∧
    ((ebbPage q x slot).run b).ctl.fw.alloc.swap = slot :: b.ctl.fw.alloc.swap ∧ ((ebbPage q x slot).run b).ctl.fw.invals = b.ctl.fw.invals ∧
    ((ebbPage q x slot).run b).ctl.fw.nextId = b.ctl.fw.nextId ∧ ((ebbPage q x slot).run b).sems = b.sems ∧
    ((ebbPage q x slot).run b).arb = b.arb ∧ ((ebbPage q x slot).run b).fuses = b.fuses := by
  have hfilter : b.ctl.fw.alloc.swap.filter (fun i => i != slot) = b.ctl.fw.alloc.swap := List.filter_eq_self.2 fun i hi => by
    rw [bne_iff_ne]
    exact fun h => hfree (h ▸ hi)
  have hcount := keeps_countFw (S := { engine := true }) rfl b 8192
  simp only [ebbPage, run_look, run_all_cons, run_all_nil]
  generalize b.read (entFrame x.entry) 8192 = bs
  generalize b.ctl.job.swapAddr + 8192 * slot = at'
  generalize (countFw 8192).run b = c at hcount ⊢
  have hfw : c.ctl.fw = b.ctl.fw := hcount.ctl.fw rfl
  generalize ht : (Act.upd fun c => { c with fw := { c.fw with alloc := { c.fw.alloc with swap := slot :: c.fw.alloc.swap.filter fun i => i != slot } } }).run
    ((Act.one (.host at' bs)).run c) = t
  have hhost : t.host = b.host.write at' bs := by
    rw [← hcount.host rfl, ← ht]
    rfl
  have hwork : t.ctl.fw = { b.ctl.fw with alloc := { b.ctl.fw.alloc with swap := slot :: b.ctl.fw.alloc.swap } } := by
    rw [← ht, ← hfilter, ← hfw]
    rfl
  have hsems : t.sems = b.sems := by
    rw [← hcount.sems rfl, ← ht]
    rfl
  have harb : t.arb = b.arb := by
    rw [← hcount.arb rfl, ← ht]
    rfl
  have hfuses : t.fuses = b.fuses := by
    rw [← hcount.fuses rfl, ← ht]
    rfl
  have hkeep := keeps_putEntry t q x.layer x.page (swappedEntry slot false)
  have hcore := (samePages_putEntry t q x.layer x.page (swappedEntry slot false)).core
  rw [hwork] at hcore
  exact ⟨(hkeep.host rfl).trans hhost, congrArg (fun f => f.alloc.swap) hcore, congrArg (fun f => f.invals) hcore, congrArg (fun f => f.nextId) hcore,
    (hkeep.sems rfl).trans hsems, (hkeep.arb rfl).trans harb, (hkeep.fuses rfl).trans hfuses⟩

/-- EBB of a sequence with one page to copy, and no invalidate in progress (R181). -/
theorem run_ebbAct {x : PageAt} {slot f : Nat} (hawake : b.ctl.awake = true) (hpre : (b.ctl.seqFw q).pre = .ebbing)
    (hback : (b.ctl.seqFw q).back = []) (hinvals : b.ctl.fw.invals = []) (hpages : b.unpinned q = [x]) (hslots : b.ctl.slotsFree 1 = [slot])
    (hframe : b.frameOf x.entry = some f) : (ebbAct q).run b = (invalidate (b.seqRange q).1 (b.seqRange q).2 (.ebb q [f])).run
      (((ebbPage q x slot).run b).withSeqFw q fun s => { s with back := [] }) := by
  have heq : (PreState.ebbing == .ebbing) = true := rfl
  have hslots' : b.ctl.slotsFree (b.unpinned q).length = [slot] := by
    rw [hpages]
    exact hslots
  have hpairs : pairSlots (b.ctl.seqFw q).back (b.unpinned q) (b.ctl.slotsFree (b.unpinned q).length) = [(x, slot)] := by
    rw [hslots', hpages, hback]
    rfl
  simp only [ebbAct, run_look, hawake, hpre, hinvals, heq, List.any_nil, Bool.not_false, Bool.and_self, run_when_true, hpairs, run_all_cons, run_all_nil,
    run_each_cons, run_each_nil, List.filterMap_cons, List.filterMap_nil, hframe]
  rfl

theorem slot_not_used {slot : Nat} (h : b.ctl.slotsFree 1 = [slot]) : slot ∉ b.ctl.fw.alloc.swap := by
  have hmem : slot ∈ b.ctl.slotsFree 1 := by
    rw [h]
    exact List.mem_singleton_self slot
  have hfree := (List.mem_filter.1 (List.mem_of_mem_take hmem)).2
  simpa using hfree

/-! ## Flood -/

/-- The page that Flood has brought back, with the slot it still holds. -/
def PageAt.inSlot (x : PageAt) : BackPage := { second := x.second, layer := x.layer, page := x.page, slot := entFrame x.entry / 8192 }

/-- The block with a page's bytes in a frame that is named and counted. -/
theorem filled_facts (b : Block) (frame at' k : Nat) (bs : Bytes) (t : Block)
    (ht : (nameFrame frame k).run ((addRef frame 1).run ((Act.one (.mem at' bs)).run b)) = t) :
    Tab.get 0 t.ctl.fw.alloc.refs frame = Tab.get 0 b.ctl.fw.alloc.refs frame + 1 ∧ t.ctl.fw.seqs = b.ctl.fw.seqs ∧ t.ctl.fw.invals = b.ctl.fw.invals ∧
    t.ctl.fw.nextId = b.ctl.fw.nextId ∧ t.host = b.host ∧ t.sems = b.sems ∧ t.fuses = b.fuses := by
  have hadd : (((Tab.get 0 b.ctl.fw.alloc.refs frame : Nat) : Int) + 1).toNat = Tab.get 0 b.ctl.fw.alloc.refs frame + 1 := by omega
  rw [← ht]
  exact ⟨(Tab.get_set_self _ _ _ _).trans hadd, rfl, rfl, rfl, rfl, rfl, rfl⟩

/-- One page comes back from its swap slot, under a number. -/
def backPage (q : Nat) (x : PageAt) (t f k : Nat) : Act :=
  .look fun b => Act.all [
    countFw 8192, .one (.mem (f * 8192) (b.host.read (b.ctl.job.swapAddr + entFrame x.entry) 8192)), addRef f 1, nameFrame f k,
    putEntry q x.layer x.page (mkEntry (f * 8192) b.slot t false ((b.ctl.seqFw q).pinOf x.layer x.page)), poolLow t,
    .upd fun c => c.setSeqFw q fun s => { s with back := s.back ++ [x.inSlot] }]

theorem floodPage_eq (q : Nat) (x : PageAt) (t f : Nat) : floodPage q x t f = backPage q x t f (pageKey q x.layer x.page + 1) := rfl

/-- Flood of one page (R182): a reference of its frame, and the swap slot it still holds. -/
theorem backPage_facts (b : Block) (q tier frame k : Nat) (x : PageAt) :
    Tab.get 0 ((backPage q x tier frame k).run b).ctl.fw.alloc.refs frame = Tab.get 0 b.ctl.fw.alloc.refs frame + 1 ∧
    (((backPage q x tier frame k).run b).ctl.seqFw q).back = (b.ctl.seqFw q).back ++ [x.inSlot] ∧
    ((backPage q x tier frame k).run b).ctl.fw.invals = b.ctl.fw.invals ∧ ((backPage q x tier frame k).run b).ctl.fw.nextId = b.ctl.fw.nextId ∧
    ((backPage q x tier frame k).run b).host = b.host ∧ ((backPage q x tier frame k).run b).sems = b.sems ∧
    ((backPage q x tier frame k).run b).fuses = b.fuses := by
  have hcount := keeps_countFw (S := { engine := true }) rfl b 8192
  simp only [backPage, run_look, run_all_cons, run_all_nil]
  generalize b.host.read (b.ctl.job.swapAddr + entFrame x.entry) 8192 = bs
  generalize mkEntry (frame * 8192) b.slot tier false ((b.ctl.seqFw q).pinOf x.layer x.page) = e
  generalize (countFw 8192).run b = c at hcount ⊢
  have hfw : c.ctl.fw = b.ctl.fw := hcount.ctl.fw rfl
  generalize ht : (nameFrame frame k).run ((addRef frame 1).run ((Act.one (.mem (frame * 8192) bs)).run c)) = t
  obtain ⟨hrefs, hseqs, hinvals, hnext, hhost, hsems, hfuses⟩ := filled_facts c frame (frame * 8192) k bs t ht
  have hkeep := keeps_putEntry t q x.layer x.page e
  have hsame := samePages_putEntry t q x.layer x.page e
  generalize (putEntry q x.layer x.page e).run t = u at hkeep hsame ⊢
  obtain ⟨arb, power, hbm, ddr, hlow⟩ := run_poolLow u tier
  rw [hlow]
  have hseq : t.ctl.seqFw q = b.ctl.seqFw q := by rw [Ctl.seqFw, Ctl.seqFw, hseqs, hfw]
  have hback : (u.ctl.seqFw q).back = (b.ctl.seqFw q).back := (congrArg SeqFw.back (hsame.seqs q)).trans (congrArg (fun s : SeqFw => s.core.back) hseq)
  rw [hfw] at hrefs hinvals hnext
  refine ⟨(congrArg (fun f : PageFw => Tab.get 0 f.alloc.refs frame) hsame.core).trans hrefs, ?_,
    (congrArg PageFw.invals hsame.core).trans hinvals, (congrArg PageFw.nextId hsame.core).trans hnext,
    (hkeep.host rfl).trans (hhost.trans (hcount.host rfl)), (hkeep.sems rfl).trans (hsems.trans (hcount.sems rfl)),
    (hkeep.fuses rfl).trans (hfuses.trans (hcount.fuses rfl))⟩
  rw [← hback]
  simp only [run_upd, Ctl.seqFw, Ctl.setSeqFw, Tab.get_set_self]
  rfl

theorem floodPage_facts (b : Block) (q tier frame : Nat) (x : PageAt) :
    Tab.get 0 ((floodPage q x tier frame).run b).ctl.fw.alloc.refs frame = Tab.get 0 b.ctl.fw.alloc.refs frame + 1 ∧
    (((floodPage q x tier frame).run b).ctl.seqFw q).back = (b.ctl.seqFw q).back ++ [x.inSlot] ∧
    ((floodPage q x tier frame).run b).ctl.fw.invals = b.ctl.fw.invals ∧ ((floodPage q x tier frame).run b).ctl.fw.nextId = b.ctl.fw.nextId ∧
    ((floodPage q x tier frame).run b).host = b.host ∧ ((floodPage q x tier frame).run b).sems = b.sems ∧
    ((floodPage q x tier frame).run b).fuses = b.fuses := by
  rw [floodPage_eq]
  exact backPage_facts b q tier frame _ x

/-- FLOOD of a sequence with one page in swap, where a frame is left (R182). -/
theorem run_floodAct_one {x : PageAt} {key tier frame : Nat} (hawake : b.ctl.awake = true) (hpre : (b.ctl.seqFw q).pre = .swapped)
    (hinvals : b.ctl.fw.invals = []) (hresume : (b.ctl.seqFw q).resume = some key) (hpages : b.swappedPages q = [x])
    (hpick : b.ctl.pickFrame ((b.ctl.seqFw q).tierOf x.layer x.page) = some (tier, frame)) : (floodAct q).run b =
      (invalidate (b.seqRange q).1 (b.seqRange q).2 (.flood q)).run ((floodPage q x tier frame).run b) := by
  have heq : (PreState.swapped == .swapped) = true := rfl
  have hframes : assignFrames q b.ctl [x] = some [(tier, frame)] := by
    rw [assignFrames, hpick]
    rfl
  simp only [floodAct, floodPart, run_look, hawake, hpre, hinvals, heq, List.any_nil, Bool.not_false, Bool.and_self, run_when_true, hresume, run_opt_some,
    hframes, hpages, run_seq, List.zip_cons_cons, List.zip_nil_right, run_each_cons, run_each_nil]

/-- FLOOD where no frame is left on a rank that another leads: the leader is asked once, and its answer that there is none ends the part
(R183; log 28). -/
theorem run_floodPart_full {key : Nat} {answered : Bool} (hleader : b.ctl.leader = false) (hpre : (b.ctl.seqFw q).pre = .swapped)
    (hinvals : b.ctl.fw.invals = []) (hresume : (b.ctl.seqFw q).resume = some key) (hframes : assignFrames q b.ctl (b.swappedPages q) = none)
    (hbusy : b.ctl.preempting = false) : (floodPart q answered).run b =
      if answered then (partDone key Status.eCapacity.code).run (b.withSeqFw q fun s => { s with resume := none })
      else b.sending (.rank 0) (.victim b.ctl.rank q .flood) := by
  have heq : (PreState.swapped == .swapped) = true := rfl
  simp only [floodPart, needFrames, run_look, hpre, hinvals, heq, List.any_nil, Bool.not_false, Bool.and_self, run_when_true, hresume, run_opt_some,
    hframes, hbusy, hleader, Bool.false_eq_true, if_false]
  cases answered <;> rfl

/-! ## Moves -/

theorem owner_addRef_pos {f g : Nat} {d : Int} (h : g = f → 0 < ((Tab.get 0 b.ctl.fw.alloc.refs f : Nat) : Int) + d) :
    Tab.get 0 ((addRef f d).run b).ctl.fw.alloc.owner g = Tab.get 0 b.ctl.fw.alloc.owner g := by
  have howner : ((addRef f d).run b).ctl.fw.alloc.owner =
      if (((Tab.get 0 b.ctl.fw.alloc.refs f : Nat) : Int) + d).toNat = 0 then Tab.set 0 b.ctl.fw.alloc.owner f 0 else b.ctl.fw.alloc.owner := rfl
  rw [howner]
  split
  · next hzero =>
    refine Tab.get_set_other _ _ _ _ _ fun hg => ?_
    have := h hg
    omega
  · rfl

theorem refs_addRef_other {f g : Nat} (d : Int) (h : g ≠ f) :
    Tab.get 0 ((addRef f d).run b).ctl.fw.alloc.refs g = Tab.get 0 b.ctl.fw.alloc.refs g := Tab.get_set_other _ _ _ _ _ h

/-- The references of a page that is shared `n` times go over to its new frame, known by a number (R169). -/
theorem moved_refs {old new k n : Nat} (hn : n ≠ 0) (hne : new ≠ old) (hrefs : Tab.get 0 b.ctl.fw.alloc.refs new ≠ 0) (t : Block)
    (ht : (addRef old (1 - Int.ofNat n)).run ((addRef new (Int.ofNat n - 1)).run ((nameFrame new k).run b)) = t) :
    Tab.get 0 t.ctl.fw.alloc.owner new = k ∧ Tab.get 0 t.ctl.fw.alloc.refs new = Tab.get 0 b.ctl.fw.alloc.refs new + n - 1 ∧
    Tab.get 0 t.ctl.fw.alloc.refs old = Tab.get 0 b.ctl.fw.alloc.refs old + 1 - n := by
  have hnamed : ((nameFrame new k).run b).ctl.fw.alloc.refs = b.ctl.fw.alloc.refs := rfl
  have howner : Tab.get 0 ((nameFrame new k).run b).ctl.fw.alloc.owner new = k := Tab.get_set_self _ _ _ _
  generalize (nameFrame new k).run b = c at ht hnamed howner
  have hcast : Int.ofNat n = (n : Int) := rfl
  rw [← ht]
  refine ⟨?_, ?_, ?_⟩
  · rw [owner_addRef_pos fun h => absurd h hne, owner_addRef_pos, howner]
    intro _
    rw [hnamed]
    omega
  · rw [refs_addRef_other _ hne, refs_addRef, hnamed]
    omega
  · rw [refs_addRef, refs_addRef_other _ (Ne.symm hne), hnamed]
    omega

/-- What stays the same under it. -/
theorem moved_rest (b : Block) (old new k : Nat) (d e : Int) (t : Block) (ht : (addRef old e).run ((addRef new d).run ((nameFrame new k).run b)) = t) :
    t.ctl.fw.moves = b.ctl.fw.moves ∧ t.ctl.fw.invals = b.ctl.fw.invals ∧ t.ctl.fw.nextId = b.ctl.fw.nextId ∧ t.mem = b.mem ∧ t.host = b.host ∧
    t.sems = b.sems ∧ t.arb = b.arb ∧ t.fuses = b.fuses := by
  rw [← ht]
  exact ⟨rfl, rfl, rfl, rfl, rfl, rfl, rfl, rfl⟩

/-- The new entries of a page that moves, of each of its sharers. -/
def moveEntries (b : Block) (m : PageMv) (qs : List Nat) : Act :=
  Act.each qs fun q => putEntry q m.layer m.page (mkEntry (m.new * 8192) b.slot m.tier (decide (1 < qs.length))
    (entPinned (b.pageEntry false ((b.seq q).pageAddr m.layer m.page))))

theorem keeps_moveEntries (b c : Block) (m : PageMv) (qs : List Nat) : c.Keeps .entry ((moveEntries b m qs).run c) := by
  refine Act.Only.keepsScope ?_ c
  simp only [moveEntries, only_each_iff]
  exact fun q _ => (pageActs_scope rfl rfl rfl rfl rfl).only_putEntry (fun _ _ => (only_one _ _).1 (only_send (S := .entry) rfl _ _)) _ _ _ _

theorem samePages_moveEntries (b c : Block) (m : PageMv) (qs : List Nat) : c.ctl.SamePages ((moveEntries b m qs).run c).ctl := by
  refine Act.Only.keepsPages ?_ c
  simp only [moveEntries, only_each_iff]
  exact fun q _ => pageActs_keepsPages.only_putEntry (fun _ _ => trivial) _ _ _ _

/-- The step of a page move between its invalidates: what it has before the moves and the second invalidate are noted. -/
theorem run_pageMoveAct {m : PageMv} (hawake : b.ctl.awake = true)
    (hfind : b.ctl.fw.moves.find? (fun k => k.id == m.id && k.step == 2) = some m) : (pageMoveAct m.id).run b =
      (invalidateAll ((b.seq m.seq).pageAddr m.layer m.page) ((b.seq m.seq).pageAddr m.layer m.page + 8192)
        (b.pageRanges m.layer m.page (b.sharers m.layer m.page m.old)) (.move m.id)).run
      ((Act.upd fun c => { c with fw := { c.fw with moves := c.fw.moves.map fun k => if k.id = m.id then { k with step := 3 } else k } }).run
        ((addRef m.old (1 - Int.ofNat (b.sharers m.layer m.page m.old).length)).run
          ((addRef m.new (Int.ofNat (b.sharers m.layer m.page m.old).length - 1)).run
            ((nameFrame m.new (pageKey m.seq m.layer m.page + 1)).run ((moveEntries b m (b.sharers m.layer m.page m.old)).run
              ((Act.one (.mem (m.new * 8192) (b.read (m.old * 8192) 8192))).run ((countFw 8192).run b))))))) := by
  have hown : ownFrame m.new m.seq m.layer m.page = nameFrame m.new (pageKey m.seq m.layer m.page + 1) := ownFrame_eq _ _ _ _
  rw [pageMoveAct, run_look, hawake, run_when_true, hfind, run_opt_some, run_all_cons, run_all_cons, run_all_cons, run_all_cons, run_all_cons,
    run_all_cons, run_all_cons, run_all_cons, run_all_nil, hown, moveEntries]

/-- PAGE_MOVE between its invalidates (R169 steps 2 to 4), under a number for the new frame's page. -/
theorem moved_facts {m : PageMv} {qs : List Nat} {k lo hi : Nat} {more : List (Nat × Nat)} {bs : Bytes} (t : Block)
    (ht : (invalidateAll lo hi more (.move m.id)).run
      ((Act.upd fun c => { c with fw := { c.fw with moves := c.fw.moves.map fun k => if k.id = m.id then { k with step := 3 } else k } }).run
        ((addRef m.old (1 - Int.ofNat qs.length)).run ((addRef m.new (Int.ofNat qs.length - 1)).run ((nameFrame m.new k).run
          ((moveEntries b m qs).run ((Act.one (.mem (m.new * 8192) bs)).run ((countFw 8192).run b))))))) = t) :
    (qs = [] → t.mem = b.mem.write (m.new * 8192) bs) ∧ (∀ x ∈ t.ctl.fw.moves, x.id = m.id → x.step = 3) ∧
    t.ctl.fw.invals = b.ctl.fw.invals ++ [{ id := b.ctl.fw.nextId, lo := lo, hi := hi, more := more, what := .move m.id }] ∧
    (qs ≠ [] → m.new ≠ m.old → Tab.get 0 b.ctl.fw.alloc.refs m.new ≠ 0 →
      Tab.get 0 t.ctl.fw.alloc.owner m.new = k ∧ Tab.get 0 t.ctl.fw.alloc.refs m.new = Tab.get 0 b.ctl.fw.alloc.refs m.new + qs.length - 1 ∧
      Tab.get 0 t.ctl.fw.alloc.refs m.old = Tab.get 0 b.ctl.fw.alloc.refs m.old + 1 - qs.length) ∧
    t.host = b.host ∧ t.sems = b.sems ∧ t.arb = b.arb ∧ t.fuses = b.fuses := by
  have hcount := keeps_countFw (S := { engine := true }) rfl b 8192
  generalize (countFw 8192).run b = c at ht hcount
  have hfw : c.ctl.fw = b.ctl.fw := hcount.ctl.fw rfl
  generalize hd : (Act.one (.mem (m.new * 8192) bs)).run c = d at ht
  have hdfw : d.ctl.fw = b.ctl.fw := by
    rw [← hfw, ← hd]
    rfl
  have hdmem : d.mem = b.mem.write (m.new * 8192) bs := by
    rw [← hcount.mem rfl, ← hd]
    rfl
  have hdrest : d.host = b.host ∧ d.sems = b.sems ∧ d.arb = b.arb ∧ d.fuses = b.fuses := by
    rw [← hcount.host rfl, ← hcount.sems rfl, ← hcount.arb rfl, ← hcount.fuses rfl, ← hd]
    exact ⟨rfl, rfl, rfl, rfl⟩
  have hkeep := keeps_moveEntries b d m qs
  have hcore := (samePages_moveEntries b d m qs).core
  have hnone : qs = [] → (moveEntries b m qs).run d = d := fun h => by
    rw [h]
    rfl
  generalize (moveEntries b m qs).run d = e at ht hkeep hcore hnone
  rw [hdfw] at hcore
  have hrefs : e.ctl.fw.alloc.refs = b.ctl.fw.alloc.refs := by
    have h := congrArg (fun f : PageFw => f.alloc.refs) hcore
    exact h
  have hsame : e.ctl.fw.invals = b.ctl.fw.invals ∧ e.ctl.fw.nextId = b.ctl.fw.nextId := by
    have h := congrArg PageFw.invals hcore
    have h' := congrArg PageFw.nextId hcore
    exact ⟨h, h'⟩
  generalize hu : (addRef m.old (1 - Int.ofNat qs.length)).run ((addRef m.new (Int.ofNat qs.length - 1)).run ((nameFrame m.new k).run e)) = u at ht
  obtain ⟨hmoves, hinvals, hnext, hmem, hhost, hsems, harb, hfuses⟩ := moved_rest e m.old m.new k _ _ u hu
  have htail : t.ctl.fw = { u.ctl.fw with nextId := u.ctl.fw.nextId + 1
                                          moves := u.ctl.fw.moves.map fun k => if k.id = m.id then { k with step := 3 } else k
                                          invals := u.ctl.fw.invals ++ [{ id := u.ctl.fw.nextId, lo := lo, hi := hi, more := more,
                                                                          what := .move m.id }] } := by
    rw [← ht]
    rfl
  have hrest : t.mem = u.mem ∧ t.host = u.host ∧ t.sems = u.sems ∧ t.arb = u.arb ∧ t.fuses = u.fuses := by
    rw [← ht]
    exact ⟨rfl, rfl, rfl, rfl, rfl⟩
  refine ⟨fun h => ?_, fun x hx hid => ?_, ?_, fun hqs hne hnew => ?_, hrest.2.1.trans (hhost.trans ((hkeep.host rfl).trans hdrest.1)),
    hrest.2.2.1.trans (hsems.trans ((hkeep.sems rfl).trans hdrest.2.1)), hrest.2.2.2.1.trans (harb.trans ((hkeep.arb rfl).trans hdrest.2.2.1)),
    hrest.2.2.2.2.trans (hfuses.trans ((hkeep.fuses rfl).trans hdrest.2.2.2))⟩
  · rw [hrest.1, hmem, hnone h, hdmem]
  · rw [htail] at hx
    obtain ⟨y, -, rfl⟩ := List.mem_map.1 hx
    split at hid
    · next h => rw [if_pos h]
    · next h => exact absurd hid h
  · rw [htail]
    dsimp only
    rw [hinvals, hnext, hsame.1, hsame.2]
  · rw [← hrefs, htail]
    exact moved_refs (fun h => hqs (List.length_eq_zero_iff.1 h)) hne (hrefs ▸ hnew) u hu

/-! ## Invalidates -/

theorem mem_mapVals {α : Type} [DecidableEq α] {d : α} {f : α → α} {p : Nat × α} {t : Tab α} (h : p ∈ Tab.mapVals d f t) : ∃ x ∈ t, p.2 = f x.2 := by
  have hset : ∀ (u : Tab α) (k : Nat) (v : α) (p : Nat × α), p ∈ Tab.set d u k v → p = (k, v) ∨ p ∈ u := by
    have herase : ∀ (u : Tab α) (k : Nat) (p : Nat × α), p ∈ Tab.erase u k → p ∈ u := by
      intro u k p hp
      induction u with
      | nil => exact hp
      | cons y u ih =>
        rw [Tab.erase] at hp
        split at hp
        · exact List.mem_cons_of_mem _ (ih hp)
        · rcases List.mem_cons.1 hp with h | h
          · exact List.mem_cons.2 (.inl h)
          · exact List.mem_cons_of_mem _ (ih h)
    have hput : ∀ (u : Tab α) (k : Nat) (v : α) (p : Nat × α), p ∈ Tab.put u k v → p = (k, v) ∨ p ∈ u := by
      intro u k v p hp
      induction u with
      | nil => exact .inl (List.mem_singleton.1 hp)
      | cons y u ih =>
        rw [Tab.put] at hp
        split at hp
        · exact List.mem_cons.1 hp
        · split at hp
          · exact (List.mem_cons.1 hp).imp_right (List.mem_cons_of_mem _)
          · rcases List.mem_cons.1 hp with h | h
            · exact .inr (List.mem_cons.2 (.inl h))
            · exact (ih h).imp_right (List.mem_cons_of_mem _)
    intro u k v p hp
    rw [Tab.set] at hp
    split at hp
    · exact .inr (herase u k p hp)
    · exact hput u k v p hp
  have hfold : ∀ (t u : Tab α), p ∈ t.foldl (fun u e => Tab.set d u e.1 (f e.2)) u → p ∈ u ∨ ∃ x ∈ t, p.2 = f x.2 := by
    intro t
    induction t with
    | nil => exact fun u hu => .inl hu
    | cons e t ih =>
      intro u hp
      rcases ih _ hp with hu | ⟨x, hx, hpx⟩
      · rcases hset u e.1 (f e.2) p hu with rfl | hu
        · exact .inr ⟨e, List.mem_cons_self, rfl⟩
        · exact .inl hu
      · exact .inr ⟨x, List.mem_cons_of_mem _ hx, hpx⟩
  rcases hfold t [] h with hu | hx
  · exact absurd hu List.not_mem_nil
  · exact hx

/-- A translation lies in a range. -/
def TlbEntry.inRange (e : TlbEntry) (r : Nat × Nat) : Prop := e.base < r.2 ∧ r.1 < e.base + e.size

/-- No cove holds a translation of a range. -/
def Engine.Clear (g : Engine) (r : Nat × Nat) : Prop := ∀ p ∈ g.coves, ∀ e ∈ p.2.tlb, ¬e.inRange r

theorem Engine.Clear.cove {c : Ctl} {r : Nat × Nat} (h : c.engine.Clear r) (v : Nat) : ∀ e ∈ (c.cove v).tlb, ¬e.inRange r := by
  have hget : ∀ (t : Tab Cove), (∀ p ∈ t, ∀ e ∈ p.2.tlb, ¬e.inRange r) → ∀ e ∈ (Tab.get Cove.empty t v).tlb, ¬e.inRange r := by
    intro t
    induction t with
    | nil => exact fun _ e he => absurd he List.not_mem_nil
    | cons y t ih =>
      intro ht
      rw [Tab.get]
      split
      · exact ht y List.mem_cons_self
      · exact ih fun p hp => ht p (List.mem_cons_of_mem _ hp)
  exact hget _ h

/-- A dropped range holds no translation any more. -/
theorem clear_dropTlb (r : Nat × Nat) : ((dropTlb r.1 r.2).run b).ctl.engine.Clear r := by
  intro p hp e he
  obtain ⟨x, -, hx⟩ := mem_mapVals (f := fun v : Cove => { v with tlb := v.tlb.filter fun t => !decide (t.base < r.2 ∧ r.1 < t.base + t.size) }) hp
  rw [hx] at he
  intro hin
  have hboth : e.base < r.2 ∧ r.1 < e.base + e.size := hin
  have hkept := (List.mem_filter.1 he).2
  rw [decide_eq_true hboth] at hkept
  exact absurd hkept (by decide)

/-- A range that holds no translation stays so when another is dropped. -/
theorem Engine.Clear.dropTlb {r s : Nat × Nat} (h : b.ctl.engine.Clear r) : ((dropTlb s.1 s.2).run b).ctl.engine.Clear r := by
  intro p hp e he
  obtain ⟨x, hx, hpx⟩ := mem_mapVals (f := fun v : Cove => { v with tlb := v.tlb.filter fun t => !decide (t.base < s.2 ∧ s.1 < t.base + t.size) }) hp
  rw [hpx] at he
  exact h x hx e (List.mem_of_mem_filter he)

theorem clear_each_dropTlb (rs : List (Nat × Nat)) : ∀ b : Block, (∀ r, b.ctl.engine.Clear r → ((Act.each rs fun r => dropTlb r.1 r.2).run b).ctl.engine.Clear r) ∧
    ∀ r ∈ rs, ((Act.each rs fun r => dropTlb r.1 r.2).run b).ctl.engine.Clear r := by
  induction rs with
  | nil => exact fun b => ⟨fun _ h => h, fun r hr => absurd hr List.not_mem_nil⟩
  | cons s rs ih =>
    intro b
    rw [run_each_cons]
    refine ⟨fun r h => (ih _).1 r h.dropTlb, fun r hr => ?_⟩
    rcases List.mem_cons.1 hr with rfl | hr
    · exact (ih _).1 r (clear_dropTlb r)
    · exact (ih _).2 r hr

/-- The block once the translations of an invalidate are gone. -/
def Block.invalidated (b : Block) (i : Inval) : Block :=
  ((Act.each ((i.lo, i.hi) :: i.more) fun r => dropTlb r.1 r.2).run b).withFw
    { b.ctl.fw with invals := b.ctl.fw.invals.filter fun k => k.id != i.id }

theorem keeps_each_dropTlb (b : Block) (rs : List (Nat × Nat)) : b.Keeps { engine := true } ((Act.each rs fun r => dropTlb r.1 r.2).run b) := by
  refine Act.Only.keepsScope ?_ b
  simp only [only_each_iff]
  exact fun r _ => only_dropTlb rfl _ _

theorem keeps_invalidated (b : Block) (i : Inval) : b.Keeps { engine := true, fw := true } (b.invalidated i) :=
  ((keeps_each_dropTlb b _).widen {}).trans (keeps_withFw rfl _)

theorem run_invalidated (b : Block) (i : Inval) :
    (Act.upd fun c => { c with fw := { c.fw with invals := c.fw.invals.filter fun k => k.id != i.id } }).run
      ((Act.each ((i.lo, i.hi) :: i.more) fun r => dropTlb r.1 r.2).run b) = b.invalidated i := by
  have hfw := (keeps_each_dropTlb b ((i.lo, i.hi) :: i.more)).ctl.fw rfl
  rw [Block.invalidated, ← hfw]
  rfl

section Done
variable {i : Inval}

theorem run_invalidateCompleteAct_nothing (hawake : b.ctl.awake = true) (hfind : b.ctl.fw.invals.find? (fun k => k.id == i.id) = some i)
    (hwhat : i.what = .nothing) : (invalidateCompleteAct i.id).run b = b.invalidated i := by
  simp only [invalidateCompleteAct, run_look, hawake, run_when_true, hfind, run_opt_some, run_all_cons, run_all_nil, hwhat]
  exact run_invalidated b i

theorem run_invalidateCompleteAct_move (hawake : b.ctl.awake = true) (hfind : b.ctl.fw.invals.find? (fun k => k.id == i.id) = some i) {m : Nat}
    {k : PageMv} (hwhat : i.what = .move m) (hmove : b.ctl.fw.moves.find? (fun k => k.id == m) = some k) (hstep : k.step = 1) :
    (invalidateCompleteAct i.id).run b =
      (Act.upd fun c => { c with fw := { c.fw with moves := c.fw.moves.map fun x => if x.id = m then { x with step := 2 } else x } }).run
        (b.invalidated i) := by
  simp only [invalidateCompleteAct, run_look, hawake, run_when_true, hfind, run_opt_some, run_all_cons, run_all_nil, hwhat, hmove, hstep, if_true,
    run_invalidated b i]

theorem run_invalidateCompleteAct_flood (hawake : b.ctl.awake = true) (hfind : b.ctl.fw.invals.find? (fun k => k.id == i.id) = some i) {q key : Nat}
    (hwhat : i.what = .flood q) (hresume : (b.ctl.seqFw q).resume = some key) :
    (invalidateCompleteAct i.id).run b = (partDone key 0).run ((b.invalidated i).withSeqFw q fun s => { s with pre := .flooded }) := by
  have hresume' : ((b.invalidated i).ctl.seqFw q).resume = some key := hresume
  simp only [invalidateCompleteAct, run_look, hawake, run_when_true, hfind, run_opt_some, run_all_cons, run_all_nil, hwhat, run_invalidated b i, floodEnd,
    hresume', run_seq]
  rfl

/-- What the pages of an Ebb leave to do once its invalidate is complete (R181). -/
def ebbEnd (q : Nat) (fs : List Nat) : Act :=
  Act.all [Act.each fs dropFrame, (.look fun b => setSeq q fun s => { s with swapped := (b.swappedPages q).length }),
    .upd fun c => c.setSeqFw q fun s => { s with pre := .swapped },
    .look fun b => Act.each (b.ctl.fw.tasks.filter fun t => t.opcode == 0x13 && t.seq == q) fun t => taskCheck t.key]

theorem run_invalidateCompleteAct_ebb (hawake : b.ctl.awake = true) (hfind : b.ctl.fw.invals.find? (fun k => k.id == i.id) = some i) {q : Nat}
    {fs : List Nat} (hwhat : i.what = .ebb q fs) : (invalidateCompleteAct i.id).run b = (ebbEnd q fs).run (b.invalidated i) := by
  simp only [invalidateCompleteAct, run_look, hawake, run_when_true, hfind, run_opt_some, run_all_cons, run_all_nil, hwhat, run_invalidated b i,
    ebbEnd]

end Done

/-! ### The parts of a follower -/

/-- The block with messages sent, and with what firmware's tasks and journal hold. -/
def Block.tasked (b : Block) (out : List Sent) (tasks : List Task) (journal : List (Nat × Nat)) : Block :=
  { b with out := out, ctl := { b.ctl with fw := { b.ctl.fw with tasks := tasks, journal := journal } } }

theorem run_each_tasked {α : Type} {f : α → Act} {P : Block → Prop}
    (hf : ∀ x c, P c → P ((f x).run c) ∧ ∃ out tasks journal, (f x).run c = c.tasked out tasks journal) :
    ∀ (xs : List α) (c : Block), P c → ∃ out tasks journal, (Act.each xs f).run c = c.tasked out tasks journal := by
  intro xs
  induction xs with
  | nil => exact fun c _ => ⟨c.out, c.ctl.fw.tasks, c.ctl.fw.journal, rfl⟩
  | cons x xs ih =>
    intro c hc
    obtain ⟨hP, o, ts, j, hrun⟩ := hf x c hc
    obtain ⟨o', ts', j', hrest⟩ := ih _ hP
    refine ⟨o', ts', j', ?_⟩
    rw [run_each_cons, hrest, hrun]
    rfl

theorem run_each_out {α : Type} {f : α → Act} (hf : ∀ x c, ∃ out, (f x).run c = ({ c with out := out } : Block)) :
    ∀ (xs : List α) (c : Block), ∃ out, (Act.each xs f).run c = ({ c with out := out } : Block) := by
  intro xs
  induction xs with
  | nil => exact fun c => ⟨c.out, rfl⟩
  | cons x xs ih =>
    intro c
    obtain ⟨o, hrun⟩ := hf x c
    obtain ⟨o', hrest⟩ := ih ((f x).run c)
    refine ⟨o', ?_⟩
    rw [run_each_cons, hrest, hrun]

theorem run_mirror_out (m : MirrorMsg) (c : Block) : ∃ out, (mirror m).run c = ({ c with out := out } : Block) := by
  rw [mirror, run_look]
  generalize (c.ctl.pair.role == .bound || _) = told
  cases told with
  | true => exact ⟨_, rfl⟩
  | false => exact ⟨c.out, rfl⟩

theorem run_journal_out (key : Nat) (c : Block) : ∃ out, (journal key).run c = ({ c with out := out } : Block) :=
  run_each_out (fun _ c => run_mirror_out _ c) _ c

/-- A rank that another leads tells the leader that its part is done. -/
theorem run_partDone_follower (h : b.ctl.leader = false) (key status : Nat) : ∃ out tasks journal, (partDone key status).run b = b.tasked out tasks journal := by
  obtain ⟨o, hrun⟩ := run_journal_out key b
  have htell : ∀ c : Block, c.ctl.leader = false → ∃ out, (tellLeader key status).run c = ({ c with out := out } : Block) := fun c hc => by
    rw [tellLeader, run_look]
    simp only [hc, Bool.false_eq_true, if_false]
    exact run_each_out (fun r c => ⟨_, rfl⟩) _ c
  rw [partDone, run_seq, run_seq, hrun]
  obtain ⟨o', hrest⟩ := htell ((Act.upd fun c => { c with fw := { c.fw with journal := (c.fw.journal.filter fun j => j.1 != key) ++ [(key, status)] } }).run
    ({ b with out := o } : Block)) h
  exact ⟨o', b.ctl.fw.tasks, (b.ctl.fw.journal.filter fun j => j.1 != key) ++ [(key, status)], hrest⟩

theorem run_taskCheck_follower (h : b.ctl.leader = false) (key : Nat) : ∃ out tasks journal, (taskCheck key).run b = b.tasked out tasks journal := by
  have hkept : ∃ out tasks journal, b = b.tasked out tasks journal := ⟨b.out, b.ctl.fw.tasks, b.ctl.fw.journal, rfl⟩
  rw [taskCheck, run_look]
  cases hfind : b.ctl.fw.tasks.find? (fun t => t.key == key) with
  | none => exact hkept
  | some t =>
    rw [run_opt_some, run_when]
    split
    · obtain ⟨o, ts, j, hrun⟩ := run_partDone_follower (b := (Act.upd fun c => { c with fw := { c.fw with
        tasks := c.fw.tasks.filter fun u => u.key != key } }).run b) h key t.status
      exact ⟨o, ts, j, hrun⟩
    · exact hkept

/-! ### The frames of an Ebb -/

/-- What a frame that loses a reference touches. -/
def Scope.drops : Scope := { arb := true, power := true, fw := true, pair := true }

theorem only_dropFrame (f : Nat) : (dropFrame f).Only (Eff.In .drops) := by
  have hframes : (Act.upd fun c => if Tab.get 0 c.fw.alloc.refs f = 0 then
      { c with pair := { c.pair with frames := c.pair.frames.filter fun m => m.1 != f } } else c).Only (Eff.In .drops) := by
    refine (only_upd _ _).2 fun c => ?_
    split
    · exact { pair := fun hs => absurd hs (by decide) }
    · exact .refl _
  simp only [dropFrame, only_all_cons, only_all_nil, and_true]
  exact ⟨only_fw rfl _, only_poolLow rfl rfl rfl 0, only_poolLow rfl rfl rfl 1, hframes⟩

/-- A frame that loses a reference: the count of its own entry, and who leads. -/
theorem dropFrame_facts (b : Block) (f : Nat) : ((dropFrame f).run b).ctl.fw.alloc.refs =
      Tab.set 0 b.ctl.fw.alloc.refs f (((Tab.get 0 b.ctl.fw.alloc.refs f : Nat) : Int) + -1).toNat ∧
    ((dropFrame f).run b).ctl.leader = b.ctl.leader := by
  have hadd : ((addRef f (-1)).run b).ctl.fw.alloc.refs = Tab.set 0 b.ctl.fw.alloc.refs f (((Tab.get 0 b.ctl.fw.alloc.refs f : Nat) : Int) + -1).toNat := rfl
  have hlead : ((addRef f (-1)).run b).ctl.leader = b.ctl.leader := rfl
  simp only [dropFrame, run_all_cons, run_all_nil]
  rw [← hadd, ← hlead]
  generalize (addRef f (-1)).run b = c
  obtain ⟨a0, p0, h0, d0, hlow0⟩ := run_poolLow c 0
  rw [hlow0]
  obtain ⟨a1, p1, h1, d1, hlow1⟩ := run_poolLow (c.poolMarked a0 p0 h0 d0) 1
  rw [hlow1, run_upd]
  split <;> exact ⟨rfl, rfl⟩

/-- Frames are not in use, and no act in between takes them. -/
theorem mem_used_set {f g n : Nat} {t : Tab Nat} (h : f ∈ (Tab.set 0 t g n).map Prod.fst) : f = g ∧ n ≠ 0 ∨ f ∈ t.map Prod.fst := by
  have herase : ∀ t : Tab Nat, f ∈ (Tab.erase t g).map Prod.fst → f ∈ t.map Prod.fst := by
    intro t
    induction t with
    | nil => exact id
    | cons y t ih =>
      intro hf
      rw [Tab.erase] at hf
      split at hf
      · exact List.mem_cons_of_mem _ (ih hf)
      · rcases List.mem_cons.1 hf with h | h
        · exact List.mem_cons.2 (.inl h)
        · exact List.mem_cons_of_mem _ (ih h)
  have hput : ∀ t : Tab Nat, f ∈ (Tab.put t g n).map Prod.fst → f = g ∨ f ∈ t.map Prod.fst := by
    intro t
    induction t with
    | nil => exact fun hf => .inl (List.mem_singleton.1 hf)
    | cons y t ih =>
      intro hf
      rw [Tab.put] at hf
      split at hf
      · exact List.mem_cons.1 hf
      · split at hf
        · exact (List.mem_cons.1 hf).imp_right (List.mem_cons_of_mem _)
        · rcases List.mem_cons.1 hf with h | h
          · exact .inr (List.mem_cons.2 (.inl h))
          · exact (ih h).imp_right (List.mem_cons_of_mem _)
  rw [Tab.set] at h
  split at h
  · exact .inr (herase t h)
  · next hn => exact (hput t h).imp_left fun hf => ⟨hf, hn⟩

theorem not_mem_erase (f : Nat) : ∀ t : Tab Nat, f ∉ (Tab.erase t f).map Prod.fst := by
  intro t
  induction t with
  | nil => exact List.not_mem_nil
  | cons y t ih =>
    rw [Tab.erase]
    split
    · exact ih
    · next hne =>
      intro hf
      rcases List.mem_cons.1 hf with h | h
      · exact hne h
      · exact ih h

/-- A frame that one page held, and that is dropped once, is free (R181). -/
theorem used_each_dropFrame {f : Nat} : ∀ (fs : List Nat) (b : Block),
    (f ∉ fs → f ∉ b.ctl.fw.alloc.used → f ∉ ((Act.each fs dropFrame).run b).ctl.fw.alloc.used) ∧
    (fs.count f = 1 → Tab.get 0 b.ctl.fw.alloc.refs f = 1 → f ∉ ((Act.each fs dropFrame).run b).ctl.fw.alloc.used) := by
  intro fs
  induction fs with
  | nil => exact fun b => ⟨fun _ h => h, fun h => absurd h (by simp)⟩
  | cons g fs ih =>
    intro b
    have hrefs := (dropFrame_facts b g).1
    rw [run_each_cons]
    refine ⟨fun hf hfree => ?_, fun hcount hone => ?_⟩
    · obtain ⟨hne, hrest⟩ := not_or.1 (fun h => hf (List.mem_cons.2 h))
      refine (ih _).1 hrest fun hused => ?_
      rw [Alloc.used, hrefs] at hused
      rcases mem_used_set hused with ⟨h, -⟩ | h
      · exact hne h
      · exact hfree h
    · by_cases hg : f = g
      · subst hg
        rw [List.count_cons_self] at hcount
        refine (ih _).1 (List.count_eq_zero.1 (by omega)) ?_
        have hzero : (((1 : Nat) : Int) + -1).toNat = 0 := by omega
        rw [Alloc.used, hrefs, hone, hzero, Tab.set, if_pos rfl]
        exact not_mem_erase f _
      · rw [List.count_cons_of_ne (Ne.symm hg)] at hcount
        refine (ih _).2 hcount ?_
        rw [hrefs, Tab.get_set_other _ _ _ _ _ hg, hone]

theorem leader_each_dropFrame (fs : List Nat) : ∀ b : Block, ((Act.each fs dropFrame).run b).ctl.leader = b.ctl.leader := by
  induction fs with
  | nil => exact fun b => rfl
  | cons g fs ih =>
    intro b
    rw [run_each_cons, ih, (dropFrame_facts b g).2]

theorem keeps_each_dropFrame (fs : List Nat) (b : Block) : b.Keeps .drops ((Act.each fs dropFrame).run b) := by
  refine Act.Only.keepsScope ?_ b
  simp only [only_each_iff]
  exact fun f _ => only_dropFrame f

/-- The end of an Ebb (R181). -/
theorem ebbEnd_facts (b : Block) (q : Nat) (fs : List Nat) (hleader : b.ctl.leader = false) :
    (((ebbEnd q fs).run b).ctl.seqFw q).pre = .swapped ∧
    (∀ f ∈ fs, fs.count f = 1 → Tab.get 0 b.ctl.fw.alloc.refs f = 1 → f ∉ ((ebbEnd q fs).run b).ctl.fw.alloc.used) ∧
    ((ebbEnd q fs).run b).host = b.host ∧ ((ebbEnd q fs).run b).sems = b.sems ∧ ((ebbEnd q fs).run b).fuses = b.fuses := by
  have hused := fun f => (used_each_dropFrame (f := f) fs b).2
  have hlead := leader_each_dropFrame fs b
  have hdrops := keeps_each_dropFrame fs b
  simp only [ebbEnd, run_all_cons, run_all_nil, run_look]
  generalize (Act.each fs dropFrame).run b = c at hused hlead hdrops ⊢
  generalize hset : (setSeq q fun s => { s with swapped := (c.swappedPages q).length }).run c = d
  have hkeep : c.Keeps { mem := true, lrs := true, out := true } d := by
    rw [← hset]
    exact (only_setSeq rfl rfl rfl q _).keepsScope c
  have hdlead : (d.withSeqFw q fun s => { s with pre := .swapped }).ctl.leader = false := by
    have h : d.ctl.leader = c.ctl.leader := by rw [Ctl.leader, Ctl.leader, Ctl.rank, Ctl.rank, hkeep.ctl.pair rfl, hkeep.ctl.links rfl]
    exact (h.trans hlead).trans hleader
  have hpre : ((d.withSeqFw q fun s => { s with pre := .swapped }).ctl.seqFw q).pre = .swapped := by
    simp only [Block.withSeqFw, Ctl.seqFw, Ctl.setSeqFw, Tab.get_set_self]
  obtain ⟨o, ts, j, hrun⟩ := run_each_tasked (P := fun c => c.ctl.leader = false) (f := fun t : Task => taskCheck t.key)
    (fun t c hc => by
      obtain ⟨o, ts, j, hrun⟩ := run_taskCheck_follower hc t.key
      refine ⟨?_, o, ts, j, hrun⟩
      rw [hrun]
      exact hc)
    ((d.withSeqFw q fun s => { s with pre := .swapped }).ctl.fw.tasks.filter fun t => t.opcode == 0x13 && t.seq == q) _ hdlead
  have hupd : (Act.upd fun c => c.setSeqFw q fun s => { s with pre := .swapped }).run d = d.withSeqFw q fun s => { s with pre := .swapped } := rfl
  rw [hupd, hrun]
  refine ⟨hpre, fun f hf hcount hone => ?_, (hkeep.host rfl).trans (hdrops.host rfl), (hkeep.sems rfl).trans (hdrops.sems rfl),
    (hkeep.fuses rfl).trans (hdrops.fuses rfl)⟩
  have hfree := hused f hcount hone
  rw [← hkeep.ctl.fw rfl] at hfree
  exact hfree

end Pages

/-- Settles O31, command by command: a pre-emption's own entry and event, one page of an Ebb and of a Flood, the references of a move, and what
each kind of invalidate leaves to do. -/
theorem preemptionAndMoves : Obligations.PreemptionAndMoves := by
  unfold Obligations.PreemptionAndMoves
  refine ⟨fun s q hawake hleader hrole hrank2 => ⟨?_, ?_, ?_, ?_⟩, fun s m hawake hfind => ?_, fun s i hawake hleader hfind => ⟨?_, ?_, ?_, ?_⟩⟩
  · intro a cause hjob hpre hopen hpass hcheck hentry
    obtain ⟨cs, hnow⟩ := run_preemptNow_follower (cause := cause.val) hleader hrole hrank2 hentry hpass
    have hrun := run_preemptEffectAct (cause := cause.val) hawake hjob hleader hpre hopen hpass hcheck
    have hmod : cause.val % 16 * 4096 + q.val % 4096 = cause.val * 4096 + q.val := by omega
    rw [hnow, preemptDetail_one hrank2, Nat.add_assoc, hmod, ← Nat.add_assoc] at hrun
    obtain ⟨hfollower, hpre', hmem, harb, hhost, hsems, hfuses, hout⟩ := preempted_rest s.block q a
      ({ s.block.seq q with length := (s.block.seq q).committed, state := seqPreempted } : SeqEnt).bytes
      ((s.block.unpinned q).length % 2 ^ 32 * 65536 + cause.val * 4096 + q.val)
    generalize s.block.preempted q a _ _ = t at hrun hfollower hpre' hmem harb hhost hsems hfuses hout
    have hlead : (t.withCmds cs).ctl.leader = false := hfollower.trans hleader
    rw [run_choosePass_follower hlead] at hrun
    exact ⟨_, runs_of_perform rfl hrun, hmem, hpre', harb, hhost, hsems, hout, hfuses⟩
  · intro x slot f hpre hback hinvals hpages hslots hframe
    have hrun := run_ebbAct hawake hpre hback hinvals hpages hslots hframe
    obtain ⟨hhost, hswap, hinv, hnext, hsems, harb, hfuses⟩ := ebbPage_facts s.block q slot x (slot_not_used hslots)
    generalize (ebbPage q x slot).run s.block = t at hrun hhost hswap hinv hnext hsems harb hfuses
    refine ⟨_, runs_of_perform rfl hrun, hhost, hswap, ?_, hsems, harb, hfuses⟩
    rw [← hnext]
    exact congrArg (· ++ _) (hinv.trans hinvals)
  · intro key x tier f hpre hinvals hresume hpages hpick
    have hrun := run_floodAct_one hawake hpre hinvals hresume hpages hpick
    obtain ⟨hrefs, hback, hinv, hnext, hhost, hsems, hfuses⟩ := floodPage_facts s.block q tier f x
    generalize (floodPage q x tier f).run s.block = t at hrun hrefs hback hinv hnext hhost hsems hfuses
    refine ⟨_, runs_of_perform rfl hrun, hrefs, hback, ?_, hhost, hsems, hfuses⟩
    rw [← hnext]
    exact congrArg (· ++ _) (hinv.trans hinvals)
  · intro key hpre hinvals hresume hframes hbusy
    have hfull := fun answered => run_floodPart_full (answered := answered) hleader hpre hinvals hresume hframes hbusy
    refine ⟨runs_of_perform rfl ?_, fun hjob => ?_⟩
    · rw [floodAct, run_look, hawake, run_when_true, hfull false]
      rfl
    · have hrun : (victimRequestAct 0 q .noFlood).run s.block =
          (partDone key Status.eCapacity.code).run (s.block.withSeqFw q fun s => { s with resume := none }) := by
        simp only [victimRequestAct, run_look, hawake, hjob, Bool.and_self, run_when_true, hleader, Bool.not_false, hfull true, if_true]
      have hseq : ((s.block.withSeqFw q fun s => { s with resume := none }).ctl.seqFw q) = { s.block.ctl.seqFw q with resume := none } := by
        simp only [Block.withSeqFw, Ctl.seqFw, Ctl.setSeqFw, Tab.get_set_self]
      have hlead : (s.block.withSeqFw q fun s => { s with resume := none }).ctl.leader = false := hleader
      rw [run_partDone (b := s.block.withSeqFw q fun s => { s with resume := none }) hrole hrank2, hlead, if_neg (by decide)] at hrun
      exact ⟨_, runs_of_perform rfl hrun, rfl, congrArg SeqFw.resume hseq, (congrArg SeqFw.pre hseq).trans hpre, rfl, rfl⟩
  · exact ⟨_, runs_of_perform rfl (run_pageMoveAct hawake hfind), moved_facts _ rfl⟩
  · intro hwhat
    have hrun := run_invalidateCompleteAct_nothing hawake hfind hwhat
    have hkeep := keeps_each_dropTlb s.block ((i.lo, i.hi) :: i.more)
    have hclear := (clear_each_dropTlb ((i.lo, i.hi) :: i.more) s.block).2
    exact ⟨_, runs_of_perform rfl hrun, fun v e he r hr => (hclear r hr).cove v e he, rfl, (keeps_invalidated s.block i).sameOutside rfl⟩
  · intro m k hwhat hmove hstep
    refine ⟨_, runs_of_perform rfl (run_invalidateCompleteAct_move hawake hfind hwhat hmove hstep), fun x hx hid => ?_, rfl,
      (keeps_invalidated s.block i).sameOutside rfl⟩
    obtain ⟨y, -, rfl⟩ := List.mem_map.1 hx
    split at hid
    · next h => rw [if_pos h]
    · next h => exact absurd hid h
  · intro q fs hwhat
    have hkeep := keeps_invalidated s.block i
    have hlead : (s.block.invalidated i).ctl.leader = false := by
      rw [Ctl.leader, Ctl.rank, hkeep.ctl.pair rfl, hkeep.ctl.links rfl]
      exact hleader
    have hrefs : (s.block.invalidated i).ctl.fw.alloc.refs = s.block.ctl.fw.alloc.refs := rfl
    obtain ⟨hpre, hused, hhost, hsems, hfuses⟩ := ebbEnd_facts (s.block.invalidated i) q fs hlead
    rw [hrefs] at hused
    exact ⟨_, runs_of_perform rfl (run_invalidateCompleteAct_ebb hawake hfind hwhat), hpre, hused, hhost.trans (hkeep.host rfl),
      hsems.trans (hkeep.sems rfl), hfuses.trans (hkeep.fuses rfl)⟩
  · intro q key hwhat hresume hrank2 hrole
    have hrun := run_invalidateCompleteAct_flood hawake hfind hwhat hresume
    have hkeep := keeps_invalidated s.block i
    obtain ⟨h1, h2, h3, h4, h5, h6, h7, h8, h9, h10, h11, h12⟩ := hkeep.sameOutside rfl
    have hpair := hkeep.ctl.pair rfl
    have hrank : (s.block.invalidated i).ctl.rank = s.block.ctl.rank := by rw [Ctl.rank, Ctl.rank, hkeep.ctl.links rfl]
    have hlead : (s.block.invalidated i).ctl.leader = false := by
      rw [Ctl.leader, hrank, hpair]
      exact hleader
    have halloc : (s.block.invalidated i).ctl.fw.alloc = s.block.ctl.fw.alloc := rfl
    have hown : (s.block.invalidated i).ctl.seqFw q = s.block.ctl.seqFw q := rfl
    generalize s.block.invalidated i = c at hrun h1 h2 h3 h4 h5 h6 h7 h8 h9 h10 h11 h12 hpair hrank hlead halloc hown
    have hset : (c.withSeqFw q fun s => { s with pre := .flooded }).ctl.seqFw q = { c.ctl.seqFw q with pre := .flooded } :=
      Tab.get_set_self _ _ _ _
    have hpre : ((c.withSeqFw q fun s => { s with pre := .flooded }).ctl.seqFw q).pre = .flooded := congrArg SeqFw.pre hset
    have hback : ((c.withSeqFw q fun s => { s with pre := .flooded }).ctl.seqFw q).back = (s.block.ctl.seqFw q).back := by
      rw [hset, ← hown]
    rw [run_partDone (b := c.withSeqFw q fun s => { s with pre := .flooded }) ((congrArg Pair.role hpair).trans hrole)
      ((congrArg Pair.rank2 hpair).trans hrank2)] at hrun
    have hlead' : (c.withSeqFw q fun s => { s with pre := .flooded }).ctl.leader = false := hlead
    have hrank' : (c.withSeqFw q fun s => { s with pre := .flooded }).ctl.rank = s.block.ctl.rank := hrank
    rw [hlead', if_neg (by decide), hrank', run_send] at hrun
    exact ⟨_, runs_of_perform rfl hrun, hpre, hback, halloc,
      ⟨h1, h2, h3, h4, h5, h6, h7, h8, h9, h10, rfl, h12⟩, congrArg (_ :: ·) h11⟩

end Sys2Proof.Machine


namespace Sys2Proof.Machine

/-! # Board peers and windows of the host (R160, R176, R216, R217, R231, R247, R269) -/

section Peers
variable {b : Block}

/-- A page's entry of a leaf table of its own is written there (R236). -/
theorem run_setPage_leaf {va leaf l3 e q : Nat} (hleaf : leafTable b.mem va [43, 33, 23] (b.root false) = some leaf)
    (hl3 : leafTable b.mem va [43, 33] (b.root false) = some l3) (hown : b.ctl.fw.alloc.absent ≠ some (leaf / 8192)) :
    (setPage false q va e).run b = b.wrote (entryAddr leaf va 13) (leBytes e 8) := by
  have hown' : b.ctl.absentTable false ≠ some (leaf / 8192) := hown
  simp only [setPage, run_look, hleaf, hl3, if_neg hown']
  rfl

theorem run_pageEntryAct {m : PageEntryMsg} {leaf l3 : Nat} (hawake : b.ctl.awake = true) (hrank2 : b.ctl.pair.rank2 = none)
    (hopen : (b.seq m.seq).state ≠ seqClosed) (hpage : m.page < (b.seq m.seq).capPages) (hentry : m.entry ≠ 0)
    (hleaf : leafTable b.mem ((b.seq m.seq).pageAddr m.layer m.page) [43, 33, 23] (b.root false) = some leaf)
    (hl3 : leafTable b.mem ((b.seq m.seq).pageAddr m.layer m.page) [43, 33] (b.root false) = some l3)
    (hown : b.ctl.fw.alloc.absent ≠ some (leaf / 8192)) : (pageEntryAct m).run b =
      (dropTlb ((b.seq m.seq).pageAddr m.layer m.page) ((b.seq m.seq).pageAddr m.layer m.page + 8192)).run
        (b.wrote (entryAddr leaf ((b.seq m.seq).pageAddr m.layer m.page) 13) (leBytes m.entry.toNat 8)) := by
  have hopen' : ((b.seq m.seq).state != seqClosed) = true := bne_iff_ne.2 hopen
  have hne : m.entry.toNat ≠ 0 := fun h => hentry (BitVec.eq_of_toNat_eq h)
  simp only [pageEntryAct, run_look, hawake, hopen', decide_eq_true hpage, Bool.and_self, run_when_true, if_neg hne, run_seq, contexts_alone hrank2,
    run_each_cons, run_each_nil, run_setPage_leaf hleaf hl3 hown]

/-- Firmware's record without a waiting request of a board peer. -/
def PageFw.answeredEntry (w : PageFw) (slot va : Nat) : PageFw := { w with wanting := w.wanting.filter fun x => x != (slot, va) }

/-- The request of a board peer waits, or waits no more. -/
def wantEntry (slot va : Nat) (on : Bool) : Act := .upd fun c => { c with fw := { c.fw with
  wanting := (c.fw.wanting.filter fun w => w != (slot, va)) ++ (if on then [(slot, va)] else []) } }

/-- The answer to a board peer. -/
def answerWith (slot va q l n e : Nat) : Act :=
  (wantEntry slot va false).seq (send (.slot slot) (.pageEntry { seq := q, layer := l, page := n, entry := BitVec.ofNat 64 e }))

theorem run_answerEntry {slot va q l n : Nat} {second answered : Bool} (hpage : b.pageOf va = some (q, l, n))
    (hserves : b.ctl.servesRank (b.ctl.holder l n) = some second) : (answerEntry slot va answered).run b =
      (makePage second q l n true answered (.look fun t => answerWith slot va q l n (t.pageEntry second ((t.seq q).pageAddr l n)))
        (answerWith slot va q l n 0)).run ((wantEntry slot va true).run b) := by
  rw [answerEntry, run_look, hpage, run_opt_some]
  simp only
  rw [hserves, run_opt_some, run_seq]
  rfl

theorem run_entryRequestAct {slot va q l n f : Nat} (hawake : b.ctl.awake = true) (hpage : b.pageOf va = some (q, l, n))
    (hserves : b.ctl.servesRank (b.ctl.holder l n) = some false) (hframe : b.frameOf (b.pageEntry false ((b.seq q).pageAddr l n)) = some f)
    (hwrite : entReadonly (b.pageEntry false ((b.seq q).pageAddr l n)) = false) : (entryRequestAct slot va).run b =
      (b.withFw (b.ctl.fw.answeredEntry slot va)).sending (.slot slot)
        (.pageEntry { seq := q, layer := l, page := n, entry := BitVec.ofNat 64 (b.pageEntry false ((b.seq q).pageAddr l n)) }) := by
  have hfilter : ((b.ctl.fw.wanting.filter fun x => x != (slot, va)) ++ [(slot, va)]).filter (fun x => x != (slot, va)) =
      b.ctl.fw.wanting.filter fun x => x != (slot, va) := by
    simp only [List.filter_append, List.filter_filter, Bool.and_self, List.filter_cons, bne_self_eq_false, Bool.false_eq_true, if_false,
      List.filter_nil, List.append_nil]
  generalize hc : b.withFw { b.ctl.fw with wanting := (b.ctl.fw.wanting.filter fun x => x != (slot, va)) ++ [(slot, va)] } = c
  have hview : b.SameView c := by
    rw [← hc]
    exact ⟨rfl, rfl, rfl, rfl, rfl, rfl⟩
  have hentry : ∀ a, c.pageEntry false a = b.pageEntry false a := fun a => by rw [← hc]; rfl
  have hframe' : c.frameOf (b.pageEntry false ((b.seq q).pageAddr l n)) = some f := by
    rw [← hframe, ← hc]
    rfl
  have hwant : (wantEntry slot va true).run b = c := hc
  rw [entryRequestAct, run_look, hawake, run_when_true, run_answerEntry hpage hserves, hwant, makePage, run_look]
  simp only [hview.seq, hentry, hframe', hwrite, Bool.and_false, Bool.not_false, if_true, run_look, answerWith, run_seq]
  rw [PageFw.answeredEntry, ← hfilter, ← hc]
  simp only [wantEntry, run_upd, Bool.false_eq_true, if_false, List.append_nil]
  rfl

theorem run_preempt_boundary {v cause : Nat} (hpass : b.ctl.passOn v = true) : (preempt v cause).run b =
    (toOthers fun _ => .preempt v cause).run (b.withSeqFw v fun s => { s with pre := .pending cause }) := by
  simp only [preempt, run_look, hpass, Bool.true_or, if_true, run_seq]
  rfl

theorem run_victimRequestAct {r q : Nat} {why : VictimWhy} (hawake : b.ctl.awake = true) (hjob : b.ctl.job.inJob = true)
    (hleader : b.ctl.leader = true) (hbusy : b.ctl.preempting = false) (hwhy : why = .pool ∨ why = .flood) :
    (victimRequestAct r q why).run b = match b.victimFor q why with
      | some v => (preempt v (if forFlood why then 2 else 0)).run b
      | none => b.sending (.rank r) (.victim r q (if forFlood why then .noFlood else .noPool)) := by
  rcases hwhy with rfl | rfl
  all_goals
    simp only [victimRequestAct, run_look, hawake, hjob, hleader, hbusy, Bool.not_false, Bool.and_self, run_when_true]
    cases b.victimFor q _ <;> rfl

/-- Control with other tables taken. -/
def Ctl.tabled (c : Ctl) (tables tables2 : List Nat) : Ctl :=
  { c with fw := { c.fw with alloc := { c.fw.alloc with tables := tables } }, pair := { c.pair with tables2 := tables2 } }

/-- The effect writes memory or changes what tables are taken, and nothing else. -/
def Eff.OnTables : Eff → Prop
  | .mem _ _ => True
  | .upd f => ∀ c, f c = c.tabled (f c).fw.alloc.tables (f c).pair.tables2
  | _ => False

/-- The block differs in memory, reservations of LR and the tables taken alone. -/
structure Block.OnTables (b t : Block) : Prop where
  ctl : t.ctl = b.ctl.tabled t.ctl.fw.alloc.tables t.ctl.pair.tables2
  outside : { b with mem := t.mem, lrs := t.lrs }.SameOutside t

theorem Act.Only.onTables {a : Act} (ha : a.Only Eff.OnTables) (b : Block) : b.OnTables (a.run b) := by
  refine Act.Only.keeps b Eff.OnTables (fun t => b.OnTables t) (fun c e he hc => ?_) a ha ⟨rfl, rfl, rfl, rfl, rfl, rfl, rfl, rfl, rfl, rfl, rfl, rfl, rfl⟩
  obtain ⟨hctl, -, h2, h3, h4, h5, h6, h7, h8, h9, -, h11, h12⟩ := hc
  cases e with
  | mem a bs => exact ⟨hctl, rfl, h2, h3, h4, h5, h6, h7, h8, h9, rfl, h11, h12⟩
  | upd f =>
    refine ⟨?_, rfl, h2, h3, h4, h5, h6, h7, h8, h9, rfl, h11, h12⟩
    have htab : ∀ u v, c.ctl.tabled u v = b.ctl.tabled u v := fun u v => by
      rw [hctl]
      rfl
    exact (he c.ctl).trans (htab _ _)
  | _ => exact he.elim

theorem onTables_useTable (second : Bool) (f : Nat) : (useTable second f).Only Eff.OnTables :=
  (only_upd _ _).2 fun c => by cases second <;> rfl

theorem run_mapAliases_none {m : BufferMapMsg} (h : ∀ x ∈ b.ctl.plan.bufs, bufKind x.entry ≠ 6) : (mapAliases m).run b = b := by
  have hnone : (b.ctl.plan.bufs.filter fun x => bufKind x.entry == 6 && u8 x.entry 52 == m.home.val) = [] :=
    List.filter_eq_nil_iff.2 fun x hx => by simp [h x hx]
  simp only [mapAliases, run_look, hnone, run_each_nil]

/-- The job with a peer's buffer map kept. -/
def Job.mapped (j : Job) (m : BufferMapMsg) : Job := { j with maps := j.maps.filter (fun k => k.rank != m.rank) ++ [m] }

theorem run_startCheck_none (h : b.ctl.job.starting = none) : startCheck.run b = b := by
  rw [startCheck, run_look, h, run_opt_none]

theorem run_bufferMapAct {m : BufferMapMsg} (hawake : b.ctl.awake = true) (hloaded : b.ctl.plan.loaded = true) (hstart : b.ctl.job.starting = none) :
    (bufferMapAct m).run b = (mapAliases m).run ({ b with ctl := { b.ctl with job := b.ctl.job.mapped m } } : Block) := by
  have honly := (only_mapAliases (P := Eff.OnTables) (fun _ _ => trivial) onTables_useTable m).onTables
    ({ b with ctl := { b.ctl with job := b.ctl.job.mapped m } } : Block)
  have hrun : (bufferMapAct m).run b = startCheck.run ((mapAliases m).run ({ b with ctl := { b.ctl with job := b.ctl.job.mapped m } } : Block)) := by
    simp only [bufferMapAct, run_look, hawake, hloaded, Bool.and_self, run_when_true, run_seq]
    rfl
  rw [hrun]
  generalize (mapAliases m).run ({ b with ctl := { b.ctl with job := b.ctl.job.mapped m } } : Block) = t at honly
  exact run_startCheck_none ((congrArg (fun c : Ctl => c.job.starting) honly.ctl).trans hstart)

/-! ## Accesses -/

theorem run_each_idle {α : Type} {f : α → Act} : ∀ {xs : List α}, (∀ x ∈ xs, (f x).run b = b) → (Act.each xs f).run b = b := by
  intro xs
  induction xs with
  | nil => exact fun _ => rfl
  | cons x xs ih => exact fun h => by rw [run_each_cons, h x List.mem_cons_self, ih fun y hy => h y (List.mem_cons_of_mem _ hy)]

/-- Records that no page of this module owns have no mirror (R164). -/
theorem run_storedRecords_none {a n : Nat} (h : ∀ u ∈ unitsOf a (a + n) 9, Tab.get 0 b.ctl.fw.alloc.owner (u / 16) = 0) :
    (storedRecords a n).run b = b := by
  refine run_each_idle fun u hu => ?_
  rw [run_look, h u hu]
  rfl

section Load
variable {toRank source va len : Nat} {second : Bool} (hserves : b.ctl.servesRank toRank = some second)
include hserves

/-- A rank's load that translates is answered with the bytes (R269). -/
theorem run_rankLoad_ok (hbad : b.firstBad { second := second, cove := none, tlb := [] } [{ va := va, len := len, write := false }] = none) :
    (rankAccess (.rankLoad toRank source va len)).run b =
      b.sending (.rank source) (.response (b.readVa { second := second, cove := none, tlb := [] } va len)) := by
  simp only [rankAccess, run_look, hserves, run_opt_some, hbad, run_send]

theorem run_rankLoad_error {a : Nat} {w : Bool}
    (hbad : b.firstBad { second := second, cove := none, tlb := [] } [{ va := va, len := len, write := false }] = some (a, w, .accessError)) :
    (rankAccess (.rankLoad toRank source va len)).run b = b.sending (.rank source) .noAnswer := by
  simp only [rankAccess, run_look, hserves, run_opt_some, hbad, run_send]

/-- One whose page is not there waits for firmware, as an access of an agent here does. -/
theorem run_rankLoad_waits {a : Nat} {w : Bool} {x : Xlate} (hx : x = .absent ∨ x = .swapped)
    (hbad : b.firstBad { second := second, cove := none, tlb := [] } [{ va := va, len := len, write := false }] = some (a, w, x)) :
    (rankAccess (.rankLoad toRank source va len)).run b = (raiseFault (.remote b.ctl.fw.nextId) a w second fun id => .upd fun c =>
      { c with fw := { c.fw with remote := c.fw.remote ++ [(id, RemoteReq.rankLoad toRank source va len)] } }).run b := by
  rcases hx with rfl | rfl
  all_goals simp only [rankAccess, run_look, hserves, run_opt_some, hbad]

end Load

/-- A window's port is the one that the answer goes to. -/
theorem port_val (port : Fin 2) : (if port == 1 then 1 else 0) = port.val := by
  have hcases : ∀ p : Fin 2, (if p == 1 then 1 else 0) = p.val := by decide
  exact hcases port

end Peers

/-- Settles O32, message by message: the entry of a leaf table of its own, the answer of a holder, the victim of the leader, the maps of a
peer; and each access as one local to this module, up to what the caches hold. -/
theorem peersAndWindows : Obligations.PeersAndWindows := by
  unfold Obligations.PeersAndWindows
  refine ⟨⟨?entry, ?request, ?victim, ?map⟩, ?access, ?signal, ?load, ?bar2⟩
  case entry =>
    intro s m leaf l3 hawake hrank2 hopen hpage hentry va hleaf hl3 hown
    have hrun := run_pageEntryAct hawake hrank2 hopen hpage hentry hleaf hl3 hown
    have hkeep : (s.block.wrote (entryAddr leaf va 13) (leBytes m.entry.toNat 8)).Keeps { engine := true } _ :=
      (only_dropTlb rfl va (va + 8192)).keepsScope _
    exact ⟨_, runs_of_perform rfl hrun, fun v e he => (clear_dropTlb (va, va + 8192)).cove v e he, hkeep.ctl.fw rfl, hkeep.sameOutside rfl⟩
  case request =>
    intro s slot va q l n f hawake hpage hserves e hframe hwrite
    exact runs_of_perform rfl (run_entryRequestAct hawake hpage hserves hframe hwrite)
  case victim =>
    intro s r q v hawake hleader hjob hbusy why cause below hwhy
    have hcases : (why = .pool ∨ why = .flood) ∧ s.block.victimFor q why = s.block.victim q below ∧ (if forFlood why then 2 else 0) = cause ∧
        (if forFlood why then VictimWhy.noFlood else .noPool) = if why = .flood then .noFlood else .noPool := by
      rcases hwhy with ⟨rfl, rfl, rfl⟩ | ⟨rfl, rfl, rfl⟩
      · exact ⟨.inl rfl, rfl, rfl, rfl⟩
      · exact ⟨.inr rfl, rfl, rfl, rfl⟩
    obtain ⟨hwhy, hvictim, hcause, hflood⟩ := hcases
    have hrun := run_victimRequestAct (r := r) (q := q) hawake hjob hleader hbusy hwhy
    rw [hvictim, hcause, hflood] at hrun
    refine ⟨fun hv hpass => ?_, fun hv => ?_⟩
    · rw [hv] at hrun
      have hrun' := hrun.trans (run_preempt_boundary hpass)
      have hkeep : (s.block.withSeqFw v fun s => { s with pre := .pending cause }).Keeps { out := true } _ :=
        (only_toOthers rfl fun _ => .preempt v cause).keepsScope _
      refine ⟨_, runs_of_perform rfl hrun', ?_, fun k hk hnot => mem_out_toOthers (b := s.block.withSeqFw v fun s => { s with pre := .pending cause })
        (fun _ => .preempt v cause) hk hnot, hkeep.mem rfl, hkeep.host rfl, hkeep.flash rfl, hkeep.nor0 rfl, hkeep.nor1 rfl, hkeep.sems rfl,
        hkeep.arb rfl, hkeep.time rfl, hkeep.fuses rfl, hkeep.lrs rfl, rfl, hkeep.fresh rfl⟩
      rw [Ctl.seqFw, hkeep.ctl.fw rfl]
      simp only [Block.withSeqFw, Ctl.setSeqFw, Tab.get_set_self]
    · rw [hv] at hrun
      exact runs_of_perform rfl hrun
  case map =>
    intro s m hawake hloaded hstart
    have hrun := run_bufferMapAct (m := m) hawake hloaded hstart
    have honly := (only_mapAliases (P := Eff.OnTables) (fun _ _ => trivial) onTables_useTable m).onTables
      ({ s.block with ctl := { s.block.ctl with job := s.block.ctl.job.mapped m } } : Block)
    refine ⟨_, runs_of_perform rfl hrun, honly.ctl, honly.outside, fun hnone => ?_⟩
    rw [run_mapAliases_none (b := { s.block with ctl := { s.block.ctl with job := s.block.ctl.job.mapped m } }) hnone]
    exact ⟨⟨rfl, rfl, rfl, rfl, rfl, rfl, rfl, rfl, rfl, rfl, rfl, rfl⟩, rfl⟩
  case access =>
    intro s slot a n bytes hawake
    refine ⟨?_, fun hbacked howner => ?_, fun hbacked => ?_⟩
    · have hrun : (remoteRequestAct (.load slot a n)).run s.block = if s.block.backedRange a n then
          ((cacheAccess a n false).run s.block).sending (.slot slot.val) (.response (s.block.read a n))
        else s.block.sending (.slot slot.val) .noAnswer := by
        simp only [remoteRequestAct, run_look, hawake, run_when_true]
        cases s.block.backedRange a n <;> rfl
      refine ⟨_, runs_of_perform rfl hrun, ?_⟩
      cases s.block.backedRange a n <;> rfl
    · have hrun : (remoteRequestAct (.store slot a bytes)).run s.block =
          (storedRecords a bytes.length).run (((cacheAccess a bytes.length true).run s.block).wrote a bytes) := by
        simp only [remoteRequestAct, run_look, hawake, run_when_true, hbacked, if_true, run_all_cons, run_all_nil]
        rfl
      rw [run_storedRecords_none (b := ((cacheAccess a bytes.length true).run s.block).wrote a bytes) howner] at hrun
      exact ⟨_, runs_of_perform rfl hrun, rfl⟩
    · refine runs_of_perform rfl ?_
      simp only [remoteRequestAct, run_look, hawake, run_when_true, hbacked, Bool.false_eq_true, if_false]
      rfl
  case signal =>
    intro s r second sem n hawake hserves k
    refine ⟨fun hmax => runs_of_perform rfl ?_, runs_of_perform rfl ?_⟩
    · have hno : semOverflows (s.block.sem k) n.toNat = false := by
        simp only [semOverflows, decide_eq_true hmax, Bool.not_true, Bool.false_and]
      have hrun : (remoteRequestAct (.signal r sem n)).run s.block = if semOverflows (s.block.sem k) n.toNat then
          ({ s.block with sems := Tab.set 0 s.block.sems k (semSignal (s.block.sem k) n.toNat) } : Block).accept 0x0701 0 (poisonDetail k 0xFD 0 0x3FF)
        else { s.block with sems := Tab.set 0 s.block.sems k (semSignal (s.block.sem k) n.toNat) } := by
        simp only [remoteRequestAct, run_look, hawake, run_when_true, hserves, run_opt_some]
        rfl
      rw [hrun, hno, if_neg (by decide)]
    · simp only [remoteRequestAct, run_look, hawake, run_when_true, hserves, run_opt_some]
      rfl
  case load =>
    intro s toRank source va len second hawake hserves r sp bad id
    have hrun : (remoteRequestAct r).run s.block = (rankAccess r).run s.block := by
      simp only [r, remoteRequestAct, run_look, hawake, run_when_true]
    refine ⟨fun hbad => runs_of_perform rfl (hrun.trans (run_rankLoad_ok hserves hbad)),
      fun a w hbad => runs_of_perform rfl (hrun.trans (run_rankLoad_error hserves hbad)), fun a w hbad => ?_⟩
    have hwaits : ∃ x : Xlate, (x = .absent ∨ x = .swapped) ∧ bad = some (a, w, x) := by
      rcases hbad with h | h
      · exact ⟨_, .inl rfl, h⟩
      · exact ⟨_, .inr rfl, h⟩
    obtain ⟨x, hx, hbad⟩ := hwaits
    exact runs_of_perform rfl (hrun.trans (run_rankLoad_waits hserves hx hbad))
  case bar2 =>
    intro s port off n bytes a err
    refine ⟨fun hin => ?_, fun hin => ?_⟩
    · have hrun : (bar2ReadAct (port == 1) off n).run s.block = if s.block.backedRange a n then
          ((cacheAccess a n false).run s.block).sending (.host port.val) (.bar2Data (s.block.read a n))
        else ({ s.block with ctl := err } : Block).sending (.host port.val) (.bar2Data (List.replicate n 0xFF)) := by
        simp only [bar2ReadAct, run_look, hin, run_when_true, port_val, a]
        generalize s.block.backedRange (s.block.ctl.bar2Addr (port == 1) off) n = backed
        cases backed <;> rfl
      refine ⟨_, runs_of_perform rfl hrun, ?_⟩
      cases s.block.backedRange a n <;> rfl
    · have hrun : (bar2WriteAct (port == 1) off bytes).run s.block = if s.block.backedRange a bytes.length then
          ((cacheAccess a bytes.length true).run s.block).wrote a bytes else { s.block with ctl := err } := by
        simp only [bar2WriteAct, run_look, hin, run_when_true, a]
        generalize s.block.backedRange (s.block.ctl.bar2Addr (port == 1) off) bytes.length = backed
        cases backed <;> rfl
      refine ⟨_, runs_of_perform rfl hrun, ?_⟩
      cases s.block.backedRange a bytes.length <;> rfl

end Sys2Proof.Machine


namespace Sys2Proof.Machine

/-! # Waits that complete (R66, R282, R289, R346) -/

section Waits
variable {b : Block}

theorem waitOutcome_met {second : Bool} {sem thresh : Nat} (hclean : semPoisoned (b.sem (semIn second sem)) = false)
    (hcount : thresh ≤ semCount (b.sem (semIn second sem))) : b.waitOutcome second sem thresh = some false := by
  simp only [Block.waitOutcome, hclean, Bool.false_eq_true, if_false, if_pos hcount]

theorem waitOutcome_poisoned {second : Bool} {sem thresh : Nat} (h : semPoisoned (b.sem (semIn second sem)) = true) :
    b.waitOutcome second sem thresh = some true := by
  simp only [Block.waitOutcome, h, if_true]

theorem run_commandWaitAct {id : Nat} {x : Cmd} (hx : b.ctl.cmd id = some x) (hphase : x.phase = .waiting) (hwait : cWait x.bytes = true)
    (hnew : x.waitMet = false) (hsem : waitTrouble b x.bytes = none) {bad : Bool}
    (ho : b.waitOutcome (x.ring == partnerRing) (u16 x.bytes 16) (u32 x.bytes 20) = some bad) : (commandWaitAct id).run b =
      (if bad then finish id .ePoison [] else updCmd id fun y => { y with waitMet := true }).run b := by
  have heq : (Phase.waiting == .waiting) = true := rfl
  simp only [commandWaitAct, run_look, hx, run_opt_some, hphase, heq, hwait, hnew, hsem, Option.isNone_none, Bool.not_false, Bool.and_self,
    run_when_true, ho]
  cases bad <;> rfl

/-! ## Poisoned signals of this module's own semaphores -/

/-- What poison at semaphores of this module leaves: counts, and all but the semaphores. -/
structure Block.Poisons (b t : Block) : Prop where
  keeps : ∀ k, semPoisoned (b.sem k) = true → semPoisoned (t.sem k) = true
  count : ∀ k, semCount (t.sem k) = semCount (b.sem k)
  rest  : t = { b with sems := t.sems }

theorem Block.Poisons.trans {c d : Block} (h : b.Poisons c) (h' : c.Poisons d) : b.Poisons d where
  keeps k hk := h'.keeps k (h.keeps k hk)
  count k := (h'.count k).trans (h.count k)
  rest := by
    rw [h'.rest, h.rest]

theorem poisons_apply (b : Block) (k : Nat) : b.Poisons (Eff.apply b (.poison k)) where
  keeps j hj := by
    by_cases h : j = k
    · rw [h, sem_apply_poison, semPoisoned_semWord]
    · rw [sem_apply_poison_other _ h, hj]
  count j := by
    by_cases h : j = k
    · rw [h, sem_apply_poison, semCount_semWord, Nat.mod_eq_of_lt (semCount_lt _)]
    · rw [sem_apply_poison_other _ h]
  rest := rfl

theorem run_signalEntry_local {g : Nat} (second : Bool) (h : bit g 19 = false) :
    (signalEntry second true g).run b = Eff.apply b (.poison (semIn second (entrySem g))) := by
  simp only [signalEntry, h, Bool.false_eq_true, if_false]
  rfl

/-- Every semaphore of a list of local signals is poisoned, and counts stay (R289). -/
theorem poisons_each (second : Bool) : ∀ (es : List Nat) (b : Block), (∀ g ∈ es, bit g 19 = false) →
    b.Poisons ((Act.each es (signalEntry second true)).run b) ∧
    ∀ g ∈ es, semPoisoned (((Act.each es (signalEntry second true)).run b).sem (semIn second (entrySem g))) = true := by
  intro es
  induction es with
  | nil => exact fun b _ => ⟨⟨fun _ h => h, fun _ => rfl, rfl⟩, fun g hg => absurd hg List.not_mem_nil⟩
  | cons e es ih =>
    intro b hlocal
    have hfirst := poisons_apply b (semIn second (entrySem e))
    obtain ⟨hrest, hall⟩ := ih (Eff.apply b (.poison (semIn second (entrySem e)))) fun g hg => hlocal g (List.mem_cons_of_mem _ hg)
    rw [run_each_cons, run_signalEntry_local second (hlocal e List.mem_cons_self)]
    refine ⟨hfirst.trans hrest, fun g hg => ?_⟩
    rcases List.mem_cons.1 hg with rfl | hg
    · exact hrest.keeps _ (by rw [sem_apply_poison, semPoisoned_semWord])
    · exact hall g hg

/-- The poisoned end of a record that neither moves bytes through an engine nor between ranks: its signals alone (R61, R290). -/
theorem run_endSignals_plain {r : Bytes} {cove : Nat} {second begun sent poison : Bool} (hxfer : rOp r ≠ opXfer) (htide : rOp r ≠ opTide) :
    (endSignals cove second r poison begun sent).run b = b.signalled second r poison := by
  have hx : (rOp r == opXfer) = false := beq_eq_false_iff_ne.2 hxfer
  have ht : (rOp r == opTide) = false := beq_eq_false_iff_ne.2 htide
  simp only [endSignals, run_all_cons, run_all_nil, hx, ht, Bool.and_false, run_when_false]
  rfl

theorem run_updCtx {cove n : Nat} {x : Ctx} (hx : (b.ctl.cove cove).ctx n = some x) (f : Ctx → Ctx) :
    (updCtx cove n f).run b = b.withCove cove fun v => v.setCtx n (some (f x)) := by
  simp only [updCtx, run_upd, Block.withCove, Ctl.setCove, hx, Option.map_some]

end Waits

/-- Settles O34, waiter by waiter: how a wait's outcome ends the command, marks the context, or leaves the queue head with its signals poisoned. -/
theorem waitsComplete : Obligations.WaitsComplete := by
  unfold Obligations.WaitsComplete
  refine ⟨fun s id x hx hphase hwait hnew hsem => ⟨fun hclean hcount => ?_, fun hbad => ?_⟩, ?_, ?_⟩
  · have hrun := run_commandWaitAct hx hphase hwait hnew hsem (waitOutcome_met hclean hcount)
    refine ⟨_, runs_of_perform rfl hrun, find?_map_cmd (f := fun y => { y with waitMet := true }) (fun _ => rfl) hx,
      ⟨fun _ => mem_map_cmd_other _, rfl, rfl, rfl⟩, rfl, rfl, rfl, rfl, rfl, rfl, rfl, rfl, rfl, rfl, rfl, rfl⟩
  · have hrun := run_commandWaitAct hx hphase hwait hnew hsem (waitOutcome_poisoned hbad)
    exact ⟨_, runs_of_perform rfl hrun, ended_finish hx .ePoison [], othersKept_finish _ id .ePoison [],
      rfl, rfl, rfl, rfl, rfl, rfl, rfl, rfl, rfl, rfl, rfl, rfl⟩
  · intro s cove n i x hx hi hmet hbegun hw b
    have hrun : (contextWaitAct cove n i).run s.block =
        countMet.run ((updCtx cove n fun y => { y with met := setMet y.met i, metNo := s.block.ctl.engine.nextMet }).run s.block) := by
      simp only [contextWaitAct, run_look, hx, run_opt_some, decide_eq_true hi, hmet, hbegun, Bool.not_false, Bool.and_self, run_when_true, hw, run_seq]
    rw [run_updCtx hx] at hrun
    exact runs_of_perform rfl hrun
  · intro s cove second i e rest hq hi hmet hheld
    have hrun : ∀ bad, s.block.waitOf second e.record i = some bad → (headWaitAct cove second i).run s.block =
        (if bad then Act.all [flagPass fun f => { f with poisoned := true }, .upd fun c => c.setCove cove fun v => v.setQ second rest,
            endSignals cove second e.record true false false]
          else .upd fun c => c.setCove cove fun v => v.setQ second ({ e with met := setMet e.met i } :: rest)).run s.block := fun bad hbad => by
      simp only [headWaitAct, run_look, hq, decide_eq_true hi, hmet, hheld, Bool.not_false, Bool.and_self, run_when_true, hbad]
      cases bad <;> rfl
    refine ⟨fun hw => runs_of_perform rfl (hrun false hw), fun hw hxfer htide hlocal => ?_⟩
    have hend := hrun true hw
    simp only [if_true, run_all_cons, run_all_nil, run_endSignals_plain hxfer htide] at hend
    generalize hc : (Act.upd fun c => c.setCove cove fun v => v.setQ second rest).run ((flagPass fun f => { f with poisoned := true }).run s.block) = c
      at hend
    have hqueue : (c.ctl.cove cove).q second = rest := by
      rw [← hc, run_upd, Ctl.cove_setCove_same, Cove.q_setQ]
    have hsame : c.mem = s.block.mem ∧ c.host = s.block.host ∧ c.out = s.block.out ∧ c.arb = s.block.arb ∧ c.sems = s.block.sems := by
      rw [← hc]
      exact ⟨rfl, rfl, rfl, rfl, rfl⟩
    obtain ⟨hmem, hhost, hout, harb, hsems⟩ := hsame
    obtain ⟨hpoisons, hall⟩ := poisons_each second (recSignals e.record) c hlocal
    have hsem : ∀ k, c.sem k = s.block.sem k := fun k => by rw [Block.sem, Block.sem, hsems]
    have hrest := hpoisons.rest
    refine ⟨_, runs_of_perform rfl hend, ?_, hall, fun k => (hpoisons.count k).trans (congrArg semCount (hsem k)), ?_⟩
    · exact (congrArg (fun t : Block => (t.ctl.cove cove).q second) hrest).trans hqueue
    · exact ⟨(congrArg Block.mem hrest).trans hmem, (congrArg Block.host hrest).trans hhost, (congrArg Block.out hrest).trans hout,
        (congrArg Block.arb hrest).trans harb⟩

end Sys2Proof.Machine


namespace Sys2Proof.Machine

/-! # Instances that end before any work (R48, R61, R69, R70) -/

section Ends
variable {b : Block} {cove n : Nat} {x : Ctx}

/-- The record's poisoned end sends nothing but its signals: it neither moves bytes through an engine nor between ranks. -/
def Plain (r : Bytes) : Prop := rOp r ≠ opXfer ∧ rOp r ≠ opTide

/-- What the end of a context touches: semaphores, an event of an overflow, board peers, and the engine. -/
def Scope.ends : Scope := { sems := true, arb := true, power := true, out := true, engine := true }

/-- A tree of one kind is one of every wider kind. -/
theorem Act.Only.imp {P Q : Eff → Prop} (h : ∀ e, P e → Q e) (a : Act) (ha : a.Only P) : a.Only Q := by
  induction a with
  | done => trivial
  | eff e k ih => exact ⟨h e ha.1, ih ha.2⟩
  | look f ih => exact fun b => ih b (ha b)

theorem only_signals {S : Scope} (hsems : S.sems = true) (harb : S.arb = true) (hpower : S.power = true) (hout : S.out = true) {a : Act}
    (ha : a.Only Eff.Signals) : a.Only (Eff.In S) :=
  Act.Only.imp (fun e he => by
    cases e <;> simp only [Eff.Signals] at he
    case signal k n => exact ⟨hsems, harb, hpower⟩
    case poison k => exact hsems
    case send d m => exact hout) a ha

/-- The signals at an end of a context: a clean end is nothing more, and so is a poisoned one of a plain record. -/
theorem run_endSignals {r : Bytes} {second begun sent poison : Bool} (hplain : poison = true → Plain r) :
    (endSignals cove second r poison begun sent).run b = b.signalled second r poison := by
  cases poison with
  | true => exact run_endSignals_plain (hplain rfl).1 (hplain rfl).2
  | false =>
    simp only [endSignals, run_all_cons, run_all_nil, Bool.false_and, run_when_false]
    rfl

/-- What the end of a context leaves: its signals sent, its threads stopped, its context free (R48, R61). -/
structure Block.EndsInstance (b t : Block) (cove n : Nat) (x : Ctx) (poison : Bool) : Prop where
  cove  : t.ctl.cove cove = (b.ctl.cove cove).kernelGone n
  sems  : t.sems = (b.signalled x.second x.record poison).sems
  arb   : poison = true → t.arb = b.arb
  keeps : b.Keeps .ends t

theorem Block.EndsInstance.ctx {t : Block} {poison : Bool} (h : b.EndsInstance t cove n x poison) : (t.ctl.cove cove).ctx n = none := by
  rw [h.cove, Cove.ctx_kernelGone]

theorem keeps_signalled (b : Block) (second : Bool) (r : Bytes) (poison : Bool) : b.Keeps .ends (b.signalled second r poison) :=
  (only_signals rfl rfl rfl rfl (only_each _ _ _ (only_signalEntry second poison))).keepsScope b

theorem endsInstance (hx : (b.ctl.cove cove).ctx n = some x) {poison : Bool} (hplain : poison = true → Plain x.record) :
    b.EndsInstance ((endInstance cove n poison).run b) cove n x poison := by
  have hframe := signalFrame_signalled b x.second x.record poison
  have hkeep := keeps_signalled b x.second x.record poison
  have hrun : (endInstance cove n poison).run b = (Act.upd fun c => c.setCove cove fun v => v.setCtx n none).run
      ((stopThreads cove n).run (b.signalled x.second x.record poison)) := by
    simp only [endInstance, run_look, hx, run_opt_some, run_all_cons, run_all_nil, run_endSignals hplain]
  have hstop : (stopThreads cove n).Only (Eff.In { engine := true }) := by
    unfold stopThreads
    exact only_setCove rfl cove fun _ v => _
  have hfree : (Act.upd fun c => c.setCove cove fun v => v.setCtx n none).Only (Eff.In { engine := true }) :=
    only_setCove rfl cove fun _ v => v.setCtx n none
  have htail := (hstop.keepsScope (b.signalled x.second x.record poison)).trans (hfree.keepsScope _)
  have hcove : ((Act.upd fun c => c.setCove cove fun v => v.setCtx n none).run ((stopThreads cove n).run (b.signalled x.second x.record poison))).ctl.cove
      cove = (b.ctl.cove cove).kernelGone n := by
    rw [run_stopThreads, run_upd]
    simp only [Ctl.cove_setCove_same]
    rw [Ctl.cove, hframe.engine]
    rfl
  rw [hrun]
  generalize (Act.upd fun c => c.setCove cove fun v => v.setCtx n none).run ((stopThreads cove n).run (b.signalled x.second x.record poison)) = t
    at htail hcove
  refine ⟨hcove, htail.sems rfl, ?_, hkeep.trans (htail.widen {})⟩
  rintro rfl
  exact (htail.arb rfl).trans (arb_signalled_poison b x.second x.record)

/-- The signals of a context depend on the semaphores, the module's own slot and its pair alone. -/
theorem signalled_of_keeps {S : Scope} {c : Block} (h : b.Keeps S c) (hsems : S.sems = false) (hglb : S.glb = false) (hpair : S.pair = false)
    (second : Bool) (r : Bytes) (poison : Bool) : (c.signalled second r poison).sems = (b.signalled second r poison).sems :=
  Block.SignalsAlike.signalled ⟨h.sems hsems, h.ctl.glb hglb, h.ctl.pair hpair⟩ second r poison

/-! ## Empty and refused contexts -/

/-- A context that may run: its waits are met, it has no fault, has not begun and is the oldest. -/
structure Block.MayGo (b : Block) (cove n op : Nat) (x : Ctx) : Prop where
  ctx    : (b.ctl.cove cove).ctx n = some x
  op     : rOp x.record = op
  met    : waitsMet x.record x.met = true
  fault  : x.fault = none
  begun  : x.begun = false
  oldest : b.ctl.oldest cove x = true

theorem Block.MayGo.run_empty {op : Nat} (h : b.MayGo cove n op x) {extra : Block → Ctx → Bool × Bool × Bool} {zero : Ctx → Bool} {k : Ctx → Act}
    (hextra : extra b x = (false, false, false)) (hmax : overMax x = (false, false, false)) (hzero : x.m = 0 ∨ x.n = 0 ∨ x.k = 0) :
    (runInstance cove n op extra zero k).run b = (emptyInstance cove n).run b := by
  obtain ⟨hx, hop, hwaits, hfault, hbegun, holdest⟩ := h
  have hany : (decide (x.m = 0) || decide (x.n = 0) || decide (x.k = 0) || zero x) = true := by
    rcases hzero with h | h | h <;> simp [h]
  simp only [runInstance, run_look, hx, run_opt_some, hop, beq_self_eq_true, hwaits, hfault, Option.isNone_none, holdest, Bool.and_self, run_when_true,
    hmax, hextra, hbegun, Bool.or_self, Bool.and_false, Bool.not_false, hany, Bool.false_eq_true, if_false, if_true]

theorem Block.MayGo.run_refused {op : Nat} (h : b.MayGo cove n op x) {extra : Block → Ctx → Bool × Bool × Bool} {zero : Ctx → Bool} {k : Ctx → Act}
    (hextra : extra b x = (false, false, false)) {ok on om : Bool} (hmax : overMax x = (ok, on, om)) (hover : (ok || on || om) = true) :
    (runInstance cove n op extra zero k).run b = (refuse cove n false ok on om).run b := by
  obtain ⟨hx, hop, hwaits, hfault, hbegun, holdest⟩ := h
  simp only [runInstance, run_look, hx, run_opt_some, hop, beq_self_eq_true, hwaits, hfault, Option.isNone_none, holdest, Bool.and_self, run_when_true,
    hmax, hextra, hbegun, Bool.or_false, Bool.not_false, Bool.true_and, hover, if_true]

/-- An empty context ends with its signals and counts in EMPTY_OPS (R69). -/
theorem emptyInstance_facts (hx : (b.ctl.cove cove).ctx n = some x) (t : Block) (ht : (emptyInstance cove n).run b = t) :
    (t.ctl.cove cove).ctx n = none ∧ t.sems = (b.signalled x.second x.record false).sems ∧
    Tab.get 0 (t.ctl.cove cove).counters 0x0C = (Tab.get 0 (b.ctl.cove cove).counters 0x0C + 1) % 2 ^ 48 ∧ b.Keeps .ends t := by
  have hcount : b.Keeps { engine := true } ((countCove cove 0x0C 1).run b) := (only_setCove rfl cove _).keepsScope b
  have hcove : ((countCove cove 0x0C 1).run b).ctl.cove cove = { b.ctl.cove cove with counters := addCount (b.ctl.cove cove).counters 0x0C 1 } :=
    Tab.get_set_self _ _ _ _
  rw [emptyInstance, run_seq] at ht
  generalize (countCove cove 0x0C 1).run b = c at ht hcount hcove
  have hx' : (c.ctl.cove cove).ctx n = some x := by
    rw [hcove, ← hx]
    rcases n with _ | _ | _ | n <;> rfl
  have hend := endsInstance hx' (poison := false) (fun h => absurd h (by decide))
  rw [ht] at hend
  refine ⟨hend.ctx, hend.sems.trans (signalled_of_keeps hcount rfl rfl rfl _ _ _), ?_, (hcount.widen {}).trans hend.keeps⟩
  have hgone : ∀ v : Cove, (v.kernelGone n).counters = v.counters := fun v => by
    have hthreads : ((List.range 4).foldl (fun v t => v.setThread t (stopped n (v.thread t))) v).counters = v.counters := rfl
    rw [Cove.kernelGone]
    rcases n with _ | _ | _ | n <;> exact hthreads
  rw [hend.cove, hgone, hcove]
  exact Tab.get_set_self _ _ _ _

/-- A refused context ends poisoned, with SHAPE_EXCEEDED (R70). -/
theorem refuse_facts (hx : (b.ctl.cove cove).ctx n = some x) (hplain : Plain x.record) (table ok on om : Bool) (t : Block)
    (ht : (refuse cove n table ok on om).run b = t) :
    (t.ctl.cove cove).ctx n = none ∧ t.sems = (b.signalled x.second x.record true).sems ∧
    b.Raised t 0x0700 (src 1 cove) (x.op % 2 ^ 32 * 2 ^ 32 + (if table then 2 ^ 27 else 0) + (if ok then 2 ^ 26 else 0) +
      (if on then 2 ^ 25 else 0) + (if om then 2 ^ 24 else 0) + rOp x.record * 2 ^ 16 + cove) ∧
    b.Keeps { Scope.ends with job := true } t := by
  simp only [refuse, run_look, hx, run_opt_some, run_all_cons, run_all_nil] at ht
  generalize x.op % 2 ^ 32 * 2 ^ 32 + _ + _ + _ + _ + _ + cove = detail at ht ⊢
  have hflag : b.Keeps { job := true } ((flagPass fun f => { f with poisoned := true, shape := true }).run b) :=
    (only_job rfl _).keepsScope b
  have harb : b.Raised (((flagPass fun f => { f with poisoned := true, shape := true }).run b).accept 0x0700 (src 1 cove) detail) 0x0700 (src 1 cove)
    detail := rfl
  have hx' : (((flagPass fun f => { f with poisoned := true, shape := true }).run b).ctl.cove cove).ctx n = some x := hx
  generalize (flagPass fun f => { f with poisoned := true, shape := true }).run b = c at ht hflag harb hx'
  rw [run_raise] at ht
  have hraise : c.Keeps .ends (c.accept 0x0700 (src 1 cove) detail) := keeps_accept rfl rfl c _ _ _
  have hsame : b.Keeps { job := true, arb := true, power := true } (c.accept 0x0700 (src 1 cove) detail) :=
    (hflag.widen {}).trans (keeps_accept rfl rfl c _ _ _)
  have hend := endsInstance (b := c.accept 0x0700 (src 1 cove) detail) hx' (poison := true) fun _ => hplain
  rw [ht] at hend
  exact ⟨hend.ctx, hend.sems.trans (signalled_of_keeps hsame rfl rfl rfl _ _ _), (hend.arb rfl).trans harb,
    (hflag.widen {}).trans ((hraise.trans hend.keeps).widen {})⟩

/-- What each of the operations that have a shape does with one that is empty or above its maxima. -/
structure Act.StartsAs (a : Act) (b : Block) (cove n : Nat) (x : Ctx) : Prop where
  empty   : overMax x = (false, false, false) → x.m = 0 ∨ x.n = 0 ∨ x.k = 0 → a.run b = (emptyInstance cove n).run b
  refused : ∀ ok on om, overMax x = (ok, on, om) → (ok || on || om) = true → a.run b = (refuse cove n false ok on om).run b

theorem Block.MayGo.startsAs {op : Nat} (h : b.MayGo cove n op x) {extra : Block → Ctx → Bool × Bool × Bool} {zero : Ctx → Bool} {k : Ctx → Act}
    (hextra : extra b x = (false, false, false)) : (runInstance cove n op extra zero k).StartsAs b cove n x where
  empty hmax hzero := h.run_empty hextra hmax hzero
  refused _ _ _ hmax hover := h.run_refused hextra hmax hover

theorem run_attnDecodeAct_late (hx : (b.ctl.cove cove).ctx n = some x) (hearly : aEarly x.record = false) : (attnDecodeAct cove n).run b =
    (runInstance cove n opDecode attnExtra (fun _ => false) fun x => attnRun cove n x).run b := by
  simp only [attnDecodeAct, run_look, hx, run_opt_some, hearly, Bool.false_and, Bool.false_eq_true, if_false]

theorem Block.MayGo.plain {op : Nat} (h : b.MayGo cove n op x) (hxfer : op ≠ opXfer) (htide : op ≠ opTide) : Plain x.record :=
  ⟨fun h' => hxfer (h.op.symm.trans h'), fun h' => htide (h.op.symm.trans h')⟩

end Ends

/-- Settles O36: what a context's shape makes of its start is the same for every operation that has one. -/
theorem instancesRefusedOrEmpty : Obligations.InstancesRefusedOrEmpty := by
  unfold Obligations.InstancesRefusedOrEmpty
  intro s cove n x op i hop hx hrec hmet hfault hbegun holdest hearly hgemm hattn
  have hgo : s.block.MayGo cove n op x := ⟨hx, hrec, hmet, hfault, hbegun, holdest⟩
  have hstart : ∃ a : Act, exec i s = s.perform a ∧ a.StartsAs s.block cove n x ∧ op ≠ opXfer ∧ op ≠ opTide := by
    rcases hop with ⟨rfl, rfl⟩ | ⟨rfl, rfl⟩ | ⟨rfl, rfl⟩ | ⟨rfl, rfl⟩ | ⟨rfl, rfl⟩ | ⟨rfl, rfl⟩ | ⟨rfl, rfl⟩
    case inl => exact ⟨_, rfl, hgo.startsAs (hgemm (.inl rfl)), by decide, by decide⟩
    case inr.inl => exact ⟨_, rfl, hgo.startsAs (hgemm (.inr rfl)), by decide, by decide⟩
    case inr.inr.inl => exact ⟨_, rfl, hgo.startsAs (hattn (.inl rfl)), by decide, by decide⟩
    case inr.inr.inr.inl =>
      have hlate := run_attnDecodeAct_late hx hearly
      obtain ⟨hempty, hrefused⟩ := hgo.startsAs (zero := fun _ => false) (k := fun x => attnRun cove n x) (hattn (.inr (.inl rfl)))
      exact ⟨attnDecodeAct cove n, rfl, ⟨fun h h' => hlate.trans (hempty h h'), fun _ _ _ h h' => hlate.trans (hrefused _ _ _ h h')⟩, by decide,
        by decide⟩
    case inr.inr.inr.inr.inl => exact ⟨_, rfl, hgo.startsAs rfl, by decide, by decide⟩
    case inr.inr.inr.inr.inr.inl => exact ⟨_, rfl, hgo.startsAs (hattn (.inr (.inr rfl))), by decide, by decide⟩
    case inr.inr.inr.inr.inr.inr => exact ⟨_, rfl, hgo.startsAs rfl, by decide, by decide⟩
  obtain ⟨a, hexec, ⟨hempty, hrefused⟩, hxfer, htide⟩ := hstart
  refine ⟨fun hmax hzero => ?_, fun ok on om hmax hover => ?_⟩
  · obtain ⟨hctx, hsems, hcount, hkeep⟩ := emptyInstance_facts hx _ (hempty hmax hzero).symm
    exact ⟨_, runs_of_perform hexec rfl, hctx, hsems, hcount, hkeep.mem rfl, hkeep.host rfl, hkeep.fuses rfl⟩
  · obtain ⟨hctx, hsems, hraised, hkeep⟩ := refuse_facts hx (hgo.plain hxfer htide) false ok on om _ (hrefused ok on om hmax hover).symm
    simp only [hrec, Bool.false_eq_true, if_false, Nat.add_zero] at hraised
    exact ⟨_, runs_of_perform hexec rfl, hctx, hsems, hraised, hkeep.mem rfl, hkeep.host rfl, hkeep.fuses rfl⟩

end Sys2Proof.Machine


namespace Sys2Proof.Machine

/-! # The index of the vector store (R376, R388, R390, R392 to R396) -/

section Parts
variable {S : Scope} {b u : Block} {id : Nat} {x : Cmd}

/-- A started command that ends after work which leaves the host interface alone. -/
theorem ended_after (hx : b.ctl.cmd id = some x) (hhif : u.ctl.hif = (b.started id).ctl.hif) (st : Status) (r : Bytes) :
    ((finish id st r).run u).Ended id st r ∧ b.OthersKept ((finish id st r).run u) id :=
  ⟨ended_finish ((cmd_of_hif hhif id).trans (cmd_started hx)) st r,
    (othersKept_started b id).trans ((othersKept_of_hif hhif id).trans (othersKept_finish u id st r))⟩

/-- Finishing a command changes the host interface alone. -/
def Scope.finishes : Scope := { hif := true }

theorem keeps_finish (u : Block) (id : Nat) (st : Status) (r : Bytes) : u.Keeps .finishes ((finish id st r).run u) :=
  (only_finish rfl id st r).keepsScope u

theorem run_touchPlace_not {kind : Nat} (h : kind ≠ 1) (b : Block) : (touchPlace kind).run b = b := by
  simp only [touchPlace, beq_eq_false_iff_ne.2 h, run_when_false]

theorem only_touchPlace (h : S.fresh = true) (kind : Nat) : (touchPlace kind).Only (Eff.In S) := by
  simp only [touchPlace, takeFresh, only_when_iff, only_one]
  exact fun _ => h

end Parts

section Batch
variable {b : Block} {id kind : Nat} {x : Cmd}

theorem run_addItems_trouble {i : Nat} {st : Status} (items : Block → List Pending) :
    (addItems id kind (some (i, st)) items).run b = (finish id st (zeroBytes 4 ++ leBytes i 4)).run b := rfl

theorem run_addItems {items : Block → List Pending} (hroom : b.ctl.shoal.batch.length + (items b).length ≤ 4194304)
    (hfits : b.ctl.shoal.payloadFits (b.ctl.shoal.batch ++ items b) = true) :
    (addItems id kind none items).run b = (finish id .ok (leBytes (items b).length 4)).run
      (((touchPlace kind).run b).withShoal fun s => { s with batch := s.batch ++ items b }) := by
  have hfull : (decide (batchMax < b.ctl.shoal.batch.length + (items b).length) || !b.ctl.shoal.payloadFits (b.ctl.shoal.batch ++ items b)) = false := by
    rw [hfits, decide_eq_false (p := batchMax < _) (Nat.not_lt.2 hroom)]
    rfl
  simp only [addItems, run_look, hfull, Bool.false_eq_true, if_false, run_all_cons, run_all_nil]
  rfl

/-- The batch of a command is refused as a whole, or all its items enter: what a started command comes to. -/
theorem addItems_trouble (hx : b.ctl.cmd id = some x) {i : Nat} {st : Status} (items : Block → List Pending) :
    let t := (addItems id kind (some (i, st)) items).run (b.started id)
    t.Ended id st (zeroBytes 4 ++ leBytes i 4) ∧ t.ctl.shoal = b.ctl.shoal ∧ b.SameOutside t ∧ b.OthersKept t id := by
  intro t
  have h := completes_completed hx st (zeroBytes 4 ++ leBytes i 4)
  exact ⟨h.ended, rfl, h.outside, h.others⟩

theorem addItems_enter (hx : b.ctl.cmd id = some x) {items : Block → List Pending} {ps : List Pending} (hps : items (b.started id) = ps)
    (hroom : b.ctl.shoal.batch.length + ps.length ≤ 4194304) (hfits : b.ctl.shoal.payloadFits (b.ctl.shoal.batch ++ ps) = true) :
    let t := (addItems id kind none items).run (b.started id)
    t.Ended id .ok (leBytes ps.length 4) ∧ t.ctl.shoal = { b.ctl.shoal with batch := b.ctl.shoal.batch ++ ps } ∧
      (kind ≠ 1 → b.SameOutside t) ∧ t.mem = b.mem ∧ t.flash = b.flash ∧ b.OthersKept t id := by
  subst hps
  intro t
  have ht : t = _ := run_addItems (b := b.started id) hroom hfits
  have htouch := (only_touchPlace (S := { fresh := true }) rfl kind).keepsScope (b.started id)
  generalize hu : (touchPlace kind).run (b.started id) = u at ht htouch
  have hends := ended_after (u := u.withShoal fun s => { s with batch := s.batch ++ items (b.started id) }) hx (htouch.ctl.hif rfl) .ok
    (leBytes (items (b.started id)).length 4)
  rw [ht]
  refine ⟨hends.1, ?_, fun hkind => ?_, htouch.mem rfl, htouch.flash rfl, hends.2⟩
  · exact congrArg (fun s : Shoal => { s with batch := s.batch ++ items (b.started id) }) (htouch.ctl.shoal rfl)
  · rw [run_touchPlace_not hkind] at hu
    subst hu
    exact ⟨rfl, rfl, rfl, rfl, rfl, rfl, rfl, rfl, rfl, rfl, rfl, rfl⟩

end Batch

section Commit
variable {S : Scope} {b : Block} {id : Nat} {x : Cmd}

/-- What a commit changes before its event: the flash, and the store's snapshot. -/
def Scope.commits : Scope := { flash := true, health := true, shoal := true }

theorem only_flash (h : S.flash = true) (a : Nat) (bytes : Bytes) : (Act.one (.flash a bytes)).Only (Eff.In S) := (only_one _ _).2 h

theorem only_writeMap (h : S.flash = true) (hd : Bytes) (epoch : Nat) (m : Tab Nat) : (writeMap hd epoch m).Only (Eff.In S) := by
  simp only [writeMap, only_look, only_all_cons, only_all_nil, only_each_iff, only_flash h, implies_true, and_self]

/-- The flash of a commit (R392 step 3): versions, payloads, re-rank rows, header and checkpoint. -/
def commitFlash (s : Shoal) (p : CommitPlan) (units : List Nat) (s' : Shoal) : Act :=
  let ext := extentsOf s.payNext s.batch
  let place := fun (v : Node) => match ext.find? fun t => t.1 == v.id with | some t => if t.2.2.isEmpty then v else { v with payload := t.2.1 } | none => v
  Act.all [
    Act.each (p.graph.versions.zip units) (fun (v, u) => .one (.flash (u * 4096) (place v).bytes)),
    Act.each ext (fun t => .one (.flash t.2.1 t.2.2)),
    Act.when (hRerank s.header) (Act.each s.batch fun p => match p with
      | .insert i v _ _ _ => .one (.flash (u64 s.header 40 + i * u32 s.header 48) (rerankBytes (u32 s.header 48) v))
      | .delete _ => .done),
    Act.when (p.header != s.header) (.one (.flash 0 p.header)),
    writeMap p.header s'.epoch s'.nodeMap]

theorem only_commitFlash (h : S.flash = true) (s : Shoal) (p : CommitPlan) (units : List Nat) (s' : Shoal) :
    (commitFlash s p units s').Only (Eff.In S) := by
  simp only [commitFlash, only_all_cons, only_all_nil, only_each_iff, only_when_iff, only_flash h, only_writeMap h, implies_true, and_true, true_and]
  rintro - (_ | _) -
  · exact only_flash h _ _
  · trivial

/-- What follows the flash of a commit: the epoch record in a snapshot, the new state of Shoal, the event, the end. -/
def commitRest (id : Nat) (s' : Shoal) (n : Nat) : Act :=
  Act.all [updShoal fun s => { s with stored := s'.stored }, storeNow, updShoal fun _ => s', raise 0x0800 (src 6 0xFFF) s'.epoch,
    finish id .ok (leBytes s'.epoch 8 ++ leBytes n 4)]

theorem run_indexCommitAct (h : b.MayRun id 0x23 x) (hlegal : indexLegal b x = true) {units : List Nat} {next : Nat}
    (hunits : (b.started id).commitUnits ((b.started id).commitPlan x.bytes) = some (units, next)) :
    let p := (b.started id).commitPlan x.bytes
    let s' := b.ctl.shoal.committed p.header p.graph units next p.gone
    (indexCommitAct id).run b = (commitRest id s' b.ctl.shoal.batch.length).run ((commitFlash b.ctl.shoal p units s').run (b.started id)) := by
  have hshoal : (b.started id).ctl.shoal = b.ctl.shoal := rfl
  rw [indexCommitAct, h.run_startCmd hlegal]
  generalize b.started id = c at hshoal hunits ⊢
  generalize hp : c.commitPlan x.bytes = p at hunits ⊢
  simp only [run_look, hp, hunits, hshoal, commitFlash, commitRest, run_all_cons, run_all_nil] <;> rfl

theorem newest_shoal_store (c : Ctl) (now : Nat) {r : EpochRec} (hr : c.shoal.stored = some r) :
    ∃ n dev, (c.store now).health.newest = some (n, dev) ∧ n.shoal = some r := by
  obtain ⟨n, dev, hnew⟩ := newest_store c now
  refine ⟨_, dev, hnew, ?_⟩
  simp only [Ctl.snapshot, hr]
  rfl

theorem only_storeNow (h : S.health = true) : storeNow.Only (Eff.In S) := fun _ => only_health h _

/-- What the rest of a commit comes to. -/
theorem commitRest_facts (v : Block) (id : Nat) {s' : Shoal} (n : Nat) {r : EpochRec} (hr : s'.stored = some r) :
    ∃ u : Block, (commitRest id s' n).run v = (finish id .ok (leBytes s'.epoch 8 ++ leBytes n 4)).run u ∧
      u.ctl.shoal = s' ∧ v.Raised u 0x0800 (src 6 0xFFF) s'.epoch ∧ (∃ n dev, u.ctl.health.newest = some (n, dev) ∧ n.shoal = s'.stored) ∧
      v.Keeps { health := true, shoal := true, arb := true, power := true } u := by
  have hrun : (commitRest id s' n).run v = (finish id .ok (leBytes s'.epoch 8 ++ leBytes n 4)).run (((updShoal fun _ => s').run
      (storeNow.run ((updShoal fun s => { s with stored := s'.stored }).run v))).accept 0x0800 (src 6 0xFFF) s'.epoch) := by
    simp only [commitRest, run_all_cons, run_all_nil, run_raise]
  refine ⟨_, hrun, rfl, ?_, ?_, ?_⟩
  · exact arb_accept_congr (c := (updShoal fun _ => s').run (storeNow.run ((updShoal fun s => { s with stored := s'.stored }).run v))) rfl rfl rfl _ _ _
  · obtain ⟨n, dev, hnew, hn⟩ := newest_shoal_store (({ v.ctl with shoal := { v.ctl.shoal with stored := s'.stored } } : Ctl)) v.lhTime hr
    exact ⟨n, dev, hnew, hn.trans hr.symm⟩
  · exact (((only_shoal rfl _).keepsScope v).trans ((only_storeNow rfl).keepsScope _)).trans
      (((only_shoal rfl _).keepsScope _).trans (keeps_accept rfl rfl _ _ _ _))

theorem committed_facts (s : Shoal) (p : CommitPlan) (units : List Nat) (next : Nat) :
    (s.committed p.header p.graph units next p.gone).epoch = s.epoch + 1 ∧ (s.committed p.header p.graph units next p.gone).batch = [] ∧
      (s.committed p.header p.graph units next p.gone).versions = [] := ⟨rfl, rfl, rfl⟩

theorem indexCommit_commits (h : b.MayRun id 0x23 x) (hlegal : indexLegal b x = true) {units : List Nat} {next : Nat}
    (hunits : (b.started id).commitUnits ((b.started id).commitPlan x.bytes) = some (units, next)) :
    let p := (b.started id).commitPlan x.bytes
    let m := b.ctl.shoal
    let t := (indexCommitAct id).run b
    t.Ended id .ok (leBytes (m.epoch + 1) 8 ++ leBytes m.batch.length 4) ∧ t.ctl.shoal = m.committed p.header p.graph units next p.gone ∧
      b.Raised t 0x0800 (src 6 0xFFF) (m.epoch + 1) ∧ (∃ n dev, t.ctl.health.newest = some (n, dev) ∧ n.shoal = t.ctl.shoal.stored) ∧
      t.mem = b.mem ∧ t.host = b.host ∧ t.sems = b.sems ∧ t.fuses = b.fuses ∧ t.out = b.out ∧ b.OthersKept t id := by
  intro p m t
  have ht : t = _ := run_indexCommitAct h hlegal hunits
  have hv := (only_commitFlash (S := { flash := true }) rfl b.ctl.shoal p units (m.committed p.header p.graph units next p.gone)).keepsScope (b.started id)
  generalize (commitFlash b.ctl.shoal p units (m.committed p.header p.graph units next p.gone)).run (b.started id) = v at ht hv
  obtain ⟨u, hu, hshoal, hraised, ⟨n, dev, hnew, hn⟩, hkeeps⟩ := commitRest_facts v id (s' := m.committed p.header p.graph units next p.gone) m.batch.length rfl
  obtain ⟨hended, hothers⟩ := ended_after h.cmd_eq ((hkeeps.ctl.hif rfl).trans (hv.ctl.hif rfl)) .ok (leBytes (m.epoch + 1) 8 ++ leBytes m.batch.length 4)
  have hfin := keeps_finish u id .ok (leBytes (m.epoch + 1) 8 ++ leBytes m.batch.length 4)
  have htu : t = _ := ht.trans hu
  have hshoal' := (hfin.ctl.shoal rfl).trans hshoal
  rw [htu]
  refine ⟨hended, hshoal', ?_, ⟨n, dev, (congrArg Health.newest (hfin.ctl.health rfl)).trans hnew, hn.trans (congrArg Shoal.stored hshoal').symm⟩,
    (hkeeps.mem rfl).trans (hv.mem rfl), (hkeeps.host rfl).trans (hv.host rfl), (hkeeps.sems rfl).trans (hv.sems rfl),
    (hkeeps.fuses rfl).trans (hv.fuses rfl), (hkeeps.out rfl).trans (hv.out rfl), hothers⟩
  exact hraised.trans (arb_accept_congr (hv.arb rfl) (hv.time rfl) (congrArg Glb.dualPort (hv.ctl.glb rfl)) _ _ _)

theorem run_indexCommitAct_full (h : b.MayRun id 0x23 x) (hlegal : indexLegal b x = true)
    (hunits : (b.started id).commitUnits ((b.started id).commitPlan x.bytes) = none) : (indexCommitAct id).run b = b.completed id .eCapacity [] := by
  rw [indexCommitAct, h.run_startCmd hlegal]
  generalize hp : (b.started id).commitPlan x.bytes = p at hunits ⊢
  simp only [run_look, hp, hunits]
  rfl

end Commit

section Mount
variable {b : Block} {id : Nat} {x : Cmd}

theorem run_unmountIndex (b : Block) (id : Nat) : (unmountIndex id).run b =
    (finish id .ok (leBytes b.ctl.shoal.epoch 8 ++ leBytes b.ctl.shoal.batch.length 8)).run (b.withShoal Shoal.unmounted) := rfl

theorem Block.SameView.read {c : Block} (h : b.SameView c) (a n : Nat) : c.read a n = b.read a n := by
  rw [read_viewed c, read_viewed b, h.viewed]

/-- Starting a command changes no place that an operand names. -/
theorem readPlace_started (b : Block) (id kind addr len : Nat) : (b.started id).readPlace kind addr len = b.readPlace kind addr len := by
  have hview := (keeps_started (S := { hif := true }) rfl b id).sameView rfl
  unfold Block.readPlace
  split
  · rfl
  · exact hview.readVa _ _ _
  · exact hview.read _ _

/-- The block with a new index of this header and codebook (R395). -/
def Block.indexed (b : Block) (h codes : Bytes) : Block :=
  ({ b with flash := (Memory.write [] 0 h).write 0x1000 codes }.withShoal fun s =>
    { s.unmounted with mounted := true, header := h, mapBytes := mapRegion (hCapacity h), payNext := u64 h 56,
                       stored := some { indexId := 0, epoch := 0, map := 0, check := 0 } }).withHealth fun h => { h with wanted := true }

theorem run_createIndex {c h : Bytes} (hkind : u8 c 41 ≠ 1) (hh : sealHeader (newHeader c) = h)
    (hreach : b.reach (u8 c 41) (u64 c 56) (hDim h * 512) = none) (hfits : headerFits h = true) (hmap : b.mapFits (hCapacity h) = true) :
    (createIndex id c).run b = (finish id .ok (zeroBytes 16)).run (b.indexed h (b.readPlace (u8 c 41) (u64 c 56) (hDim h * 512))) := by
  simp only [createIndex, run_look, hh, hreach, hfits, hmap, Bool.not_true, Bool.or_self, Bool.false_eq_true, if_false, run_all_cons, run_all_nil,
    run_touchPlace_not hkind]
  rfl

/-- The epoch record that a mount recovers (R393). -/
def Ctl.epochStored (c : Ctl) : Option EpochRec := c.shoal.stored <|> (c.health.newest.bind fun n => n.1.shoal)

/-- The header on flash is not the one that the record and the command name. -/
abbrev mountMismatch (g : Bytes) (r : EpochRec) (c : Bytes) : Prop :=
  headerValid g = false ∨ r.indexId ≠ u64 g 8 ∨ r.check ≠ u32 g 4092 ∨ (u64 c 72 ≠ 0 ∧ u64 c 72 ≠ u64 g 8)

theorem mountMismatch_iff (g : Bytes) (r : EpochRec) (c : Bytes) :
    (!headerValid g || r.indexId != u64 g 8 || r.check != u32 g 4092 || (u64 c 72 != 0 && u64 c 72 != u64 g 8)) = true ↔ mountMismatch g r c := by
  simp only [mountMismatch, Bool.or_eq_true, Bool.and_eq_true, Bool.not_eq_true', bne_iff_ne, or_assoc]

theorem run_mountIndex_none {c : Bytes} (hnone : b.ctl.epochStored = none) : (mountIndex id c).run b = (finish id .eState []).run b := by
  simp only [Ctl.epochStored] at hnone
  simp only [mountIndex, run_look, hnone]

section Stored
variable {c : Bytes} {r : EpochRec} (hr : b.ctl.epochStored = some r)
include hr

theorem run_mountIndex_mismatch (h : mountMismatch (b.flash.read 0 4096) r c) : (mountIndex id c).run b = (finish id .eState []).run b := by
  simp only [Ctl.epochStored] at hr
  simp only [mountIndex, run_look, hr, (mountMismatch_iff _ _ _).2 h, if_true]

theorem run_mountIndex_large (h : ¬ mountMismatch (b.flash.read 0 4096) r c) (hmap : b.mapFits (hCapacity (b.flash.read 0 4096)) = false) :
    (mountIndex id c).run b = (finish id .eCapacity []).run b := by
  simp only [Ctl.epochStored] at hr
  simp only [mountIndex, run_look, hr, if_neg (mt (mountMismatch_iff _ _ _).1 h), hmap, Bool.not_false, if_true]

theorem run_mountIndex (h : ¬ mountMismatch (b.flash.read 0 4096) r c) (hmap : b.mapFits (hCapacity (b.flash.read 0 4096)) = true) :
    (mountIndex id c).run b = (finish id .ok (leBytes (b.ctl.shoal.recovered b.flash (b.flash.read 0 4096) r).epoch 8 ++
      leBytes (b.ctl.shoal.recovered b.flash (b.flash.read 0 4096) r).live 8)).run
        (b.withShoal fun _ => b.ctl.shoal.recovered b.flash (b.flash.read 0 4096) r) := by
  simp only [Ctl.epochStored] at hr
  simp only [mountIndex, run_look, hr, if_neg (mt (mountMismatch_iff _ _ _).1 h), hmap, Bool.not_true, Bool.false_eq_true, if_false, run_seq]
  rfl

end Stored

section Modes
variable (h : b.MayRun id 0x24 x) (hlegal : mountLegal b x = true)
include h hlegal

theorem Block.MayRun.run_indexMountAct_mount (hmode : u8 x.bytes 32 = 0) : (indexMountAct id).run b = (mountIndex id x.bytes).run (b.started id) := by
  rw [indexMountAct, h.run_startCmd hlegal]
  simp only [hmode]

theorem Block.MayRun.run_indexMountAct_create (hmode : u8 x.bytes 32 = 1) : (indexMountAct id).run b = (createIndex id x.bytes).run (b.started id) := by
  rw [indexMountAct, h.run_startCmd hlegal]
  simp only [hmode]

theorem Block.MayRun.run_indexMountAct_unmount (hmode : u8 x.bytes 32 = 2) : (indexMountAct id).run b = (unmountIndex id).run (b.started id) := by
  rw [indexMountAct, h.run_startCmd hlegal]
  simp only [hmode]

end Modes

end Mount

section Insert
variable {b : Block} {id : Nat} {x : Cmd}

theorem Block.MayRun.run_indexInsertAct (h : b.MayRun id 0x21 x) (hlegal : indexLegal b x = true)
    (hreach : (b.started id).reach (u8 x.bytes 32) (u64 x.bytes 40) (128 * u32 x.bytes 36) = none) : (indexInsertAct id).run b =
      (addItems id (u8 x.bytes 32) (firstTrouble ((b.started id).insertTrouble x.bytes)) fun b =>
        (b.insertItems x.bytes).map (b.pendingOf (u8 x.bytes 32) (u8 x.bytes 33))).run (b.started id) := by
  rw [indexInsertAct, h.run_startCmd hlegal]
  simp only [run_look, hreach]

theorem Block.MayRun.run_indexDeleteAct (h : b.MayRun id 0x22 x) (hlegal : indexLegal b x = true)
    (hreach : (b.started id).reach (u8 x.bytes 32) (u64 x.bytes 40) (8 * u32 x.bytes 36) = none) : (indexDeleteAct id).run b =
      (addItems id (u8 x.bytes 32) (firstTrouble ((b.started id).deleteTrouble x.bytes)) fun b =>
        (b.deleteItems x.bytes).map fun i => .delete (fld i 0 5)).run (b.started id) := by
  rw [indexDeleteAct, h.run_startCmd hlegal]
  simp only [run_look, hreach]

theorem run_insertWaveAct (hawake : b.ctl.awake = true) (hmounted : b.ctl.shoal.mounted = true)
    (h24 : 24 ≤ countIf Pending.isInsert (b.ctl.shoal.batch.drop b.ctl.shoal.linked)) : insertWaveAct.run b =
      b.withShoal fun m => { m with versions := (b.graph.wave b.ctl.shoal.linked).1.versions, linked := (b.graph.wave b.ctl.shoal.linked).2 } := by
  simp only [insertWaveAct, run_look, hawake, hmounted, decide_eq_true h24, Bool.and_self, run_when_true]
  rfl

theorem run_insertWaveAct_few (h24 : countIf Pending.isInsert (b.ctl.shoal.batch.drop b.ctl.shoal.linked) < 24) : insertWaveAct.run b = b := by
  simp only [insertWaveAct, run_look, decide_eq_false (Nat.not_le.2 h24), Bool.and_false, run_when_false]

theorem run_versionReclaimAct (hawake : b.ctl.awake = true) (hmounted : b.ctl.shoal.mounted = true) (unit : Nat) : (versionReclaimAct unit).run b =
    b.withShoal fun s => { s with
      old := s.old.filter (fun o => o.unit != unit || s.olderThan o.epoch),
      freed := s.freed.filter fun f => f.unit != unit || s.olderThan f.epoch } := by
  simp only [versionReclaimAct, run_look, hawake, hmounted, Bool.and_self, run_when_true]
  rfl

end Insert

/-- MODE 0 mounts what the newest epoch record names, or says what is missing. -/
theorem mountIndex_mounts {s : State} {id : Nat} {x : Cmd} (h : s.block.MayRun id 0x24 x) (hlegal : mountLegal s.block x = true)
    (hmode : u8 x.bytes 32 = 0) : Yields (.indexMount id) s fun t =>
      let c := x.bytes
      let m := s.block.ctl.shoal
      let stored := m.stored <|> (s.block.ctl.health.newest.bind fun n => n.1.shoal)
      let g := s.block.flash.read 0 4096
      (stored = none → t.Ended id .eState [] ∧ t.ctl.shoal = m) ∧
      (∀ r, stored = some r →
        if headerValid g = false ∨ r.indexId ≠ u64 g 8 ∨ r.check ≠ u32 g 4092 ∨ (u64 c 72 ≠ 0 ∧ u64 c 72 ≠ u64 g 8) then
          t.Ended id .eState [] ∧ t.ctl.shoal = m
        else if (s.block.started id).mapFits (hCapacity g) = false then t.Ended id .eCapacity [] ∧ t.ctl.shoal = m
        else t.ctl.shoal = m.recovered s.block.flash g r ∧
          t.Ended id .ok (leBytes t.ctl.shoal.epoch 8 ++ leBytes t.ctl.shoal.live 8)) ∧
      s.block.SameOutside t ∧ s.block.OthersKept t id := by
  have hrun := h.run_indexMountAct_mount hlegal hmode
  have hflash : (s.block.started id).flash = s.block.flash := rfl
  have hshoal : (s.block.started id).ctl.shoal = s.block.ctl.shoal := rfl
  have hends := fun st => completes_completed h.cmd_eq st []
  generalize hg : s.block.flash.read 0 4096 = g
  cases hstored : (s.block.started id).ctl.epochStored with
  | none =>
    have hstored' : s.block.ctl.epochStored = none := hstored
    have hc := hends .eState
    refine ⟨_, runs_of_perform rfl (hrun.trans (run_mountIndex_none hstored)), fun _ => ⟨hc.ended, rfl⟩, fun r hr => ?_, hc.outside, hc.others⟩
    exact absurd (hstored'.symm.trans hr) (by simp)
  | some r =>
    have hstored' : s.block.ctl.epochStored = some r := hstored
    have hsome : s.block.ctl.epochStored ≠ none := by simp [hstored']
    by_cases hmis : mountMismatch g r x.bytes
    · have hc := hends .eState
      refine ⟨_, runs_of_perform rfl (hrun.trans (run_mountIndex_mismatch hstored (by rw [hflash, hg]; exact hmis))), fun hn => absurd hn hsome,
        fun r' hr => ?_, hc.outside, hc.others⟩
      obtain rfl : r = r' := Option.some.inj (hstored'.symm.trans hr)
      rw [if_pos hmis]
      exact ⟨hc.ended, rfl⟩
    · cases hmap : (s.block.started id).mapFits (hCapacity g) with
      | false =>
        have hc := hends .eCapacity
        refine ⟨_, runs_of_perform rfl (hrun.trans (run_mountIndex_large hstored (by rw [hflash, hg]; exact hmis) (by rw [hflash, hg]; exact hmap))),
          fun hn => absurd hn hsome, fun r' hr => ?_, hc.outside, hc.others⟩
        obtain rfl : r = r' := Option.some.inj (hstored'.symm.trans hr)
        rw [if_neg hmis, if_pos hmap]
        exact ⟨hc.ended, rfl⟩
      | true =>
        have hmount := run_mountIndex (id := id) hstored (by rw [hflash, hg]; exact hmis) (by rw [hflash, hg]; exact hmap)
        rw [hflash, hg, hshoal] at hmount
        generalize hm : s.block.ctl.shoal.recovered s.block.flash g r = m at hmount
        obtain ⟨hended, hothers⟩ := ended_after (u := (s.block.started id).withShoal fun _ => m) h.cmd_eq rfl .ok (leBytes m.epoch 8 ++ leBytes m.live 8)
        refine ⟨_, runs_of_perform rfl (hrun.trans hmount), fun hn => absurd hn hsome, fun r' hr => ?_,
          ⟨rfl, rfl, rfl, rfl, rfl, rfl, rfl, rfl, rfl, rfl, rfl, rfl⟩, hothers⟩
        obtain rfl : r = r' := Option.some.inj (hstored'.symm.trans hr)
        rw [if_neg hmis, if_neg (by simp [hmap])]
        exact ⟨hm.symm, hended⟩

/-- Settles O59, command by command. -/
theorem indexUpdates : Obligations.IndexUpdates := by
  refine ⟨?insert, ?delete, ?wave, ?reclaim, ?commit, ?mount⟩
  case insert =>
    intro s id x h hlegal b c items hreach
    have hrun := h.run_indexInsertAct hlegal hreach
    refine ⟨fun i st htrouble => ?_, fun htrouble hroom hfits => ?_⟩
    · rw [htrouble] at hrun
      exact ⟨_, runs_of_perform rfl hrun, addItems_trouble h.cmd_eq _⟩
    · rw [htrouble] at hrun
      exact ⟨_, runs_of_perform rfl hrun, addItems_enter (ps := items) h.cmd_eq rfl hroom hfits⟩
  case delete =>
    intro s id x h hlegal b c items hreach
    have hrun := h.run_indexDeleteAct hlegal hreach
    refine ⟨fun i st htrouble => ?_, fun htrouble hroom hfits => ?_⟩
    · rw [htrouble] at hrun
      exact ⟨_, runs_of_perform rfl hrun, addItems_trouble h.cmd_eq _⟩
    · rw [htrouble] at hrun
      exact ⟨_, runs_of_perform rfl hrun, addItems_enter (ps := items) h.cmd_eq rfl hroom hfits⟩
  case wave =>
    intro s m w hawake hmounted
    exact ⟨fun h24 => runs_of_perform rfl (run_insertWaveAct hawake hmounted h24), fun h24 => runs_of_perform rfl (run_insertWaveAct_few h24)⟩
  case reclaim =>
    intro s unit hawake hmounted
    refine ⟨_, runs_of_perform rfl (run_versionReclaimAct hawake hmounted unit), fun o => ?_, fun o => ?_, rfl⟩
    · simp only [Block.withShoal, List.mem_filter, Bool.or_eq_true, bne_iff_ne]
    · simp only [Block.withShoal, List.mem_filter, Bool.or_eq_true, bne_iff_ne]
  case commit =>
    intro s id x h hlegal b p m
    refine ⟨fun hunits => ?_, fun units next hunits => ?_⟩
    · have hc := completes_completed h.cmd_eq .eCapacity []
      exact ⟨_, runs_of_perform rfl (run_indexCommitAct_full h hlegal hunits), hc.ended, rfl, hc.outside, hc.others⟩
    · obtain ⟨hended, hshoal, hraised, hnew, hrest⟩ := indexCommit_commits h hlegal hunits
      obtain ⟨hepoch, hbatch, hversions⟩ := committed_facts m p units next
      have hrun : Runs (.indexCommit id) s ((indexCommitAct id).run s.block) := runs_of_perform rfl rfl
      generalize (indexCommitAct id).run s.block = t at hended hshoal hraised hnew hrest hrun
      exact ⟨t, hrun, hended, hshoal, (congrArg Shoal.epoch hshoal).trans hepoch, (congrArg Shoal.batch hshoal).trans hbatch,
        (congrArg Shoal.versions hshoal).trans hversions, hraised, hnew, hrest⟩
  case mount =>
    intro s id x h hlegal b c m
    generalize hg : sealHeader (newHeader c) = g
    intro g'
    refine ⟨fun hmode => ?_, fun hmode hkind hreach hfits hmap => ?_, fun hmode => ?_⟩
    · obtain ⟨hended, hothers⟩ := ended_after (u := b.withShoal Shoal.unmounted) h.cmd_eq rfl .ok (leBytes m.epoch 8 ++ leBytes m.batch.length 8)
      exact ⟨_, runs_of_perform rfl ((h.run_indexMountAct_unmount hlegal hmode).trans (run_unmountIndex _ id)), hended, rfl,
        ⟨rfl, rfl, rfl, rfl, rfl, rfl, rfl, rfl, rfl, rfl, rfl, rfl⟩, hothers⟩
    · have hrun := (h.run_indexMountAct_create hlegal hmode).trans (run_createIndex hkind hg hreach hfits hmap)
      have hread : b.readPlace (u8 c 41) (u64 c 56) (hDim g * 512) = s.block.readPlace (u8 c 41) (u64 c 56) (hDim g * 512) :=
        readPlace_started _ _ _ _ _
      rw [hread] at hrun
      generalize s.block.readPlace (u8 c 41) (u64 c 56) (hDim g * 512) = codes at hrun ⊢
      obtain ⟨hended, hothers⟩ := ended_after (u := b.indexed g codes) h.cmd_eq rfl .ok (zeroBytes 16)
      exact ⟨_, runs_of_perform rfl hrun, hended, rfl, rfl, rfl, rfl, rfl, rfl, rfl, rfl, rfl, rfl, rfl, hothers⟩
    · exact mountIndex_mounts h hlegal hmode

end Sys2Proof.Machine


namespace Sys2Proof.Machine

/-! # Searches of the vector store (R370, R371, R376, R382, R384 to R387, R398) -/

/-- Shoal with one search slot set. -/
def Shoal.withSlot (m : Shoal) (k : Nat) (v : Option Search) : Shoal := { m with slots := Tab.set none m.slots k v }

section Start
variable {b : Block} {id : Nat} {x : Cmd}

/-- The search that a SEARCH starts: its query, normalised for the cosine metric, and its filter, read at the start (R380). -/
def Block.searchOf (b : Block) (id : Nat) (c : Bytes) : Search :=
  let place := u8 c 32 % 16
  let dim := hDim b.ctl.shoal.header
  let q := widen (u8 c 34) (b.readPlace place (u64 c 48) (rowBytes (u8 c 34) dim)) dim
  let f := b.readPlace place (u64 c 64) (filterBytes (leNat (b.readPlace place (u64 c 64) 1)))
  Search.fresh id b.ctl.shoal.epoch (if u8 c 33 = 2 then normalise q else q) (if bit (u8 c 35) 3 then some f else none) (u16 c 38) 0

theorem Block.MayRun.run_searchAct_trouble (h : b.MayRun id 0x20 x) (hlegal : indexLegal b x = true) {st : Status}
    (htrouble : (b.started id).searchTrouble x.bytes = some st) : (searchAct id).run b = b.completed id st [] := by
  rw [searchAct, h.run_startCmd hlegal]
  simp only [run_look, htrouble]
  rfl

theorem Block.MayRun.run_searchAct (h : b.MayRun id 0x20 x) (hlegal : indexLegal b x = true) (hok : (b.started id).searchTrouble x.bytes = none)
    {k : Nat} (hslot : (b.started id).ctl.shoal.freeSlot = some k) (hplace : u8 x.bytes 32 % 16 ≠ 1) : (searchAct id).run b =
      (b.started id).withShoal fun m => m.withSlot k (some ((((b.started id).searchOf id x.bytes)).issue (b.started id) x.bytes)) := by
  rw [searchAct, h.run_startCmd hlegal]
  generalize b.started id = c at hok hslot ⊢
  simp only [run_look, hok, hslot, run_seq, run_touchPlace_not hplace, run_opt_some]
  rfl

end Start

section Step
variable {b : Block} {slot : Nat} {r : Search} {x : Cmd}

/-- The traversal is short of results and may go on with a longer list (R385). -/
def Search.widens (u : Search) (c : Bytes) : Prop := bit (u8 c 35) 1 = true ∧ u.survivors.length < u16 c 36 ∧ u.list < u16 c 42

theorem widens_iff (u : Search) (c : Bytes) :
    (bit (u8 c 35) 1 && decide (u.survivors.length < u16 c 36) && decide (u.list < u16 c 42)) = true ↔ u.widens c := by
  simp only [Search.widens, Bool.and_eq_true, decide_eq_true_eq, and_assoc]

variable (hr : Tab.get none b.ctl.shoal.slots slot = some r) (hx : b.ctl.cmd r.cmd = some x) (hwaits : r.waits = [])
include hr hx hwaits

theorem run_searchStepAct_next (hnext : nextBatch (u8 x.bytes 40) (r.step b x.bytes).cand ≠ []) : (searchStepAct slot).run b =
    b.withShoal fun m => m.withSlot slot (some ((r.step b x.bytes).issue b x.bytes)) := by
  have hmore : (nextBatch (u8 x.bytes 40) (r.step b x.bytes).cand).isEmpty = false := List.isEmpty_eq_false_iff.2 hnext
  simp only [searchStepAct, run_look, hr, hx, run_opt_some, hwaits, List.isEmpty_nil, run_when_true, hmore, Bool.not_false, if_true]
  rfl

theorem run_searchStepAct_widens (hnext : nextBatch (u8 x.bytes 40) (r.step b x.bytes).cand = []) (hwide : (r.step b x.bytes).widens x.bytes) :
    (searchStepAct slot).run b = b.withShoal fun m => m.withSlot slot (some ((Search.fresh r.cmd r.epoch r.query r.filter
      (min (2 * (r.step b x.bytes).list) (u16 x.bytes 42)) (r.step b x.bytes).reads).issue b x.bytes)) := by
  simp only [searchStepAct, run_look, hr, hx, run_opt_some, hwaits, List.isEmpty_nil, run_when_true, hnext, Bool.not_true, Bool.false_eq_true, if_false,
    (widens_iff _ _).2 hwide, if_true]
  rfl

theorem run_searchStepAct_finish (hnext : nextBatch (u8 x.bytes 40) (r.step b x.bytes).cand = []) (hwide : ¬ (r.step b x.bytes).widens x.bytes) :
    (searchStepAct slot).run b = (finishSearch slot (r.step b x.bytes) x.bytes).run b := by
  simp only [searchStepAct, run_look, hr, hx, run_opt_some, hwaits, List.isEmpty_nil, run_when_true, hnext, Bool.not_true, Bool.false_eq_true, if_false,
    if_neg (mt (widens_iff _ _).1 hwide)]

end Step

section Finish
variable {b : Block} {slot : Nat} {u : Search} {c : Bytes}

/-- The result entries of a search, padded to K (R386). -/
def resultBytes (k : Nat) (rs : List Cand) : Bytes := rs.flatMap resultEntry ++ (List.replicate (k - rs.length) noResult).flatten

/-- The block with the results in host memory and the search's slot free. -/
def Block.searched (b : Block) (slot addr : Nat) (bytes : Bytes) : Block :=
  { b with host := b.host.write addr bytes }.withShoal fun m => m.withSlot slot none

theorem run_finishSearch (hhost : u8 c 32 / 16 = 0) (hplain : bit (u8 c 35) 2 = false) : (finishSearch slot u c).run b =
    (finish u.cmd (if (u.results b c).1.length < u16 c 36 then .okShort else .ok)
      (leBytes (u.results b c).1.length 2 ++ leBytes u.list 2 ++ leBytes (u.reads + (u.results b c).2) 4 ++ leBytes u.epoch 8)).run
        (b.searched slot (u64 c 56) (resultBytes (u16 c 36) (u.results b c).1)) := by
  simp only [finishSearch, run_look, hplain, Bool.false_eq_true, if_false, run_when_false, run_all_cons, run_all_nil, hhost, writePlace, Nat.add_zero]
  rfl

end Finish

section Reads
variable {b : Block} {slot unit : Nat} {r : Search}

/-- A rebuild is counted (R371). -/
def Shoal.rebuiltOnce (m : Shoal) : Shoal := { m with rebuilds := (m.rebuilds + 1) % 2 ^ 48 }

/-- The unit of a flash channel. -/
def flashUnit (unit : Nat) : UnitRef := { cls := 5, number := flashChannel unit, row := 0, bank := 0 }

/-- A correction that stands neither at half its limit nor at the limit is counted alone. -/
theorem run_correctedError_few {u : UnitRef} {n : Nat} (hn : trendLimit u.cls = some n) {device : Nat} (hfew : (b.trendTimes u device).length < n / 2 + 1)
    (hle : n / 2 + 1 ≤ n) (source : Nat) : (correctedError u device source).run b =
      b.withHealth fun h => h.counted b.lhTime u device source (b.trendTimes u device) := by
  have hhalf : ((b.trendTimes u device).length == n / 2 + 1) = false := beq_eq_false_iff_ne.2 (by omega)
  have hfull : ((b.trendTimes u device).length == n) = false := beq_eq_false_iff_ne.2 (by omega)
  simp only [Block.trendTimes] at hhalf hfull
  simp only [correctedError, run_look, run_all_cons, run_all_nil, run_upd, hn, run_opt_some, run_seq, hhalf, hfull, run_when_false]
  rfl

variable (hr : Tab.get none b.ctl.shoal.slots slot = some r) (hawake : b.ctl.awake = true) (hunit : unit ∈ r.waits)
include hr hawake hunit

theorem run_flashReadAct_spare (hspare : b.ctl.health.spares.flash.contains (flashChannel unit) = true)
    (hrewrite : b.ctl.health.rewriting.contains (flashChannel unit) = true) (o : FlashOutcome) : (flashReadAct slot unit o).run b =
      (b.withShoal fun m => m.withSlot slot (some (r.returned b unit))).withShoal Shoal.rebuiltOnce := by
  simp only [flashReadAct, run_look, hr, run_opt_some, hawake, List.contains_iff_mem.2 hunit, Bool.and_self, run_when_true, run_seq, hspare, hrewrite, if_true]
  rfl

theorem run_flashReadAct_clean (hspare : b.ctl.health.spares.flash.contains (flashChannel unit) = false) {o : FlashOutcome} (ho : o ≠ .failed) :
    (flashReadAct slot unit o).run b = b.withShoal fun m => m.withSlot slot (some (r.returned b unit)) := by
  simp only [flashReadAct, run_look, hr, run_opt_some, hawake, List.contains_iff_mem.2 hunit, Bool.and_self, run_when_true, run_seq, hspare,
    Bool.false_and, Bool.false_eq_true, if_false]
  cases o with
  | clean => rfl
  | retried n => rfl
  | failed => exact absurd rfl ho

theorem run_flashReadAct_failed (hspare : b.ctl.health.spares.flash.contains (flashChannel unit) = false)
    (htrend : (b.trendTimes (flashUnit unit) 0).length < 33) (hcharge : (b.chargeTimes (flashUnit unit)).length < b.ctl.thresh) :
    (flashReadAct slot unit .failed).run b = (((b.withShoal fun m => m.withSlot slot (some (r.returned b unit))).withShoal Shoal.rebuiltOnce).withHealth
      fun h => (h.counted b.lhTime (flashUnit unit) 0 (src 6 (flashChannel unit)) (b.trendTimes (flashUnit unit) 0)).charged b.lhTime (flashUnit unit)
        (b.chargeTimes (flashUnit unit)) unit) := by
  have hsplit : (flashReadAct slot unit .failed).run b = (chargeError (flashUnit unit) true unit .done).run
      ((correctedError (flashUnit unit) 0 (src 6 (flashChannel unit))).run
        ((b.withShoal fun m => m.withSlot slot (some (r.returned b unit))).withShoal Shoal.rebuiltOnce)) := by
    simp only [flashReadAct, run_look, hr, run_opt_some, hawake, List.contains_iff_mem.2 hunit, Bool.and_self, run_when_true, run_seq, hspare,
      Bool.false_and, Bool.false_eq_true, if_false, run_all_cons, run_all_nil]
    rfl
  generalize hc : (b.withShoal fun m => m.withSlot slot (some (r.returned b unit))).withShoal Shoal.rebuiltOnce = c at hsplit ⊢
  have htrend' : c.trendTimes (flashUnit unit) 0 = b.trendTimes (flashUnit unit) 0 := by rw [← hc]; rfl
  have hcharge' : c.chargeTimes (flashUnit unit) = b.chargeTimes (flashUnit unit) := by rw [← hc]; rfl
  have hlim : c.ctl.thresh = b.ctl.thresh := by rw [← hc]; rfl
  have htime : c.lhTime = b.lhTime := by rw [← hc]; rfl
  rw [hsplit, run_correctedError_few (n := 64) rfl (by rw [htrend']; exact htrend) (by decide)]
  generalize hd : (c.withHealth fun h => h.counted c.lhTime (flashUnit unit) 0 (src 6 (flashChannel unit)) (c.trendTimes (flashUnit unit) 0)) = d
  have hcharged : d.chargeTimes (flashUnit unit) = b.chargeTimes (flashUnit unit) := by rw [← hcharge', ← hd]; rfl
  have hthresh : d.ctl.thresh = b.ctl.thresh := by rw [← hlim, ← hd]; rfl
  have htimed : d.lhTime = b.lhTime := by rw [← htime, ← hd]; rfl
  rw [run_chargeError_transient (by rw [hcharged, hthresh]; exact hcharge), hcharged, htimed, ← hd, htime, htrend']
  rfl

end Reads

/-- Settles O58, from a search's start over its batches of reads to its results. -/
theorem searches : Obligations.Searches := by
  refine ⟨?start, ?refused, ?step, ?read⟩
  case start =>
    intro s id x h hlegal b place dim q f
    refine ⟨fun st htrouble => ?_, fun k hok hslot hplace => ?_⟩
    · have hc := completes_completed h.cmd_eq st []
      exact ⟨_, runs_of_perform rfl (h.run_searchAct_trouble hlegal htrouble), hc.ended, rfl, hc.outside, hc.others⟩
    · refine ⟨_, runs_of_perform rfl (h.run_searchAct hlegal hok hslot hplace), ⟨_, cmd_started h.cmd_eq, rfl⟩,
        ⟨rfl, rfl, rfl, rfl, rfl, rfl, rfl, rfl, rfl, rfl, rfl, rfl⟩, othersKept_started s.block id, rfl⟩
  case refused =>
    intro s id x h hlegal
    have hc := completes_completed h.cmd_eq .eState []
    exact ⟨_, runs_of_perform rfl (h.run_startCmd_refused hlegal _), hc.ended, rfl, hc.outside⟩
  case step =>
    intro s slot r x hr hx hwaits c u put widens rs
    refine ⟨fun hnext => ?_, fun hnext hwide => ?_, fun hnext hwide hhost hplain => ?_⟩
    · exact runs_of_perform rfl (run_searchStepAct_next hr hx hwaits hnext)
    · exact runs_of_perform rfl (run_searchStepAct_widens hr hx hwaits hnext hwide)
    · have hrun := (run_searchStepAct_finish hr hx hwaits hnext hwide).trans (run_finishSearch hhost hplain)
      have hcmd : u.cmd = r.cmd := rfl
      change _ = (finish u.cmd _ (leBytes rs.length 2 ++ leBytes u.list 2 ++ leBytes (u.reads + (u.results s.block c).2) 4 ++ leBytes u.epoch 8)).run
        (s.block.searched slot.val (u64 c 56) (resultBytes (u16 c 36) rs)) at hrun
      rw [hcmd] at hrun
      generalize hst : (if rs.length < u16 c 36 then Status.okShort else Status.ok) = st at hrun
      have hended := ended_finish (b := s.block.searched slot.val (u64 c 56) (resultBytes (u16 c 36) rs)) (id := r.cmd) (x := x) hx st
        (leBytes rs.length 2 ++ leBytes u.list 2 ++ leBytes (u.reads + (u.results s.block c).2) 4 ++ leBytes u.epoch 8)
      refine ⟨_, runs_of_perform rfl hrun, rfl, ⟨st, hended, fun hlt => ?_, fun hge => ?_⟩, rfl,
        ⟨rfl, rfl, rfl, rfl, rfl, rfl, rfl, rfl, rfl, rfl, rfl, rfl⟩, othersKept_finish _ _ _ _⟩
      · rw [← hst, if_pos hlt]
      · rw [← hst, if_neg (Nat.not_lt.2 hge)]
  case read =>
    intro s slot unit r hawake hr hunit back ch u rebuilt
    refine ⟨fun hspare hrewrite o => ?_, fun hspare => ⟨?_, fun n => ?_, fun htrend hcharge => ?_⟩⟩
    · exact runs_of_perform rfl (run_flashReadAct_spare hr hawake hunit hspare hrewrite o)
    · exact runs_of_perform rfl (run_flashReadAct_clean hr hawake hunit hspare nofun)
    · exact runs_of_perform rfl (run_flashReadAct_clean hr hawake hunit hspare nofun)
    · exact runs_of_perform rfl (run_flashReadAct_failed hr hawake hunit hspare htrend hcharge)

end Sys2Proof.Machine


namespace Sys2Proof.Machine

/-! # Instructions of a cove core: what follows a fetch (R50, R52, R54) -/

/-! ## Blocks that have fetched -/

/-- One cove is `v`, semaphores are as they were, and board peers alone have been asked for what the accesses need. -/
structure Block.Fetched (b c : Block) (cove : Nat) (second : Bool) (as : List Access) (v : Cove) : Prop where
  one   : b.OneCove c cove v
  asked : b.Asked c cove second as
  sems  : c.sems = b.sems

section Fetched
variable {b c : Block} {cove th : Nat} {second : Bool} {as : List Access} {v : Cove} {u : Thread} {x : Ctx} {w : Nat}

theorem Block.Fetches.run (h : b.Fetches cove th u x w) : ∃ c : Block, b.Fetched c cove x.second [rd u.pc.toNat 4] (b.ctl.cove cove) ∧
    ∀ k, (fetchThen cove th k).run b = (k c u x w 4).run c := by
  obtain ⟨c, hcove, hasked, hsems, hrun⟩ := h.run_fetchThen
  exact ⟨c, ⟨hcove, hasked, hsems⟩, hrun⟩

theorem Block.Fetches.thread_eq (h : b.Fetches cove th u x w) : (b.ctl.cove cove).thread th = u := h.1

theorem Block.Fetches.ctx_eq (h : b.Fetches cove th u x w) : (b.ctl.cove cove).ctx u.ctx = some x := by
  obtain ⟨-, -, hx, -⟩ := h
  exact hx

theorem Block.OneCove.of_ctl {d : Block} (h : b.OneCove c cove v) (hctl : d.ctl = c.ctl) : b.OneCove d cove v := by
  simpa only [Block.OneCove, hctl] using h

theorem Block.Fetched.updThread (h : b.Fetched c cove second as v) (k : Nat) (g : Thread → Thread) :
    b.Fetched ((updThread cove k g).run c) cove second as (v.setThread k (g (v.thread k))) :=
  ⟨h.one.updThread k g, h.asked, h.sems⟩

theorem Block.Fetched.updCtx (h : b.Fetched c cove second as v) (k : Nat) (g : Ctx → Ctx) :
    b.Fetched ((updCtx cove k g).run c) cove second as (v.setCtx k ((v.ctx k).map g)) :=
  ⟨h.one.updCtx k g, h.asked, h.sems⟩

theorem Block.Asked.fresh (h : b.Asked c cove second as) : b.Asked (takeFresh.run c) cove second as := by
  obtain ⟨hmem, hhost, hflash, hnor0, hnor1, -, harb, htime, hfuses, hlrs, hout, -⟩ := h
  exact ⟨hmem, hhost, hflash, hnor0, hnor1, rfl, harb, htime, hfuses, hlrs, hout, rfl⟩

theorem Block.Asked.withSems (h : b.Asked c cove second as) (t : Tab (BitVec 32)) : b.Asked { c with sems := t } cove second as := by
  obtain ⟨hmem, hhost, hflash, hnor0, hnor1, -, harb, htime, hfuses, hlrs, hout, -⟩ := h
  exact ⟨hmem, hhost, hflash, hnor0, hnor1, rfl, harb, htime, hfuses, hlrs, hout, rfl⟩

theorem Block.Fetched.fresh (h : b.Fetched c cove second as v) : b.Fetched (takeFresh.run c) cove second as v :=
  ⟨h.one.of_ctl rfl, h.asked.fresh, h.sems⟩

/-- Every part of every access lies in the module. -/
def Block.Local (b : Block) (sp : Space) (as : List Access) : Prop :=
  ∀ a ∈ as, ∀ p ∈ parts a.va a.len, ∀ write, (write = a.write ∨ write = false) → ∃ addr, b.xlate sp p.1 write = .ok b.slot addr

theorem run_loads_local {sp : Space} (h : b.Local sp as) : (loads sp as).run b = b := by
  simp only [loads, run_look]
  refine run_each_idle fun a ha => run_each_idle fun p hp => ?_
  obtain ⟨addr, hx⟩ := h a (List.mem_filter.1 ha).1 p hp false (.inr rfl)
  simp only [hx, bne_self_eq_false, run_when_false]

theorem remote_local {sp : Space} (h : b.Local sp as) : b.remote sp as = false := by
  simp only [Block.remote, List.any_eq_false]
  intro a ha hany
  obtain ⟨p, hp, hne⟩ := List.any_eq_true.1 hany
  obtain ⟨addr, hx⟩ := h a ha p hp a.write (.inl rfl)
  simp [hx] at hne

theorem firstBad_local {sp : Space} (h : b.Local sp as) : b.firstBad sp as = none := by
  simp only [Block.firstBad, List.findSome?_eq_none_iff]
  intro a ha p hp
  obtain ⟨addr, hx⟩ := h a ha p hp a.write (.inl rfl)
  simp only [hx]

/-- Accesses of what lies in the module change its caches alone. -/
theorem touched_local (h : b.Local (b.ctl.space cove second) as) : ∃ e, b.touched cove second as = b.withEngine e := by
  obtain ⟨e, he⟩ := touch_run_asking cove second as b
  refine ⟨e, ?_⟩
  rw [he]
  simp only [asking, run_look, run_seq, run_loads_local h, remote_local h, run_when_false]

theorem Block.Fetched.touched (h : b.Fetched c cove second as v) {second' : Bool} {as' : List Access}
    (hlocal : c.Local (c.ctl.space cove second') as') : b.Fetched (c.touched cove second' as') cove second as v := by
  have hcove := h.one.touchAs false second' as'
  obtain ⟨e, he⟩ := touched_local hlocal
  refine ⟨hcove, ?_, ?_⟩
  · rw [he]
    exact h.asked
  · rw [he]
    exact h.sems

theorem local_nil (b : Block) (sp : Space) : b.Local sp [] := fun _ h => absurd h List.not_mem_nil

/-- An instruction without accesses sets its thread, behind caches that it does not change. -/
theorem run_accessThen_none (c : Block) (second : Bool) (t t' : Thread) (k : Act) : (accessThen cove th second t t' [] [] k).run c =
    k.run ((updThread cove th fun _ => t').run (c.touched cove second [])) := by
  simp only [accessThen, run_look, List.map_nil, List.append_nil, Block.firstBad, List.findSome?_nil, run_all_cons, run_all_nil, run_each_nil]
  rfl

/-- An instruction that only sets its thread. -/
theorem Block.Fetched.carried (h : b.Fetched c cove second as v) (second' : Bool) (t t' : Thread) :
    b.Fetched ((carryOut cove th second' t (.done t' [] [])).run c) cove second as (v.setThread th t') := by
  rw [carryOut, run_accessThen_none]
  exact (h.touched (local_nil _ _)).updThread th fun _ => t'

/-! ## Custom instructions (Table 02-9) -/

theorem run_nvThen {is : Nv → Bool} {i : Nv} {k : Block → Thread → Ctx → Nat → Nv → Act} (hi : nvOfWord w = some i) (his : is i = true)
    (hrun : ∀ k, (fetchThen cove th k).run b = (k c u x w 4).run c) : (nvThen cove th is k).run b = (k c u x w i).run c := by
  rw [nvThen, hrun]
  simp only [hi, his, beq_self_eq_true, Bool.and_self, run_when_true]

/-- The cove with its thread behind a 4-byte instruction. -/
theorem Block.Fetched.stepped (h : b.Fetched c cove second as v) (hu : v.thread th = u) (f : Thread → Thread) :
    b.Fetched ((stepOn cove th f).run c) cove second as (v.setThread th { (f u) with pc := u.pc + 4 }) := by
  subst hu
  exact h.updThread th fun u => { (f u) with pc := u.pc + 4 }

/-! ## Exceptions (R54) -/

/-- An exception of a kernel's thread ends the kernel poisoned, with its cause and pc. -/
theorem Block.Fetched.trapped (h : b.Fetched c cove second as (b.ctl.cove cove)) (hx : (b.ctl.cove cove).ctx u.ctx = some x)
    (hop : rOp x.record = opKernel) (th cause : Nat) :
    let t := (threadTrap cove th u cause).run c
    (t.ctl.cove cove).ctx u.ctx = none ∧ t.sems = (b.signalled x.second x.record true).sems ∧ t.mem = b.mem ∧
      b.Raised t 0x0701 (src 1 cove) (poisonDetail u.pc.toNat cause th cove) := by
  intro t
  have hd := h.updThread th fun u => u.enterMachine cause
  have hctx : ((b.ctl.cove cove).setThread th (((b.ctl.cove cove).thread th).enterMachine cause)).ctx u.ctx = some x := by
    rw [Cove.ctx_setThread, hx]
  have hrun : t = (endPoisoned cove u.ctx u.pc.toNat cause th).run ((Machine.updThread cove th fun u => u.enterMachine cause).run c) := run_seq _ _ _
  generalize (Machine.updThread cove th fun u => u.enterMachine cause).run c = d at hd hrun
  have ht := hrun.trans (run_endPoisoned_kernel (by rw [hd.one.ctx_eq, hctx]) hop u.pc.toNat cause th)
  obtain ⟨hgone, -, hsems, hmem, -, -, harb⟩ := kernel_ends (c := ((flagPass fun f => { f with poisoned := true }).run d).accept 0x0701 (src 1 cove)
    (poisonDetail u.pc.toNat cause th cove)) hd.one hd.asked hd.sems ⟨rfl, rfl, rfl, rfl, rfl, rfl⟩ rfl hctx hop true
  rw [ht]
  exact ⟨hgone, hsems, hmem, (harb rfl).trans (raised_of_asked hd.one hd.asked rfl)⟩

end Fetched

end Sys2Proof.Machine


namespace Sys2Proof.Machine

/-! # The custom instructions of a cove core (R52, R281, R282, R297, Table 02-9) -/

section Scalar
variable {b c : Block} {cove th : Nat} {second : Bool} {as : List Access} {v : Cove} {u : Thread} {x : Ctx} {w : Nat}

theorem Block.Fetched.withSems (h : b.Fetched c cove second as v) (t : Tab (BitVec 32)) :
    b.OneCove { c with sems := t } cove v ∧ b.Asked { c with sems := t } cove second as := ⟨h.one.of_ctl rfl, h.asked.withSems t⟩

theorem stepped_withSems (hcove : b.OneCove c cove v) (hasked : b.Asked c cove second as) (hu : v.thread th = u) (f : Thread → Thread) :
    b.OneCove ((stepOn cove th f).run c) cove (v.setThread th { (f u) with pc := u.pc + 4 }) ∧ b.Asked ((stepOn cove th f).run c) cove second as := by
  subst hu
  exact ⟨hcove.updThread th fun u => { (f u) with pc := u.pc + 4 }, hasked⟩

section Run
variable (h : b.Fetches cove th u x w)
include h

/-- nv.sig below the largest count. -/
theorem Block.Fetches.nvSig {sem n : Nat} (hw : nvOfWord w = some .sig) (hsem : semIn x.second ((u.rx (bits w 19 15)).toNat % 32768) = sem)
    (hn : (u.rx (bits w 24 20)).toNat % 2 ^ 31 = n) (hmax : semCount (b.sem sem) + n ≤ semMax) :
    let t := (nvSigAct cove th).run b
    (b.OneCove t cove ((b.ctl.cove cove).setThread th { u with pc := u.pc + 4 }) ∧ b.Asked t cove x.second [rd u.pc.toNat 4]) ∧
      t.sems = Tab.set 0 b.sems sem (semSignal (b.sem sem) n) := by
  obtain ⟨c, hc, hrun⟩ := h.run
  have hsame : c.sem sem = b.sem sem := by simp only [Block.sem, hc.sems]
  have hover : semOverflows (c.sem sem) n = false := by
    rw [hsame]
    exact semOverflows_of_lt (le_semMax_iff.1 hmax)
  have hsig : (signalLocal x.second (regSem (u.rx (fRs1 w))) (regAmount (u.rx (fRs2 w))) false).run c =
      { c with sems := Tab.set 0 b.sems sem (semSignal (b.sem sem) n) } := by
    subst hsem hn
    rw [← hc.sems, ← hsame]
    exact apply_signal_plain c _ _ hover
  have ht : (nvSigAct cove th).run b = (stepOn cove th id).run { c with sems := Tab.set 0 b.sems sem (semSignal (b.sem sem) n) } := by
    rw [← hsig]
    exact (run_nvThen hw rfl hrun).trans (run_seq _ _ _)
  obtain ⟨hone, hasked⟩ := hc.withSems (Tab.set 0 b.sems sem (semSignal (b.sem sem) n))
  simp only [ht]
  exact ⟨stepped_withSems hone hasked h.thread_eq id, rfl⟩

theorem Block.Fetches.nvSigp {sem : Nat} (hw : nvOfWord w = some .sigp) (hsem : semIn x.second ((u.rx (bits w 19 15)).toNat % 32768) = sem) :
    let t := (nvSigpAct cove th).run b
    (b.OneCove t cove ((b.ctl.cove cove).setThread th { u with pc := u.pc + 4 }) ∧ b.Asked t cove x.second [rd u.pc.toNat 4]) ∧
      t.sems = Tab.set 0 b.sems sem (semWord (semCount (b.sem sem)) true) := by
  obtain ⟨c, hc, hrun⟩ := h.run
  have hsig : (signalLocal x.second (regSem (u.rx (fRs1 w))) 0 true).run c =
      { c with sems := Tab.set 0 b.sems sem (semWord (semCount (b.sem sem)) true) } := by
    subst hsem
    simp only [Block.sem, ← hc.sems]
    rfl
  have ht : (nvSigpAct cove th).run b = (stepOn cove th id).run { c with sems := Tab.set 0 b.sems sem (semWord (semCount (b.sem sem)) true) } := by
    rw [← hsig]
    exact (run_nvThen hw rfl hrun).trans (run_seq _ _ _)
  obtain ⟨hone, hasked⟩ := hc.withSems (Tab.set 0 b.sems sem (semWord (semCount (b.sem sem)) true))
  simp only [ht]
  exact ⟨stepped_withSems hone hasked h.thread_eq id, rfl⟩

/-- An instruction that moves its thread on, and nothing else. -/
theorem Block.Fetches.steps {a : Act} {f : Thread → Thread} (ha : ∀ c, b.Fetched c cove x.second [rd u.pc.toNat 4] (b.ctl.cove cove) →
      (∀ k, (fetchThen cove th k).run b = (k c u x w 4).run c) → a.run b = (stepOn cove th f).run c) :
    (b.OneCove (a.run b) cove ((b.ctl.cove cove).setThread th { (f u) with pc := u.pc + 4 }) ∧ b.Asked (a.run b) cove x.second [rd u.pc.toNat 4]) ∧
      (a.run b).sems = b.sems := by
  obtain ⟨c, hc, hrun⟩ := h.run
  rw [ha c hc hrun]
  have hs := hc.stepped h.thread_eq f
  exact ⟨⟨hs.one, hs.asked⟩, hs.sems⟩

theorem Block.Fetches.nvWait_goes {p : Bool} (hw : nvOfWord w = some .wait)
    (ho : b.waitOutcome x.second ((u.rx (bits w 19 15)).toNat % 32768) ((u.rx (bits w 24 20)).toNat % 2 ^ 31) = some p) :
    let t := (nvWaitAct cove th).run b
    (b.OneCove t cove ((b.ctl.cove cove).setThread th { (u.wx (bits w 11 7) (if p then 1 else 0)) with pc := u.pc + 4 }) ∧
      b.Asked t cove x.second [rd u.pc.toNat 4]) ∧ t.sems = b.sems := by
  refine h.steps (f := (·.wx (bits w 11 7) (if p then 1 else 0))) fun c hc hrun => ?_
  have ho' : c.waitOutcome x.second (regSem (u.rx (fRs1 w))) (regAmount (u.rx (fRs2 w))) = some p := by
    rw [← ho]
    simp only [Block.waitOutcome, Block.sem, hc.sems]
    rfl
  rw [nvWaitAct, run_nvThen hw rfl hrun]
  simp only [ho']
  rfl

theorem Block.Fetches.nvWait_waits (hw : nvOfWord w = some .wait)
    (ho : b.waitOutcome x.second ((u.rx (bits w 19 15)).toNat % 32768) ((u.rx (bits w 24 20)).toNat % 2 ^ 31) = none) :
    let t := (nvWaitAct cove th).run b
    b.OneCove t cove ((b.ctl.cove cove).setThread th { u with state := .waiting }) ∧ t.sems = b.sems ∧ b.Asked t cove x.second [rd u.pc.toNat 4] := by
  obtain ⟨c, hc, hrun⟩ := h.run
  have ho' : c.waitOutcome x.second (regSem (u.rx (fRs1 w))) (regAmount (u.rx (fRs2 w))) = none := by
    rw [← ho]
    simp only [Block.waitOutcome, Block.sem, hc.sems]
    rfl
  have ht : (nvWaitAct cove th).run b = (updThread cove th fun u => { u with state := .waiting }).run c := by
    rw [nvWaitAct, run_nvThen hw rfl hrun]
    simp only [ho']
  have hs := hc.updThread th fun u => { u with state := .waiting }
  rw [h.thread_eq] at hs
  simp only [ht]
  exact ⟨hs.one, hs.sems, hs.asked⟩

theorem Block.Fetches.nvSemrd (hw : nvOfWord w = some .semrd) :
    let t := (nvSemrdAct cove th).run b
    (b.OneCove t cove ((b.ctl.cove cove).setThread th { (u.wx (bits w 11 7)
      (BitVec.ofNat 64 (b.sem (semIn x.second ((u.rx (bits w 19 15)).toNat % 32768))).toNat)) with pc := u.pc + 4 }) ∧
      b.Asked t cove x.second [rd u.pc.toNat 4]) ∧ t.sems = b.sems := by
  refine h.steps (f := (·.wx (bits w 11 7) (BitVec.ofNat 64 (b.sem (semIn x.second ((u.rx (bits w 19 15)).toNat % 32768))).toNat))) fun c hc hrun => ?_
  rw [nvSemrdAct, run_nvThen hw rfl hrun]
  simp only [Block.sem, hc.sems]
  rfl

/-- What nv.id answers (Table 02-9). -/
def Block.identity (b : Block) (cove th : Nat) (second : Bool) (sel : Nat) : Nat :=
  match sel with
  | 0 => cove
  | 1 => b.ctl.rankOf second
  | 2 => b.ctl.jobP
  | 3 => th
  | _ => cove / 256

theorem Block.Fetches.nvId {sel : Nat} (hw : nvOfWord w = some (.id sel)) :
    let t := (nvIdAct cove th).run b
    (b.OneCove t cove ((b.ctl.cove cove).setThread th { (u.wx (bits w 11 7) (BitVec.ofNat 64 (b.identity cove th x.second sel))) with pc := u.pc + 4 }) ∧
      b.Asked t cove x.second [rd u.pc.toNat 4]) ∧ t.sems = b.sems := by
  refine h.steps (f := (·.wx (bits w 11 7) (BitVec.ofNat 64 (b.identity cove th x.second sel)))) fun c hc hrun => ?_
  obtain ⟨-, -, hctl⟩ := hc.one
  have hpair : c.ctl.pair = b.ctl.pair := hc.one.pair_eq
  have hlinks : c.ctl.links = b.ctl.links := by rw [hctl]
  have hrank : c.ctl.rankOf x.second = b.ctl.rankOf x.second := by simp only [Ctl.rankOf, Ctl.rank, hpair, hlinks]
  have hp : c.ctl.jobP = b.ctl.jobP := by simp only [Ctl.jobP, hlinks]
  rw [nvIdAct, run_nvThen hw rfl hrun]
  rcases sel with _ | _ | _ | _ | sel
  · rfl
  · simp only [Block.identity, ← hrank]
    rfl
  · simp only [Block.identity, ← hp]
    rfl
  · rfl
  · rfl

end Run

end Scalar

/-! ## Work-counter takes (R296, R297) -/

section Takes
variable {b c : Block} {cove th : Nat} {as : List Access} {u : Thread} {x : Ctx} {w : Nat} {ctr cap seq val : Nat} {a : Act}

/-- A take reads the module's memory alone. -/
theorem takeTile_congr (h : c.mem = b.mem) (ctr cap cove seq : Nat) : c.takeTile ctr cap cove seq = b.takeTile ctr cap cove seq := by
  simp only [Block.takeTile, h]

/-- A take writes the module's memory: it serves a tile again and writes nothing, or it writes the next one's key and moves NEXT on. -/
theorem act_takeTile {o : Option Nat} (h : b.takeTile ctr cap cove seq = (o, a)) :
    a = .done ∨ ∃ p q ks ns, a = (Act.one (.mem p ks)).seq (Act.one (.mem q ns)) := by
  have ha : a = (b.takeTile ctr cap cove seq).2 := (congrArg Prod.snd h).symm
  subst ha
  dsimp only [Block.takeTile]
  split
  · exact .inl rfl
  · split
    · exact .inl rfl
    · split
      · exact .inl rfl
      · exact .inr ⟨_, _, _, _, rfl⟩

/-- The writes of a take: memory and reservations change, by the same bytes in blocks of the same memory. -/
theorem run_takeTile {o : Option Nat} (h : b.takeTile ctr cap cove seq = (o, a)) (hmem : c.mem = b.mem) :
    ∃ m l, a.run c = { c with mem := m, lrs := l } ∧ (a.run b).mem = m := by
  rcases act_takeTile h with rfl | ⟨p, q, ks, ns, rfl⟩
  · exact ⟨c.mem, c.lrs, rfl, hmem.symm⟩
  · refine ⟨(c.mem.write p ks).write q ns, _, rfl, ?_⟩
    rw [hmem]
    rfl

theorem Block.OneCove.taken_eq {v : Cove} (h : b.OneCove c cove v) : c.ctl.engine.taken = b.ctl.engine.taken := by
  obtain ⟨-, -, hctl⟩ := h
  rw [hctl]

theorem Block.Fetches.nvTake (h : b.Fetches cove th u x w) (hw : nvOfWord w = some .take) (hsecond : x.second = false)
    (htake : b.takeTile (u.rx (bits w 19 15)).toNat (b.ctl.plan.counterCap (u.rx (bits w 19 15)).toNat) cove (u.rx (bits w 24 20)).toNat = (some val, a)) :
    let t := (nvTakeAct cove th).run b
    (t.ctl.cove cove).thread th = { (u.wx (bits w 11 7) (BitVec.ofNat 64 val)) with pc := u.pc + 4 } ∧ t.mem = (a.run b).mem ∧
      t.ctl.engine.taken = servedList b.ctl.engine.taken (u.rx (bits w 19 15)).toNat cove (u.rx (bits w 24 20)).toNat ∧ t.sems = b.sems ∧
      t.host = b.host ∧ t.arb = b.arb := by
  obtain ⟨c, hc, hrun⟩ := h.run
  obtain ⟨harb, -, -⟩ := hc.asked.arb_time_fuses
  obtain ⟨-, -, hctl⟩ := hc.one
  have hplan : c.ctl.plan = b.ctl.plan := by rw [hctl]
  have htake' : c.takeTile (u.rx (fRs1 w)).toNat (c.ctl.plan.counterCap (u.rx (fRs1 w)).toNat) cove (u.rx (fRs2 w)).toNat = (some val, a) := by
    rw [takeTile_congr hc.asked.mem_eq, hplan]
    exact htake
  obtain ⟨m, l, ha, hm⟩ := run_takeTile htake hc.asked.mem_eq
  have ht : (nvTakeAct cove th).run b = (stepOn cove th fun u => u.wx (fRd w) (BitVec.ofNat 64 val)).run
      ((Machine.served (u.rx (fRs1 w)).toNat cove (u.rx (fRs2 w)).toNat).run { c with mem := m, lrs := l }) := by
    rw [nvTakeAct, run_nvThen hw rfl hrun]
    simp only [hsecond, Bool.false_eq_true, if_false, htake', run_all_cons, run_all_nil, ha]
  have hthread : (c.ctl.cove cove).thread th = u := (hc.one.thread_eq th).trans h.thread_eq
  simp only [ht]
  refine ⟨?_, hm.symm, ?_, hc.sems, hc.asked.host_eq, harb⟩
  · have hs : ((Machine.served (u.rx (fRs1 w)).toNat cove (u.rx (fRs2 w)).toNat).run { c with mem := m, lrs := l }).ctl.cove cove = c.ctl.cove cove := rfl
    simp only [stepOn, updThread, run_upd, Ctl.cove_setCove_same, Cove.thread_setThread, hs, hthread]
    rfl
  · rw [← hc.one.taken_eq]
    rfl

end Takes

/-! ## Vector instructions -/

section Vector
variable {b c : Block} {cove th : Nat} {u : Thread} {x : Ctx} {w : Nat} {v : Nv} {is : Nv → Bool} {f : Env → Thread → Nat → Nv → Option Thread}

/-- A vector instruction that its operands permit writes its thread. -/
theorem Block.Fetches.nvVec_writes (h : b.Fetches cove th u x w) (hw : nvOfWord w = some v) (his : is v = true) {u' : Thread}
    (hf : ∀ e, f e u w v = some u') :
    let t := (nvVec cove th is f).run b
    b.OneCove t cove ((b.ctl.cove cove).setThread th { u' with pc := u'.pc + 4 }) ∧ t.sems = b.sems ∧ b.Asked t cove x.second [rd u.pc.toNat 4] := by
  obtain ⟨c, hc, hrun⟩ := h.run
  have ht : (nvVec cove th is f).run b = (carryOut cove th x.second u (u'.next 4)).run (takeFresh.run c) := by
    rw [nvVec, run_nvThen hw his hrun, run_seq]
    simp only [hf]
  have hs := hc.fresh.carried (th := th) x.second u { u' with pc := u'.pc + 4 }
  simp only [ht]
  exact ⟨hs.one, hs.sems, hs.asked⟩

/-- One that they do not permit is an illegal instruction. -/
theorem Block.Fetches.nvVec_traps (h : b.Fetches cove th u x w) (hw : nvOfWord w = some v) (his : is v = true) (hf : ∀ e, f e u w v = none)
    (hop : rOp x.record = opKernel) :
    let t := (nvVec cove th is f).run b
    (t.ctl.cove cove).ctx u.ctx = none ∧ t.sems = (b.signalled x.second x.record true).sems ∧ t.mem = b.mem ∧
      b.Raised t 0x0701 (src 1 cove) (poisonDetail u.pc.toNat 2 th cove) := by
  obtain ⟨c, hc, hrun⟩ := h.run
  have ht : (nvVec cove th is f).run b = (threadTrap cove th u 2).run (takeFresh.run c) := by
    rw [nvVec, run_nvThen hw his hrun, run_seq]
    simp only [hf]
    rfl
  simp only [ht]
  exact hc.fresh.trapped h.ctx_eq hop th 2

/-- A vector instruction needs SEW 32. -/
theorem nvVector_none (h : u.vt.map (·.sew) ≠ some 32) (n : Nat) : nvVector u n = none := by
  cases hvt : u.vt with
  | none => simp only [nvVector, hvt, Option.bind_none]
  | some ty =>
    rw [hvt] at h
    have hne : ¬ ty.sew = 32 := fun hs => h (congrArg some hs)
    simp only [nvVector, hvt, Option.bind_some, hne, false_and, if_false]

theorem vsincos_none (h : u.vt.map (·.sew) ≠ some 32) (e : Env) (w : Nat) (v : Nv) : vsincos e u w v = none := by
  delta vsincos
  rw [nvVector_none h]
  rfl

end Vector

/-- Settles O41, instruction by instruction. -/
theorem customInstructions : Obligations.CustomInstructions := by
  refine ⟨?scalar, ?vector⟩
  case scalar =>
    intro s cove th u x w h sem amount word after
    refine ⟨?sig, ?sigp, ?goes, ?waits, ?semrd, ?nvid, ?take⟩
    case sig => exact fun hw hmax => ⟨_, runs_of_perform rfl rfl, h.nvSig hw rfl rfl hmax⟩
    case sigp => exact fun hw => ⟨_, runs_of_perform rfl rfl, h.nvSigp hw rfl⟩
    case goes =>
      intro hw hor
      have ho : s.block.waitOutcome x.second ((u.rx (bits w 19 15)).toNat % 32768) amount = some (semPoisoned word) := by
        cases hp : semPoisoned word with
        | true => exact waitOutcome_poisoned hp
        | false => exact waitOutcome_met hp (hor.resolve_left (by simp [hp]))
      exact ⟨_, runs_of_perform rfl rfl, h.nvWait_goes hw ho⟩
    case waits =>
      intro hw hclean hlt
      have ho : s.block.waitOutcome x.second ((u.rx (bits w 19 15)).toNat % 32768) amount = none := by
        have hclean' : semPoisoned (s.block.sem (semIn x.second ((u.rx (bits w 19 15)).toNat % 32768))) = false := hclean
        simp only [Block.waitOutcome, hclean', Bool.false_eq_true, if_false]
        exact if_neg (Nat.not_le.2 hlt)
      exact ⟨_, runs_of_perform rfl rfl, h.nvWait_waits hw ho⟩
    case semrd => exact fun hw => ⟨_, runs_of_perform rfl rfl, h.nvSemrd hw⟩
    case nvid => exact fun sel hw => ⟨_, runs_of_perform rfl rfl, h.nvId hw⟩
    case take => exact fun hw hsecond v a htake => ⟨_, runs_of_perform rfl rfl, h.nvTake hw hsecond htake⟩
  case vector =>
    intro s cove th u x w v h hw i f hcases
    have hvec : ∃ is g, is v = true ∧ exec i s = s.perform (nvVec cove th is g) ∧ (∀ e, f e = g e u w v) ∧
        (u.vt.map (·.sew) ≠ some 32 → ∀ e, f e = none) := by
      rcases hcases with ⟨m, k, rfl, rfl, hf⟩ | ⟨k, rfl, rfl, hf⟩ | ⟨k, rfl, rfl, hf⟩ | ⟨rfl, rfl, hf⟩ | ⟨k, rfl, rfl, hf⟩
      · exact ⟨_, _, rfl, rfl, hf, fun hsew e => by simp only [hf, vcvtN, nvVector_none hsew, Option.bind_none]⟩
      · exact ⟨_, _, rfl, rfl, hf, fun hsew e => by simp only [hf, vcvtW, nvVector_none hsew, Option.bind_none]⟩
      · exact ⟨_, _, rfl, rfl, hf, fun hsew e => by simp only [hf, vmxs, nvVector_none hsew, Option.map_none]⟩
      · exact ⟨_, _, rfl, rfl, hf, fun hsew e => by simp only [hf, vexp2, nvVector_none hsew, Option.bind_none]⟩
      · exact ⟨_, _, rfl, rfl, hf, fun hsew e => (hf e).trans (vsincos_none hsew e w _)⟩
    obtain ⟨is, g, his, hi, hg, hnone⟩ := hvec
    refine ⟨fun _ _ hwrites => ?_, fun hsew hop => ?_⟩
    · obtain ⟨u', hu'⟩ := hwrites
      exact ⟨_, runs_of_perform hi rfl, u', hu', h.nvVec_writes hw his fun e => (hg e).symm.trans (hu' e)⟩
    · exact ⟨_, runs_of_perform hi rfl, h.nvVec_traps hw his (fun e => (hg e).symm.trans (hnone hsew e)) hop⟩

end Sys2Proof.Machine


namespace Sys2Proof.Machine

/-! # Standard instructions of a cove core (R50, R54; the RISC-V manual) -/

/-! ## The lagoons as a thread of the first rank context sees them (R230) -/

section Lagoon
variable {b : Block} {sp : Space} {va : Nat}

theorem region_lagoon1 {two : Bool} {a : Nat} (hlo : lagoonBase + lagoonSize ≤ a) (hhi : a < lagoonBase + 2 * lagoonSize) : region two a = .lagoon 1 := by
  have hddr : ddrSize two ≤ 2 ^ 41 := by cases two <;> decide
  have hd : ddrBase = 0x080000000000 := rfl
  have hs : scratchBase = 0x0F0000000000 := rfl
  have hz : scratchSize = 0x180000 := rfl
  have hl : lagoonBase = 0x0F0040000000 := rfl
  have hy : lagoonSize = 0x18000000 := rfl
  unfold region
  rw [if_neg (by omega), if_neg (by omega), if_neg (by omega), if_neg (by omega), if_neg (by omega), if_pos (by omega)]

theorem xlate_lagoon (hsp : sp.second = false) (hlo : lagoonBase ≤ va) (hhi : va < lagoonBase + 2 * lagoonSize) (write : Bool) :
    b.xlate sp va write = .ok b.slot va := by
  have hs : scratchBase = 0x0F0000000000 := rfl
  have hl : lagoonBase = 0x0F0040000000 := rfl
  have hy : lagoonSize = 0x18000000 := rfl
  have hw : windowBase = 0xFFFF00000000 := rfl
  have h48 : ¬2 ^ 48 ≤ va := by omega
  have hwindow : ¬windowBase ≤ va := by omega
  have hchip : scratchBase ≤ va ∧ va < 0x0F2000000000 := by omega
  simp only [Block.xlate, if_neg h48, if_neg hwindow, if_pos hchip, Block.onChip, hsp]
  by_cases h0 : va < lagoonBase + lagoonSize
  · rw [region_lagoon0 hlo h0]
    rfl
  · rw [region_lagoon1 (Nat.le_of_not_lt h0) hhi]
    rfl

/-- Eight aligned bytes of a lagoon. -/
structure InLagoon (va : Nat) : Prop where
  aligned : va % 8 = 0
  low     : lagoonBase ≤ va
  high    : va + 8 ≤ lagoonBase + 2 * lagoonSize

theorem InLagoon.parts (h : InLagoon va) : parts va 8 = [(va, 8)] := by
  have := h.aligned
  exact parts_of_page (by decide) (by omega)

theorem InLagoon.xlate (h : InLagoon va) (hsp : sp.second = false) (write : Bool) : b.xlate sp va write = .ok b.slot va := by
  have := h.high
  exact xlate_lagoon hsp h.low (by omega) write

theorem InLagoon.local (h : InLagoon va) (hsp : sp.second = false) (write : Bool) : b.Local sp [{ va := va, len := 8, write := write }] := by
  intro a ha p hp w _
  obtain rfl : a = _ := List.mem_singleton.1 ha
  rw [h.parts] at hp
  obtain rfl : p = _ := List.mem_singleton.1 hp
  exact ⟨va, h.xlate hsp w⟩

theorem read_eq_mem {a n : Nat} (h : a + n ≤ semBase) : b.read a n = b.mem.read a n := by
  induction n generalizing a with
  | zero => rfl
  | succ n ih =>
    have hbyte : b.byteAt a = b.mem.byte a := if_neg (by omega)
    rw [Block.read, hbyte, ih (by omega), Memory.read]

theorem InLagoon.natVa (h : InLagoon va) (hsp : sp.second = false) : b.natVa sp va 8 = b.mem.nat va 8 := by
  have hl : lagoonBase = 0x0F0040000000 := rfl
  have hy : lagoonSize = 0x18000000 := rfl
  have hb : semBase = 0x0F1000000000 := rfl
  have hhigh := h.high
  simp only [Block.natVa, Block.readVa, h.parts, List.flatMap_cons, List.flatMap_nil, List.append_nil, h.xlate hsp false, if_true,
    read_eq_mem (b := b) (a := va) (n := 8) (by omega)]
  rfl

theorem InLagoon.run_writeVa (h : InLagoon va) (hsp : sp.second = false) {bytes : Bytes} (hlen : bytes.length = 8) :
    (writeVa sp va bytes).run b = b.wrote va bytes := by
  have hslice : slice bytes 0 8 = bytes := by simp only [slice, List.drop_zero, ← hlen, List.take_length]
  simp only [writeVa, run_look, hlen, h.parts, run_each_cons, run_each_nil, h.xlate hsp true, if_true, Nat.sub_self, hslice]
  rfl

theorem InLagoon.reserveAddr (h : InLagoon va) (hsp : sp.second = false) (write : Bool) : b.reserveAddr sp va write = some va := by
  simp only [Block.reserveAddr, h.xlate hsp write, if_true]

end Lagoon

/-! ## What a standard instruction comes to -/

section Core
variable {b c : Block} {cove th : Nat} {second : Bool} {as : List Access} {v : Cove} {u t' : Thread} {x : Ctx} {w : Nat}

theorem nvOfWord_none (h0 : bits w 6 0 ≠ 0x0B) (h1 : bits w 6 0 ≠ 0x2B) : nvOfWord w = none := by
  simp only [nvOfWord, if_neg h0, if_neg h1]

/-- A standard instruction: the fetch, a free value, and what the instruction does as seen right after the fetch. -/
theorem Block.Fetches.run_core (h : b.Fetches cove th u x w) (hnv : nvOfWord w = none) (hecall : w ≠ ecallWord) :
    ∃ c, b.Fetched c cove x.second [rd u.pc.toNat 4] (b.ctl.cove cove) ∧ (coreInstructionAct cove th).run b =
      (carryOut cove th x.second u (rvAny (c.env cove th x.second) u w 4)).run (takeFresh.run c) := by
  obtain ⟨c, hc, hrun⟩ := h.run
  have hne : (w == ecallWord) = false := beq_eq_false_iff_ne.2 hecall
  refine ⟨c, hc, ?_⟩
  rw [coreInstructionAct, hrun]
  simp only [hnv, hne, Option.isSome_none, Bool.or_self, Bool.and_false, Bool.not_false, run_when_true, run_seq]
  rfl

/-- The opcodes without vector forms. -/
theorem rvAny_scalar {e : Env} (h0 : bits w 6 0 ≠ 0x57) (h1 : bits w 6 0 ≠ 0x07) (h2 : bits w 6 0 ≠ 0x27) : rvAny e u w 4 = rv32 e u w 4 := by
  simp only [rvAny, if_neg h0, h1, h2, false_and, if_false]

/-- An opcode of the standard scalar instructions that a program without floating point uses. -/
def scalarOp (op : Nat) : Prop := op ≠ 0x0B ∧ op ≠ 0x2B ∧ op ≠ 0x73 ∧ op ≠ 0x57 ∧ op ≠ 0x07 ∧ op ≠ 0x27

theorem Block.Fetches.run_scalar (h : b.Fetches cove th u x w) (hop : scalarOp (bits w 6 0)) :
    ∃ c, b.Fetched c cove x.second [rd u.pc.toNat 4] (b.ctl.cove cove) ∧ (coreInstructionAct cove th).run b =
      (carryOut cove th x.second u (rv32 (c.env cove th x.second) u w 4)).run (takeFresh.run c) := by
  obtain ⟨h0B, h2B, h73, h57, h07, h27⟩ := hop
  have hecall : w ≠ ecallWord := fun hw => h73 (by rw [hw]; rfl)
  obtain ⟨c, hc, hrun⟩ := h.run_core (nvOfWord_none h0B h2B) hecall
  refine ⟨c, hc, ?_⟩
  rw [hrun, rvAny_scalar h57 h07 h27]

/-- An instruction that only sets its thread. -/
theorem Block.Fetches.computes (h : b.Fetches cove th u x w) (hop : scalarOp (bits w 6 0)) (hdo : ∀ e, rv32 e u w 4 = .done t' [] []) :
    let t := (coreInstructionAct cove th).run b
    b.OneCove t cove ((b.ctl.cove cove).setThread th t') ∧ t.sems = b.sems ∧ b.Asked t cove x.second [rd u.pc.toNat 4] := by
  obtain ⟨c, hc, hrun⟩ := h.run_scalar hop
  have hs := hc.fresh.carried (th := th) x.second u t'
  simp only [hrun, hdo]
  exact ⟨hs.one, hs.sems, hs.asked⟩

/-! ## Accesses of a lagoon -/

theorem Block.Fetched.asked_wrote (h : b.Fetched c cove second as v) (a : Nat) (bytes : Bytes) :
    { b.wrote a bytes with out := (b.touched cove second as).out }.Untouched (c.wrote a bytes) := by
  obtain ⟨hmem, hhost, hflash, hnor0, hnor1, -, harb, htime, hfuses, hlrs, hout, -⟩ := h.asked
  exact ⟨congrArg (Memory.write · a bytes) hmem, hhost, hflash, hnor0, hnor1, rfl, harb, htime, hfuses, congrArg (List.filter _) hlrs, hout, rfl⟩

/-- An instruction whose accesses lie in the module. -/
theorem run_accessThen_local {reads : List Access} {stores : List (Nat × Bytes)} (t t' : Thread) (k : Act)
    (hlocal : c.Local (c.ctl.space cove second) (reads ++ stores.map fun (va, bs) => wr va bs.length)) :
    (accessThen cove th second t t' reads stores k).run c = k.run ((updThread cove th fun _ => t').run
      ((Act.each stores fun (va, bs) => writeVa (c.ctl.space cove second) va bs).run
        (c.touched cove second (reads ++ stores.map fun (va, bs) => wr va bs.length)))) := by
  simp only [accessThen, run_look, firstBad_local hlocal, run_all_cons, run_all_nil]
  rfl

/-- A store of eight bytes into a lagoon: the bytes are written, then the thread goes on. -/
theorem Block.Fetched.run_store (h : b.Fetched c cove second as v) {va : Nat} (hva : InLagoon va) {bytes : Bytes} (hlen : bytes.length = 8)
    (u t' : Thread) (k : Act) : ∃ d, b.Fetched d cove second as v ∧ (accessThen cove th false u t' [] [(va, bytes)] k).run c =
      k.run ((Machine.updThread cove th fun _ => t').run (d.wrote va bytes)) := by
  have hlocal : c.Local (c.ctl.space cove false) [wr va 8] := hva.local rfl true
  refine ⟨_, h.touched hlocal, ?_⟩
  have hrun := run_accessThen_local (th := th) (reads := []) (stores := [(va, bytes)]) u t' k (by
    simpa only [List.map_cons, List.map_nil, List.nil_append, hlen] using hlocal)
  simp only [hrun, List.map_cons, List.map_nil, List.nil_append, hlen, run_each_cons, run_each_nil]
  rw [hva.run_writeVa rfl hlen]

/-- What the thread's instruction leaves behind where it wrote and set its thread. -/
theorem Block.Fetched.stored (h : b.Fetched c cove second as v) (th a : Nat) (bytes : Bytes) (t' : Thread) :
    let t := (Machine.updThread cove th fun _ => t').run (c.wrote a bytes)
    b.OneCove t cove (v.setThread th t') ∧ t.sems = b.sems ∧ { b.wrote a bytes with out := (b.touched cove second as).out }.Untouched t := by
  have hone : b.OneCove (c.wrote a bytes) cove v := h.one.of_ctl rfl
  exact ⟨hone.updThread th fun _ => t', h.sems, h.asked_wrote a bytes⟩

theorem Block.Fetches.stores (h : b.Fetches cove th u x w) (hop : scalarOp (bits w 6 0)) (hsecond : x.second = false) {va : Nat} (hva : InLagoon va)
    {bytes : Bytes} (hlen : bytes.length = 8) (hdo : ∀ e, rv32 e u w 4 = .done t' [] [(va, bytes)]) :
    let t := (coreInstructionAct cove th).run b
    b.OneCove t cove ((b.ctl.cove cove).setThread th t') ∧ t.sems = b.sems ∧
      { b.wrote va bytes with out := (b.touched cove x.second [rd u.pc.toNat 4]).out }.Untouched t := by
  obtain ⟨c, hc, hrun⟩ := h.run_scalar hop
  obtain ⟨d, hd, haccess⟩ := hc.fresh.run_store (th := th) hva hlen u t' .done
  have ht : (coreInstructionAct cove th).run b = (updThread cove th fun _ => t').run (d.wrote va bytes) := by
    rw [hrun, hdo, hsecond]
    exact haccess
  simp only [ht]
  exact hd.stored th va bytes t'

/-- LR of eight bytes of a lagoon: the thread reserves them and reads them. -/
theorem Block.Fetches.reserves (h : b.Fetches cove th u x w) (hop : scalarOp (bits w 6 0)) (hsecond : x.second = false) {va : Nat} (hva : InLagoon va)
    (hdo : ∀ e : Env, e.sp.second = false → e.b.mem = b.mem → rv32 e u w 4 = .lr t' va 8) :
    let t := (coreInstructionAct cove th).run b
    b.OneCove t cove ((b.ctl.cove cove).setThread th t') ∧ t.sems = b.sems ∧
      { b with out := (b.touched cove x.second [rd u.pc.toNat 4]).out, lrs := reserveOf b.lrs cove th (some (va, 8)) }.Untouched t := by
  obtain ⟨c, hc, hrun⟩ := h.run_scalar hop
  have hlocal : (takeFresh.run c).Local ((takeFresh.run c).ctl.space cove false) [rd va 8] := hva.local rfl false
  have hd := hc.fresh.touched hlocal
  have haccess := run_accessThen_local (th := th) (c := takeFresh.run c) (stores := []) u t' (.look fun b =>
    .one (.reserve cove th ((b.reserveAddr (b.ctl.space cove false) va false).map fun a => (a, 8)))) (by simpa using hlocal)
  have ht : (coreInstructionAct cove th).run b = (Act.look fun b =>
      .one (.reserve cove th ((b.reserveAddr (b.ctl.space cove false) va false).map fun a => (a, 8)))).run
        ((updThread cove th fun _ => t').run ((takeFresh.run c).touched cove false [rd va 8])) := by
    rw [hrun, hdo (c.env cove th x.second) hsecond hc.asked.mem_eq, hsecond]
    exact haccess
  generalize (takeFresh.run c).touched cove false [rd va 8] = d at hd ht
  rw [run_look, hva.reserveAddr rfl] at ht
  obtain ⟨hmem, hhost, hflash, hnor0, hnor1, -, harb, htime, hfuses, hlrs, hout, -⟩ := hd.asked
  have hone := hd.one.updThread th fun _ => t'
  simp only [ht]
  exact ⟨hone.of_ctl rfl, hd.sems, hmem, hhost, hflash, hnor0, hnor1, rfl, harb, htime, hfuses, congrArg (reserveOf · cove th (some (va, 8))) hlrs, hout,
    rfl⟩

/-- SC: the thread's reservation ends, and the store happens where it held. -/
theorem Block.Fetches.conditional (h : b.Fetches cove th u x w) (hop : scalarOp (bits w 6 0)) (hsecond : x.second = false) {va : Nat} (hva : InLagoon va)
    {bytes : Bytes} (hlen : bytes.length = 8) {held : Bool}
    (hdo : ∀ e : Env, e.sp.second = false → e.b.lrs = b.lrs → e.cove = cove → e.th = th → rv32 e u w 4 = .sc t' (if held then [(va, bytes)] else [])) :
    let t := (coreInstructionAct cove th).run b
    let c := if held then b.wrote va bytes else b
    b.OneCove t cove ((b.ctl.cove cove).setThread th t') ∧ t.sems = b.sems ∧
      { c with out := (b.touched cove x.second [rd u.pc.toNat 4]).out, lrs := reserveOf c.lrs cove th none }.Untouched t := by
  obtain ⟨c, hc, hrun⟩ := h.run_scalar hop
  have hlrs : c.lrs = b.lrs := by
    obtain ⟨-, -, -, -, -, -, -, -, -, hlrs, -⟩ := hc.asked
    exact hlrs
  rw [hdo (c.env cove th x.second) hsecond hlrs rfl rfl, hsecond] at hrun
  cases held with
  | true =>
    obtain ⟨d, hd, haccess⟩ := hc.fresh.run_store (th := th) hva hlen u t' (.one (.reserve cove th none))
    have ht := hrun.trans haccess
    obtain ⟨hone, hsems, hmem, hhost, hflash, hnor0, hnor1, -, harb, htime, hfuses, hlrs, hout, -⟩ := hd.stored th va bytes t'
    simp only [ht]
    exact ⟨hone.of_ctl rfl, hsems, hmem, hhost, hflash, hnor0, hnor1, rfl, harb, htime, hfuses, congrArg (reserveOf · cove th none) hlrs, hout, rfl⟩
  | false =>
    have ht := hrun.trans (run_accessThen_none (takeFresh.run c) false u t' (.one (.reserve cove th none)))
    have hd := hc.fresh.touched (local_nil (takeFresh.run c) ((takeFresh.run c).ctl.space cove false))
    generalize (takeFresh.run c).touched cove false [] = d at hd ht
    obtain ⟨hmem, hhost, hflash, hnor0, hnor1, -, harb, htime, hfuses, hlrs, hout, -⟩ := hd.asked
    simp only [ht]
    exact ⟨(hd.one.updThread th fun _ => t').of_ctl rfl, hd.sems, hmem, hhost, hflash, hnor0, hnor1, rfl, harb, htime, hfuses,
      congrArg (reserveOf · cove th none) hlrs, hout, rfl⟩

end Core

/-! ## The instructions -/

section Decode
variable {b : Block} {cove th : Nat} {u : Thread} {x : Ctx} {w : Nat}

theorem scalarOp_of_eq {op : Nat} (h : bits w 6 0 = op) (hop : op = 0x13 ∨ op = 0x33 ∨ op = 0x63 ∨ op = 0x6F ∨ op = 0x23 ∨ op = 0x2F) :
    scalarOp (bits w 6 0) := by
  subst h
  simp only [scalarOp]
  omega

section Rv32
variable (e : Env)

theorem rv32_addi (hop : bits w 6 0 = 0x13) (hf3 : bits w 14 12 = 0) : rv32 e u w 4 =
    .done { (u.wx (bits w 11 7) (u.rx (bits w 19 15) + sext 12 (bits w 31 20))) with pc := u.pc + 4 } [] [] := by
  have hpc : ∀ n v, (u.wx n v).pc = u.pc := fun n v => by rw [Thread.wx]; split <;> rfl
  simp only [rv32, hop, hf3, Thread.next, alu, immI, hpc]
  rfl

theorem rv32_add (hop : bits w 6 0 = 0x33) (hf3 : bits w 14 12 = 0) (hf7 : bits w 31 25 = 0) : rv32 e u w 4 =
    .done { (u.wx (bits w 11 7) (u.rx (bits w 19 15) + u.rx (bits w 24 20))) with pc := u.pc + 4 } [] [] := by
  have hpc : ∀ n v, (u.wx n v).pc = u.pc := fun n v => by rw [Thread.wx]; split <;> rfl
  simp only [rv32, hop, hf3, hf7, Thread.next, alu, hpc]
  rfl

theorem rv32_sub (hop : bits w 6 0 = 0x33) (hf3 : bits w 14 12 = 0) (hf7 : bits w 31 25 = 0x20) : rv32 e u w 4 =
    .done { (u.wx (bits w 11 7) (u.rx (bits w 19 15) - u.rx (bits w 24 20))) with pc := u.pc + 4 } [] [] := by
  have hpc : ∀ n v, (u.wx n v).pc = u.pc := fun n v => by rw [Thread.wx]; split <;> rfl
  simp only [rv32, hop, hf3, hf7, Thread.next, alu, hpc]
  rfl

theorem rv32_beq (hop : bits w 6 0 = 0x63) (hf3 : bits w 14 12 = 0) : rv32 e u w 4 =
    .done { u with pc := u.pc + (if u.rx (bits w 19 15) = u.rx (bits w 24 20) then immB w else 4) } [] [] := by
  simp only [rv32, hop, hf3, branchTaken]
  by_cases heq : u.rx (bits w 19 15) = u.rx (bits w 24 20)
  · rw [if_pos heq, beq_iff_eq.2 heq]
  · rw [if_neg heq, beq_eq_false_iff_ne.2 heq]
    rfl

theorem rv32_jal (hop : bits w 6 0 = 0x6F) : rv32 e u w 4 =
    .done { (u.wx (bits w 11 7) (u.pc + 4)) with pc := u.pc + immJ w } [] [] := by
  simp only [rv32, hop]
  rfl

theorem rv32_sd (hop : bits w 6 0 = 0x23) (hf3 : bits w 14 12 = 3) : rv32 e u w 4 =
    .done { u with pc := u.pc + 4 } [] [((u.rx (bits w 19 15) + immS w).toNat, leBytes (u.rx (bits w 24 20)).toNat 8)] := by
  simp only [rv32, hop, hf3, rvStore]
  rfl

theorem rv32_lr (hop : bits w 6 0 = 0x2F) (hf3 : bits w 14 12 = 3) (hf5 : bits w 31 27 = 2) (hrs2 : bits w 24 20 = 0)
    (ha : (u.rx (bits w 19 15)).toNat % 8 = 0) : rv32 e u w 4 =
    .lr { (u.wx (bits w 11 7) (sext 64 (e.b.natVa e.sp (u.rx (bits w 19 15)).toNat 8))) with pc := u.pc + 4 } (u.rx (bits w 19 15)).toNat 8 := by
  have hpc : ∀ n v, (u.wx n v).pc = u.pc := fun n v => by rw [Thread.wx]; split <;> rfl
  simp only [rv32, hop, opAmo, hf3, hf5, hrs2, hpc]
  simp [ha]

theorem rv32_sc (hop : bits w 6 0 = 0x2F) (hf3 : bits w 14 12 = 3) (hf5 : bits w 31 27 = 3)
    (ha : (u.rx (bits w 19 15)).toNat % 8 = 0) {held : Bool} (hheld : e.reserved (u.rx (bits w 19 15)).toNat 8 = held) : rv32 e u w 4 =
    .sc { (u.wx (bits w 11 7) (if held then 0 else 1)) with pc := u.pc + 4 }
      (if held then [((u.rx (bits w 19 15)).toNat, leBytes (u.rx (bits w 24 20)).toNat 8)] else []) := by
  have hpc : ∀ n v, (u.wx n v).pc = u.pc := fun n v => by rw [Thread.wx]; split <;> rfl
  simp only [rv32, hop, opAmo, hf3, hf5, hpc]
  cases held <;> simp [ha, hheld]

theorem rvAny_illegal : rvAny e u 0xFFFFFFFF 4 = .trap causeIllegal := rfl

end Rv32

end Decode

/-- Settles O40, instruction by instruction. -/
theorem coreInstructions : Obligations.CoreInstructions := by
  intro s cove th u x w h rs1 rs2 rd' f3 steps out a mine others inLagoon
  refine ⟨?addi, ?add, ?sub, ?beq, ?jal, ?sd, ?lr, ?sc, ?illegal⟩
  case addi =>
    intro hop hf3
    exact ⟨_, runs_of_perform rfl rfl, h.computes (scalarOp_of_eq hop (by omega)) fun e => rv32_addi e hop hf3⟩
  case add =>
    intro hop hf3 hf7
    exact ⟨_, runs_of_perform rfl rfl, h.computes (scalarOp_of_eq hop (by omega)) fun e => rv32_add e hop hf3 hf7⟩
  case sub =>
    intro hop hf3 hf7
    exact ⟨_, runs_of_perform rfl rfl, h.computes (scalarOp_of_eq hop (by omega)) fun e => rv32_sub e hop hf3 hf7⟩
  case beq =>
    intro hop hf3
    exact ⟨_, runs_of_perform rfl rfl, h.computes (scalarOp_of_eq hop (by omega)) fun e => rv32_beq e hop hf3⟩
  case jal =>
    intro hop
    exact ⟨_, runs_of_perform rfl rfl, h.computes (scalarOp_of_eq hop (by omega)) fun e => rv32_jal e hop⟩
  case sd =>
    intro hop hf3 hsecond haligned hlow hhigh
    exact ⟨_, runs_of_perform rfl rfl, h.stores (scalarOp_of_eq hop (by omega)) hsecond ⟨haligned, hlow, hhigh⟩ (leBytes_length _ _)
      fun e => rv32_sd e hop hf3⟩
  case lr =>
    rintro hop hf3 hf5 hrs2 ⟨hsecond, haligned, hlow, hhigh⟩
    have hva : InLagoon a := ⟨haligned, hlow, hhigh⟩
    refine ⟨_, runs_of_perform rfl rfl, h.reserves (scalarOp_of_eq hop (by omega)) hsecond hva fun e hsp hmem => ?_⟩
    rw [rv32_lr e hop hf3 hf5 hrs2 haligned, hva.natVa hsp, hmem]
  case sc =>
    rintro hop hf3 hf5 ⟨hsecond, haligned, hlow, hhigh⟩
    have hva : InLagoon a := ⟨haligned, hlow, hhigh⟩
    refine ⟨_, runs_of_perform rfl rfl, h.conditional (scalarOp_of_eq hop (by omega)) hsecond hva (leBytes_length _ _)
      (held := s.block.lrs.contains mine) fun e hsp hlrs hcove hth => ?_⟩
    refine rv32_sc e hop hf3 hf5 haligned ?_
    have haddr : e.b.reserveAddr e.sp (u.rx (bits w 19 15)).toNat true = some a := hva.reserveAddr hsp true
    simp only [Env.reserved, haddr, hlrs, hcove, hth]
    rfl
  case illegal =>
    rintro rfl hop
    obtain ⟨c, hc, hrun⟩ := h.run_core rfl (by decide)
    rw [rvAny_illegal] at hrun
    have ht := hc.fresh.trapped h.ctx_eq hop th.val causeIllegal
    refine ⟨_, runs_of_perform rfl hrun, ht⟩

end Sys2Proof.Machine


namespace Sys2Proof.Machine

/-! # Allocation ahead under a cove table that lists a cove twice -/

/-- Bytes of a length with little-endian fields: where each begins, its value and its bytes. -/
def withFields (size : Nat) (fs : List (Nat × Nat × Nat)) : Bytes :=
  fs.foldl (fun r f => patch r f.1 (leBytes f.2.1 f.2.2)) (zeroBytes size)

/-- Where the sequence table lies in lagoon 0. -/
def allocSeqTable : Nat := lagoonBase + 0x100000

/-- Where the work counter lies in lagoon 0. -/
def allocCounter : Nat := lagoonBase + 0x8000

/-- Page tables in frame 0 that lead from sequence 0's second page, an address of lagoon 0, to an absent entry; the entry of sequence 0, with
two pages from the start of lagoon 0; a work counter of which cove 0 has taken tile 0 of 1. -/
def allocMemory : Memory :=
  let root := Block.reset.fwReserve
  [(root + 8, leBytes 3 8), (7168, leBytes 3 8), (1024, leBytes 3 8), (8, leBytes absentEntry 8),
   (allocSeqTable + 16, leBytes lagoonBase 8 ++ leBytes 2 4 ++ [1]), (allocCounter, leBytes 1 4 ++ leBytes 1 4)].foldl
    (fun m p => m.write p.1 p.2) []

/-- A pool of 64 frames from a frame on, of a kind in HBM4. -/
def allocPool (kind frame : Nat) : Buf :=
  { entry := withFields 64 [(16, kind, 1)], pieces := [{ vaddr := 0, paddr := frame * 8192, bytes := 64 * 8192 }], init := [] }

/-- The pools of key-value and table frames, and the work counter. -/
def allocPlan : Plan :=
  { Plan.blank with
    loaded := true
    layout := withFields 48 [(4, 1, 2), (8, allocSeqTable, 8)]
    bufs := [allocPool 2 64, allocPool 3 128, { entry := withFields 64 [(0, allocCounter, 8), (8, 256, 8), (16, 5, 1), (17, 3, 1), (48, 16, 4)], pieces := [], init := [] }] }

/-- An operation of shape 1 × 1 × 1 on cove 0 with a record. -/
def allocCtx (r : Bytes) : Ctx :=
  { op := 0, record := r, met := 15, metNo := 1, second := false, taken := 0, m := 1, n := 1, k := 1, len := 0, len1 := none, early := [], table1 := [],
    table2 := [], pos := 0, accs := [], started := false, staging := .none, tailSeq := 0, tailEnd := false, begun := false, rxDone := false,
    txDone := false, poisoned := false, fault := none }

/-- A module whose table of coves lists cove 0 twice: with this operation in context 0, and without operations.  The table that is rebuilt when
translations are dropped keeps the second. -/
def coveTwice (x : Ctx) : State :=
  { State.reset with block := { Block.reset with
      mem := allocMemory
      ctl := { Ctl.reset with
        plan := allocPlan
        fw := { PageFw.empty with alloc := { PageFw.empty.alloc with absent := some 0 } }
        engine := { Ctl.reset.engine with coves := [(0, { Cove.empty with ctx0 := some x }), (0, { Cove.empty with nextTake := 1 })] } } } }

/-- A record of an operation with planned maxima of 4 × 4 × 128 and one local signal. -/
def allocRecord (op : Nat) (fs : List (Nat × Nat × Nat)) : Bytes :=
  withFields 256 ([(0, op, 1), (7, 1, 1), (8, 4 + 4 * 2 ^ 20 + 128 * 2 ^ 40, 8), (64, 5 + 2 ^ 32, 8)] ++ fs)

/-- A product that appends its one row to sequence 0, its operands in lagoon 0. -/
def appendProduct (flags : Nat) : Ctx :=
  allocCtx (allocRecord opGemm [(1, flags, 1), (24, allocCounter, 8), (104, lagoonBase + 0x20000, 8), (112, lagoonBase + 0x30000, 8), (172, 1, 2)])

/-! ## Products -/

/-- A product that runs no tail. -/
def appending : State := coveTwice (appendProduct 1)

/-- Its register tile. -/
def appendingVisit : Visit :=
  { tile := { row := 0, rows := 1, col := 0, cols := 1, expert := 0, lrow := 0, lrows := 1, lcol := 0, lcols := 1 }, row := 0, rows := 1, col := 0, cols := 1,
    kt := 0 }

theorem appending_runnable : appending.block.Runnable 0 0 opGemm (appendProduct 1) := by
  unfold Block.Runnable
  decide +kernel

theorem appending_sems : ((gemmAct 0 0).run appending.block).sems = [] := by decide +kernel

theorem appending_signalled : (appending.block.signalled false (appendProduct 1).record false).sems = [(5, 1)] := by decide +kernel

/-- Refutes O37: the visit appends a row, the allocation ahead of that row drops translations (R236, R238), and the table of coves that is rebuilt
then keeps the second entry that the statement lets it have for the cove; no operation is left there to signal. -/
theorem not_productTiles : ¬ Obligations.ProductTiles := by
  unfold Obligations.ProductTiles
  intro h
  obtain ⟨hrun, -, -⟩ := h appending 0 0 (appendProduct 1) { appendProduct 1 with started := true } opGemm appendingVisit (Or.inl rfl) appending_runnable
    (by decide +kernel) (fun hop => absurd hop (by decide)) (by decide +kernel) (by decide +kernel) (by decide +kernel) (by decide +kernel)
  obtain ⟨t, hruns, -, -, hsems, -⟩ := hrun 0 _ { appendProduct 1 with started := true } (Or.inl ⟨by decide +kernel, rfl, rfl⟩) (by decide +kernel)
    (by decide +kernel)
  have ht : t = (gemmAct 0 0).run appending.block := block_of_runs rfl hruns
  rw [ht, appending_sems] at hsems
  exact absurd (hsems.trans appending_signalled) (by decide)

/-! ## Tails -/

/-- A product in its tail. -/
def tailProduct : Ctx := { appendProduct 3 with begun := true }

/-- It takes its one tile again. -/
def tailing : State := coveTwice tailProduct

theorem tailing_ctx : ((((workCounterTakeAct 0 0).run tailing.block).ctl.cove 0).ctx 0).isNone = true := by decide +kernel

/-- Refutes O35: the last visit of the tile appends a row, whose allocation ahead drops translations (R236, R238), and the table of coves that
is rebuilt then keeps the second entry that the statement lets it have for the cove; no operation is left there. -/
theorem not_operationsAreTaken : ¬ Obligations.OperationsAreTaken := by
  unfold Obligations.OperationsAreTaken
  rintro ⟨-, htake⟩
  obtain ⟨-, htile, -⟩ := htake tailing 0 0 tailProduct (by decide +kernel) (by decide +kernel) (Or.inl (by decide +kernel)) rfl rfl rfl (by decide +kernel)
  have hgot : (tailing.block.takeTile (rCtr tailProduct.record) (tailing.block.ctl.plan.counterCap (rCtr tailProduct.record)) 0 0).1 = some 0 := by
    decide +kernel
  obtain ⟨t, hruns, ⟨accs, hctx⟩, -⟩ := htile 0 _ appendingVisit.tile appendingVisit (Prod.ext hgot rfl) (by decide +kernel) (by decide +kernel) (by decide +kernel)
    (by decide +kernel) (by decide +kernel)
  have ht : t = (workCounterTakeAct 0 0).run tailing.block := block_of_runs rfl hruns
  rw [ht] at hctx
  exact nomatch (Option.isNone_iff_eq_none.1 tailing_ctx).symm.trans hctx

/-! ## Broadcasts -/

/-- A broadcast at its root of no query rows and one record, of position 0. -/
def oneRecord : Ctx :=
  allocCtx (allocRecord opTide [(104, 1, 1), (112, lagoonBase + 0x10000, 8), (144, lagoonBase + 0x20000, 8), (156, 1, 4), (160, lagoonBase + 0x30000, 8),
    (180, 7, 2)])

/-- A module alone with it. -/
def broadcasting : State := coveTwice oneRecord

theorem broadcasting_runnable : broadcasting.block.Runnable 0 0 opTide oneRecord := by
  unfold Block.Runnable
  decide +kernel

theorem broadcasting_sems : ((tideBcastAct 0 0).run broadcasting.block).sems = [(7, 1)] := by decide +kernel

theorem broadcasting_signalled :
    (((tideSignal oneRecord 180 0 false).run broadcasting.block).signalled false oneRecord.record false).sems = [(5, 1), (7, 1)] := by decide +kernel

/-- Refutes O43: the root writes a record into slot 0 of a page, whose allocation ahead drops translations (R236, R238), and the table of coves
that is rebuilt then keeps the second entry that the statement lets it have for the cove; ARRIVE is signalled, but no step is left to signal. -/
theorem not_broadcastsAndGathers : ¬ Obligations.BroadcastsAndGathers := by
  unfold Obligations.BroadcastsAndGathers
  rintro ⟨⟨hroot, -⟩, -⟩
  obtain ⟨hall, -⟩ := hroot broadcasting 0 0 oneRecord broadcasting_runnable (by decide +kernel) rfl rfl (by decide +kernel)
  obtain ⟨d, t, hruns, -, -, -, hsems, -⟩ := Exists.imp (fun d => hall d (by decide +kernel) (by decide +kernel))
    (Option.isSome_iff_exists.1 (by decide +kernel))
  have ht : t = (tideBcastAct 0 0).run broadcasting.block := block_of_runs rfl hruns
  rw [ht, broadcasting_sems] at hsems
  exact absurd (hsems.trans broadcasting_signalled) (by decide)

end Sys2Proof.Machine


namespace Sys2Proof.Machine

/-! # Tide movers (R194 to R208, R290) -/

section Movers
variable {b c : Block} {cove n : Nat} {x : Ctx}

/-! ## Writes through translation -/

/-- Translation sees memory, fuses, the module's own slot and the plan. -/
structure Block.SameMap (b c : Block) : Prop where
  mem   : c.mem = b.mem
  fuses : c.fuses = b.fuses
  glb   : c.ctl.glb = b.ctl.glb
  plan  : c.ctl.plan = b.ctl.plan

theorem Block.SameMap.xlate (h : b.SameMap c) : c.xlate = b.xlate := by
  have hview : b.SameView { c with sems := b.sems, fresh := b.fresh } := ⟨h.mem, rfl, h.fuses, rfl, congrArg Glb.slot h.glb, h.plan⟩
  exact hview.xlate

theorem Block.SameMap.slot (h : b.SameMap c) : c.slot = b.slot := congrArg (fun g : Glb => g.slot.val) h.glb

/-- A scope that leaves what translation sees. -/
def Scope.maps (S : Scope) : Bool := !(S.mem || S.fuses || S.glb || S.plan)

theorem Block.Keeps.sameMap {S : Scope} (h : b.Keeps S c) (hS : S.maps = true) : b.SameMap c := by
  simp only [Scope.maps, Bool.not_eq_true', Bool.or_eq_false_iff] at hS
  obtain ⟨⟨⟨hmem, hfuses⟩, hglb⟩, hplan⟩ := hS
  exact ⟨h.mem hmem, h.fuses hfuses, h.ctl.glb hglb, h.ctl.plan hplan⟩

/-- Trees whose effects on memory are the same leave the same memory. -/
theorem mem_each_congr {α : Type} {f g : α → Act} (hfg : ∀ p (b c : Block), c.mem = b.mem → ((g p).run c).mem = ((f p).run b).mem) :
    ∀ (xs : List α) (b c : Block), c.mem = b.mem → ((Act.each xs g).run c).mem = ((Act.each xs f).run b).mem := by
  intro xs
  induction xs with
  | nil => exact fun _ _ h => h
  | cons p xs ih => exact fun b c h => by rw [run_each_cons, run_each_cons, ih _ _ (hfg p b c h)]

/-- What a write through translation leaves in memory. -/
theorem Block.SameMap.mem_writeVa (h : b.SameMap c) (sp : Space) (va : Nat) (bytes : Bytes) :
    ((writeVa sp va bytes).run c).mem = ((writeVa sp va bytes).run b).mem := by
  simp only [writeVa, run_look, h.xlate, h.slot, h.glb]
  refine mem_each_congr (fun p b c hmem => ?_) _ b c h.mem
  split
  · split
    · exact congrArg (fun m : Memory => m.write _ _) hmem
    · exact hmem
  · exact hmem

/-! ## Accesses of a step -/

theorem run_withAccess {second : Bool} {as : List Access} (h : b.firstBad (b.ctl.space cove second) as = none) (k : Act) :
    (withAccess cove n second as k).run b = k.run (b.touched cove second as) := by
  simp only [withAccess, run_look, h, run_seq]
  rfl

/-- What accesses of a cove touch: caches, board peers, a free value. -/
def Scope.accesses : Scope := { engine := true, out := true, fresh := true }

theorem keeps_touched (b : Block) (cove : Nat) (second : Bool) (as : List Access) : b.Keeps .accesses (b.touched cove second as) := by
  obtain ⟨e, he⟩ := touch_run_asking cove second as b
  rw [he, asking_run _ _ (only_asking _ _)]
  exact { out := fun h => absurd h (by decide), fresh := fun h => absurd h (by decide), ctl := { engine := fun h => absurd h (by decide) } }

theorem oneCove_touched (b : Block) (cove : Nat) (second : Bool) (as : List Access) :
    b.OneCove (b.touched cove second as) cove (b.ctl.cove cove) := (Block.OneCove.refl b cove).touchAs false second as

theorem ctx_touched (b : Block) (cove n : Nat) (second : Bool) (as : List Access) :
    ((b.touched cove second as).ctl.cove cove).ctx n = (b.ctl.cove cove).ctx n := (oneCove_touched b cove second as).ctx_eq n

/-! ## Signals and contexts -/

/-- What a signal at a semaphore of this module touches. -/
def Scope.signals : Scope := { sems := true, arb := true, power := true }

theorem only_tideSignal (x : Ctx) (base off : Nat) (poison : Bool) : (tideSignal x base off poison).Only (Eff.In .signals) := by
  cases poison
  · exact (only_one _ _).2 ⟨rfl, rfl, rfl⟩
  · exact (only_one _ _).2 rfl

theorem keeps_tideSignal (b : Block) (x : Ctx) (base off : Nat) (poison : Bool) : b.Keeps .signals ((tideSignal x base off poison).run b) :=
  (only_tideSignal x base off poison).keepsScope b

/-- A mover's signal depends on the semaphores alone. -/
theorem sems_tideSignal (h : c.sems = b.sems) (x : Ctx) (base off : Nat) (poison : Bool) :
    ((tideSignal x base off poison).run c).sems = ((tideSignal x base off poison).run b).sems := by
  cases poison <;> simp only [tideSignal, signalLocal, Bool.false_eq_true, if_false, if_true, run_one] <;> simp [Block.sem, h]

theorem ctx_of_engine (h : c.ctl.engine = b.ctl.engine) (cove n : Nat) : (c.ctl.cove cove).ctx n = (b.ctl.cove cove).ctx n := by
  simp only [Ctl.cove, h]

/-! ## Steps -/

theorem Block.Runnable.run_tideRun (h : b.Runnable cove n opTide x) {mode : Nat} (hmode : tMode x.record = mode) (k : Ctx → Act) :
    (tideRun cove n mode k).run b = (k x).run b := by
  have hstart := h.run_runInstance (extra := fun _ _ => (false, false, false)) (zero := fun _ => false) rfl rfl k
  obtain ⟨hx, hop, -⟩ := h
  simp only [tideRun, run_look, hx, run_opt_some, hop, hmode, beq_self_eq_true, Bool.and_self, run_when_true, hstart]

/-- What a step that a message finds is. -/
theorem tideStep_some {toRank mode : Nat} {p : Nat → Ctx → Bool} (h : b.tideStep toRank mode p = some (cove, n, x)) :
    rOp x.record = opTide ∧ tMode x.record = mode ∧ x.begun = true ∧ b.ctl.rankOf x.second = toRank ∧ p cove x = true := by
  obtain ⟨⟨v, w⟩, -, hfind⟩ := List.exists_of_findSome?_eq_some h
  obtain ⟨⟨m, y⟩, -, hstep⟩ := List.exists_of_findSome?_eq_some hfind
  dsimp only at hstep
  split at hstep
  next hall =>
    cases hstep
    simpa only [Bool.and_eq_true, beq_iff_eq, and_assoc] using hall
  next => exact nomatch hstep

/-- A step of which one half is still to come goes on. -/
theorem run_tideEnd_waits (hx : (b.ctl.cove cove).ctx n = some x) (h : (x.rxDone && x.txDone) = false) : (tideEnd cove n).run b = b := by
  simp only [tideEnd, run_look, hx, run_opt_some, h, run_when_false]

theorem run_tideEnd (hx : (b.ctl.cove cove).ctx n = some x) (hrx : x.rxDone = true) (htx : x.txDone = true) :
    (tideEnd cove n).run b = (endInstance cove n x.poisoned).run b := by
  simp only [tideEnd, run_look, hx, run_opt_some, hrx, htx, Bool.and_self, run_when_true]

theorem waitingMsg_nil (h : b.ctl.engine.movers.inbox = []) (p : Msg → Bool) : b.waitingMsg p = none := by
  simp only [Block.waitingMsg, h, List.find?_nil]

end Movers

/-! # Ring steps (R194, R195, R208, R213) -/

section Ring
variable {b c : Block} {cove n : Nat} {x : Ctx}

/-- A ring step grants its predecessor and waits for its successor's grant. -/
theorem run_tideRingAct (h : b.Runnable cove n opTide x) (hmode : tMode x.record = 0) (hgather : tGather x.record = false) (hrx : tNoRx x.record = false)
    {p k : Nat} (hprev : tidePrev b.ctl.plan b.ctl.jobP (b.ctl.rankOf x.second) (tDir x.record) = some p)
    (hnext : tideNext b.ctl.plan b.ctl.jobP (b.ctl.rankOf x.second) (tDir x.record) = some k) (hinbox : b.ctl.engine.movers.inbox = []) :
    (tideRingAct cove n).run b =
      (b.withCove cove fun v => v.setCtx n (some { x with begun := true, rxDone := false, txDone := tNoTx x.record })).sending (.rank p) (.grant
        { toRank := p, die := Fin.ofNat 2 (dieOf cove), step := tStep x.record, dir := tDir x.record, layer := tLayer x.record, seq := tSeq x.record }) := by
  have hx := h.1
  have hbegun : x.begun = false := h.2.2.2.2.1
  rw [tideRingAct, h.run_tideRun hmode, hbegun, Bool.not_false, run_when_true]
  simp only [hgather, Bool.false_eq_true, if_false, run_all_cons, run_all_nil, run_updCtx hx, hrx]
  generalize hc : (b.withCove cove fun v => v.setCtx n (some { x with begun := true, rxDone := false, txDone := tNoTx x.record })) = c
  have hcx : (c.ctl.cove cove).ctx n = some { x with begun := true, rxDone := false, txDone := tNoTx x.record } := by
    rw [← hc, Block.withCove, Ctl.cove_setCove_same, Cove.ctx_setCtx]
  have hcprev : tidePrev c.ctl.plan c.ctl.jobP (c.ctl.rankOf x.second) (tDir x.record) = some p := by rw [← hprev, ← hc]; rfl
  have hcnext : tideNext c.ctl.plan c.ctl.jobP (c.ctl.rankOf x.second) (tDir x.record) = some k := by rw [← hnext, ← hc]; rfl
  have hcinbox : c.ctl.engine.movers.inbox = [] := by rw [← hinbox, ← hc]; rfl
  clear hc
  simp only [Bool.not_false, run_when_true, ringReceive, run_look, hcprev, waitingMsg_nil hcinbox, run_send]
  generalize hd : c.sending (.rank p) _ = d
  have hdx : (d.ctl.cove cove).ctx n = some { x with begun := true, rxDone := false, txDone := tNoTx x.record } := by rw [← hcx, ← hd]; rfl
  have hdnext : tideNext d.ctl.plan d.ctl.jobP (d.ctl.rankOf x.second) (tDir x.record) = some k := by rw [← hcnext, ← hd]; rfl
  have hdinbox : d.ctl.engine.movers.inbox = [] := by rw [← hcinbox, ← hd]; rfl
  have htry : (ringTry cove n).run d = d := by
    simp only [ringTry, run_look, hdx, run_opt_some, run_when, hdnext, waitingMsg_nil hdinbox]
    split <;> rfl
  rw [htry, run_tideEnd_waits hdx rfl]

/-- A step in the ring form sends its own slot. -/
theorem sentSlot_ring {p : Plan} (h : p.fold = false) (n me : Nat) (r : Bytes) : sentSlot p n me r = u8 r 132 := by
  simp only [sentSlot, h, Bool.not_false, if_true]

/-- What a mover's signal and the end of one half of its step leave. -/
theorem half_facts (hx : (b.ctl.cove cove).ctx n = some x) (base off : Nat) (poison : Bool) (f : Ctx → Ctx)
    (hgo : ((f x).rxDone && (f x).txDone) = false) (t : Block)
    (ht : (tideEnd cove n).run ((updCtx cove n f).run ((tideSignal x base off poison).run b)) = t) :
    (t.ctl.cove cove).ctx n = some (f x) ∧ t.sems = ((tideSignal x base off poison).run b).sems ∧
    b.Keeps { Scope.signals with engine := true } t ∧ (poison = true → t.arb = b.arb) := by
  have hsig := keeps_tideSignal b x base off poison
  have hxs := (ctx_of_engine (hsig.ctl.engine rfl) cove n).trans hx
  have harb : poison = true → ((tideSignal x base off poison).run b).arb = b.arb := by rintro rfl; rfl
  generalize (tideSignal x base off poison).run b = c at ht hsig hxs harb ⊢
  have hupd : c.Keeps { engine := true } ((updCtx cove n f).run c) := (only_updCtx rfl cove n f).keepsScope c
  have hxu : (((updCtx cove n f).run c).ctl.cove cove).ctx n = some (f x) := by rw [cove_updCtx, hxs, Option.map_some]
  generalize (updCtx cove n f).run c = d at ht hupd hxu
  rw [run_tideEnd_waits hxu hgo] at ht
  subst ht
  exact ⟨hxu, hupd.sems rfl, (hsig.widen {}).trans (hupd.widen {}), fun h => (hupd.arb rfl).trans (harb h)⟩

/-- The piece that a step sends to its successor: the block of its slot. -/
def Block.ringPiece (b : Block) (cove : Nat) (x : Ctx) (k : Nat) : TidePiece :=
  let va := b.ctl.plan.slotAddr (u8 x.record 132)
  let h := b.readVa (b.tideSpace cove x) va 8192
  { toRank := k, die := Fin.ofNat 2 (dieOf cove), step := tStep x.record, dir := tDir x.record, header := h,
    pages := b.readVa (b.tideSpace cove x) (va + 8192) (headerPages h * 8192) }

/-- A grant lets the step's block go out, and SENT is signalled (R194). -/
theorem ringSend_facts (hx : (b.ctl.cove cove).ctx n = some x) (hrx : x.rxDone = false) (hfold : b.ctl.plan.fold = false) {k : Nat}
    (hnext : tideNext b.ctl.plan b.ctl.jobP (b.ctl.rankOf x.second) (tDir x.record) = some k) {piece : TidePiece}
    (hpiece : piece = b.ringPiece cove x k) (t : Block)
    (ht : (tideEnd cove n).run ((ringSend cove n).run b) = t) :
    t.out = { dest := .rank k, msg := .piece piece } :: b.out ∧ t.sems = ((tideSignal x 136 (u8 x.record 132) false).run b).sems ∧
    (t.ctl.cove cove).ctx n = some { x with txDone := true } ∧ b.Keeps { Scope.signals with engine := true, out := true } t := by
  have hrun : (ringSend cove n).run b =
      (txDone cove n).run ((tideSignal x 136 (u8 x.record 132) false).run (b.sending (.rank k) (.piece piece))) := by
    simp only [ringSend, run_look, hx, run_opt_some, hfold, sentSlot_ring hfold, Bool.not_false, Bool.true_or, if_true, Bool.not_true, run_all_cons,
      run_all_nil, run_when_false, hnext, run_send, hpiece, Block.ringPiece]
  rw [hrun] at ht
  obtain ⟨hctx, hsems, hkeep, -⟩ := half_facts (b := b.sending (.rank k) (.piece piece)) hx 136 (u8 x.record 132) false
    (fun x => { x with txDone := true }) (by simp only [hrx, Bool.false_and]) t ht
  have hsend : b.Keeps { Scope.signals with engine := true, out := true } (b.sending (.rank k) (.piece piece)) := { out := fun h => absurd h (by decide) }
  exact ⟨hkeep.out rfl, hsems.trans (sems_tideSignal (b := b) (c := b.sending (.rank k) (.piece piece)) rfl x _ _ _), hctx, hsend.trans (hkeep.widen {})⟩

theorem run_tideGrantAct {g : TideGrant}
    (h : b.tideStep g.toRank 0 (fun c x => !x.txDone && isGrant g.toRank (dieOf c) x.record (.grant g)) = some (cove, n, x)) :
    (tideGrantAct g).run b = (tideEnd cove n).run ((ringSend cove n).run b) := by
  simp only [tideGrantAct, run_look, h, run_seq]

/-! ## Pieces -/

variable {p : TidePiece}

/-- The mismatches of a transfer that has arrived are forgotten. -/
theorem keeps_arrived (b : Block) (key : Nat) : b.Keeps { engine := true } ((arrived key).run b) := (only_engine rfl _).keepsScope b

/-- The step that waits for a piece. -/
abbrev Block.pieceStep (b : Block) (p : TidePiece) : Option (Nat × Nat × Ctx) :=
  b.tideStep p.toRank 0 fun c x => !x.rxDone && dieOf c == p.die.val && tStep x.record == p.step && tDir x.record == p.dir

/-- The header of a piece with its USE bit. -/
def Block.usedHeader (b : Block) (sp : Space) (p : TidePiece) : Bytes :=
  patch p.header 8 [if b.useOfBlock sp p.toRank p.step p.dir p.header then 1 else 0]

theorem run_tidePieceAct (h : b.pieceStep p = some (cove, n, x)) (hheader : p.header.length = 8192) (hpages : p.pages.length = headerPages p.header * 8192)
    (hcheck : slotCheck p.header p.pages = u32 p.header 12) :
    (tidePieceAct p).run b = (withAccess cove n x.second [wr (b.ctl.plan.slotAddr (u8 x.record 133)) (8192 + p.pages.length)] <|
      Act.all [writeVa (b.tideSpace cove x) (b.ctl.plan.slotAddr (u8 x.record 133)) (b.usedHeader (b.tideSpace cove x) p ++ p.pages),
        tideSignal x 134 (u8 x.record 133) false, rxDone cove n, tideEnd cove n]).run
      ((arrived (missKey 0 p.toRank p.step p.dir p.die.val)).run b) := by
  simp only [tidePieceAct, run_look, h, run_opt_some, hheader, hpages, hcheck, ne_eq, not_true_eq_false, decide_false, bne_self_eq_false, Bool.or_self,
    Bool.false_eq_true, if_false, run_seq, Block.usedHeader, wr]

/-- A piece whose CHECK holds goes into RX_SLOT and signals FULL (R194, R195). -/
theorem piece_lands (h : b.pieceStep p = some (cove, n, x)) (hx : (b.ctl.cove cove).ctx n = some x) (htx : x.txDone = false)
    (hheader : p.header.length = 8192) (hpages : p.pages.length = headerPages p.header * 8192) (hcheck : slotCheck p.header p.pages = u32 p.header 12)
    (hbad : b.firstBad (b.tideSpace cove x) [wr (b.ctl.plan.slotAddr (u8 x.record 133)) (8192 + p.pages.length)] = none) (t : Block)
    (ht : (tidePieceAct p).run b = t) :
    (t.ctl.cove cove).ctx n = some { x with rxDone := true } ∧
    t.mem = ((writeVa (b.tideSpace cove x) (b.ctl.plan.slotAddr (u8 x.record 133)) (b.usedHeader (b.tideSpace cove x) p ++ p.pages)).run b).mem ∧
    t.sems = ((tideSignal x 134 (u8 x.record 133) false).run b).sems ∧ t.host = b.host ∧ t.fuses = b.fuses := by
  rw [run_tidePieceAct h hheader hpages hcheck] at ht
  have harrived := keeps_arrived b (missKey 0 p.toRank p.step p.dir p.die.val)
  have hbad' : ((arrived (missKey 0 p.toRank p.step p.dir p.die.val)).run b).firstBad
      (((arrived (missKey 0 p.toRank p.step p.dir p.die.val)).run b).ctl.space cove x.second)
      [wr (b.ctl.plan.slotAddr (u8 x.record 133)) (8192 + p.pages.length)] = none := hbad
  have hx' : (((arrived (missKey 0 p.toRank p.step p.dir p.die.val)).run b).ctl.cove cove).ctx n = some x := hx
  generalize (arrived (missKey 0 p.toRank p.step p.dir p.die.val)).run b = c at ht harrived hbad' hx'
  rw [run_withAccess hbad'] at ht
  have htouch := keeps_touched c cove x.second [wr (b.ctl.plan.slotAddr (u8 x.record 133)) (8192 + p.pages.length)]
  have hx'' := (ctx_touched c cove n x.second [wr (b.ctl.plan.slotAddr (u8 x.record 133)) (8192 + p.pages.length)]).trans hx'
  generalize c.touched cove x.second _ = d at ht htouch hx''
  have hd : b.Keeps .accesses d := (harrived.widen {}).trans htouch
  simp only [run_all_cons, run_all_nil] at ht
  have hmem := (hd.sameMap rfl).mem_writeVa (b.tideSpace cove x) (b.ctl.plan.slotAddr (u8 x.record 133))
    (b.usedHeader (b.tideSpace cove x) p ++ p.pages)
  have hwrite := (only_writeVa (S := { mem := true, lrs := true, out := true }) rfl rfl rfl (b.tideSpace cove x)
    (b.ctl.plan.slotAddr (u8 x.record 133)) (b.usedHeader (b.tideSpace cove x) p ++ p.pages)).keepsScope d
  generalize (writeVa (b.tideSpace cove x) _ _).run d = e at ht hmem hwrite
  obtain ⟨hctx, hsems, hkeep, -⟩ := half_facts ((ctx_of_engine (hwrite.ctl.engine rfl) cove n).trans hx'') 134 (u8 x.record 133) false
    (fun x => { x with rxDone := true }) (by simp only [htx, Bool.and_false]) t ht
  have hall : b.Keeps { Scope.accesses with mem := true, lrs := true } e := (hd.widen {}).trans (hwrite.widen {})
  exact ⟨hctx, (hkeep.mem rfl).trans hmem, hsems.trans (sems_tideSignal (hall.sems rfl) x _ _ _), (hkeep.host rfl).trans (hall.host rfl),
    (hkeep.fuses rfl).trans (hall.fuses rfl)⟩

theorem run_tidePieceAct_mismatch (h : b.pieceStep p = some (cove, n, x)) (hcheck : slotCheck p.header p.pages ≠ u32 p.header 12) {k : Nat}
    (hprev : tidePrev b.ctl.plan b.ctl.jobP p.toRank p.dir = some k) : (tidePieceAct p).run b =
      (mismatch (missKey 0 p.toRank p.step p.dir p.die.val) p.die.val p.toRank k (.piece p.toRank p.die p.step p.dir)).run b := by
  simp only [tidePieceAct, run_look, h, run_opt_some, ne_eq, hcheck, not_false_eq_true, decide_true, Bool.true_or, if_true, hprev]

/-- The third mismatch of a transfer was its last: the sender is told of the loss where it is the higher-ranked end (R213). -/
theorem run_mismatch_lost {key die me sender : Nat} {again : ResendOf} (hmisses : 3 ≤ Tab.get 0 b.ctl.engine.movers.misses key) (hrank : me < sender) :
    (mismatch key die me sender again).run b = b.sending (.rank sender) (.resend (.lost me)) := by
  simp only [mismatch, run_look, if_neg (Nat.not_lt.2 hmisses), if_pos hrank, run_send]

/-- A mismatch asks for the transfer again (R208). -/
theorem run_mismatch_again {key die me sender : Nat} {again : ResendOf} (hmisses : Tab.get 0 b.ctl.engine.movers.misses key < 3) (t : Block)
    (ht : (mismatch key die me sender again).run b = t) : t.out = { dest := .rank sender, msg := .resend again } :: b.out ∧
    b.Keeps { engine := true, out := true } t ∧ t.ctl.engine.coves = b.ctl.engine.coves ∧
    Tab.get 0 t.ctl.engine.movers.resends die = (Tab.get 0 b.ctl.engine.movers.resends die + 1) % 2 ^ 48 := by
  simp only [mismatch, run_look, if_pos hmisses, run_seq, run_upd, run_send] at ht
  subst ht
  exact ⟨rfl, { out := fun h => absurd h (by decide), ctl := { engine := fun h => absurd h (by decide) } }, rfl, Tab.get_set_self _ _ _ _⟩

end Ring

/-- Settles O42: each command of a ring step by what its run leaves. -/
theorem ringSteps : Obligations.RingSteps := by
  unfold Obligations.RingSteps
  refine ⟨?_, ?_, ?_⟩
  · intro s cove n x p k h hmode hgather hrx hprev hnext hinbox g
    have hrun := run_tideRingAct h hmode hgather hrx hprev hnext hinbox
    have hone : s.block.OneCove (s.block.withCove cove fun v => v.setCtx n (some { x with begun := true, rxDone := false, txDone := tNoTx x.record })) cove
        ((s.block.ctl.cove cove).setCtx n (some { x with begun := true, rxDone := false, txDone := tNoTx x.record })) := by
      have hupd := (Block.OneCove.refl s.block cove).updCtx n fun x => { x with begun := true, rxDone := false, txDone := tNoTx x.record }
      rwa [run_updCtx h.1, h.1, Option.map_some] at hupd
    exact ⟨_, runs_of_perform rfl hrun, rfl, rfl, hone.of_ctl rfl, rfl, rfl, rfl, rfl, rfl, rfl, rfl, rfl, rfl, rfl, rfl, rfl⟩
  · intro s g c n k x hstep _ hx hrx hfold hnext sp va h piece
    obtain ⟨hout, hsems, hctx, hkeep⟩ := ringSend_facts hx hrx hfold hnext (piece := piece) rfl _ rfl
    exact ⟨_, runs_of_perform rfl (run_tideGrantAct hstep), hout, hsems, hctx, hkeep.mem rfl, hkeep.host rfl, hkeep.fuses rfl⟩
  · intro s p c n x hstep _ hx htx hheader hpages sp slot use key
    refine ⟨fun hcheck hbad => ?_, fun k hcheck hprev => ⟨fun hmisses hrank => ?_, fun hmisses => ?_⟩⟩
    · exact ⟨_, runs_of_perform rfl rfl, piece_lands hstep hx htx hheader hpages hcheck hbad _ rfl⟩
    · exact runs_of_perform rfl ((run_tidePieceAct_mismatch hstep hcheck hprev).trans (run_mismatch_lost hmisses hrank))
    · obtain ⟨hout, hkeep, hcoves, hresends⟩ := run_mismatch_again hmisses _ (run_tidePieceAct_mismatch hstep hcheck hprev).symm
      refine ⟨_, runs_of_perform rfl rfl, hout, ?_, hkeep.mem rfl, hkeep.sems rfl, hkeep.host rfl, hresends⟩
      rw [← hx, Ctl.cove, hcoves]
      rfl

end Sys2Proof.Machine


namespace Sys2Proof.Machine

/-! # Windows, global pages and notices (R203, R204, R208, R290) -/

section Shared
variable {b c : Block} {cove n : Nat} {x : Ctx}

/-- Each of a list of messages is sent. -/
theorem mem_out_each_send {α : Type} {xs : List α} {d : α → Dest} {m : α → Msg} {a : α} (ha : a ∈ xs) (b : Block) :
    ({ dest := d a, msg := m a } : Sent) ∈ ((Act.each xs fun p => send (d p) (m p)).run b).out := by
  rw [run_each_send]
  exact List.mem_append_left _ (List.mem_reverse.2 (List.mem_map_of_mem ha))

theorem Block.SameMap.firstBad (h : b.SameMap c) (sp : Space) (as : List Access) : c.firstBad sp as = b.firstBad sp as := by
  simp only [Block.firstBad, h.xlate]

/-- A change of a context leaves how its cove translates. -/
theorem space_updCtx (b : Block) (cove n : Nat) (f : Ctx → Ctx) (second : Bool) :
    ((updCtx cove n f).run b).ctl.space cove second = b.ctl.space cove second := by
  have htlb : (((updCtx cove n f).run b).ctl.cove cove).tlb = (b.ctl.cove cove).tlb := by
    have hcove : ((updCtx cove n f).run b).ctl.cove cove = (b.ctl.cove cove).setCtx n (((b.ctl.cove cove).ctx n).map f) := Tab.get_set_self _ _ _ _
    rw [hcove]
    rcases n with _ | _ | _ | n <;> rfl
  simp only [Ctl.space, Ctl.walks, htlb]
  rfl

/-- The end of a context leaves what the movers hold. -/
theorem movers_endInstance (hx : (b.ctl.cove cove).ctx n = some x) : ((endInstance cove n false).run b).ctl.engine.movers = b.ctl.engine.movers := by
  have hframe := signalFrame_signalled b x.second x.record false
  simp only [endInstance, run_look, hx, run_opt_some, run_all_cons, run_all_nil, run_endSignals (fun h : false = true => nomatch h)]
  generalize b.signalled x.second x.record false = c at hframe ⊢
  have hstop : ((stopThreads cove n).run c).ctl.engine.movers = c.ctl.engine.movers := rfl
  generalize (stopThreads cove n).run c = d at hstop ⊢
  exact hstop.trans (congrArg Engine.movers hframe.engine)

end Shared

section Windows
variable {b c : Block} {cove n : Nat} {x : Ctx}

/-- The pages of a window that other boards hold. -/
def Block.farPage (b : Block) (x : Ctx) (g : Nat) : Bool :=
  b.ctl.holder (tLayer x.record) g != b.ctl.rankOf x.second && !b.ctl.onBoard (b.ctl.holder (tLayer x.record) g)

/-- The pages of a window. -/
def Block.windowPages (b : Block) (cove : Nat) (x : Ctx) : List Nat := runPages (b.windowRuns (b.tideSpace cove x) (u32 x.record 184))

/-- The accesses of a window on the board, and its slot. -/
def Block.windowAccesses (b : Block) (cove : Nat) (x : Ctx) : List Access :=
  ((b.windowPages cove x).filter fun g => !b.farPage x g).map (fun g => rd ((b.seq (tSeq x.record)).pageAddr (tLayer x.record) g) 8192) ++
    [wr (u64 x.record 120) (8192 + 8192 * (b.windowPages cove x).length)]

/-- A window's request for a page of another board. -/
def Block.windowAsk (b : Block) (x : Ctx) (g : Nat) : WindowReq :=
  { toRank := b.ctl.holder (tLayer x.record) g, rank := b.ctl.rankOf x.second, seq := tSeq x.record, layer := tLayer x.record, page := g, pages := 1 }

/-- A window asks for the pages of other boards, writes its slot and ends. -/
theorem run_tideWindowAct (h : b.Runnable cove n opTide x) (hmode : tMode x.record = 3)
    (hbad : b.firstBad (b.tideSpace cove x) (b.windowAccesses cove x) = none) : ∃ va bytes, (tideWindowAct cove n).run b =
      (endInstance cove n false).run (takeFresh.run ((writeVa (b.tideSpace cove x) va bytes).run
        ((Act.each ((b.windowPages cove x).filter fun g => b.farPage x g) fun g =>
          send (.rank (b.ctl.holder (tLayer x.record) g)) (.window (b.windowAsk x g))).run (b.touched cove x.second (b.windowAccesses cove x))))) := by
  rw [tideWindowAct, h.run_tideRun hmode, run_look]
  simp only [Block.windowAccesses, Block.windowPages, Block.windowAsk, Block.farPage, rd, wr] at hbad ⊢
  rw [run_withAccess hbad, run_all_cons, run_all_cons, run_all_cons, run_all_cons, run_all_nil]
  exact ⟨_, _, rfl⟩

theorem window_facts (h : b.Runnable cove n opTide x) (hmode : tMode x.record = 3)
    (hbad : b.firstBad (b.tideSpace cove x) (b.windowAccesses cove x) = none) (t : Block) (ht : (tideWindowAct cove n).run b = t) :
    (t.ctl.cove cove).ctx n = none ∧
    (∀ g ∈ b.windowPages cove x, b.farPage x g = true →
      ({ dest := .rank (b.ctl.holder (tLayer x.record) g), msg := .window (b.windowAsk x g) } : Sent) ∈ t.out) ∧
    t.sems = (b.signalled x.second x.record false).sems ∧ t.host = b.host ∧ t.flash = b.flash ∧ t.fuses = b.fuses := by
  obtain ⟨va, bytes, hrun⟩ := run_tideWindowAct h hmode hbad
  rw [ht] at hrun
  have hx := (ctx_touched b cove n x.second (b.windowAccesses cove x)).trans h.1
  have htouch := keeps_touched b cove x.second (b.windowAccesses cove x)
  generalize b.touched cove x.second (b.windowAccesses cove x) = c at hrun hx htouch
  have hsent : ∀ g ∈ b.windowPages cove x, b.farPage x g = true → ({ dest := .rank (b.ctl.holder (tLayer x.record) g), msg := .window (b.windowAsk x g) } : Sent) ∈
      ((Act.each ((b.windowPages cove x).filter fun g => b.farPage x g) fun g =>
        send (.rank (b.ctl.holder (tLayer x.record) g)) (.window (b.windowAsk x g))).run c).out :=
    fun g hg hfar => mem_out_each_send (List.mem_filter.2 ⟨hg, hfar⟩) c
  have hsend : c.Keeps { out := true } ((Act.each ((b.windowPages cove x).filter fun g => b.farPage x g) fun g =>
      send (.rank (b.ctl.holder (tLayer x.record) g)) (.window (b.windowAsk x g))).run c) :=
    ((only_each_iff _ _).2 fun g _ => only_send rfl _ _).keepsScope c
  generalize (Act.each ((b.windowPages cove x).filter fun g => b.farPage x g) fun g =>
      send (.rank (b.ctl.holder (tLayer x.record) g)) (.window (b.windowAsk x g))).run c = d at hrun hsent hsend
  have hwrite : d.Keeps { mem := true, lrs := true, out := true, fresh := true } (takeFresh.run ((writeVa (b.tideSpace cove x) va bytes).run d)) := by
    have hwhole : ((writeVa (b.tideSpace cove x) va bytes).seq takeFresh).Only (Eff.In { mem := true, lrs := true, out := true, fresh := true }) :=
      (only_seq_iff _ _).2 ⟨only_writeVa rfl rfl rfl _ _ _, (only_one _ _).2 rfl⟩
    simpa only [run_seq] using hwhole.keepsScope d
  have hsent' : ∀ g ∈ b.windowPages cove x, b.farPage x g = true → ({ dest := .rank (b.ctl.holder (tLayer x.record) g), msg := .window (b.windowAsk x g) } : Sent) ∈
      (takeFresh.run ((writeVa (b.tideSpace cove x) va bytes).run d)).out := fun g hg hfar => mem_out_run _ (mem_out_run _ (hsent g hg hfar))
  generalize takeFresh.run ((writeVa (b.tideSpace cove x) va bytes).run d) = e at hrun hwrite hsent'
  have hxe : (e.ctl.cove cove).ctx n = some x :=
    (ctx_of_engine ((hwrite.ctl.engine rfl).trans (hsend.ctl.engine rfl)) cove n).trans hx
  have hall : b.Keeps { Scope.accesses with mem := true, lrs := true } e := (htouch.widen {}).trans ((hsend.widen {}).trans (hwrite.widen {}))
  have hend := endsInstance hxe (poison := false) (fun h => nomatch h)
  have hsent'' := fun g hg hfar => mem_out_run (endInstance cove n false) (hsent' g hg hfar)
  rw [← hrun] at hend hsent''
  exact ⟨hend.ctx, hsent'', hend.sems.trans (signalled_of_keeps hall rfl rfl rfl _ _ _), (hend.keeps.host rfl).trans (hall.host rfl),
    (hend.keeps.flash rfl).trans (hall.flash rfl), (hend.keeps.fuses rfl).trans (hall.fuses rfl)⟩

/-- Another rank's window read is answered with the pages that lie here. -/
theorem run_windowReadAct {q : WindowReq} {second : Bool} (hrank : b.ctl.servesRank q.toRank = some second) {as : List Access}
    (has : as = (upto q.page (q.page + q.pages)).map fun g => rd ((b.seq q.seq).pageAddr q.layer g) 8192)
    (hbad : b.firstBad { second := second, cove := none, tlb := [] } as = none) : (windowReadAct q).run b =
      b.sending (.rank q.rank) (.windowData (as.flatMap fun a => b.readVa { second := second, cove := none, tlb := [] } a.va 8192)) := by
  subst has
  have hnone : (b.firstBad { second := second, cove := none, tlb := [] } ((upto q.page (q.page + q.pages)).map fun g =>
      ({ va := (b.seq q.seq).pageAddr q.layer g, len := 8192, write := false } : Access))).isNone = true := by
    rw [Option.isNone_iff_eq_none]
    exact hbad
  simp only [windowReadAct, run_look, hrank, run_opt_some, hnone, run_when_true, run_send]
  rfl

end Windows

/-! ## The global page cache (R204) -/

section Globals
variable {b c : Block} {cove n : Nat} {x : Ctx}

/-- What a rank other than the root reads for the cache: the table, and its own pages. -/
def Block.globalAccesses (b : Block) (cove : Nat) (x : Ctx) : List Access :=
  rd (u64 x.record 192) (8 + 8 * (b.natVa (b.tideSpace cove x) (u64 x.record 192) 8 % 65536)) ::
    (b.globalsHere (b.tideSpace cove x) x.record).map fun i =>
      rd ((b.seq (tSeq x.record)).pageAddr (tLayer x.record) ((globalPages (b.tableOf (b.tideSpace cove x) x.record)).getD i 0)) 8192

/-- A rank other than the root sends its global pages to the root. -/
theorem run_tideGlobalAct (h : b.Runnable cove n opTide x) (hmode : tMode x.record = 4) (hroot : b.ctl.rankOf x.second ≠ tRoot x.record)
    (hbad : b.firstBad (b.tideSpace cove x) (b.globalAccesses cove x) = none) : ∃ page : Nat → Bytes, (tideGlobalAct cove n).run b =
      (globalFull cove n).run ((Act.look fun b => globalWaiting cove n (b.ctl.engine.movers.inbox.length)).run
        ((Act.each (b.globalsHere (b.tideSpace cove x) x.record) fun i =>
          send (.rank (tRoot x.record)) (.global (.page (tRoot x.record) (tSeq x.record) (tLayer x.record) i (page i)))).run
        ((updCtx cove n fun x => { x with begun := true }).run (b.touched cove x.second (b.globalAccesses cove x))))) := by
  have hbegun : x.begun = false := h.2.2.2.2.1
  rw [tideGlobalAct, h.run_tideRun hmode, hbegun, Bool.not_false, run_when_true, run_look]
  simp only [Block.globalAccesses, rd, if_neg hroot, List.append_nil] at hbad ⊢
  rw [run_withAccess hbad, run_all_cons, run_all_cons, run_all_cons, run_all_cons, run_all_nil]
  exact ⟨_, rfl⟩

theorem globals_sent (h : b.Runnable cove n opTide x) (hmode : tMode x.record = 4) (hinbox : b.ctl.engine.movers.inbox = [])
    (hroot : b.ctl.rankOf x.second ≠ tRoot x.record) (hbad : b.firstBad (b.tideSpace cove x) (b.globalAccesses cove x) = none) (t : Block)
    (ht : (tideGlobalAct cove n).run b = t) :
    b.OneCove t cove ((b.ctl.cove cove).setCtx n (some { x with begun := true })) ∧ b.Keeps .accesses t ∧
    ∀ i ∈ b.globalsHere (b.tideSpace cove x) x.record, ∃ bs,
      ({ dest := .rank (tRoot x.record), msg := .global (.page (tRoot x.record) (tSeq x.record) (tLayer x.record) i bs) } : Sent) ∈ t.out := by
  obtain ⟨page, hrun⟩ := run_tideGlobalAct h hmode hroot hbad
  rw [ht] at hrun
  have hx := (ctx_touched b cove n x.second (b.globalAccesses cove x)).trans h.1
  have htouch := keeps_touched b cove x.second (b.globalAccesses cove x)
  have hone := (oneCove_touched b cove x.second (b.globalAccesses cove x)).updCtx n fun x => { x with begun := true }
  generalize b.touched cove x.second (b.globalAccesses cove x) = c at hrun hx htouch hone
  rw [h.1, Option.map_some] at hone
  have hupd : c.Keeps { engine := true } ((updCtx cove n fun x => { x with begun := true }).run c) := (only_updCtx rfl cove n _).keepsScope c
  have hxu : (((updCtx cove n fun x => { x with begun := true }).run c).ctl.cove cove).ctx n = some { x with begun := true } := by
    rw [cove_updCtx, hx, Option.map_some]
  generalize (updCtx cove n fun x => { x with begun := true }).run c = d at hrun hone hupd hxu
  have hsent := fun i hi => mem_out_each_send (d := fun _ => Dest.rank (tRoot x.record))
    (m := fun i => Msg.global (.page (tRoot x.record) (tSeq x.record) (tLayer x.record) i (page i))) (a := i)
    (xs := b.globalsHere (b.tideSpace cove x) x.record) hi d
  rw [run_each_send] at hrun hsent
  generalize hout : (List.map _ (b.globalsHere (b.tideSpace cove x) x.record)).reverse ++ d.out = out at hrun hsent
  have hlast : t = { d with out := out } := by
    have hinbox' : ({ d with out := out } : Block).ctl.engine.movers.inbox = [] := by
      obtain ⟨-, -, hrest⟩ := hone
      rw [← hinbox, hrest]
    have hroot' : ({ d with out := out } : Block).ctl.rankOf x.second ≠ tRoot x.record := by
      obtain ⟨-, -, hrest⟩ := hone
      rwa [show ({ d with out := out } : Block).ctl.rankOf x.second = b.ctl.rankOf x.second from by rw [hrest]; rfl]
    have hfull : (globalFull cove n).run { d with out := out } = { d with out := out } := by
      have hx' : ((({ d with out := out } : Block).ctl.cove cove).ctx n) = some { x with begun := true } := hxu
      simp only [globalFull, run_look, hx', run_opt_some, beq_eq_false_iff_ne.2 hroot', Bool.false_and, run_when_false]
    rw [run_look, hinbox', List.length_nil] at hrun
    exact hrun.trans hfull
  subst hlast
  exact ⟨hone.of_ctl rfl, (htouch.trans (hupd.widen {})).trans { out := fun h => absurd h (by decide) }, fun i hi => ⟨page i, hsent i hi⟩⟩

/-- The cache of a step that has arrived whole. -/
abbrev cacheMsg (toRank q l root : Nat) (bs : List Segment) : GlobalMsg := .cache toRank q l root bs

/-- The step that waits for a cache. -/
abbrev Block.cacheStep (b : Block) (toRank q l root : Nat) (bs : List Segment) : Option (Nat × Nat × Ctx) :=
  b.tideStep toRank 4 fun _ x => isGlobal toRank x.record (.global (cacheMsg toRank q l root bs))

/-- A cache is passed on to the children, written and signalled, and ends the step. -/
def relayCache (b : Block) (cove n : Nat) (x : Ctx) (bs : List Segment) : Act :=
  Act.all [Act.each (treeChildren b.ctl.jobP (b.ctl.rankOf x.second) (tRoot x.record)) fun k =>
      send (.rank k.2) (.global (.cache k.2 (tSeq x.record) (tLayer x.record) (tRoot x.record) bs)),
    txDone cove n,
    withAccess cove n x.second [wr (u64 x.record 200) (joined bs).length] <|
      Act.all [writeVa (b.tideSpace cove x) (u64 x.record 200) (joined bs), tideSignal x 180 0 false, endInstance cove n false]]

theorem run_globalPageAct_cache {toRank q l root : Nat} {bs : List Segment} (hsegs : segmentsOk bs = true)
    (hstep : b.cacheStep toRank q l root bs = some (cove, n, x)) (hx : (b.ctl.cove cove).ctx n = some x) (hinbox : b.ctl.engine.movers.inbox = []) :
    ∃ c, b.Keeps { engine := true } c ∧ c.ctl.engine.coves = b.ctl.engine.coves ∧ c.ctl.engine.caches = b.ctl.engine.caches ∧
      c.ctl.engine.movers.inbox = [] ∧ (globalPageAct (cacheMsg toRank q l root bs)).run b = (relayCache b cove n x bs).run c := by
  refine ⟨(dropMsg (.global (cacheMsg toRank q l root bs))).run ((keepMsg (.global (cacheMsg toRank q l root bs))).run ((arrived (missKey 5 toRank l root q)).run b)),
    ?_, rfl, rfl, ?_, ?_⟩
  · exact ((only_engine rfl _).keepsScope b).trans (((only_engine rfl _).keepsScope _).trans ((only_engine rfl _).keepsScope _))
  · have hkept : ((keepMsg (.global (cacheMsg toRank q l root bs))).run ((arrived (missKey 5 toRank l root q)).run b)).ctl.engine.movers.inbox =
        b.ctl.engine.movers.inbox ++ [.global (cacheMsg toRank q l root bs)] := rfl
    generalize (keepMsg (.global (cacheMsg toRank q l root bs))).run _ = d at hkept
    exact (congrArg (List.erase · _) hkept).trans (by rw [hinbox, List.nil_append, List.erase_cons_head])
  · simp only [globalPageAct, run_look, hsegs, Bool.not_true, Bool.false_eq_true, if_false, run_seq, hstep, run_opt_some]
    have hx' : (((keepMsg (.global (cacheMsg toRank q l root bs))).run ((arrived (missKey 5 toRank l root q)).run b)).ctl.cove cove).ctx n = some x := hx
    rw [takeGlobal, run_look, hx', run_opt_some, run_seq]
    rfl

/-- The end of a step that has received a cache. -/
theorem relayCache_facts (hx : (c.ctl.cove cove).ctx n = some x) (hkeep : b.Keeps { engine := true } c)
    (hspace : c.ctl.space cove x.second = b.tideSpace cove x) {bs : List Segment}
    (hbad : b.firstBad (b.tideSpace cove x) [wr (u64 x.record 200) (joined bs).length] = none) (t : Block)
    (ht : (relayCache b cove n x bs).run c = t) :
    (t.ctl.cove cove).ctx n = none ∧ t.mem = ((writeVa (b.tideSpace cove x) (u64 x.record 200) (joined bs)).run b).mem ∧
    t.ctl.engine.movers = c.ctl.engine.movers ∧
    (∀ k ∈ treeChildren b.ctl.jobP (b.ctl.rankOf x.second) (tRoot x.record),
      ({ dest := .rank k.2, msg := .global (.cache k.2 (tSeq x.record) (tLayer x.record) (tRoot x.record) bs) } : Sent) ∈ t.out) ∧
    t.sems = (((tideSignal x 180 0 false).run b).signalled x.second x.record false).sems ∧ t.host = b.host := by
  have hsent := fun k hk => mem_out_each_send (d := fun k : Nat × Nat => Dest.rank k.2)
    (m := fun k => Msg.global (.cache k.2 (tSeq x.record) (tLayer x.record) (tRoot x.record) bs)) (a := k)
    (xs := treeChildren b.ctl.jobP (b.ctl.rankOf x.second) (tRoot x.record)) hk c
  rw [relayCache, run_all_cons, run_all_cons, run_all_cons, run_all_nil] at ht
  have hsend : c.Keeps { out := true } ((Act.each (treeChildren b.ctl.jobP (b.ctl.rankOf x.second) (tRoot x.record)) fun k =>
      send (.rank k.2) (.global (.cache k.2 (tSeq x.record) (tLayer x.record) (tRoot x.record) bs))).run c) :=
    ((only_each_iff _ _).2 fun g _ => only_send rfl _ _).keepsScope c
  generalize (Act.each _ _).run c = d at ht hsent hsend
  have hsent := fun k hk => mem_out_run (txDone cove n) (hsent k hk)
  have hdone : d.Keeps { engine := true } ((txDone cove n).run d) := (only_updCtx rfl cove n _).keepsScope d
  have hx1 : (((txDone cove n).run d).ctl.cove cove).ctx n = some { x with txDone := true } := by
    rw [txDone, cove_updCtx, ctx_of_engine (hsend.ctl.engine rfl), hx, Option.map_some]
  have hspace1 : ((txDone cove n).run d).ctl.space cove x.second = b.tideSpace cove x := by
    rw [← hspace, txDone, space_updCtx]
    simp only [Ctl.space, Ctl.walks, Ctl.cove, hsend.ctl.engine rfl]
  have hmovers1 : ((txDone cove n).run d).ctl.engine.movers = d.ctl.engine.movers := rfl
  replace hmovers1 := hmovers1.trans (congrArg Engine.movers (hsend.ctl.engine rfl))
  generalize (txDone cove n).run d = e at ht hsent hdone hx1 hspace1 hmovers1
  have hbe : b.Keeps { engine := true, out := true } e := (hkeep.widen {}).trans ((hsend.widen {}).trans (hdone.widen {}))
  rw [run_withAccess (by rw [hspace1, (hbe.sameMap rfl).firstBad, hbad])] at ht
  have hsent := fun k hk => mem_out_run (touch cove x.second [wr (u64 x.record 200) (joined bs).length]) (hsent k hk)
  change ∀ k hk, _ ∈ (e.touched cove x.second [wr (u64 x.record 200) (joined bs).length]).out at hsent
  have htouch := keeps_touched e cove x.second [wr (u64 x.record 200) (joined bs).length]
  have hx2 := (ctx_touched e cove n x.second [wr (u64 x.record 200) (joined bs).length]).trans hx1
  have hmovers2 : (e.touched cove x.second [wr (u64 x.record 200) (joined bs).length]).ctl.engine.movers = e.ctl.engine.movers := by
    obtain ⟨-, -, hrest⟩ := oneCove_touched e cove x.second [wr (u64 x.record 200) (joined bs).length]
    rw [hrest]
  generalize e.touched cove x.second [wr (u64 x.record 200) (joined bs).length] = f at ht hsent htouch hx2 hmovers2
  rw [run_all_cons, run_all_cons, run_all_cons, run_all_nil] at ht
  have hbf : b.Keeps .accesses f := (hbe.widen {}).trans htouch
  have hmem := (hbf.sameMap rfl).mem_writeVa (b.tideSpace cove x) (u64 x.record 200) (joined bs)
  have hwrite := (only_writeVa (S := { mem := true, lrs := true, out := true }) rfl rfl rfl (b.tideSpace cove x) (u64 x.record 200) (joined bs)).keepsScope f
  have hsent := fun k hk => mem_out_run (writeVa (b.tideSpace cove x) (u64 x.record 200) (joined bs)) (hsent k hk)
  generalize (writeVa (b.tideSpace cove x) (u64 x.record 200) (joined bs)).run f = g at ht hmem hwrite hsent
  have hbg : b.Keeps { Scope.accesses with mem := true, lrs := true } g := (hbf.widen {}).trans (hwrite.widen {})
  have hsig := keeps_tideSignal g x 180 0 false
  have hsems := sems_tideSignal (hbg.sems rfl) x 180 0 false
  have hsent := fun k hk => mem_out_run (tideSignal x 180 0 false) (hsent k hk)
  generalize (tideSignal x 180 0 false).run g = u at ht hsig hsems hsent
  have hsigb := keeps_tideSignal b x 180 0 false
  generalize (tideSignal x 180 0 false).run b = b' at hsems hsigb ⊢
  have hxu : (u.ctl.cove cove).ctx n = some { x with txDone := true } :=
    (ctx_of_engine ((hsig.ctl.engine rfl).trans (hwrite.ctl.engine rfl)) cove n).trans hx2
  have hend := endsInstance hxu (poison := false) (fun h => nomatch h)
  have hmovers := movers_endInstance hxu
  have hsent := fun k hk => mem_out_run (endInstance cove n false) (hsent k hk)
  rw [ht] at hend hmovers hsent
  have halike : b'.SignalsAlike u :=
    ⟨hsems, ((hsig.ctl.glb rfl).trans (hbg.ctl.glb rfl)).trans (hsigb.ctl.glb rfl).symm,
      ((hsig.ctl.pair rfl).trans (hbg.ctl.pair rfl)).trans (hsigb.ctl.pair rfl).symm⟩
  exact ⟨hend.ctx, (hend.keeps.mem rfl).trans ((hsig.mem rfl).trans hmem),
    hmovers.trans ((congrArg Engine.movers ((hsig.ctl.engine rfl).trans (hwrite.ctl.engine rfl))).trans (hmovers2.trans hmovers1)), hsent,
    hend.sems.trans (halike.signalled _ _ _), (hend.keeps.host rfl).trans ((hsig.host rfl).trans (hbg.host rfl))⟩

end Globals

/-! ## Poison notices and requests to send again (R208, R290) -/

section Notices
variable {b : Block} {cove n : Nat} {x : Ctx}

/-- A poison notice in place of a piece: FULL is poisoned, and the receiving half is done. -/
theorem piecePoison_facts {toRank step dir : Nat} {die : Fin 2} (hstep : b.tideStep toRank 0 (fun c x =>
      !x.rxDone && dieOf c == die.val && tStep x.record == step && tDir x.record == dir) = some (cove, n, x))
    (hx : (b.ctl.cove cove).ctx n = some x) (htx : x.txDone = false) (t : Block)
    (ht : (poisonNoticeAct (.piece toRank die step dir)).run b = t) :
    (t.ctl.cove cove).ctx n = some { x with rxDone := true } ∧ t.sems = ((tideSignal x 134 (u8 x.record 133) true).run b).sems ∧
    t.mem = b.mem ∧ t.host = b.host ∧ t.out = b.out ∧ t.arb = b.arb := by
  simp only [poisonNoticeAct, run_look, hstep, run_seq, ringPoison, run_all_cons, run_all_nil] at ht
  have hflag : b.Keeps { job := true } ((flagPass fun f => { f with poisoned := true }).run b) := (only_job rfl _).keepsScope b
  have hx' : ((((flagPass fun f => { f with poisoned := true }).run b).ctl.cove cove).ctx n) = some x := hx
  generalize (flagPass fun f => { f with poisoned := true }).run b = c at ht hflag hx'
  obtain ⟨hctx, hsems, hkeep, harb⟩ := half_facts hx' 134 (u8 x.record 133) true (fun x => { x with rxDone := true })
    (by simp only [htx, Bool.and_false]) t ht
  exact ⟨hctx, hsems.trans (sems_tideSignal (hflag.sems rfl) x _ _ _), (hkeep.mem rfl).trans (hflag.mem rfl), (hkeep.host rfl).trans (hflag.host rfl),
    (hkeep.out rfl).trans (hflag.out rfl), (harb rfl).trans (hflag.arb rfl)⟩

theorem run_poisonNoticeAct_grant {toRank step dir : Nat} {die : Fin 2} (hstep : b.tideStep toRank 0 (fun c x =>
      !x.txDone && isGrant toRank (dieOf c) x.record (.poison (.grant toRank die step dir))) = none) :
    (poisonNoticeAct (.grant toRank die step dir)).run b = (keepMsg (.poison (.grant toRank die step dir))).run b := by
  simp only [poisonNoticeAct, run_look, hstep]

/-- The notice of a loss names no transfer. -/
theorem isResent_lost (k : Nat) (m : Sent) : isResent (.lost k) m = false := by
  unfold isResent
  split <;> rfl

theorem run_resendRequestAct {q : ResendOf} {m : Sent} (h : b.out.find? (isResent q) = some m) : (resendRequestAct q).run b = b.sending m.dest m.msg := by
  cases q with
  | lost k =>
    have hsome := List.find?_some h
    rw [isResent_lost] at hsome
    exact nomatch hsome
  | _ => simp only [resendRequestAct, run_look, h, run_opt_some, run_send]

end Notices

/-- Settles O44: each command of a window, a global cache or a notice by what its run leaves. -/
theorem windowsGlobalsAndNotices : Obligations.WindowsGlobalsAndNotices := by
  unfold Obligations.WindowsGlobalsAndNotices
  refine ⟨⟨?_, ?_, ?_, ?_⟩, ?_, ?_, ?_⟩
  · intro s cove n x h hmode r sp pages me far ask hbad
    obtain ⟨hctx, hsent, hsems, hhost, hflash, hfuses⟩ := window_facts h hmode hbad _ rfl
    exact ⟨_, runs_of_perform rfl rfl, hctx, hsent, hsems, hhost, hflash, hfuses⟩
  · intro s q second hrank sp as hbad
    exact runs_of_perform rfl (run_windowReadAct hrank rfl hbad)
  · intro s cove n x h hmode hinbox r sp me pages va mine hroot hbad
    obtain ⟨hone, hkeep, hsent⟩ := globals_sent h hmode hinbox hroot hbad _ rfl
    exact ⟨_, runs_of_perform rfl rfl, hone, hkeep.sems rfl, hkeep.mem rfl, hkeep.host rfl, hsent⟩
  · intro s toRank q l root bs c n x hsegs hstep _ hx hinbox sp hbad
    obtain ⟨d, hkeep, hcoves, hcaches, hempty, hrun⟩ := run_globalPageAct_cache hsegs hstep hx hinbox
    have hxd : (d.ctl.cove c).ctx n = some x := by rw [← hx, Ctl.cove, hcoves]; rfl
    have hspace : d.ctl.space c x.second = s.block.tideSpace c x := by
      simp only [Block.tideSpace, Ctl.space, Ctl.walks, Ctl.cove, hcoves, hcaches]
    obtain ⟨hctx, hmem, hmovers, hsent, hsems, hhost⟩ := relayCache_facts hxd hkeep hspace hbad _ hrun.symm
    obtain ⟨-, -, -, rfl, hglobal⟩ := tideStep_some hstep
    simp only [isGlobal, beq_self_eq_true, Bool.true_and, Bool.and_eq_true, beq_iff_eq] at hglobal
    obtain ⟨⟨rfl, rfl⟩, rfl⟩ := hglobal
    exact ⟨_, runs_of_perform rfl rfl, hctx, hmem, (congrArg Movers.inbox hmovers).trans hempty, hsent, hsems, hhost⟩
  · intro s toRank step dir die c n x hstep _ hx htx
    exact ⟨_, runs_of_perform rfl rfl, piecePoison_facts hstep hx htx _ rfl⟩
  · intro s toRank step dir die hstep
    exact ⟨_, runs_of_perform rfl (run_poisonNoticeAct_grant hstep), rfl, rfl, rfl, rfl, rfl, rfl, rfl, rfl, rfl, rfl, rfl, rfl, rfl, rfl⟩
  · intro s q m h
    exact runs_of_perform rfl (run_resendRequestAct h)

end Sys2Proof.Machine


namespace Sys2Proof.Machine

/-! # The end of a program under a sequence table among the semaphore words (R97, R273) -/

/-- An XFER that signals semaphore 4 by 254 at its end. -/
def lastXfer : Ctx := { allocCtx (withFields 256 [(0, opXfer, 1), (7, 1, 1), (64, 4 + 254 * 2 ^ 32, 8)]) with begun := true }

/-- Channel 0 of engine 0 at the END of that XFER's program in lagoon 0. -/
def lastChannel : Channel := { Channel.idle with state := .run, prog := lagoonBase }

/-- A module that STOP_JOB wants out of its job, whose sequence table stands at address 4 among the semaphore words: STATE of sequence 0 is the
low byte of semaphore 4, which reads 2.  Its table of coves lists cove 0 twice. -/
def stoppingOnSemaphores : State :=
  { State.reset with block := { Block.reset with
      mem := semaphoreTables.write lagoonBase [7]
      sems := [(4, 2)]
      ctl := { Ctl.reset with
        glb := { Glb.reset with state := .running, step := 9 }
        power := { Power.reset with state := .run }
        job := { Job.blank with inJob := true, started := [0], stopping := some (1, 0) }
        fw := { PageFw.empty with seqs := [(0, { SeqFw.closed with reserve := 1 })] }
        plan := { Plan.blank with loaded := true, layout := zeroBytes 8 ++ leBytes 4 8 ++ zeroBytes 48 }
        engine := { Ctl.reset.engine with
          coves := [(0, { Cove.empty with nextTake := 1, ctx0 := some lastXfer }), (0, { Cove.empty with ctx0 := some lastXfer })]
          ls := { Ctl.reset.engine.ls with chans := [(0, lastChannel)] } } } } }

theorem stoppingOnSemaphores_stands : stoppingOnSemaphores.block.Stands 0 0 7 lastChannel (stoppingOnSemaphores.block.lsInstr lastChannel.space lagoonBase 0) := by
  unfold Block.Stands
  decide +kernel

theorem stoppingOnSemaphores_ctx : ((((endProgramAct 0 0).seq stopCheck).run stoppingOnSemaphores.block).ctl.cove 0).ctx 0 = some lastXfer := by
  decide +kernel

/-- Refutes O45: the XFER's signal turns STATE of the only open sequence into CLOSED where the sequence table is mapped onto semaphore words
(R281), so the rank leaves the job with the end of its program (R273); the table of coves that is rebuilt then keeps the second entry that the
statement lets it have for the cove, where the XFER still stands. -/
theorem not_transfersAndChannels : ¬ Obligations.TransfersAndChannels := by
  unfold Obligations.TransfersAndChannels
  rintro ⟨-, -, hend⟩
  obtain ⟨t, hruns, -, hctx, -⟩ := hend stoppingOnSemaphores 0 0 lastChannel _ lastXfer stoppingOnSemaphores_stands (by decide) (by decide +kernel)
    (Or.inr (Or.inl (by decide +kernel))) rfl
  have ht : t = ((endProgramAct 0 0).seq stopCheck).run stoppingOnSemaphores.block := block_of_runs rfl hruns
  rw [ht] at hctx
  exact nomatch hctx.symm.trans stoppingOnSemaphores_ctx

end Sys2Proof.Machine


namespace Sys2Proof.Machine

/-! # Longshore channels: shared rules (R251 to R277) -/

section Stays
variable {b : Block} {e ch : Nat}

theorem Tab.mem_of_get_ne {α : Type} {d : α} {k : Nat} : ∀ {t : Tab α}, Tab.get d t k ≠ d → (k, Tab.get d t k) ∈ t
  | [], h => absurd rfl h
  | (j, a) :: t, h => by
    by_cases hk : k = j
    · subst hk
      simp only [Tab.get, if_true, List.mem_cons, true_or]
    · simp only [Tab.get, if_neg hk] at h ⊢
      exact List.mem_cons_of_mem _ (mem_of_get_ne h)

/-- A plan channel that has a program keeps the rank in its job. -/
theorem chansQuiet_false {c : Ctl} {k : Nat} (hstate : (Tab.get Channel.idle c.engine.ls.chans k).state ≠ .idle)
    (hfw : fwChannel (k / 32) (k % 32) = false) : c.chansQuiet = false := by
  have hmem := Tab.mem_of_get_ne (t := c.engine.ls.chans) (k := k) (d := Channel.idle) fun h => hstate (by rw [h]; rfl)
  refine Bool.eq_false_iff.2 fun hall => ?_
  have h := List.all_eq_true.1 hall _ hmem
  simp only [hfw, Bool.or_false] at h
  exact hstate (eq_of_beq h)

/-- Nothing more happens at a stop that still waits for something. -/
theorem run_stopCheck_stays (h : b.ctl.job.stopping = none ∨ b.openSeqs ≠ [] ∨ b.ctl.chansQuiet = false) : stopCheck.run b = b := by
  rw [stopCheck, run_look]
  cases hstop : b.ctl.job.stopping with
  | none => rfl
  | some k =>
    have hwhen : (b.openSeqs.isEmpty && b.ctl.chansQuiet) = false := by
      rcases h with h | h | h
      · exact nomatch hstop.symm.trans h
      · rw [List.isEmpty_eq_false_iff.2 h, Bool.false_and]
      · rw [h, Bool.and_false]
    simp only [run_opt_some, hwhen, run_when_false]

theorem run_stopCheck_running (hstate : (b.ctl.chan e ch).state ≠ .idle) (hch : ch < 32) (hfw : fwChannel e ch = false) : stopCheck.run b = b := by
  have hdiv : chKey e ch / 32 = e := by unfold chKey; omega
  have hmod : chKey e ch % 32 = ch := by unfold chKey; omega
  exact run_stopCheck_stays (.inr (.inr (chansQuiet_false hstate (by rw [hdiv, hmod, hfw]))))

end Stays

section Issue
variable {b : Block} {e ch op : Nat} {c : Channel} {i src dst : Bytes} {off len : Nat}

/-- The instruction at which a running channel stands is carried out. -/
theorem Block.Stands.run_lsThen (h : b.Stands e ch op c i) (k : Block → Channel → Bytes → Act) : (lsThen e ch op k).run b = (k b c i).run b := by
  obtain ⟨rfl, hstate, hserved, hbad, rfl, hop⟩ := h
  simp only [lsThen, run_look, hstate, hserved, hbad, hop, beq_self_eq_true, Bool.and_self, run_when_true]

theorem run_withDescs (h : b.firstBad c.space [rd (lsDesc c.prog i 8) 64, rd (lsDesc c.prog i 12) 64] = none) (k : Bytes → Bytes → Act) :
    (withDescs e ch c i k).run b = (k (b.readVa c.space (lsDesc c.prog i 8) 64) (b.readVa c.space (lsDesc c.prog i 12) 64)).run b := by
  simp only [rd] at h
  simp only [withDescs, run_look, h]

/-! ## Tiles -/

/-- The places that a tile is read from. -/
def Block.tileSources (b : Block) (c : Channel) (src : Bytes) (off len : Nat) : List LsPlace :=
  (descRanges src c.iter off len).flatMap (b.places c.second src false)

/-- The bytes that a tile moves: requests for what lies elsewhere, and its writes. -/
def Block.ship (b : Block) (c : Channel) (i src dst : Bytes) (off len : Nat) : Act :=
  (placeLoads (b.tileSources c src off len)).seq (Act.each (b.tilePuts c i src dst off len) fun p => putPlaces p.1 p.2)

/-- The last lines after a tile. -/
def Block.tileLast (b : Block) (c : Channel) (i src dst : Bytes) (off len : Nat) (ls : List LastLine) : List LastLine :=
  (b.tilePuts c i src dst off len).foldl (fun ls p => noteLast c off p.1 p.2 ls) ls

theorem engineBlind_send (d : Dest) (m : Msg) : EngineBlind (send d m) := fun _ _ => rfl

theorem EngineBlind.seq {a t : Act} (ha : EngineBlind a) (ht : EngineBlind t) : EngineBlind (a.seq t) := fun b e => by
  rw [run_seq, run_seq, ha, ht]

theorem engineBlind_placeLoads (ps : List LsPlace) : EngineBlind (placeLoads ps) := fun b e => by
  rw [placeLoads, run_look, run_look]
  refine EngineBlind.each _ _ (fun p => ?_) b e
  split
  · exact fun _ _ => rfl
  · split <;> exact engineBlind_send _ _

theorem engineBlind_putPlace (p : LsPlace) (bs : Bytes) : EngineBlind (putPlace p bs) := fun b e => by
  have hslot : (b.withEngine e).slot = b.slot := rfl
  rw [putPlace, run_look, run_look, hslot]
  split
  · rfl
  split
  · rfl
  split
  · rfl
  split <;> rfl

theorem engineBlind_putPlaces : ∀ (ps : List LsPlace) (bs : Bytes), EngineBlind (putPlaces ps bs)
  | [], _ => fun _ _ => rfl
  | p :: ps, bs => (engineBlind_putPlace p (bs.take p.len)).seq (engineBlind_putPlaces ps (bs.drop p.len))

theorem engineBlind_ship : EngineBlind (b.ship c i src dst off len) :=
  (engineBlind_placeLoads _).seq (EngineBlind.each _ _ fun p : List LsPlace × Bytes => engineBlind_putPlaces p.1 p.2)

/-- What the bytes of a tile touch. -/
def Scope.ships : Scope := { mem := true, lrs := true, host := true, flash := true, out := true }

theorem only_putPlace (p : LsPlace) (bs : Bytes) : (putPlace p bs).Only (Eff.In .ships) := by
  intro b
  dsimp only
  split
  · exact (only_one _ _).2 ⟨rfl, rfl⟩
  split
  · exact (only_one _ _).2 rfl
  split
  · exact (only_one _ _).2 rfl
  split <;> exact only_send rfl _ _

theorem only_putPlaces : ∀ (ps : List LsPlace) (bs : Bytes), (putPlaces ps bs).Only (Eff.In .ships)
  | [], _ => trivial
  | p :: ps, _ => (only_seq_iff _ _).2 ⟨only_putPlace p _, only_putPlaces ps _⟩

theorem only_placeLoads {S : Scope} (h : S.out = true) (ps : List LsPlace) : (placeLoads ps).Only (Eff.In S) := by
  refine fun b => (only_each_iff _ _).2 fun p _ => ?_
  split
  · trivial
  · split <;> exact only_send h _ _

theorem keeps_ship : b.Keeps .ships ((b.ship c i src dst off len).run b) :=
  ((only_seq_iff _ _).2 ⟨only_placeLoads rfl _, (only_each_iff _ _).2 fun (p : List LsPlace × Bytes) _ => only_putPlaces p.1 p.2⟩ : (b.ship c i src dst off len).Only _).keepsScope b

theorem run_placesCached (b : Block) (ps : List LsPlace) (write small : Bool) :
    ∃ k : Caches, (placesCached ps write small).run b = b.withEngine { b.ctl.engine with caches := k } := ⟨_, rfl⟩

/-- A tile that goes out: its bytes, the caches, a free value and its last lines. -/
theorem run_issueTile (h : b.tileBad e ch c i src dst off len = none) (k : Act) : ∃ g : Caches, (issueTile e ch c i src dst off len k).run b =
    k.run ((updChan e ch fun x => { x with last := b.tileLast c i src dst off len x.last }).run
      (takeFresh.run (((b.ship c i src dst off len).run b).withEngine { b.ctl.engine with caches := g }))) := by
  have hloads : b.Keeps { out := true } ((placeLoads (b.tileSources c src off len)).run b) := (only_placeLoads rfl _).keepsScope b
  have heach : EngineBlind (Act.each (b.tilePuts c i src dst off len) fun p => putPlaces p.1 p.2) :=
    EngineBlind.each _ _ fun p : List LsPlace × Bytes => engineBlind_putPlaces p.1 p.2
  rw [issueTile, run_look, h, run_all_cons, run_all_cons, run_all_cons, run_all_cons, run_all_cons, run_all_cons, run_all_cons, run_all_nil, Block.ship, run_seq]
  change ∃ g : Caches, k.run ((updChan e ch fun x => { x with last := b.tileLast c i src dst off len x.last }).run (takeFresh.run
    ((Act.each (b.tilePuts c i src dst off len) fun p => putPlaces p.1 p.2).run ((placesCached _ true _).run ((placesCached _ false _).run
      ((placeLoads (b.tileSources c src off len)).run b)))))) = _
  generalize (placeLoads (b.tileSources c src off len)).run b = d at hloads ⊢
  obtain ⟨g1, h1⟩ := run_placesCached d (b.tileSources c src off len) false (decide (streamLen dst < tileBytes))
  obtain ⟨g2, h2⟩ := run_placesCached (d.withEngine { d.ctl.engine with caches := g1 }) ((b.tilePuts c i src dst off len).flatMap Prod.fst) true
    (decide (streamLen dst < tileBytes))
  have h12 : (d.withEngine { d.ctl.engine with caches := g1 }).withEngine
      { (d.withEngine { d.ctl.engine with caches := g1 }).ctl.engine with caches := g2 } = d.withEngine { b.ctl.engine with caches := g2 } := by
    rw [← hloads.ctl.engine rfl]
    rfl
  refine ⟨g2, ?_⟩
  rw [← heach, ← h12, ← h2, ← h1]
  rfl

/-! ## Streams of one tile -/

theorem tilesLeft_one (hdone : c.done = 0) (hpos : 0 < streamLen dst) (hmost : streamLen dst ≤ tileBytes) : tilesLeft c dst = [(0, streamLen dst)] := by
  have hmin : min tileBytes (streamLen dst - 0) = streamLen dst := Nat.min_eq_right hmost
  have hrest : ∀ fuel, tilesFrom (streamLen dst) fuel (0 + tileBytes) = []
    | 0 => rfl
    | fuel + 1 => by rw [tilesFrom, if_pos (by omega)]
  rw [tilesLeft, hdone, tilesFrom, if_neg (by omega), hmin, hrest]

/-- A stream's one tile has gone out and is acknowledged (R252, R260). -/
structure Block.Tiled (b t : Block) (e ch : Nat) (c : Channel) (i src dst : Bytes) (len : Nat) : Prop where
  chan  : t.ctl.chan e ch = { c with last := b.tileLast c i src dst 0 len c.last, done := len, retries := 0, bound := false }
  count : Tab.get 0 t.ctl.engine.ls.counters (e * 4) = (Tab.get 0 b.ctl.engine.ls.counters (e * 4) + len) % 2 ^ 48
  ship  : ((b.ship c i src dst 0 len).run b).Keeps { engine := true, fresh := true } t

theorem chan_countLs (b : Block) (k n : Nat) : ((countLs e k n).run b).ctl.chan e ch = b.ctl.chan e ch := rfl

theorem tiled_moveTiles (hchan : b.ctl.chan e ch = c) (h : b.tileBad e ch c i src dst 0 len = none) (small : List Nat) (fin : Act) :
    ∃ t, b.Tiled t e ch c i src dst len ∧ (moveTiles e ch i src dst small fin [(0, len)]).run b = fin.run t := by
  obtain ⟨g, hrun⟩ := run_issueTile h (Act.all [countLs e 0 len, countLs e 1 (countIf (fun o => decide (0 ≤ o ∧ o < 0 + len)) small),
    updChan e ch (fun k => { k with done := 0 + len, retries := 0, bound := false }), moveTiles e ch i src dst small fin []])
  rw [moveTiles, run_look, hchan, hrun, run_all_cons, run_all_cons, run_all_cons, run_all_cons, run_all_nil, moveTiles]
  have hengine : ((b.ship c i src dst 0 len).run b).ctl.engine = b.ctl.engine := keeps_ship.ctl.engine rfl
  refine ⟨_, ⟨?_, ?_, ?_⟩, rfl⟩
  · rw [chan_updChan, chan_countLs, chan_countLs, chan_updChan, Nat.zero_add]
    have hsame : (takeFresh.run (((b.ship c i src dst 0 len).run b).withEngine { b.ctl.engine with caches := g })).ctl.chan e ch = b.ctl.chan e ch := rfl
    rw [hsame, hchan]
  · generalize (b.ship c i src dst 0 len).run b = d
    have hother : ∀ (t : Tab Nat) (n : Nat), Tab.get 0 (addCount t (e * 4 + 1) n) (e * 4) = Tab.get 0 t (e * 4) := fun t n => by
      unfold addCount
      exact Tab.get_set_other _ _ _ _ _ (by omega)
    exact (hother _ _).trans (Tab.get_set_self _ _ _ _)
  · generalize (b.ship c i src dst 0 len).run b = d
    have hstep : ∀ (a : Act), a.Only (Eff.In { engine := true, fresh := true }) → ∀ x, d.Keeps { engine := true, fresh := true } x →
        d.Keeps { engine := true, fresh := true } (a.run x) := fun a ha x hx => hx.trans (ha.keepsScope x)
    exact hstep _ (only_updChan rfl e ch _) _ (hstep _ (only_countLs rfl e 1 _) _ (hstep _ (only_countLs rfl e 0 len) _ (hstep _ (only_updChan rfl e ch _) _
      (hstep takeFresh ((only_one _ .fresh).2 rfl) _ { ctl := { engine := fun h => absurd h (by decide) } }))))

/-- A MOVE or MCAST whose stream is one tile sends it and comes to its end. -/
theorem Block.Stands.streams (h : b.Stands e ch op c i) {tiles : Option Nat} (htiles : tiles ≠ some 0) (hdone : c.done = 0)
    (hdescs : b.firstBad c.space [rd (lsDesc c.prog i 8) 64, rd (lsDesc c.prog i 12) 64] = none) (hsrc : b.readVa c.space (lsDesc c.prog i 8) 64 = src)
    (hdst : b.readVa c.space (lsDesc c.prog i 12) 64 = dst) (hlen : streamLen dst = len) (hpos : 0 < len) (hmost : len ≤ tileBytes)
    (hbad : b.tileBad e ch c i src dst 0 len = none) (fin : Channel → Bytes → Act) :
    ∃ t, b.Tiled t e ch c i src dst len ∧ (streamAct e ch op tiles fin).run b = (fin c i).run t := by
  subst hlen
  have hleft := tilesLeft_one (dst := dst) hdone hpos hmost
  obtain ⟨t, ht, hrun⟩ := tiled_moveTiles h.1 hbad
    (smallPieces (descRanges src c.iter 0 (streamLen dst)) (descRanges dst c.iter 0 (streamLen dst)) (streamLen dst)) (fin c i)
  refine ⟨t, ht, ?_⟩
  rw [streamAct, h.run_lsThen, run_withDescs hdescs, hsrc, hdst, ← hrun]
  dsimp only
  rw [hleft]
  rcases tiles with _ | _ | n
  · rfl
  · exact absurd rfl htiles
  · simp only [List.take_succ_cons, List.take_nil, List.length_singleton, le_refl, decide_true]
    rfl

end Issue

/-! ## The bytes of a tile -/

section Bytes
variable {b : Block} {c : Channel} {i src dst : Bytes} {len : Nat} {p d : LsPlace}

/-- SWAP 0 leaves the bytes (R259). -/
theorem swapUnits_none {unit : Nat} (hunit : 0 < unit) : ∀ (fuel : Nat) (bs : Bytes), bs.length < fuel → swapUnits 0 unit fuel bs = bs
  | 0, _, h => absurd h (Nat.not_lt_zero _)
  | fuel + 1, bs, h => by
    rw [swapUnits]
    split
    next hempty => exact (List.isEmpty_iff.1 hempty).symm
    next hsome =>
      have hpos : 0 < bs.length := List.length_pos_iff.2 fun h0 => hsome (List.isEmpty_iff.2 h0)
      rw [swapUnits_none hunit fuel (bs.drop unit) (by rw [List.length_drop]; omega)]
      exact List.take_append_drop unit bs

/-- A tile without SWAP writes what its source reads. -/
theorem tileOut_plain (hswap : bits (u8 i 1) 1 0 = 0) : b.tileOut c i src 0 len = (b.tileSources c src 0 len).flatMap b.placeBytes := by
  rw [Block.tileOut, hswap]
  exact swapUnits_none (by positivity) _ _ (Nat.lt_succ_self _)

/-- Bytes that lie outside the source are written as they are (R260). -/
theorem freeOverlap_apart {source : List LsPlace} (happart : ∀ k < p.len, inPlaces source p.at' (p.addr + k) = false) {bs : Bytes} (hlen : bs.length = p.len) :
    freeOverlap b source [p] bs = bs := by
  have hmap : ((bs.take p.len).zip (List.range p.len)).map (fun (x : Byte × Nat) =>
      if inPlaces source p.at' (p.addr + x.2) then Config.unspecifiedByte b.fresh (p.at' * 2 ^ 64 + p.addr + x.2) else x.1) =
      ((bs.take p.len).zip (List.range p.len)).map Prod.fst :=
    List.map_congr_left fun x hx => by rw [happart x.2 (List.mem_range.1 (List.of_mem_zip hx).2)]; rfl
  rw [freeOverlap, freeOverlap, List.append_nil]
  refine hmap.trans ?_
  rw [List.map_fst_zip (by rw [List.length_take, List.length_range]; omega), List.take_of_length_le (le_of_eq hlen)]

theorem length_placeBytes (b : Block) (p : LsPlace) : (b.placeBytes p).length = p.len := by
  have hblock : ∀ n a, (b.read a n).length = n := fun n => by
    induction n with
    | zero => exact fun a => rfl
    | succ n ih => exact fun a => congrArg (· + 1) (ih (a + 1))
  unfold Block.placeBytes
  split
  · exact hblock _ _
  split
  · exact Memory.length_read _ _ _
  split
  · exact Memory.length_read _ _ _
  · simp [Block.outside]

/-- The bytes of a MOVE of one tile between two places that lie apart. -/
theorem run_ship_move (hop : u8 i 0 = 1) (hlen : streamLen dst = len) (hswap : bits (u8 i 1) 1 0 = 0) (hsrc : b.tileSources c src 0 len = [p])
    (hdst : b.receiverPlaces c dst 0 len (.here c.second) = [d]) (hp : p.len = len) (hd : d.len = len)
    (happart : p.at' ≠ d.at' ∨ p.addr + len ≤ d.addr ∨ d.addr + len ≤ p.addr) :
    (b.ship c i src dst 0 len).run b = (putPlace d (b.placeBytes p)).run ((placeLoads [p]).run b) := by
  have hfree : freeOverlap b [p] [d] (b.placeBytes p) = b.placeBytes p := by
    refine freeOverlap_apart (fun k hk => ?_) (by rw [length_placeBytes, hp, hd])
    simp only [inPlaces, List.any_cons, List.any_nil, Bool.or_false, Bool.and_eq_false_iff, beq_eq_false_iff_ne, decide_eq_false_iff_not]
    by_cases hat : p.at' = d.at'
    · exact .inr (by rcases happart with h | h | h <;> omega)
    · exact .inl hat
  have hputs : b.tilePuts c i src dst 0 len = [([d], b.placeBytes p)] := by
    have hall : (descRanges src c.iter 0 (streamLen dst)).flatMap (b.places c.second src false) = [p] := by rw [hlen]; exact hsrc
    have hreceivers : b.receivers c i = [.here c.second] := by rw [Block.receivers, hop]; rfl
    rw [Block.tilePuts, hreceivers, List.map_singleton, hdst, hall, tileOut_plain hswap, hsrc, List.flatMap_singleton]
    exact congrArg (fun bs => [([d], bs)]) hfree
  rw [Block.ship, run_seq, hputs, hsrc, run_each_cons, run_each_nil, putPlaces, run_seq, putPlaces, List.take_of_length_le (by rw [length_placeBytes, hp, hd])]
  rfl

/-- Where a place's bytes go. -/
theorem putPlace_facts (x : Block) (d : LsPlace) (bs : Bytes) :
    (d.at' = x.slot → ((putPlace d bs).run x).mem = x.mem.write d.addr bs ∧ ((putPlace d bs).run x).host = x.host ∧ ((putPlace d bs).run x).flash = x.flash) ∧
    (d.at' = placeHost → ((putPlace d bs).run x).host = x.host.write d.addr bs ∧ ((putPlace d bs).run x).mem = x.mem ∧
      ((putPlace d bs).run x).flash = x.flash) ∧
    (d.at' = placeFlash → ((putPlace d bs).run x).flash = x.flash.write d.addr bs ∧ ((putPlace d bs).run x).mem = x.mem ∧
      ((putPlace d bs).run x).host = x.host) := by
  have hslot : x.slot < 8 := x.ctl.glb.slot.isLt
  have hh : placeHost = 17 := rfl
  have hf : placeFlash = 16 := rfl
  simp only [putPlace, run_look]
  refine ⟨fun h => ?_, fun h => ?_, fun h => ?_⟩
  · rw [if_pos h]
    exact ⟨rfl, rfl, rfl⟩
  · rw [if_neg (by omega), if_pos h]
    exact ⟨rfl, rfl, rfl⟩
  · rw [if_neg (by omega), if_neg (by omega), if_pos h]
    exact ⟨rfl, rfl, rfl⟩

end Bytes

/-! ## MOVE and MCAST (R257 to R261, R264, R275, R276) -/

section Ends
variable {b t : Block} {e ch : Nat} {c : Channel} {i src dst : Bytes} {len : Nat}

/-- The next instruction, behind a descriptor boundary. -/
def Channel.passed (c : Channel) : Channel := { c with instr := c.instr + 1, done := 0, retries := 0, bound := true }

/-- No stop is asked for at the descriptor boundary behind an instruction. -/
theorem run_pass_boundary (hstop : (t.ctl.chan e ch).stop = false) :
    (boundary e ch).run ((lsNext e ch true).run t) = (updChan e ch Channel.passed).run t := by
  have hchan : (((updChan e ch Channel.passed).run t).ctl.chan e ch) = (t.ctl.chan e ch).passed := chan_updChan e ch _
  have hnext : (lsNext e ch true).run t = (updChan e ch Channel.passed).run t := rfl
  rw [hnext, boundary, run_look, hchan]
  simp only [Channel.passed, hstop, Bool.false_and, run_when_false]

/-- A MOVE of one tile without SWAP between two places that lie apart. -/
theorem move_facts {tiles : Option Nat} {p d : LsPlace} (h : b.Stands e ch 1 c i) (hch : ch < 32) (htiles : tiles ≠ some 0) (hstop : c.stop = false)
    (hdone : c.done = 0) (hfw : fwChannel e ch = false) (hdescs : b.firstBad c.space [rd (lsDesc c.prog i 8) 64, rd (lsDesc c.prog i 12) 64] = none)
    (hsrc : b.readVa c.space (lsDesc c.prog i 8) 64 = src) (hdst : b.readVa c.space (lsDesc c.prog i 12) 64 = dst) (hlen : streamLen dst = len)
    (hpos : 0 < len) (hmost : len ≤ tileBytes) (hswap : bits (u8 i 1) 1 0 = 0) (hbad : b.tileBad e ch c i src dst 0 len = none)
    (hp : b.tileSources c src 0 len = [p]) (hd : b.receiverPlaces c dst 0 len (.here c.second) = [d]) (hplen : p.len = len) (hdlen : d.len = len)
    (happart : p.at' ≠ d.at' ∨ p.addr + len ≤ d.addr ∨ d.addr + len ≤ p.addr) (t : Block) (ht : stopCheck.run ((moveAct e ch tiles).run b) = t) :
    (d.at' = b.slot → t.mem = b.mem.write d.addr (b.placeBytes p) ∧ t.host = b.host ∧ t.flash = b.flash) ∧
    (d.at' = placeHost → t.host = b.host.write d.addr (b.placeBytes p) ∧ t.mem = b.mem ∧ t.flash = b.flash) ∧
    (d.at' = placeFlash → t.flash = b.flash.write d.addr (b.placeBytes p) ∧ t.mem = b.mem ∧ t.host = b.host) ∧
    (t.ctl.chan e ch).instr = c.instr + 1 ∧ (t.ctl.chan e ch).done = 0 ∧ (t.ctl.chan e ch).state = .run ∧ (t.ctl.chan e ch).bound = true ∧
    Tab.get 0 t.ctl.engine.ls.counters (e * 4) = (Tab.get 0 b.ctl.engine.ls.counters (e * 4) + len) % 2 ^ 48 ∧
    t.sems = b.sems ∧ t.arb = b.arb ∧ t.fuses = b.fuses := by
  obtain ⟨m, hm, hrun⟩ := h.streams htiles hdone hdescs hsrc hdst hlen hpos hmost hbad fun _ _ => (lsNext e ch true).seq (boundary e ch)
  obtain ⟨-, hstate, -, -, -, hop⟩ := h
  obtain ⟨hchan, hcount, hship⟩ := hm
  rw [run_ship_move hop hlen hswap hp hd hplen hdlen happart] at hship
  have hloads : b.Keeps { out := true } ((placeLoads [p]).run b) := (only_placeLoads rfl _).keepsScope b
  generalize (placeLoads [p]).run b = x at hship hloads
  obtain ⟨hown, hhost, hflash⟩ := putPlace_facts x d (b.placeBytes p)
  have hput := (only_putPlace d (b.placeBytes p)).keepsScope x
  have hslot : x.slot = b.slot := (hloads.sameMap rfl).slot
  rw [hslot] at hown
  generalize (putPlace d (b.placeBytes p)).run x = y at hship hown hhost hflash hput
  have hpass : (moveAct e ch tiles).run b = (updChan e ch Channel.passed).run m := by
    rw [moveAct, hrun, run_seq, run_pass_boundary (by rw [hchan]; exact hstop)]
  rw [hpass] at ht
  have hlast : m.Keeps { engine := true } ((updChan e ch Channel.passed).run m) := (only_updChan rfl e ch _).keepsScope m
  have hlastchan : ((updChan e ch Channel.passed).run m).ctl.chan e ch = (m.ctl.chan e ch).passed := chan_updChan e ch _
  have hlastcount : Tab.get 0 ((updChan e ch Channel.passed).run m).ctl.engine.ls.counters (e * 4) = Tab.get 0 m.ctl.engine.ls.counters (e * 4) := rfl
  generalize (updChan e ch Channel.passed).run m = u at ht hlast hlastchan hlastcount
  rw [hchan] at hlastchan
  have hustate : (u.ctl.chan e ch).state = .run := by rw [hlastchan]; exact hstate
  rw [run_stopCheck_running (by rw [hustate]; decide) hch hfw] at ht
  subst ht
  have hrest : y.Keeps { engine := true, fresh := true } u := hship.trans (hlast.widen {})
  have hsame : b.Keeps { Scope.ships with engine := true, fresh := true } u := (hloads.widen {}).trans ((hput.widen {}).trans (hrest.widen {}))
  refine ⟨fun hat => ?_, fun hat => ?_, fun hat => ?_, ?_, ?_, hustate, ?_, hlastcount.trans hcount, hsame.sems rfl, hsame.arb rfl, hsame.fuses rfl⟩
  · obtain ⟨h1, h2, h3⟩ := hown hat
    exact ⟨by rw [hrest.mem rfl, h1, hloads.mem rfl], by rw [hrest.host rfl, h2, hloads.host rfl], by rw [hrest.flash rfl, h3, hloads.flash rfl]⟩
  · obtain ⟨h1, h2, h3⟩ := hhost hat
    exact ⟨by rw [hrest.host rfl, h1, hloads.host rfl], by rw [hrest.mem rfl, h2, hloads.mem rfl], by rw [hrest.flash rfl, h3, hloads.flash rfl]⟩
  · obtain ⟨h1, h2, h3⟩ := hflash hat
    exact ⟨by rw [hrest.flash rfl, h1, hloads.flash rfl], by rw [hrest.mem rfl, h2, hloads.mem rfl], by rw [hrest.host rfl, h3, hloads.host rfl]⟩
  all_goals rw [hlastchan]; rfl

/-! ## A receiver on another module -/

theorem run_placeLoads_own {ps : List LsPlace} (h : ∀ p ∈ ps, p.at' = b.slot ∨ p.at' = placeFlash ∨ p.at' = placeHost) : (placeLoads ps).run b = b := by
  rw [placeLoads, run_look]
  exact run_each_idle fun p hp => by rw [if_pos (h p hp)]; rfl

/-- The place of a rank's memory. -/
def rankPlace (r a len : Nat) : LsPlace := { at' := 64 + r, addr := a, len := len }

theorem rankPlace_elsewhere (b : Block) (r a len : Nat) :
    (rankPlace r a len).at' ≠ b.slot ∧ (rankPlace r a len).at' ≠ placeFlash ∧ (rankPlace r a len).at' ≠ placeHost ∧ ¬(rankPlace r a len).at' < 16 := by
  have hslot : b.slot < 8 := b.ctl.glb.slot.isLt
  have hh : placeHost = 17 := rfl
  have hf : placeFlash = 16 := rfl
  have hat : (rankPlace r a len).at' = 64 + r := rfl
  omega

theorem run_placeLoads_rank (b : Block) (r a len : Nat) : (placeLoads [rankPlace r a len]).run b = b.sending (.rank r) (.request (.rankLoad r b.ctl.rank a len)) := by
  obtain ⟨h1, h2, h3, h4⟩ := rankPlace_elsewhere b r a len
  have hr : (rankPlace r a len).at' - 64 = r := Nat.add_sub_cancel_left 64 r
  rw [placeLoads, run_look, run_each_cons, run_each_nil, if_neg (by rintro (h | h | h) <;> contradiction), if_neg h4, hr]
  rfl

theorem run_putPlace_rank (b : Block) (r a len : Nat) (bs : Bytes) :
    (putPlace (rankPlace r a len) bs).run b = b.sending (.rank r) (.request (.rankStore r b.ctl.rank a bs)) := by
  obtain ⟨h1, h2, h3, h4⟩ := rankPlace_elsewhere b r a len
  have hr : (rankPlace r a len).at' - 64 = r := Nat.add_sub_cancel_left 64 r
  rw [putPlace, run_look, if_neg h1, if_neg h3, if_neg h2, if_neg h4, hr]
  rfl

/-- A signal to a slot that is neither the module's own nor taken over. -/
theorem run_signalSlot_away {second : Bool} {k sem n : Nat} {poison : Bool} (hk : k ≠ b.slot) (hrank2 : b.ctl.pair.rank2 = none) :
    (signalSlot second k sem n poison).run b =
      b.sending (.slot (if b.ctl.rankOnSlot k < b.ctl.jobP then b.ctl.slotOfRank (b.ctl.rankOnSlot k) else k))
        (.request (remoteSignal (b.ctl.rankOnSlot k) sem n poison)) := by
  have htaken : b.takenSlot = none := by rw [Block.takenSlot, hrank2]; rfl
  rw [signalSlot, run_look, if_neg hk, htaken, if_neg (by simp)]
  rfl

/-- What an MCAST of one tile to one receiver on another module writes. -/
theorem tilePuts_mcast {k a : Nat} (hop : u8 i 0 = 2) (hslots : mcastSlots c i = [k]) (hk : k ≠ b.slot) (hrank2 : b.ctl.pair.rank2 = none)
    (hlen : streamLen dst = len) (hswap : bits (u8 i 1) 1 0 = 0) (hdst : descRanges dst c.iter 0 len = [(a, len)])
    (hown : ∀ p ∈ b.tileSources c src 0 len, p.at' = b.slot ∨ p.at' = placeFlash ∨ p.at' = placeHost)
    (hbytes : ((b.tileSources c src 0 len).flatMap b.placeBytes).length = len) :
    b.tilePuts c i src dst 0 len = [([rankPlace (b.ctl.rankOnSlot k) a len], (b.tileSources c src 0 len).flatMap b.placeBytes)] := by
  have htaken : b.takenSlot = none := by rw [Block.takenSlot, hrank2]; rfl
  have hreceivers : b.receivers c i = [.rank (b.ctl.rankOnSlot k)] := by
    rw [Block.receivers, hop, if_pos rfl, hslots, List.map_singleton, Block.receiver, if_neg hk, htaken, if_neg (by simp)]
  have hplaces : b.receiverPlaces c dst 0 len (.rank (b.ctl.rankOnSlot k)) = [rankPlace (b.ctl.rankOnSlot k) a len] := by
    rw [Block.receiverPlaces, hdst]
    rfl
  have hall : (descRanges src c.iter 0 (streamLen dst)).flatMap (b.places c.second src false) = b.tileSources c src 0 len := by rw [hlen]; rfl
  obtain ⟨h1, h2, h3, -⟩ := rankPlace_elsewhere b (b.ctl.rankOnSlot k) a len
  have hfree : freeOverlap b (b.tileSources c src 0 len) [rankPlace (b.ctl.rankOnSlot k) a len] ((b.tileSources c src 0 len).flatMap b.placeBytes) =
      (b.tileSources c src 0 len).flatMap b.placeBytes := by
    refine freeOverlap_apart (fun j _ => List.any_eq_false.2 fun p hp => ?_) hbytes
    have hat : (p.at' == (rankPlace (b.ctl.rankOnSlot k) a len).at') = false := beq_eq_false_iff_ne.2 fun h => by
      rcases hown p hp with h' | h' | h' <;> exact absurd (h.symm.trans h') (by assumption)
    rw [hat, Bool.false_and]
    decide
  rw [Block.tilePuts, hreceivers, List.map_singleton, hplaces, hall, tileOut_plain hswap]
  exact congrArg (fun bs => [([rankPlace (b.ctl.rankOnSlot k) a len], bs)]) hfree

/-- The last line of one place. -/
theorem noteLast_one (c : Channel) (p : LsPlace) (bs : Bytes) (hp : p.len ≠ 0) : noteLast c 0 [p] bs [] = [lastLineOf c 0 p (bs.take p.len)] := by
  rw [noteLast, noteLast, if_neg hp]
  rfl

/-- The last line of `len` bytes lies in the line of their last byte. -/
theorem lastLine_line {a len : Nat} (hpos : 0 < len) : max a ((a + len - 1) / 64 * 64) / 64 * 64 = (a + len - 1) / 64 * 64 := by
  rcases Nat.le_total a ((a + len - 1) / 64 * 64) with h | h
  · rw [Nat.max_eq_right h, Nat.mul_div_cancel _ (by decide)]
  · rw [Nat.max_eq_left h]
    omega

/-- The read-back of a line of another module asks for it, and goes on. -/
theorem run_readBack_rank {l : LastLine} {r : Nat} (hlast : (b.ctl.chan e ch).last = [l]) (hunit : l.unit = 64 + r) (k : Act) : (readBack e ch k).run b =
    k.run ((updChan e ch fun c => { c with last := [] }).run (b.sending (.rank r) (.request (.rankLoad r b.ctl.rank (l.addr / 64 * 64) 64)))) := by
  have hslot : b.slot < 8 := b.ctl.glb.slot.isLt
  have hh : placeHost = 17 := rfl
  have hholds : b.lineHolds l = true := by rw [Block.lineHolds, hunit, if_neg (by omega), if_neg (by omega)]
  have hplace : ({ at' := l.unit, addr := l.addr / 64 * 64, len := 64 } : LsPlace) = rankPlace r (l.addr / 64 * 64) 64 := by rw [hunit]; rfl
  have hfind : [l].find? (fun l => !b.lineHolds l) = none := by rw [List.find?_singleton, hholds]; rfl
  rw [readBack, run_look]
  simp only [hlast, hfind, List.map_singleton, hplace, run_all_cons, run_all_nil, run_placeLoads_rank]

/-- The signal of an MCAST to its one receiver on another module. -/
def mcastSignal (c : Ctl) (k sem : Nat) : Sent :=
  { dest := .slot (if c.rankOnSlot k < c.jobP then c.slotOfRank (c.rankOnSlot k) else k), msg := .request (remoteSignal (c.rankOnSlot k) sem 1 false) }

theorem mcastSignal_congr {c d : Ctl} (hglb : c.glb = d.glb) (hlinks : c.links = d.links) (k sem : Nat) : mcastSignal c k sem = mcastSignal d k sem := by
  have hreset : ∀ c : Ctl, mcastSignal c k sem = mcastSignal { Ctl.reset with glb := c.glb, links := c.links } k sem := fun _ => rfl
  rw [hreset, hglb, hlinks, ← hreset]

/-- The end of an MCAST to one receiver on another module. -/
theorem run_mcast_signal {k sem : Nat} (hslots : mcastSlots (b.ctl.chan e ch) i = [k]) (hk : k ≠ b.slot) (hrank2 : b.ctl.pair.rank2 = none)
    (hstop : (b.ctl.chan e ch).stop = false) :
    (Act.look fun b => Act.all [Act.each (mcastSlots (b.ctl.chan e ch) i) fun s => signalSlot (b.ctl.chan e ch).second s sem 1 false, lsNext e ch true,
      boundary e ch]).run b =
      (updChan e ch Channel.passed).run (b.sending (mcastSignal b.ctl k sem).dest (mcastSignal b.ctl k sem).msg) := by
  rw [run_look, hslots, run_all_cons, run_each_cons, run_each_nil, run_signalSlot_away hk hrank2, run_all_cons, run_all_cons, run_all_nil]
  exact run_pass_boundary hstop

/-- An MCAST of one tile to one receiver on another module: the tile, the read-back of its last line, and the signal (R264, R275, R276). -/
theorem mcast_facts {tiles : Option Nat} {k a : Nat} {bytes : Bytes} (h : b.Stands e ch 2 c i) (hch : ch < 32) (he : 32 ≤ e) (htiles : tiles ≠ some 0)
    (hstop : c.stop = false) (hdone : c.done = 0) (hlast : c.last = []) (hfw : fwChannel e ch = false) (hslots : mcastSlots c i = [k]) (hk : k ≠ b.slot)
    (hrank2 : b.ctl.pair.rank2 = none) (hdescs : b.firstBad c.space [rd (lsDesc c.prog i 8) 64, rd (lsDesc c.prog i 12) 64] = none)
    (hsrc : b.readVa c.space (lsDesc c.prog i 8) 64 = src) (hdst : b.readVa c.space (lsDesc c.prog i 12) 64 = dst) (hlen : streamLen dst = len)
    (hpos : 0 < len) (hmost : len ≤ tileBytes) (hswap : bits (u8 i 1) 1 0 = 0) (hbad : b.tileBad e ch c i src dst 0 len = none)
    (hranges : descRanges dst c.iter 0 len = [(a, len)]) (hbytes : (b.tileSources c src 0 len).flatMap b.placeBytes = bytes) (hcount : bytes.length = len)
    (hown : ∀ p ∈ b.tileSources c src 0 len, p.at' = b.slot ∨ p.at' = placeFlash ∨ p.at' = placeHost) (t : Block)
    (ht : stopCheck.run ((mcastAct e ch tiles).run b) = t) :
    t.out = { dest := .slot (if b.ctl.rankOnSlot k < b.ctl.jobP then b.ctl.slotOfRank (b.ctl.rankOnSlot k) else k),
              msg := .request (remoteSignal (b.ctl.rankOnSlot k) (bits (u16 i 4) 14 0) 1 false) } ::
            { dest := .rank (b.ctl.rankOnSlot k), msg := .request (.rankLoad (b.ctl.rankOnSlot k) b.ctl.rank ((a + len - 1) / 64 * 64) 64) } ::
            { dest := .rank (b.ctl.rankOnSlot k), msg := .request (.rankStore (b.ctl.rankOnSlot k) b.ctl.rank a bytes) } :: b.out ∧
    (t.ctl.chan e ch).instr = c.instr + 1 ∧ (t.ctl.chan e ch).last = [] ∧ t.mem = b.mem ∧ t.host = b.host ∧ t.sems = b.sems ∧ t.arb = b.arb := by
  obtain ⟨m, hm, hrun⟩ := h.streams htiles hdone hdescs hsrc hdst hlen hpos hmost hbad fun _ i => readBack e ch <| .look fun b =>
    Act.all [Act.each (mcastSlots (b.ctl.chan e ch) i) fun s => signalSlot (b.ctl.chan e ch).second s (bits (u16 i 4) 14 0) 1 false, lsNext e ch true, boundary e ch]
  obtain ⟨-, hstate, -, -, -, hop⟩ := h
  obtain ⟨hchan, -, hship⟩ := hm
  have hputs := tilePuts_mcast hop hslots hk hrank2 hlen hswap hranges hown (by rw [hbytes]; exact hcount)
  rw [hbytes] at hputs
  have hshiprun : (b.ship c i src dst 0 len).run b =
      b.sending (.rank (b.ctl.rankOnSlot k)) (.request (.rankStore (b.ctl.rankOnSlot k) b.ctl.rank a bytes)) := by
    have htake : bytes.take (rankPlace (b.ctl.rankOnSlot k) a len).len = bytes := List.take_of_length_le (le_of_eq hcount)
    rw [Block.ship, run_seq, run_placeLoads_own hown, hputs, run_each_cons, run_each_nil, putPlaces, run_seq, putPlaces, htake, run_putPlace_rank]
    rfl
  rw [hshiprun] at hship
  have hmlast : (m.ctl.chan e ch).last = [lastLineOf c 0 (rankPlace (b.ctl.rankOnSlot k) a len) bytes] := by
    rw [hchan]
    simp only [Block.tileLast, hputs, List.foldl_cons, List.foldl_nil, hlast]
    rw [noteLast_one c (rankPlace (b.ctl.rankOnSlot k) a len) bytes (Nat.pos_iff_ne_zero.1 hpos)]
    exact congrArg (fun bs => [lastLineOf c 0 (rankPlace (b.ctl.rankOnSlot k) a len) bs]) (List.take_of_length_le (le_of_eq hcount))
  have hline : (lastLineOf c 0 (rankPlace (b.ctl.rankOnSlot k) a len) bytes).addr / 64 * 64 = (a + len - 1) / 64 * 64 := lastLine_line hpos
  have hact : (mcastAct e ch tiles).run b = (streamAct e ch 2 tiles fun _ i => readBack e ch <| .look fun b =>
      Act.all [Act.each (mcastSlots (b.ctl.chan e ch) i) fun s => signalSlot (b.ctl.chan e ch).second s (bits (u16 i 4) 14 0) 1 false, lsNext e ch true,
        boundary e ch]).run b := by
    rw [mcastAct, if_neg (by omega)]
  rw [hact, hrun, run_readBack_rank hmlast rfl, hline] at ht
  have hstore : b.Keeps { out := true } (b.sending (.rank (b.ctl.rankOnSlot k)) (.request (.rankStore (b.ctl.rankOnSlot k) b.ctl.rank a bytes))) :=
    { out := fun h => nomatch h }
  have hout : (b.sending (.rank (b.ctl.rankOnSlot k)) (.request (.rankStore (b.ctl.rankOnSlot k) b.ctl.rank a bytes))).out =
      { dest := .rank (b.ctl.rankOnSlot k), msg := .request (.rankStore (b.ctl.rankOnSlot k) b.ctl.rank a bytes) } :: b.out := rfl
  generalize b.sending (.rank (b.ctl.rankOnSlot k)) (.request (.rankStore (b.ctl.rankOnSlot k) b.ctl.rank a bytes)) = store at hship hstore hout
  have hrank : m.ctl.rank = b.ctl.rank := congrArg (fun l : Links => if l.fabric.fabric = 0 then 0 else l.fabric.myRank)
    ((hship.ctl.links rfl).trans (hstore.ctl.links rfl))
  rw [hrank] at ht
  have hload : m.Keeps { out := true, engine := true } ((updChan e ch fun c => { c with last := [] }).run
      (m.sending (.rank (b.ctl.rankOnSlot k)) (.request (.rankLoad (b.ctl.rankOnSlot k) b.ctl.rank ((a + len - 1) / 64 * 64) 64)))) :=
    { out := fun h => (nomatch h), ctl := { engine := fun h => nomatch h } }
  have hloadout : ((updChan e ch fun c => { c with last := [] }).run
      (m.sending (.rank (b.ctl.rankOnSlot k)) (.request (.rankLoad (b.ctl.rankOnSlot k) b.ctl.rank ((a + len - 1) / 64 * 64) 64)))).out =
      { dest := .rank (b.ctl.rankOnSlot k), msg := .request (.rankLoad (b.ctl.rankOnSlot k) b.ctl.rank ((a + len - 1) / 64 * 64) 64) } :: m.out := rfl
  have hloadchan : ((updChan e ch fun c => { c with last := [] }).run
      (m.sending (.rank (b.ctl.rankOnSlot k)) (.request (.rankLoad (b.ctl.rankOnSlot k) b.ctl.rank ((a + len - 1) / 64 * 64) 64)))).ctl.chan e ch =
      { m.ctl.chan e ch with last := [] } := chan_updChan e ch _
  generalize (updChan e ch fun c => { c with last := [] }).run
    (m.sending (.rank (b.ctl.rankOnSlot k)) (.request (.rankLoad (b.ctl.rankOnSlot k) b.ctl.rank ((a + len - 1) / 64 * 64) 64))) = x at ht hload hloadout hloadchan
  have hx : b.Keeps { out := true, engine := true, fresh := true } x := (hstore.widen {}).trans ((hship.widen {}).trans (hload.widen {}))
  rw [hchan] at hloadchan
  have hsignal : mcastSignal x.ctl k (bits (u16 i 4) 14 0) = mcastSignal b.ctl k (bits (u16 i 4) 14 0) :=
    mcastSignal_congr (hx.ctl.glb rfl) (hx.ctl.links rfl) _ _
  rw [run_mcast_signal (k := k) (by rw [hloadchan]; exact hslots) (by rw [(hx.sameMap rfl).slot]; exact hk) (by rw [hx.ctl.pair rfl]; exact hrank2)
    (by rw [hloadchan]; exact hstop), hsignal] at ht
  have hu : x.Keeps { out := true, engine := true } ((updChan e ch Channel.passed).run
      (x.sending (mcastSignal b.ctl k (bits (u16 i 4) 14 0)).dest (mcastSignal b.ctl k (bits (u16 i 4) 14 0)).msg)) :=
    { out := fun h => (nomatch h), ctl := { engine := fun h => nomatch h } }
  have huout : ((updChan e ch Channel.passed).run
      (x.sending (mcastSignal b.ctl k (bits (u16 i 4) 14 0)).dest (mcastSignal b.ctl k (bits (u16 i 4) 14 0)).msg)).out =
      mcastSignal b.ctl k (bits (u16 i 4) 14 0) :: x.out := rfl
  have huchan : ((updChan e ch Channel.passed).run
      (x.sending (mcastSignal b.ctl k (bits (u16 i 4) 14 0)).dest (mcastSignal b.ctl k (bits (u16 i 4) 14 0)).msg)).ctl.chan e ch =
      (x.ctl.chan e ch).passed := chan_updChan e ch _
  generalize (updChan e ch Channel.passed).run
      (x.sending (mcastSignal b.ctl k (bits (u16 i 4) 14 0)).dest (mcastSignal b.ctl k (bits (u16 i 4) 14 0)).msg) = u at ht hu huout huchan
  rw [hloadchan] at huchan
  have hustate : (u.ctl.chan e ch).state = .run := by rw [huchan]; exact hstate
  rw [run_stopCheck_running (by rw [hustate]; decide) hch hfw] at ht
  subst ht
  have hall : b.Keeps { out := true, engine := true, fresh := true } u := hx.trans (hu.widen {})
  refine ⟨?_, by rw [huchan]; rfl, by rw [huchan]; rfl, hall.mem rfl, hall.host rfl, hall.sems rfl, hall.arb rfl⟩
  rw [huout, hloadout, hship.out rfl, hout]
  rfl

end Ends

end Sys2Proof.Machine


namespace Sys2Proof.Machine

/-! # Longshore channels: ejected receivers, stops and bus errors (R263, R270, R273, R277) -/

section Patience
variable {b : Block} {e ch : Nat} {c : Channel} {i : Bytes}

/-- What poison at a board slot touches: a semaphore of this module, or a message. -/
theorem only_signalSlot_poison (second : Bool) (k sem : Nat) : (signalSlot second k sem 0 true).Only (Eff.In { sems := true, out := true }) := by
  intro b
  dsimp only
  split
  · exact (only_one _ _).2 rfl
  split
  · exact (only_one _ _).2 rfl
  · exact only_send rfl _ _

/-- The event of an ejected receiver (Table 09-3). -/
def ejectDetail (c : Channel) (e ch slot sem : Nat) : Nat :=
  min (ceilDiv c.done tileBytes) (2 ^ 32 - 1) * 2 ^ 32 + sem * 2 ^ 16 + slot * 2 ^ 13 + ch * 2 ^ 8 + e

/-- The receiver on which a running MCAST waits is ejected (R277). -/
theorem mcastPatience_facts {slot : Nat} (h : b.Stands e ch 2 c i) (he : 32 ≤ e) (he' : e < 256) (hch : ch < 32) (hk : slot < 8)
    (hslot : slot ∈ mcastSlots c i) (t : Block) (ht : (mcastPatienceAct e ch slot).run b = t) :
    t.ctl.chan e ch = { c with ejected := c.ejected ||| BitVec.ofNat 8 (2 ^ slot), fault := none } ∧
    b.Raised t 0x0500 (src 3 (chKey e ch)) (ejectDetail c e ch slot (bits (u16 i 4) 14 0)) ∧
    Tab.get 0 t.ctl.engine.ls.counters (e * 4 + 3) = (Tab.get 0 b.ctl.engine.ls.counters (e * 4 + 3) + 1) % 2 ^ 48 ∧ t.mem = b.mem ∧ t.host = b.host := by
  obtain ⟨hchan, hstate, hserved, -, hi, hop⟩ := h
  have hrun : (mcastPatienceAct e ch slot).run b = (updChan e ch fun k => { k with ejected := k.ejected ||| BitVec.ofNat 8 (2 ^ slot), state := .run, fault := none }).run
      ((signalSlot c.second slot (bits (u16 i 4) 14 0) 0 true).run ((countLs e 3 1).run
        (b.accept 0x0500 (src 3 (chKey e ch)) (ejectDetail c e ch slot (bits (u16 i 4) 14 0))))) := by
    have hfree : (ChState.run == ChState.run) = true := rfl
    have hhalt : (ChState.run == ChState.haltedFault) = false := rfl
    rw [mcastPatienceAct, run_look]
    simp only [hchan, hi, hop, hstate, hserved, hfree, hhalt, Bool.and_self, Bool.true_or, beq_self_eq_true, decide_eq_true he, List.contains_iff_mem.2 hslot, run_when_true,
      run_all_cons, run_all_nil, run_when_false, Nat.mod_eq_of_lt hk, Nat.mod_eq_of_lt hch, Nat.mod_eq_of_lt he', run_raise]
    rfl
  rw [hrun] at ht
  generalize hx : (countLs e 3 1).run (b.accept 0x0500 (src 3 (chKey e ch)) (ejectDetail c e ch slot (bits (u16 i 4) 14 0))) = x at ht
  have hraised : b.Raised x 0x0500 (src 3 (chKey e ch)) (ejectDetail c e ch slot (bits (u16 i 4) 14 0)) := by subst hx; rfl
  have hcount : Tab.get 0 x.ctl.engine.ls.counters (e * 4 + 3) = (Tab.get 0 b.ctl.engine.ls.counters (e * 4 + 3) + 1) % 2 ^ 48 := by
    subst hx
    exact Tab.get_set_self _ _ _ _
  have hxchan : x.ctl.chan e ch = c := by subst hx; exact hchan
  have hxkeeps : b.Keeps { arb := true, power := true, engine := true } x := by
    subst hx
    exact (keeps_accept rfl rfl b _ _ _).trans ((only_countLs rfl e 3 1).keepsScope _)
  have hsignal := (only_signalSlot_poison c.second slot (bits (u16 i 4) 14 0)).keepsScope x
  generalize (signalSlot c.second slot (bits (u16 i 4) 14 0) 0 true).run x = y at ht hsignal
  have hlast := (only_updChan rfl e ch fun k => { k with ejected := k.ejected ||| BitVec.ofNat 8 (2 ^ slot), state := .run, fault := none }).keepsScope
    (S := { engine := true }) y
  have hlastchan : ((updChan e ch fun k => { k with ejected := k.ejected ||| BitVec.ofNat 8 (2 ^ slot), state := .run, fault := none }).run y).ctl.chan e ch =
      { y.ctl.chan e ch with ejected := (y.ctl.chan e ch).ejected ||| BitVec.ofNat 8 (2 ^ slot), state := .run, fault := none } := chan_updChan e ch _
  have hlastcount : Tab.get 0 ((updChan e ch fun k => { k with ejected := k.ejected ||| BitVec.ofNat 8 (2 ^ slot), state := .run, fault := none }).run
      y).ctl.engine.ls.counters (e * 4 + 3) = Tab.get 0 y.ctl.engine.ls.counters (e * 4 + 3) := rfl
  rw [ht] at hlast hlastchan hlastcount
  have hychan : y.ctl.chan e ch = c := by rw [Ctl.chan, hsignal.ctl.engine rfl]; exact hxchan
  have hmem : b.Keeps { arb := true, power := true, engine := true, sems := true, out := true } t :=
    (hxkeeps.widen {}).trans ((hsignal.widen {}).trans (hlast.widen {}))
  refine ⟨?_, ?_, ?_, hmem.mem rfl, hmem.host rfl⟩
  · rw [hlastchan, hychan, ← hstate]
  · rw [Block.Raised, hlast.arb rfl, hsignal.arb rfl]
    exact hraised
  · rw [hlastcount, hsignal.ctl.engine rfl, hcount]

end Patience

/-! ## Poison at semaphores of the module and as messages (R289, R290) -/

section Darkens
variable {b c t : Block}

/-- What poison may touch: semaphores and messages. -/
def Scope.poisons : Scope := { sems := true, out := true }

/-- Semaphores have only become poisoned. -/
structure Block.Darkens (b t : Block) : Prop where
  keeps  : ∀ k, semPoisoned (b.sem k) = true → semPoisoned (t.sem k) = true
  count  : ∀ k, semCount (t.sem k) = semCount (b.sem k)

theorem Block.Darkens.trans (hbc : b.Darkens c) (hct : c.Darkens t) : b.Darkens t where
  keeps k hk := hct.keeps k (hbc.keeps k hk)
  count k := (hct.count k).trans (hbc.count k)

theorem Block.Darkens.of_sems (h : t.sems = b.sems) : b.Darkens t where
  keeps k hk := by rw [Block.sem, h]; exact hk
  count k := by rw [Block.sem, Block.sem, h]

theorem darkens_run {a : Act} (ha : a.Only Eff.Poisons) (b : Block) : b.Darkens (a.run b) := by
  refine Act.Only.keeps b Eff.Poisons b.Darkens (fun c e he hc => Block.Darkens.trans hc ?_) a ha (.of_sems rfl)
  cases e <;> simp only [Eff.Poisons] at he
  case poison k =>
    obtain ⟨hkeeps, hcount, -⟩ := poisons_apply c k
    exact ⟨hkeeps, hcount⟩
  case send d m => exact .of_sems rfl

theorem keeps_poisons {a : Act} (ha : a.Only Eff.Poisons) (b : Block) : b.Keeps .poisons (a.run b) :=
  (Act.Only.imp (fun e he => by
    cases e <;> simp only [Eff.Poisons] at he
    case poison k => exact rfl
    case send d m => exact rfl) a ha : a.Only (Eff.In .poisons)).keepsScope b

/-- Every semaphore of this module in a list of signals is poisoned. -/
theorem poisoned_each (second : Bool) {g : Nat} (hlocal : bit g 19 = false) (es : List Nat) (b : Block) (hg : g ∈ es) :
    semPoisoned (((Act.each es (signalEntry second true)).run b).sem (semIn second (entrySem g))) = true := by
  induction es generalizing b with
  | nil => exact absurd hg List.not_mem_nil
  | cons e es ih =>
    rw [run_each_cons]
    by_cases he : g ∈ es
    · exact ih _ he
    · obtain rfl : g = e := (List.mem_cons.1 hg).resolve_right he
      refine (darkens_run (only_each _ _ _ (poisons_signalEntry second)) _).keeps _ ?_
      rw [run_signalEntry_local second hlocal, sem_apply_poison, semPoisoned_semWord]

theorem only_sendPoison (d : Dest) (m : Msg) : (send d m).Only Eff.Poisons := (only_one _ _).2 trivial

theorem poisons_signalSlot (second : Bool) (k sem : Nat) : (signalSlot second k sem 0 true).Only Eff.Poisons := by
  intro b
  dsimp only
  split
  · exact ⟨trivial, trivial⟩
  · split <;> exact ⟨trivial, trivial⟩

theorem poisons_xferPoison (cove : Nat) (second : Bool) (r : Bytes) : (xferPoison cove second r).Only Eff.Poisons := by
  refine fun b => (only_each_iff _ _).2 fun ⟨target, slot, sem, rank⟩ _ => ?_
  dsimp only
  split
  · exact ⟨trivial, trivial⟩
  split
  · exact poisons_signalSlot _ _ _
  · intro b
    dsimp only
    split
    · exact ⟨trivial, trivial⟩
    · exact only_sendPoison _ _

theorem poisons_tideNotices (cove : Nat) (second : Bool) (r : Bytes) (begun sent : Bool) : (tideNotices cove second r begun sent).Only Eff.Poisons := by
  intro b
  dsimp only
  split
  · rw [only_all_cons, only_all_cons]
    exact ⟨(only_when_iff _ _).2 fun _ => (only_opt_iff _ _).2 fun _ _ => only_sendPoison _ _,
      (only_when_iff _ _).2 fun _ => (only_opt_iff _ _).2 fun _ _ => only_sendPoison _ _, trivial⟩
  · exact (only_when_iff _ _).2 fun _ => (only_each_iff _ _).2 fun _ _ => only_sendPoison _ _
  · exact (only_when_iff _ _).2 fun _ => (only_opt_iff _ _).2 fun _ _ => only_sendPoison _ _
  · rw [only_all_cons, only_all_cons]
    exact ⟨(only_when_iff _ _).2 fun _ => (only_each_iff _ _).2 fun _ _ => only_sendPoison _ _, (only_when_iff _ _).2 fun _ => (only_each_iff _ _).2 fun _ _ => only_sendPoison _ _, trivial⟩
  · trivial

theorem poisons_endSignals (cove : Nat) (second : Bool) (r : Bytes) (begun sent : Bool) : (endSignals cove second r true begun sent).Only Eff.Poisons := by
  rw [endSignals, only_all_cons, only_all_cons, only_all_cons, only_when_iff, only_when_iff]
  exact ⟨only_each _ _ _ (poisons_signalEntry second), fun _ => poisons_xferPoison _ _ _, fun _ => poisons_tideNotices _ _ _ _ _, trivial⟩

end Darkens

end Sys2Proof.Machine


namespace Sys2Proof.Machine

/-! # A stop of a channel (R273) -/

/-! ## What poison does to bytes that lie in the semaphore block (R281) -/

section Above
variable {b t : Block}

/-- Bytes that are at least those of another list, place by place. -/
def Bytes.AtMost : Bytes → Bytes → Prop := List.Forall₂ fun x y : Byte => x.toNat ≤ y.toNat

theorem atMost_refl (r : Bytes) : Bytes.AtMost r r := List.forall₂_same.2 fun _ _ => Nat.le_refl _

theorem u8_atMost {r r' : Bytes} (h : Bytes.AtMost r r') (off : Nat) : u8 r off ≤ u8 r' off := by
  have hcut : Bytes.AtMost ((r.drop off).take 1) ((r'.drop off).take 1) := List.forall₂_take 1 (List.forall₂_drop off h)
  have hle : ∀ {x y : Bytes}, Bytes.AtMost x y → leNat x ≤ leNat y := fun {x y} h => by
    induction h with
    | nil => exact Nat.le_refl _
    | cons hb _ ih => exact Nat.add_le_add hb (Nat.mul_le_mul_left 256 ih)
  exact hle hcut

/-- The bytes of a semaphore word that is poisoned with its count are at least those before. -/
theorem semWord_bytes_le {w w' : BitVec 32} (hcount : semCount w' = semCount w) (hkeeps : semPoisoned w = true → semPoisoned w' = true) {j : Nat} (hj : j < 4) :
    w.toNat / 256 ^ j % 256 ≤ w'.toNat / 256 ^ j % 256 := by
  have hw := w.isLt
  have hw' := w'.isLt
  simp only [semCount, semPoisoned, decide_eq_true_eq] at hcount hkeeps
  have hcases : w'.toNat = w.toNat ∨ (w'.toNat = w.toNat + 2 ^ 31 ∧ w.toNat < 2 ^ 31) := by omega
  rcases hcases with h | ⟨h, hlow⟩
  · rw [h]
  · rw [h]
    interval_cases j <;> omega

theorem byteAt_le (h : b.Darkens t) (hmem : t.mem = b.mem) (a : Nat) : (b.byteAt a).toNat ≤ (t.byteAt a).toNat := by
  unfold Block.byteAt
  split
  case isFalse => rw [hmem]
  case isTrue =>
    dsimp only
    split
    · rw [BitVec.toNat_ofNat, BitVec.toNat_ofNat]
      exact semWord_bytes_le (h.count _) (h.keeps _) (by assumption)
    · exact Nat.le_refl _

theorem read_atMost (h : b.Darkens t) (hmem : t.mem = b.mem) : ∀ n a, Bytes.AtMost (b.read a n) (t.read a n)
  | 0, _ => .nil
  | n + 1, a => .cons (byteAt_le h hmem a) (read_atMost h hmem n (a + 1))

theorem readVa_atMost (h : b.Darkens t) (hmap : b.SameMap t) (hfresh : t.fresh = b.fresh) (sp : Space) (va len : Nat) :
    Bytes.AtMost (b.readVa sp va len) (t.readVa sp va len) := by
  unfold Block.readVa
  induction parts va len with
  | nil => exact .nil
  | cons p ps ih =>
    obtain ⟨v, n⟩ := p
    rw [List.flatMap_cons, List.flatMap_cons]
    refine List.rel_append ?_ ih
    dsimp only
    rw [hmap.xlate, hmap.slot]
    split
    · split
      · exact read_atMost h hmap.mem _ _
      · rw [Block.outside, Block.outside, hfresh]
        exact atMost_refl _
    · exact atMost_refl _

/-- Poison closes no sequence, wherever its table lies. -/
theorem openSeqs_ne_nil (h : b.Darkens t) (hmap : b.SameMap t) (hfresh : t.fresh = b.fresh) (hseqs : t.ctl.fw.seqs = b.ctl.fw.seqs) (hopen : b.openSeqs ≠ []) :
    t.openSeqs ≠ [] := by
  obtain ⟨q, hq⟩ := List.exists_mem_of_ne_nil _ hopen
  obtain ⟨hmem, hstate⟩ := List.mem_filter.1 hq
  have hle : (b.seq q).state ≤ (t.seq q).state := by
    have hplan : t.seqBytes false q = t.readVa fwSpace (b.ctl.plan.seqEntry q) 64 := by rw [← hmap.plan]; rfl
    have hbytes : Bytes.AtMost (b.seqBytes false q) (t.seqBytes false q) := by
      rw [hplan]
      exact readVa_atMost h hmap hfresh fwSpace (b.ctl.plan.seqEntry q) 64
    exact u8_atMost hbytes 28
  refine List.ne_nil_of_mem (a := q) (List.mem_filter.2 ⟨by rw [hseqs]; exact hmem, ?_⟩)
  have hpos : (b.seq q).state ≠ 0 := by simpa [seqClosed] using hstate
  have hpos' : (t.seq q).state ≠ 0 := by omega
  simpa [seqClosed] using hpos'

end Above

/-! ## The end of a program that a stop asks for -/

section Stop
variable {b t : Block} {e ch : Nat} {c : Channel} {x : Ctx}

/-- What the poisoned end of a context leaves. -/
structure Block.EndsPoisoned (b t : Block) (cove n : Nat) (x : Ctx) : Prop where
  ctx      : (t.ctl.cove cove).ctx n = none
  ls       : t.ctl.engine.ls = b.ctl.engine.ls
  darkens  : b.Darkens t
  keeps    : b.Keeps { Scope.poisons with engine := true } t
  poisoned : ∀ g ∈ recSignals x.record, bit g 19 = false → semPoisoned (t.sem (semIn x.second (entrySem g))) = true

theorem endsPoisoned {cove n : Nat} (hx : (b.ctl.cove cove).ctx n = some x) : b.EndsPoisoned ((endInstance cove n true).run b) cove n x := by
  have hall := poisons_endSignals cove x.second x.record x.begun x.txDone
  have hdark := darkens_run hall b
  have hkeeps := keeps_poisons hall b
  have hpoisoned : ∀ g ∈ recSignals x.record, bit g 19 = false →
      semPoisoned (((endSignals cove x.second x.record true x.begun x.txDone).run b).sem (semIn x.second (entrySem g))) = true := fun g hg hlocal => by
    rw [endSignals, run_all_cons]
    refine (darkens_run ?_ _).keeps _ (poisoned_each x.second hlocal _ b hg)
    exact ((only_all_cons _ _).1 hall).2
  have hrun : (endInstance cove n true).run b = (Act.upd fun c => c.setCove cove fun v => v.setCtx n none).run
      ((stopThreads cove n).run ((endSignals cove x.second x.record true x.begun x.txDone).run b)) := by
    simp only [endInstance, run_look, hx, run_opt_some, run_all_cons, run_all_nil]
  rw [hrun]
  generalize (endSignals cove x.second x.record true x.begun x.txDone).run b = d at hdark hkeeps hpoisoned
  have hstop : (stopThreads cove n).Only (Eff.In { engine := true }) := by
    unfold stopThreads
    exact only_setCove rfl cove fun _ v => _
  have hls : ((stopThreads cove n).run d).ctl.engine.ls = d.ctl.engine.ls := rfl
  have htail := hstop.keepsScope d
  generalize (stopThreads cove n).run d = f at hls htail
  have hfree : (Act.upd fun c => c.setCove cove fun v => v.setCtx n none).Only (Eff.In { engine := true }) :=
    only_setCove rfl cove fun _ v => v.setCtx n none
  have hall' := htail.trans (hfree.keepsScope f)
  refine ⟨?_, ?_, hdark.trans (.of_sems (hall'.sems rfl)), (hkeeps.widen {}).trans (hall'.widen {}), fun g hg hlocal => ?_⟩
  · rw [run_upd, Ctl.cove_setCove_same, Cove.ctx_setCtx]
  · exact hls.trans (congrArg Engine.ls (hkeeps.ctl.engine rfl))
  · exact (Block.Darkens.of_sems (hall'.sems rfl)).keeps _ (hpoisoned g hg hlocal)

/-- The block in which the XFER of a channel whose program ends poisoned signals. -/
def Block.programOver (b : Block) (e ch : Nat) : Block :=
  (Act.upd fun c => { c with fw := { c.fw with faults := c.fw.faults.filter fun f => f.who != .channel e ch } }).run
    ((updChan e ch fun _ => Channel.idle).run ((flagPass fun f => { f with poisoned := true }).run b))

theorem run_endProgramOf_poisoned (b : Block) (e ch : Nat) : (endProgramOf e ch true).run b =
    (endInstance (b.ctl.chan e ch).cove (b.ctl.chan e ch).ctx true).run (b.programOver e ch) := by
  rw [endProgramOf, run_look, run_all_cons, run_all_cons, run_all_cons, run_all_cons, run_all_nil, run_when_true]
  rfl

theorem keeps_programOver (b : Block) (e ch : Nat) : b.Keeps { job := true, engine := true, fw := true } (b.programOver e ch) :=
  ((only_job rfl _).keepsScope b).trans (((only_updChan rfl e ch _).keepsScope _).trans ((only_fw rfl _).keepsScope _))

/-- The end of one channel's program is not what a STOP_JOB waits for last. -/
theorem run_stopCheck_over (hstays : b.StaysInJob e ch) (h : (b.programOver e ch).EndsPoisoned t c.cove c.ctx x) : stopCheck.run t = t := by
  obtain ⟨-, hls, hdark, hkeeps, -⟩ := h
  have hover := keeps_programOver b e ch
  have hstop : (b.programOver e ch).ctl.job.stopping = b.ctl.job.stopping := rfl
  have hseqs : (b.programOver e ch).ctl.fw.seqs = b.ctl.fw.seqs := rfl
  have hothers : ∀ k, k ≠ chKey e ch → Tab.get Channel.idle (b.programOver e ch).ctl.engine.ls.chans k = Tab.get Channel.idle b.ctl.engine.ls.chans k :=
    fun k hk => Tab.get_set_other Channel.idle b.ctl.engine.ls.chans (chKey e ch) k Channel.idle hk
  generalize b.programOver e ch = d at hls hdark hkeeps hover hstop hseqs hothers
  refine run_stopCheck_stays ?_
  rcases hstays with h | h | ⟨k, hk, hstate, hfw⟩
  · exact .inl (by rw [hkeeps.ctl.job rfl, hstop, h])
  · have hd : d.openSeqs ≠ [] := by rw [(hover.sameView rfl).openSeqs hseqs]; exact h
    exact .inr (.inl (openSeqs_ne_nil hdark (hkeeps.sameMap rfl) (hkeeps.fresh rfl) (by rw [hkeeps.ctl.fw rfl]) hd))
  · exact .inr (.inr (chansQuiet_false (k := k) (by rw [hls, hothers k hk]; exact hstate) hfw))

/-- A requested stop takes effect on a halted channel, at a WAIT and at a descriptor boundary. -/
theorem channelStop_facts (hchan : b.ctl.chan e ch = c) (hstop : c.stop = true)
    (hat : c.state = .haltedFault ∨ (c.state = .run ∧ (c.bound = true ∨ u8 (b.lsInstr c.space c.prog c.instr) 0 = 4)))
    (hx : (b.ctl.cove c.cove).ctx c.ctx = some x) (hstays : b.StaysInJob e ch) (ht : stopCheck.run ((channelStopAct e ch).run b) = t) :
    t.ctl.chan e ch = Channel.idle ∧ (t.ctl.cove c.cove).ctx c.ctx = none ∧ (∀ f ∈ t.ctl.fw.faults, f.who ≠ .channel e ch) ∧
    (∀ g ∈ recSignals x.record, bit g 19 = false → semPoisoned (t.sem (semIn x.second (entrySem g))) = true) ∧
    t.mem = b.mem ∧ t.host = b.host ∧ t.arb = b.arb := by
  have htakes : (c.stop && (c.state == .haltedFault || (c.state == .run && (u8 (b.lsInstr c.space c.prog c.instr) 0 == 4 || c.bound)))) = true := by
    rcases hat with h | ⟨h, h' | h'⟩
    · rw [hstop, h]; rfl
    · rw [hstop, h, h', Bool.or_true]; rfl
    · rw [hstop, h, h']; rfl
  have hrun : (channelStopAct e ch).run b = (endInstance c.cove c.ctx true).run (b.programOver e ch) := by
    rw [channelStopAct, run_look, hchan]
    exact (congrArg (fun p => (Act.when p (endProgramOf e ch true)).run b) htakes).trans ((run_endProgramOf_poisoned b e ch).trans (by rw [hchan]))
  have hend := endsPoisoned (b := b.programOver e ch) (x := x) (cove := c.cove) (n := c.ctx) hx
  rw [hrun, run_stopCheck_over (c := c) hstays hend] at ht
  rw [ht] at hend
  obtain ⟨hctx, hls, -, hkeeps, hpoisoned⟩ := hend
  have hover := keeps_programOver b e ch
  have hidle : (b.programOver e ch).ctl.chan e ch = Channel.idle :=
    Tab.get_set_self Channel.idle b.ctl.engine.ls.chans (chKey e ch) Channel.idle
  have hfaults : ∀ f ∈ (b.programOver e ch).ctl.fw.faults, f.who ≠ .channel e ch := fun f hf => by
    simpa using (List.mem_filter.1 hf).2
  refine ⟨?_, hctx, ?_, hpoisoned, (hkeeps.mem rfl).trans (hover.mem rfl), (hkeeps.host rfl).trans (hover.host rfl), (hkeeps.arb rfl).trans (hover.arb rfl)⟩
  · rw [← hidle, Ctl.chan, hls]
    rfl
  · rw [hkeeps.ctl.fw rfl]
    exact hfaults

end Stop

end Sys2Proof.Machine


namespace Sys2Proof.Machine

/-! # Bus errors of a channel (R263, R264, R270, R402) -/

/-! ## A tile under another state of the engines -/

section Blind
variable {b : Block} {e ch off len : Nat} {c : Channel} {i src dst : Bytes}

theorem sameView_withEngine (b : Block) (g : Engine) : b.SameView (b.withEngine g) := ⟨rfl, rfl, rfl, rfl, rfl, rfl⟩

theorem placeBytes_withEngine (b : Block) (g : Engine) (p : LsPlace) : (b.withEngine g).placeBytes p = b.placeBytes p := by
  unfold Block.placeBytes
  rw [read_withEngine]
  rfl

theorem tileOut_withEngine (b : Block) (g : Engine) : (b.withEngine g).tileOut c i src off len = b.tileOut c i src off len := by
  unfold Block.tileOut
  rw [funext (placeBytes_withEngine b g)]
  rfl

theorem freeOverlap_withEngine (b : Block) (g : Engine) (source : List LsPlace) (ps : List LsPlace) (bs : Bytes) :
    freeOverlap (b.withEngine g) source ps bs = freeOverlap b source ps bs := by
  induction ps generalizing bs with
  | nil => rfl
  | cons p ps ih =>
    rw [freeOverlap, freeOverlap, ih]
    rfl

theorem tilePuts_withEngine (b : Block) (g : Engine) : (b.withEngine g).tilePuts c i src dst off len = b.tilePuts c i src dst off len := by
  unfold Block.tilePuts
  simp only [tileOut_withEngine, freeOverlap_withEngine]
  rfl

theorem tileBad_withEngine (b : Block) (g : Engine) : (b.withEngine g).tileBad e ch c i src dst off len = b.tileBad e ch c i src dst off len := rfl

theorem ship_withEngine (b : Block) (g : Engine) : (b.withEngine g).ship c i src dst off len = b.ship c i src dst off len := by
  rw [Block.ship, Block.ship, tilePuts_withEngine]
  rfl

/-- What a tile is does not depend on its retries and on the last lines of its channel. -/
theorem tileBad_retried (b : Block) (n : Nat) (ls : List LastLine) :
    b.tileBad e ch { c with retries := n, last := ls } i src dst off len = b.tileBad e ch c i src dst off len := rfl

theorem ship_retried (b : Block) (n : Nat) (ls : List LastLine) : b.ship { c with retries := n, last := ls } i src dst off len = b.ship c i src dst off len := rfl

/-- A tile that goes out again from a channel that differs in retries and last lines, under other states of the engines. -/
structure Block.Reissued (b t : Block) (e ch : Nat) (c : Channel) (i src dst : Bytes) (off len : Nat) (g : Engine) : Prop where
  mem      : t.mem = (b.issued e ch c i src dst off len).mem
  host     : t.host = (b.issued e ch c i src dst off len).host
  flash    : t.flash = (b.issued e ch c i src dst off len).flash
  out      : t.out = (b.issued e ch c i src dst off len).out
  keeps    : b.Keeps { Scope.ships with engine := true, fresh := true } t
  chan     : ∃ ls, t.ctl.chan e ch = { (b.withEngine g).ctl.chan e ch with last := ls }
  counters : t.ctl.engine.ls.counters = g.ls.counters
  serves   : t.ctl.engine.ls.serves = g.ls.serves

theorem reissued (h : b.tileBad e ch c i src dst off len = none) (g : Engine) (n : Nat) (ls : List LastLine) :
    b.Reissued ((issueTile e ch { c with retries := n, last := ls } i src dst off len .done).run (b.withEngine g)) e ch c i src dst off len g := by
  obtain ⟨k, hk⟩ := run_issueTile h .done
  obtain ⟨k', hk'⟩ := run_issueTile (b := b.withEngine g) (c := { c with retries := n, last := ls })
    (((tileBad_withEngine b g).trans (tileBad_retried b n ls)).trans h) .done
  have hship : (((b.withEngine g).ship { c with retries := n, last := ls } i src dst off len).run (b.withEngine g)) =
      ((b.ship c i src dst off len).run b).withEngine g := by
    rw [ship_withEngine, ship_retried, engineBlind_ship]
  rw [hship] at hk'
  rw [hk']
  have hissued : b.issued e ch c i src dst off len = _ := hk
  have hkeeps : b.Keeps .ships ((b.ship c i src dst off len).run b) := keeps_ship
  generalize (b.ship c i src dst off len).run b = d at hkeeps hissued
  rw [Act.run]
  refine ⟨by rw [hissued]; rfl, by rw [hissued]; rfl, by rw [hissued]; rfl, by rw [hissued]; rfl, (hkeeps.widen {}).trans ?_, ⟨_, chan_updChan e ch _⟩, rfl, rfl⟩
  have hdrawn : d.Keeps { engine := true, fresh := true } (takeFresh.run ((d.withEngine g).withEngine { (b.withEngine g).ctl.engine with caches := k' })) :=
    { fresh := fun h => (nomatch h), ctl := { engine := fun h => (nomatch h) } }
  exact (hdrawn.trans ((only_updChan rfl e ch _).keepsScope _)).widen {}

/-! ## The charge of a retried error (R402) -/

section Charge
variable {m : Block}

/-- An error of a channel that is retried is counted and recorded against the channel that serves the number. -/
structure Block.RetryCounted (b t : Block) (e ch at' : Nat) : Prop where
  count   : Tab.get 0 t.ctl.engine.ls.counters (e * 4 + 2) = (Tab.get 0 b.ctl.engine.ls.counters (e * 4 + 2) + 1) % 2 ^ 48
  history : t.ctl.health.history =
    b.ctl.health.history ++ [{ time := b.lhTime, cls := 8, kind := 0, unit := b.ctl.engine.ls.server (chKey e ch), detail := at' }]
  spares  : t.ctl.health.spares = b.ctl.health.spares

/-- The channel that serves a number, as a unit. -/
def Block.channelUnit (b : Block) (e ch : Nat) : UnitRef := { cls := 8, number := b.ctl.engine.ls.server (chKey e ch), row := 0, bank := 0 }

/-- The history has room for one more error. -/
theorem addHistory_room {h : List ErrRec} {r : ErrRec} (hkind : r.kind = 0) (hroom : countIf (fun x => x.kind != 2) h < 1024) : addHistory h r = h ++ [r] := by
  have hcount : countIf (fun x => x.kind != 2) (h ++ [r]) = countIf (fun x : ErrRec => x.kind != 2) h + 1 := by
    rw [countIf, countIf, List.filter_append, List.length_append, List.filter_singleton, hkind]
    rfl
  rw [addHistory, hcount]
  exact if_neg (by omega)

theorem charge_facts {at' : Nat} (hkeep : b.Keeps { Scope.ships with engine := true, fresh := true } m)
    (hserves : m.ctl.engine.ls.serves = b.ctl.engine.ls.serves)
    (hcount : Tab.get 0 m.ctl.engine.ls.counters (e * 4 + 2) = (Tab.get 0 b.ctl.engine.ls.counters (e * 4 + 2) + 1) % 2 ^ 48)
    (hstop : b.ctl.job.stopping = none) (hfew : (b.chargeTimes (b.channelUnit e ch)).length < b.ctl.thresh)
    (hroom : countIf (fun x => x.kind != 2) b.ctl.health.history < 1024) :
    ∃ h : Health, stopCheck.run ((chargeChannel e ch true at').run m) = m.withHealth (fun _ => h) ∧ b.RetryCounted (m.withHealth fun _ => h) e ch at' := by
  have hunit : m.channelUnit e ch = b.channelUnit e ch := by
    rw [Block.channelUnit, Block.channelUnit, Engines.server, Engines.server, hserves]
  have htimes : m.chargeTimes (b.channelUnit e ch) = b.chargeTimes (b.channelUnit e ch) := by
    rw [Block.chargeTimes, Block.chargeTimes, Ctl.window, Ctl.window, hkeep.ctl.power rfl, hkeep.time rfl, hkeep.ctl.health rfl]
  have hfew' : (m.chargeTimes (b.channelUnit e ch)).length < m.ctl.thresh := by
    rw [htimes, Ctl.thresh, hkeep.ctl.power rfl]
    exact hfew
  have hrun : (chargeChannel e ch true at').run m = m.withHealth fun h => h.charged m.lhTime (b.channelUnit e ch) (m.chargeTimes (b.channelUnit e ch)) at' := by
    have hcharge := run_chargeError_transient hfew' at' .done
    rw [← hunit] at hcharge ⊢
    exact hcharge
  have hstays : ∀ f, stopCheck.run (m.withHealth f) = m.withHealth f := fun f =>
    run_stopCheck_stays (b := m.withHealth f) (.inl ((congrArg Job.stopping (hkeep.ctl.job rfl)).trans hstop))
  rw [hrun, hstays]
  have hspares : m.ctl.health.spares = b.ctl.health.spares := congrArg Health.spares (hkeep.ctl.health rfl)
  refine ⟨_, rfl, hcount, ?_, hspares⟩
  have hhistory : (b.ctl.health.charged b.lhTime (b.channelUnit e ch) (m.chargeTimes (b.channelUnit e ch)) at').history = b.ctl.health.history ++
      [{ time := b.lhTime, cls := 8, kind := 0, unit := b.ctl.engine.ls.server (chKey e ch), detail := at' }] := addHistory_room rfl hroom
  rw [← hhistory, ← hkeep.ctl.health rfl, ← hkeep.time rfl]
  rfl

end Charge

end Blind

end Sys2Proof.Machine


namespace Sys2Proof.Machine

/-! # Retried tiles of a channel (R263, R264, R270) -/

section Retry
variable {b t : Block} {e ch addr : Nat} {c : Channel} {kind : BusErr} {i src dst : Bytes}

/-- The engines once an error has been counted in LS_RETRY and its channel changed. -/
def Block.retryEngine (b : Block) (e ch : Nat) (f : Channel → Channel) : Engine := ((updChan e ch f).run ((countLs e 2 1).run b)).ctl.engine

theorem chan_retryEngine (b : Block) (e ch : Nat) (f : Channel → Channel) : (b.withEngine (b.retryEngine e ch f)).ctl.chan e ch = f (b.ctl.chan e ch) :=
  chan_updChan e ch f

theorem count_retryEngine (b : Block) (e ch : Nat) (f : Channel → Channel) :
    Tab.get 0 (b.retryEngine e ch f).ls.counters (e * 4 + 2) = (Tab.get 0 b.ctl.engine.ls.counters (e * 4 + 2) + 1) % 2 ^ 48 :=
  Tab.get_set_self _ _ _ _

theorem serves_retryEngine (b : Block) (e ch : Nat) (f : Channel → Channel) : (b.retryEngine e ch f).ls.serves = b.ctl.engine.ls.serves := rfl

theorem keeps_withEngine (b : Block) (g : Engine) : b.Keeps { Scope.ships with engine := true, fresh := true } (b.withEngine g) :=
  { ctl := { engine := fun h => (nomatch h) } }

theorem run_counted (b : Block) (e ch : Nat) (f : Channel → Channel) (k : Act) :
    (Act.all [countLs e 2 1, updChan e ch f, k]).run b = k.run (b.withEngine (b.retryEngine e ch f)) := by
  rw [run_all_cons, run_all_cons, run_all_cons, run_all_nil]
  rfl

/-- A channel counts one more try. -/
def Channel.triedAgain (k : Channel) : Channel := { k with retries := k.retries + 1 }

theorem run_busErrorAct_retry (hchan : b.ctl.chan e ch = c) (hstate : c.state = .run) (hch : ch < engineChans e) (hfw : fwChannel e ch = false)
    (hkind : ∀ target, kind ≠ .readBack target) (hmore : c.retries < b.ctl.plan.retryOf e) :
    (busErrorAct e ch kind addr).run b =
      (chargeChannel e ch true addr).run ((reissueTile e ch).run (b.withEngine (b.retryEngine e ch Channel.triedAgain))) := by
  have hrun : (ChState.run == ChState.run) = true := rfl
  rw [busErrorAct, run_look]
  simp only [hchan, hstate, hfw, Bool.false_eq_true, if_false, hrun, decide_eq_true hch, Bool.and_self, run_when_true, decide_eq_true hmore]
  have hcounted := run_counted b e ch Channel.triedAgain (reissueTile e ch)
  cases kind with
  | readBack target => exact absurd rfl (hkind target)
  | noResponse | fabricError | pcieError | pcieTimeout =>
    rw [← hcounted, run_all_cons, run_all_cons, run_all_nil]
    rfl

/-- The last lines with one more try of one of them. -/
def Channel.lineAgain (l : LastLine) (k : Channel) : Channel :=
  { k with last := k.last.map fun x => if x = l then { x with retries := x.retries + 1 } else x }

theorem run_busErrorAct_line {target : Nat} {l : LastLine} (hchan : b.ctl.chan e ch = c) (hstate : c.state = .run) (hch : ch < engineChans e)
    (hfw : fwChannel e ch = false) (hline : c.last.find? (fun x => x.unit == target) = some l) (hmore : l.retries < b.ctl.plan.retryOf e) :
    (busErrorAct e ch (.readBack target) addr).run b =
      (chargeChannel e ch true l.addr).run ((reissueLine e ch l).run (b.withEngine (b.retryEngine e ch (Channel.lineAgain l)))) := by
  have hrun : (ChState.run == ChState.run) = true := rfl
  rw [busErrorAct, run_look]
  simp only [hchan, hstate, hfw, Bool.false_eq_true, if_false, hrun, decide_eq_true hch, Bool.and_self, run_when_true, hline, run_opt_some, lineError, run_look,
    decide_eq_true hmore, if_true]
  rw [← run_counted, run_all_cons, run_all_cons, run_all_nil]
  rfl

/-! ## The tile again -/

theorem lsInstr_withEngine (b : Block) (g : Engine) (sp : Space) (prog n : Nat) : (b.withEngine g).lsInstr sp prog n = b.lsInstr sp prog n :=
  (sameView_withEngine b g).readVa _ _ _

theorem run_withDescs_withEngine (g : Engine) {sa da : Nat} (hsa : lsDesc c.prog i 8 = sa) (hda : lsDesc c.prog i 12 = da)
    (h : b.firstBad c.space [rd sa 64, rd da 64] = none) (k : Bytes → Bytes → Act) :
    (withDescs e ch c i k).run (b.withEngine g) = (k (b.readVa c.space sa 64) (b.readVa c.space da 64)).run (b.withEngine g) := by
  subst hsa hda
  have hbad : (b.withEngine g).firstBad c.space [rd (lsDesc c.prog i 8) 64, rd (lsDesc c.prog i 12) 64] = none := h
  rw [run_withDescs hbad, (sameView_withEngine b g).readVa, (sameView_withEngine b g).readVa]

theorem run_reissueTile_other {g : Engine} (hchan : (b.withEngine g).ctl.chan e ch = c) (hi : b.lsInstr c.space c.prog c.instr = i) (hmove : u8 i 0 ≠ 1)
    (hmcast : u8 i 0 ≠ 2) : (reissueTile e ch).run (b.withEngine g) = b.withEngine g := by
  rw [reissueTile, run_look, hchan]
  dsimp only
  rw [lsInstr_withEngine, hi, beq_eq_false_iff_ne.2 hmove, beq_eq_false_iff_ne.2 hmcast, Bool.or_self, run_when_false]

theorem run_reissueTile {g : Engine} {off len : Nat} (hchan : (b.withEngine g).ctl.chan e ch = c)
    (hi : b.lsInstr c.space c.prog c.instr = i) (hop : u8 i 0 = 1 ∨ u8 i 0 = 2)
    (hdescs : b.firstBad c.space [rd (lsDesc c.prog i 8) 64, rd (lsDesc c.prog i 12) 64] = none) (hsrc : b.readVa c.space (lsDesc c.prog i 8) 64 = src)
    (hdst : b.readVa c.space (lsDesc c.prog i 12) 64 = dst) (hhead : (tilesLeft c dst).head? = some (off, len)) :
    (reissueTile e ch).run (b.withEngine g) = (issueTile e ch c i src dst off len .done).run (b.withEngine g) := by
  have hstream : (u8 i 0 == 1 || u8 i 0 == 2) = true := by rcases hop with h | h <;> rw [h] <;> rfl
  rw [reissueTile, run_look, hchan]
  dsimp only
  rw [lsInstr_withEngine, hi, hstream, run_when_true, run_withDescs_withEngine g rfl rfl hdescs, hsrc, hdst, hhead, run_opt_some]

theorem run_reissueLine {g : Engine} {l : LastLine} {d : Channel} (hchan : (b.withEngine g).ctl.chan e ch = d)
    (hc : { d with instr := l.instr, iter := l.iter } = c) (hi : b.lsInstr c.space c.prog c.instr = i)
    (hdescs : b.firstBad c.space [rd (lsDesc c.prog i 8) 64, rd (lsDesc c.prog i 12) 64] = none) (hsrc : b.readVa c.space (lsDesc c.prog i 8) 64 = src)
    (hdst : b.readVa c.space (lsDesc c.prog i 12) 64 = dst) :
    (reissueLine e ch l).run (b.withEngine g) =
      (issueTile e ch c i src dst l.off (min tileBytes (streamLen dst - l.off)) .done).run (b.withEngine g) := by
  rw [reissueLine, run_look, hchan, hc]
  dsimp only
  rw [lsInstr_withEngine, hi, run_withDescs_withEngine g rfl rfl hdescs, hsrc, hdst]

/-! ## The three ways in which an error is retried -/

/-- A retried error of a tile, as the tile's channel, memories and messages show it. -/
structure Block.TileRetried (b s t : Block) (e ch : Nat) (d : Channel) : Prop where
  retries : (t.ctl.chan e ch).retries = d.retries
  done    : (t.ctl.chan e ch).done = d.done
  instr   : (t.ctl.chan e ch).instr = d.instr
  mem     : t.mem = s.mem
  host    : t.host = s.host
  flash   : t.flash = s.flash
  out     : t.out = s.out
  sems    : t.sems = b.sems
  arb     : t.arb = b.arb

/-- A channel's error whose tile goes out again is charged as one that is retried. -/
theorem tileRetried {at' n off len : Nat} {f : Channel → Channel} {ls : List LastLine}
    (hbad : b.tileBad e ch c i src dst off len = none)
    (ht : stopCheck.run ((chargeChannel e ch true at').run
      ((issueTile e ch { c with retries := n, last := ls } i src dst off len .done).run (b.withEngine (b.retryEngine e ch f)))) = t)
    (hstop : b.ctl.job.stopping = none) (hfew : (b.chargeTimes (b.channelUnit e ch)).length < b.ctl.thresh)
    (hroom : countIf (fun x => x.kind != 2) b.ctl.health.history < 1024) :
    b.TileRetried (b.issued e ch c i src dst off len) t e ch (f (b.ctl.chan e ch)) ∧ b.RetryCounted t e ch at' := by
  obtain ⟨hmem, hhost, hflash, hout, hkeeps, ⟨last, hchan⟩, hcounters, hserves⟩ := reissued hbad (b.retryEngine e ch f) n ls
  generalize (issueTile e ch { c with retries := n, last := ls } i src dst off len .done).run (b.withEngine (b.retryEngine e ch f)) = m
    at ht hmem hhost hflash hout hkeeps hchan hcounters hserves
  obtain ⟨h, hrun, hcounted⟩ := charge_facts (at' := at') hkeeps (hserves.trans (serves_retryEngine b e ch f)) (by rw [hcounters]; exact count_retryEngine b e ch f) hstop hfew hroom
  rw [hrun] at ht
  subst ht
  have hchan' : (m.withHealth fun _ => h).ctl.chan e ch = { f (b.ctl.chan e ch) with last := last } := by
    rw [← chan_retryEngine b e ch f]
    exact hchan
  refine ⟨⟨?_, ?_, ?_, hmem, hhost, hflash, hout, hkeeps.sems rfl, hkeeps.arb rfl⟩, hcounted⟩
  all_goals rw [hchan']

/-- An error of a channel that stands at no stream. -/
theorem busError_idle_facts (hchan : b.ctl.chan e ch = c) (hstate : c.state = .run) (hch : ch < engineChans e) (hfw : fwChannel e ch = false)
    (hstop : b.ctl.job.stopping = none) (hfew : (b.chargeTimes (b.channelUnit e ch)).length < b.ctl.thresh)
    (hroom : countIf (fun x => x.kind != 2) b.ctl.health.history < 1024) (hkind : ∀ target, kind ≠ .readBack target)
    (hmore : c.retries < b.ctl.plan.retryOf e) (hi : b.lsInstr c.space c.prog c.instr = i) (hmove : u8 i 0 ≠ 1) (hmcast : u8 i 0 ≠ 2)
    (ht : stopCheck.run ((busErrorAct e ch kind addr).run b) = t) :
    t.ctl.chan e ch = { c with retries := c.retries + 1 } ∧ b.RetryCounted t e ch addr ∧ b.SameOutside t := by
  have hchan' : (b.withEngine (b.retryEngine e ch Channel.triedAgain)).ctl.chan e ch = c.triedAgain := by rw [chan_retryEngine, hchan]
  have hserves := serves_retryEngine b e ch Channel.triedAgain
  have hcount := count_retryEngine b e ch Channel.triedAgain
  rw [run_busErrorAct_retry hchan hstate hch hfw hkind hmore, run_reissueTile_other hchan' hi hmove hmcast] at ht
  generalize b.retryEngine e ch Channel.triedAgain = g at ht hchan' hserves hcount
  obtain ⟨h, hrun, hcounted⟩ := charge_facts (at' := addr) (keeps_withEngine b g) hserves hcount hstop hfew hroom
  rw [hrun] at ht
  subst ht
  exact ⟨hchan', hcounted, rfl, rfl, rfl, rfl, rfl, rfl, rfl, rfl, rfl, rfl, rfl, rfl⟩

end Retry

/-- Settles O46: a tile goes out through the places of its streams whatever the engines hold, so one that is tried again writes what it wrote. -/
theorem channelMovesAndErrors : Obligations.ChannelMovesAndErrors := by
  unfold Obligations.ChannelMovesAndErrors
  refine ⟨⟨?move, ?mcast⟩, ?busError, ?stop, ?patience⟩
  case move =>
    intro s e ch tiles c i p d h htiles hstop hdone hfw sa da hdescs src dst len hpos hmost hswap hbad hp hd hplen hdlen happart
    exact ⟨_, runs_of_perform rfl rfl,
      move_facts h ch.isLt htiles hstop hdone hfw hdescs rfl rfl rfl hpos hmost hswap hbad hp hd hplen hdlen happart _ (run_seq _ _ _).symm⟩
  case mcast =>
    intro s e ch tiles c i k a h he htiles hstop hdone hlast hfw hslots hk hrank2 sa da hdescs src dst len hpos hmost hswap hbad hranges sources bytes hbytes
      hown r
    exact ⟨_, runs_of_perform rfl rfl,
      mcast_facts h ch.isLt he htiles hstop hdone hlast hfw hslots hk hrank2 hdescs rfl rfl rfl hpos hmost hswap hbad hranges rfl hbytes hown _
        (run_seq _ _ _).symm⟩
  case busError =>
    intro s e ch kind addr c hchan hstate hch hfw hstop u hfew hroom i record counted
    refine ⟨fun hkind hmore => ⟨?other, ?stream⟩, ?line⟩
    case other =>
      intro hmove hmcast
      obtain ⟨h, ⟨hcount, hhistory, hspares⟩, hsame⟩ :=
        busError_idle_facts (addr := addr) hchan hstate hch hfw hstop hfew hroom hkind hmore rfl hmove hmcast (run_seq _ _ _).symm
      exact ⟨_, runs_of_perform rfl rfl, h, ⟨hcount, hhistory, hspares⟩, hsame⟩
    case stream =>
      intro off len hop hdescs src dst hhead hbad b
      have hrun := (run_busErrorAct_retry (addr := addr) hchan hstate hch hfw hkind hmore).trans
        (congrArg (chargeChannel e ch true addr).run (run_reissueTile (c := c.triedAgain) ((chan_retryEngine _ _ _ _).trans (by rw [hchan])) rfl hop hdescs rfl rfl hhead))
      obtain ⟨⟨h1, h2, h3, h4, h5, h6, h7, h8, h9⟩, hcount, hhistory, hspares⟩ :=
        tileRetried hbad ((congrArg stopCheck.run hrun).symm.trans (run_seq _ _ _).symm) hstop hfew hroom
      rw [hchan] at h1 h2 h3
      exact ⟨_, runs_of_perform rfl rfl, h1, h2, h3, ⟨hcount, hhistory, hspares⟩, h4, h5, h6, h7, h8, h9⟩
    case line =>
      rintro target l rfl hline hmore j hdescs src dst len at' hbad b
      have hrun := (run_busErrorAct_line (addr := addr) hchan hstate hch hfw hline hmore).trans
        (congrArg (chargeChannel e ch true l.addr).run (run_reissueLine (c := { c.lineAgain l with instr := l.instr, iter := l.iter })
          ((chan_retryEngine _ _ _ _).trans (by rw [hchan])) rfl rfl hdescs rfl rfl))
      obtain ⟨⟨h1, h2, h3, h4, h5, h6, h7, h8, h9⟩, hcount, hhistory, hspares⟩ :=
        tileRetried hbad ((congrArg stopCheck.run hrun).symm.trans (run_seq _ _ _).symm) hstop hfew hroom
      rw [hchan] at h1 h2 h3
      exact ⟨_, runs_of_perform rfl rfl, h1, h2, h3, ⟨hcount, hhistory, hspares⟩, h4, h5, h6, h7, h8, h9⟩
  case stop =>
    intro s e ch c x hchan hstop hat hctx hx hstays
    exact ⟨_, runs_of_perform rfl rfl, channelStop_facts hchan hstop hat hx hstays (run_seq _ _ _).symm⟩
  case patience =>
    intro s e ch slot c i h he hslot
    exact ⟨_, runs_of_perform rfl rfl, mcastPatience_facts h he (by omega) ch.isLt slot.isLt hslot _ rfl⟩

end Sys2Proof.Machine
